-- ==== Sys2Proof/Word.lean ====
section
/-! DEFINITION. The word types of the OX9618: 32-bit registers, bytes, and how bytes make numbers (R4, R169, R432). -/

namespace Sys2Proof

/-- A 32-bit register or dword (R500). -/
abbrev Word := BitVec 32

/-- A byte of host memory, flash, payload or key material. -/
abbrev Byte := BitVec 8

/-- Bits `[hi:lo]` of a number, bit 0 least significant. -/
def bits (x hi lo : Nat) : Nat := x / 2 ^ lo % 2 ^ (hi + 1 - lo)

/-- Bit `i` of a number. -/
def bit (x i : Nat) : Bool := x / 2 ^ i % 2 == 1

/-- 1 for true, 0 for false. -/
def b2n (b : Bool) : Nat := if b then 1 else 0

/-- Ceiling division. -/
def cdiv (a b : Nat) : Nat := (a + b - 1) / b

/-- The two's-complement value of the low `w` bits of `x`. -/
def sext (w x : Nat) : Int :=
  if x % 2 ^ w < 2 ^ (w - 1) then (x % 2 ^ w : Nat) else (x % 2 ^ w : Nat) - (2 ^ w : Nat)

/-- The low `w` bits of an integer, as a number. -/
def wrap (w : Nat) (x : Int) : Nat := (x % ((2 ^ w : Nat) : Int)).toNat

/-- Little-endian value of a byte string (R4). -/
def leNat : List Byte → Nat
  | [] => 0
  | b :: r => b.toNat + 256 * leNat r

/-- Big-endian value of a byte string (R422, R432). -/
def beNat (l : List Byte) : Nat := leNat l.reverse

/-- `n` bytes of a number, little-endian. -/
def toLE : Nat → Nat → List Byte
  | 0, _ => []
  | n + 1, x => BitVec.ofNat 8 x :: toLE n (x / 256)

/-- `n` bytes of a number, most significant first. -/
def toBE (n x : Nat) : List Byte := (toLE n x).reverse

/-- Bytes `lo` to `lo + n - 1`, zeros beyond the end. -/
def slice (l : List Byte) (lo n : Nat) : List Byte :=
  let p := (l.drop lo).take n
  p ++ List.replicate (n - p.length) 0

/-- Little-endian field of a record. -/
def leAt (l : List Byte) (lo n : Nat) : Nat := leNat (slice l lo n)

/-- Serial arithmetic of R106: `d` is still ahead of `now` (both 32 bits). -/
def ahead (d now : Nat) : Bool :=
  let diff := (d + 2 ^ 32 - now % 2 ^ 32) % 2 ^ 32
  decide (1 ≤ diff ∧ diff ≤ 2 ^ 31 - 1)

/-- Limit a count at `n` (a saturating counter). -/
def satN (n x : Nat) : Nat := if x ≤ n then x else n

/-- Limit an integer to `-n` to `+n`. -/
def clampI (n : Int) (x : Int) : Int := if x > n then n else if x < -n then -n else x

end Sys2Proof
end

