-- ==== Sys2Proof/Syntax.lean ====
section
/-! DEFINITION. The commands of the OX9618: one constructor for each row of spec/opcode_table.json, in its order. The table
gives the rows no operands; an operand is what the row's rule says the command brings (the value a register write carries,
the reading a pad or a sensor gives, the bytes a DMA read returned). -/

namespace Sys2Proof

/-- One command of the device. `fn` is a PCI Express function, `ph` a phase (0 to 2 for A to C), `inp` a receive input
(0 to 3 for A, B, C, N), `uid` the device's own number of a fetched ring command, `v` the dword written. -/
inductive Instr where
  -- power, reset and supplies
  | porstAssert
  | porstRelease (clksel : BitVec 2) (testen : Bool)
  | supplyMonitorReset
  | supplyMonitorResetEnd (clksel : BitVec 2) (testen : Bool)
  | husenseFall
  | husenseRise
  | holdupRecoveryReset (clksel : BitVec 2) (testen : Bool)
  | aonReset
  | deviceResetRequest (fn : Fin 8) (key : Byte)
  | deviceResetWaitEnd
  | hostLinkReset
  | functionLevelReset (fn : Fin 8)
  | d3hotEntry
  | d0Return
  | vfEnableClear
  | vfEnableSet (numVfs : Fin 8)
  | standbyRequest (fn : Fin 8)
  | listenRequest (fn : Fin 8)
  | activeRequest (fn : Fin 8)
  | activeExitFrameEnd (ph : Fin 3)
  -- start-up
  | domainPowerGood (d : Nat)
  | domainPgTimeout (d : Nat)
  | timekeepingPllLock
  /-- `reads`: fuse words whose three reads (normal, M1, M0) are given; every other word reads its array value three times -/
  | fuseShadowValid (reads : List (Nat × Word × Word × Word))
  | linkTrained (speed lanes : Nat)
  | firmwareImageVerified (image : List Byte)
  | dramTrained
  | firmwareStart
  | xatonApply (image : List Byte)
  | controlDomainsOn
  | listenReached
  -- barrier
  | laneCommaLock (lane : Fin 6)
  | laneLockTimeout (lane : Fin 6)
  /-- `samples`: converter instants or sense samples carried by the packet; `control`: it carried a control word -/
  | lanePacketCrcError (lane : Fin 6) (samples : Nat) (control : Bool)
  | laneInvalidCharacter (lane : Fin 6)
  | fiveLaneMapChange
  | vdrvPresenceChange (mv : Nat)
  | viso5PresenceChange (mv : Nat)
  | hvcorePowerGood
  -- faults, parity, configuration CRC, locks, register accesses
  | faultEvent (source : Fin 7) (item : BitVec 24)
  /-- `uid`: the ring command whose data held the error, if any -/
  | dramUncorrectable (page : BitVec 24) (uid : Option Nat)
  | relConfigWrite (source : Fin 7) (win : Bool) (v : Word)
  | relLogRead (entry : Fin 64)
  /-- offsets whose main copy, and whose shadow copy, the sweep found failing parity (a lane table entry is 0x10000 + lane) -/
  | paritySweep (mainBad shadowBad : List Nat)
  | glbCfgParityWrite (v : Word)
  | crcPass (set : Fin 4)
  | glbCrcRefWrite (set : Fin 4) (v : Word)
  | glbLockWrite (v : Word)
  | watchdogExpiry (core : Fin 4)
  | registerWrite (fn : Fin 8) (off : Nat) (v : Word) (be : BitVec 4)
  | readClear (fn : Fin 8) (off : Nat)
  -- mains sensing, tracker, timebase
  | senseSample (ph : Fin 3) (code : BitVec 18) (bad : Bool)
  | senseChannelConfig (v : Word)
  | coefWrite (v : Word)
  | coefBankSelect (bank : Bool)
  | referencePhaseSelect (ph : BitVec 2)
  | loopBandwidthSelect (lbw : BitVec 2)
  | trackerEnWrite (en : Bool)
  /-- `temp`: the sense-amplifier temperature in degrees Celsius, binary32 -/
  | senseTemperatureUpdate (ph : Fin 3) (temp : Word)
  | rmsRefresh
  /-- `ts`: the crossing at the pad; `pred`: the tracker's predicted boundary for it -/
  | zeroCrossing (ph : Fin 3) (ts pred : BitVec 64)
  /-- `ts`: the crossing as the tracker filtered it; `freq`: its frequency estimate in 2^-16 Hz -/
  | cycleBoundary (ts : BitVec 64) (freq : Word)
  | holdoverTxLimit
  | msyCidxRead
  | timebaseRead
  | timebaseStepNow
  | timebaseStepAtPps
  | rateAdjustWrite (v : Word)
  | ppsModeSelect (mode : BitVec 2)
  | ppsEdge (ts : BitVec 64) (highNs : Nat)
  | ppsLost
  -- receive chain
  | inputEnable (inp : Fin 4) (en : Bool)
  | gainWrite (inp : Fin 4) (v : Word)
  | firCoefWrite (inp : Fin 4) (v : Word)
  | firBankSwap (inp : Fin 4) (v : Word)
  | converterSample (inp : Fin 4) (code : BitVec 18) (ovr erased : Bool)
  /-- `w`, `ts`: phase word and timebase when the newest converter sample of the FIR window left the barrier; `bad`: template
  bins that failed parity when they were used -/
  | rxWorkingSample (inp : Fin 4) (w : BitVec 31) (ts : BitVec 64) (bad : List Nat)
  | blankerSeedDone (inp : Fin 4)
  | blankMaxrun (inp : Fin 4)
  /-- `bad`: the bin failed parity -/
  | templateRead (inp : Fin 4) (bad : Bool)
  | templateWrite (inp : Fin 4) (v : Word)
  -- Campion lanes
  | tonePairWrite (v : Word)
  | tonePairSwap (v : Word)
  | laneWindowSelect (v : Word)
  | laneStatusRead
  | staticLaneGo
  | laneRelease
  | laneConfigWrite (word : Fin 5) (v : Word)
  | laneApplyPoint (lane : Fin 256)
  | laneSymbolEnd (lane : Fin 256)
  | searchWindowEnd (lane : Fin 256)
  | lofTimeout (lane : Fin 256)
  -- decoder, modes, decryption
  | headerDecoded (lane : Fin 256)
  | bodyDecoded (lane : Fin 256)
  | retentionExpiry (node : BitVec 18) (seq : BitVec 12)
  | modeAnnounceExhausted (node : BitVec 18)
  | supervisionFallback (node : BitVec 18)
  /-- `ctl`, `arg`: what a MACCTL payload says, whose format the spec does not give: 0 nothing, 1 reports channel-map
  version `arg`, 2 is a wake request for agreement `arg` -/
  | frameDecrypt (fid : Nat) (ctl : Fin 3) (arg : Nat)
  | hwmCommitDone (id : Nat)
  -- transmitter
  | frameTransmitStart (job : Nat)
  /-- a copy of the transmission, counted from 0 -/
  | carrierSenseCheck (job copy : Nat)
  | frameTransmitEnd (job : Nat)
  /-- driver voltage in µV and shunt current in µA at 1.024 MS/s through symbol `k` of a transmission; `valid`: no sense sample of it was
  invalid (R15) -/
  | impedanceUpdate (ph : Fin 3) (pair : Byte) (space : Bool) (volt cur : List Int) (job k : Nat) (valid : Bool)
  | impedanceSelect (v : Word)
  | levelWrite (ph : Fin 3) (lvlMax : Bool) (v : Word)
  | overcurrentExceed (ph : Fin 3) (mA : Nat)
  | driverTempWarn (ph : Fin 3) (temp : BitVec 16)
  | thermalShutdown (ph : Fin 3) (temp : BitVec 16)
  | thermalClear (ph : Fin 3) (temp : BitVec 16)
  | vdrvLow
  | vdrvLowClear
  | ocAutoRetry (ph : Fin 3)
  | retryReload (ph : Fin 3)
  | txfClear (ph : Fin 3) (v : Word)
  -- framing and performance data
  | pmSecond
  | binFinal (obj : Nat) (day : Bool)
  | labelRouteWrite (label : BitVec 6) (v : Word)
  | laneFramingConfig (v : Word)
  -- Sorrel
  | slotCommit
  | supervisionExpiry (node : BitVec 18)
  | deadlineExpiry (uid : Nat)
  | routedReplyTimeout (uid : Nat)
  | slotSizeWrite (v : Word)
  | qaIndexSelect (v : Word)
  -- Vetch
  | routeComputeDone
  | repairHoldExpiry (a b : BitVec 18)
  | neighbourAgeExpiry (sender receiver : BitVec 18)
  | learnedEntryAgeExpiry (addr : BitVec 18)
  | vetRootWrite (v : Word)
  -- Yarrow
  | regionWrite (v : Word)
  | regionClearDone
  /-- `phase`: the phase word at the item's time; `time`, `cidx`: of a sample, its time and cycle index; what is on the wires of the tap at
  that time, `vals`, has no say: an item's values are those the engines before the tap have left -/
  | captureItem (stream : Fin 16) (time : BitVec 64) (cidx : Word) (phase : BitVec 31) (vals : List Nat)
  | chunkTimeout (stream : Fin 16)
  | playerEntryEnd (player : Fin 7)
  | playerAlignResume (player : Fin 7)
  | playerStartCycle (player : Fin 7)
  | captureEngineDisable
  | playbackEngineDisable
  | streamIndexSelect (v : Word)
  | playerIndexSelect (v : Word)
  -- Speedwell rings
  | sqDoorbell (fn : Fin 8) (sq : Fin 16) (v : Word) (whole : Bool)
  | headDoorbell (fn : Fin 8) (ring : Fin 45) (v : Word) (whole : Bool)
  | ringEnable (fn : Fin 8) (ring : Fin 45) (v : Word)
  | ringDisable (fn : Fin 8) (ring : Fin 45) (v : Word)
  | sqDrained (fn : Fin 8) (sq : Fin 16)
  /-- `desc`: the 32 bytes read; `err`: the read ended in Unsupported Request, Completer Abort or a poisoned completion -/
  | descriptorFetch (fn : Fin 8) (sq : Fin 16) (desc : List Byte) (err : Bool)
  | bankStale (fn : Fin 8) (cls : Fin 4)
  -- ring commands: `buf` is what the read of BUF returned
  | nop (uid : Nat)
  | send (uid : Nat) (buf : List Byte)
  | poll (uid : Nat) (buf : List Byte)
  | flood (uid : Nat) (buf : List Byte)
  | relay (uid : Nat) (buf : List Byte)
  | sessionOpen (uid : Nat) (buf : List Byte)
  | sessionModify (uid : Nat) (buf : List Byte)
  | sessionClose (uid : Nat)
  | sessionQuery (uid : Nat)
  | qaCommit (uid : Nat)
  | qaWithdraw (uid : Nat)
  | dirRead (uid : Nat)
  | dirWrite (uid : Nat) (buf : List Byte)
  | dirDelete (uid : Nat)
  | pmRead (uid : Nat)
  | capArm (uid : Nat) (buf : List Byte)
  | capEnd (uid : Nat)
  | capTrigger (uid : Nat)
  | capRead (uid : Nat)
  | patLoad (uid : Nat) (buf : List Byte)
  | playStart (uid : Nat)
  | playStop (uid : Nat)
  | keyLoad (uid : Nat) (buf : List Byte)
  | keyDelete (uid : Nat)
  | ccmEncrypt (uid : Nat) (buf : List Byte)
  | ccmDecrypt (uid : Nat) (buf : List Byte)
  | ctxSave (uid : Nat)
  | ctxRestore (uid : Nat)
  | ecdsaSign (uid : Nat) (buf : List Byte)
  | ecdsaVerify (uid : Nat) (buf : List Byte)
  | ecdh (uid : Nat) (buf : List Byte)
  | quote (uid : Nat) (buf : List Byte)
  -- security, fuses, store, clock
  | pkOperationDone
  | broadcastSourceWrite (n : Fin 16) (v : Word)
  /-- `env`: VDDA18 within tolerance and the junction between 0 and 85 degrees Celsius -/
  | fuseProgram (key : Byte) (env : Bool)
  | fuseProgramDone (m1 m0 : Word)
  | nvsWriteDone (verified : Bool)
  | nvsScanDone
  | nvsRotationRewrite (bank : Fin 2048)
  | nvsAllowanceResume (bank : Fin 2048)
  | rtcSnapshotRead
  | rtcCommit (go : Bool)
  | rtcCommitApply
  | aonSourceChange (vio33 vbat : Nat)
  | tamperOpen (loop : Fin 2)
  -- UART, I²C, SPI
  | uartCharacterReceived (data : BitVec 9) (parity stop : Bool)
  /-- `collided`: a read-back bit differed; `data`, `parity`, `stop`: the character as the line carried it -/
  | uartCharacterSent (collided : Bool) (data : BitVec 9) (parity stop : Bool)
  | uartTxdWrite (v : Word)
  | uartRxdRead
  | uartResume
  | uartFlushRx
  | uartFlushTx
  | i2cGo (v : Word)
  /-- `sent`: write bytes sent; `recv`: bytes received -/
  | i2cTransactionDone (result : Fin 8) (sent : Nat) (recv : List Byte)
  | i2cSclTimeout (sent : Nat) (recv : List Byte)
  | i2cDisable (v : Word)
  /-- `pulses`: SCL pulses after which SDA read high, 0 when it was high at once, none when it never did -/
  | i2cBusClear (pulses : Option Nat)
  | i2cWdataWrite (v : Word)
  | i2cRdataRead
  | spiFlashGo (v : Word)
  | spiFlashDone (data : List Byte) (err : Bool)
  | spiTargetRead (off : BitVec 16) (words : Nat)
  | spiTargetWrite (opcode : Byte) (off : BitVec 16) (edges : Nat) (words : List Word)
  | spiHostPost
  -- Jiroth ring; times in 0.1 ns where a packet's departure and arrival are stamped
  | jirothLaneLock (lane : Fin 2)
  | jirothSegmentFail
  | jirothRetrain
  | jirothEnum (src counter : Nat)
  | jirothTiming (src : Nat) (cidx : Word) (zcts : BitVec 64) (slotC : BitVec 2) (dep arr resid : Nat)
      (swap : Option (Word × Word))
  | jirothTimingLost
  | jirothBoundary (src : Nat) (cidx : Word) (zcts : BitVec 64)
  | jirothEvent (src : Nat) (num : Fin 16) (time : BitVec 64)
  /-- `costs`: node, route cost of the sending device; `reports`: receiver, sender, snr in 0.5 dB, er, rt -/
  | jirothRoute (src : Nat) (costs : List (Nat × Nat)) (reports : List (Nat × Nat × Int × Nat × Nat))
  | jirothBreak (pos : Nat)
  | jirothPacketCrcError (lane : Fin 2)
  -- clocks, interrupts
  | refSourceLost
  | refRelock
  | islandUnlock (i : Fin 10)
  | islandRelock (i : Fin 10)
  | islandRelockTimeout (i : Fin 10)
  | x32Stop
  /-- `what`: 0 MSI-X Enable set, 1 Function Mask cleared, 2 mask of `vec` cleared -/
  | msixUnmask (fn : Fin 8) (what : Fin 3) (vec : BitVec 5)
  /-- `uid`: the command whose buffer read timed out; none: the descriptor fetch of SQ `sq` -/
  | completionTimeout (fn : Fin 8) (sq : Fin 16) (uid : Option Nat)
  deriving DecidableEq, Repr

end Sys2Proof
end

