-- ==== Sys2Proof/Config.lean ====
section
/-! DEFINITION. What the spec leaves to the part or leaves open: constants without a body. Nothing in Lean can evaluate one,
so a claim that holds of the model holds for every value. -/

namespace Sys2Proof

/-- The `n`-th free value of the machine's run, `w` bits: random draws, measured and unstated values (log entry 10). -/
opaque Config.freeBits (w n : Nat) : BitVec w

/-- Digest of the boot ROM, 384 bits (R439 measures it; the spec prints no value; log entry 11). -/
opaque Config.romDigest : BitVec 384

/-- Vendor identifier of Ailaund Microsystems (R344 names it without a value; log entry 12). -/
opaque Config.vendorId : BitVec 16

/-- Which of two equal survivors the decoder keeps, at a step and state (R178 does not say; log entry 15). -/
opaque Config.viterbiTie (t q : Nat) : Bool

/-- Coefficient `i` of the first half of the built-in receive filters F4 and F2 (the spec gives their responses and no coefficients; log
entry 13). -/
opaque Config.romTap (two : Bool) (i : Nat) : BitVec 18

/-- SHIFT of the built-in receive filters (log entry 13). -/
opaque Config.romScale (two : Bool) : BitVec 4

/-- Where the spec gives a quotient no rounding: it is rounded up at this place, numerator and denominator (log entry 26). -/
opaque Config.roundUp (place : Nat) (num : Int) (den : Nat) : Bool

/-- The lane oscillator rounds its cosine, or its sine, of a 32-bit phase up (R146 gives the format, not the rounding; log entry 14). -/
opaque Config.oscUp (cosine : Bool) (phase : Nat) : Bool

/-- Byte 14 of a mains event: phase, kind (0 sag, 1 swell, 2 loss) and raise in one byte (R369 names them without a layout;
log entry 27). -/
opaque Config.mainsEventByte (phase kind : Nat) (raised : Bool) : BitVec 8

/-- TYPE of the event record of a void cycle, which R113 asks for and R369 does not list (log entry 89). -/
opaque Config.phaseStepType : BitVec 16

/-- The conservative trim default of a fuse word, held in the boot ROM (R429 prints no value; log entry 11). -/
opaque Config.trimDefault (w : Nat) : BitVec 32

/-- Payload of a MACCTL frame to a node: the items it says, each a code and its values (R224 names its uses without a format; log entry 39). -/
opaque Config.macctl (node : Nat) (say : List (List Nat)) : List (BitVec 8)

/-- The firmware's channel-map decision for a session at an epoch boundary: pairs and phases, none: no change (R23 gives its inputs and
limits, not its rule; log entry 102). -/
opaque Config.mapDecision (n : Nat) : List (Nat × Nat)

/-- A band power meter's reading in dBµV rms: the 1,024 samples after Teasel of one millisecond, newest first, the gain step, and the tones
that bound the band (R273 names the meter, not its filter; log entry 129). -/
opaque Config.bandLevel (lo hi gain : Nat) (samples : List Int) : Nat

end Sys2Proof
end

