-- ==== Sys2Proof/Machine/State.lean ====
section
/-! DEFINITION. The state of the OX9618 as plain data. Every stored BAR0 register lives in `State.regs` (an offset that is not
listed holds its reset value, `resetValue` of RegMap.lean); everything the spec gives the device beside its registers is a
field below, each with the rule that names it. Indexed families are finite maps with a default, so equal states are equal data. -/

namespace Sys2Proof.Machine

/-- A finite map from numbers, keys strictly rising. -/
abbrev FMap (α : Type) := List (Nat × α)

/-- What leaves the device, in order: the model's own record of its outputs (log entry 8). -/
inductive Output where
  /-- a write to host memory of one function (R350, R351, R362, R368, R369) -/
  | hostWrite (fn addr : Nat) (data : List Byte)
  /-- an MSI-X message (R372, R373) -/
  | msix (fn vec addr data : Nat)
  /-- one copy of a frame begins on a channel: amplitude word, start phase in 2^-32 turns, symbols per cycle, OFS and its symbols, of which
  symbol k begins at phase word (k × P / M + OFS) mod P (R169, R170, R183, R196, R197, R199, R200) -/
  | line (job copy ph pair amp phase m ofs : Nat) (symbols : List Bool)
  /-- a wake preamble: tone, amplitude word, and its bits at M = 24 and OFS = 0, the silent ones of the gap with them (R209) -/
  | wake (job ph tone amp : Nat) (keyed : List Bool)
  /-- the amplitude word of a phase's channels moves along a ramp of 256 samples (R203, R214) -/
  | amplitude (ph amp : Nat)
  /-- a driver moves to high impedance (1), driven zero (2) or driving (3) at an elapsed time (R211) -/
  | driver (ph state at_ : Nat)
  /-- a copy ends; `cut`: before its last symbol -/
  | lineEnd (job copy : Nat) (cut : Bool)
  /-- DAC samples of a lost packet are output as zero (R15) -/
  | dacZero (lane n : Nat)
  /-- control words sent again on a barrier lane (R15) -/
  | resend (lane n : Nat)
  /-- filler on a continuous channel from one frame to the next: the lengths of its frames, its idle cells, and all its symbols (R227, R228) -/
  | filler (ph pair : Nat) (frames : List Nat) (cells : Nat) (symbols : List Bool)
  /-- a Jiroth packet: type, source position, departure field in 0.1 ns (none: a forwarded packet's field that no rule rewrites) and contents
  (R488, R490) -/
  | jiroth (type src : Nat) (dep : Option Nat) (content : List Nat)
  /-- the bits of a UART character as the line carries them, from its start bit on, and the cycles of the 100 MHz clock in a bit (R470) -/
  | uart (bits : List Bool) (cycles : Nat)
  /-- a bus clear: SCL pulses, and whether a STOP followed (R480) -/
  | i2cClear (pulses : Nat) (stop : Bool)
  /-- an I²C transaction: address, bytes written, bytes to read (R477) -/
  | i2c (addr : Nat) (wr : List Byte) (rlen : Nat)
  /-- a flash command: opcode, address, data or length (R482) -/
  | flash (op addr len : Nat) (data : List Byte)
  /-- the pads of the four ports are driven, or are high impedance and not driven (R468) -/
  | portPads (driven : Bool)
  /-- words shifted out of the SPI target port (R483) -/
  | spiOut (status : Nat) (words : List Word)
  deriving DecidableEq, Repr

/-- Pins and supplies as the device sees them. -/
structure Pins where
  /-- PORST# is low (R68) -/
  porstLow : Bool := true
  /-- a power-on reset is in force (R68, R71) -/
  inReset : Bool := true
  /-- the reset in force is one the internal monitor causes (R71) -/
  monitorReset : Bool := false
  /-- TESTEN was sampled high (R37) -/
  testHalt : Bool := false
  /-- VDRV and VISO5 are present (R46) -/
  vdrv : Bool := false
  viso5 : Bool := false
  /-- VDRV is below 12.0 V, until it rises above 12.2 V (R214) -/
  vdrvLow : Bool := false
  /-- HVCORE power good (R44, R46) -/
  hvPg : Bool := false
  /-- HUSENSE is above its threshold (R55) -/
  husenseHigh : Bool := true
  /-- PFW# is driven low (R55, R56) -/
  pfwLow : Bool := false
  /-- VIO33 counts as present (R464) -/
  vio33 : Bool := false
  /-- a power-on reset has completed since PFW# was driven low (R56) -/
  pfwReset : Bool := false
  /-- elapsed time at which HUSENSE last rose while PFW# was low (R56) -/
  husenseRose : Option Nat := none
  /-- phases whose coupling network is fitted, bit per phase (R52, R54; log entry 4) -/
  coupled : BitVec 3 := 7
  deriving DecidableEq, Repr

/-- What a phase waits for before it may transmit again. -/
inductive Resume where
  | now | slot | epoch
  deriving DecidableEq, Repr

/-- Power-state changes in progress (R62 to R65) and the device reset being waited for (R69). -/
structure Power where
  /-- leaving Active: phases mute at the end of their frames (R64) -/
  leaving : Bool := false
  /-- the change goes on to Standby (R65) -/
  toStandby : Bool := false
  /-- drivers have power good; Active takes effect at the next slot boundary (R63) -/
  armed : Bool := false
  /-- phases waiting for a slot or an epoch boundary (R63, R85, R111, R215, R216) -/
  resume : FMap Resume := []
  /-- elapsed time of the write of GLB_RESET (R69) -/
  resetAt : Option Nat := none
  /-- a watchdog expired: muted from the next slot boundary (R27) -/
  watchdog : Bool := false
  /-- the slot boundary after the watchdog has come -/
  watchdogMute : Bool := false
  deriving DecidableEq, Repr

/-- The PCI Express configuration space, as far as the spec gives it an effect (R341 to R345, R373). -/
structure Pcie where
  /-- the link is up, at this speed and with this many lanes (R72 step 5, R346) -/
  up : Bool := false
  speed : Nat := 0
  lanes : Nat := 0
  /-- configuration requests receive Configuration Request Retry Status (R72) -/
  retry : Bool := true
  numVfs : Nat := 0
  vfEnable : Bool := false
  d3hot : Bool := false
  subVendor : Nat := 0
  subId : Nat := 0
  /-- the link has dropped to two lanes until the next power-on reset (R79) -/
  twoLanes : Bool := false
  /-- MSI-X Enable and Function Mask, bit per function -/
  msixEn : BitVec 8 := 0
  fnMask : BitVec 8 := 0
  /-- masked vectors per function, unlisted: all masked (log entry 5) -/
  vecMask : FMap Word := []
  /-- pending bits per function -/
  pba : FMap Word := []
  /-- addresses and data of the MSI-X table: key function × 128 + 4 × vector + dword (R345, R373) -/
  table : FMap Word := []
  /-- the round-robin of the fetch: the function visited last, and the SQ visited last of each (R367; log entry 105) -/
  visitFn : Nat := 7
  visitSq : FMap Nat := []
  deriving DecidableEq, Repr

/-- A Xaton record that waits for its block's domain (R437, R438). -/
inductive XRec where
  | reg (off : Nat) (v : Word)
  | coef (ph : Nat) (cs : List Word)
  | tonePair (bank first : Nat) (entries : List Word)
  | subsys (vendor id : Nat)
  | ref (set : Nat) (v : Word)
  | lock (v : Word)
  deriving DecidableEq, Repr

/-- Boot, fuses and measurement (R428 to R443). -/
structure Boot where
  /-- the fuse array: blown bits per word (R428; log entry 6) -/
  fuses : FMap Word := []
  resolved : FMap Word := []
  /-- marginal words (R429) -/
  marg : List Nat := []
  /-- OTP_WSTAT.SRC per word, unlisted 0 -/
  src : FMap Nat := []
  shadowOk : Bool := false
  fwOk : Bool := false
  dramOk : Bool := false
  running : Bool := false
  /-- the Xaton image as verified, for the return from Standby (R438) -/
  xaton : List XRec := []
  /-- records held for a domain not yet on, in image order -/
  held : List XRec := []
  /-- measurement slots as 384-bit numbers, digest byte 0 most significant (R439) -/
  meas : FMap Nat := []
  /-- fuse programming in progress: word and data (R431) -/
  pgm : Option (Nat × Word) := none
  deriving DecidableEq, Repr

/-- One end of a barrier lane (R44, R15 to R17). -/
structure BLane where
  locked : Bool := false
  lasting : Bool := false
  /-- control words not yet acknowledged -/
  resend : Nat := 0
  deriving DecidableEq, Repr

/-- The window of one fault source and item: newest first (R75, R516). -/
structure History where
  times : List Nat := []
  raw : Nat := 0
  deriving DecidableEq, Repr

/-- Fault windows and the fault log (R75 to R79, R516, R517). -/
structure Rel where
  /-- the high-voltage side is lost (R17) -/
  hvLost : Bool := false
  /-- the five-lane map is in force (R16) -/
  fiveLane : Bool := false
  /-- key: source × 2^24 + item -/
  hist : FMap History := []
  /-- DRAM pages tracked, the page of the newest event first (R76) -/
  pages : List Nat := []
  retired : List Nat := []
  /-- timebase of the last lasting fault of source 4 (R76) -/
  lastLink : Option Nat := none
  log : FMap (List Word) := []
  snap : FMap (List Word) := []
  deriving DecidableEq, Repr

/-- A block instance in its safe action (R80, R81, R514). -/
structure SafeAct where
  block : Nat
  /-- input, lane or function; 0xFFFF: the whole block -/
  inst : Nat
  /-- leaves at the next epoch boundary -/
  leaving : Bool := false
  /-- held until every register is rewritten and GLB_CFG_PARITY is written -/
  held : Bool := false
  deriving DecidableEq, Repr

/-- Configuration parity (R80, R81). -/
structure Parity where
  mainBad : List Nat := []
  shadowBad : List Nat := []
  acts : List SafeAct := []
  deriving DecidableEq, Repr

/-- Passes over the covered sets (R82 to R85, R506), bit per set. -/
structure Crc where
  /-- matching passes in a row since the last mismatch, per set, at most 2 -/
  run : FMap Nat := []
  /-- sets that have matched at least once -/
  matched : BitVec 4 := 0
  /-- a mismatch mutes every phase (R85) -/
  mute : Bool := false
  /-- set 1 mismatched since its last two matching passes (R382) -/
  tenBad : Bool := false
  deriving DecidableEq, Repr

/-- One sag, swell or loss event of a phase (R97, R99). -/
structure EvtRun where
  raised : Bool := false
  /-- consecutive refreshes that meet the raise, and the clear, condition -/
  on : Nat := 0
  off : Nat := 0
  onset : Nat := 0
  extreme : Nat := 0
  deriving DecidableEq, Repr

/-- One sense channel and its phase (R89 to R100). -/
structure MPhase where
  /-- stage 3 outputs still to be marked invalid (R90) -/
  skip : Nat := 0
  /-- temperature in degrees Celsius, binary32 (R92; log entry 7) -/
  temp : Word := 0x41C8_0000
  /-- linearised samples of the group of eight being decimated, newest first; none: invalid (R89 stage 6) -/
  lin : List (Option Int) := []
  /-- filtered mains samples of the current rms window, newest first, and how many came since the last refresh -/
  win : List (Option Int) := []
  half : Nat := 0
  /-- rms and time of the most recent refreshes, newest first, up to 31 (R97) -/
  rms : List (Nat × Nat) := []
  sag : EvtRun := {}
  swell : EvtRun := {}
  loss : EvtRun := {}
  lastCross : Option Nat := none
  /-- cycles in a row with an accepted crossing, up to 16 (R103) -/
  okRun : Nat := 0
  crossed : Bool := false
  deriving DecidableEq, Repr

/-- The PPS servo (R116, R117). -/
structure Pps where
  last : Option Nat := none
  good : Nat := 0
  bad : Nat := 0
  /-- a timebase step waits for the next accepted edge -/
  armed : Bool := false
  /-- phase still to be slewed, in 2^-32 ns -/
  slew : Int := 0
  /-- lock was lost and the servo holds its last rate -/
  held : Bool := false
  deriving DecidableEq, Repr

/-- Mains sensing, tracker and timebase (chapter 04). -/
structure Mains where
  ph : FMap MPhase := []
  /-- linearisation coefficients, key bank × 72 + phase × 24 + i × 4 + j, unlisted: the defaults of R94 -/
  coef : FMap Word := []
  /-- banks written since reset, bit 2 × phase + bank (R93, R94) -/
  bankWritten : BitVec 6 := 0
  /-- crossing intervals, newest first (R101) -/
  intervals : List Nat := []
  acquiring : Bool := false
  lockRun : Nat := 0
  errRun : Nat := 0
  missRun : Nat := 0
  /-- the tracker has locked since the index was last reset (R104) -/
  everLocked : Bool := false
  /-- periods completed under lock, newest first, up to 16 (R110) -/
  periods : List Nat := []
  /-- timebase of the boundary that began the current cycle (R107), and the timebase steps made since (R116) -/
  zc : Nat := 0
  stepped : Int := 0
  /-- frequency at that boundary in 2^-16 Hz (R107) -/
  freq : Word := 0
  /-- frozen offset of the reference phase, ns (R103) -/
  offset : Int := 0
  /-- lock regained and its first crossing not yet seen (R113) -/
  regain : Bool := false
  /-- boundary error still to be slewed, ns (R113) -/
  slew : Int := 0
  /-- lengthening of the next cycle, ns (R113) -/
  lengthen : Nat := 0
  voidNow : Bool := false
  /-- an accepted crossing since the last boundary -/
  crossed : Bool := false
  /-- cycles since LOCK was set, up to 64 (R135) -/
  lockedFor : Nat := 0
  refPend : Option Nat := none
  lbwPend : Option Nat := none
  /-- loop bandwidth in effect (R101) -/
  lbw : Nat := 1
  /-- elapsed ns counted by the timekeeping clock, whatever the timebase is stepped by (R272) -/
  elapsed : Nat := 0
  running : Bool := false
  tb : BitVec 64 := 0
  frac : BitVec 32 := 0
  pps : Pps := {}
  deriving DecidableEq, Repr

/-- A sample in the blanker's fixed delay of 32 (R140), with its mark (R125). -/
structure DlySample where
  val : Int
  mark : Nat
  /-- phase word, cycle index and timebase at the pads (R120); hold-over and void flags (R102) -/
  w : Nat := 0
  cidx : Nat := 0
  ts : Nat := 0
  hold : Bool := false
  isVoid : Bool := false
  /-- Teasel's e over 64 × q, and the RES it was taken at; none: Teasel has not seen the sample (R133) -/
  e : Option (Int × Nat) := none
  deriving DecidableEq, Repr

/-- One receive input (chapter 05). -/
structure RxIn where
  /-- converter samples, newest first, with mark and gain step -/
  line : List (Int × Nat × Nat) := []
  /-- converter instants since the last output -/
  phase : Nat := 0
  gain : Nat := 0
  gainPend : Option Nat := none
  /-- the pending gain is a decision of the firmware: GAIN before it and its measured input (R26, R123) -/
  gainWhy : Option (Nat × Nat) := none
  /-- scaling of the template waits for a window wholly at the new gain: old and new gain -/
  scale : Option (Nat × Nat) := none
  coef : FMap Word := []
  /-- outputs still carrying the front mark (R124), and converter instants until the converter has settled (R121) -/
  settle : Nat := 0
  warm : Nat := 0
  /-- hold-over and void flags of the newest sample of the current cycle -/
  flags : Bool × Bool := (false, false)
  swapBank : Nat := 0
  swapKeep : Bool := false
  /-- cycle in which the pending swap was accepted (R130) -/
  swapAt : Nat := 0
  /-- template: value in 2^-6 codes and update count per bin (R133) -/
  tmpl : FMap (Int × Nat) := []
  mu : Nat := 10
  res : Nat := 1
  /-- blanker mean square, code² (R139) -/
  m : Nat := 0
  /-- valid samples still needed to seed m, and their sum of squares; m has been seeded and triggering runs -/
  seed : Nat := 256
  seedSum : Nat := 0
  seeded : Bool := false
  dly : List DlySample := []
  /-- samples still to be blanked after a trigger -/
  post : Nat := 0
  /-- length of the current blanked run; of the last one, and the samples since its end (R141) -/
  run : Nat := 0
  lastRun : Nat := 0
  since : Nat := 0
  /-- squares of the newest 256 samples, newest first (R141) -/
  sq : List Nat := []
  overEpoch : Bool := false
  peakEpoch : Nat := 0
  /-- sums over the epoch for R138: x², y², subtracted and valid samples -/
  sumX : Nat := 0
  sumY : Nat := 0
  subCnt : Nat := 0
  validCnt : Nat := 0
  /-- sums over the cycle for RXF_RMS_x and LOS -/
  cycSq : Nat := 0
  cycValid : Nat := 0
  cycLink : Nat := 0
  cycAll : Nat := 0
  losOn : Nat := 0
  losOff : Nat := 0
  los : Bool := false
  /-- timebase and cycle index of the raise (R233) -/
  losOnset : Nat × Nat := (0, 0)
  /-- the samples after Teasel of the millisecond in progress, and the readings of the eight bands' meters, newest first (R273) -/
  csNow : List Int := []
  csLevel : List (List Nat) := []
  deriving DecidableEq, Repr

/-- One eighth of a symbol as a lane's two correlators of one input dump it (R147): mark and space sums, valid and all samples. -/
structure Eighth where
  mr : Int := 0
  mi : Int := 0
  sr : Int := 0
  si : Int := 0
  valid : Nat := 0
  all : Nat := 0
  /-- a sample of it carried the void flag, or the hold-over flag -/
  isVoid : Bool := false
  hold : Bool := false
  deriving DecidableEq, Repr

/-- One input of a running lane (R146, R147, R152). -/
structure Slot where
  /-- working-rate samples since the start: the oscillators' phase is n × 2^20 × this -/
  nsamp : Nat := 0
  /-- the eighth in progress, k × 8 + j, with the cycle it is labelled with and its newest sample's time at the pads -/
  idx : Option Nat := none
  cidx : Nat := 0
  ts : Nat := 0
  acc : Eighth := {}
  /-- eighths dumped, newest first; how many since the last symbol ended -/
  dumps : List Eighth := []
  since : Nat := 0
  /-- a symbol has ended and is not yet judged: its cycle index, k and time -/
  ended : Option (Nat × Nat × Nat) := none
  /-- the symbol in progress began before the lane's alignment -/
  skip : Bool := false
  deriving DecidableEq, Repr

inductive LaneSt where
  | off | search | track
  deriving DecidableEq, Repr

inductive FrSt where
  | idle | hunt | presync | sync
  deriving DecidableEq, Repr

/-- One decision as the framer and the decoder use it (R165, R179). -/
structure Dec where
  u : Int
  erased : Bool
  k : Nat
  cidx : Nat
  ts : Nat
  /-- in hold-over (R165, R315) -/
  hold : Bool := false
  deriving DecidableEq, Repr

/-- A frame or copy in reception on a lane. -/
structure RxFrame where
  mode : Nat := 0
  /-- time, cycle index and symbol index of the last decision of the sync word, and whether it fell in hold-over; OFS_EST there (R223,
  R315) -/
  ts : Nat := 0
  cidx : Nat := 0
  k : Nat := 0
  hold : Bool := false
  ofs : Nat := 0
  /-- header and body decisions, in order of arrival -/
  hdr : List Dec := []
  body : List Dec := []
  /-- the decoded header H[95:0] -/
  h : Option Nat := none
  /-- the sync word lay at an expected position (R222); the copy's header values are in the decode that passed (R185) -/
  expd : Bool := false
  contrib : Bool := false
  /-- its header has been decoded without passing (R185) -/
  tried : Bool := false
  deriving DecidableEq, Repr

/-- A reception that the framer has ended and the decoder has not finished: its lane, whether the lane is static, its profile, M
code and use, and 10 log10 of the sum of its ŝ in 2^-16 dB (R190, R220). -/
structure Recep where
  lane : Nat
  isStatic : Bool := false
  prof : Nat := 0
  m : Nat := 0
  use : Option (Nat × Nat) := none
  snr : Int := 0
  rx : RxFrame := {}
  deriving DecidableEq, Repr

/-- One Campion lane with its framer (chapters 06 and 09). -/
structure Lane where
  w0 : Word := 0x4000_0000
  w1 : Word := 0
  w2 : Word := 0x4808_0430
  w3 : Word := 0x0000_0300
  w4 : Word := 0
  st : LaneSt := .off
  /-- started and waiting for its apply point: cycle index and symbol (R162) -/
  apply : Option (Nat × Nat) := none
  mark : Nat := 0
  space : Nat := 0
  slots : List Slot := []
  nHat : List Word := [0, 0, 0]
  sHat : List Word := [0, 0, 0]
  /-- the lane measures its noise over the first four periods after its start (R158) -/
  seeding : Bool := false
  /-- pair and time of its last detection event (R157) -/
  detEvent : Option (Nat × Nat) := none
  /-- symbol periods in SEARCH; the Q of the eight alignments in the last periods, newest first, and |E_m − E_s| there of
  each input with v = 1 (R157, R158) -/
  periods : Nat := 0
  qs : List (List Word) := []
  diffs : List (List (List (Option Word))) := []
  ofsAct : Nat := 0
  ofsEst : Nat := 0
  /-- symbols in the timing block and its sums early, on time, late (R160); the last symbol's late window is still open -/
  blk : Nat := 0
  lateDue : Bool := false
  eEarly : Word := 0
  eOn : Word := 0
  eLate : Word := 0
  lost : Nat := 0
  /-- the next decision is the first after a timing move (R160) -/
  tFlag : Bool := false
  /-- M × f exceeds the pair's spacing in the symbol in progress (R155) -/
  spc : Bool := false
  /-- the same of the symbol that has just ended -/
  spcEnd : Bool := false
  safe : Bool := false
  withdraw : Option Nat := none
  lastW : Nat := 0
  lastS : Bool := false
  lastH : Bool := false
  delivered : Nat := 0
  /-- the 64-bit record of the last decision delivered (R165) -/
  record : BitVec 64 := 0
  /-- LFR_LANE_CFG of the lane, and what Sorrel loaded there last (R245) -/
  cfg : Word := 0x0000_00F0
  loaded : Word := 0x0000_00F0
  fst : FrSt := .idle
  miss : Nat := 0
  passing : Nat := 0
  /-- symbols in TRACK without SYNC (R230) -/
  oof : Nat := 0
  /-- newest decisions, newest first (R221) -/
  hist : List Dec := []
  rx : Option RxFrame := none
  /-- decisions since the last frame's end or the last miss, and where a sync word is expected: 0 nowhere, 1 after a frame, 2 after a
  miss (R222, R229) -/
  since : Nat := 0
  expect : Nat := 0
  lol : Bool := false
  lof : Bool := false
  plm : Bool := false
  plmRun : Nat := 0
  /-- per defect code: timebase and cycle index of its raise (R233) -/
  onsets : FMap (Nat × Nat) := []
  /-- phase of the channel Sorrel listens on; 3: none -/
  ph : Nat := 3
  /-- Sorrel's use of the lane: the exchange's job and copy (none for contention) -/
  use : Option (Nat × Nat) := none
  /-- erased and delivered decisions, and frame outcomes, of the current second (R236) -/
  secErased : Nat := 0
  secDec : Nat := 0
  secFrames : Nat := 0
  secBad : Nat := 0
  secActive : Bool := false
  /-- every included input had LOS at some time in the second -/
  secLos : Bool := false
  deriving DecidableEq, Repr

/-- A frame the decoder has finished with, waiting for the cipher engine or the label routing (R181, R225). -/
structure DecFrame where
  h : Nat
  payload : List Byte
  outcome : Nat
  lane : Nat
  mode : Nat
  ts : Nat
  cidx : Nat
  k : Nat
  /-- its timestamp fell in hold-over (R315) -/
  hold : Bool := false
  copies : Nat := 1
  ofs : Nat := 0
  snr : Int := 0
  erased : Nat := 0
  decisions : Nat := 0
  /-- the job whose reply it may be -/
  job : Option Nat := none
  /-- every lane whose copy was used; the lane is static; its profile (R226, R235) -/
  lanes : List Nat := []
  isStatic : Bool := false
  prof : Nat := 0
  /-- waits for a high-water commit: counter accepted, and the broadcast source entry it came from (R407) -/
  ctr : Option Nat := none
  brx : Option Nat := none
  plain : List Byte := []
  /-- what its MACCTL payload says, held over a high-water commit: kind and argument -/
  ctl : Nat × Nat := (0, 0)
  deriving DecidableEq, Repr

/-- A retention entry (R186, R187). -/
structure Retain where
  node : Nat
  fn : Nat
  /-- the six items: SRC, DST, SEQ, LABEL, LEN (the session is `node`) -/
  key : List Nat
  acc : List Int
  count : Nat
  cidx : Nat
  deriving DecidableEq, Repr

/-- A channel: tone pair and phase. -/
structure Chan where
  pair : Nat
  ph : Nat
  deriving DecidableEq, Repr

/-- A channel-map change being announced (R255). -/
structure MapChange where
  map : List Chan
  ver : Nat
  /-- cycle index of the epoch boundary Q, once announced -/
  q : Option Nat := none
  confirmed : Bool := false
  split : Bool := false
  hopKey : Option Nat := none
  deriving DecidableEq, Repr

/-- A session (R250), with what Sorrel and the firmware keep beside it. -/
structure Session where
  node : Nat
  fn : Nat
  kind : Bool := false
  /-- 0 ACTIVE, 1 LOST, 2 CLOSING -/
  state : Nat := 0
  m : Nat := 0
  mode : Nat := 0
  modeSet : Nat := 1
  map : List Chan := []
  mapVer : Nat := 0
  hopKey : Nat := 0
  prof : Nat := 0
  ivl : Nat := 0
  anchor : Nat := 0
  supvT : Nat := 0
  retry : Nat := 0
  replyLen : Nat := 0
  rGap : Nat := 0
  drift : Nat := 0
  ofsN : Nat := 0
  tAuth : Nat := 0
  cAuth : Nat := 0
  group : Nat := 0
  wakeTone : Nat := 0
  wakeCode : Nat := 0
  /-- the guard age counts as reaching G_MAX until an authenticated frame (R251) -/
  maxAge : Bool := false
  /-- the session-opening frame is still to be answered (R408) -/
  opening : Bool := true
  /-- Ngasen event counter (R254) -/
  events : Nat := 0
  /-- announced mode and frames that carried it (R192) -/
  pend : Option (Nat × Nat) := none
  /-- measured input of the announced decision as it was taken, 0 for a host decision (R26, R358, R531) -/
  pendIn : Nat := 0
  /-- a confirmed mode waits for the session's next event to take effect: the old mode, the new and the input (R26, R192) -/
  effect : Option (Nat × Nat × Nat) := none
  /-- the host's channel-map allowance: the map of its last block (R23, R357) -/
  allow : List Chan := []
  fallback : Bool := false
  mapChg : Option MapChange := none
  /-- parameter bytes waiting for the epoch boundary: mask and block (R25, R358) -/
  modify : Option (Nat × List Byte) := none
  /-- last 16 receptions: SNR in 2^-16 dB, erased, decisions (R190) -/
  rxs : List (Int × Nat × Nat) := []
  /-- last 16 exchanges: needed a retransmission -/
  exs : List Bool := []
  sinceChg : Nat := 0
  chgCidx : Nat := 0
  supv : Bool := false
  authd : Bool := false
  plm : Bool := false
  plmRun : Nat := 0
  /-- last 16 frames from the node: failed (R230) -/
  auths : List Bool := []
  /-- frames in a row that authenticated, up to 16 (R230) -/
  authRun : Nat := 0
  onsets : FMap (Nat × Nat) := []
  secFrames : Nat := 0
  secBad : Nat := 0
  secErr : Bool := false
  /-- its status record at the last slot boundary (R359) -/
  snap : List Byte := []
  /-- cancellation or wake delivery still to be carried: agreement (R270) -/
  wake : Option Nat := none
  deriving DecidableEq, Repr

/-- A quiet agreement (R268 to R270). State: 1 announced, 2 in force, 3 ending; 4 cancelled and 5
over, both still carried in beacons. -/
structure Quiet where
  state : Nat
  group : Nat
  c : Nat
  dur : Nat
  win : Nat
  /-- zero-crossing timestamp of cycle C, once it has come (R107, R270) -/
  cz : Option Nat := none
  /-- first cycle of the wake window in which the members are told what a wake request led to (R270) -/
  tell : Option Nat := none
  /-- cycle at which it ends early, and until which a record is carried -/
  endAt : Option Nat := none
  carryTo : Option Nat := none
  deriving DecidableEq, Repr

/-- One charged interval of a band and phase, in elapsed ns (R272). -/
structure Charge where
  /-- job and copy -/
  id : Nat
  copy : Nat := 0
  band : Nat
  ph : Nat
  t0 : Nat
  t1 : Nat
  deriving DecidableEq, Repr

/-- The period for which a continuous beacon channel has been admitted on a phase, by its beacon's job, in elapsed ns (R227, R267). -/
structure ContSpan where
  ph : Nat
  job : Nat
  t0 : Nat
  t1 : Nat
  deriving DecidableEq, Repr

/-- What a transmission is for. -/
inductive JobKind where
  | command (uid : Nat)
  | rescue (node : Nat)
  | opening (node : Nat)
  /-- a MACCTL frame that announces: a channel map, agreements, what a wake request led to -/
  | announce (node : Nat)
  | beacon
  | flood (uid : Option Nat)
  | player (uid player : Nat)
  /-- filler on the continuous channels (R227) -/
  | filler
  deriving DecidableEq, Repr

inductive CopySt where
  | planned | onAir | done | silent | withdrawn | cut
  deriving DecidableEq, Repr

/-- What a synthesiser channel sends (R195 to R199, R209); times in elapsed ns. -/
structure Signal where
  /-- first sample's time, ramp or preamble included -/
  t0 : Nat
  /-- start of each symbol of the frame, and the end of the last: those not yet begun follow the phase word of each new cycle (R102, R197) -/
  starts : List Rat
  /-- the length of a cycle when the frame began -/
  cyc : Rat
  m : Nat
  bits : List Bool
  /-- tone indices of a 1 and a 0 -/
  mark : Nat
  space : Nat
  /-- wake tone and keyed bits ahead of the frame (R209) -/
  wake : Option (Nat × List Bool) := none
  /-- symbols up to the end of its sync word (R261) -/
  syncLen : Nat := 0
  /-- accumulator at the first sample (R199) -/
  phase : Nat := 0
  /-- the amplitude rises at the first symbol and falls after the last; on a continuous channel frames join (R198, R227) -/
  rise : Bool := true
  fall : Bool := true
  /-- cut off: when, and whether with a ramp (R197, R211) -/
  stop : Option (Nat × Bool) := none
  deriving DecidableEq, Repr

/-- One copy of a planned or running transmission (R182, R183). -/
structure Copy where
  ch : Chan
  /-- start and end in elapsed ns, ramps included -/
  t0 : Nat
  t1 : Nat
  /-- the cycle from whose boundary its phase-word counts run, those of its first sample and of its first symbol, and its symbols (R102,
  R197) -/
  c0 : Nat := 0
  w0 : Rat := 0
  w1 : Int := 0
  len : Nat := 0
  /-- a copy of the MACCTL frame that goes ahead of a command's frame (R255) -/
  pre : Bool := false
  st : CopySt := .planned
  /-- what its channel sends, once it has begun -/
  sig : Option Signal := none
  deriving DecidableEq, Repr

/-- What a committed transmission's frame is made of when it begins: nothing more, a command's payload, what a MACCTL frame says, a
beacon's agreements. -/
inductive Making where
  | none | command | ctl | beacon
  deriving DecidableEq, Repr

/-- A committed transmission (R195, R197, R248). -/
structure Job where
  id : Nat
  kind : JobKind
  fn : Nat
  node : Nat := 0
  mode : Nat := 0
  m : Nat := 0
  ofs : Nat := 0
  h : Nat := 0
  body : List Byte := []
  copies : List Copy := []
  /-- first slot and slots spanned (R257) -/
  slot : Nat := 0
  slots : Nat := 1
  /-- channel-slots charged, and the slot frame they are counted in (R386) -/
  cost : Nat := 0
  frame : Nat := 0
  reserved : Bool := true
  wake : Option (Nat × Nat) := none
  reply : Bool := false
  hops : Nat := 0
  /-- what it sends is still to be built, numbered and encrypted, as it begins (R406, R409; log entry 128) -/
  making : Making := .none
  /-- relays of a command's route (R285) -/
  relays : List Nat := []
  /-- placed by the new map of a change (R255) -/
  newMap : Bool := false
  /-- the MACCTL frame ahead of the frame: header and body; and what the job's MACCTL frame says (R255, R268, R270) -/
  pre : Option (Nat × List Byte) := none
  say : List (List Nat) := []
  /-- copies whose carrier sensing has been done (R273) -/
  sensed : List Nat := []
  /-- expected reply: start and end of each copy, in elapsed ns -/
  replyAt : List (Nat × Nat) := []
  /-- interrupted: a copy was cut by a void cycle (R197) -/
  cutVoid : Bool := false
  /-- transmit timestamp of its last sync word (R261) -/
  ts : Nat := 0
  /-- filler: the symbols of each of its frames, idle cells after them (R227) -/
  fill : List Nat := []
  ended : Bool := false
  /-- cycle index at which its reply is no longer waited for (R286) -/
  deadline : Option Nat := none
  deriving DecidableEq, Repr

/-- Why a waiting command was last passed over (R260). -/
inductive Cause where
  | none | reservation | noLane | quiet | budget
  deriving DecidableEq, Repr

inductive CmdSt where
  /-- fetched and held by a FENCE, or started and not yet run -/
  | fetched
  /-- waiting for the line -/
  | waiting
  /-- an attempt is committed or in progress -/
  | onLine
  /-- waiting for an engine: capture, playback, P-256, the store -/
  | engine
  deriving DecidableEq, Repr

/-- A ring command fetched and not yet final (R353 to R367). -/
structure Cmd where
  uid : Nat
  fn : Nat
  sq : Nat
  cq : Nat
  desc : List Byte
  fetchTb : Nat := 0
  fetchCidx : Nat := 0
  /-- it was fetched while a mismatch of set 1 refuses tenant commands (R382) -/
  tenBad : Bool := false
  st : CmdSt := .fetched
  payload : List Byte := []
  label : Nat := 0
  enc : Bool := false
  /-- relays of its route, first attempt fixed (R285) -/
  route : List Nat := []
  routed : Bool := false
  deadline : Nat := 0
  attempts : Nat := 0
  /-- attempts sent to their end (R259) -/
  sent : Nat := 0
  cause : Cause := .none
  deferred : Bool := false
  /-- frame counter and ciphertext of the first attempt, and the key they were made under (R406) -/
  ctr : Option Nat := none
  cipher : List Byte := []
  keyGen : Nat := 0
  /-- header and route extension of the first attempt (R259, R285, R403) -/
  hdr : Nat := 0
  ext : List Byte := []
  txTs : Option Nat := none
  deriving DecidableEq, Repr

/-- A completion held because its CQ is full (R367), or decided while its ring is in use. -/
structure Held where
  fn : Nat
  cq : Nat
  sq : Nat
  bytes : List Byte
  isFinal : Bool
  deriving DecidableEq, Repr

/-- A capture item held by a stream: time, cycle index, phase word, values (R307). -/
structure Item where
  time : Nat := 0
  cidx : Nat := 0
  phase : Nat := 0
  vals : List Nat := []
  hold : Bool := false
  deriving DecidableEq, Repr

/-- What a capture record in a bank holds: its stream, the stream's arm command, its items and the first of them (R20, R352). -/
structure CapRef where
  stream : Nat
  uid : Nat
  count : Nat
  first : Item := {}
  deriving DecidableEq, Repr

/-- A record in a filling bank (R370): its ring, its bytes, an RQ record's payload, for a completion its SQ and
whether it is final, and the items of a KQ record. -/
structure BankRec where
  ring : Nat
  data : List Byte
  payload : List Byte := []
  sq : Nat := 0
  isFinal : Bool := false
  cap : Option CapRef := none
  /-- when it was put into the bank, in ns of elapsed time (R371) -/
  since : Nat := 0
  deriving DecidableEq, Repr

inductive RingSt where
  | disabled | enabled | draining | error
  deriving DecidableEq, Repr

/-- One ring (R347 to R352). -/
structure Ring where
  st : RingSt := .disabled
  /-- SQ: next descriptor to fetch; other rings: next entry to write -/
  index : Nat := 0
  /-- SQ: tail given by the host; other rings: head given by the host -/
  host : Nat := 0
  phase : Bool := false
  err : Nat := 0
  /-- RQ: frames lost since the previous record; EQ: events lost since the previous entry -/
  lost : Nat := 0
  wraps : Nat := 0
  deriving DecidableEq, Repr

/-- Measures of one direction of a link (R277 to R280), key sender × 2^18 + receiver. -/
structure Link where
  /-- device's own measures: newest frames first, SNR in 2^-16 dB, erased decisions, decisions, RTX -/
  frames : List (Int × Nat × Nat × Bool) := []
  /-- as a report gave it: snr in 0.5 dB, er, rt -/
  rep : Option (Int × Nat × Nat) := none
  epoch : Nat := 0
  /-- marked failed until this epoch (R289) -/
  failed : Option Nat := none
  /-- rt raised by repair (R289) -/
  rtUp : Nat := 0
  deriving DecidableEq, Repr

/-- A node's current route (R281, R284, R287). -/
structure Route where
  relays : List Nat
  cost : Nat
  deriving DecidableEq, Repr

/-- A directory record (R296). -/
structure DirRec where
  addr : Nat
  dev : Nat := 0
  pin : Bool := false
  rly : Bool := false
  learned : Bool := false
  cost : Nat := 0xFFFF
  hmax : Nat := 0
  relays : List Nat := []
  last : Nat := 0
  /-- epoch last heard or reported (R301) -/
  epoch : Nat := 0
  /-- PIN, HMAX and, for a pinned route, its relays as last written, until the next epoch boundary (R25) -/
  policy : Option (Bool × Nat × List Nat) := none
  /-- epoch of the last discovery sent for it (R290) -/
  disc : Option Nat := none
  deriving DecidableEq, Repr

/-- The mesh: links, routes, directory, seen cache (chapter 11). -/
structure Mesh where
  links : FMap Link := []
  routes : FMap Route := []
  /-- directory tables: key table × 163840 + bucket × 4 + entry -/
  tables : FMap DirRec := []
  stash : List DirRec := []
  /-- boot key of R297 -/
  key : BitVec 64 := 0
  /-- seen cache: set → newest first (key list, cycle index) -/
  seen : FMap (List (List Nat × Nat)) := []
  /-- onward floods of the epoch per source (R293) -/
  onward : FMap Nat := []
  /-- relay method in force (R294) -/
  method : Bool := false
  dirty : Bool := false
  /-- route costs of other devices: node → (device, cost) (R288) -/
  others : FMap (List (Nat × Nat)) := []
  /-- neighbour reports accepted since the last ROUTE packet, by reporter, and the route costs last sent (R488, R496) -/
  news : FMap (List (Nat × Int × Nat × Nat)) := []
  costsSent : FMap Nat := []
  /-- floods of the device's own and onward floods that wait for a slot: header and payload (R290, R291, R293) -/
  floods : List (Nat × List Byte) := []
  deriving DecidableEq, Repr

/-- A trigger descriptor (R321), its 16 bytes. -/
abbrev Trig := List Byte

inductive StreamSt where
  | idle | armed | capturing | tail
  deriving DecidableEq, Repr

/-- A capture stream (R314 to R330). -/
structure Stream where
  st : StreamSt := .idle
  fn : Nat := 0
  uid : Nat := 0
  /-- the 64 bytes of its program (R318) -/
  prog : List Byte := []
  /-- REARM left -/
  rearm : Nat := 0
  /-- items held, oldest first; the index of the first of them since the arm; time of the last item released from the mark -/
  items : List Item := []
  /-- samples and records of its tap that wait to arrive, oldest first, and the samples of an instant that still lacks those of another
  input, by input (R307) -/
  feed : List Item := []
  parts : FMap (List Item) := []
  first : Nat := 0
  released : Option Nat := none
  /-- first index that the next segment may hold (R325) -/
  floor : Nat := 0
  /-- a start accepted and not resolved: its event time; the start item once resolved, with the segment's first item -/
  startEv : Option Nat := none
  startIt : Option Nat := none
  segFrom : Nat := 0
  stopEv : Option Nat := none
  stopIt : Option Nat := none
  late : Bool := false
  shortPre : Bool := false
  segno : Nat := 0
  cseq : Nat := 0
  segs : Nat := 0
  /-- items committed to the open segment, and the last of them -/
  count : Nat := 0
  lastItem : Item := {}
  startItem : Item := {}
  stopItem : Item := {}
  /-- a SEG_START chunk has been written for the open segment -/
  opened : Bool := false
  /-- the open chunk: its items, and the elapsed time of its first word -/
  chunk : List Item := []
  chunkAt : Nat := 0
  tbStep : Bool := false
  rateChg : Bool := false
  /-- items lost since room ran out, and the first of them -/
  gap : Nat := 0
  gapItem : Item := {}
  lost : Nat := 0
  /-- consecutive samples that meet START's and STOP's THRESH (R321) -/
  thr0 : Nat := 0
  thr1 : Nat := 0
  /-- cycle index at which START's and STOP's CIDX fires next -/
  cidx0 : Option Nat := none
  cidx1 : Option Nat := none
  /-- the event of a LEN stop has been exported for the segment; exported events that have not gone out yet: number and time (R321) -/
  lenDone : Bool := false
  exports : List (Nat × Nat) := []
  /-- header pairs of a STREAM program that wait for room, oldest first (R314, R329, R350) -/
  owed : List (List Nat) := []
  /-- header pairs in the buffer, oldest first: word offset in the buffer, words of the chunk -/
  chunks : List (Nat × Nat) := []
  wptr : Nat := 0
  deriving DecidableEq, Repr

inductive PlaySt where
  | idle | waiting | playing | passing
  deriving DecidableEq, Repr

/-- A pattern player (R332 to R337). -/
structure Player where
  st : PlaySt := .idle
  fn : Nat := 0
  uid : Nat := 0
  list : Nat := 0
  entry : Nat := 0
  /-- REPEAT counters by entry -/
  cnt : FMap Nat := []
  /-- pass of a DATA entry, item within it -/
  pass : Nat := 0
  item : Nat := 0
  played : Nat := 0
  align : Bool := false
  startAt : Option Nat := none
  /-- last pair delivered (gain, addend) -/
  last : Nat × Int := (0, 0)
  /-- transmit players: the DAC sample at which the entry began, and its items (R332) -/
  since : Nat := 0
  items : Nat := 0
  /-- items of the entry fetched so far (R337); pattern words that did not read clean and are not reported yet: index, and whether
  uncorrectable (R311) -/
  fetched : Nat := 0
  reads : List (Nat × Bool) := []
  deriving DecidableEq, Repr

/-- A key of the store (R413 to R418). -/
structure Key where
  type : Nat
  use : Nat
  tlen : Nat
  material : List Byte
  persist : Bool := false
  /-- the owning function, and the store key, that its record is wrapped with (R417) -/
  owner : Nat := 0
  under : Nat := 0
  gen : Nat := 0
  deriving DecidableEq, Repr

/-- A receive state (R405, R407): highest counter, window of H − 63 to H (bit i: H − i), empty, open. -/
structure RxCtr where
  h : Nat := 0
  win : BitVec 64 := 0
  empty : Bool := true
  opened : Bool := false
  deriving DecidableEq, Repr

/-- A CCM context (R420). -/
structure Ctx where
  ref : Nat
  gen : Nat
  nonce : List Byte
  mac : List Byte
  /-- bytes of the message and associated data still to come -/
  msgLeft : Nat
  adLeft : Nat
  /-- bytes of an unfinished MAC block; keystream position in bytes -/
  part : List Byte := []
  pos : Nat := 0
  tlen : Nat
  deriving DecidableEq, Repr

/-- A public-key operation waiting or running (R422 to R424, R441). -/
structure PkOp where
  uid : Nat
  fn : Nat
  /-- 0 sign, 1 verify, 2 ECDH, 3 GEN load, 4 quote -/
  op : Nat
  buf : List Byte
  /-- private scalar of the slot's key as the command found it (R416; log entry 107) -/
  scalar : Nat := 0
  /-- the slot it uses, whose cached key stays while it runs (R418) -/
  slot : Option Nat := none
  /-- what is measured at the start of the operation (R442) -/
  body : List Byte := []
  deriving DecidableEq, Repr

/-- The security engines (chapter 15). -/
structure Sec where
  /-- key slots, and node keys at 2^31 + address -/
  keys : FMap Key := []
  gen : Nat := 0
  txCtr : FMap Nat := []
  rxCtr : FMap RxCtr := []
  /-- broadcast key: transmit counter and sources -/
  bcastTx : Nat := 0
  bsrc : FMap RxCtr := []
  sram : FMap Ctx := []
  wrapped : FMap Ctx := []
  /-- cached key references, most recently used first (R418) -/
  cache : List Nat := []
  pkq : List PkOp := []
  pkRun : Option PkOp := none
  pkLast : Nat := 7
  storeOk : Bool := false
  /-- the 256-bit key that wraps the records of the store, drawn from the random source (R417) -/
  storeKey : Nat := 0
  deriving DecidableEq, Repr

/-- A row of the store (R447 to R451). -/
structure Row where
  data : List Byte
  /-- the commit field: SEQ, LIDX, MARK and CRC (R449) -/
  seq : Nat
  lidx : Nat
  mark : Nat
  crc : Nat
  /-- the row cannot be corrected (R447, R456); no command makes one so (log entry 30) -/
  bad : Bool := false
  deriving DecidableEq, Repr

/-- One bank: rows by physical index 0 to 127, highest SEQ, next index in rotation order, writes since the last rotation
rewrite, allowance, read-only (R450 to R455). -/
structure Bank where
  rows : FMap Row := []
  seq : Nat := 0
  ptr : Nat := 0
  writes : Nat := 0
  /-- writes left of the burst of 16, and elapsed time of the last refill (R453) -/
  left : Nat := 16
  refill : Nat := 0
  ro : Bool := false
  deriving DecidableEq, Repr

/-- Who waits for a store write. -/
inductive NvsClient where
  | none
  | hwm (id : Nat)
  | keyLoad (uid : Nat)
  | keyDelete (uid : Nat)
  | bootPolicy
  | bootCount
  | attest
  | checkpoint
  /-- the row to retire once its content is written elsewhere (R454) -/
  | retire (row : Nat)
  deriving DecidableEq, Repr

/-- A logical write in the queue: copies still to be written, each (block, row); copies committed so far (R450, R456). -/
structure NvsWrite where
  copies : List (Nat × Nat)
  data : List Byte
  ok : Nat := 0
  tried : Nat := 0
  client : NvsClient := .none
  started : Bool := false
  /-- a rotation rewrite, outside the allowance (R452) -/
  free : Bool := false
  /-- put together from parts: byte offset within the row -/
  off : Nat := 0
  waited : Bool := false
  deriving DecidableEq, Repr

/-- A frame that waits for a high-water commit (R409, R410): its job or received frame, and the outcome once known. -/
structure HwmWait where
  job : Option Nat
  frame : Option Nat
  /-- the command of the job -/
  cmd : Option Nat := none
  /-- the key whose R_TX is to be committed, and its new value (R409) -/
  tx : Option (Nat × Nat) := none
  outcome : Option Bool := none
  deriving DecidableEq, Repr

/-- The store controller (chapter 17). -/
structure Nvs where
  banks : FMap Bank := []
  queue : List NvsWrite := []
  waits : FMap HwmWait := []
  retired : List Nat := []
  deriving DecidableEq, Repr

/-- The real-time clock (R460 to R466). -/
structure Rtc where
  sec : Nat := 0
  sub : Nat := 0
  /-- the phase of the count, in units of 10^-9 count -/
  acc : Nat := 0
  /-- the rate correction accumulated, in units of 10^-7 count (R461) -/
  cal : Int := 0
  running : Bool := true
  deriving DecidableEq, Repr

/-- UART (R470 to R475). Entries: bit 15 VALID and the flags of UART_RXD. -/
structure Uart where
  rx : List Nat := []
  tx : List Nat := []
  /-- flow-control characters to send ahead of the queue -/
  ahead : List Nat := []
  /-- the character being sent -/
  cur : Option Nat := none
  muted : Bool := false
  xoff : Bool := false
  coll : Bool := false
  lostSince : Bool := false
  sentXoff : Bool := false
  deriving DecidableEq, Repr

/-- I²C controller (R477 to R480). -/
structure I2c where
  wr : List Byte := []
  rd : List Byte := []
  busy : Option Word := none
  deriving DecidableEq, Repr

/-- SPI flash controller and target port (R481 to R486). -/
structure Spi where
  busy : Option Word := none
  h2b : Bool := false
  frameErr : Bool := false
  deriving DecidableEq, Repr

/-- Jiroth link (R487 to R496). -/
structure Jir where
  /-- the incoming segment has failed and awaits a retrain (R487) -/
  failed : Bool := false
  good : Nat := 0
  /-- departure of the master's last TIMING packet, 0.1 ns -/
  depart : Nat := 0
  aligned : Bool := false
  /-- last BOUNDARY or TIMING of the ring: cycle index, zero-crossing timestamp, elapsed time -/
  bound : Option (Nat × Nat × Nat) := none
  timing : Option (Nat × Nat) := none
  offset : Int := 0
  swap : Option (Nat × Nat) := none
  twoMasters : Bool := false
  deriving DecidableEq, Repr

/-- One PM object's bins (R235 to R242): key lane, or 2^18 + node address. -/
structure Bin where
  id : Nat
  flags : Nat := 0
  elapsed : Nat := 0
  counts : List Nat := [0, 0, 0, 0, 0, 0, 0, 0, 0, 0, 0, 0]
  final : Bool := false
  /-- elapsed ns at which it ended (R238) -/
  endAt : Nat := 0
  deriving DecidableEq, Repr

structure PmObj where
  q : Bin
  d : Bin
  qh : List Bin := []
  dh : List Bin := []
  unavail : Bool := false
  /-- newest counted seconds, newest first: severely errored, errored, and how many quarter and day bins have ended since -/
  secs : List (Bool × Bool × Nat × Nat) := []
  run : Nat := 0
  deriving DecidableEq, Repr

/-- The transmitter phases (chapter 08). -/
structure TxPh where
  /-- causes of TXF present, beside LANE (R215) -/
  oc : Bool := false
  therm : Bool := false
  uv : Bool := false
  pg : Bool := false
  /-- ATT, LVL_MAX and NCAP in effect (R203) -/
  att : Nat := 0
  lvlMax : Nat := 0x223
  ncap : Nat := 8
  /-- impedance estimates: key pair × 2 + tone → re, im in Ω, cycle index of the last update (R207) -/
  z : FMap (Rat × Rat × Nat) := []
  /-- smallest |Ẑ|² of the epoch; conditions seen in the epoch (R208) -/
  zMin : Option Rat := none
  hotEpoch : Bool := false
  pdEpoch : Bool := false
  /-- CLIP was set at the last epoch boundary -/
  clipPrev : Bool := false
  /-- clipped samples and transmitting time of the epoch, ns (R205) -/
  clipEp : Nat := 0
  txEp : Nat := 0
  /-- DAC sample up to which the limiter's counts go (R205) -/
  limNext : Nat := 0
  /-- amplitude word in force, the one before it, and the DAC sample at which the ramp to it began (R200, R203) -/
  amp : Nat := 0
  ampPrev : Nat := 0
  ampFrom : Nat := 0
  /-- factor on pattern samples in units of 2^-24, the one before it, and the DAC sample at which the ramp to it began (R214) -/
  pat : Nat := 2 ^ 24
  patPrev : Nat := 2 ^ 24
  patFrom : Nat := 0
  /-- attenuation on top of the host's ATT since an automatic retry, 0.25 dB (R216) -/
  extra : Nat := 0
  /-- a firmware level waits for the next epoch boundary: its measured input (R208, R531) -/
  attPend : Option Nat := none
  /-- 6 dB taken off for the rest of the cycle (R212) -/
  cut6 : Bool := false
  /-- elapsed time of the lasting overcurrent (R216) -/
  ocAt : Option Nat := none
  /-- transmitting time without a lasting overcurrent, ns, and since when the phase transmits (R216) -/
  txTime : Nat := 0
  onSince : Option Nat := none
  /-- the driver is at or above TW -/
  hot : Bool := false
  txfOnset : Nat × Nat := (0, 0)
  deriving DecidableEq, Repr

/-- What holds a channel in some slots (R247, R387, R388). -/
inductive HoldKind where
  | contention | system | reserved | spare
  deriving DecidableEq, Repr

/-- A channel held for absolute slots (R247, R257). -/
structure Hold where
  ch : Chan
  slots : List Nat
  kind : HoldKind
  fn : Nat := 0
  job : Nat := 0
  deriving DecidableEq, Repr

/-- The plan of the slots (R247, R248) and the noise kept for the lanes (R258). -/
structure Sorrel where
  /-- the slot committed last -/
  committed : Option Nat := none
  holds : List Hold := []
  /-- mean N̂ of the last lane released on a channel, and the cycle index then: key pair × 4 + phase -/
  noise : FMap (Word × Nat) := []
  /-- the periods of the continuous beacon channels that have been admitted (R227, R267) -/
  cont : List ContSpan := []
  deriving DecidableEq, Repr

/-- Airtime accounting (R386 to R388). -/
structure Air where
  /-- key function × 2^32 + frame number -/
  rc : FMap Nat := []
  spare : FMap Nat := []
  credit : FMap Nat := []
  last : Nat := 7
  deriving DecidableEq, Repr

/-- Band occupancy (R271, R272). -/
structure Bands where
  charges : List Charge := []
  /-- occupancy carried over a change of WIN: (band × 3 + phase) × 2^40 + bin → µs -/
  carried : FMap Nat := []
  /-- WIN in 100 ms at which each band's bins are kept -/
  win : FMap Nat := []
  deriving DecidableEq, Repr

/-- The state of the OX9618. -/
structure State where
  /-- every stored register of BAR0, by offset; unlisted: its reset value (R499) -/
  regs : FMap Word := []
  pins : Pins := {}
  pwr : Power := {}
  pcie : Pcie := {}
  boot : Boot := {}
  blanes : FMap BLane := []
  rel : Rel := {}
  par : Parity := {}
  crc : Crc := {}
  mains : Mains := {}
  rx : FMap RxIn := []
  /-- tone-pair banks: key bank × 256 + pair (R148) -/
  tones : FMap Word := []
  /-- target bank of an accepted tone-pair swap (R149) -/
  toneSwap : Nat := 0
  lanes : FMap Lane := []
  /-- receptions with the decoder, in order (R220) -/
  recs : List Recep := []
  /-- mode-selection thresholds in use per boundary, unlisted: the register's reset value (R191) -/
  msel : FMap Word := []
  frames : FMap DecFrame := []
  retain : List Retain := []
  /-- last frame whose header passed, per node: cycle index and OFS_EST (R251) -/
  heard : FMap (Nat × Nat) := []
  tx : FMap TxPh := []
  jobs : List Job := []
  sessions : FMap Session := []
  quiets : FMap Quiet := []
  bands : Bands := {}
  air : Air := {}
  sor : Sorrel := {}
  /-- LOMS onset and last defect states of the device (R230 to R232) -/
  lomsOnset : Nat × Nat := (0, 0)
  pm : FMap PmObj := []
  /-- defects present at any time in the current second: code, kind of object (0 device, 1 input, 2 lane, 3 session, 4 phase) and
  its number (R236) -/
  secSeen : List (Nat × Nat × Nat) := []
  mesh : Mesh := {}
  /-- capture and pattern regions: key word index, pattern region from 2^30; unlisted 0 (R305, R306) -/
  dram : FMap Nat := []
  streams : FMap Stream := []
  /-- streams whose chunks a capture ring holds, oldest first: key function × 4 + KQ (R329) -/
  kqOwners : FMap (List Nat) := []
  players : FMap Player := []
  /-- key function × 64 + ring -/
  rings : FMap Ring := []
  /-- records in the filling banks: key function × 4 + class (0 CQ, 1 RQ, 2 EQ, 3 KQ), oldest first -/
  banks : FMap (List BankRec) := []
  held : List Held := []
  cmds : List Cmd := []
  sec : Sec := {}
  nvs : Nvs := {}
  rtc : Rtc := {}
  uart : Uart := {}
  i2c : I2c := {}
  spi : Spi := {}
  jir : Jir := {}
  /-- the value the last register read returned (log entry 8) -/
  readData : Word := 0
  /-- what has left the device, oldest first (log entry 8) -/
  posted : List Output := []
  nextUid : Nat := 0
  nextJob : Nat := 0
  nextFid : Nat := 0
  /-- counter of the free values (log entry 9) -/
  freeCtr : Nat := 0
  /-- commands waiting, first in first out -/
  pending : List Instr := []
  deriving DecidableEq, Repr

/-- No command of the table stops the machine: a fault of the device is state (R10, R77, R230), so the type has no constructor
and no meaning answers one. -/
inductive Fault where
  deriving DecidableEq, Repr

/-- Refusals. -/
inductive Refusal where
  /-- raised by exec for a command whose meaning the model does not yet give; safe: nothing can be proved of it -/
  | notModelled (mnemonic : String)
  deriving DecidableEq, Repr

/-- What a meaning answers. -/
abbrev Answer := Host.Outcome State Fault Refusal

/-- The device in power-on reset with an AON reset behind it (R68, R72 step 2): every register at its reset value, every
queue empty, every clock stopped. -/
def State.reset : State := {}

end Sys2Proof.Machine
end

