-- ==== Sys2Proof/Machine/RegMap.lean ====
section
/-! DEFINITION. The register map (R499): every BAR0 register's offset, its fields, its reset value and the access codes of its
bits (R6), block by block as the chapters' register tables give them. -/

namespace Sys2Proof.Machine

/-- A field: register offset, highest and lowest bit. -/
structure Fld where
  off : Nat
  hi : Nat
  lo : Nat
  deriving DecidableEq, Repr

/-- A run of equal registers: first offset, stride, number, reset value, stored bits (RW and RWL), lock (0 none, 1 + bit of
GLB_LOCK), W1C bits, W1S bits, whether a read clears. -/
structure RegDef where
  base : Nat
  stride : Nat
  count : Nat
  reset : Nat
  rw : Nat
  lock : Nat
  w1c : Nat
  w1s : Nat
  rc : Bool
  deriving DecidableEq, Repr

def R.MSY_CTRL : Nat := 0x0C00
def R.MSY_STATUS : Nat := 0x0C04
def R.MSY_EVT : Nat := 0x0C08
def R.MSY_SNS_CFG : Nat := 0x0C0C
def R.MSY_CIDX : Nat := 0x0C10
def R.MSY_ZCTS_LO : Nat := 0x0C14
def R.MSY_ZCTS_HI : Nat := 0x0C18
def R.MSY_FREQ : Nat := 0x0C1C
def R.MSY_CIDX_PRESET : Nat := 0x0C20
def R.MSY_HOLD : Nat := 0x0C24
def R.MSY_REJ_CNT : Nat := 0x0C28
def R.MSY_PHOFS (p : Nat) : Nat := 0x0C30 + 0x4 * p
def R.MSY_SAG (p : Nat) : Nat := 0x0C40 + 0x10 * p
def R.MSY_SWELL (p : Nat) : Nat := 0x0C44 + 0x10 * p
def R.MSY_LOSS (p : Nat) : Nat := 0x0C48 + 0x10 * p
def R.MSY_RMS (p : Nat) : Nat := 0x0C70 + 0x4 * p
def R.MSY_COEF_IDX : Nat := 0x0C80
def R.MSY_COEF_DATA : Nat := 0x0C84
def R.MSY_ZTHR (p : Nat) : Nat := 0x0C88 + 0x4 * p
def R.MSY_TB_LO : Nat := 0x0CA0
def R.MSY_TB_HI : Nat := 0x0CA4
def R.MSY_TB_STEP_LO : Nat := 0x0CA8
def R.MSY_TB_STEP_HI : Nat := 0x0CAC
def R.MSY_TB_CMD : Nat := 0x0CB0
def R.MSY_TB_ADJ : Nat := 0x0CB4
def R.MSY_PPS_CTRL : Nat := 0x0CC0
def R.MSY_PPS_TS_LO : Nat := 0x0CC4
def R.MSY_PPS_TS_HI : Nat := 0x0CC8
def R.MSY_PPS_ERR : Nat := 0x0CCC
def R.RXF_CTRL (i : Nat) : Nat := 0x1000 + 0x100 * i
def R.RXF_GAIN (i : Nat) : Nat := 0x1004 + 0x100 * i
def R.RXF_FIR_CFG (i : Nat) (b : Nat) : Nat := 0x1008 + 0x100 * i + 0x4 * b
def R.RXF_COEF_IDX (i : Nat) : Nat := 0x1010 + 0x100 * i
def R.RXF_COEF_DATA (i : Nat) : Nat := 0x1014 + 0x100 * i
def R.RXF_FIR_SWAP (i : Nat) : Nat := 0x1018 + 0x100 * i
def R.RXF_STATUS (i : Nat) : Nat := 0x101C + 0x100 * i
def R.RXF_EVT (i : Nat) : Nat := 0x1020 + 0x100 * i
def R.RXF_INJ (i : Nat) : Nat := 0x1024 + 0x100 * i
def R.RXF_BLK_CFG (i : Nat) : Nat := 0x1028 + 0x100 * i
def R.RXF_BLK_FLOOR (i : Nat) : Nat := 0x102C + 0x100 * i
def R.RXF_BLK_MAXRUN (i : Nat) : Nat := 0x1030 + 0x100 * i
def R.RXF_RMS (i : Nat) : Nat := 0x1034 + 0x100 * i
def R.RXF_PEAK (i : Nat) : Nat := 0x1038 + 0x100 * i
def R.RXF_OVR_CNT (i : Nat) : Nat := 0x103C + 0x100 * i
def R.RXF_SAT_CNT (i : Nat) : Nat := 0x1040 + 0x100 * i
def R.RXF_ERS_CNT (i : Nat) : Nat := 0x1044 + 0x100 * i
def R.RXF_NOISE (i : Nat) : Nat := 0x1048 + 0x100 * i
def R.RXF_INJ_GAP (i : Nat) : Nat := 0x104C + 0x100 * i
def R.TSL_CFG (i : Nat) : Nat := 0x1800 + 0x40 * i
def R.TSL_STATUS (i : Nat) : Nat := 0x1804 + 0x40 * i
def R.TSL_EVT (i : Nat) : Nat := 0x1808 + 0x40 * i
def R.TSL_SUPP (i : Nat) : Nat := 0x180C + 0x40 * i
def R.TSL_TPL_IDX (i : Nat) : Nat := 0x1810 + 0x40 * i
def R.TSL_TPL_DATA (i : Nat) : Nat := 0x1814 + 0x40 * i
def R.TSL_PERR_CNT (i : Nat) : Nat := 0x1818 + 0x40 * i
def R.CMP_CTRL : Nat := 0x1C00
def R.CMP_STATUS : Nat := 0x1C04
def R.CMP_EVT : Nat := 0x1C08
def R.CMP_TP_IDX : Nat := 0x1C0C
def R.CMP_TP_DATA : Nat := 0x1C10
def R.CMP_TP_CFG (b : Nat) : Nat := 0x1C14 + 0x4 * b
def R.CMP_TP_SWAP : Nat := 0x1C1C
def R.CMP_TP_STATUS : Nat := 0x1C20
def R.CMP_WIN_IDX : Nat := 0x1C24
def R.CMP_DET_CNT : Nat := 0x1C28
def R.CMP_SPC_CNT : Nat := 0x1C2C
def R.CMP_DROP_CNT : Nat := 0x1C30
def R.CMP_LOCKLOSS_CNT : Nat := 0x1C34
def R.CMP_LW (w : Nat) : Nat := 0x1C40 + 0x4 * w
def R.COD_CTRL : Nat := 0x2000
def R.COD_FRAME_CFG : Nat := 0x2004
def R.COD_RET_CFG : Nat := 0x2008
def R.COD_STATUS : Nat := 0x200C
def R.COD_EVT : Nat := 0x2010
def R.COD_MSEL_P : Nat := 0x2014
def R.COD_MSEL_C : Nat := 0x2018
def R.COD_MSEL_R4 : Nat := 0x201C
def R.COD_HDR_FAIL_CNT : Nat := 0x2020
def R.COD_COPY_DROP_CNT : Nat := 0x2024
def R.COD_RET_EVICT_CNT : Nat := 0x2028
def R.COD_RET_MISMATCH_CNT : Nat := 0x202C
def R.COD_RET_EXPIRE_CNT : Nat := 0x2030
def R.TXS_CTRL : Nat := 0x2400
def R.TXS_STATUS : Nat := 0x2404
def R.TXS_EVT : Nat := 0x2408
def R.TXS_LIM_CFG : Nat := 0x240C
def R.TXS_REC_CFG : Nat := 0x2410
def R.TXS_ALC_CFG : Nat := 0x2414
def R.TXS_WAKE_CFG : Nat := 0x2418
def R.TXS_Z_IDX : Nat := 0x2420
def R.TXS_Z_DATA : Nat := 0x2424
def R.TXS_Z_AGE : Nat := 0x2428
def R.TXS_LVL (p : Nat) : Nat := 0x2440 + 0x40 * p
def R.TXS_LVL_MAX (p : Nat) : Nat := 0x2444 + 0x40 * p
def R.TXS_REG_MAX (p : Nat) : Nat := 0x2448 + 0x40 * p
def R.TXS_PAT_PEAK (p : Nat) : Nat := 0x244C + 0x40 * p
def R.TXS_MIX (p : Nat) : Nat := 0x2450 + 0x40 * p
def R.TXS_ILIM (p : Nat) : Nat := 0x2454 + 0x40 * p
def R.TXS_TXF (p : Nat) : Nat := 0x2458 + 0x40 * p
def R.TXS_LIM_CNT (p : Nat) : Nat := 0x245C + 0x40 * p
def R.TXS_CLIP_CNT (p : Nat) : Nat := 0x2460 + 0x40 * p
def R.TXS_OC_CNT (p : Nat) : Nat := 0x2464 + 0x40 * p
def R.TXS_TEMP (p : Nat) : Nat := 0x2468 + 0x40 * p
def R.TXS_PDISS (p : Nat) : Nat := 0x246C + 0x40 * p
def R.TXS_ACT (p : Nat) : Nat := 0x2470 + 0x40 * p
def R.LFR_CTRL : Nat := 0x2800
def R.LFR_STATUS : Nat := 0x2804
def R.LFR_EVT : Nat := 0x2808
def R.LFR_FRM_CFG : Nat := 0x280C
def R.LFR_PM_CFG : Nat := 0x2810
def R.LFR_DEF_DEV : Nat := 0x2814
def R.LFR_FILL_CFG : Nat := 0x2818
def R.LFR_LANE_IDX : Nat := 0x2820
def R.LFR_LANE_CFG : Nat := 0x2824
def R.LFR_LANE_STAT : Nat := 0x2828
def R.LFR_LOS (p : Nat) : Nat := 0x2830 + 0x4 * p
def R.LFR_SESS_DEF : Nat := 0x2840
def R.LFR_SESS_PLM : Nat := 0x2844
def R.LFR_FILLER_CNT : Nat := 0x2848
def R.LFR_UNROUTED_CNT : Nat := 0x284C
def R.LFR_ENCREQ_CNT : Nat := 0x2850
def R.LFR_PROF_LO (n : Nat) : Nat := 0x2880 + 0x8 * n
def R.LFR_PROF_HI (n : Nat) : Nat := 0x2884 + 0x8 * n
def R.LFR_LBL (n : Nat) : Nat := 0x2900 + 4 * n
def R.LFR_LOL (n : Nat) : Nat := 0x2A00 + 0x4 * n
def R.LFR_LOF (n : Nat) : Nat := 0x2A20 + 0x4 * n
def R.LFR_PLM (n : Nat) : Nat := 0x2A40 + 0x4 * n
def R.MAC_CTRL : Nat := 0x2C00
def R.MAC_STATUS : Nat := 0x2C04
def R.MAC_EVT : Nat := 0x2C08
def R.MAC_SLOT_CFG : Nat := 0x2C0C
def R.MAC_GUARD_CFG : Nat := 0x2C10
def R.MAC_DL_DEF : Nat := 0x2C14
def R.MAC_CONT_CFG : Nat := 0x2C18
def R.MAC_BCN_CFG : Nat := 0x2C1C
def R.MAC_RXSEL (p : Nat) : Nat := 0x2C20 + 4 * p
def R.MAC_QA_IDX : Nat := 0x2C30
def R.MAC_QA_STAT : Nat := 0x2C34
def R.MAC_QA_C : Nat := 0x2C38
def R.MAC_QA_DUR : Nat := 0x2C3C
def R.MAC_NOLANE_CNT : Nat := 0x2C40
def R.MAC_CS_BUSY_CNT : Nat := 0x2C44
def R.MAC_BUDGET_DEFER_CNT : Nat := 0x2C48
def R.MAC_CONT_SHORT_CNT : Nat := 0x2C4C
def R.MAC_BCN_SKIP_CNT : Nat := 0x2C50
def R.MAC_RESYNC_REJ_CNT : Nat := 0x2C54
def R.MAC_SUPV_CNT : Nat := 0x2C58
def R.MAC_CONT_CH (n : Nat) : Nat := 0x2C60 + 0x4 * n
def R.MAC_BAND_RANGE (n : Nat) : Nat := 0x2D00 + 0x10 * n
def R.MAC_BAND_BUDGET (n : Nat) : Nat := 0x2D04 + 0x10 * n
def R.MAC_BAND_CS (n : Nat) : Nat := 0x2D08 + 0x10 * n
def R.MAC_BAND_USED (n : Nat) : Nat := 0x2D0C + 0x10 * n
def R.VET_CTRL : Nat := 0x3000
def R.VET_STATUS : Nat := 0x3004
def R.VET_EVT : Nat := 0x3008
def R.VET_COST_CFG0 : Nat := 0x300C
def R.VET_COST_CFG1 : Nat := 0x3010
def R.VET_ROUTE_CFG : Nat := 0x3014
def R.VET_FLOOD_CFG : Nat := 0x3018
def R.VET_ROOT : Nat := 0x301C
def R.VET_DIR_STATUS : Nat := 0x3020
def R.VET_DIR_REFUSE_CNT : Nat := 0x3024
def R.VET_SEEN_DUP_CNT : Nat := 0x3028
def R.VET_SEEN_EVICT_CNT : Nat := 0x302C
def R.VET_RTE_DROP_CNT : Nat := 0x3030
def R.VET_RPT_REJ_CNT : Nat := 0x3034
def R.VET_REPAIR_CNT : Nat := 0x3038
def R.VET_NOROUTE_CNT : Nat := 0x303C
def R.VET_FLOOD_LIM_CNT : Nat := 0x3040
def R.YAR_CTRL : Nat := 0x3400
def R.YAR_REGION : Nat := 0x3404
def R.YAR_STATUS : Nat := 0x3408
def R.YAR_EVT : Nat := 0x340C
def R.YAR_STRM_IDX : Nat := 0x3410
def R.YAR_STRM_STAT : Nat := 0x3414
def R.YAR_STRM_OLD : Nat := 0x3418
def R.YAR_STRM_NEW : Nat := 0x341C
def R.YAR_STRM_LOST : Nat := 0x3420
def R.YAR_STRM_SEG : Nat := 0x3424
def R.YAR_PLAY_IDX : Nat := 0x3430
def R.YAR_PLAY_STAT : Nat := 0x3434
def R.YAR_PLAY_POS : Nat := 0x3438
def R.YAR_LOST_CNT : Nat := 0x3440
def R.YAR_PGAP_CNT : Nat := 0x3444
def R.YAR_UNCORR_CNT : Nat := 0x3448
def R.YAR_LATE_CNT : Nat := 0x344C
def R.HQE_STATUS : Nat := 0x3800
def R.HQE_STALE_CFG : Nat := 0x3804
def R.HQE_EVT : Nat := 0x3808
def R.HQE_XWIN_LOG : Nat := 0x380C
def R.HQE_FLR_CNT : Nat := 0x3810
def R.HQE_DMA_ERR_CNT : Nat := 0x3814
def R.HQE_FN_CTRL (fn : Nat) : Nat := 0x8000 + 0x1000 * fn
def R.HQE_FN_STATUS (fn : Nat) : Nat := 0x8004 + 0x1000 * fn
def R.HQE_FN_EVT (fn : Nat) : Nat := 0x8008 + 0x1000 * fn
def R.HQE_FN_FLR (fn : Nat) : Nat := 0x800C + 0x1000 * fn
def R.HQE_FN_LOST (fn : Nat) : Nat := 0x8010 + 0x1000 * fn
def R.HQE_RBASE_LO (fn : Nat) (r : Nat) : Nat := 0x8100 + 0x1000 * fn + 0x10 * r
def R.HQE_RBASE_HI (fn : Nat) (r : Nat) : Nat := 0x8104 + 0x1000 * fn + 0x10 * r
def R.HQE_RCFG (fn : Nat) (r : Nat) : Nat := 0x8108 + 0x1000 * fn + 0x10 * r
def R.HQE_RSTAT (fn : Nat) (r : Nat) : Nat := 0x810C + 0x1000 * fn + 0x10 * r
def R.HQE_RPAY_LO (fn : Nat) (q : Nat) : Nat := 0x8400 + 0x1000 * fn + 0x8 * q
def R.HQE_RPAY_HI (fn : Nat) (q : Nat) : Nat := 0x8404 + 0x1000 * fn + 0x8 * q
def R.HQE_KWB_LO (fn : Nat) (q : Nat) : Nat := 0x8440 + 0x1000 * fn + 0x8 * q
def R.HQE_KWB_HI (fn : Nat) (q : Nat) : Nat := 0x8444 + 0x1000 * fn + 0x8 * q
def R.TEN_CFG : Nat := 0x3C00
def R.TEN_STATUS : Nat := 0x3C04
def R.TEN_EVT : Nat := 0x3C08
def R.TEN_HOLD_CNT : Nat := 0x3C0C
def R.TEN_ALO (n r : Nat) : Nat := 0x3C40 + 0x40 * n + 8 * r
def R.TEN_AHI (n r : Nat) : Nat := 0x3C44 + 0x40 * n + 8 * r
def R.TEN_SESS (n : Nat) : Nat := 0x3C60 + 0x40 * n
def R.TEN_KEY (n : Nat) : Nat := 0x3C64 + 0x40 * n
def R.TEN_DRAM (n : Nat) : Nat := 0x3C68 + 0x40 * n
def R.TEN_PAIR (n : Nat) : Nat := 0x3C6C + 0x40 * n
def R.TEN_RES (n : Nat) : Nat := 0x3C70 + 0x40 * n
def R.TEN_GRANT (n : Nat) : Nat := 0x3C74 + 0x40 * n
def R.TEN_USE_SESS (n : Nat) : Nat := 0x3E40 + 0x10 * n
def R.TEN_USE_RC (n : Nat) : Nat := 0x3E44 + 0x10 * n
def R.SEC_CTRL : Nat := 0x4000
def R.SEC_STATUS : Nat := 0x4004
def R.SEC_EVT : Nat := 0x4008
def R.SEC_KPOL : Nat := 0x400C
def R.SEC_BCAST : Nat := 0x4010
def R.SEC_BSRC (n : Nat) : Nat := 0x4020 + 0x4 * n
def R.SEC_CACHE_MISS_CNT : Nat := 0x4060
def R.SEC_REPLAY_CNT : Nat := 0x4064
def R.SEC_AUTHFAIL_CNT : Nat := 0x4068
def R.SEC_NOKEY_CNT : Nat := 0x406C
def R.SEC_HWM_WR_CNT : Nat := 0x4070
def R.ATT_STATUS : Nat := 0x4400
def R.ATT_BPOL0 : Nat := 0x4404
def R.ATT_BPOL1 : Nat := 0x4408
def R.ATT_MEAS_IDX : Nat := 0x440C
def R.ATT_MEAS_DATA : Nat := 0x4410
def R.ATT_SVN : Nat := 0x4414
def R.ATT_BOOTCNT : Nat := 0x4418
def R.OTP_STATUS : Nat := 0x4800
def R.OTP_IDX : Nat := 0x4804
def R.OTP_DATA : Nat := 0x4808
def R.OTP_WSTAT : Nat := 0x480C
def R.OTP_MARG (n : Nat) : Nat := 0x4840 + 0x4 * n
def R.OTP_PGM_IDX : Nat := 0x4880
def R.OTP_PGM_DATA : Nat := 0x4884
def R.OTP_PGM_CMD : Nat := 0x4888
def R.OTP_PGM_STAT : Nat := 0x488C
def R.NVS_STATUS : Nat := 0x4C00
def R.NVS_EVT : Nat := 0x4C04
def R.NVS_SPARE : Nat := 0x4C08
def R.NVS_RO_IDX : Nat := 0x4C0C
def R.NVS_RO_MAP : Nat := 0x4C10
def R.NVS_WR_CNT : Nat := 0x4C14
def R.NVS_CORR_CNT : Nat := 0x4C18
def R.NVS_RETIRE_CNT : Nat := 0x4C1C
def R.NVS_TRIP_CNT : Nat := 0x4C20
def R.NVS_WAIT_CNT : Nat := 0x4C24
def R.RTC_SEC_LO : Nat := 0x5000
def R.RTC_SEC_HI : Nat := 0x5004
def R.RTC_SUB : Nat := 0x5008
def R.RTC_DAY : Nat := 0x500C
def R.RTC_SOD : Nat := 0x5010
def R.RTC_SET_LO : Nat := 0x5014
def R.RTC_SET_HI : Nat := 0x5018
def R.RTC_COMMIT : Nat := 0x501C
def R.RTC_CAL : Nat := 0x5020
def R.RTC_STATUS : Nat := 0x5024
def R.RTC_EVT : Nat := 0x5028
def R.RTC_TAMP_CFG : Nat := 0x502C
def R.RTC_TAMP_TS (i : Nat) : Nat := 0x5030 + 0x4 * i
def R.UART_CFG : Nat := 0x5400
def R.UART_BAUD : Nat := 0x5404
def R.UART_ADDR : Nat := 0x5408
def R.UART_FLOW : Nat := 0x540C
def R.UART_CTRL : Nat := 0x5410
def R.UART_STATUS : Nat := 0x5414
def R.UART_EVT : Nat := 0x5418
def R.UART_TXD : Nat := 0x541C
def R.UART_RXD : Nat := 0x5420
def R.I2C_CFG : Nat := 0x5800
def R.I2C_CMD : Nat := 0x5804
def R.I2C_STATUS : Nat := 0x5808
def R.I2C_EVT : Nat := 0x580C
def R.I2C_CTRL : Nat := 0x5810
def R.I2C_WDATA : Nat := 0x5814
def R.I2C_RDATA : Nat := 0x5818
def R.SPI_F_CMD : Nat := 0x5C00
def R.SPI_F_ADDR : Nat := 0x5C04
def R.SPI_F_STATUS : Nat := 0x5C08
def R.SPI_EVT : Nat := 0x5C10
def R.SPI_T_CTRL : Nat := 0x5C14
def R.SPI_T_FERR_CNT : Nat := 0x5C18
def R.SPI_T_H2B (n : Nat) : Nat := 0x5C20 + 0x4 * n
def R.SPI_T_B2H (n : Nat) : Nat := 0x5C40 + 0x4 * n
def R.SPI_F_BUF (i : Nat) : Nat := 0x5D00 + 0x4 * i
def R.JIR_CTRL : Nat := 0x6000
def R.JIR_STATUS : Nat := 0x6004
def R.JIR_EVT : Nat := 0x6008
def R.JIR_CDLY : Nat := 0x600C
def R.JIR_CMD : Nat := 0x6010
def R.JIR_TB_ERR : Nat := 0x6014
def R.JIR_LOOP : Nat := 0x6018
def R.JIR_CRC_CNT (i : Nat) : Nat := 0x6020 + 0x4 * i
def R.PWR_CTRL : Nat := 0x0400
def R.PWR_STATUS : Nat := 0x0404
def R.PWR_EVT : Nat := 0x0408
def R.PWR_PG : Nat := 0x040C
def R.PWR_SUPPLY : Nat := 0x0410
def R.PWR_DOM (d : Nat) : Nat := 0x043C + 4 * d
def R.CLK_STRAP : Nat := 0x0800
def R.CLK_STATUS : Nat := 0x0804
def R.CLK_EVT : Nat := 0x0808
def R.CLK_TK_OFS : Nat := 0x080C
def R.CLK_FMON (n : Nat) : Nat := 0x0810 + 0x4 * n
def R.GLB_ID : Nat := 0x0000
def R.GLB_ROM : Nat := 0x0004
def R.GLB_STATUS : Nat := 0x0008
def R.GLB_FAULT_SUM : Nat := 0x000C
def R.GLB_FAULT_MASK : Nat := 0x0010
def R.GLB_CFG_PARITY : Nat := 0x0014
def R.GLB_RESET : Nat := 0x0018
def R.GLB_LOCK : Nat := 0x001C
def R.GLB_CRC_REF (n : Nat) : Nat := 0x0020 + 0x4 * n
def R.GLB_CRC_CUR (n : Nat) : Nat := 0x0030 + 0x4 * n
def R.GLB_CRC_STAT : Nat := 0x0040
def R.GLB_LOCKV_CNT : Nat := 0x0044
def R.GLB_LOCKV_LOG : Nat := 0x0048
def R.REL_CNT (n : Nat) : Nat := 0x6400 + 0x10 * n
def R.REL_WIN (n : Nat) : Nat := 0x6404 + 0x10 * n
def R.REL_TOT (n : Nat) : Nat := 0x6408 + 0x10 * n
def R.REL_ITEM (n : Nat) : Nat := 0x640C + 0x10 * n
def R.REL_DRAM_SPARE : Nat := 0x6480
def R.REL_LOG_STAT : Nat := 0x6484
def R.REL_LOG (e w : Nat) : Nat := 0x6800 + 0x20 * e + 4 * w

def F.MSY_CTRL_COEF_BANK : Fld := ⟨R.MSY_CTRL, 6, 6⟩
def F.MSY_CTRL_LBW : Fld := ⟨R.MSY_CTRL, 5, 4⟩
def F.MSY_CTRL_AUTOREF : Fld := ⟨R.MSY_CTRL, 3, 3⟩
def F.MSY_CTRL_REFPH : Fld := ⟨R.MSY_CTRL, 2, 1⟩
def F.MSY_CTRL_EN : Fld := ⟨R.MSY_CTRL, 0, 0⟩
def F.MSY_STATUS_HOLD_AGE : Fld := ⟨R.MSY_STATUS, 31, 16⟩
def F.MSY_STATUS_PPS_LOCK : Fld := ⟨R.MSY_STATUS, 8, 8⟩
def F.MSY_STATUS_LIN_DEFAULT : Fld := ⟨R.MSY_STATUS, 7, 7⟩
def F.MSY_STATUS_COEF_ACT : Fld := ⟨R.MSY_STATUS, 6, 6⟩
def F.MSY_STATUS_REFPH_ACT : Fld := ⟨R.MSY_STATUS, 5, 4⟩
def F.MSY_STATUS_TXMUTE : Fld := ⟨R.MSY_STATUS, 3, 3⟩
def F.MSY_STATUS_CIDX_VALID : Fld := ⟨R.MSY_STATUS, 2, 2⟩
def F.MSY_STATUS_HOLD : Fld := ⟨R.MSY_STATUS, 1, 1⟩
def F.MSY_STATUS_LOCK : Fld := ⟨R.MSY_STATUS, 0, 0⟩
def F.MSY_EVT_SAT : Fld := ⟨R.MSY_EVT, 16, 16⟩
def F.MSY_EVT_MUX_REFUSED : Fld := ⟨R.MSY_EVT, 15, 15⟩
def F.MSY_EVT_CFG_ERR : Fld := ⟨R.MSY_EVT, 14, 14⟩
def F.MSY_EVT_PPS_LOST : Fld := ⟨R.MSY_EVT, 13, 13⟩
def F.MSY_EVT_TB_STEP : Fld := ⟨R.MSY_EVT, 12, 12⟩
def F.MSY_EVT_REF_SWITCH : Fld := ⟨R.MSY_EVT, 11, 11⟩
def F.MSY_EVT_PHASE_STEP : Fld := ⟨R.MSY_EVT, 10, 10⟩
def F.MSY_EVT_LOMS_CHG : Fld := ⟨R.MSY_EVT, 9, 9⟩
def F.MSY_EVT_PH_EVT : Fld := ⟨R.MSY_EVT, 8, 0⟩
def F.MSY_SNS_CFG_MUX_C : Fld := ⟨R.MSY_SNS_CFG, 11, 10⟩
def F.MSY_SNS_CFG_SCS_C : Fld := ⟨R.MSY_SNS_CFG, 9, 9⟩
def F.MSY_SNS_CFG_EN_C : Fld := ⟨R.MSY_SNS_CFG, 8, 8⟩
def F.MSY_SNS_CFG_MUX_B : Fld := ⟨R.MSY_SNS_CFG, 7, 6⟩
def F.MSY_SNS_CFG_SCS_B : Fld := ⟨R.MSY_SNS_CFG, 5, 5⟩
def F.MSY_SNS_CFG_EN_B : Fld := ⟨R.MSY_SNS_CFG, 4, 4⟩
def F.MSY_SNS_CFG_MUX_A : Fld := ⟨R.MSY_SNS_CFG, 3, 2⟩
def F.MSY_SNS_CFG_SCS_A : Fld := ⟨R.MSY_SNS_CFG, 1, 1⟩
def F.MSY_SNS_CFG_EN_A : Fld := ⟨R.MSY_SNS_CFG, 0, 0⟩
def F.MSY_CIDX_PRESET_PRESET : Fld := ⟨R.MSY_CIDX_PRESET, 31, 8⟩
def F.MSY_HOLD_TX_LIMIT : Fld := ⟨R.MSY_HOLD, 15, 0⟩
def F.MSY_SAG_DEB_OFF (p : Nat) : Fld := ⟨R.MSY_SAG p, 31, 28⟩
def F.MSY_SAG_DEB_ON (p : Nat) : Fld := ⟨R.MSY_SAG p, 27, 24⟩
def F.MSY_SAG_HYST (p : Nat) : Fld := ⟨R.MSY_SAG p, 22, 18⟩
def F.MSY_SAG_LEVEL (p : Nat) : Fld := ⟨R.MSY_SAG p, 17, 0⟩
def F.MSY_SWELL_DEB_OFF (p : Nat) : Fld := ⟨R.MSY_SWELL p, 31, 28⟩
def F.MSY_SWELL_DEB_ON (p : Nat) : Fld := ⟨R.MSY_SWELL p, 27, 24⟩
def F.MSY_SWELL_HYST (p : Nat) : Fld := ⟨R.MSY_SWELL p, 22, 18⟩
def F.MSY_SWELL_LEVEL (p : Nat) : Fld := ⟨R.MSY_SWELL p, 17, 0⟩
def F.MSY_LOSS_DEB_OFF (p : Nat) : Fld := ⟨R.MSY_LOSS p, 31, 28⟩
def F.MSY_LOSS_DEB_ON (p : Nat) : Fld := ⟨R.MSY_LOSS p, 27, 24⟩
def F.MSY_LOSS_HYST (p : Nat) : Fld := ⟨R.MSY_LOSS p, 22, 18⟩
def F.MSY_LOSS_LEVEL (p : Nat) : Fld := ⟨R.MSY_LOSS p, 17, 0⟩
def F.MSY_COEF_IDX_BANK : Fld := ⟨R.MSY_COEF_IDX, 8, 8⟩
def F.MSY_COEF_IDX_PHASE : Fld := ⟨R.MSY_COEF_IDX, 7, 6⟩
def F.MSY_COEF_IDX_I : Fld := ⟨R.MSY_COEF_IDX, 4, 2⟩
def F.MSY_COEF_IDX_J : Fld := ⟨R.MSY_COEF_IDX, 1, 0⟩
def F.MSY_PPS_CTRL_MODE : Fld := ⟨R.MSY_PPS_CTRL, 1, 0⟩
def F.RXF_CTRL_BLANK_EN (i : Nat) : Fld := ⟨R.RXF_CTRL i, 3, 3⟩
def F.RXF_CTRL_INJ_EN (i : Nat) : Fld := ⟨R.RXF_CTRL i, 2, 2⟩
def F.RXF_CTRL_AGC (i : Nat) : Fld := ⟨R.RXF_CTRL i, 1, 1⟩
def F.RXF_CTRL_EN (i : Nat) : Fld := ⟨R.RXF_CTRL i, 0, 0⟩
def F.RXF_GAIN_MAX (i : Nat) : Fld := ⟨R.RXF_GAIN i, 6, 4⟩
def F.RXF_GAIN_GAIN (i : Nat) : Fld := ⟨R.RXF_GAIN i, 2, 0⟩
def F.RXF_FIR_CFG_DEC2 (i : Nat) (b : Nat) : Fld := ⟨R.RXF_FIR_CFG i b, 28, 28⟩
def F.RXF_FIR_CFG_SHIFT (i : Nat) (b : Nat) : Fld := ⟨R.RXF_FIR_CFG i b, 27, 24⟩
def F.RXF_FIR_CFG_DELAY (i : Nat) (b : Nat) : Fld := ⟨R.RXF_FIR_CFG i b, 23, 14⟩
def F.RXF_FIR_CFG_NTAP4 (i : Nat) (b : Nat) : Fld := ⟨R.RXF_FIR_CFG i b, 6, 0⟩
def F.RXF_COEF_IDX_BANK (i : Nat) : Fld := ⟨R.RXF_COEF_IDX i, 9, 9⟩
def F.RXF_COEF_IDX_TAP (i : Nat) : Fld := ⟨R.RXF_COEF_IDX i, 8, 0⟩
def F.RXF_FIR_SWAP_KEEP (i : Nat) : Fld := ⟨R.RXF_FIR_SWAP i, 2, 2⟩
def F.RXF_FIR_SWAP_BANK (i : Nat) : Fld := ⟨R.RXF_FIR_SWAP i, 1, 1⟩
def F.RXF_FIR_SWAP_GO (i : Nat) : Fld := ⟨R.RXF_FIR_SWAP i, 0, 0⟩
def F.RXF_STATUS_PWR (i : Nat) : Fld := ⟨R.RXF_STATUS i, 5, 5⟩
def F.RXF_STATUS_SETTLING (i : Nat) : Fld := ⟨R.RXF_STATUS i, 4, 4⟩
def F.RXF_STATUS_DEC2 (i : Nat) : Fld := ⟨R.RXF_STATUS i, 3, 3⟩
def F.RXF_STATUS_SWAP_PEND (i : Nat) : Fld := ⟨R.RXF_STATUS i, 2, 2⟩
def F.RXF_STATUS_ROMF (i : Nat) : Fld := ⟨R.RXF_STATUS i, 1, 1⟩
def F.RXF_STATUS_ACT_BANK (i : Nat) : Fld := ⟨R.RXF_STATUS i, 0, 0⟩
def F.RXF_EVT_INJ_GAP (i : Nat) : Fld := ⟨R.RXF_EVT i, 7, 7⟩
def F.RXF_EVT_GAIN_CHG (i : Nat) : Fld := ⟨R.RXF_EVT i, 6, 6⟩
def F.RXF_EVT_BLANK_SAT (i : Nat) : Fld := ⟨R.RXF_EVT i, 5, 5⟩
def F.RXF_EVT_SAT (i : Nat) : Fld := ⟨R.RXF_EVT i, 4, 4⟩
def F.RXF_EVT_OVR (i : Nat) : Fld := ⟨R.RXF_EVT i, 3, 3⟩
def F.RXF_EVT_CFG_ERR (i : Nat) : Fld := ⟨R.RXF_EVT i, 2, 2⟩
def F.RXF_EVT_SWAP_CANCEL (i : Nat) : Fld := ⟨R.RXF_EVT i, 1, 1⟩
def F.RXF_EVT_SWAP_DONE (i : Nat) : Fld := ⟨R.RXF_EVT i, 0, 0⟩
def F.RXF_INJ_SHIFT2 (i : Nat) : Fld := ⟨R.RXF_INJ i, 3, 0⟩
def F.RXF_BLK_CFG_BETA (i : Nat) : Fld := ⟨R.RXF_BLK_CFG i, 27, 24⟩
def F.RXF_BLK_CFG_POST (i : Nat) : Fld := ⟨R.RXF_BLK_CFG i, 23, 16⟩
def F.RXF_BLK_CFG_PRE (i : Nat) : Fld := ⟨R.RXF_BLK_CFG i, 12, 8⟩
def F.RXF_BLK_CFG_K (i : Nat) : Fld := ⟨R.RXF_BLK_CFG i, 5, 0⟩
def F.RXF_BLK_FLOOR_FLOOR (i : Nat) : Fld := ⟨R.RXF_BLK_FLOOR i, 16, 0⟩
def F.RXF_BLK_MAXRUN_MAXRUN (i : Nat) : Fld := ⟨R.RXF_BLK_MAXRUN i, 15, 0⟩
def F.TSL_CFG_HOLD_SUB (i : Nat) : Fld := ⟨R.TSL_CFG i, 23, 16⟩
def F.TSL_CFG_MINC (i : Nat) : Fld := ⟨R.TSL_CFG i, 11, 8⟩
def F.TSL_CFG_MU (i : Nat) : Fld := ⟨R.TSL_CFG i, 7, 4⟩
def F.TSL_CFG_RES (i : Nat) : Fld := ⟨R.TSL_CFG i, 3, 2⟩
def F.TSL_CFG_FREEZE (i : Nat) : Fld := ⟨R.TSL_CFG i, 1, 1⟩
def F.TSL_CFG_EN (i : Nat) : Fld := ⟨R.TSL_CFG i, 0, 0⟩
def F.TSL_STATUS_READY_BINS (i : Nat) : Fld := ⟨R.TSL_STATUS i, 31, 16⟩
def F.TSL_STATUS_SAFE (i : Nat) : Fld := ⟨R.TSL_STATUS i, 4, 4⟩
def F.TSL_STATUS_HOLD_FRZ (i : Nat) : Fld := ⟨R.TSL_STATUS i, 3, 3⟩
def F.TSL_STATUS_HOST_FRZ (i : Nat) : Fld := ⟨R.TSL_STATUS i, 2, 2⟩
def F.TSL_STATUS_ADAPT (i : Nat) : Fld := ⟨R.TSL_STATUS i, 1, 1⟩
def F.TSL_STATUS_SUB (i : Nat) : Fld := ⟨R.TSL_STATUS i, 0, 0⟩
def F.TSL_EVT_PERR (i : Nat) : Fld := ⟨R.TSL_EVT i, 3, 3⟩
def F.TSL_EVT_RESID_SAT (i : Nat) : Fld := ⟨R.TSL_EVT i, 2, 2⟩
def F.TSL_EVT_CFG_ERR (i : Nat) : Fld := ⟨R.TSL_EVT i, 1, 1⟩
def F.TSL_EVT_CLEARED (i : Nat) : Fld := ⟨R.TSL_EVT i, 0, 0⟩
def F.TSL_SUPP_VALID (i : Nat) : Fld := ⟨R.TSL_SUPP i, 31, 31⟩
def F.TSL_TPL_IDX_BIN (i : Nat) : Fld := ⟨R.TSL_TPL_IDX i, 14, 0⟩
def F.TSL_TPL_DATA_C (i : Nat) : Fld := ⟨R.TSL_TPL_DATA i, 27, 24⟩
def F.TSL_TPL_DATA_T (i : Nat) : Fld := ⟨R.TSL_TPL_DATA i, 23, 0⟩
def F.CMP_CTRL_VMIN : Fld := ⟨R.CMP_CTRL, 11, 8⟩
def F.CMP_CTRL_ALPHA : Fld := ⟨R.CMP_CTRL, 7, 4⟩
def F.CMP_CTRL_EN : Fld := ⟨R.CMP_CTRL, 0, 0⟩
def F.CMP_STATUS_N_FREE : Fld := ⟨R.CMP_STATUS, 26, 18⟩
def F.CMP_STATUS_N_TRACK : Fld := ⟨R.CMP_STATUS, 17, 9⟩
def F.CMP_STATUS_N_SEARCH : Fld := ⟨R.CMP_STATUS, 8, 0⟩
def F.CMP_EVT_SAFE : Fld := ⟨R.CMP_EVT, 5, 5⟩
def F.CMP_EVT_LOCKLOSS : Fld := ⟨R.CMP_EVT, 4, 4⟩
def F.CMP_EVT_DROP : Fld := ⟨R.CMP_EVT, 3, 3⟩
def F.CMP_EVT_SPC : Fld := ⟨R.CMP_EVT, 2, 2⟩
def F.CMP_EVT_CFG_ERR : Fld := ⟨R.CMP_EVT, 1, 1⟩
def F.CMP_EVT_DET : Fld := ⟨R.CMP_EVT, 0, 0⟩
def F.CMP_TP_IDX_BANK : Fld := ⟨R.CMP_TP_IDX, 8, 8⟩
def F.CMP_TP_IDX_PAIR : Fld := ⟨R.CMP_TP_IDX, 7, 0⟩
def F.CMP_TP_DATA_VALID : Fld := ⟨R.CMP_TP_DATA, 31, 31⟩
def F.CMP_TP_DATA_MMAX : Fld := ⟨R.CMP_TP_DATA, 24, 22⟩
def F.CMP_TP_DATA_SPACE : Fld := ⟨R.CMP_TP_DATA, 21, 11⟩
def F.CMP_TP_DATA_MARK : Fld := ⟨R.CMP_TP_DATA, 10, 0⟩
def F.CMP_TP_CFG_FLIM (b : Nat) : Fld := ⟨R.CMP_TP_CFG b, 8, 0⟩
def F.CMP_TP_SWAP_BANK : Fld := ⟨R.CMP_TP_SWAP, 1, 1⟩
def F.CMP_TP_SWAP_GO : Fld := ⟨R.CMP_TP_SWAP, 0, 0⟩
def F.CMP_TP_STATUS_BAD : Fld := ⟨R.CMP_TP_STATUS, 16, 16⟩
def F.CMP_TP_STATUS_BAD_PAIR : Fld := ⟨R.CMP_TP_STATUS, 15, 8⟩
def F.CMP_TP_STATUS_NONE : Fld := ⟨R.CMP_TP_STATUS, 2, 2⟩
def F.CMP_TP_STATUS_SWAP_PEND : Fld := ⟨R.CMP_TP_STATUS, 1, 1⟩
def F.CMP_TP_STATUS_ACT_BANK : Fld := ⟨R.CMP_TP_STATUS, 0, 0⟩
def F.CMP_WIN_IDX_LANE : Fld := ⟨R.CMP_WIN_IDX, 7, 0⟩
def F.COD_CTRL_EMIN : Fld := ⟨R.COD_CTRL, 11, 8⟩
def F.COD_CTRL_RET_EN : Fld := ⟨R.COD_CTRL, 4, 4⟩
def F.COD_CTRL_MSEL_EN : Fld := ⟨R.COD_CTRL, 3, 3⟩
def F.COD_CTRL_EN : Fld := ⟨R.COD_CTRL, 0, 0⟩
def F.COD_FRAME_CFG_PRE8 : Fld := ⟨R.COD_FRAME_CFG, 3, 0⟩
def F.COD_RET_CFG_RET_CYC : Fld := ⟨R.COD_RET_CFG, 31, 16⟩
def F.COD_RET_CFG_RET_MAX : Fld := ⟨R.COD_RET_CFG, 11, 8⟩
def F.COD_RET_CFG_DIS_MAX : Fld := ⟨R.COD_RET_CFG, 7, 0⟩
def F.COD_STATUS_RET_USED : Fld := ⟨R.COD_STATUS, 12, 0⟩
def F.COD_EVT_RET_EVICT : Fld := ⟨R.COD_EVT, 4, 4⟩
def F.COD_EVT_MISMATCH : Fld := ⟨R.COD_EVT, 3, 3⟩
def F.COD_EVT_COPY_DROP : Fld := ⟨R.COD_EVT, 2, 2⟩
def F.COD_EVT_CFG_ERR : Fld := ⟨R.COD_EVT, 1, 1⟩
def F.COD_EVT_HDR_FAIL : Fld := ⟨R.COD_EVT, 0, 0⟩
def F.COD_MSEL_P_UP_SNR : Fld := ⟨R.COD_MSEL_P, 31, 24⟩
def F.COD_MSEL_P_DN_SNR : Fld := ⟨R.COD_MSEL_P, 23, 16⟩
def F.COD_MSEL_P_UP_ER : Fld := ⟨R.COD_MSEL_P, 15, 10⟩
def F.COD_MSEL_P_DN_ER : Fld := ⟨R.COD_MSEL_P, 9, 4⟩
def F.COD_MSEL_P_DN_RF : Fld := ⟨R.COD_MSEL_P, 3, 0⟩
def F.COD_MSEL_C_UP_SNR : Fld := ⟨R.COD_MSEL_C, 31, 24⟩
def F.COD_MSEL_C_DN_SNR : Fld := ⟨R.COD_MSEL_C, 23, 16⟩
def F.COD_MSEL_C_UP_ER : Fld := ⟨R.COD_MSEL_C, 15, 10⟩
def F.COD_MSEL_C_DN_ER : Fld := ⟨R.COD_MSEL_C, 9, 4⟩
def F.COD_MSEL_C_DN_RF : Fld := ⟨R.COD_MSEL_C, 3, 0⟩
def F.COD_MSEL_R4_UP_SNR : Fld := ⟨R.COD_MSEL_R4, 31, 24⟩
def F.COD_MSEL_R4_DN_SNR : Fld := ⟨R.COD_MSEL_R4, 23, 16⟩
def F.COD_MSEL_R4_UP_ER : Fld := ⟨R.COD_MSEL_R4, 15, 10⟩
def F.COD_MSEL_R4_DN_ER : Fld := ⟨R.COD_MSEL_R4, 9, 4⟩
def F.COD_MSEL_R4_DN_RF : Fld := ⟨R.COD_MSEL_R4, 3, 0⟩
def F.TXS_CTRL_IDLE : Fld := ⟨R.TXS_CTRL, 3, 3⟩
def F.TXS_CTRL_SPS : Fld := ⟨R.TXS_CTRL, 2, 2⟩
def F.TXS_CTRL_ALC : Fld := ⟨R.TXS_CTRL, 1, 1⟩
def F.TXS_CTRL_EN : Fld := ⟨R.TXS_CTRL, 0, 0⟩
def F.TXS_STATUS_VDRV_LOW : Fld := ⟨R.TXS_STATUS, 10, 10⟩
def F.TXS_STATUS_VDRV_OK : Fld := ⟨R.TXS_STATUS, 9, 9⟩
def F.TXS_STATUS_PG : Fld := ⟨R.TXS_STATUS, 8, 6⟩
def F.TXS_STATUS_TXF : Fld := ⟨R.TXS_STATUS, 5, 3⟩
def F.TXS_STATUS_MUTE : Fld := ⟨R.TXS_STATUS, 2, 0⟩
def F.TXS_EVT_CFG_ERR : Fld := ⟨R.TXS_EVT, 9, 9⟩
def F.TXS_EVT_VDRV_LOW : Fld := ⟨R.TXS_EVT, 8, 8⟩
def F.TXS_EVT_THERM_WARN : Fld := ⟨R.TXS_EVT, 7, 7⟩
def F.TXS_EVT_REC : Fld := ⟨R.TXS_EVT, 6, 6⟩
def F.TXS_EVT_CLIP : Fld := ⟨R.TXS_EVT, 5, 3⟩
def F.TXS_EVT_TXF_RAISE : Fld := ⟨R.TXS_EVT, 2, 0⟩
def F.TXS_LIM_CFG_CLIP_THR : Fld := ⟨R.TXS_LIM_CFG, 31, 24⟩
def F.TXS_LIM_CFG_KNEE : Fld := ⟨R.TXS_LIM_CFG, 17, 0⟩
def F.TXS_REC_CFG_RETRY_T : Fld := ⟨R.TXS_REC_CFG, 31, 16⟩
def F.TXS_REC_CFG_TW : Fld := ⟨R.TXS_REC_CFG, 15, 8⟩
def F.TXS_REC_CFG_RETRY : Fld := ⟨R.TXS_REC_CFG, 1, 0⟩
def F.TXS_ALC_CFG_I_TGT : Fld := ⟨R.TXS_ALC_CFG, 31, 24⟩
def F.TXS_ALC_CFG_PD_MAX : Fld := ⟨R.TXS_ALC_CFG, 23, 12⟩
def F.TXS_ALC_CFG_ATT_START : Fld := ⟨R.TXS_ALC_CFG, 7, 0⟩
def F.TXS_WAKE_CFG_GAP : Fld := ⟨R.TXS_WAKE_CFG, 7, 4⟩
def F.TXS_WAKE_CFG_REP : Fld := ⟨R.TXS_WAKE_CFG, 3, 0⟩
def F.TXS_Z_IDX_TONE : Fld := ⟨R.TXS_Z_IDX, 10, 10⟩
def F.TXS_Z_IDX_PHASE : Fld := ⟨R.TXS_Z_IDX, 9, 8⟩
def F.TXS_Z_IDX_PAIR : Fld := ⟨R.TXS_Z_IDX, 7, 0⟩
def F.TXS_Z_DATA_VALID : Fld := ⟨R.TXS_Z_DATA, 31, 31⟩
def F.TXS_Z_DATA_ANGLE : Fld := ⟨R.TXS_Z_DATA, 27, 16⟩
def F.TXS_Z_DATA_MAG : Fld := ⟨R.TXS_Z_DATA, 15, 0⟩
def F.TXS_LVL_NCAP (p : Nat) : Fld := ⟨R.TXS_LVL p, 21, 16⟩
def F.TXS_LVL_ATT (p : Nat) : Fld := ⟨R.TXS_LVL p, 9, 0⟩
def F.TXS_LVL_MAX_LVL (p : Nat) : Fld := ⟨R.TXS_LVL_MAX p, 9, 0⟩
def F.TXS_REG_MAX_LVL (p : Nat) : Fld := ⟨R.TXS_REG_MAX p, 9, 0⟩
def F.TXS_PAT_PEAK_PEAK (p : Nat) : Fld := ⟨R.TXS_PAT_PEAK p, 16, 0⟩
def F.TXS_MIX_SRC (p : Nat) : Fld := ⟨R.TXS_MIX p, 21, 20⟩
def F.TXS_MIX_PGAIN (p : Nat) : Fld := ⟨R.TXS_MIX p, 17, 0⟩
def F.TXS_ILIM_ILIM (p : Nat) : Fld := ⟨R.TXS_ILIM p, 5, 0⟩
def F.TXS_TXF_CLR (p : Nat) : Fld := ⟨R.TXS_TXF p, 8, 8⟩
def F.TXS_TXF_RETRY_LEFT (p : Nat) : Fld := ⟨R.TXS_TXF p, 7, 6⟩
def F.TXS_TXF_LANE (p : Nat) : Fld := ⟨R.TXS_TXF p, 4, 4⟩
def F.TXS_TXF_PG (p : Nat) : Fld := ⟨R.TXS_TXF p, 3, 3⟩
def F.TXS_TXF_UV (p : Nat) : Fld := ⟨R.TXS_TXF p, 2, 2⟩
def F.TXS_TXF_THERM (p : Nat) : Fld := ⟨R.TXS_TXF p, 1, 1⟩
def F.TXS_TXF_OC (p : Nat) : Fld := ⟨R.TXS_TXF p, 0, 0⟩
def F.TXS_TEMP_TEMP (p : Nat) : Fld := ⟨R.TXS_TEMP p, 15, 0⟩
def F.TXS_ACT_ACTIVE (p : Nat) : Fld := ⟨R.TXS_ACT p, 29, 24⟩
def F.TXS_ACT_NCAP_EFF (p : Nat) : Fld := ⟨R.TXS_ACT p, 21, 16⟩
def F.TXS_ACT_LVL_EFF (p : Nat) : Fld := ⟨R.TXS_ACT p, 9, 0⟩
def F.LFR_CTRL_CKPT_EN : Fld := ⟨R.LFR_CTRL, 3, 3⟩
def F.LFR_CTRL_PM_EN : Fld := ⟨R.LFR_CTRL, 2, 2⟩
def F.LFR_CTRL_REP_SCHED : Fld := ⟨R.LFR_CTRL, 1, 1⟩
def F.LFR_CTRL_EN : Fld := ⟨R.LFR_CTRL, 0, 0⟩
def F.LFR_STATUS_N_SYNC : Fld := ⟨R.LFR_STATUS, 24, 16⟩
def F.LFR_STATUS_N_LOF : Fld := ⟨R.LFR_STATUS, 8, 0⟩
def F.LFR_EVT_CKPT_FAIL : Fld := ⟨R.LFR_EVT, 3, 3⟩
def F.LFR_EVT_UNROUTED : Fld := ⟨R.LFR_EVT, 2, 2⟩
def F.LFR_EVT_CFG_ERR : Fld := ⟨R.LFR_EVT, 1, 1⟩
def F.LFR_EVT_DEF_CHG : Fld := ⟨R.LFR_EVT, 0, 0⟩
def F.LFR_FRM_CFG_OOF_T : Fld := ⟨R.LFR_FRM_CFG, 31, 24⟩
def F.LFR_FRM_CFG_LOF_N : Fld := ⟨R.LFR_FRM_CFG, 23, 20⟩
def F.LFR_FRM_CFG_PSYNC_N : Fld := ⟨R.LFR_FRM_CFG, 19, 16⟩
def F.LFR_FRM_CFG_IDLE_MAX : Fld := ⟨R.LFR_FRM_CFG, 15, 8⟩
def F.LFR_FRM_CFG_TOL_L : Fld := ⟨R.LFR_FRM_CFG, 7, 4⟩
def F.LFR_FRM_CFG_TOL_H : Fld := ⟨R.LFR_FRM_CFG, 3, 0⟩
def F.LFR_PM_CFG_SES_ER : Fld := ⟨R.LFR_PM_CFG, 23, 16⟩
def F.LFR_PM_CFG_SES_FR : Fld := ⟨R.LFR_PM_CFG, 15, 8⟩
def F.LFR_PM_CFG_AUTHD_N : Fld := ⟨R.LFR_PM_CFG, 7, 4⟩
def F.LFR_PM_CFG_PLM_N : Fld := ⟨R.LFR_PM_CFG, 3, 0⟩
def F.LFR_DEF_DEV_TXF : Fld := ⟨R.LFR_DEF_DEV, 10, 8⟩
def F.LFR_DEF_DEV_LOS : Fld := ⟨R.LFR_DEF_DEV, 7, 4⟩
def F.LFR_DEF_DEV_LOMS : Fld := ⟨R.LFR_DEF_DEV, 0, 0⟩
def F.LFR_FILL_CFG_MODE : Fld := ⟨R.LFR_FILL_CFG, 12, 12⟩
def F.LFR_FILL_CFG_MAXLEN : Fld := ⟨R.LFR_FILL_CFG, 8, 0⟩
def F.LFR_LANE_IDX_LANE : Fld := ⟨R.LFR_LANE_IDX, 7, 0⟩
def F.LFR_LANE_CFG_PROF : Fld := ⟨R.LFR_LANE_CFG, 11, 8⟩
def F.LFR_LANE_CFG_SYNCM : Fld := ⟨R.LFR_LANE_CFG, 7, 4⟩
def F.LFR_LANE_CFG_CONT : Fld := ⟨R.LFR_LANE_CFG, 0, 0⟩
def F.LFR_LANE_STAT_MISS : Fld := ⟨R.LFR_LANE_STAT, 11, 8⟩
def F.LFR_LANE_STAT_PLM : Fld := ⟨R.LFR_LANE_STAT, 6, 6⟩
def F.LFR_LANE_STAT_LOF : Fld := ⟨R.LFR_LANE_STAT, 5, 5⟩
def F.LFR_LANE_STAT_LOL : Fld := ⟨R.LFR_LANE_STAT, 4, 4⟩
def F.LFR_LANE_STAT_FSTATE : Fld := ⟨R.LFR_LANE_STAT, 1, 0⟩
def F.LFR_LOS_LOS_OFF (p : Nat) : Fld := ⟨R.LFR_LOS p, 31, 24⟩
def F.LFR_LOS_LOS_ON (p : Nat) : Fld := ⟨R.LFR_LOS p, 23, 20⟩
def F.LFR_LOS_LEVEL (p : Nat) : Fld := ⟨R.LFR_LOS p, 17, 0⟩
def F.LFR_SESS_DEF_AUTHD : Fld := ⟨R.LFR_SESS_DEF, 31, 16⟩
def F.LFR_SESS_DEF_SUPV : Fld := ⟨R.LFR_SESS_DEF, 15, 0⟩
def F.LFR_SESS_PLM_PLM : Fld := ⟨R.LFR_SESS_PLM, 15, 0⟩
def F.LFR_LBL_ENC_REQ (n : Nat) : Fld := ⟨R.LFR_LBL n, 8, 8⟩
def F.LFR_LBL_DEST (n : Nat) : Fld := ⟨R.LFR_LBL n, 5, 4⟩
def F.LFR_LBL_RING (n : Nat) : Fld := ⟨R.LFR_LBL n, 2, 0⟩
def F.MAC_CTRL_RESCUE_DIV : Fld := ⟨R.MAC_CTRL, 11, 8⟩
def F.MAC_CTRL_EN : Fld := ⟨R.MAC_CTRL, 0, 0⟩
def F.MAC_STATUS_QA_FORCE : Fld := ⟨R.MAC_STATUS, 31, 24⟩
def F.MAC_STATUS_N_SESS : Fld := ⟨R.MAC_STATUS, 16, 0⟩
def F.MAC_EVT_QA_CANCEL : Fld := ⟨R.MAC_EVT, 7, 7⟩
def F.MAC_EVT_QA_END : Fld := ⟨R.MAC_EVT, 6, 6⟩
def F.MAC_EVT_MAP_SPLIT : Fld := ⟨R.MAC_EVT, 5, 5⟩
def F.MAC_EVT_BCN_SKIP : Fld := ⟨R.MAC_EVT, 4, 4⟩
def F.MAC_EVT_CONT_SHORT : Fld := ⟨R.MAC_EVT, 3, 3⟩
def F.MAC_EVT_NOLANE : Fld := ⟨R.MAC_EVT, 2, 2⟩
def F.MAC_EVT_CFG_ERR : Fld := ⟨R.MAC_EVT, 1, 1⟩
def F.MAC_EVT_SUPV_CHG : Fld := ⟨R.MAC_EVT, 0, 0⟩
def F.MAC_SLOT_CFG_QA_LEAD : Fld := ⟨R.MAC_SLOT_CFG, 31, 16⟩
def F.MAC_SLOT_CFG_SLOT_C : Fld := ⟨R.MAC_SLOT_CFG, 1, 0⟩
def F.MAC_GUARD_CFG_G_MAX : Fld := ⟨R.MAC_GUARD_CFG, 31, 20⟩
def F.MAC_GUARD_CFG_DRIFT : Fld := ⟨R.MAC_GUARD_CFG, 19, 10⟩
def F.MAC_GUARD_CFG_G_BASE : Fld := ⟨R.MAC_GUARD_CFG, 9, 0⟩
def F.MAC_CONT_CFG_OFF : Fld := ⟨R.MAC_CONT_CFG, 4, 4⟩
def F.MAC_CONT_CFG_PER_LOG2 : Fld := ⟨R.MAC_CONT_CFG, 3, 0⟩
def F.MAC_BCN_CFG_EN : Fld := ⟨R.MAC_BCN_CFG, 31, 31⟩
def F.MAC_BCN_CFG_CONT : Fld := ⟨R.MAC_BCN_CFG, 30, 30⟩
def F.MAC_BCN_CFG_PH : Fld := ⟨R.MAC_BCN_CFG, 29, 27⟩
def F.MAC_BCN_CFG_MODE : Fld := ⟨R.MAC_BCN_CFG, 26, 26⟩
def F.MAC_BCN_CFG_M : Fld := ⟨R.MAC_BCN_CFG, 25, 23⟩
def F.MAC_BCN_CFG_PER_LOG2 : Fld := ⟨R.MAC_BCN_CFG, 22, 19⟩
def F.MAC_BCN_CFG_PAIR : Fld := ⟨R.MAC_BCN_CFG, 7, 0⟩
def F.MAC_QA_IDX_ID : Fld := ⟨R.MAC_QA_IDX, 2, 0⟩
def F.MAC_QA_STAT_STATE : Fld := ⟨R.MAC_QA_STAT, 25, 24⟩
def F.MAC_QA_STAT_WIN_LOG2 : Fld := ⟨R.MAC_QA_STAT, 19, 16⟩
def F.MAC_QA_STAT_GROUP : Fld := ⟨R.MAC_QA_STAT, 7, 0⟩
def F.MAC_QA_DUR_DUR : Fld := ⟨R.MAC_QA_DUR, 23, 0⟩
def F.MAC_CONT_CH_EN (n : Nat) : Fld := ⟨R.MAC_CONT_CH n, 31, 31⟩
def F.MAC_CONT_CH_M (n : Nat) : Fld := ⟨R.MAC_CONT_CH n, 30, 28⟩
def F.MAC_CONT_CH_SYNCM (n : Nat) : Fld := ⟨R.MAC_CONT_CH n, 27, 24⟩
def F.MAC_CONT_CH_PROF (n : Nat) : Fld := ⟨R.MAC_CONT_CH n, 23, 20⟩
def F.MAC_CONT_CH_PHASE (n : Nat) : Fld := ⟨R.MAC_CONT_CH n, 9, 8⟩
def F.MAC_CONT_CH_PAIR (n : Nat) : Fld := ⟨R.MAC_CONT_CH n, 7, 0⟩
def F.MAC_BAND_RANGE_EN (n : Nat) : Fld := ⟨R.MAC_BAND_RANGE n, 31, 31⟩
def F.MAC_BAND_RANGE_PERPH (n : Nat) : Fld := ⟨R.MAC_BAND_RANGE n, 30, 30⟩
def F.MAC_BAND_RANGE_LO (n : Nat) : Fld := ⟨R.MAC_BAND_RANGE n, 26, 16⟩
def F.MAC_BAND_RANGE_HI (n : Nat) : Fld := ⟨R.MAC_BAND_RANGE n, 10, 0⟩
def F.MAC_BAND_BUDGET_WIN (n : Nat) : Fld := ⟨R.MAC_BAND_BUDGET n, 31, 16⟩
def F.MAC_BAND_BUDGET_ALLOW (n : Nat) : Fld := ⟨R.MAC_BAND_BUDGET n, 15, 0⟩
def F.MAC_BAND_CS_EN (n : Nat) : Fld := ⟨R.MAC_BAND_CS n, 31, 31⟩
def F.MAC_BAND_CS_LVL (n : Nat) : Fld := ⟨R.MAC_BAND_CS n, 23, 16⟩
def F.MAC_BAND_CS_T (n : Nat) : Fld := ⟨R.MAC_BAND_CS n, 7, 0⟩
def F.VET_CTRL_METHOD : Fld := ⟨R.VET_CTRL, 4, 4⟩
def F.VET_CTRL_RPT_PLAIN : Fld := ⟨R.VET_CTRL, 3, 3⟩
def F.VET_CTRL_DISC : Fld := ⟨R.VET_CTRL, 2, 2⟩
def F.VET_CTRL_EN : Fld := ⟨R.VET_CTRL, 0, 0⟩
def F.VET_STATUS_COMP : Fld := ⟨R.VET_STATUS, 31, 31⟩
def F.VET_STATUS_N_ROUTE : Fld := ⟨R.VET_STATUS, 17, 0⟩
def F.VET_EVT_SEEN_EVICT : Fld := ⟨R.VET_EVT, 7, 7⟩
def F.VET_EVT_RPT_REJ : Fld := ⟨R.VET_EVT, 6, 6⟩
def F.VET_EVT_NOROUTE : Fld := ⟨R.VET_EVT, 5, 5⟩
def F.VET_EVT_REPAIR : Fld := ⟨R.VET_EVT, 4, 4⟩
def F.VET_EVT_STASH_HIGH : Fld := ⟨R.VET_EVT, 3, 3⟩
def F.VET_EVT_DIR_REFUSED : Fld := ⟨R.VET_EVT, 2, 2⟩
def F.VET_EVT_CFG_ERR : Fld := ⟨R.VET_EVT, 1, 1⟩
def F.VET_EVT_ROUTE_CHG : Fld := ⟨R.VET_EVT, 0, 0⟩
def F.VET_COST_CFG0_BASE : Fld := ⟨R.VET_COST_CFG0, 31, 24⟩
def F.VET_COST_CFG0_W_RT : Fld := ⟨R.VET_COST_CFG0, 21, 16⟩
def F.VET_COST_CFG0_W_SNR : Fld := ⟨R.VET_COST_CFG0, 13, 8⟩
def F.VET_COST_CFG0_W_ER : Fld := ⟨R.VET_COST_CFG0, 3, 0⟩
def F.VET_COST_CFG1_ASYM : Fld := ⟨R.VET_COST_CFG1, 31, 24⟩
def F.VET_COST_CFG1_SNR_MIN : Fld := ⟨R.VET_COST_CFG1, 21, 16⟩
def F.VET_COST_CFG1_SNR_REF : Fld := ⟨R.VET_COST_CFG1, 12, 8⟩
def F.VET_COST_CFG1_AGE_MAX : Fld := ⟨R.VET_COST_CFG1, 7, 0⟩
def F.VET_ROUTE_CFG_H_MAX : Fld := ⟨R.VET_ROUTE_CFG, 31, 28⟩
def F.VET_ROUTE_CFG_REPAIR_HOLD : Fld := ⟨R.VET_ROUTE_CFG, 27, 24⟩
def F.VET_ROUTE_CFG_HOP_WAIT : Fld := ⟨R.VET_ROUTE_CFG, 23, 12⟩
def F.VET_ROUTE_CFG_HYST : Fld := ⟨R.VET_ROUTE_CFG, 7, 0⟩
def F.VET_FLOOD_CFG_REBCAST : Fld := ⟨R.VET_FLOOD_CFG, 31, 31⟩
def F.VET_FLOOD_CFG_TTL : Fld := ⟨R.VET_FLOOD_CFG, 27, 24⟩
def F.VET_FLOOD_CFG_FLOOD_RATE : Fld := ⟨R.VET_FLOOD_CFG, 23, 16⟩
def F.VET_FLOOD_CFG_SEEN_T : Fld := ⟨R.VET_FLOOD_CFG, 15, 0⟩
def F.VET_ROOT_ADDR : Fld := ⟨R.VET_ROOT, 17, 0⟩
def F.VET_DIR_STATUS_STASH : Fld := ⟨R.VET_DIR_STATUS, 30, 24⟩
def F.VET_DIR_STATUS_N_ENTRY : Fld := ⟨R.VET_DIR_STATUS, 17, 0⟩
def F.YAR_CTRL_PLAY_EN : Fld := ⟨R.YAR_CTRL, 1, 1⟩
def F.YAR_CTRL_CAP_EN : Fld := ⟨R.YAR_CTRL, 0, 0⟩
def F.YAR_REGION_PAT : Fld := ⟨R.YAR_REGION, 14, 8⟩
def F.YAR_REGION_CAP : Fld := ⟨R.YAR_REGION, 6, 0⟩
def F.YAR_STATUS_REGION_OK : Fld := ⟨R.YAR_STATUS, 31, 31⟩
def F.YAR_STATUS_N_ARMED : Fld := ⟨R.YAR_STATUS, 20, 16⟩
def F.YAR_STATUS_N_ACT : Fld := ⟨R.YAR_STATUS, 12, 8⟩
def F.YAR_STATUS_PLAYING : Fld := ⟨R.YAR_STATUS, 6, 0⟩
def F.YAR_EVT_LATE : Fld := ⟨R.YAR_EVT, 6, 6⟩
def F.YAR_EVT_UNCORR : Fld := ⟨R.YAR_EVT, 5, 5⟩
def F.YAR_EVT_PGAP : Fld := ⟨R.YAR_EVT, 4, 4⟩
def F.YAR_EVT_LOSS : Fld := ⟨R.YAR_EVT, 3, 3⟩
def F.YAR_EVT_FULL : Fld := ⟨R.YAR_EVT, 2, 2⟩
def F.YAR_EVT_SEG_DONE : Fld := ⟨R.YAR_EVT, 1, 1⟩
def F.YAR_EVT_CFG_ERR : Fld := ⟨R.YAR_EVT, 0, 0⟩
def F.YAR_STRM_IDX_STREAM : Fld := ⟨R.YAR_STRM_IDX, 3, 0⟩
def F.YAR_STRM_STAT_FUNC : Fld := ⟨R.YAR_STRM_STAT, 30, 28⟩
def F.YAR_STRM_STAT_STATE : Fld := ⟨R.YAR_STRM_STAT, 26, 24⟩
def F.YAR_STRM_STAT_TAP : Fld := ⟨R.YAR_STRM_STAT, 22, 20⟩
def F.YAR_STRM_STAT_MODE : Fld := ⟨R.YAR_STRM_STAT, 17, 16⟩
def F.YAR_STRM_STAT_RING : Fld := ⟨R.YAR_STRM_STAT, 15, 8⟩
def F.YAR_STRM_STAT_REARM_LEFT : Fld := ⟨R.YAR_STRM_STAT, 7, 0⟩
def F.YAR_PLAY_IDX_PLAYER : Fld := ⟨R.YAR_PLAY_IDX, 2, 0⟩
def F.YAR_PLAY_STAT_STATE : Fld := ⟨R.YAR_PLAY_STAT, 25, 24⟩
def F.YAR_PLAY_STAT_FUNC : Fld := ⟨R.YAR_PLAY_STAT, 22, 20⟩
def F.YAR_PLAY_STAT_ENTRY : Fld := ⟨R.YAR_PLAY_STAT, 15, 0⟩
def F.HQE_STATUS_NUMVF : Fld := ⟨R.HQE_STATUS, 18, 16⟩
def F.HQE_STATUS_LSPD : Fld := ⟨R.HQE_STATUS, 9, 8⟩
def F.HQE_STATUS_LWID : Fld := ⟨R.HQE_STATUS, 3, 0⟩
def F.HQE_STALE_CFG_KQ : Fld := ⟨R.HQE_STALE_CFG, 31, 24⟩
def F.HQE_STALE_CFG_EQ : Fld := ⟨R.HQE_STALE_CFG, 23, 16⟩
def F.HQE_STALE_CFG_RQ : Fld := ⟨R.HQE_STALE_CFG, 15, 8⟩
def F.HQE_STALE_CFG_CQ : Fld := ⟨R.HQE_STALE_CFG, 7, 0⟩
def F.HQE_EVT_XWIN : Fld := ⟨R.HQE_EVT, 8, 8⟩
def F.HQE_EVT_RERR : Fld := ⟨R.HQE_EVT, 7, 0⟩
def F.HQE_XWIN_LOG_OFFSET : Fld := ⟨R.HQE_XWIN_LOG, 15, 0⟩
def F.HQE_FN_CTRL_EVEC (fn : Nat) : Fld := ⟨R.HQE_FN_CTRL fn, 5, 1⟩
def F.HQE_FN_CTRL_EN (fn : Nat) : Fld := ⟨R.HQE_FN_CTRL fn, 0, 0⟩
def F.HQE_FN_STATUS_HELD (fn : Nat) : Fld := ⟨R.HQE_FN_STATUS fn, 18, 18⟩
def F.HQE_FN_STATUS_SAFE (fn : Nat) : Fld := ⟨R.HQE_FN_STATUS fn, 17, 17⟩
def F.HQE_FN_STATUS_GRANT (fn : Nat) : Fld := ⟨R.HQE_FN_STATUS fn, 16, 16⟩
def F.HQE_FN_STATUS_OUTSTANDING (fn : Nat) : Fld := ⟨R.HQE_FN_STATUS fn, 12, 0⟩
def F.HQE_FN_EVT_HELD (fn : Nat) : Fld := ⟨R.HQE_FN_EVT fn, 5, 5⟩
def F.HQE_FN_EVT_LOST (fn : Nat) : Fld := ⟨R.HQE_FN_EVT fn, 4, 4⟩
def F.HQE_FN_EVT_DMA_ERR (fn : Nat) : Fld := ⟨R.HQE_FN_EVT fn, 3, 3⟩
def F.HQE_FN_EVT_DB_IGN (fn : Nat) : Fld := ⟨R.HQE_FN_EVT fn, 2, 2⟩
def F.HQE_FN_EVT_RING_ERR (fn : Nat) : Fld := ⟨R.HQE_FN_EVT fn, 1, 1⟩
def F.HQE_FN_EVT_CFG_ERR (fn : Nat) : Fld := ⟨R.HQE_FN_EVT fn, 0, 0⟩
def F.HQE_FN_FLR_ABORTED (fn : Nat) : Fld := ⟨R.HQE_FN_FLR fn, 15, 0⟩
def F.HQE_FN_LOST_RQ (fn : Nat) : Fld := ⟨R.HQE_FN_LOST fn, 31, 16⟩
def F.HQE_FN_LOST_EQ (fn : Nat) : Fld := ⟨R.HQE_FN_LOST fn, 15, 0⟩
def F.HQE_RCFG_EN (fn : Nat) (r : Nat) : Fld := ⟨R.HQE_RCFG fn r, 31, 31⟩
def F.HQE_RCFG_IEN (fn : Nat) (r : Nat) : Fld := ⟨R.HQE_RCFG fn r, 30, 30⟩
def F.HQE_RCFG_CQ (fn : Nat) (r : Nat) : Fld := ⟨R.HQE_RCFG fn r, 28, 25⟩
def F.HQE_RCFG_SIZE (fn : Nat) (r : Nat) : Fld := ⟨R.HQE_RCFG fn r, 24, 21⟩
def F.HQE_RCFG_VEC (fn : Nat) (r : Nat) : Fld := ⟨R.HQE_RCFG fn r, 20, 16⟩
def F.HQE_RCFG_LEVEL (fn : Nat) (r : Nat) : Fld := ⟨R.HQE_RCFG fn r, 15, 0⟩
def F.HQE_RSTAT_STATE (fn : Nat) (r : Nat) : Fld := ⟨R.HQE_RSTAT fn r, 31, 30⟩
def F.HQE_RSTAT_PHASE (fn : Nat) (r : Nat) : Fld := ⟨R.HQE_RSTAT fn r, 29, 29⟩
def F.HQE_RSTAT_ERR (fn : Nat) (r : Nat) : Fld := ⟨R.HQE_RSTAT fn r, 28, 26⟩
def F.HQE_RSTAT_INDEX (fn : Nat) (r : Nat) : Fld := ⟨R.HQE_RSTAT fn r, 15, 0⟩
def F.TEN_CFG_SYS_CH : Fld := ⟨R.TEN_CFG, 28, 24⟩
def F.TEN_CFG_SPARE_BGT : Fld := ⟨R.TEN_CFG, 23, 16⟩
def F.TEN_CFG_SPARE_SL : Fld := ⟨R.TEN_CFG, 15, 8⟩
def F.TEN_CFG_FRAME_LOG2 : Fld := ⟨R.TEN_CFG, 3, 0⟩
def F.TEN_STATUS_VALID : Fld := ⟨R.TEN_STATUS, 31, 31⟩
def F.TEN_STATUS_LOCKED : Fld := ⟨R.TEN_STATUS, 30, 30⟩
def F.TEN_STATUS_CONF : Fld := ⟨R.TEN_STATUS, 20, 16⟩
def F.TEN_STATUS_BAD : Fld := ⟨R.TEN_STATUS, 7, 0⟩
def F.TEN_EVT_CONF : Fld := ⟨R.TEN_EVT, 1, 1⟩
def F.TEN_EVT_INVALID : Fld := ⟨R.TEN_EVT, 0, 0⟩
def F.TEN_ALO_EN (n : Nat) (r : Nat) : Fld := ⟨R.TEN_ALO n r, 31, 31⟩
def F.TEN_ALO_LO (n : Nat) (r : Nat) : Fld := ⟨R.TEN_ALO n r, 17, 0⟩
def F.TEN_AHI_HI (n : Nat) (r : Nat) : Fld := ⟨R.TEN_AHI n r, 17, 0⟩
def F.TEN_SESS_RET_Q (n : Nat) : Fld := ⟨R.TEN_SESS n, 29, 17⟩
def F.TEN_SESS_SESS_MAX (n : Nat) : Fld := ⟨R.TEN_SESS n, 16, 0⟩
def F.TEN_KEY_KCOUNT (n : Nat) : Fld := ⟨R.TEN_KEY n, 31, 16⟩
def F.TEN_KEY_KBASE (n : Nat) : Fld := ⟨R.TEN_KEY n, 15, 0⟩
def F.TEN_DRAM_PAT_SIZE (n : Nat) : Fld := ⟨R.TEN_DRAM n, 29, 24⟩
def F.TEN_DRAM_PAT_BASE (n : Nat) : Fld := ⟨R.TEN_DRAM n, 21, 16⟩
def F.TEN_DRAM_CAP_SIZE (n : Nat) : Fld := ⟨R.TEN_DRAM n, 14, 8⟩
def F.TEN_DRAM_CAP_BASE (n : Nat) : Fld := ⟨R.TEN_DRAM n, 6, 0⟩
def F.TEN_PAIR_EN (n : Nat) : Fld := ⟨R.TEN_PAIR n, 31, 31⟩
def F.TEN_PAIR_CHR (n : Nat) : Fld := ⟨R.TEN_PAIR n, 21, 16⟩
def F.TEN_PAIR_PAIR_HI (n : Nat) : Fld := ⟨R.TEN_PAIR n, 15, 8⟩
def F.TEN_PAIR_PAIR_LO (n : Nat) : Fld := ⟨R.TEN_PAIR n, 7, 0⟩
def F.TEN_RES_WT (n : Nat) : Fld := ⟨R.TEN_RES n, 23, 16⟩
def F.TEN_RES_RES (n : Nat) : Fld := ⟨R.TEN_RES n, 15, 0⟩
def F.TEN_GRANT_GRANT (n : Nat) : Fld := ⟨R.TEN_GRANT n, 31, 31⟩
def F.TEN_GRANT_TAPS (n : Nat) : Fld := ⟨R.TEN_GRANT n, 6, 0⟩
def F.TEN_USE_SESS_RET_USED (n : Nat) : Fld := ⟨R.TEN_USE_SESS n, 29, 17⟩
def F.TEN_USE_SESS_SESS (n : Nat) : Fld := ⟨R.TEN_USE_SESS n, 16, 0⟩
def F.TEN_USE_RC_SPARE (n : Nat) : Fld := ⟨R.TEN_USE_RC n, 31, 16⟩
def F.TEN_USE_RC_RC (n : Nat) : Fld := ⟨R.TEN_USE_RC n, 15, 0⟩
def F.SEC_CTRL_SCM : Fld := ⟨R.SEC_CTRL, 2, 1⟩
def F.SEC_CTRL_EN : Fld := ⟨R.SEC_CTRL, 0, 0⟩
def F.SEC_STATUS_CACHE_USED : Fld := ⟨R.SEC_STATUS, 28, 16⟩
def F.SEC_STATUS_CTX_USED : Fld := ⟨R.SEC_STATUS, 14, 8⟩
def F.SEC_STATUS_SAFE : Fld := ⟨R.SEC_STATUS, 2, 2⟩
def F.SEC_STATUS_PK_BUSY : Fld := ⟨R.SEC_STATUS, 1, 1⟩
def F.SEC_STATUS_STORE_OK : Fld := ⟨R.SEC_STATUS, 0, 0⟩
def F.SEC_EVT_CTR_WARN : Fld := ⟨R.SEC_EVT, 5, 5⟩
def F.SEC_EVT_HWM_FAIL : Fld := ⟨R.SEC_EVT, 4, 4⟩
def F.SEC_EVT_NOKEY : Fld := ⟨R.SEC_EVT, 3, 3⟩
def F.SEC_EVT_REPLAY : Fld := ⟨R.SEC_EVT, 2, 2⟩
def F.SEC_EVT_AUTH_FAIL : Fld := ⟨R.SEC_EVT, 1, 1⟩
def F.SEC_EVT_CFG_ERR : Fld := ⟨R.SEC_EVT, 0, 0⟩
def F.SEC_KPOL_PERSIST_EN : Fld := ⟨R.SEC_KPOL, 16, 16⟩
def F.SEC_KPOL_NEWKEY_EN : Fld := ⟨R.SEC_KPOL, 15, 15⟩
def F.SEC_KPOL_ECDH_EXPORT : Fld := ⟨R.SEC_KPOL, 14, 14⟩
def F.SEC_KPOL_PLAIN_IMPORT : Fld := ⟨R.SEC_KPOL, 13, 13⟩
def F.SEC_KPOL_SCM_MIN : Fld := ⟨R.SEC_KPOL, 10, 9⟩
def F.SEC_KPOL_MIN_TLEN : Fld := ⟨R.SEC_KPOL, 7, 6⟩
def F.SEC_BCAST_EN : Fld := ⟨R.SEC_BCAST, 31, 31⟩
def F.SEC_BCAST_SLOT : Fld := ⟨R.SEC_BCAST, 13, 0⟩
def F.SEC_BSRC_EN (n : Nat) : Fld := ⟨R.SEC_BSRC n, 31, 31⟩
def F.SEC_BSRC_OPEN (n : Nat) : Fld := ⟨R.SEC_BSRC n, 30, 30⟩
def F.SEC_BSRC_ADDR (n : Nat) : Fld := ⟨R.SEC_BSRC n, 17, 0⟩
def F.ATT_STATUS_MEAS_FINAL : Fld := ⟨R.ATT_STATUS, 7, 7⟩
def F.ATT_STATUS_AK_INVALID : Fld := ⟨R.ATT_STATUS, 6, 6⟩
def F.ATT_STATUS_DK_INVALID : Fld := ⟨R.ATT_STATUS, 5, 5⟩
def F.ATT_STATUS_BPOL_LOST : Fld := ⟨R.ATT_STATUS, 4, 4⟩
def F.ATT_STATUS_XATON_USED : Fld := ⟨R.ATT_STATUS, 3, 3⟩
def F.ATT_STATUS_COSIGNED : Fld := ⟨R.ATT_STATUS, 2, 2⟩
def F.ATT_STATUS_AK_FIRST : Fld := ⟨R.ATT_STATUS, 1, 1⟩
def F.ATT_STATUS_DEBUG_OPEN : Fld := ⟨R.ATT_STATUS, 0, 0⟩
def F.ATT_BPOL0_FW_SVN_MIN : Fld := ⟨R.ATT_BPOL0, 31, 16⟩
def F.ATT_BPOL0_X_SVN_MIN : Fld := ⟨R.ATT_BPOL0, 15, 0⟩
def F.ATT_BPOL1_DBG_DIS : Fld := ⟨R.ATT_BPOL1, 2, 2⟩
def F.ATT_BPOL1_XATON_REQ : Fld := ⟨R.ATT_BPOL1, 1, 1⟩
def F.ATT_BPOL1_COSIGN_REQ : Fld := ⟨R.ATT_BPOL1, 0, 0⟩
def F.ATT_MEAS_IDX_SLOT : Fld := ⟨R.ATT_MEAS_IDX, 6, 4⟩
def F.ATT_MEAS_IDX_WORD : Fld := ⟨R.ATT_MEAS_IDX, 3, 0⟩
def F.ATT_SVN_FW_SVN : Fld := ⟨R.ATT_SVN, 31, 16⟩
def F.ATT_SVN_X_SVN : Fld := ⟨R.ATT_SVN, 15, 0⟩
def F.OTP_STATUS_SHADOW_OK : Fld := ⟨R.OTP_STATUS, 31, 31⟩
def F.OTP_STATUS_N_MARG : Fld := ⟨R.OTP_STATUS, 24, 16⟩
def F.OTP_STATUS_N_DEF : Fld := ⟨R.OTP_STATUS, 15, 8⟩
def F.OTP_STATUS_N_COPY : Fld := ⟨R.OTP_STATUS, 7, 0⟩
def F.OTP_IDX_WORD : Fld := ⟨R.OTP_IDX, 8, 0⟩
def F.OTP_WSTAT_MARGC : Fld := ⟨R.OTP_WSTAT, 3, 3⟩
def F.OTP_WSTAT_MARG : Fld := ⟨R.OTP_WSTAT, 2, 2⟩
def F.OTP_WSTAT_SRC : Fld := ⟨R.OTP_WSTAT, 1, 0⟩
def F.OTP_PGM_IDX_WORD : Fld := ⟨R.OTP_PGM_IDX, 8, 0⟩
def F.OTP_PGM_CMD_KEY : Fld := ⟨R.OTP_PGM_CMD, 7, 0⟩
def F.OTP_PGM_STAT_BUSY : Fld := ⟨R.OTP_PGM_STAT, 31, 31⟩
def F.OTP_PGM_STAT_RESULT : Fld := ⟨R.OTP_PGM_STAT, 1, 0⟩
def F.NVS_STATUS_READY : Fld := ⟨R.NVS_STATUS, 31, 31⟩
def F.NVS_STATUS_RO_ANY : Fld := ⟨R.NVS_STATUS, 30, 30⟩
def F.NVS_STATUS_BUSY : Fld := ⟨R.NVS_STATUS, 29, 29⟩
def F.NVS_STATUS_PFW : Fld := ⟨R.NVS_STATUS, 28, 28⟩
def F.NVS_STATUS_CAP_KIB : Fld := ⟨R.NVS_STATUS, 13, 0⟩
def F.NVS_EVT_TRIP_LOST : Fld := ⟨R.NVS_EVT, 3, 3⟩
def F.NVS_EVT_RO : Fld := ⟨R.NVS_EVT, 2, 2⟩
def F.NVS_EVT_SPARE_LOW : Fld := ⟨R.NVS_EVT, 1, 1⟩
def F.NVS_EVT_RETIRE : Fld := ⟨R.NVS_EVT, 0, 0⟩
def F.NVS_SPARE_SPARE : Fld := ⟨R.NVS_SPARE, 12, 0⟩
def F.NVS_RO_IDX_WORD : Fld := ⟨R.NVS_RO_IDX, 5, 0⟩
def F.RTC_SEC_LO_SEC : Fld := ⟨R.RTC_SEC_LO, 31, 0⟩
def F.RTC_SUB_SUB : Fld := ⟨R.RTC_SUB, 14, 0⟩
def F.RTC_DAY_DAY : Fld := ⟨R.RTC_DAY, 20, 0⟩
def F.RTC_SOD_SOD : Fld := ⟨R.RTC_SOD, 16, 0⟩
def F.RTC_SET_LO_SEC : Fld := ⟨R.RTC_SET_LO, 31, 0⟩
def F.RTC_COMMIT_GO : Fld := ⟨R.RTC_COMMIT, 0, 0⟩
def F.RTC_CAL_CAL : Fld := ⟨R.RTC_CAL, 9, 0⟩
def F.RTC_STATUS_TAMPER_CTX_LOST : Fld := ⟨R.RTC_STATUS, 5, 5⟩
def F.RTC_STATUS_TIME_INVALID : Fld := ⟨R.RTC_STATUS, 4, 4⟩
def F.RTC_STATUS_COMMIT_PEND : Fld := ⟨R.RTC_STATUS, 3, 3⟩
def F.RTC_STATUS_SRC : Fld := ⟨R.RTC_STATUS, 0, 0⟩
def F.RTC_EVT_TAMPER1 : Fld := ⟨R.RTC_EVT, 3, 3⟩
def F.RTC_EVT_TAMPER0 : Fld := ⟨R.RTC_EVT, 2, 2⟩
def F.RTC_EVT_CFG_ERR : Fld := ⟨R.RTC_EVT, 1, 1⟩
def F.RTC_EVT_SRC_CHG : Fld := ⟨R.RTC_EVT, 0, 0⟩
def F.RTC_TAMP_CFG_EN1 : Fld := ⟨R.RTC_TAMP_CFG, 1, 1⟩
def F.RTC_TAMP_CFG_EN0 : Fld := ⟨R.RTC_TAMP_CFG, 0, 0⟩
def F.RTC_TAMP_TS_SEC (i : Nat) : Fld := ⟨R.RTC_TAMP_TS i, 31, 0⟩
def F.UART_CFG_HDX : Fld := ⟨R.UART_CFG, 9, 9⟩
def F.UART_CFG_ECHO : Fld := ⟨R.UART_CFG, 8, 8⟩
def F.UART_CFG_FLOW : Fld := ⟨R.UART_CFG, 7, 7⟩
def F.UART_CFG_MUTE : Fld := ⟨R.UART_CFG, 6, 6⟩
def F.UART_CFG_NINE : Fld := ⟨R.UART_CFG, 5, 5⟩
def F.UART_CFG_PAR : Fld := ⟨R.UART_CFG, 4, 3⟩
def F.UART_CFG_STOP2 : Fld := ⟨R.UART_CFG, 2, 2⟩
def F.UART_CFG_BITS8 : Fld := ⟨R.UART_CFG, 1, 1⟩
def F.UART_CFG_EN : Fld := ⟨R.UART_CFG, 0, 0⟩
def F.UART_BAUD_DIV : Fld := ⟨R.UART_BAUD, 31, 16⟩
def F.UART_BAUD_FRAC : Fld := ⟨R.UART_BAUD, 3, 0⟩
def F.UART_ADDR_AMASK : Fld := ⟨R.UART_ADDR, 15, 8⟩
def F.UART_ADDR_ADDR : Fld := ⟨R.UART_ADDR, 7, 0⟩
def F.UART_FLOW_IDLE_GAP : Fld := ⟨R.UART_FLOW, 19, 16⟩
def F.UART_FLOW_RX_HI : Fld := ⟨R.UART_FLOW, 13, 8⟩
def F.UART_FLOW_RX_LO : Fld := ⟨R.UART_FLOW, 5, 0⟩
def F.UART_CTRL_FLUSH_RX : Fld := ⟨R.UART_CTRL, 2, 2⟩
def F.UART_CTRL_FLUSH_TX : Fld := ⟨R.UART_CTRL, 1, 1⟩
def F.UART_CTRL_RESUME : Fld := ⟨R.UART_CTRL, 0, 0⟩
def F.UART_STATUS_TX_HELD : Fld := ⟨R.UART_STATUS, 16, 16⟩
def F.UART_STATUS_MUTED : Fld := ⟨R.UART_STATUS, 15, 15⟩
def F.UART_STATUS_TX_CNT : Fld := ⟨R.UART_STATUS, 14, 8⟩
def F.UART_STATUS_RX_CNT : Fld := ⟨R.UART_STATUS, 6, 0⟩
def F.UART_EVT_COLL : Fld := ⟨R.UART_EVT, 3, 3⟩
def F.UART_EVT_OVR : Fld := ⟨R.UART_EVT, 2, 2⟩
def F.UART_EVT_FE : Fld := ⟨R.UART_EVT, 1, 1⟩
def F.UART_EVT_CFG_ERR : Fld := ⟨R.UART_EVT, 0, 0⟩
def F.UART_TXD_DATA : Fld := ⟨R.UART_TXD, 8, 0⟩
def F.UART_RXD_VALID : Fld := ⟨R.UART_RXD, 15, 15⟩
def F.UART_RXD_OVR : Fld := ⟨R.UART_RXD, 14, 14⟩
def F.UART_RXD_BRK : Fld := ⟨R.UART_RXD, 13, 13⟩
def F.UART_RXD_FE : Fld := ⟨R.UART_RXD, 12, 12⟩
def F.UART_RXD_PE : Fld := ⟨R.UART_RXD, 11, 11⟩
def F.UART_RXD_COL : Fld := ⟨R.UART_RXD, 10, 10⟩
def F.UART_RXD_DATA : Fld := ⟨R.UART_RXD, 8, 0⟩
def F.I2C_CFG_SCL_TO : Fld := ⟨R.I2C_CFG, 15, 8⟩
def F.I2C_CFG_FAST : Fld := ⟨R.I2C_CFG, 1, 1⟩
def F.I2C_CFG_EN : Fld := ⟨R.I2C_CFG, 0, 0⟩
def F.I2C_CMD_GO : Fld := ⟨R.I2C_CMD, 31, 31⟩
def F.I2C_CMD_RLEN : Fld := ⟨R.I2C_CMD, 21, 16⟩
def F.I2C_CMD_WLEN : Fld := ⟨R.I2C_CMD, 13, 8⟩
def F.I2C_CMD_TADDR : Fld := ⟨R.I2C_CMD, 6, 0⟩
def F.I2C_STATUS_SCL : Fld := ⟨R.I2C_STATUS, 7, 7⟩
def F.I2C_STATUS_SDA : Fld := ⟨R.I2C_STATUS, 6, 6⟩
def F.I2C_STATUS_BUS_STUCK : Fld := ⟨R.I2C_STATUS, 5, 5⟩
def F.I2C_STATUS_BUSY : Fld := ⟨R.I2C_STATUS, 4, 4⟩
def F.I2C_STATUS_RESULT : Fld := ⟨R.I2C_STATUS, 2, 0⟩
def F.I2C_EVT_STUCK : Fld := ⟨R.I2C_EVT, 2, 2⟩
def F.I2C_EVT_DONE : Fld := ⟨R.I2C_EVT, 1, 1⟩
def F.I2C_EVT_CFG_ERR : Fld := ⟨R.I2C_EVT, 0, 0⟩
def F.I2C_CTRL_CLR : Fld := ⟨R.I2C_CTRL, 0, 0⟩
def F.I2C_RDATA_VALID : Fld := ⟨R.I2C_RDATA, 8, 8⟩
def F.I2C_RDATA_DATA : Fld := ⟨R.I2C_RDATA, 7, 0⟩
def F.SPI_F_CMD_GO : Fld := ⟨R.SPI_F_CMD, 31, 31⟩
def F.SPI_F_CMD_LEN : Fld := ⟨R.SPI_F_CMD, 24, 16⟩
def F.SPI_F_CMD_OP : Fld := ⟨R.SPI_F_CMD, 7, 0⟩
def F.SPI_F_ADDR_ADDR : Fld := ⟨R.SPI_F_ADDR, 23, 0⟩
def F.SPI_F_STATUS_OWN : Fld := ⟨R.SPI_F_STATUS, 2, 2⟩
def F.SPI_F_STATUS_ERR : Fld := ⟨R.SPI_F_STATUS, 1, 1⟩
def F.SPI_F_STATUS_BUSY : Fld := ⟨R.SPI_F_STATUS, 0, 0⟩
def F.SPI_EVT_B2H : Fld := ⟨R.SPI_EVT, 3, 3⟩
def F.SPI_EVT_FRAME_ERR : Fld := ⟨R.SPI_EVT, 2, 2⟩
def F.SPI_EVT_F_DONE : Fld := ⟨R.SPI_EVT, 1, 1⟩
def F.SPI_EVT_CFG_ERR : Fld := ⟨R.SPI_EVT, 0, 0⟩
def F.SPI_T_CTRL_POST : Fld := ⟨R.SPI_T_CTRL, 0, 0⟩
def F.JIR_CTRL_MASTER : Fld := ⟨R.JIR_CTRL, 1, 1⟩
def F.JIR_CTRL_EN : Fld := ⟨R.JIR_CTRL, 0, 0⟩
def F.JIR_STATUS_TLOCK : Fld := ⟨R.JIR_STATUS, 15, 15⟩
def F.JIR_STATUS_CIDX_CONFLICT : Fld := ⟨R.JIR_STATUS, 14, 14⟩
def F.JIR_STATUS_SLOT_MISMATCH : Fld := ⟨R.JIR_STATUS, 13, 13⟩
def F.JIR_STATUS_LOOP_ERR : Fld := ⟨R.JIR_STATUS, 12, 12⟩
def F.JIR_STATUS_OVERSIZE : Fld := ⟨R.JIR_STATUS, 11, 11⟩
def F.JIR_STATUS_SEG_IN_OK : Fld := ⟨R.JIR_STATUS, 10, 10⟩
def F.JIR_STATUS_LANE_LOCK : Fld := ⟨R.JIR_STATUS, 9, 8⟩
def F.JIR_STATUS_NDEV : Fld := ⟨R.JIR_STATUS, 7, 4⟩
def F.JIR_STATUS_POS : Fld := ⟨R.JIR_STATUS, 3, 0⟩
def F.JIR_EVT_TP_MISMATCH : Fld := ⟨R.JIR_EVT, 5, 5⟩
def F.JIR_EVT_CMAP_FAIL : Fld := ⟨R.JIR_EVT, 4, 4⟩
def F.JIR_EVT_MASTER_CONFLICT : Fld := ⟨R.JIR_EVT, 3, 3⟩
def F.JIR_EVT_BREAK : Fld := ⟨R.JIR_EVT, 2, 2⟩
def F.JIR_EVT_SEG_FAIL : Fld := ⟨R.JIR_EVT, 1, 1⟩
def F.JIR_EVT_CFG_ERR : Fld := ⟨R.JIR_EVT, 0, 0⟩
def F.JIR_CMD_RETRAIN : Fld := ⟨R.JIR_CMD, 0, 0⟩
def F.PWR_CTRL_TARGET : Fld := ⟨R.PWR_CTRL, 2, 0⟩
def F.PWR_STATUS_REQ_ERR : Fld := ⟨R.PWR_STATUS, 8, 8⟩
def F.PWR_STATUS_BUSY : Fld := ⟨R.PWR_STATUS, 3, 3⟩
def F.PWR_STATUS_STATE : Fld := ⟨R.PWR_STATUS, 2, 0⟩
def F.PWR_EVT_PG_FAIL : Fld := ⟨R.PWR_EVT, 4, 4⟩
def F.PWR_EVT_VISO5_CHG : Fld := ⟨R.PWR_EVT, 3, 3⟩
def F.PWR_EVT_VDRV_CHG : Fld := ⟨R.PWR_EVT, 2, 2⟩
def F.PWR_EVT_HV_SRC_CHG : Fld := ⟨R.PWR_EVT, 1, 1⟩
def F.PWR_EVT_STATE_CHG : Fld := ⟨R.PWR_EVT, 0, 0⟩
def F.PWR_PG_PG : Fld := ⟨R.PWR_PG, 20, 1⟩
def F.PWR_DOM_PG (d : Nat) : Fld := ⟨R.PWR_DOM d, 31, 31⟩
def F.PWR_DOM_REQ (d : Nat) : Fld := ⟨R.PWR_DOM d, 30, 30⟩
def F.PWR_DOM_PG_FAIL (d : Nat) : Fld := ⟨R.PWR_DOM d, 29, 29⟩
def F.PWR_DOM_ON_CNT (d : Nat) : Fld := ⟨R.PWR_DOM d, 15, 0⟩
def F.CLK_STRAP_STRAP_INV : Fld := ⟨R.CLK_STRAP, 2, 2⟩
def F.CLK_STRAP_CLKSEL : Fld := ⟨R.CLK_STRAP, 1, 0⟩
def F.CLK_STATUS_REF_OK : Fld := ⟨R.CLK_STATUS, 31, 31⟩
def F.CLK_STATUS_XTAL_OK : Fld := ⟨R.CLK_STATUS, 30, 30⟩
def F.CLK_STATUS_X32_OK : Fld := ⟨R.CLK_STATUS, 29, 29⟩
def F.CLK_STATUS_TK_HOLD : Fld := ⟨R.CLK_STATUS, 28, 28⟩
def F.CLK_STATUS_LOCK : Fld := ⟨R.CLK_STATUS, 10, 0⟩
def F.CLK_EVT_REF_LOST : Fld := ⟨R.CLK_EVT, 31, 31⟩
def F.CLK_EVT_X32_STOP : Fld := ⟨R.CLK_EVT, 30, 30⟩
def F.CLK_EVT_UNLOCK : Fld := ⟨R.CLK_EVT, 10, 0⟩
def F.CLK_FMON_FREQ (n : Nat) : Fld := ⟨R.CLK_FMON n, 23, 0⟩
def F.GLB_ID_DEVICE : Fld := ⟨R.GLB_ID, 31, 16⟩
def F.GLB_ID_STEPPING : Fld := ⟨R.GLB_ID, 7, 0⟩
def F.GLB_STATUS_HOST_RESET_SEEN : Fld := ⟨R.GLB_STATUS, 16, 16⟩
def F.GLB_STATUS_BOOT_ERR : Fld := ⟨R.GLB_STATUS, 15, 8⟩
def F.GLB_STATUS_BOOT_PHASE : Fld := ⟨R.GLB_STATUS, 3, 0⟩
def F.GLB_FAULT_SUM_REF_LOST : Fld := ⟨R.GLB_FAULT_SUM, 23, 23⟩
def F.GLB_FAULT_SUM_CLK_UNLOCK : Fld := ⟨R.GLB_FAULT_SUM, 22, 22⟩
def F.GLB_FAULT_SUM_TAMPER : Fld := ⟨R.GLB_FAULT_SUM, 21, 21⟩
def F.GLB_FAULT_SUM_NVS_RO : Fld := ⟨R.GLB_FAULT_SUM, 20, 20⟩
def F.GLB_FAULT_SUM_TXF : Fld := ⟨R.GLB_FAULT_SUM, 19, 19⟩
def F.GLB_FAULT_SUM_LOMS : Fld := ⟨R.GLB_FAULT_SUM, 18, 18⟩
def F.GLB_FAULT_SUM_WATCHDOG : Fld := ⟨R.GLB_FAULT_SUM, 17, 17⟩
def F.GLB_FAULT_SUM_STRAP_INV : Fld := ⟨R.GLB_FAULT_SUM, 16, 16⟩
def F.GLB_FAULT_SUM_ACC_ERR : Fld := ⟨R.GLB_FAULT_SUM, 15, 15⟩
def F.GLB_FAULT_SUM_OFF_ACCESS : Fld := ⟨R.GLB_FAULT_SUM, 14, 14⟩
def F.GLB_FAULT_SUM_LOCK_VIOLATION : Fld := ⟨R.GLB_FAULT_SUM, 13, 13⟩
def F.GLB_FAULT_SUM_CFG_CRC : Fld := ⟨R.GLB_FAULT_SUM, 12, 12⟩
def F.GLB_FAULT_SUM_CFG_PARITY : Fld := ⟨R.GLB_FAULT_SUM, 11, 11⟩
def F.GLB_FAULT_SUM_DRAM_SPARE_OUT : Fld := ⟨R.GLB_FAULT_SUM, 10, 10⟩
def F.GLB_FAULT_SUM_HV_LOST : Fld := ⟨R.GLB_FAULT_SUM, 9, 9⟩
def F.GLB_FAULT_SUM_LANE_DEG : Fld := ⟨R.GLB_FAULT_SUM, 8, 8⟩
def F.GLB_FAULT_SUM_LAST : Fld := ⟨R.GLB_FAULT_SUM, 6, 0⟩
def F.GLB_CFG_PARITY_GLB : Fld := ⟨R.GLB_CFG_PARITY, 14, 14⟩
def F.GLB_CFG_PARITY_BLK : Fld := ⟨R.GLB_CFG_PARITY, 13, 0⟩
def F.GLB_RESET_KEY : Fld := ⟨R.GLB_RESET, 7, 0⟩
def F.GLB_LOCK_BOOT : Fld := ⟨R.GLB_LOCK, 3, 3⟩
def F.GLB_LOCK_KEYPOL : Fld := ⟨R.GLB_LOCK, 2, 2⟩
def F.GLB_LOCK_TEN : Fld := ⟨R.GLB_LOCK, 1, 1⟩
def F.GLB_LOCK_BAND : Fld := ⟨R.GLB_LOCK, 0, 0⟩
def F.GLB_CRC_STAT_OK2 : Fld := ⟨R.GLB_CRC_STAT, 11, 8⟩
def F.GLB_CRC_STAT_MATCH : Fld := ⟨R.GLB_CRC_STAT, 7, 4⟩
def F.GLB_CRC_STAT_COMMITTED : Fld := ⟨R.GLB_CRC_STAT, 3, 0⟩
def F.GLB_LOCKV_CNT_COUNT : Fld := ⟨R.GLB_LOCKV_CNT, 15, 0⟩
def F.GLB_LOCKV_LOG_FUNC : Fld := ⟨R.GLB_LOCKV_LOG, 18, 16⟩
def F.GLB_LOCKV_LOG_OFFSET : Fld := ⟨R.GLB_LOCKV_LOG, 15, 0⟩
def F.REL_CNT_DIV (n : Nat) : Fld := ⟨R.REL_CNT n, 9, 8⟩
def F.REL_CNT_N (n : Nat) : Fld := ⟨R.REL_CNT n, 7, 0⟩
def F.REL_ITEM_VALID (n : Nat) : Fld := ⟨R.REL_ITEM n, 31, 31⟩
def F.REL_ITEM_ITEM (n : Nat) : Fld := ⟨R.REL_ITEM n, 23, 0⟩
def F.REL_DRAM_SPARE_SPARE : Fld := ⟨R.REL_DRAM_SPARE, 10, 0⟩
def F.REL_LOG_STAT_NEXT : Fld := ⟨R.REL_LOG_STAT, 21, 16⟩
def F.REL_LOG_STAT_TOTAL : Fld := ⟨R.REL_LOG_STAT, 15, 0⟩

def regs00 : List RegDef := [
  ⟨0x0000, 4, 1, 0x961800B0, 0, 0, 0, 0, false⟩,  -- GLB_ID
  ⟨0x0004, 4, 1, 0x0102, 0, 0, 0, 0, false⟩,  -- GLB_ROM
  ⟨0x0008, 4, 1, 0, 0, 0, 0x00010000, 0, false⟩,  -- GLB_STATUS
  ⟨0x000C, 4, 1, 0x00040000, 0, 0, 0x00E3F47F, 0, false⟩,  -- GLB_FAULT_SUM
  ⟨0x0010, 4, 1, 0x00021E04, 0x00FFFF7F, 0, 0, 0, false⟩,  -- GLB_FAULT_MASK
  ⟨0x0014, 4, 1, 0, 0, 0, 0x7FFF, 0, false⟩,  -- GLB_CFG_PARITY
  ⟨0x0018, 4, 1, 0, 0, 0, 0, 0, false⟩,  -- GLB_RESET
  ⟨0x001C, 4, 1, 0, 0, 0, 0, 0x000F, false⟩,  -- GLB_LOCK
  ⟨0x0020, 4, 4, 0, 0, 0, 0, 0, false⟩,  -- GLB_CRC_REF
  ⟨0x0030, 4, 4, 0, 0, 0, 0, 0, false⟩,  -- GLB_CRC_CUR
  ⟨0x0040, 4, 1, 0, 0, 0, 0, 0, false⟩,  -- GLB_CRC_STAT
  ⟨0x0044, 4, 1, 0, 0, 0, 0, 0, false⟩,  -- GLB_LOCKV_CNT
  ⟨0x0048, 4, 1, 0, 0, 0, 0, 0, false⟩]  -- GLB_LOCKV_LOG

def regs01 : List RegDef := [
  ⟨0x0400, 4, 1, 0x0003, 0x0007, 0, 0, 0, false⟩,  -- PWR_CTRL
  ⟨0x0404, 4, 1, 0x0008, 0, 0, 0x0100, 0, false⟩,  -- PWR_STATUS
  ⟨0x0408, 4, 1, 0, 0, 0, 0x001F, 0, false⟩,  -- PWR_EVT
  ⟨0x040C, 4, 1, 0x0002, 0, 0, 0, 0, false⟩,  -- PWR_PG
  ⟨0x0410, 4, 1, 0, 0, 0, 0, 0, false⟩,  -- PWR_SUPPLY
  ⟨0x0440, 4, 1, 0x80000000, 0, 0, 0, 0, false⟩,  -- PWR_DOM1
  ⟨0x0444, 4, 19, 0, 0, 0, 0, 0, false⟩]  -- PWR_DOM2

def regs02 : List RegDef := [
  ⟨0x0800, 4, 1, 0, 0, 0, 0, 0, false⟩,  -- CLK_STRAP
  ⟨0x0804, 4, 1, 0, 0, 0, 0, 0, false⟩,  -- CLK_STATUS
  ⟨0x0808, 4, 1, 0, 0, 0, 0xC00007FF, 0, false⟩,  -- CLK_EVT
  ⟨0x080C, 4, 1, 0, 0, 0, 0, 0, false⟩,  -- CLK_TK_OFS
  ⟨0x0810, 4, 12, 0, 0, 0, 0, 0, false⟩]  -- CLK_FMON

def regs03_0 : List RegDef := [
  ⟨0x0C00, 4, 1, 0x0011, 0x007F, 0, 0, 0, false⟩,  -- MSY_CTRL
  ⟨0x0C04, 4, 1, 0x0080, 0, 0, 0, 0, false⟩,  -- MSY_STATUS
  ⟨0x0C08, 4, 1, 0, 0, 0, 0x0001FFFF, 0, false⟩,  -- MSY_EVT
  ⟨0x0C0C, 4, 1, 0x0111, 0x0FFF, 0, 0, 0, false⟩,  -- MSY_SNS_CFG
  ⟨0x0C10, 4, 1, 0, 0, 0, 0, 0, false⟩,  -- MSY_CIDX
  ⟨0x0C14, 4, 1, 0, 0, 0, 0, 0, false⟩,  -- MSY_ZCTS_LO
  ⟨0x0C18, 4, 1, 0, 0, 0, 0, 0, false⟩,  -- MSY_ZCTS_HI
  ⟨0x0C1C, 4, 1, 0, 0, 0, 0, 0, false⟩,  -- MSY_FREQ
  ⟨0x0C20, 4, 1, 0, 0xFFFFFF00, 0, 0, 0, false⟩,  -- MSY_CIDX_PRESET
  ⟨0x0C24, 4, 1, 0x00FA, 0xFFFF, 0, 0, 0, false⟩,  -- MSY_HOLD
  ⟨0x0C28, 4, 1, 0, 0, 0, 0, 0, true⟩,  -- MSY_REJ_CNT
  ⟨0x0C30, 4, 3, 0, 0, 0, 0, 0, false⟩,  -- MSY_PHOFS
  ⟨0x0C40, 16, 3, 0x21100000, 0xFF7FFFFF, 0, 0, 0, false⟩,  -- MSY_SAG
  ⟨0x0C44, 16, 3, 0x21100000, 0xFF7FFFFF, 0, 0, 0, false⟩,  -- MSY_SWELL
  ⟨0x0C48, 16, 3, 0x21100000, 0xFF7FFFFF, 0, 0, 0, false⟩,  -- MSY_LOSS
  ⟨0x0C70, 4, 3, 0, 0, 0, 0, 0, false⟩,  -- MSY_RMS
  ⟨0x0C80, 4, 1, 0, 0x01DF, 0, 0, 0, false⟩,  -- MSY_COEF_IDX
  ⟨0x0C84, 4, 1, 0, 0xFFFFFFFF, 0, 0, 0, false⟩,  -- MSY_COEF_DATA
  ⟨0x0C88, 4, 3, 0, 0, 0, 0, 0, false⟩,  -- MSY_ZTHR
  ⟨0x0CA0, 4, 1, 0, 0, 0, 0, 0, false⟩,  -- MSY_TB_LO
  ⟨0x0CA4, 4, 1, 0, 0, 0, 0, 0, false⟩,  -- MSY_TB_HI
  ⟨0x0CA8, 4, 1, 0, 0xFFFFFFFF, 0, 0, 0, false⟩,  -- MSY_TB_STEP_LO
  ⟨0x0CAC, 4, 1, 0, 0xFFFFFFFF, 0, 0, 0, false⟩,  -- MSY_TB_STEP_HI
  ⟨0x0CB0, 4, 1, 0, 0, 0, 0, 0, false⟩]  -- MSY_TB_CMD

def regs03_1 : List RegDef := [
  ⟨0x0CB4, 4, 1, 0, 0xFFFFFFFF, 0, 0, 0, false⟩,  -- MSY_TB_ADJ
  ⟨0x0CC0, 4, 1, 0, 0x0003, 0, 0, 0, false⟩,  -- MSY_PPS_CTRL
  ⟨0x0CC4, 4, 1, 0, 0, 0, 0, 0, false⟩,  -- MSY_PPS_TS_LO
  ⟨0x0CC8, 4, 1, 0, 0, 0, 0, 0, false⟩,  -- MSY_PPS_TS_HI
  ⟨0x0CCC, 4, 1, 0, 0, 0, 0, 0, false⟩]  -- MSY_PPS_ERR

def regs03 : List RegDef := regs03_0 ++ regs03_1

def regs04 : List RegDef := [
  ⟨0x1000, 256, 4, 0x0008, 0x000F, 0, 0, 0, false⟩,  -- RXF_CTRL
  ⟨0x1004, 256, 4, 0x0040, 0x0077, 0, 0, 0, false⟩,  -- RXF_GAIN
  ⟨0x1008, 4, 2, 0, 0x1FFFC07F, 0, 0, 0, false⟩,  -- RXF_FIR_CFG
  ⟨0x1108, 4, 2, 0, 0x1FFFC07F, 0, 0, 0, false⟩,  -- RXF_FIR_CFG
  ⟨0x1208, 4, 2, 0, 0x1FFFC07F, 0, 0, 0, false⟩,  -- RXF_FIR_CFG
  ⟨0x1308, 4, 2, 0, 0x1FFFC07F, 0, 0, 0, false⟩,  -- RXF_FIR_CFG
  ⟨0x1010, 256, 4, 0, 0x03FF, 0, 0, 0, false⟩,  -- RXF_COEF_IDX
  ⟨0x1014, 256, 4, 0, 0xFFFFFFFF, 0, 0, 0, false⟩,  -- RXF_COEF_DATA
  ⟨0x1018, 256, 4, 0, 0, 0, 0, 0, false⟩,  -- RXF_FIR_SWAP
  ⟨0x101C, 256, 4, 0x0002, 0, 0, 0, 0, false⟩,  -- RXF_STATUS
  ⟨0x1020, 256, 4, 0, 0, 0, 0x00FF, 0, false⟩,  -- RXF_EVT
  ⟨0x1024, 256, 4, 0, 0x000F, 0, 0, 0, false⟩,  -- RXF_INJ
  ⟨0x1028, 256, 4, 0x0C200418, 0x0FFF1F3F, 0, 0, 0, false⟩,  -- RXF_BLK_CFG
  ⟨0x102C, 256, 4, 0x0040, 0x0001FFFF, 0, 0, 0, false⟩,  -- RXF_BLK_FLOOR
  ⟨0x1030, 256, 4, 0x0800, 0xFFFF, 0, 0, 0, false⟩,  -- RXF_BLK_MAXRUN
  ⟨0x1034, 256, 4, 0, 0, 0, 0, 0, false⟩,  -- RXF_RMS
  ⟨0x1038, 256, 4, 0, 0, 0, 0, 0, true⟩,  -- RXF_PEAK
  ⟨0x103C, 256, 4, 0, 0, 0, 0, 0, true⟩,  -- RXF_OVR_CNT
  ⟨0x1040, 256, 4, 0, 0, 0, 0, 0, true⟩,  -- RXF_SAT_CNT
  ⟨0x1044, 256, 4, 0, 0, 0, 0, 0, true⟩,  -- RXF_ERS_CNT
  ⟨0x1048, 256, 4, 0, 0, 0, 0, 0, false⟩,  -- RXF_NOISE
  ⟨0x104C, 256, 4, 0, 0, 0, 0, 0, true⟩]  -- RXF_INJ_GAP

def regs06 : List RegDef := [
  ⟨0x1800, 64, 4, 0x001906A5, 0x00FF0FFF, 0, 0, 0, false⟩,  -- TSL_CFG
  ⟨0x1804, 64, 4, 0, 0, 0, 0, 0, false⟩,  -- TSL_STATUS
  ⟨0x1808, 64, 4, 0, 0, 0, 0x000F, 0, false⟩,  -- TSL_EVT
  ⟨0x180C, 64, 4, 0, 0, 0, 0, 0, false⟩,  -- TSL_SUPP
  ⟨0x1810, 64, 4, 0, 0x7FFF, 0, 0, 0, false⟩,  -- TSL_TPL_IDX
  ⟨0x1814, 64, 4, 0, 0x0FFFFFFF, 0, 0, 0, false⟩,  -- TSL_TPL_DATA
  ⟨0x1818, 64, 4, 0, 0, 0, 0, 0, true⟩]  -- TSL_PERR_CNT

def regs07 : List RegDef := [
  ⟨0x1C00, 4, 1, 0x0451, 0x0FF1, 0, 0, 0, false⟩,  -- CMP_CTRL
  ⟨0x1C04, 4, 1, 0, 0, 0, 0, 0, false⟩,  -- CMP_STATUS
  ⟨0x1C08, 4, 1, 0, 0, 0, 0x003F, 0, false⟩,  -- CMP_EVT
  ⟨0x1C0C, 4, 1, 0, 0x01FF, 0, 0, 0, false⟩,  -- CMP_TP_IDX
  ⟨0x1C10, 4, 1, 0, 0x81FFFFFF, 0, 0, 0, false⟩,  -- CMP_TP_DATA
  ⟨0x1C14, 4, 2, 0x0104, 0x01FF, 0, 0, 0, false⟩,  -- CMP_TP_CFG
  ⟨0x1C1C, 4, 1, 0, 0, 0, 0, 0, false⟩,  -- CMP_TP_SWAP
  ⟨0x1C20, 4, 1, 0x0004, 0, 0, 0, 0, false⟩,  -- CMP_TP_STATUS
  ⟨0x1C24, 4, 1, 0, 0x00FF, 0, 0, 0, false⟩,  -- CMP_WIN_IDX
  ⟨0x1C28, 4, 1, 0, 0, 0, 0, 0, true⟩,  -- CMP_DET_CNT
  ⟨0x1C2C, 4, 1, 0, 0, 0, 0, 0, true⟩,  -- CMP_SPC_CNT
  ⟨0x1C30, 4, 1, 0, 0, 0, 0, 0, true⟩,  -- CMP_DROP_CNT
  ⟨0x1C34, 4, 1, 0, 0, 0, 0, 0, true⟩,  -- CMP_LOCKLOSS_CNT
  ⟨0x1C40, 4, 16, 0, 0, 0, 0, 0, false⟩]  -- CMP_LW

def regs08 : List RegDef := [
  ⟨0x2000, 4, 1, 0x0219, 0x0F19, 0, 0, 0, false⟩,  -- COD_CTRL
  ⟨0x2004, 4, 1, 0x0002, 0x000F, 0, 0, 0, false⟩,  -- COD_FRAME_CFG
  ⟨0x2008, 4, 1, 0x04000440, 0xFFFF0FFF, 0, 0, 0, false⟩,  -- COD_RET_CFG
  ⟨0x200C, 4, 1, 0, 0, 0, 0, 0, false⟩,  -- COD_STATUS
  ⟨0x2010, 4, 1, 0, 0, 0, 0x001F, 0, false⟩,  -- COD_EVT
  ⟨0x2014, 4, 1, 0x1C160432, 0xFFFFFFFF, 0, 0, 0, false⟩,  -- COD_MSEL_P
  ⟨0x2018, 4, 1, 0x0E0820F4, 0xFFFFFFFF, 0, 0, 0, false⟩,  -- COD_MSEL_C
  ⟨0x201C, 4, 1, 0x04FE51E6, 0xFFFFFFFF, 0, 0, 0, false⟩,  -- COD_MSEL_R4
  ⟨0x2020, 4, 1, 0, 0, 0, 0, 0, true⟩,  -- COD_HDR_FAIL_CNT
  ⟨0x2024, 4, 1, 0, 0, 0, 0, 0, true⟩,  -- COD_COPY_DROP_CNT
  ⟨0x2028, 4, 1, 0, 0, 0, 0, 0, true⟩,  -- COD_RET_EVICT_CNT
  ⟨0x202C, 4, 1, 0, 0, 0, 0, 0, true⟩,  -- COD_RET_MISMATCH_CNT
  ⟨0x2030, 4, 1, 0, 0, 0, 0, 0, true⟩]  -- COD_RET_EXPIRE_CNT

def regs09 : List RegDef := [
  ⟨0x2400, 4, 1, 0x0007, 0x000F, 0, 0, 0, false⟩,  -- TXS_CTRL
  ⟨0x2404, 4, 1, 0, 0, 0, 0, 0, false⟩,  -- TXS_STATUS
  ⟨0x2408, 4, 1, 0, 0, 0, 0x03FF, 0, false⟩,  -- TXS_EVT
  ⟨0x240C, 4, 1, 0x0A017FFF, 0xFF03FFFF, 0, 0, 0, false⟩,  -- TXS_LIM_CFG
  ⟨0x2410, 4, 1, 0x000A7302, 0xFFFFFF03, 0, 0, 0, false⟩,  -- TXS_REC_CFG
  ⟨0x2414, 4, 1, 0x20258030, 0xFFFFF0FF, 0, 0, 0, false⟩,  -- TXS_ALC_CFG
  ⟨0x2418, 4, 1, 0x0024, 0x00FF, 0, 0, 0, false⟩,  -- TXS_WAKE_CFG
  ⟨0x2420, 4, 1, 0, 0x07FF, 0, 0, 0, false⟩,  -- TXS_Z_IDX
  ⟨0x2424, 4, 1, 0, 0, 0, 0, 0, false⟩,  -- TXS_Z_DATA
  ⟨0x2428, 4, 1, 0, 0, 0, 0, 0, false⟩,  -- TXS_Z_AGE
  ⟨0x2440, 64, 3, 0x00080000, 0x003F03FF, 0, 0, 0, false⟩,  -- TXS_LVL
  ⟨0x2444, 64, 3, 0x0223, 0x03FF, 0, 0, 0, false⟩,  -- TXS_LVL_MAX
  ⟨0x2448, 64, 3, 0, 0x03FF, 1, 0, 0, false⟩,  -- TXS_REG_MAX
  ⟨0x244C, 64, 3, 0, 0x0001FFFF, 1, 0, 0, false⟩,  -- TXS_PAT_PEAK
  ⟨0x2450, 64, 3, 0x00020000, 0x0033FFFF, 0, 0, 0, false⟩,  -- TXS_MIX
  ⟨0x2454, 64, 3, 0x0028, 0x003F, 0, 0, 0, false⟩,  -- TXS_ILIM
  ⟨0x2458, 64, 3, 0x0080, 0, 0, 0, 0, false⟩,  -- TXS_TXF
  ⟨0x245C, 64, 3, 0, 0, 0, 0, 0, true⟩,  -- TXS_LIM_CNT
  ⟨0x2460, 64, 3, 0, 0, 0, 0, 0, true⟩,  -- TXS_CLIP_CNT
  ⟨0x2464, 64, 3, 0, 0, 0, 0, 0, true⟩,  -- TXS_OC_CNT
  ⟨0x2468, 64, 3, 0, 0, 0, 0, 0, false⟩,  -- TXS_TEMP
  ⟨0x246C, 64, 3, 0, 0, 0, 0, 0, false⟩,  -- TXS_PDISS
  ⟨0x2470, 64, 3, 0, 0, 0, 0, 0, false⟩]  -- TXS_ACT

def regs0A_0 : List RegDef := [
  ⟨0x2800, 4, 1, 0x000D, 0x000F, 0, 0, 0, false⟩,  -- LFR_CTRL
  ⟨0x2804, 4, 1, 0, 0, 0, 0, 0, false⟩,  -- LFR_STATUS
  ⟨0x2808, 4, 1, 0, 0, 0, 0x000F, 0, false⟩,  -- LFR_EVT
  ⟨0x280C, 4, 1, 0x20325042, 0xFFFFFFFF, 0, 0, 0, false⟩,  -- LFR_FRM_CFG
  ⟨0x2810, 4, 1, 0x004D4D43, 0x00FFFFFF, 0, 0, 0, false⟩,  -- LFR_PM_CFG
  ⟨0x2814, 4, 1, 0x0001, 0, 0, 0, 0, false⟩,  -- LFR_DEF_DEV
  ⟨0x2818, 4, 1, 0x01FC, 0x11FF, 0, 0, 0, false⟩,  -- LFR_FILL_CFG
  ⟨0x2820, 4, 1, 0, 0x00FF, 0, 0, 0, false⟩,  -- LFR_LANE_IDX
  ⟨0x2824, 4, 1, 0x00F0, 0x0FF1, 0, 0, 0, false⟩,  -- LFR_LANE_CFG
  ⟨0x2828, 4, 1, 0, 0, 0, 0, 0, false⟩,  -- LFR_LANE_STAT
  ⟨0x2830, 4, 4, 0x10400010, 0xFFF3FFFF, 0, 0, 0, false⟩,  -- LFR_LOS
  ⟨0x2840, 4, 1, 0, 0, 0, 0, 0, false⟩,  -- LFR_SESS_DEF
  ⟨0x2844, 4, 1, 0, 0, 0, 0, 0, false⟩,  -- LFR_SESS_PLM
  ⟨0x2848, 4, 1, 0, 0, 0, 0, 0, true⟩,  -- LFR_FILLER_CNT
  ⟨0x284C, 4, 1, 0, 0, 0, 0, 0, true⟩,  -- LFR_UNROUTED_CNT
  ⟨0x2850, 4, 1, 0, 0, 0, 0, 0, true⟩,  -- LFR_ENCREQ_CNT
  ⟨0x2880, 8, 16, 0x001F003F, 0xFFFFFFFF, 0, 0, 0, false⟩,  -- LFR_PROF_LO
  ⟨0x2884, 8, 16, 0, 0xFFFFFFFF, 0, 0, 0, false⟩,  -- LFR_PROF_HI
  ⟨0x2900, 4, 1, 0x0030, 0, 0, 0, 0, false⟩,  -- LFR_LBL00
  ⟨0x2904, 4, 1, 0x0010, 0x0137, 0, 0, 0, false⟩,  -- LFR_LBL01
  ⟨0x2908, 4, 1, 0x0010, 0x0137, 0, 0, 0, false⟩,  -- LFR_LBL02
  ⟨0x290C, 4, 1, 0x0110, 0x0137, 0, 0, 0, false⟩,  -- LFR_LBL03
  ⟨0x2910, 4, 1, 0x0110, 0x0137, 0, 0, 0, false⟩,  -- LFR_LBL04
  ⟨0x2914, 4, 1, 0x0101, 0x0137, 0, 0, 0, false⟩]  -- LFR_LBL05

def regs0A_1 : List RegDef := [
  ⟨0x2918, 4, 1, 0x0007, 0x0137, 0, 0, 0, false⟩,  -- LFR_LBL06
  ⟨0x291C, 4, 9, 0x0030, 0, 0, 0, 0, false⟩,  -- LFR_LBL07
  ⟨0x2940, 4, 1, 0x0100, 0x0137, 0, 0, 0, false⟩,  -- LFR_LBL10
  ⟨0x2944, 4, 1, 0x0100, 0x0137, 0, 0, 0, false⟩,  -- LFR_LBL11
  ⟨0x2948, 4, 1, 0x0100, 0x0137, 0, 0, 0, false⟩,  -- LFR_LBL12
  ⟨0x294C, 4, 1, 0x0102, 0x0137, 0, 0, 0, false⟩,  -- LFR_LBL13
  ⟨0x2950, 4, 1, 0x0103, 0x0137, 0, 0, 0, false⟩,  -- LFR_LBL14
  ⟨0x2954, 4, 27, 0x0030, 0, 0, 0, 0, false⟩,  -- LFR_LBL15
  ⟨0x29C0, 4, 16, 0x0030, 0x0137, 0, 0, 0, false⟩,  -- LFR_LBL30
  ⟨0x2A00, 4, 8, 0, 0, 0, 0, 0, false⟩,  -- LFR_LOL
  ⟨0x2A20, 4, 8, 0, 0, 0, 0, 0, false⟩,  -- LFR_LOF
  ⟨0x2A40, 4, 8, 0, 0, 0, 0, 0, false⟩]  -- LFR_PLM

def regs0A : List RegDef := regs0A_0 ++ regs0A_1

def regs0B_0 : List RegDef := [
  ⟨0x2C00, 4, 1, 0x0201, 0x0F01, 0, 0, 0, false⟩,  -- MAC_CTRL
  ⟨0x2C04, 4, 1, 0, 0, 0, 0, 0, false⟩,  -- MAC_STATUS
  ⟨0x2C08, 4, 1, 0, 0, 0, 0x00FF, 0, false⟩,  -- MAC_EVT
  ⟨0x2C0C, 4, 1, 0x02000002, 0xFFFF0003, 0, 0, 0, false⟩,  -- MAC_SLOT_CFG
  ⟨0x2C10, 4, 1, 0x9C405064, 0xFFFFFFFF, 0, 0, 0, false⟩,  -- MAC_GUARD_CFG
  ⟨0x2C14, 4, 1, 0x4000, 0xFFFFFFFF, 0, 0, 0, false⟩,  -- MAC_DL_DEF
  ⟨0x2C18, 4, 1, 0x0004, 0x001F, 0, 0, 0, false⟩,  -- MAC_CONT_CFG
  ⟨0x2C1C, 4, 1, 0, 0xFFF800FF, 0, 0, 0, false⟩,  -- MAC_BCN_CFG
  ⟨0x2C20, 4, 1, 0x0001, 0x3FFF, 0, 0, 0, false⟩,  -- MAC_RXSEL0
  ⟨0x2C24, 4, 1, 0x0002, 0x3FFF, 0, 0, 0, false⟩,  -- MAC_RXSEL1
  ⟨0x2C28, 4, 1, 0x0003, 0x3FFF, 0, 0, 0, false⟩,  -- MAC_RXSEL2
  ⟨0x2C30, 4, 1, 0, 0x0007, 0, 0, 0, false⟩,  -- MAC_QA_IDX
  ⟨0x2C34, 4, 1, 0, 0, 0, 0, 0, false⟩,  -- MAC_QA_STAT
  ⟨0x2C38, 4, 1, 0, 0, 0, 0, 0, false⟩,  -- MAC_QA_C
  ⟨0x2C3C, 4, 1, 0, 0, 0, 0, 0, false⟩,  -- MAC_QA_DUR
  ⟨0x2C40, 4, 1, 0, 0, 0, 0, 0, true⟩,  -- MAC_NOLANE_CNT
  ⟨0x2C44, 4, 1, 0, 0, 0, 0, 0, true⟩,  -- MAC_CS_BUSY_CNT
  ⟨0x2C48, 4, 1, 0, 0, 0, 0, 0, true⟩,  -- MAC_BUDGET_DEFER_CNT
  ⟨0x2C4C, 4, 1, 0, 0, 0, 0, 0, true⟩,  -- MAC_CONT_SHORT_CNT
  ⟨0x2C50, 4, 1, 0, 0, 0, 0, 0, true⟩,  -- MAC_BCN_SKIP_CNT
  ⟨0x2C54, 4, 1, 0, 0, 0, 0, 0, true⟩,  -- MAC_RESYNC_REJ_CNT
  ⟨0x2C58, 4, 1, 0, 0, 0, 0, 0, true⟩,  -- MAC_SUPV_CNT
  ⟨0x2C60, 4, 8, 0, 0xFFF003FF, 0, 0, 0, false⟩,  -- MAC_CONT_CH
  ⟨0x2D00, 16, 8, 0, 0xC7FF07FF, 1, 0, 0, false⟩]  -- MAC_BAND_RANGE

def regs0B_1 : List RegDef := [
  ⟨0x2D04, 16, 8, 0, 0xFFFFFFFF, 1, 0, 0, false⟩,  -- MAC_BAND_BUDGET
  ⟨0x2D08, 16, 8, 0, 0x80FF00FF, 1, 0, 0, false⟩,  -- MAC_BAND_CS
  ⟨0x2D0C, 16, 8, 0, 0, 0, 0, 0, false⟩]  -- MAC_BAND_USED

def regs0B : List RegDef := regs0B_0 ++ regs0B_1

def regs0C : List RegDef := [
  ⟨0x3000, 4, 1, 0x0005, 0x001D, 0, 0, 0, false⟩,  -- VET_CTRL
  ⟨0x3004, 4, 1, 0, 0, 0, 0, 0, false⟩,  -- VET_STATUS
  ⟨0x3008, 4, 1, 0, 0, 0, 0x00FF, 0, false⟩,  -- VET_EVT
  ⟨0x300C, 4, 1, 0x100C0802, 0xFF3F3F0F, 0, 0, 0, false⟩,  -- VET_COST_CFG0
  ⟨0x3010, 4, 1, 0x403E0C10, 0xFF3F1FFF, 0, 0, 0, false⟩,  -- VET_COST_CFG1
  ⟨0x3014, 4, 1, 0x84100020, 0xFFFFF0FF, 0, 0, 0, false⟩,  -- VET_ROUTE_CFG
  ⟨0x3018, 4, 1, 0x04081000, 0x8FFFFFFF, 0, 0, 0, false⟩,  -- VET_FLOOD_CFG
  ⟨0x301C, 4, 1, 0, 0x0003FFFF, 0, 0, 0, false⟩,  -- VET_ROOT
  ⟨0x3020, 4, 1, 0, 0, 0, 0, 0, false⟩,  -- VET_DIR_STATUS
  ⟨0x3024, 4, 1, 0, 0, 0, 0, 0, true⟩,  -- VET_DIR_REFUSE_CNT
  ⟨0x3028, 4, 1, 0, 0, 0, 0, 0, true⟩,  -- VET_SEEN_DUP_CNT
  ⟨0x302C, 4, 1, 0, 0, 0, 0, 0, true⟩,  -- VET_SEEN_EVICT_CNT
  ⟨0x3030, 4, 1, 0, 0, 0, 0, 0, true⟩,  -- VET_RTE_DROP_CNT
  ⟨0x3034, 4, 1, 0, 0, 0, 0, 0, true⟩,  -- VET_RPT_REJ_CNT
  ⟨0x3038, 4, 1, 0, 0, 0, 0, 0, true⟩,  -- VET_REPAIR_CNT
  ⟨0x303C, 4, 1, 0, 0, 0, 0, 0, true⟩,  -- VET_NOROUTE_CNT
  ⟨0x3040, 4, 1, 0, 0, 0, 0, 0, true⟩]  -- VET_FLOOD_LIM_CNT

def regs0D : List RegDef := [
  ⟨0x3400, 4, 1, 0x0003, 0x0003, 0, 0, 0, false⟩,  -- YAR_CTRL
  ⟨0x3404, 4, 1, 0x1060, 0x7F7F, 0, 0, 0, false⟩,  -- YAR_REGION
  ⟨0x3408, 4, 1, 0x80000000, 0, 0, 0, 0, false⟩,  -- YAR_STATUS
  ⟨0x340C, 4, 1, 0, 0, 0, 0x007F, 0, false⟩,  -- YAR_EVT
  ⟨0x3410, 4, 1, 0, 0x000F, 0, 0, 0, false⟩,  -- YAR_STRM_IDX
  ⟨0x3414, 4, 1, 0, 0, 0, 0, 0, false⟩,  -- YAR_STRM_STAT
  ⟨0x3418, 4, 1, 0, 0, 0, 0, 0, false⟩,  -- YAR_STRM_OLD
  ⟨0x341C, 4, 1, 0, 0, 0, 0, 0, false⟩,  -- YAR_STRM_NEW
  ⟨0x3420, 4, 1, 0, 0, 0, 0, 0, false⟩,  -- YAR_STRM_LOST
  ⟨0x3424, 4, 1, 0, 0, 0, 0, 0, false⟩,  -- YAR_STRM_SEG
  ⟨0x3430, 4, 1, 0, 0x0007, 0, 0, 0, false⟩,  -- YAR_PLAY_IDX
  ⟨0x3434, 4, 1, 0, 0, 0, 0, 0, false⟩,  -- YAR_PLAY_STAT
  ⟨0x3438, 4, 1, 0, 0, 0, 0, 0, false⟩,  -- YAR_PLAY_POS
  ⟨0x3440, 4, 1, 0, 0, 0, 0, 0, true⟩,  -- YAR_LOST_CNT
  ⟨0x3444, 4, 1, 0, 0, 0, 0, 0, true⟩,  -- YAR_PGAP_CNT
  ⟨0x3448, 4, 1, 0, 0, 0, 0, 0, true⟩,  -- YAR_UNCORR_CNT
  ⟨0x344C, 4, 1, 0, 0, 0, 0, 0, true⟩]  -- YAR_LATE_CNT

def regs0E : List RegDef := [
  ⟨0x3800, 4, 1, 0, 0, 0, 0, 0, false⟩,  -- HQE_STATUS
  ⟨0x3804, 4, 1, 0x0A321404, 0xFFFFFFFF, 0, 0, 0, false⟩,  -- HQE_STALE_CFG
  ⟨0x3808, 4, 1, 0, 0, 0, 0x01FF, 0, false⟩,  -- HQE_EVT
  ⟨0x380C, 4, 1, 0, 0, 0, 0, 0, false⟩,  -- HQE_XWIN_LOG
  ⟨0x3810, 4, 1, 0, 0, 0, 0, 0, true⟩,  -- HQE_FLR_CNT
  ⟨0x3814, 4, 1, 0, 0, 0, 0, 0, true⟩]  -- HQE_DMA_ERR_CNT

def regs0F_0 : List RegDef := [
  ⟨0x3C00, 4, 1, 0x02C01006, 0x1FFFFF0F, 2, 0, 0, false⟩,  -- TEN_CFG
  ⟨0x3C04, 4, 1, 0, 0, 0, 0, 0, false⟩,  -- TEN_STATUS
  ⟨0x3C08, 4, 1, 0, 0, 0, 0x0003, 0, false⟩,  -- TEN_EVT
  ⟨0x3C0C, 4, 1, 0, 0, 0, 0, 0, true⟩,  -- TEN_HOLD_CNT
  ⟨0x3C40, 8, 4, 0, 0, 2, 0, 0, false⟩,  -- TEN_ALO
  ⟨0x3C80, 8, 4, 0, 0x8003FFFF, 2, 0, 0, false⟩,  -- TEN_ALO
  ⟨0x3CC0, 8, 4, 0, 0x8003FFFF, 2, 0, 0, false⟩,  -- TEN_ALO
  ⟨0x3D00, 8, 4, 0, 0x8003FFFF, 2, 0, 0, false⟩,  -- TEN_ALO
  ⟨0x3D40, 8, 4, 0, 0x8003FFFF, 2, 0, 0, false⟩,  -- TEN_ALO
  ⟨0x3D80, 8, 4, 0, 0x8003FFFF, 2, 0, 0, false⟩,  -- TEN_ALO
  ⟨0x3DC0, 8, 4, 0, 0x8003FFFF, 2, 0, 0, false⟩,  -- TEN_ALO
  ⟨0x3E00, 8, 4, 0, 0x8003FFFF, 2, 0, 0, false⟩,  -- TEN_ALO
  ⟨0x3C44, 8, 4, 0, 0, 2, 0, 0, false⟩,  -- TEN_AHI
  ⟨0x3C84, 8, 4, 0, 0x0003FFFF, 2, 0, 0, false⟩,  -- TEN_AHI
  ⟨0x3CC4, 8, 4, 0, 0x0003FFFF, 2, 0, 0, false⟩,  -- TEN_AHI
  ⟨0x3D04, 8, 4, 0, 0x0003FFFF, 2, 0, 0, false⟩,  -- TEN_AHI
  ⟨0x3D44, 8, 4, 0, 0x0003FFFF, 2, 0, 0, false⟩,  -- TEN_AHI
  ⟨0x3D84, 8, 4, 0, 0x0003FFFF, 2, 0, 0, false⟩,  -- TEN_AHI
  ⟨0x3DC4, 8, 4, 0, 0x0003FFFF, 2, 0, 0, false⟩,  -- TEN_AHI
  ⟨0x3E04, 8, 4, 0, 0x0003FFFF, 2, 0, 0, false⟩,  -- TEN_AHI
  ⟨0x3C60, 64, 8, 0, 0x3FFFFFFF, 2, 0, 0, false⟩,  -- TEN_SESS
  ⟨0x3C64, 64, 8, 0, 0xFFFFFFFF, 2, 0, 0, false⟩,  -- TEN_KEY
  ⟨0x3C68, 64, 8, 0, 0x3F3F7F7F, 2, 0, 0, false⟩,  -- TEN_DRAM
  ⟨0x3C6C, 64, 8, 0, 0x803FFFFF, 2, 0, 0, false⟩]  -- TEN_PAIR

def regs0F_1 : List RegDef := [
  ⟨0x3C70, 64, 8, 0, 0x00FFFFFF, 2, 0, 0, false⟩,  -- TEN_RES
  ⟨0x3C74, 64, 1, 0, 0, 2, 0, 0, false⟩,  -- TEN_GRANT
  ⟨0x3CB4, 64, 7, 0, 0x8000007F, 2, 0, 0, false⟩,  -- TEN_GRANT
  ⟨0x3E40, 16, 8, 0, 0, 0, 0, 0, false⟩,  -- TEN_USE_SESS
  ⟨0x3E44, 16, 8, 0, 0, 0, 0, 0, false⟩]  -- TEN_USE_RC

def regs0F : List RegDef := regs0F_0 ++ regs0F_1

def regs10 : List RegDef := [
  ⟨0x4000, 4, 1, 0x0005, 0x0007, 0, 0, 0, false⟩,  -- SEC_CTRL
  ⟨0x4004, 4, 1, 0, 0, 0, 0, 0, false⟩,  -- SEC_STATUS
  ⟨0x4008, 4, 1, 0, 0, 0, 0x003F, 0, false⟩,  -- SEC_EVT
  ⟨0x400C, 4, 1, 0x0001A240, 0x0001E6C0, 3, 0, 0, false⟩,  -- SEC_KPOL
  ⟨0x4010, 4, 1, 0, 0x80003FFF, 3, 0, 0, false⟩,  -- SEC_BCAST
  ⟨0x4020, 4, 16, 0, 0xC003FFFF, 0, 0, 0, false⟩,  -- SEC_BSRC
  ⟨0x4060, 4, 1, 0, 0, 0, 0, 0, true⟩,  -- SEC_CACHE_MISS_CNT
  ⟨0x4064, 4, 1, 0, 0, 0, 0, 0, true⟩,  -- SEC_REPLAY_CNT
  ⟨0x4068, 4, 1, 0, 0, 0, 0, 0, true⟩,  -- SEC_AUTHFAIL_CNT
  ⟨0x406C, 4, 1, 0, 0, 0, 0, 0, true⟩,  -- SEC_NOKEY_CNT
  ⟨0x4070, 4, 1, 0, 0, 0, 0, 0, true⟩]  -- SEC_HWM_WR_CNT

def regs11 : List RegDef := [
  ⟨0x4400, 4, 1, 0, 0, 0, 0, 0, false⟩,  -- ATT_STATUS
  ⟨0x4404, 4, 1, 0, 0xFFFFFFFF, 4, 0, 0, false⟩,  -- ATT_BPOL0
  ⟨0x4408, 4, 1, 0, 0x0007, 4, 0, 0, false⟩,  -- ATT_BPOL1
  ⟨0x440C, 4, 1, 0, 0x007F, 0, 0, 0, false⟩,  -- ATT_MEAS_IDX
  ⟨0x4410, 4, 1, 0, 0, 0, 0, 0, false⟩,  -- ATT_MEAS_DATA
  ⟨0x4414, 4, 1, 0, 0, 0, 0, 0, false⟩,  -- ATT_SVN
  ⟨0x4418, 4, 1, 0, 0, 0, 0, 0, false⟩]  -- ATT_BOOTCNT

def regs12 : List RegDef := [
  ⟨0x4800, 4, 1, 0, 0, 0, 0, 0, false⟩,  -- OTP_STATUS
  ⟨0x4804, 4, 1, 0, 0x01FF, 0, 0, 0, false⟩,  -- OTP_IDX
  ⟨0x4808, 4, 1, 0, 0, 0, 0, 0, false⟩,  -- OTP_DATA
  ⟨0x480C, 4, 1, 0, 0, 0, 0, 0, false⟩,  -- OTP_WSTAT
  ⟨0x4840, 4, 16, 0, 0, 0, 0, 0, false⟩,  -- OTP_MARG
  ⟨0x4880, 4, 1, 0, 0x01FF, 0, 0, 0, false⟩,  -- OTP_PGM_IDX
  ⟨0x4884, 4, 1, 0, 0xFFFFFFFF, 0, 0, 0, false⟩,  -- OTP_PGM_DATA
  ⟨0x4888, 4, 1, 0, 0, 0, 0, 0, false⟩,  -- OTP_PGM_CMD
  ⟨0x488C, 4, 1, 0, 0, 0, 0, 0, false⟩]  -- OTP_PGM_STAT

def regs13 : List RegDef := [
  ⟨0x4C00, 4, 1, 0, 0, 0, 0, 0, false⟩,  -- NVS_STATUS
  ⟨0x4C04, 4, 1, 0, 0, 0, 0x000F, 0, false⟩,  -- NVS_EVT
  ⟨0x4C08, 4, 1, 0x1400, 0, 0, 0, 0, false⟩,  -- NVS_SPARE
  ⟨0x4C0C, 4, 1, 0, 0x003F, 0, 0, 0, false⟩,  -- NVS_RO_IDX
  ⟨0x4C10, 4, 1, 0, 0, 0, 0, 0, false⟩,  -- NVS_RO_MAP
  ⟨0x4C14, 4, 1, 0, 0, 0, 0, 0, true⟩,  -- NVS_WR_CNT
  ⟨0x4C18, 4, 1, 0, 0, 0, 0, 0, true⟩,  -- NVS_CORR_CNT
  ⟨0x4C1C, 4, 1, 0, 0, 0, 0, 0, true⟩,  -- NVS_RETIRE_CNT
  ⟨0x4C20, 4, 1, 0, 0, 0, 0, 0, true⟩,  -- NVS_TRIP_CNT
  ⟨0x4C24, 4, 1, 0, 0, 0, 0, 0, true⟩]  -- NVS_WAIT_CNT

def regs14 : List RegDef := [
  ⟨0x5000, 4, 1, 0, 0, 0, 0, 0, false⟩,  -- RTC_SEC_LO
  ⟨0x5004, 4, 1, 0, 0, 0, 0, 0, false⟩,  -- RTC_SEC_HI
  ⟨0x5008, 4, 1, 0, 0, 0, 0, 0, false⟩,  -- RTC_SUB
  ⟨0x500C, 4, 1, 0, 0, 0, 0, 0, false⟩,  -- RTC_DAY
  ⟨0x5010, 4, 1, 0, 0, 0, 0, 0, false⟩,  -- RTC_SOD
  ⟨0x5014, 4, 1, 0, 0xFFFFFFFF, 0, 0, 0, false⟩,  -- RTC_SET_LO
  ⟨0x5018, 4, 1, 0, 0xFFFF, 0, 0, 0, false⟩,  -- RTC_SET_HI
  ⟨0x501C, 4, 1, 0, 0, 0, 0, 0, false⟩,  -- RTC_COMMIT
  ⟨0x5020, 4, 1, 0, 0x03FF, 0, 0, 0, false⟩,  -- RTC_CAL
  ⟨0x5024, 4, 1, 0x0030, 0, 0, 0x0020, 0, false⟩,  -- RTC_STATUS
  ⟨0x5028, 4, 1, 0, 0, 0, 0x000F, 0, false⟩,  -- RTC_EVT
  ⟨0x502C, 4, 1, 0, 0x0003, 0, 0, 0, false⟩,  -- RTC_TAMP_CFG
  ⟨0x5030, 4, 2, 0, 0, 0, 0, 0, false⟩]  -- RTC_TAMP_TS

def regs15 : List RegDef := [
  ⟨0x5400, 4, 1, 0x0001, 0x03FF, 0, 0, 0, false⟩,  -- UART_CFG
  ⟨0x5404, 4, 1, 0x00360004, 0xFFFF000F, 0, 0, 0, false⟩,  -- UART_BAUD
  ⟨0x5408, 4, 1, 0xFF00, 0xFFFF, 0, 0, 0, false⟩,  -- UART_ADDR
  ⟨0x540C, 4, 1, 0x00023008, 0x000F3F3F, 0, 0, 0, false⟩,  -- UART_FLOW
  ⟨0x5410, 4, 1, 0, 0, 0, 0, 0, false⟩,  -- UART_CTRL
  ⟨0x5414, 4, 1, 0, 0, 0, 0, 0, false⟩,  -- UART_STATUS
  ⟨0x5418, 4, 1, 0, 0, 0, 0x000F, 0, false⟩,  -- UART_EVT
  ⟨0x541C, 4, 1, 0, 0, 0, 0, 0, false⟩,  -- UART_TXD
  ⟨0x5420, 4, 1, 0, 0, 0, 0, 0, false⟩]  -- UART_RXD

def regs16 : List RegDef := [
  ⟨0x5800, 4, 1, 0x1900, 0xFF03, 0, 0, 0, false⟩,  -- I2C_CFG
  ⟨0x5804, 4, 1, 0, 0, 0, 0, 0, false⟩,  -- I2C_CMD
  ⟨0x5808, 4, 1, 0, 0, 0, 0, 0, false⟩,  -- I2C_STATUS
  ⟨0x580C, 4, 1, 0, 0, 0, 0x0007, 0, false⟩,  -- I2C_EVT
  ⟨0x5810, 4, 1, 0, 0, 0, 0, 0, false⟩,  -- I2C_CTRL
  ⟨0x5814, 4, 1, 0, 0, 0, 0, 0, false⟩,  -- I2C_WDATA
  ⟨0x5818, 4, 1, 0, 0, 0, 0, 0, false⟩]  -- I2C_RDATA

def regs17 : List RegDef := [
  ⟨0x5C00, 4, 1, 0, 0, 0, 0, 0, false⟩,  -- SPI_F_CMD
  ⟨0x5C04, 4, 1, 0, 0x00FFFFFF, 0, 0, 0, false⟩,  -- SPI_F_ADDR
  ⟨0x5C08, 4, 1, 0, 0, 0, 0, 0, false⟩,  -- SPI_F_STATUS
  ⟨0x5C10, 4, 1, 0, 0, 0, 0x000F, 0, false⟩,  -- SPI_EVT
  ⟨0x5C14, 4, 1, 0, 0, 0, 0, 0, false⟩,  -- SPI_T_CTRL
  ⟨0x5C18, 4, 1, 0, 0, 0, 0, 0, true⟩,  -- SPI_T_FERR_CNT
  ⟨0x5C20, 4, 8, 0, 0xFFFFFFFF, 0, 0, 0, false⟩,  -- SPI_T_H2B
  ⟨0x5C40, 4, 8, 0, 0, 0, 0, 0, false⟩,  -- SPI_T_B2H
  ⟨0x5D00, 4, 64, 0, 0xFFFFFFFF, 0, 0, 0, false⟩]  -- SPI_F_BUF

def regs18 : List RegDef := [
  ⟨0x6000, 4, 1, 0x0001, 0x0003, 0, 0, 0, false⟩,  -- JIR_CTRL
  ⟨0x6004, 4, 1, 0, 0, 0, 0, 0, false⟩,  -- JIR_STATUS
  ⟨0x6008, 4, 1, 0, 0, 0, 0x003F, 0, false⟩,  -- JIR_EVT
  ⟨0x600C, 4, 1, 0, 0xFFFF, 0, 0, 0, false⟩,  -- JIR_CDLY
  ⟨0x6010, 4, 1, 0, 0, 0, 0, 0, false⟩,  -- JIR_CMD
  ⟨0x6014, 4, 1, 0, 0, 0, 0, 0, false⟩,  -- JIR_TB_ERR
  ⟨0x6018, 4, 1, 0, 0, 0, 0, 0, false⟩,  -- JIR_LOOP
  ⟨0x6020, 4, 2, 0, 0, 0, 0, 0, true⟩]  -- JIR_CRC_CNT

def regs19 : List RegDef := [
  ⟨0x6400, 4, 1, 0x0004, 0x03FF, 0, 0, 0, false⟩,  -- REL_CNT0
  ⟨0x6404, 4, 1, 0x05265C00, 0xFFFFFFFF, 0, 0, 0, false⟩,  -- REL_WIN0
  ⟨0x6410, 4, 1, 0x0004, 0x03FF, 0, 0, 0, false⟩,  -- REL_CNT1
  ⟨0x6414, 4, 1, 0x05265C00, 0xFFFFFFFF, 0, 0, 0, false⟩,  -- REL_WIN1
  ⟨0x6420, 4, 1, 0x0040, 0x03FF, 0, 0, 0, false⟩,  -- REL_CNT2
  ⟨0x6424, 4, 1, 0x03E8, 0xFFFFFFFF, 0, 0, 0, false⟩,  -- REL_WIN2
  ⟨0x6430, 4, 1, 0x0002, 0x03FF, 0, 0, 0, false⟩,  -- REL_CNT3
  ⟨0x6434, 4, 1, 0x0036EE80, 0xFFFFFFFF, 0, 0, 0, false⟩,  -- REL_WIN3
  ⟨0x6440, 4, 1, 0x0180, 0x03FF, 0, 0, 0, false⟩,  -- REL_CNT4
  ⟨0x6444, 4, 1, 0x03E8, 0xFFFFFFFF, 0, 0, 0, false⟩,  -- REL_WIN4
  ⟨0x6450, 4, 1, 0x0040, 0x03FF, 0, 0, 0, false⟩,  -- REL_CNT5
  ⟨0x6454, 4, 1, 0x03E8, 0xFFFFFFFF, 0, 0, 0, false⟩,  -- REL_WIN5
  ⟨0x6460, 4, 1, 0x0008, 0x03FF, 0, 0, 0, false⟩,  -- REL_CNT6
  ⟨0x6464, 4, 1, 0x2710, 0xFFFFFFFF, 0, 0, 0, false⟩,  -- REL_WIN6
  ⟨0x6408, 16, 7, 0, 0, 0, 0, 0, true⟩,  -- REL_TOT
  ⟨0x640C, 16, 7, 0, 0, 0, 0, 0, false⟩,  -- REL_ITEM
  ⟨0x6480, 4, 1, 0x0400, 0, 0, 0, 0, false⟩,  -- REL_DRAM_SPARE
  ⟨0x6484, 4, 1, 0, 0, 0, 0, 0, false⟩]  -- REL_LOG_STAT

def regs1A : List RegDef := [
  ⟨0x6800, 32, 64, 0, 0, 0, 0, 0, false⟩,  -- REL_LOG_0
  ⟨0x6804, 32, 64, 0, 0, 0, 0, 0, false⟩,  -- REL_LOG_1
  ⟨0x6808, 32, 64, 0, 0, 0, 0, 0, false⟩,  -- REL_LOG_2
  ⟨0x680C, 32, 64, 0, 0, 0, 0, 0, false⟩,  -- REL_LOG_3
  ⟨0x6810, 32, 64, 0, 0, 0, 0, 0, false⟩]  -- REL_LOG_4

def regsWin : List RegDef := [
  ⟨0x8000, 4, 1, 0, 0x003F, 0, 0, 0, false⟩,  -- HQE_FN_CTRL
  ⟨0x8004, 4, 1, 0, 0, 0, 0, 0, false⟩,  -- HQE_FN_STATUS
  ⟨0x8008, 4, 1, 0, 0, 0, 0x003F, 0, false⟩,  -- HQE_FN_EVT
  ⟨0x800C, 4, 1, 0, 0, 0, 0, 0, false⟩,  -- HQE_FN_FLR
  ⟨0x8010, 4, 1, 0, 0, 0, 0, 0, true⟩,  -- HQE_FN_LOST
  ⟨0x8100, 16, 45, 0, 0xFFFFF000, 0, 0, 0, false⟩,  -- HQE_RBASE_LO
  ⟨0x8104, 16, 45, 0, 0xFFFFFFFF, 0, 0, 0, false⟩,  -- HQE_RBASE_HI
  ⟨0x8108, 16, 45, 0x0001, 0xDFFFFFFF, 0, 0, 0, false⟩,  -- HQE_RCFG
  ⟨0x810C, 16, 45, 0, 0, 0, 0, 0, false⟩,  -- HQE_RSTAT
  ⟨0x8400, 8, 8, 0, 0xFFFFF000, 0, 0, 0, false⟩,  -- HQE_RPAY_LO
  ⟨0x8404, 8, 8, 0, 0xFFFFFFFF, 0, 0, 0, false⟩,  -- HQE_RPAY_HI
  ⟨0x8440, 8, 4, 0, 0xFFFFFFF8, 0, 0, 0, false⟩,  -- HQE_KWB_LO
  ⟨0x8444, 8, 4, 0, 0xFFFFFFFF, 0, 0, 0, false⟩]  -- HQE_KWB_HI

/-- The registers that may lie at an offset, by its block (R499). -/
def blockRegs (off : Nat) : List RegDef :=
  if off ≥ 0x10000 then [] else if off ≥ 0x8000 then regsWin else
  match off / 0x400 with
  | 0x00 => regs00
  | 0x01 => regs01
  | 0x02 => regs02
  | 0x03 => regs03
  | 0x04 => regs04
  | 0x06 => regs06
  | 0x07 => regs07
  | 0x08 => regs08
  | 0x09 => regs09
  | 0x0A => regs0A
  | 0x0B => regs0B
  | 0x0C => regs0C
  | 0x0D => regs0D
  | 0x0E => regs0E
  | 0x0F => regs0F
  | 0x10 => regs10
  | 0x11 => regs11
  | 0x12 => regs12
  | 0x13 => regs13
  | 0x14 => regs14
  | 0x15 => regs15
  | 0x16 => regs16
  | 0x17 => regs17
  | 0x18 => regs18
  | 0x19 => regs19
  | 0x1A => regs1A
  | 0x1B => regs1A
  | _ => []

/-- An offset within the first function window (R499); other offsets as they are. -/
def canonOff (off : Nat) : Nat := if off ≥ 0x8000 then 0x8000 + off % 0x1000 else off

/-- The register at an offset, none at an unused one (R501). -/
def regAt (off : Nat) : Option RegDef :=
  let o := canonOff off
  (blockRegs off).find? fun d => Nat.ble d.base o && (o - d.base) % d.stride == 0 && Nat.blt ((o - d.base) / d.stride) d.count

/-- Reset value of the word at an offset (R499 to R515 and the chapters' tables). -/
def resetValue (off : Nat) : Word :=
  match regAt off with
  | some d => BitVec.ofNat 32 d.reset
  | none => 0

end Sys2Proof.Machine
end

