-- ==== Sys2Proof/Machine/Ops.lean ====
section
/-! DEFINITION. The named operations: finite maps, registers and fields, free values, the two clocks, the rings of the host
interface with their banks, completions, records, events and interrupts. Every meaning goes through them. -/

namespace Sys2Proof.Machine

/-! ### Finite maps -/

/-- Look a key up. -/
def fget {α : Type} : FMap α → Nat → Option α
  | [], _ => none
  | (a, v) :: r, k => if a = k then some v else fget r k

/-- Store at a key, keeping the keys rising. -/
def fput {α : Type} : FMap α → Nat → α → FMap α
  | [], k, v => [(k, v)]
  | (a, w) :: r, k, v =>
    if k < a then (k, v) :: (a, w) :: r else if a = k then (k, v) :: r else (a, w) :: fput r k v

/-- Remove a key. -/
def fdel {α : Type} (m : FMap α) (k : Nat) : FMap α := m.filter fun e => !(e.1 == k)

/-- Look a key up, with a default. -/
def fgetD {α : Type} (m : FMap α) (k : Nat) (d : α) : α := (fget m k).getD d

/-- Store at a key whose default is `d`: storing `d` removes the entry. -/
def fputD {α : Type} [DecidableEq α] (m : FMap α) (k : Nat) (d v : α) : FMap α := if v = d then fdel m k else fput m k v

/-- The keys rise strictly. -/
def keysRise {α : Type} : FMap α → Bool
  | [] => true
  | [_] => true
  | (a, _) :: (b, w) :: r => Nat.blt a b && keysRise ((b, w) :: r)

/-- The canonical form of a map whose unlisted keys hold `d k`: keys rise and no entry equals its default. -/
def FMapWf {α : Type} [DecidableEq α] (d : Nat → α) (m : FMap α) : Bool := keysRise m && m.all fun e => !decide (e.2 = d e.1)

/-! ### Registers -/

/-- The stored word of a register. -/
def rd (s : State) (off : Nat) : Word := fgetD s.regs off (resetValue off)

/-- Store a register. -/
def wr (s : State) (off : Nat) (v : Word) : State := { s with regs := fputD s.regs off (resetValue off) v }

/-- A register as a number. -/
def rdN (s : State) (off : Nat) : Nat := (rd s off).toNat

/-- Store a number, its low 32 bits. -/
def wrN (s : State) (off v : Nat) : State := wr s off (BitVec.ofNat 32 v)

/-- `x` with bits `[hi:lo]` replaced by `v`. -/
def setBits (x hi lo v : Nat) : Nat := x / 2 ^ (hi + 1) * 2 ^ (hi + 1) + v % 2 ^ (hi + 1 - lo) * 2 ^ lo + x % 2 ^ lo

/-- Read a field. -/
def getF (s : State) (f : Fld) : Nat := bits (rdN s f.off) f.hi f.lo

/-- Store a field. -/
def setF (s : State) (f : Fld) (v : Nat) : State := wrN s f.off (setBits (rdN s f.off) f.hi f.lo v)

/-- A one-bit field as a truth value. -/
def isSet (s : State) (f : Fld) : Bool := getF s f == 1

/-- Raise a flag bit. -/
def raise (s : State) (f : Fld) : State := setF s f 1

/-- Store a truth value in a one-bit field. -/
def setB (s : State) (f : Fld) (b : Bool) : State := setF s f (b2n b)

/-- Raise bit `i` of a register of flags. -/
def raiseBit (s : State) (off i : Nat) : State := wrN s off (setBits (rdN s off) i i 1)

/-- Advance a 32-bit saturating counter (RC counts, R6). -/
def bump (s : State) (off : Nat) (n : Nat := 1) : State := wrN s off (satN (2 ^ 32 - 1) (rdN s off + n))

/-- Advance a saturating count held in a field. -/
def bumpF (s : State) (f : Fld) (n : Nat := 1) : State := setF s f (satN (2 ^ (f.hi + 1 - f.lo) - 1) (getF s f + n))

/-- Registers whose offset satisfies `p` take their reset values. -/
def resetRegs (s : State) (p : Nat → Bool) : State := { s with regs := s.regs.filter fun e => !p e.1 }

/-! ### Free values, outputs, clocks -/

/-- A free value of `w` bits (log entry 10). -/
def freeNat (s : State) (w : Nat) : Nat := (Config.freeBits w s.freeCtr).toNat

/-- The free value has been used. -/
def usedFree (s : State) : State := { s with freeCtr := s.freeCtr + 1 }

/-- A quotient whose rounding the spec does not give, at a numbered place: down, or up when it is not exact (log entry 26). -/
def rq (place : Nat) (n : Int) (d : Nat) : Int := n / d + (if n % d = 0 then 0 else b2n (Config.roundUp place n d))

/-- A quotient rounded to nearest; which way a tie goes the spec does not give (log entry 26). -/
def rqNear (place : Nat) (n : Int) (d : Nat) : Int :=
  let q := n / d
  let r := n % d
  if 2 * r > d then q + 1 else if 2 * r = d then rq place n d else q

/-- Record an output of the device (log entry 8). -/
def post (s : State) (o : Output) : State := { s with posted := s.posted ++ [o] }

/-- The 64-bit timebase in nanoseconds. -/
def tbNow (s : State) : Nat := s.mains.tb.toNat

/-- The cycle index; it reads 0 while it is not valid (R104). -/
def cidxNow (s : State) : Nat := rdN s R.MSY_CIDX

/-- The cycle index is valid (R104). -/
def cidxOk (s : State) : Bool := isSet s F.MSY_STATUS_CIDX_VALID

/-- Length of a cycle in ns, from the frequency of the last boundary; 20 ms before there is one (R256). -/
def cycleNs (s : State) : Rat := if s.mains.freq = 0 then 20000000 else (65536 * 10 ^ 9 : Nat) / (s.mains.freq.toNat : Rat)

/-- The phase word's modulus P (R102). -/
def phaseP : Nat := 1610612736

/-- The elapsed time of the boundary that began the current cycle (R107): as long ago as the timebase, less the steps made since, has run
from it. -/
def cycleStart (s : State) : Int := (s.mains.elapsed : Int) - sext 64 (wrap 64 ((tbNow s : Int) - s.mains.zc - s.mains.stepped))

/-- The elapsed time at which the phase word reaches a count, reckoned from the boundary of a cycle in steps of 1 / P of a cycle (R102). -/
def phaseTime (s : State) (cycle : Nat) (count : Rat) : Rat :=
  (cycleStart s : Rat) + cycleNs s * ((sext 32 (wrap 32 ((cycle : Int) - cidxNow s)) : Int) + count / phaseP)

/-- The power state in force (R61, R62). -/
def pwrState (s : State) : Nat := getF s F.PWR_STATUS_STATE

/-- Domain `d` reports power good (R58). -/
def domainOn (s : State) (d : Nat) : Bool := bit (rdN s R.PWR_PG) d

/-! ### Access to registers (R60, R67, R69, R74, R499, R504) -/

/-- The CRC-covered set of a register (R505). -/
def setOf (off : Nat) : Option Nat :=
  if [0x2448, 0x244C, 0x2488, 0x248C, 0x24C8, 0x24CC].contains off then some 0
  else if 0x2D00 ≤ off ∧ off < 0x2D80 ∧ off % 16 < 12 then some 0
  else if off = 0x3C00 ∨ (0x3C40 ≤ off ∧ off ≤ 0x3E3C) then some 1
  else if off = 0x400C ∨ off = 0x4010 then some 2
  else if off = 0x4404 ∨ off = 0x4408 then some 3
  else none

/-- The power domain a register needs; 1, AON, for the retention registers and the blocks of the timekeeping and AON islands
(R18, R499, R504). -/
def blockDomain (off : Nat) : Nat :=
  if (setOf off).isSome then 1
  else if off ≥ 0x8000 then 3
  else match off / 0x400 with
  | 0x04 => 6
  | 0x05 => 6
  | 0x06 => 7
  | 0x07 => 8
  | 0x08 => 9
  | 0x09 => 10
  | 0x0A => 9
  | 0x0B => 9
  | 0x0C => 9
  | 0x0D => 15
  | 0x0E => 3
  | 0x10 => 11
  | 0x13 => 14
  | 0x15 => 16
  | 0x16 => 16
  | 0x17 => 16
  | 0x18 => 16
  | _ => 1

/-- Blocks that answer in Standby: GLB, PWR, CLK, OTP, NVS, RTC (R67). -/
def answersStandby (off : Nat) : Bool := Nat.blt off 0xC00 || (Nat.ble 0x4800 off && Nat.blt off 0x5400)

/-- Blocks that answer when the boot has stopped: GLB, OTP, ATT (R74). -/
def answersStopped (off : Nat) : Bool := Nat.blt off 0x400 || (Nat.ble 0x4400 off && Nat.blt off 0x4C00)

/-- The boot has stopped (R74). -/
def bootStopped (s : State) : Bool := getF s F.GLB_STATUS_BOOT_PHASE == 0xE

/-- A register answers an access. -/
def reach (s : State) (off : Nat) : Bool :=
  !s.pins.inReset && domainOn s (blockDomain off) && (pwrState s != 2 || answersStandby off) &&
    (!bootStopped s || answersStopped off)

/-- A write of the register is refused by its lock (R7, R86). -/
def lockedOff (s : State) (off : Nat) : Bool := (setOf off).any fun n => bit (rdN s R.GLB_LOCK) n

/-- A write restores the parity of both copies of a register (R80, R81). -/
def rewritten (s : State) (off : Nat) : State :=
  { s with par := { s.par with
      mainBad := s.par.mainBad.filter fun o => !(o == off), shadowBad := s.par.shadowBad.filter fun o => !(o == off) } }

/-- In Standby or with the boot stopped, an access to a block that does not answer sets OFF_ACCESS (R67, R74). -/
def offAccess (s : State) (off : Nat) : State :=
  if !reach s off ∧ (pwrState s = 2 ∨ bootStopped s) then raise s F.GLB_FAULT_SUM_OFF_ACCESS else s

/-- An access to a block that does not answer completes on the bus without effect: a read returns 0, and in Standby or with the
boot stopped OFF_ACCESS is set (R67, R74). -/
def readAccess (s : State) (off : Nat) (f : State → State) : State :=
  if reach s off then f s
  else if s.pins.inReset then s
  else offAccess { s with readData := 0 } off

/-- A write of a register: it restores the register's parity unless a lock refuses it (R81). -/
def access (s : State) (off : Nat) (f : State → State) : State :=
  readAccess s off fun s => f (if lockedOff s off then s else rewritten s off)

/-! ### Muting (R211, R217) -/

/-- Blocks whose safe action mutes every phase: COD, LFR, TXS, MAC, VET, TEN and the GLB group (R80, R507). -/
def mutingBlock (b : Nat) : Bool := (Nat.ble 4 b && Nat.ble b 9) || b == 14

/-- The block is in its safe action in any instance (R80, R514). -/
def inSafe (s : State) (b : Nat) : Bool := s.par.acts.any fun a => a.block == b

/-- The block is in its safe action for one instance. -/
def inSafeAt (s : State) (b i : Nat) : Bool := s.par.acts.any fun a => a.block == b && (a.inst == i || a.inst == 0xFFFF)

def txPh (s : State) (p : Nat) : TxPh := fgetD s.tx p {}

def setTx (s : State) (p : Nat) (t : TxPh) : State := { s with tx := fput s.tx p t }

/-- All four references are committed and every set has matched its reference (R84). -/
def crcOpen (s : State) : Bool :=
  (List.range 4).all fun n => bit (getF s F.GLB_CRC_STAT_COMMITTED) n && bit s.crc.matched.toNat n

/-- TXF is raised on the phase (R215). -/
def txf (s : State) (p : Nat) : Bool :=
  let t := txPh s p
  t.oc || t.therm || t.uv || t.pg || s.rel.hvLost

/-- Why a phase is hard-muted, as the DETAIL of FAULT of a frame cut off (R363): barrier (R17), TXF (R217), CFG_CRC (R85),
CFG_PARITY (R80, R507), and the mutes that raise no defect, which R217 lets name TXF (R48, R69, R458). -/
def hardMute (s : State) (p : Nat) : Option Nat :=
  if s.rel.hvLost then some 3
  else if txf s p then some 7
  else if s.crc.mute then some 6
  else if s.par.acts.any (fun a => mutingBlock a.block) then some 5
  else if s.pins.pfwLow || !s.pins.vdrv || s.pwr.resetAt.isSome || s.pins.inReset then some 7
  else none

/-! ### Interrupts (R372, R373) -/

/-- MSI-X Enable is set and neither the function nor the vector is masked. -/
def vectorOpen (s : State) (fn v : Nat) : Bool :=
  bit s.pcie.msixEn.toNat fn && !bit s.pcie.fnMask.toNat fn && !bit (fgetD s.pcie.vecMask fn 0xFFFF_FFFF).toNat v

/-- The message of a vector: address and data of its entry in the MSI-X table (R373). -/
def msixMessage (s : State) (fn v : Nat) : Output :=
  let w := fun i => (fgetD s.pcie.table (fn * 128 + 4 * v + i) 0).toNat
  .msix fn v (w 1 * 2 ^ 32 + w 0) (w 2)

/-- Raise a vector: the message is sent, or its pending bit is set (R373). -/
def raiseVector (s : State) (fn v : Nat) : State :=
  let v := if fn ≠ 0 ∧ v > 7 then 0 else v
  if vectorOpen s fn v then post s (msixMessage s fn v)
  else { s with pcie := { s.pcie with
    pba := fputD s.pcie.pba fn 0 (BitVec.ofNat 32 (setBits (fgetD s.pcie.pba fn 0).toNat v v 1)) } }

/-- Set a function-level flag of HQE_FN_EVT; RING_ERR, DMA_ERR, CFG_ERR and LOST raise EVEC when they rise (R373). -/
def raiseFnEvt (s : State) (fn b : Nat) : State :=
  let old := bit (rdN s (R.HQE_FN_EVT fn)) b
  let s := raiseBit s (R.HQE_FN_EVT fn) b
  if !old && (b == 0 || b == 1 || b == 3 || b == 4) then raiseVector s fn (getF s (F.HQE_FN_CTRL_EVEC fn)) else s

def fnCfgErr (s : State) (fn : Nat) : State := raiseFnEvt s fn 0

/-! ### Rings (R347 to R352, R370 to R372) -/

def ring (s : State) (fn r : Nat) : Ring := fgetD s.rings (fn * 64 + r) {}

def setRing (s : State) (fn r : Nat) (x : Ring) : State := { s with rings := fput s.rings (fn * 64 + r) x }

/-- Entries of a ring (R348). -/
def ringSize (s : State) (fn r : Nat) : Nat := 2 ^ (6 + getF s (F.HQE_RCFG_SIZE fn r))

/-- Unreleased entries of a device-written ring (R350). -/
def ringFill (s : State) (fn r : Nat) : Nat :=
  let x := ring s fn r
  (x.index + ringSize s fn r - x.host % ringSize s fn r) % ringSize s fn r

/-- The interrupt level in force (R372). -/
def ringLevel (s : State) (fn r : Nat) : Nat :=
  let l := getF s (F.HQE_RCFG_LEVEL fn r)
  let l := if l = 0 then 1 else l
  if l ≥ ringSize s fn r then ringSize s fn r - 1 else l

/-- Class of a device-written ring: 0 CQ, 1 RQ, 2 EQ, 3 KQ (R371). -/
def ringClass (r : Nat) : Nat := if r < 32 then 0 else if r < 40 then 1 else if r < 44 then 3 else 2

def bank (s : State) (fn cls : Nat) : List BankRec := fgetD s.banks (fn * 4 + cls) []

def setBank (s : State) (fn cls : Nat) (l : List BankRec) : State := { s with banks := fputD s.banks (fn * 4 + cls) [] l }

/-- The ring has room for one more entry beside those waiting in the bank (R350, R370). -/
def ringRoom (s : State) (fn r : Nat) : Bool :=
  (ring s fn r).st == .enabled &&
    Nat.blt (ringFill s fn r + ((bank s fn (ringClass r)).filter (fun b => b.ring == r)).length) (ringSize s fn r - 1)

/-- 64-bit ring base address (R348). -/
def ringBase (s : State) (fn r : Nat) : Nat := rdN s (R.HQE_RBASE_LO fn r) + 2 ^ 32 * rdN s (R.HQE_RBASE_HI fn r)

/-- Bytes of one entry (R347). -/
def entrySize (r : Nat) : Nat := if r < 32 then 16 else if r < 40 then 32 else if r < 44 then 32768 else 32

/-- The bytes with bit 7 of the last one set to the ring's phase. -/
def withPhase (l : List Byte) (ph : Bool) : List Byte :=
  l.dropLast ++ [BitVec.ofNat 8 ((l.getLastD 0).toNat % 128 + 128 * b2n ph)]

/-- A record that its ring cannot take is discarded and counted (R20, R368, R369). -/
def loseRecord (s : State) (fn r : Nat) : State :=
  let x := ring s fn r
  if ringClass r = 1 then
    raiseFnEvt (bumpF (setRing s fn r { x with lost := satN 0xFFFF (x.lost + 1) }) (F.HQE_FN_LOST_RQ fn)) fn 4
  else if ringClass r = 2 then
    raiseFnEvt (bumpF (setRing s fn r { x with lost := satN 255 (x.lost + 1) }) (F.HQE_FN_LOST_EQ fn)) fn 4
  else raiseFnEvt s fn 4

/-- Write one record at its ring's tail: payload, entry with the current phase, a KQ's tail record, and the level interrupt
(R350, R351, R368, R372). A completion whose ring is no longer enabled is held (R367). -/
def writeEntry (s : State) (fn : Nat) (b : BankRec) : State :=
  let r := b.ring
  let x := ring s fn r
  if x.st ≠ .enabled then
    (if ringClass r = 0 then raiseFnEvt { s with held := s.held ++ [⟨fn, r - 16, b.sq, b.data, b.isFinal⟩] } fn 5 else loseRecord s fn r) else
  let size := ringSize s fn r
  let i := x.index % size
  let s := if b.payload = [] then s
    else post s (.hostWrite fn (rdN s (R.HQE_RPAY_LO fn (r - 32)) + 2 ^ 32 * rdN s (R.HQE_RPAY_HI fn (r - 32)) + 512 * i) b.payload)
  let data := if ringClass r = 3 then b.data else withPhase b.data x.phase
  let s := post s (.hostWrite fn (ringBase s fn r + entrySize r * i) data)
  let wrapped := i + 1 == size
  let before := ringFill s fn r
  let x' := { x with index := (i + 1) % size, phase := if wrapped then !x.phase else x.phase, wraps := x.wraps + b2n wrapped }
  let s := setRing s fn r x'
  let s := if ringClass r = 3
    then post s (.hostWrite fn (rdN s (R.HQE_KWB_LO fn (r - 40)) + 2 ^ 32 * rdN s (R.HQE_KWB_HI fn (r - 40)))
      (toLE 2 x'.index ++ toLE 4 x'.wraps ++ [0, 0]))
    else s
  if isSet s (F.HQE_RCFG_IEN fn r) && before + 1 == ringLevel s fn r then raiseVector s fn (getF s (F.HQE_RCFG_VEC fn r)) else s

/-- Write a list of records. -/
def writeEntries : State → Nat → List BankRec → State
  | s, _, [] => s
  | s, fn, b :: l => writeEntries (writeEntry s fn b) fn l

/-- Close and drain the filling bank of a class (R370, R371). -/
def drainBank (s : State) (fn cls : Nat) : State := writeEntries (setBank s fn cls []) fn (bank s fn cls)

/-- The stale time of a class in ns, 0 acting as 1 (R371, HQE_STALE_CFG). -/
def staleNs (s : State) (cls : Nat) : Nat :=
  match cls with
  | 0 => 1000 * max 1 (getF s F.HQE_STALE_CFG_CQ)
  | 1 => 1000 * max 1 (getF s F.HQE_STALE_CFG_RQ)
  | 2 => 1000 * max 1 (getF s F.HQE_STALE_CFG_EQ)
  | _ => 10000 * max 1 (getF s F.HQE_STALE_CFG_KQ)

/-- The filling bank holds a record for its stale time (R371). -/
def bankDue (s : State) (fn cls : Nat) : Bool :=
  (bank s fn cls).any fun b => Nat.ble (b.since + staleNs s cls) s.mains.elapsed

/-- Bytes held in a filling bank. -/
def bankBytes (l : List BankRec) : Nat := (l.map fun b => b.data.length + b.payload.length).sum

/-- Close and drain a class's bank. A completion becomes visible after the records of its command, so the completions are drained after the
receive records and the capture chunks (R366). -/
def drainClass (s : State) (fn cls : Nat) : State :=
  drainBank (if cls = 0 then drainBank (drainBank s fn 1) fn 3 else s) fn cls

/-- Put a record into the filling bank; a record that does not fit closes and drains the bank first (R370). -/
def bankAdd (s : State) (fn : Nat) (b : BankRec) : State :=
  let c := ringClass b.ring
  let s := if bankBytes (bank s fn c ++ [b]) > 4096 then drainClass s fn c else s
  let s := setBank s fn c (bank s fn c ++ [{ b with since := s.mains.elapsed }])
  if bankBytes (bank s fn c) ≥ 4096 then drainClass s fn c else s

/-! ### Commands and completions (R10, R362 to R367) -/

/-- Status codes of R10. -/
def St.done : Nat := 0x00
def St.donePartial : Nat := 0x01
def St.deferred : Nat := 0x10
def St.state : Nat := 0x20
def St.budget : Nat := 0x21
def St.reservation : Nat := 0x22
def St.partition : Nat := 0x23
def St.malformed : Nat := 0x24
def St.directory : Nat := 0x25
def St.authFail : Nat := 0x30
def St.replay : Nat := 0x31
def St.nodeLost : Nat := 0x40
def St.noResponse : Nat := 0x41
def St.aborted : Nat := 0x50
def St.fault : Nat := 0x51

/-- DETAIL of FAULT (R363). -/
def Det.dram : Nat := 1
def Det.nvsWorn : Nat := 2
def Det.barrier : Nat := 3
def Det.watchdog : Nat := 4
def Det.parity : Nat := 5
def Det.crc : Nat := 6
def Det.txf : Nat := 7
def Det.dma : Nat := 8

/-- The 16 bytes of a completion before its phase bit (R362). -/
def completionBytes (c : Cmd) (status detail len ts : Nat) : List Byte :=
  slice c.desc 2 2 ++ [BitVec.ofNat 8 status, BitVec.ofNat 8 detail] ++ toLE 6 ts ++ toLE 4 len ++
    [BitVec.ofNat 8 (c.sq % 16), 0]

/-- Place a completion on its CQ, or hold it while the CQ is full (R367). -/
def placeCompletion (s : State) (fn cq sq : Nat) (l : List Byte) (fin : Bool) : State :=
  if ringRoom s fn (16 + cq) && !(s.held.any fun h => h.fn == fn && h.cq == cq)
  then bankAdd s fn { ring := 16 + cq, data := l, sq := sq, isFinal := fin }
  else raiseFnEvt { s with held := s.held ++ [⟨fn, cq, sq, l, fin⟩] } fn 5

/-- The final completion of a command, its timestamp given (R11, R364). -/
def completeAt (s : State) (c : Cmd) (status detail len ts : Nat) : State :=
  placeCompletion { s with cmds := s.cmds.filter fun d => !(d.uid == c.uid) } c.fn c.cq c.sq
    (completionBytes c status detail len (ts % 2 ^ 48)) true

/-- The final completion, dated by the command's last downlink, or, where it sent none, now (R261, R364). -/
def complete (s : State) (c : Cmd) (status detail len : Nat) : State := completeAt s c status detail len (c.txTs.getD (tbNow s))

/-- The command ends without a completion (R11, R374). -/
def endCmd (s : State) (uid : Nat) : State := { s with cmds := s.cmds.filter fun d => !(d.uid == uid) }

def findCmd (s : State) (uid : Nat) : Option Cmd := s.cmds.find? fun c => c.uid == uid

def updCmd (s : State) (uid : Nat) (f : Cmd → Cmd) : State :=
  { s with cmds := s.cmds.map fun c => if c.uid = uid then f c else c }

/-- The single DEFERRED completion of a command, with its estimate (R11, R260). -/
def deferCmd (s : State) (c : Cmd) (est : Nat) : State :=
  if c.deferred then s else
  placeCompletion (updCmd s c.uid fun d => { d with deferred := true }) c.fn c.cq c.sq
    (completionBytes c St.deferred 0 est (tbNow s % 2 ^ 48)) false

/-- Release held completions of a CQ while it has room, oldest first (R367). -/
def releaseHeld : Nat → State → Nat → Nat → State
  | 0, s, _, _ => s
  | n + 1, s, fn, cq =>
    match s.held.find? (fun h => h.fn == fn && h.cq == cq) with
    | none => s
    | some h =>
      if ringRoom s fn (16 + cq) then
        releaseHeld n (bankAdd { s with held := s.held.erase h } fn { ring := 16 + cq, data := h.bytes, sq := h.sq, isFinal := h.isFinal }) fn cq
      else s

/-! ### Descriptor fields (R353) and the start of a fetched command -/

def D.op (c : Cmd) : Nat := leAt c.desc 0 1
def D.nodl (c : Cmd) : Bool := bit (leAt c.desc 1 1) 0
def D.fence (c : Cmd) : Bool := bit (leAt c.desc 1 1) 1
def D.tag (c : Cmd) : Nat := leAt c.desc 2 2
/-- Bytes 4 to 7: node address or resource. -/
def D.res (c : Cmd) : Nat := leAt c.desc 4 4
def D.buf (c : Cmd) : Nat := leAt c.desc 8 8
def D.len (c : Cmd) : Nat := leAt c.desc 16 4
def D.deadline (c : Cmd) : Nat := leAt c.desc 20 4
/-- A field of the opcode-specific bytes. -/
def D.at (c : Cmd) (lo n : Nat) : Nat := leAt c.desc lo n

/-- A completion of the SQ waits in the CQ bank or is held. -/
def sqUnwritten (s : State) (fn sq : Nat) : Bool :=
  (bank s fn 0).any (fun b => b.sq == sq && b.isFinal) || s.held.any fun h => h.fn == fn && h.sq == sq && h.isFinal

/-- Opcodes of the session, directory and traffic commands, which name a node (R365). -/
def nodeOp (op : Nat) : Bool := [0x10, 0x11, 0x20, 0x21, 0x22, 0x23, 0x30, 0x31, 0x32].contains op

/-- An earlier fetched command for the same node has not started: they take effect in fetch order (R365). -/
def nodeBehind (s : State) (c : Cmd) : Bool :=
  nodeOp (D.op c) && s.cmds.any fun d =>
    d.fn == c.fn && Nat.blt d.uid c.uid && d.st == .fetched && nodeOp (D.op d) && D.res d == D.res c

/-- A fetched command may start: a FENCE command only after every earlier command of its SQ has its final completion written
(R353), a command for a node only after the earlier ones of its function for it (R365). -/
def startable (s : State) (c : Cmd) : Bool :=
  c.st == .fetched && !nodeBehind s c && (!D.fence c ||
    (!(s.cmds.any fun d => d.fn == c.fn && d.sq == c.sq && Nat.blt d.uid c.uid) && !sqUnwritten s c.fn c.sq))

/-- The command has started and waits for an engine. -/
def engineCmd (s : State) (c : Cmd) : State := updCmd s c.uid fun d => { d with st := .engine }

/-- REFUSED_MALFORMED with the offset of the bad field, 0xFF for one in the buffer (R354). -/
def malformed (s : State) (c : Cmd) (off : Nat) : State := complete s c St.malformed off 0

/-- REFUSED_PARTITION (R354, R383). -/
def notOwned (s : State) (c : Cmd) : State := complete s c St.partition 0 0

/-- REFUSED_STATE with a device state code (R66). -/
def wrongState (s : State) (c : Cmd) (code : Nat) : State := complete s c St.state code 0

/-! ### Events and receive records -/

/-- Write an event to a function's event ring (R369); discarded and counted when the ring cannot take
it. While Speedwell's domain is off no event is written. -/
def event (s : State) (fn typ concerned ts cidx : Nat) (payload : List Byte) : State :=
  if !domainOn s 3 then s else
  if ringRoom s fn 44 then
    let x := ring s fn 44
    let s := setRing s fn 44 { x with lost := 0 }
    let data := toLE 2 typ ++ [BitVec.ofNat 8 concerned, 0] ++ toLE 6 (ts % 2 ^ 48) ++ toLE 4 cidx ++ slice payload 0 16
    bankAdd s fn { ring := 44, data := data ++ [BitVec.ofNat 8 x.lost, 0] }
  else loseRecord s fn 44

/-- An event dated now. -/
def eventNow (s : State) (fn typ concerned : Nat) (payload : List Byte) : State :=
  event s fn typ concerned (tbNow s) (cidxNow s) payload

/-- An event to function 0 and to another function concerned. -/
def eventBoth (s : State) (fn typ : Nat) (payload : List Byte) : State :=
  let s := eventNow s 0 typ fn payload
  if fn = 0 then s else eventNow s fn typ fn payload

/-- A decision event (R26, R531): item, discarded, object, old, new, measured input; to function 0 and the owner. -/
def decision (s : State) (fn item : Nat) (discarded : Bool) (obj old new input : Nat) : State :=
  eventBoth s fn 0x0001 (toLE 3 obj ++ [BitVec.ofNat 8 (item + 128 * b2n discarded)] ++ toLE 4 old ++ toLE 4 new ++ toLE 4 input)

/-! ### Copies on the line -/

/-- A copy of the job has begun. -/
def Job.begun (j : Job) : Bool := j.copies.any fun c => c.st == .onAir || c.st == .done || c.st == .cut

/-- The job still has a copy to send or on the air. -/
def Job.live (j : Job) : Bool := !j.ended && j.copies.any fun c => c.st == .onAir || c.st == .planned

def findJob (s : State) (id : Nat) : Option Job := s.jobs.find? fun j => j.id == id

def updJob (s : State) (id : Nat) (f : Job → Job) : State :=
  { s with jobs := s.jobs.map fun j => if j.id = id then f j else j }

/-- Withdraw a job that has not begun: its copies are not sent, its channels are free again and its charges are
refunded, those of the bands, those of its function's airtime and its credit (R12, R247, R249, R272, R388). -/
def withdrawJob (s : State) (j : Job) : State :=
  let s := updJob s j.id fun j => { j with
    ended := true, copies := j.copies.map fun c => if c.st = .planned then { c with st := .withdrawn } else c }
  let less := fun (m : FMap Nat) => m.map fun e => if e.1 = j.frame then (e.1, e.2 - j.cost) else e
  { s with
    bands := { s.bands with charges := s.bands.charges.filter fun c => !(c.id == j.id) },
    air := if j.cost = 0 then s.air else { s.air with
      rc := if j.reserved then less s.air.rc else s.air.rc, spare := if j.reserved then s.air.spare else less s.air.spare,
      credit := if j.reserved then s.air.credit else fputD s.air.credit j.fn 0 (fgetD s.air.credit j.fn 0 + j.cost) },
    sor := { s.sor with
      holds := s.sor.holds.filter fun h => !(h.job == j.id && h.kind != .contention), cont := s.sor.cont.filter fun c => !(c.job == j.id) } }

/-- The phase stops transmitting: its transmitting time is counted up to now (R205, R216). -/
def TxPh.stopped (x : TxPh) (now : Nat) : TxPh :=
  match x.onSince with
  | some a => { x with txTime := x.txTime + (now - a), txEp := x.txEp + (now - a), onSince := none }
  | none => x

/-- State of an idle driver: 1 high impedance, 2 driven zero, as TXS_CTRL.IDLE says (R211). -/
def idleState (s : State) : Nat := if isSet s F.TXS_CTRL_IDLE then 2 else 1

/-- Length of a symbol in ns. -/
def Signal.sym (g : Signal) : Rat := g.cyc / g.m

/-- When the last ramp sample of a copy that has been sent, or was cut off, ends (R197, R198, R211). -/
def Copy.rampEnd (c : Copy) : Nat :=
  match c.st, c.sig.bind fun g => g.stop.map fun e => (g, e) with
  | .cut, some (g, (a, true)) => a + (Rat.ceil (g.sym / 8)).toNat
  | .done, _ => c.t1
  | _, _ => 0

/-- When the last ramp sample on a phase ends. -/
def lastRamp (s : State) (p : Nat) : Nat :=
  ((s.jobs.flatMap (·.copies)).filter fun c => c.ch.ph == p).foldl (fun t c => max t c.rampEnd) 0

/-- Begin or end the count of a phase's transmitting time. The driver drives from 50 µs before the first ramp sample and is idle again
50 µs after the last one ends (R211). -/
def noteTx (s : State) (p : Nat) : State :=
  let on := s.jobs.any fun j => j.copies.any fun c => c.st == .onAir && c.ch.ph == p
  let t := txPh s p
  let now := s.mains.elapsed
  if on && t.onSince.isNone then post (setTx s p { t with onSince := some now }) (.driver p 3 (now - 50000))
  else if !on && t.onSince.isSome then post (setTx s p (t.stopped now)) (.driver p (idleState s) (max now (lastRamp s p) + 50000)) else s

/-- A driver's state (R211): 0 off, 1 high impedance, 2 driven zero, 3 driving. -/
def driverState (s : State) (p : Nat) : Nat :=
  let now := s.mains.elapsed
  if !domainOn s (18 + p) then 0
  else if (hardMute s p).isNone && s.jobs.any fun j => j.copies.any fun c => c.ch.ph == p &&
      (c.st == .onAir || (c.st == .planned && !j.ended && Nat.ble c.t0 (now + 50000)) ||
        ((c.st == .done || c.st == .cut) && Nat.ble now (c.rampEnd + 50000))) then 3
  else idleState s

/-- A copy on a hard-muted phase is cut, with no ramp (R211). -/
def cutCopy (s : State) (c : Copy) : Copy :=
  if c.st = .onAir ∧ (hardMute s c.ch.ph).isSome
  then { c with st := .cut, sig := c.sig.map fun g => { g with stop := some (s.mains.elapsed, false) } } else c

/-- Items a player has played; a transmit player plays one of its entry with each DAC sample (R332, R337). -/
def playedNow (s : State) (p : Nat) (x : Player) : Nat :=
  if p < 3 ∧ x.st = .playing then x.played + min x.items (s.mains.elapsed * 64 / 15625 - x.since) else x.played

/-- Some copy of the job is on the air on a hard-muted phase. -/
def jobCut (s : State) (j : Job) : Option Nat :=
  j.copies.findSome? fun c => if c.st = .onAir then hardMute s c.ch.ph else none

/-- Start of a frame's first symbol, the end of its last, and the end of its sync word. -/
def Signal.e0 (g : Signal) : Rat := g.starts.headD 0
def Signal.e1 (g : Signal) : Rat := g.starts.getLastD 0
def Signal.sync (g : Signal) : Rat := g.starts.getD g.syncLen g.e1

/-- The timebase at an elapsed time not after now. -/
def tbAt (s : State) (t : Rat) : Nat := wrap 64 ((tbNow s : Int) + (t - s.mains.elapsed).floor)

/-- The transmit timestamp of a frame on the line whose sync word has gone out (R261). -/
def syncSent (s : State) (j : Job) : Option Nat :=
  (j.copies.findSome? fun c => if c.pre then none else
    c.sig.bind fun g => if g.sync ≤ s.mains.elapsed then some g.sync else none).map (tbAt s)

/-- Complete the command of a job that was cut off (R85, R217, R337, R507); a player stops. -/
def completeCut (s : State) (j : Job) : State :=
  match jobCut s j with
  | none => s
  | some d =>
    if s.pwr.resetAt.isSome then s else
    match j.kind with
    | .command uid =>
      match findCmd s uid with
      | some c => completeAt s c St.fault d 0 ((syncSent s j).getD (c.txTs.getD (tbNow s)))
      | none => s
    | .flood (some uid) =>
      match findCmd s uid with
      | some c => completeAt s c St.fault d 0 ((syncSent s j).getD (tbNow s))
      | none => s
    | .player uid p =>
      let x := fgetD s.players p {}
      let s := { s with players := fput s.players p { x with st := .idle } }
      match findCmd s uid with
      | some c => complete s c St.fault d (playedNow s p x)
      | none => s
    | _ => s

/-- Complete the commands of the jobs that were cut off. -/
def completeCuts : State → List Job → State
  | s, [] => s
  | s, j :: l => completeCuts (completeCut s j) l

/-- Cut the frames of hard-muted phases and complete their commands. -/
def settle (s : State) : State :=
  let t := completeCuts s s.jobs
  { t with
    jobs := t.jobs.map fun j => { j with copies := j.copies.map (cutCopy t) },
    tx := t.tx.map fun e => (e.1, if (hardMute t e.1).isSome then e.2.stopped t.mains.elapsed else e.2) }

/-- A command that completed, the hard mutes it caused carried out (R211). -/
def done (s : State) : Answer := .next (settle s)

/-! ### The ring port (R487, R488) -/

/-- The ring port works: PERIPH on, enabled, not in its safe action (R80, R487). -/
def jirOn (s : State) : Bool := domainOn s 16 && isSet s F.JIR_CTRL_EN && !inSafe s 13

def jirPos (s : State) : Nat := getF s F.JIR_STATUS_POS

/-- A packet of the device's own, stamped as it departs (R488, R490). -/
def sendPacket (s : State) (type : Nat) (content : List Nat) : State := post s (.jiroth type (jirPos s) (some (10 * tbNow s)) content)

end Sys2Proof.Machine
end

