-- ==== Sys2Proof/Machine/Clock.lean ====
section
/-! DEFINITION. The timekeeping clock: what passes in one 8 ns tick (R114, R461; log entry 2). -/

namespace Sys2Proof.Machine

/-- 8 ns of the real-time clock: its SUB counts at 32,768 Hz (R460); at each count the correction `c` accumulates, and one count is
added or skipped when it reaches one (R461). SUB stays below 32,768 until the second ends. -/
def Rtc.count (r : Rtc) (c : Int) : Rtc :=
  let acc := r.acc + 8 * 32768
  if acc < 10 ^ 9 then { r with acc := acc } else
  let cal := r.cal + c
  if 10 ^ 7 ≤ cal then { r with acc := acc - 10 ^ 9, cal := cal - 10 ^ 7, sub := satN 32767 (r.sub + 2) }
  else if cal ≤ -(10 ^ 7) then { r with acc := acc - 10 ^ 9, cal := cal + 10 ^ 7 }
  else { r with acc := acc - 10 ^ 9, cal := cal, sub := satN 32767 (r.sub + 1) }

/-- One tick of the timekeeping clock: 8 ns and the rate adjustment of MSY_TB_ADJ in units of 2^-32 ns (R114); the elapsed
count runs at 8 ns whatever the timebase does; the real-time clock counts (R460, R461). -/
def tick (s : State) : State :=
  let s := if s.rtc.running then { s with rtc := s.rtc.count (sext 10 (getF s F.RTC_CAL_CAL)) } else s
  let m := s.mains
  if m.running then
    let adj := sext 32 (rdN s R.MSY_TB_ADJ)
    -- the PPS servo slews by at most 100 ppm of 8 ns a tick (R117; log entry 28)
    let slew := clampI 3435973 m.pps.slew
    let total : Int := (m.frac.toNat : Int) + adj + slew + (8 * 2 ^ 32 : Nat)
    { s with mains := { m with
        pps := { m.pps with slew := m.pps.slew - slew },
        tb := m.tb + BitVec.ofInt 64 (total / (2 ^ 32 : Nat)),
        frac := BitVec.ofInt 32 (total % (2 ^ 32 : Nat)),
        elapsed := m.elapsed + 8 } }
  else s

end Sys2Proof.Machine
end

