-- ==== Sys2Proof/Machine/Codec.lean ====
section
/-! DEFINITION. Codes of the device: the CRCs (R82, R173, R174), the header (R172), the convolutional code with its interleaver
and its Viterbi decoder (R176 to R178), and the check field of a storage word (R310). -/

namespace Sys2Proof.Machine

/-- The low `w` bits of a number, most significant first. -/
def bitsMsb : Nat → Nat → List Bool
  | 0, _ => []
  | w + 1, x => bit x w :: bitsMsb w x

/-- A list of bits, most significant first, as a number. -/
def natOfBits (l : List Bool) : Nat := l.foldl (fun a b => 2 * a + b2n b) 0

/-- Bits of a byte string, each byte most significant bit first. -/
def bitsOfBytes (l : List Byte) : List Bool := l.flatMap fun b => bitsMsb 8 b.toNat

/-- Groups of eight bits as bytes; a shorter last group is dropped. -/
def bytesOfBits : Nat → List Bool → List Byte
  | 0, _ => []
  | n + 1, l => BitVec.ofNat 8 (natOfBits (l.take 8)) :: bytesOfBits n (l.drop 8)

/-- One step of a CRC of width `w` that takes bits most significant first. -/
def crcStep (w poly r : Nat) (b : Bool) : Nat :=
  let r' := 2 * r % 2 ^ w
  if bit r (w - 1) != b then Nat.xor r' poly else r'

/-- A CRC of width `w` over bits, most significant first. -/
def crcBits (w poly init : Nat) (l : List Bool) : Nat := l.foldl (crcStep w poly) init

/-- HCRC of the 80 bits H[95:16] (R173). -/
def crc16 (l : List Bool) : Nat := crcBits 16 0x1021 0xFFFF l

/-- CRC-32 of a body (R174). -/
def crc32Body (l : List Byte) : Nat := Nat.xor (crcBits 32 0x04C11DB7 0xFFFFFFFF (bitsOfBytes l)) 0xFFFFFFFF

/-- One step of the reflected CRC-32. -/
def crcStepR (r : Nat) (b : Bool) : Nat := if bit r 0 != b then Nat.xor (r / 2) 0xEDB88320 else r / 2

/-- Reflected CRC-32 of R82 over a byte string. -/
def crc32Reflected (l : List Byte) : Nat :=
  Nat.xor ((l.flatMap fun b => (bitsMsb 8 b.toNat).reverse).foldl crcStepR 0xFFFFFFFF) 0xFFFFFFFF

/-! ### The header (R172) -/

def Hdr.ver (h : Nat) : Nat := bits h 95 94
def Hdr.dst (h : Nat) : Nat := bits h 93 76
def Hdr.src (h : Nat) : Nat := bits h 75 58
def Hdr.label (h : Nat) : Nat := bits h 57 52
def Hdr.len (h : Nat) : Nat := bits h 51 43
def Hdr.hop (h : Nat) : Nat := bits h 42 39
def Hdr.ttl (h : Nat) : Nat := bits h 38 35
def Hdr.seq (h : Nat) : Nat := bits h 34 23
def Hdr.enc (h : Nat) : Bool := bit h 22
def Hdr.rte (h : Nat) : Bool := bit h 21
def Hdr.rtx (h : Nat) : Bool := bit h 20
def Hdr.nmode (h : Nat) : Nat := bits h 19 18
def Hdr.hcrc (h : Nat) : Nat := bits h 15 0

/-- A header with its HCRC, VER 0b01 and RSV 0 (R172, R173). -/
def mkHdr (dst src label len hop ttl seq : Nat) (enc rte rtx : Bool) (nmode : Nat) : Nat :=
  let x := (((((((((((1 * 2 ^ 18 + dst % 2 ^ 18) * 2 ^ 18 + src % 2 ^ 18) * 2 ^ 6 + label % 2 ^ 6) * 2 ^ 9 + len % 2 ^ 9) * 2 ^ 4
    + hop % 2 ^ 4) * 2 ^ 4 + ttl % 2 ^ 4) * 2 ^ 12 + seq % 2 ^ 12) * 2 + b2n enc) * 2 + b2n rte) * 2 + b2n rtx) * 2 ^ 2
    + nmode % 4) * 2 ^ 2
  x * 2 ^ 16 + crc16 (bitsMsb 80 x)

/-- The header with its HCRC computed again after a change of its other bits. -/
def fixHdr (h : Nat) : Nat := h / 2 ^ 16 * 2 ^ 16 + crc16 (bitsMsb 80 (h / 2 ^ 16))

/-- The header check of R175: true for a header that passes. -/
def hdrPasses (h : Nat) : Bool :=
  Hdr.hcrc h == crc16 (bitsMsb 80 (h / 2 ^ 16)) && Hdr.ver h == 1 && Nat.ble (Hdr.len h) 508 && Hdr.dst h != 0 &&
    Hdr.src h != 0 && Hdr.src h != 0x3FFFF && bits h 17 16 == 0

/-- A masked record's header: DST, SRC, LABEL, SEQ and NMODE 0, HCRC computed again (R312). -/
def maskHdr (h : Nat) : Nat :=
  fixHdr (setBits (setBits (setBits (setBits (setBits h 93 76 0) 75 58 0) 57 52 0) 34 23 0) 19 18 0)

/-! ### Convolutional code and interleaver (R176, R177) -/

/-- Parity of the low 7 bits. -/
def parity7 (x : Nat) : Bool := ((bitsMsb 7 x).filter id).length % 2 == 1

/-- The two coded bits of a register value. -/
def convOut (r : Nat) : Bool × Bool := (parity7 (Nat.land r 0b1111001), parity7 (Nat.land r 0b1011011))

def convGo : Nat → List Bool → List Bool
  | _, [] => []
  | r, b :: l =>
    let r := b2n b * 64 + r / 2
    (convOut r).1 :: (convOut r).2 :: convGo r l

/-- Encode with six tail bits (R176). -/
def convEncode (l : List Bool) : List Bool := convGo 0 (l ++ List.replicate 6 false)

/-- Order in which the bits of a block of `n` are sent (R177). -/
def ilOrder (n : Nat) : List Nat :=
  (List.range 16).flatMap fun col => ((List.range (cdiv n 16)).map fun row => row * 16 + col).filter fun k => Nat.blt k n

/-- Interleave one block. -/
def ilBlock (l : List Bool) : List Bool := (ilOrder l.length).map fun k => l.getD k false

/-- Place in the sent order of coded bit `k` of a block of `n`. -/
def ilPos (n k : Nat) : Nat := ((List.range (k % 16)).map fun j => (n - j + 15) / 16).sum + k / 16

/-- Undo the interleaving of one block of values. -/
def deilBlock (l : List Int) : List Int := (List.range l.length).map fun k => l.getD (ilPos l.length k) 0

/-- Cut a list into blocks of `n`. -/
def blocksOf {α : Type} (n : Nat) : Nat → List α → List (List α)
  | 0, _ => []
  | f + 1, l => if l = [] then [] else l.take n :: blocksOf n f (l.drop n) 
  termination_by structural f => f

/-- Interleave a codeword: the header as one block, a body in blocks of 512 (R177). -/
def interleave (hdr : Bool) (l : List Bool) : List Bool :=
  if hdr then ilBlock l else ((blocksOf 512 (l.length + 1) l).map ilBlock).flatten

def deinterleave (hdr : Bool) (l : List Int) : List Int :=
  if hdr then deilBlock l else ((blocksOf 512 (l.length + 1) l).map deilBlock).flatten

/-! ### Viterbi (R178) -/

/-- A survivor: metric and decided input bits, newest first. -/
abbrev Surv := Int × List Bool

/-- The survivor of next state `q` after soft values `u1`, `u2` at step `t`: the better predecessor, an equal one by the open
choice of `Config.viterbiTie` (log entry 15). -/
def vitNext (t : Nat) (l : List Surv) (u1 u2 : Int) (q : Nat) : Surv :=
  let b := q / 32
  let p0 := q % 32 * 2
  let cand : Nat → Surv := fun p =>
    let (m, h) : Surv := l.getD p (0, [])
    let (c1, c2) := convOut (b * 64 + p)
    (m + (if c1 then u1 else -u1) + (if c2 then u2 else -u2), h)
  let a := cand p0
  let c := cand (p0 + 1)
  let pick := if a.1 = c.1 then (if Config.viterbiTie t q then c else a) else if c.1 > a.1 then c else a
  (pick.1, (b == 1) :: pick.2)

/-- The best survivor; equal ones by the open choice (log entry 15). -/
def vitBest (t : Nat) : List Surv → Surv
  | [] => (0, [])
  | [a] => a
  | a :: b :: l =>
    let r := vitBest t (b :: l)
    if a.1 = r.1 then (if Config.viterbiTie t (64 + l.length) then a else r) else if a.1 > r.1 then a else r

/-- Run the trellis over pairs of soft values; after 64 steps each step decides the bit 64 back (R178). Answers the bits decided
so far, oldest last, and the survivors. -/
def vitRun : Nat → List Surv → List Bool → List (Int × Int) → List Bool × List Surv
  | _, l, out, [] => (out, l)
  | t, l, out, (u1, u2) :: r =>
    let l := (List.range 64).map (vitNext t l u1 u2)
    let out := if t ≥ 64 then (vitBest t l).2.getD 64 false :: out else out
    vitRun (t + 1) l out r

def pairUp : List Int → List (Int × Int)
  | a :: b :: l => (a, b) :: pairUp l
  | _ => []

/-- Decode a codeword of accumulated values, in encoder order: `n` information bits (R176, R178). The code starts and ends in
state 0. -/
def viterbi (n : Nat) (acc : List Int) : List Bool :=
  let start : List Surv := (List.range 64).map fun q => (if q = 0 then 0 else -(2 ^ 40 : Nat), [])
  let (out, l) := vitRun 0 start [] (pairUp acc)
  let fin := (l.getD 0 (0, [])).2
  ((out.reverse ++ (fin.take (fin.length - out.length)).reverse).take n)

/-- Coded bits disagree with their accumulated values, or meet 0 (R181). -/
def disagrees (coded : List Bool) (acc : List Int) : Nat :=
  ((coded.zip acc).filter fun (c, a) => if c then decide (a ≤ 0) else decide (a ≥ 0)).length

/-! ### Storage words (R310, R313) -/

/-- One step of the division by g(x) = m1(x)·m3(x) of degree 18. -/
def bchStep (r : Nat) (b : Bool) : Nat := crcStep 18 0x095C9 r b

/-- CHK of a payload of 126 bits (R310). -/
def bchCheck (d : Nat) : Nat := (bitsMsb 126 d).foldl bchStep 0

/-- The 144-bit storage word of a payload. -/
def storeWord (d : Nat) : Nat := d % 2 ^ 126 + bchCheck (d % 2 ^ 126) * 2 ^ 126

/-- Payload of a storage word. -/
def wordPayload (w : Nat) : Nat := w % 2 ^ 126

/-- What position `i` of a storage word adds to its syndrome. -/
def bchPos (i : Nat) : Nat := if i < 126 then bchCheck (2 ^ i) else 2 ^ (i - 126)

/-- The syndrome of a storage word: 0 for a codeword. -/
def bchSyndrome (w : Nat) : Nat := Nat.xor (bchCheck (w % 2 ^ 126)) (w / 2 ^ 126 % 2 ^ 18)

/-- The positions, one or two, whose change makes a syndrome 0. -/
def bchErrors (z : Nat) : Option (List Nat) :=
  let rs := (List.range 144).map fun i => (i, bchPos i)
  match rs.find? fun e => e.2 == z with
  | some e => some [e.1]
  | none => rs.findSome? fun a => (rs.find? fun b => Nat.blt a.1 b.1 && Nat.xor a.2 b.2 == z).map fun b => [a.1, b.1]

/-- A storage word as it is read (R310, R311): its payload, one or two errors corrected, and whether it was corrected; none when the check
field cannot correct it. -/
def readStored (w : Nat) : Option (Nat × Bool) :=
  if bchSyndrome w = 0 then some (wordPayload w, false)
  else (bchErrors (bchSyndrome w)).map fun l => (wordPayload (l.foldl (fun w i => Nat.xor w (2 ^ i)) w), true)

/-- A payload in the 16-byte host form, not corrected (R313). -/
def hostForm (d : Nat) : List Byte := toLE 16 (d % 2 ^ 126)

end Sys2Proof.Machine
end

