-- ==== Sys2Proof/Machine/Ports.lean ====
section
/-! DEFINITION. The UART, the I²C controller, the SPI flash controller and the SPI target's writes (R470 to R486). The target's
reads are in Registers.lean. -/

namespace Sys2Proof.Machine

/-! ### Pads (R468) -/

/-- A pad of the four ports. -/
inductive PortPad where
  | utxd | ude | scl | sda | fsck | fcs | fio (n : Fin 4) | tmiso | tirq | jtx (lane : Fin 2)
  deriving DecidableEq, Repr

/-- What the device does at a pad: nothing (high impedance, or a lane pair not driven), a level, or its port's traffic. -/
inductive PadDrive where
  | highZ | undriven | low | high | port
  deriving DecidableEq, Repr

/-- How a pad is driven: while PERIPH is off all are high impedance and JTX0 and JTX1 not driven (R468); while it is on, UDE follows the
half-duplex character in progress (R475), TIRQ# is low with a message posted (R486), and the rest carry their ports' traffic. -/
def padDrive (s : State) (p : PortPad) : PadDrive :=
  match p, domainOn s 16 with
  | .jtx _, false => .undriven
  | _, false => .highZ
  | .ude, true => if isSet s F.UART_CFG_HDX && s.uart.cur.isSome && !s.uart.coll then .high else .low
  | .tirq, true => if s.spi.h2b then .low else .high
  | _, true => .port

/-! ### UART (R470 to R475) -/

def setUart (s : State) (u : Uart) : State := { s with uart := u }

/-- Begin the next character when the transmitter is free, enabled and not held: flow-control characters first (R474). -/
def uartStart (s : State) : State :=
  let u := s.uart
  if u.cur.isSome || u.xoff || u.coll || !isSet s F.UART_CFG_EN then s
  else match u.ahead, u.tx with
  | c :: r, _ => setUart s { u with cur := some c, ahead := r }
  | [], c :: r => setUart s { u with cur := some c, tx := r }
  | [], [] => s

/-- Flow control follows the fill of the receive FIFO: XOFF at RX_HI, XON at RX_LO (R474). -/
def uartFlow (s : State) : State :=
  let u := s.uart
  if !isSet s F.UART_CFG_FLOW then s
  else if !u.sentXoff && Nat.ble (getF s F.UART_FLOW_RX_HI) u.rx.length then
    uartStart (setUart s { u with ahead := u.ahead ++ [0x13], sentXoff := true })
  else if u.sentXoff && Nat.ble u.rx.length (getF s F.UART_FLOW_RX_LO) then
    uartStart (setUart s { u with ahead := u.ahead ++ [0x11], sentXoff := false })
  else s

/-- Store a receive entry with its flags; a full FIFO loses it (R472). -/
def uartStore (s : State) (e : Nat) : State :=
  let u := s.uart
  if u.rx.length ≥ 64 then raise (setUart s { u with lostSince := true }) F.UART_EVT_OVR
  else uartFlow (setUart s { u with rx := u.rx ++ [e + 2 ^ 15 + 2 ^ 14 * b2n u.lostSince], lostSince := false })

/-- Number of ones in the low 9 bits. -/
def ones9 (x : Nat) : Nat := ((List.range 9).map fun i => b2n (bit x i)).sum

/-- A character's parity bit disagrees with PAR. -/
def parityBad (s : State) (d : Nat) (parity : Bool) : Bool :=
  let p := getF s F.UART_CFG_PAR
  let odd := (ones9 d + b2n parity) % 2 == 1
  (p == 1 && odd) || (p == 2 && !odd)

/-- A character's data: 7 or 8 bits, and the ninth where NINE is set (R470, R473). -/
def uartData (s : State) (c : Nat) : Nat :=
  c % 2 ^ (if isSet s F.UART_CFG_BITS8 then 8 else 7) + (if isSet s F.UART_CFG_NINE then 256 * (c / 256 % 2) else 0)

/-- The parity bit that PAR asks for: even in 0b01, odd in 0b10 (R470). -/
def parityBit (s : State) (d : Nat) : Bool := (ones9 d % 2 == 1) != (getF s F.UART_CFG_PAR == 2)

/-- A character on the line: start bit, data bits from the least significant, ninth bit, parity bit, one or two stop bits (R470). -/
def uartFrame (s : State) (c : Nat) : List Bool :=
  let d := uartData s c
  let par := getF s F.UART_CFG_PAR
  false :: (List.range (if isSet s F.UART_CFG_BITS8 then 8 else 7)).map (bit d) ++ (if isSet s F.UART_CFG_NINE then [bit d 8] else []) ++
    (if par = 1 ∨ par = 2 then [parityBit s d] else []) ++ List.replicate (1 + getF s F.UART_CFG_STOP2) true

/-- Cycles of the 100 MHz clock in a bit: 16 × (DIV + FRAC / 16); a DIV below 2 acts as 2 (R470). -/
def uartBit (s : State) : Nat := 16 * max 2 (getF s F.UART_BAUD_DIV) + getF s F.UART_BAUD_FRAC

/-- A character judged by the receiver: flags, mute and flow control (R471 to R474). -/
def uartReceive (s : State) (data : Nat) (parity stop col : Bool) : State :=
  let nine := isSet s F.UART_CFG_NINE
  let d := uartData s data
  let par := getF s F.UART_CFG_PAR == 1 || getF s F.UART_CFG_PAR == 2
  let brk := d == 0 && (!par || !parity) && !stop
  let pe := !brk && parityBad s d parity
  let fe := !stop
  let s := if fe then raise s F.UART_EVT_FE else s
  let u := s.uart
  let addr := nine && bit d 8
  let err := fe || pe || col
  if isSet s F.UART_CFG_FLOW && !err && !addr && (d == 0x13 || d == 0x11) then
    uartStart (setUart s { u with xoff := d == 0x13 })
  else
    let mute := nine && isSet s F.UART_CFG_MUTE
    let am := getF s F.UART_ADDR_AMASK
    let hit := Nat.land d am == Nat.land (getF s F.UART_ADDR_ADDR) am
    let s := if mute && addr then setUart s { u with muted := !hit } else s
    if mute && s.uart.muted then s
    else uartStore s (d + 2 ^ 10 * b2n col + 2 ^ 11 * b2n pe + 2 ^ 12 * b2n fe + 2 ^ 13 * b2n brk)

/-- UART_CHARACTER_RECEIVED (R471 to R474). -/
def execUartCharacterReceived (data : BitVec 9) (parity stop : Bool) (s : State) : Answer :=
  if !domainOn s 16 || !isSet s F.UART_CFG_EN then done s else done (uartReceive s data.toNat parity stop false)

/-- UART_CHARACTER_SENT (R468, R470, R474, R475): the character in progress ends; in half duplex it is read back, as it was sent or, when it
collided, as the line carried it (`data`, `parity`, `stop`). -/
def execUartCharacterSent (collided : Bool) (data : BitVec 9) (parity stop : Bool) (s : State) : Answer :=
  if !domainOn s 16 then done s else
  match s.uart.cur with
  | none => done s
  | some c =>
    let whole := setUart (post s (.uart (uartFrame s c) (uartBit s))) { s.uart with cur := none }
    if !isSet s F.UART_CFG_HDX then done (uartStart whole)
    else if collided then
      let s := setUart s { s.uart with cur := none }
      done (uartReceive (raise (setUart s { s.uart with coll := true }) F.UART_EVT_COLL) data.toNat parity stop true)
    else done (uartStart (if isSet s F.UART_CFG_ECHO then uartReceive whole c (parityBit s (uartData s c)) true false else whole))

/-- UART_TXD is written: discarded when the FIFO is full. -/
def uartPush (s : State) (v : Word) : State :=
  if s.uart.tx.length ≥ 64 then s else uartStart (setUart s { s.uart with tx := s.uart.tx ++ [v.toNat % 512] })

/-- UART_TXD_WRITE (R470). -/
def execUartTxdWrite (v : Word) (s : State) : Answer := done (access s R.UART_TXD fun s => uartPush s v)

/-- UART_RXD is read: the oldest entry is removed; an empty FIFO gives VALID = 0 (R472). -/
def uartPop (s : State) : State :=
  match s.uart.rx with
  | [] => { s with readData := 0 }
  | e :: r => uartFlow { setUart s { s.uart with rx := r } with readData := BitVec.ofNat 32 e }

/-- UART_RXD_READ (R472, R474). -/
def execUartRxdRead (s : State) : Answer := done (readAccess s R.UART_RXD uartPop)

/-- UART_CTRL.RESUME: ends a collision hold and an XOFF hold (R475). -/
def uartResume (s : State) : State := uartStart (setUart s { s.uart with coll := false, xoff := false })

/-- UART_RESUME (R475). -/
def execUartResume (s : State) : Answer := done (access s R.UART_CTRL uartResume)

/-- UART_CTRL.FLUSH_RX empties the receive FIFO. -/
def uartFlushRx (s : State) : State := uartFlow (setUart s { s.uart with rx := [] })

/-- UART_FLUSH_RX (R498). -/
def execUartFlushRx (s : State) : Answer := done (access s R.UART_CTRL uartFlushRx)

/-- UART_CTRL.FLUSH_TX empties the transmit FIFO. -/
def uartFlushTx (s : State) : State := setUart s { s.uart with tx := [] }

/-- UART_FLUSH_TX (R498). -/
def execUartFlushTx (s : State) : Answer := done (access s R.UART_CTRL uartFlushTx)

/-- UART_CFG is written: PAR = 0b11 acts as 0b00; MUTE = 1 starts the mute and MUTE = 0 ends it. -/
def writeUartCfg (s : State) (v : Word) : State :=
  let was := isSet s F.UART_CFG_MUTE
  let s := wrN s R.UART_CFG (v.toNat % 1024)
  let s := if getF s F.UART_CFG_PAR = 3 then raise s F.UART_EVT_CFG_ERR else s
  let now := isSet s F.UART_CFG_MUTE
  let s := setUart s { s.uart with muted := now && (!was || s.uart.muted) }
  uartStart s

/-- UART_BAUD is written: a DIV below 2 acts as 2 (R470). -/
def writeUartBaud (s : State) (v : Word) : State :=
  let s := wrN s R.UART_BAUD (Nat.land v.toNat 0xFFFF000F)
  if getF s F.UART_BAUD_DIV < 2 then raise s F.UART_EVT_CFG_ERR else s

/-! ### I²C (R476 to R480) -/

def i2cErr (s : State) : State := raise s F.I2C_EVT_CFG_ERR

def Cmd.wlen (v : Word) : Nat := bits v.toNat 13 8
def Cmd.rlen (v : Word) : Nat := bits v.toNat 21 16

/-- A transaction ends with a result code: its write bytes leave the FIFO, what was received stays (R477). -/
def i2cEnd (s : State) (result : Nat) (recv : List Byte) : State :=
  match s.i2c.busy with
  | none => s
  | some v =>
    let s := { s with i2c := { wr := s.i2c.wr.drop (Cmd.wlen v), rd := s.i2c.rd ++ recv.take (Cmd.rlen v), busy := none } }
    raise (setF (setF s F.I2C_STATUS_BUSY 0) F.I2C_STATUS_RESULT result) F.I2C_EVT_DONE

/-- I2C_CMD is written with GO (R477, R480). -/
def i2cGo (s : State) (v : Word) : State :=
  if !bit v.toNat 31 then s
  else if s.i2c.busy.isSome || !isSet s F.I2C_CFG_EN || Nat.blt 32 (Cmd.wlen v) || Nat.blt 32 (Cmd.rlen v) ||
      Nat.blt s.i2c.wr.length (Cmd.wlen v) || Nat.blt 32 (s.i2c.rd.length + Cmd.rlen v) then i2cErr s
  else if isSet s F.I2C_STATUS_BUS_STUCK then raise (setF s F.I2C_STATUS_RESULT 5) F.I2C_EVT_DONE
  else
    let s := post s (.i2c (bits v.toNat 6 0) (s.i2c.wr.take (Cmd.wlen v)) (Cmd.rlen v))
    raise { s with i2c := { s.i2c with busy := some v } } F.I2C_STATUS_BUSY

/-- I2C_GO (R476, R477). -/
def execI2cGo (v : Word) (s : State) : Answer := done (access s R.I2C_CMD fun s => i2cGo s v)

/-- I2C_TRANSACTION_DONE (R477). -/
def execI2cTransactionDone (result : Fin 8) (_sent : Nat) (recv : List Byte) (s : State) : Answer :=
  if domainOn s 16 then done (i2cEnd s result.val recv) else done s

/-- I2C_SCL_TIMEOUT (R478): RESULT is TIMEOUT. -/
def execI2cSclTimeout (_sent : Nat) (recv : List Byte) (s : State) : Answer :=
  if domainOn s 16 then done (i2cEnd s 4 recv) else done s

/-- The bus-clear procedure (R480): SDA was high, was released after some pulses, which a STOP follows, or never was. -/
def busClear (s : State) (pulses : Option Nat) : State :=
  if !domainOn s 16 || !isSet s F.I2C_CFG_EN then s
  else match pulses with
  | some n => if n ≤ 9 then post (setF s F.I2C_STATUS_BUS_STUCK 0) (.i2cClear n (n != 0)) else s
  | none => post (raise (raise s F.I2C_STATUS_BUS_STUCK) F.I2C_EVT_STUCK) (.i2cClear 9 false)

/-- A bus clear that a register write starts: how the bus answers is free. -/
def busClearNow (s : State) : State := usedFree (busClear s (if freeNat s 4 ≤ 9 then some (freeNat s 4) else none))

/-- I2C_CFG is written: EN = 0 resets the controller and a transaction in progress ends with ABORTED (R479), EN = 1 clears the bus
(R480). -/
def writeI2cCfg (s : State) (v : Word) : State :=
  let s := wrN s R.I2C_CFG (Nat.land v.toNat 0xFF03)
  if bit v.toNat 0 then busClearNow s else i2cEnd s 6 []

/-- I2C_DISABLE (R479). -/
def execI2cDisable (v : Word) (s : State) : Answer := done (access s R.I2C_CFG fun s => writeI2cCfg s v)

/-- I2C_BUS_CLEAR (R480). -/
def execI2cBusClear (pulses : Option Nat) (s : State) : Answer := done (busClear s pulses)

/-- I2C_WDATA is written (R477). -/
def i2cPush (s : State) (v : Word) : State :=
  if s.i2c.wr.length ≥ 32 then i2cErr s else { s with i2c := { s.i2c with wr := s.i2c.wr ++ [BitVec.ofNat 8 v.toNat] } }

/-- I2C_WDATA_WRITE (R477). -/
def execI2cWdataWrite (v : Word) (s : State) : Answer := done (access s R.I2C_WDATA fun s => i2cPush s v)

/-- I2C_RDATA is read (R477). -/
def i2cPop (s : State) : State :=
  match s.i2c.rd with
  | [] => { s with readData := 0 }
  | b :: r => { s with i2c := { s.i2c with rd := r }, readData := BitVec.ofNat 32 (256 + b.toNat) }

/-- I2C_RDATA_READ (R477). -/
def execI2cRdataRead (s : State) : Answer := done (readAccess s R.I2C_RDATA i2cPop)

/-! ### SPI flash (R481, R482) -/

def spiErr (s : State) : State := raise s F.SPI_EVT_CFG_ERR

/-- Bytes `0` to `n − 1` of the flash buffer. -/
def flashBuf (s : State) (n : Nat) : List Byte := ((List.range (cdiv n 4)).flatMap fun i => toLE 4 (rdN s (R.SPI_F_BUF i))).take n

/-- Put bytes into the flash buffer from its start. -/
def setFlashBuf (s : State) (l : List Byte) : State :=
  let all := l.take 256 ++ (flashBuf s 256).drop l.length
  (List.range 64).foldl (fun s i => wrN s (R.SPI_F_BUF i) (leAt all (4 * i) 4)) s

/-- A flash command is permitted (R482). -/
def flashOk (s : State) (op len : Nat) : Bool :=
  let lenOk := Nat.ble 1 len && Nat.ble len 256
  if op = 0x03 ∨ op = 0x6B then lenOk
  else if op = 0x02 then lenOk && Nat.ble (getF s F.SPI_F_ADDR_ADDR % 256 + len) 256
  else op == 0x20 || op == 0x06 || op == 0x05

/-- SPI_F_CMD is written with GO (R481, R482). -/
def flashGo (s : State) (v : Word) : State :=
  let op := bits v.toNat 7 0
  let len := bits v.toNat 24 16
  if !bit v.toNat 31 then s
  else if isSet s F.SPI_F_STATUS_OWN || s.spi.busy.isSome || !flashOk s op len then spiErr s
  else
    let s := post s (.flash op (getF s F.SPI_F_ADDR_ADDR) len (if op = 0x02 then flashBuf s len else []))
    raise { s with spi := { s.spi with busy := some v } } F.SPI_F_STATUS_BUSY

/-- SPI_FLASH_GO (R481, R482). -/
def execSpiFlashGo (v : Word) (s : State) : Answer := done (access s R.SPI_F_CMD fun s => flashGo s v)

/-- SPI_FLASH_DONE (R482): what was read is in the buffer. -/
def execSpiFlashDone (data : List Byte) (err : Bool) (s : State) : Answer :=
  if !domainOn s 16 then done s else
  match s.spi.busy with
  | none => done s
  | some v =>
    let op := bits v.toNat 7 0
    let s := { s with spi := { s.spi with busy := none } }
    let s := if op = 0x03 ∨ op = 0x6B then setFlashBuf s (data.take (bits v.toNat 24 16))
      else if op = 0x05 then setFlashBuf s (data.take (max 1 (bits v.toNat 24 16))) else s
    done (raise (setB (setF s F.SPI_F_STATUS_BUSY 0) F.SPI_F_STATUS_ERR err) F.SPI_EVT_F_DONE)

/-! ### SPI target (R483 to R486) -/

/-- Host software or the controller sets SPI_T_CTRL.POST: TIRQ# is driven low and H2B set (R486). -/
def spiPost (s : State) : State := { s with spi := { s.spi with h2b := true } }

/-- SPI_HOST_POST (R486). -/
def execSpiHostPost (s : State) : Answer := done (access s R.SPI_T_CTRL spiPost)

/-- Offsets a target WRITE may write (R483). -/
def targetMayWrite (off : Nat) : Bool := off == R.SPI_T_CTRL || (Nat.ble 0x5C40 off && Nat.ble off 0x5C5C)

/-- Write the words of a frame that executes (R485, R486). -/
def targetWords : State → Nat → List Word → State
  | s, _, [] => s
  | s, off, w :: r =>
    let s := if off = R.SPI_T_CTRL then (if bit w.toNat 0 then spiPost s else s) else wr s off w
    let s := if off = 0x5C5C then raise s F.SPI_EVT_B2H else s
    targetWords s (off + 4) r

/-- A frame is in error (R483, R485). -/
def targetError (s : State) : State := raise { s with spi := { s.spi with frameErr := true } } F.SPI_EVT_FRAME_ERR

/-- SPI_TARGET_WRITE (R483, R485, R486): `edges` TSCK edges while TCS# was low. An opcode other than READ and WRITE sets FRAME_ERR. -/
def execSpiTargetWrite (opcode : Byte) (off : BitVec 16) (edges : Nat) (words : List Word) (s : State) : Answer :=
  if !domainOn s 16 || opcode = 0x0B then done s
  else if opcode ≠ 0x02 then done (targetError s)
  else
    let o := off.toNat / 4 * 4
    let k := words.length
    if 1 ≤ k ∧ k ≤ 16 ∧ edges = 24 + 32 * k ∧ (List.range k).all (fun i => targetMayWrite (o + 4 * i)) then
      done (targetWords { s with spi := { s.spi with frameErr := false } } o words)
    else done (targetError (bump s R.SPI_T_FERR_CNT))

end Sys2Proof.Machine
end

