-- ==== Sys2Proof/Machine/Crypto.lean ====
section
/-! DEFINITION. The security algorithms that the spec names by their standards: AES (FIPS 197), CCM (SP 800-38C), KW (SP 800-38F),
SHA-384 (FIPS 180-4), and P-256 (FIPS 186). PRESUMED: their definitions and constants come from the standards (log entry 37). -/

namespace Sys2Proof.Machine

/-- Bytewise exclusive or, as long as the shorter. -/
def xorBytes (a b : List Byte) : List Byte := List.zipWith (· ^^^ ·) a b

/-! ### AES (R398) -/

/-- Multiply by x in GF(2^8). -/
def xtime (a : Nat) : Nat := if a ≥ 128 then Nat.xor (2 * a - 256) 0x1B else 2 * a

/-- Product in GF(2^8), `n` bits of `b`. -/
def gfMulGo : Nat → Nat → Nat → Nat
  | 0, _, _ => 0
  | n + 1, a, b => if b = 0 then 0 else Nat.xor (if b % 2 = 1 then a else 0) (gfMulGo n (xtime a) (b / 2))

def gfMul (a b : Nat) : Nat := gfMulGo 8 a b

/-- a^254, the inverse. -/
def gfInv (a : Nat) : Nat :=
  let a2 := gfMul a a
  let a4 := gfMul a2 a2
  let a8 := gfMul a4 a4
  let a16 := gfMul a8 a8
  let a32 := gfMul a16 a16
  let a64 := gfMul a32 a32
  let a128 := gfMul a64 a64
  [a4, a8, a16, a32, a64, a128].foldl gfMul a2

/-- Rotate a byte left. -/
def rotl8 (a n : Nat) : Nat := (a * 2 ^ n + a / 2 ^ (8 - n)) % 256

/-- The S-box: inverse, then the affine map. -/
def sbox (a : Nat) : Nat :=
  let b := gfInv a
  [rotl8 b 1, rotl8 b 2, rotl8 b 3, rotl8 b 4, 0x63].foldl Nat.xor b

/-- The S-box as the standard tabulates it, sixteen bytes a row. -/
def sboxRows : List (List Nat) :=
  [[0x63, 0x7C, 0x77, 0x7B, 0xF2, 0x6B, 0x6F, 0xC5, 0x30, 0x01, 0x67, 0x2B, 0xFE, 0xD7, 0xAB, 0x76],
   [0xCA, 0x82, 0xC9, 0x7D, 0xFA, 0x59, 0x47, 0xF0, 0xAD, 0xD4, 0xA2, 0xAF, 0x9C, 0xA4, 0x72, 0xC0],
   [0xB7, 0xFD, 0x93, 0x26, 0x36, 0x3F, 0xF7, 0xCC, 0x34, 0xA5, 0xE5, 0xF1, 0x71, 0xD8, 0x31, 0x15],
   [0x04, 0xC7, 0x23, 0xC3, 0x18, 0x96, 0x05, 0x9A, 0x07, 0x12, 0x80, 0xE2, 0xEB, 0x27, 0xB2, 0x75],
   [0x09, 0x83, 0x2C, 0x1A, 0x1B, 0x6E, 0x5A, 0xA0, 0x52, 0x3B, 0xD6, 0xB3, 0x29, 0xE3, 0x2F, 0x84],
   [0x53, 0xD1, 0x00, 0xED, 0x20, 0xFC, 0xB1, 0x5B, 0x6A, 0xCB, 0xBE, 0x39, 0x4A, 0x4C, 0x58, 0xCF],
   [0xD0, 0xEF, 0xAA, 0xFB, 0x43, 0x4D, 0x33, 0x85, 0x45, 0xF9, 0x02, 0x7F, 0x50, 0x3C, 0x9F, 0xA8],
   [0x51, 0xA3, 0x40, 0x8F, 0x92, 0x9D, 0x38, 0xF5, 0xBC, 0xB6, 0xDA, 0x21, 0x10, 0xFF, 0xF3, 0xD2],
   [0xCD, 0x0C, 0x13, 0xEC, 0x5F, 0x97, 0x44, 0x17, 0xC4, 0xA7, 0x7E, 0x3D, 0x64, 0x5D, 0x19, 0x73],
   [0x60, 0x81, 0x4F, 0xDC, 0x22, 0x2A, 0x90, 0x88, 0x46, 0xEE, 0xB8, 0x14, 0xDE, 0x5E, 0x0B, 0xDB],
   [0xE0, 0x32, 0x3A, 0x0A, 0x49, 0x06, 0x24, 0x5C, 0xC2, 0xD3, 0xAC, 0x62, 0x91, 0x95, 0xE4, 0x79],
   [0xE7, 0xC8, 0x37, 0x6D, 0x8D, 0xD5, 0x4E, 0xA9, 0x6C, 0x56, 0xF4, 0xEA, 0x65, 0x7A, 0xAE, 0x08],
   [0xBA, 0x78, 0x25, 0x2E, 0x1C, 0xA6, 0xB4, 0xC6, 0xE8, 0xDD, 0x74, 0x1F, 0x4B, 0xBD, 0x8B, 0x8A],
   [0x70, 0x3E, 0xB5, 0x66, 0x48, 0x03, 0xF6, 0x0E, 0x61, 0x35, 0x57, 0xB9, 0x86, 0xC1, 0x1D, 0x9E],
   [0xE1, 0xF8, 0x98, 0x11, 0x69, 0xD9, 0x8E, 0x94, 0x9B, 0x1E, 0x87, 0xE9, 0xCE, 0x55, 0x28, 0xDF],
   [0x8C, 0xA1, 0x89, 0x0D, 0xBF, 0xE6, 0x42, 0x68, 0x41, 0x99, 0x2D, 0x0F, 0xB0, 0x54, 0xBB, 0x16]]

/-- The inverse S-box likewise. -/
def invSboxRows : List (List Nat) :=
  [[0x52, 0x09, 0x6A, 0xD5, 0x30, 0x36, 0xA5, 0x38, 0xBF, 0x40, 0xA3, 0x9E, 0x81, 0xF3, 0xD7, 0xFB],
   [0x7C, 0xE3, 0x39, 0x82, 0x9B, 0x2F, 0xFF, 0x87, 0x34, 0x8E, 0x43, 0x44, 0xC4, 0xDE, 0xE9, 0xCB],
   [0x54, 0x7B, 0x94, 0x32, 0xA6, 0xC2, 0x23, 0x3D, 0xEE, 0x4C, 0x95, 0x0B, 0x42, 0xFA, 0xC3, 0x4E],
   [0x08, 0x2E, 0xA1, 0x66, 0x28, 0xD9, 0x24, 0xB2, 0x76, 0x5B, 0xA2, 0x49, 0x6D, 0x8B, 0xD1, 0x25],
   [0x72, 0xF8, 0xF6, 0x64, 0x86, 0x68, 0x98, 0x16, 0xD4, 0xA4, 0x5C, 0xCC, 0x5D, 0x65, 0xB6, 0x92],
   [0x6C, 0x70, 0x48, 0x50, 0xFD, 0xED, 0xB9, 0xDA, 0x5E, 0x15, 0x46, 0x57, 0xA7, 0x8D, 0x9D, 0x84],
   [0x90, 0xD8, 0xAB, 0x00, 0x8C, 0xBC, 0xD3, 0x0A, 0xF7, 0xE4, 0x58, 0x05, 0xB8, 0xB3, 0x45, 0x06],
   [0xD0, 0x2C, 0x1E, 0x8F, 0xCA, 0x3F, 0x0F, 0x02, 0xC1, 0xAF, 0xBD, 0x03, 0x01, 0x13, 0x8A, 0x6B],
   [0x3A, 0x91, 0x11, 0x41, 0x4F, 0x67, 0xDC, 0xEA, 0x97, 0xF2, 0xCF, 0xCE, 0xF0, 0xB4, 0xE6, 0x73],
   [0x96, 0xAC, 0x74, 0x22, 0xE7, 0xAD, 0x35, 0x85, 0xE2, 0xF9, 0x37, 0xE8, 0x1C, 0x75, 0xDF, 0x6E],
   [0x47, 0xF1, 0x1A, 0x71, 0x1D, 0x29, 0xC5, 0x89, 0x6F, 0xB7, 0x62, 0x0E, 0xAA, 0x18, 0xBE, 0x1B],
   [0xFC, 0x56, 0x3E, 0x4B, 0xC6, 0xD2, 0x79, 0x20, 0x9A, 0xDB, 0xC0, 0xFE, 0x78, 0xCD, 0x5A, 0xF4],
   [0x1F, 0xDD, 0xA8, 0x33, 0x88, 0x07, 0xC7, 0x31, 0xB1, 0x12, 0x10, 0x59, 0x27, 0x80, 0xEC, 0x5F],
   [0x60, 0x51, 0x7F, 0xA9, 0x19, 0xB5, 0x4A, 0x0D, 0x2D, 0xE5, 0x7A, 0x9F, 0x93, 0xC9, 0x9C, 0xEF],
   [0xA0, 0xE0, 0x3B, 0x4D, 0xAE, 0x2A, 0xF5, 0xB0, 0xC8, 0xEB, 0xBB, 0x3C, 0x83, 0x53, 0x99, 0x61],
   [0x17, 0x2B, 0x04, 0x7E, 0xBA, 0x77, 0xD6, 0x26, 0xE1, 0x69, 0x14, 0x63, 0x55, 0x21, 0x0C, 0x7D]]

/-- Look a byte up in a table of rows. -/
def lookUp (rows : List (List Nat)) (a : Nat) : Nat := (rows.getD (a / 16) []).getD (a % 16) 0

/-- Words of the expanded key, newest first: `nk` words of key, `n` more to make, at index `i`. -/
def expandGo (nk : Nat) : Nat → Nat → Nat → List (List Nat) → List (List Nat)
  | 0, _, _, l => l
  | n + 1, i, rc, l =>
    let t := l.headD []
    let (t, rc) :=
      if i % nk = 0 then
        let r := (t.drop 1 ++ t.take 1).map fun b => lookUp sboxRows b
        ((r.set 0 (Nat.xor (r.headD 0) rc)), xtime rc)
      else if nk > 6 ∧ i % nk = 4 then (t.map fun b => lookUp sboxRows b, rc) else (t, rc)
    expandGo nk n (i + 1) rc (List.zipWith Nat.xor (l.getD (nk - 1) []) t :: l)

/-- Round keys of a 16- or 32-byte key, 16 bytes each. -/
def roundKeys (key : List Byte) : List (List Nat) :=
  let nk := key.length / 4
  let ws := (blocksOf 4 (key.length + 1) (key.map BitVec.toNat)).reverse
  let all := (expandGo nk (4 * (nk + 7) - nk) nk 1 ws).reverse
  (blocksOf 4 (all.length + 1) all).map List.flatten

/-- Column-major position after ShiftRows: byte `i` comes from here. -/
def shiftFrom (i : Nat) : Nat := i % 4 + 4 * ((i / 4 + i % 4) % 4)
def unshiftFrom (i : Nat) : Nat := i % 4 + 4 * ((i / 4 + 4 - i % 4) % 4)

/-- A column times a circulant matrix with first row `m`. -/
def mixCol (m c : List Nat) : List Nat :=
  (List.range 4).map fun r => ((List.range 4).map fun k => gfMul (c.getD k 0) (m.getD ((k + 4 - r) % 4) 0)).foldl Nat.xor 0

def mixCols (m s : List Nat) : List Nat := (blocksOf 4 17 s).flatMap (mixCol m)

/-- Encrypt one block under expanded keys. -/
def aesBlock (ks : List (List Nat)) (b : List Byte) : List Byte :=
  let s := List.zipWith Nat.xor (b.map BitVec.toNat) (ks.headD [])
  let sub := fun (s : List Nat) => (List.range 16).map fun i => lookUp sboxRows (s.getD (shiftFrom i) 0)
  let mid := (ks.drop 1).dropLast
  let s := mid.foldl (fun s k => List.zipWith Nat.xor (mixCols [2, 3, 1, 1] (sub s)) k) s
  (List.zipWith Nat.xor (sub s) (ks.getLastD [])).map (BitVec.ofNat 8)

/-- Decrypt one block. -/
def aesInvBlock (ks : List (List Nat)) (b : List Byte) : List Byte :=
  let s := List.zipWith Nat.xor (b.map BitVec.toNat) (ks.getLastD [])
  let unsub := fun (s : List Nat) => (List.range 16).map fun i => lookUp invSboxRows (s.getD (unshiftFrom i) 0)
  let mid := ((ks.drop 1).dropLast).reverse
  let s := mid.foldl (fun s k => mixCols [14, 11, 13, 9] (List.zipWith Nat.xor (unsub s) k)) s
  (List.zipWith Nat.xor (unsub s) (ks.headD [])).map (BitVec.ofNat 8)

def aes (key b : List Byte) : List Byte := aesBlock (roundKeys key) b

/-! ### CCM with a 13-byte nonce (R401, R419) -/

/-- Pad to whole blocks with zeros. -/
def padBlock (l : List Byte) : List Byte := l ++ List.replicate ((16 - l.length % 16) % 16) 0

/-- B0 of a message of `n` bytes. -/
def ccmB0 (nonce : List Byte) (tlen adLen n : Nat) : List Byte :=
  [BitVec.ofNat 8 ((if adLen = 0 then 0 else 64) + 8 * ((tlen - 2) / 2) + 1)] ++ nonce ++ toBE 2 n

/-- Associated data with its length in front: two bytes below 0xFF00, and otherwise 0xFFFE and four. -/
def ccmAd (ad : List Byte) : List Byte :=
  if ad = [] then [] else if ad.length < 0xFF00 then toBE 2 ad.length ++ ad else [0xFF, 0xFE] ++ toBE 4 ad.length ++ ad

/-- Run the CBC-MAC over whole blocks. -/
def cbcMac (ks : List (List Nat)) (mac : List Byte) (l : List Byte) : List Byte :=
  (blocksOf 16 (l.length + 1) l).foldl (fun m b => aesBlock ks (xorBytes m b)) mac

/-- Keystream block `i`. -/
def ccmStream (ks : List (List Nat)) (nonce : List Byte) (i : Nat) : List Byte := aesBlock ks ([1] ++ nonce ++ toBE 2 i)

/-- Keystream from byte `pos` of the message on, `n` bytes. -/
def ccmKeystream (ks : List (List Nat)) (nonce : List Byte) (pos n : Nat) : List Byte :=
  (((List.range ((pos % 16 + n + 15) / 16)).flatMap fun i => ccmStream ks nonce (pos / 16 + i + 1)).drop (pos % 16)).take n

/-- The tag of a message. -/
def ccmTag (key nonce ad msg : List Byte) (tlen : Nat) : List Byte :=
  let ks := roundKeys key
  let mac := cbcMac ks (List.replicate 16 0) (ccmB0 nonce tlen ad.length msg.length ++ padBlock (ccmAd ad) ++ padBlock msg)
  (xorBytes mac (ccmStream ks nonce 0)).take tlen

/-- Encrypt: ciphertext and tag. -/
def ccmSeal (key nonce ad msg : List Byte) (tlen : Nat) : List Byte :=
  xorBytes msg (ccmKeystream (roundKeys key) nonce 0 msg.length) ++ ccmTag key nonce ad msg tlen

/-- Decrypt ciphertext with its tag: the plaintext, and whether the tag matches. -/
def ccmOpen (key nonce ad data : List Byte) (tlen : Nat) : List Byte × Bool :=
  let ct := data.take (data.length - tlen)
  let msg := xorBytes ct (ccmKeystream (roundKeys key) nonce 0 ct.length)
  (msg, decide (ccmTag key nonce ad msg tlen = data.drop (data.length - tlen)))

/-! ### KW (R415, R417, R420) -/

def kwIv : List Byte := List.replicate 8 0xA6

/-- One wrapping step at counter `t`. -/
def kwStep (ks : List (List Nat)) (n : Nat) (a : List Byte × List (List Byte)) (t : Nat) : List Byte × List (List Byte) :=
  let i := (t - 1) % n
  let b := aesBlock ks (a.1 ++ a.2.getD i [])
  (xorBytes (b.take 8) (toBE 8 t), a.2.set i (b.drop 8))

/-- Wrap whole 64-bit words under a key-encryption key. -/
def kwWrap (key data : List Byte) : List Byte :=
  let r := blocksOf 8 (data.length + 1) data
  let (a, r) := ((List.range (6 * r.length)).map (· + 1)).foldl (kwStep (roundKeys key) r.length) (kwIv, r)
  a ++ r.flatten

def kwBack (ks : List (List Nat)) (n : Nat) (a : List Byte × List (List Byte)) (t : Nat) : List Byte × List (List Byte) :=
  let i := (t - 1) % n
  let b := aesInvBlock ks (xorBytes a.1 (toBE 8 t) ++ a.2.getD i [])
  (b.take 8, a.2.set i (b.drop 8))

/-- Unwrap; none when the integrity check fails. -/
def kwUnwrap (key data : List Byte) : Option (List Byte) :=
  let r := blocksOf 8 (data.length + 1) (data.drop 8)
  let (a, r) := (((List.range (6 * r.length)).map (· + 1)).reverse).foldl (kwBack (roundKeys key) r.length) (data.take 8, r)
  if a = kwIv then some r.flatten else none

/-! ### SHA-384 (R423, R439, R440) -/

def primes80 : List Nat := (List.range 410).filter fun n => Nat.ble 2 n && (List.range n).all fun d => Nat.ble d 1 || n % d != 0

/-- floor of the cube root, by bits from `n` down. -/
def cbrtGo : Nat → Nat → Nat → Nat
  | 0, r, _ => r
  | n + 1, r, x => let t := r + 2 ^ n; cbrtGo n (if t * t * t ≤ x then t else r) x

/-- Round constants: the first 64 bits of the fractional parts of the cube roots of the first 80 primes. -/
def shaK : List Nat := primes80.map fun p => cbrtGo 70 0 (p * 2 ^ 192) % 2 ^ 64

/-- Initial value: the same of the square roots of the ninth to sixteenth primes. -/
def shaIv : List Nat := ((primes80.drop 8).take 8).map fun p => (p * 2 ^ 128).sqrt % 2 ^ 64

def rotr64 (x n : Nat) : Nat := (x / 2 ^ n + x * 2 ^ (64 - n)) % 2 ^ 64

def xor3 (a b c : Nat) : Nat := Nat.xor (Nat.xor a b) c

/-- The message schedule, newest first. -/
def shaSched : Nat → List Nat → List Nat
  | 0, w => w
  | n + 1, w =>
    let g := fun i => w.getD i 0
    let s0 := xor3 (rotr64 (g 14) 1) (rotr64 (g 14) 8) (g 14 / 2 ^ 7)
    let s1 := xor3 (rotr64 (g 1) 19) (rotr64 (g 1) 61) (g 1 / 2 ^ 6)
    shaSched n ((g 15 + s0 + g 6 + s1) % 2 ^ 64 :: w)

/-- One round over the working variables a to h. -/
def shaRound (v : List Nat) (kw : Nat × Nat) : List Nat :=
  let g := fun i => v.getD i 0
  let s1 := xor3 (rotr64 (g 4) 14) (rotr64 (g 4) 18) (rotr64 (g 4) 41)
  let ch := Nat.xor (Nat.land (g 4) (g 5)) (Nat.land (2 ^ 64 - 1 - g 4) (g 6))
  let t1 := g 7 + s1 + ch + kw.1 + kw.2
  let s0 := xor3 (rotr64 (g 0) 28) (rotr64 (g 0) 34) (rotr64 (g 0) 39)
  let mj := xor3 (Nat.land (g 0) (g 1)) (Nat.land (g 0) (g 2)) (Nat.land (g 1) (g 2))
  [(t1 + s0 + mj) % 2 ^ 64, g 0, g 1, g 2, (g 3 + t1) % 2 ^ 64, g 4, g 5, g 6]

/-- Compress one block of 128 bytes. -/
def shaBlock (h : List Nat) (b : List Byte) : List Nat :=
  let w := ((shaSched 64 ((blocksOf 8 129 b).map beNat).reverse)).reverse
  List.zipWith (fun x y => (x + y) % 2 ^ 64) h ((shaK.zip w).foldl shaRound h)

/-- SHA-384 as 48 bytes. -/
def sha384 (m : List Byte) : List Byte :=
  let p := m ++ [0x80] ++ List.replicate ((239 - m.length % 128) % 128) 0 ++ toBE 16 (8 * m.length)
  (((blocksOf 128 (p.length + 1) p).foldl shaBlock shaIv).flatMap (toBE 8)).take 48

/-! ### P-256 (R422, R423, R440) -/

def p256P : Nat := 2 ^ 256 - 2 ^ 224 + 2 ^ 192 + 2 ^ 96 - 1
def p256N : Nat := 0xFFFFFFFF00000000FFFFFFFFFFFFFFFFBCE6FAADA7179E84F3B9CAC2FC632551
def p256B : Nat := 0x5AC635D8AA3A93E7B3EBBD55769886BC651D06B0CC53B0F63BCE3C3E27D2604B
/-- The base point. -/
def p256G : Option (Nat × Nat) :=
  some (0x6B17D1F2E12C4247F8BCE6E563A440F277037D812DEB33A0F4A13945D898C296,
        0x4FE342E2FE1A7F9B8EE7EB4A7C0F9E162BCE33576B315ECECBB6406837BF51F5)

/-- b^e mod m over `n` bits of e. -/
def powModGo (m : Nat) : Nat → Nat → Nat → Nat
  | 0, _, _ => 1
  | n + 1, b, e => (if e % 2 = 1 then b else 1) * powModGo m n (b * b % m) (e / 2) % m

def invMod (m a : Nat) : Nat := powModGo m 256 (a % m) (m - 2)

/-- Subtraction modulo p. -/
def subP (a b : Nat) : Nat := (a + p256P - b % p256P) % p256P

/-- The point satisfies y² = x³ − 3x + b. -/
def onCurve (x y : Nat) : Bool :=
  Nat.blt x p256P && Nat.blt y p256P && y * y % p256P == subP (x * x * x + p256B) (3 * x)

/-- Add two points; none is the point at infinity. -/
def ptAdd : Option (Nat × Nat) → Option (Nat × Nat) → Option (Nat × Nat)
  | none, q => q
  | p, none => p
  | some (x1, y1), some (x2, y2) =>
    if x1 = x2 ∧ (y1 + y2) % p256P = 0 then none else
    let l := if x1 = x2 then subP (3 * x1 * x1) 3 * invMod p256P (2 * y1) % p256P
      else subP y2 y1 * invMod p256P (subP x2 x1) % p256P
    let x := subP (l * l) (x1 + x2)
    some (x, subP (l * subP x1 x) y1)

/-- k times a point, `n` bits of k. -/
def ptMulGo : Nat → Nat → Option (Nat × Nat) → Option (Nat × Nat)
  | 0, _, _ => none
  | n + 1, k, p => ptAdd (if k % 2 = 1 then p else none) (ptMulGo n (k / 2) (ptAdd p p))

def ptMul (k : Nat) (p : Option (Nat × Nat)) : Option (Nat × Nat) := ptMulGo 256 k p

/-- Qx ‖ Qy; the point at infinity is 64 zero bytes (R422). -/
def ptBytes : Option (Nat × Nat) → List Byte
  | none => List.replicate 64 0
  | some (x, y) => toBE 32 x ++ toBE 32 y

/-- Results of R422. -/
def Pk.ok : Nat := 0
def Pk.invalidSig : Nat := 1
def Pk.zeroScalar : Nat := 2
def Pk.range : Nat := 3
def Pk.notOnCurve : Nat := 4
def Pk.infinity : Nat := 5

/-- A point from its bytes, or the result that refuses it. -/
def ptOf (l : List Byte) : Except Nat (Nat × Nat) :=
  let x := beNat (slice l 0 32)
  let y := beNat (slice l 32 32)
  if x = 0 ∧ y = 0 then .error Pk.infinity else if onCurve x y then .ok (x, y) else .error Pk.notOnCurve

/-- A private key's check. -/
def scalarBad (d : Nat) : Option Nat := if d = 0 then some Pk.zeroScalar else if p256N ≤ d then some Pk.range else none

/-- r and s for a nonce k; none when one of them is 0. -/
def ecdsaWith (d e k : Nat) : Option (Nat × Nat) :=
  match ptMul k p256G with
  | none => none
  | some (x, _) =>
    let r := x % p256N
    let s := invMod p256N k * ((e + r * d) % p256N) % p256N
    if r = 0 ∨ s = 0 then none else some (r, s)

/-- The verification equation (R422). -/
def ecdsaOk (q : Nat × Nat) (r s e : Nat) : Bool :=
  if r = 0 ∨ s = 0 ∨ p256N ≤ r ∨ p256N ≤ s then false else
  let w := invMod p256N s
  match ptAdd (ptMul (e * w % p256N) p256G) (ptMul (r * w % p256N) (some q)) with
  | none => false
  | some (x, _) => x % p256N == r

end Sys2Proof.Machine
end

