-- ==== Sys2Proof/Machine/Float.lean ====
section
/-! DEFINITION. IEEE 754 binary32 arithmetic as R92 uses it: exact on dyadic numbers `m × 2^e`, then rounded to nearest, ties
to even. -/

namespace Sys2Proof.Machine

/-- A binary32 value; a zero carries no sign. -/
inductive F32 where
  | nan
  | inf (neg : Bool)
  | fin (m e : Int)
  deriving DecidableEq, Repr

/-- `n / 2^k` rounded to nearest, ties to even. -/
def shrEven (n k : Nat) : Nat :=
  let q := n / 2 ^ k
  let r := n % 2 ^ k
  if 2 * r > 2 ^ k ∨ (2 * r = 2 ^ k ∧ q % 2 = 1) then q + 1 else q

/-- Round `m × 2^e` to binary32; `sticky` adds a part below the last place. -/
def F32.round (m e : Int) (sticky : Bool) : F32 :=
  if m = 0 then .fin 0 0 else
  -- two places further down hold the sticky part
  let n := m.natAbs * 4 + b2n sticky
  let e := e - 2
  let top : Int := (n.log2 : Int) + e
  let ulp : Int := if top - 23 < -149 then -149 else top - 23
  let k := (ulp - e).toNat
  let q := if ulp ≤ e then n * 2 ^ (e - ulp).toNat else shrEven n k
  if (q.log2 : Int) + ulp > 127 then .inf (m < 0) else .fin (if m < 0 then -(q : Int) else q) ulp

/-- The value of a register word. -/
def F32.ofWord (w : Word) : F32 :=
  let x := w.toNat
  let neg := bit x 31
  let ex := bits x 30 23
  let fr := bits x 22 0
  let sg : Int := if neg then -1 else 1
  if ex = 255 then (if fr = 0 then .inf neg else .nan)
  else if ex = 0 then .fin (sg * fr) (-149)
  else .fin (sg * (fr + 2 ^ 23 : Nat)) ((ex : Int) - 150)

/-- The value is neither a NaN nor an infinity. -/
def F32.finite : F32 → Bool
  | .fin _ _ => true
  | _ => false

def F32.add : F32 → F32 → F32
  | .nan, _ => .nan
  | _, .nan => .nan
  | .inf a, .inf b => if a = b then .inf a else .nan
  | .inf a, _ => .inf a
  | _, .inf b => .inf b
  | .fin m e, .fin n f =>
    let g := min e f
    F32.round (m * (2 : Int) ^ (e - g).toNat + n * (2 : Int) ^ (f - g).toNat) g false

def F32.neg : F32 → F32
  | .nan => .nan
  | .inf a => .inf !a
  | .fin m e => .fin (-m) e

def F32.isNeg : F32 → Bool
  | .inf a => a
  | .fin m _ => m < 0
  | .nan => false

def F32.mul (x y : F32) : F32 :=
  match x, y with
  | .nan, _ => .nan
  | _, .nan => .nan
  | .fin m e, .fin n f => F32.round (m * n) (e + f) false
  | .fin m _, _ => if m = 0 then .nan else .inf (x.isNeg != y.isNeg)
  | _, .fin n _ => if n = 0 then .nan else .inf (x.isNeg != y.isNeg)
  | .inf a, .inf b => .inf (a != b)

def F32.div (x y : F32) : F32 :=
  match x, y with
  | .nan, _ => .nan
  | _, .nan => .nan
  | .inf _, .inf _ => .nan
  | .inf a, .fin n _ => .inf (a != decide (n < 0))
  | .fin _ _, .inf _ => .fin 0 0
  | .fin m e, .fin n f =>
    if n = 0 then (if m = 0 then .nan else .inf (decide (m < 0))) else
    -- 64 more places than the divisor has
    let k := 64 + n.natAbs.log2
    let a := m.natAbs * 2 ^ k
    let q := a / n.natAbs
    F32.round (if (m < 0) = (n < 0) then (q : Int) else -(q : Int)) (e - f - k) (a % n.natAbs != 0)

def F32.sub (x y : F32) : F32 := x.add y.neg

/-- `x × num` rounded to the nearest integer; none for a NaN or an infinity. DESIGN CHOICE (log entry 90): R92 and R95 say nearest and not
where a tie goes; it goes to the even one. -/
def F32.scaled (x : F32) (num : Nat) : Option Int :=
  match x with
  | .fin m e =>
    let n := m.natAbs * num
    let q := if e < 0 then shrEven n (-e).toNat else n * 2 ^ e.toNat
    some (if m < 0 then -(q : Int) else q)
  | _ => none

/-- A dyadic constant. -/
def F32.ofInt (n : Int) : F32 := F32.round n 0 false

/-- The value in a register word; a NaN is the quiet one without payload. -/
def F32.toWord (x : F32) : Word :=
  match x with
  | .nan => 0x7FC0_0000
  | .inf a => if a then 0xFF80_0000 else 0x7F80_0000
  | .fin m e =>
    if m = 0 then 0 else
    let sg := b2n (decide (m < 0)) * 2 ^ 31
    -- bring the magnitude to 24 places, or to the places above 2^-149
    let top : Int := (m.natAbs.log2 : Int) + e
    let ulp : Int := if top - 23 < -149 then -149 else top - 23
    let q := if ulp ≤ e then m.natAbs * 2 ^ (e - ulp).toNat else shrEven m.natAbs (ulp - e).toNat
    if q < 2 ^ 23 then BitVec.ofNat 32 (sg + q)
    else BitVec.ofNat 32 (sg + (ulp + 150).toNat * 2 ^ 23 + (q - 2 ^ 23))

/-- `x < y`; false with a NaN. -/
def F32.lt (x y : F32) : Bool :=
  match x, y with
  | .nan, _ => false
  | _, .nan => false
  | .inf a, .inf b => a && !b
  | .inf a, _ => a
  | _, .inf b => !b
  | .fin m e, .fin n f =>
    let g := min e f
    decide (m * (2 : Int) ^ (e - g).toNat < n * (2 : Int) ^ (f - g).toNat)

/-- `x ≥ y`; false with a NaN. -/
def F32.ge (x y : F32) : Bool := !x.lt y && x != .nan && y != .nan

def F32.max (x y : F32) : F32 := if x.lt y then y else x
def F32.min (x y : F32) : F32 := if y.lt x then y else x
def F32.abs (x : F32) : F32 := if x.isNeg then x.neg else x
def F32.zero (x : F32) : Bool := match x with
  | .fin m _ => m == 0
  | _ => false
/-- `x × 2^k`. -/
def F32.shift (x : F32) (k : Int) : F32 := match x with
  | .fin m e => F32.round m (e + k) false
  | y => y
/-- The exact value, 0 for a NaN or an infinity. -/
def F32.rat (x : F32) : Rat := match x with
  | .fin m e => (m : Rat) * (2 : Rat) ^ e
  | _ => 0

end Sys2Proof.Machine
end

