-- ==== Sys2Proof/Machine/Tenancy.lean ====
section
/-! DEFINITION. Tenants: the partition table, who owns what, its validation and its runtime conflicts (R379 to R394). -/

namespace Sys2Proof.Machine

/-- Reference of set `n` committed (R83, R506). -/
def committed (s : State) (n : Nat) : Bool := bit (getF s F.GLB_CRC_STAT_COMMITTED) n

/-- Set `n` has matched its reference at least once (R84). -/
def everMatched (s : State) (n : Nat) : Bool := bit s.crc.matched.toNat n

/-- The table failed a check of R380. -/
def tableInvalid (s : State) : Bool := getF s F.TEN_STATUS_BAD != 0

/-- The partition table is in force (R379). -/
def tableInForce (s : State) : Bool := isSet s F.GLB_LOCK_TEN && committed s 1 && !tableInvalid s

/-- Address range `r` of function `n`, when enabled. -/
def addrRange (s : State) (n r : Nat) : Option (Nat × Nat) :=
  if isSet s (F.TEN_ALO_EN n r) then some (getF s (F.TEN_ALO_LO n r), getF s (F.TEN_AHI_HI n r)) else none

/-- The four address ranges of a function that are enabled. -/
def addrRanges (s : State) (n : Nat) : List (Nat × Nat) := (List.range 4).filterMap (addrRange s n)

/-- The owner of an address (R379, R380, R383). -/
def ownerOf (s : State) (a : Nat) : Nat :=
  if tableInForce s then
    ((List.range' 1 7).find? fun n => (addrRanges s n).any fun (lo, hi) => Nat.ble lo a && Nat.ble a hi).getD 0
  else 0

/-- Key-slot range of a function: first slot and number (R392). -/
def keyRange (s : State) (n : Nat) : Nat × Nat := (getF s (F.TEN_KEY_KBASE n), getF s (F.TEN_KEY_KCOUNT n))

/-- Key slots of the store (R413; 16,384 slots). -/
def keySlots : Nat := 16384

/-- A function owns a key slot. -/
def ownsKey (s : State) (n slot : Nat) : Bool :=
  if tableInForce s then Nat.ble (keyRange s n).1 slot && Nat.blt slot ((keyRange s n).1 + (keyRange s n).2)
  else n == 0

/-- Words of a region that lie wholly inside `size` × `unit` bytes from `base` × `unit` (18 bytes a word, R310): first word
and number. -/
def wordsIn (unit base size : Nat) : Nat × Nat :=
  let first := cdiv (base * unit) 18
  (first, (base + size) * unit / 18 - first)

/-- The capture region's size in words (R305). -/
def capRegion (s : State) : Nat × Nat := wordsIn (2 ^ 26) 0 (getF s F.YAR_REGION_CAP)

/-- The pattern region's size in words (R305). -/
def patRegion (s : State) : Nat × Nat := wordsIn (2 ^ 26) 0 (getF s F.YAR_REGION_PAT)

/-- A function's capture share in words (R379, R391). -/
def capShare (s : State) (n : Nat) : Nat × Nat :=
  if tableInForce s then wordsIn (2 ^ 26) (getF s (F.TEN_DRAM_CAP_BASE n)) (getF s (F.TEN_DRAM_CAP_SIZE n))
  else if n = 0 then capRegion s else (0, 0)

/-- A function's pattern share in words (R379, R391). -/
def patShare (s : State) (n : Nat) : Nat × Nat :=
  if tableInForce s then wordsIn (2 ^ 26) (getF s (F.TEN_DRAM_PAT_BASE n)) (getF s (F.TEN_DRAM_PAT_SIZE n))
  else if n = 0 then patRegion s else (0, 0)

/-- `[w, w + k)` lies inside a share. -/
def inShare (sh : Nat × Nat) (w k : Nat) : Bool := Nat.ble sh.1 w && Nat.ble (w + k) (sh.1 + sh.2)

/-- The exclusive pair range of a function, when enabled (R380, R386). -/
def pairRange (s : State) (n : Nat) : Option (Nat × Nat) :=
  if isSet s (F.TEN_PAIR_EN n) then some (getF s (F.TEN_PAIR_PAIR_LO n), getF s (F.TEN_PAIR_PAIR_HI n)) else none

/-- A function may use a pair: inside its own range, or, for function 0 without the table, any pair (R379, R383). -/
def ownsPair (s : State) (n p : Nat) : Bool :=
  if tableInForce s then
    match pairRange s n with
    | some (lo, hi) => Nat.ble lo p && Nat.ble p hi
    | none => false
  else n == 0

/-- CHR of a function; 0 while its pair range is not enabled (R380). -/
def chrOf (s : State) (n : Nat) : Nat := if isSet s (F.TEN_PAIR_EN n) then getF s (F.TEN_PAIR_CHR n) else 0

/-- Sum over the eight functions. -/
def sum8 (f : Nat → Nat) : Nat := ((List.range 8).map f).sum

/-- Cycles of a slot (R246). -/
def slotC (s : State) : Nat := 2 ^ getF s F.MAC_SLOT_CFG_SLOT_C

/-- Slots of an epoch. -/
def slotsPerEpoch (s : State) : Nat := 256 / slotC s

/-- The slot frame F of R386, limited by R381 bit 4. -/
def slotFrame (s : State) : Nat :=
  let f := 2 ^ getF s F.TEN_CFG_FRAME_LOG2
  if f > slotsPerEpoch s then slotsPerEpoch s else f

/-- Two ranges given by first and last overlap. -/
def rangesMeet (a b : Nat × Nat) : Bool := Nat.ble a.1 b.2 && Nat.ble b.1 a.2

/-- Two runs given by first and length, both not empty, overlap. -/
def runsMeet (a b : Nat × Nat) : Bool := Nat.blt 0 a.2 && Nat.blt 0 b.2 && Nat.blt a.1 (b.1 + b.2) && Nat.blt b.1 (a.1 + a.2)

/-- Some pair `i < j` of the first `n` numbers satisfies `p`. -/
def anyPair (n : Nat) (p : Nat → Nat → Bool) : Bool :=
  (List.range n).any fun i => (List.range n).any fun j => Nat.blt i j && p i j

/-- The checks of R380 that fail, one bit each. -/
def tableBad (s : State) : Nat :=
  let c0 := (List.range' 1 7).any (fun n => (addrRanges s n).any fun (lo, hi) =>
      Nat.blt lo 1 || Nat.blt 0x3FFFE hi || Nat.blt hi lo) ||
    anyPair 8 fun a b => (addrRanges s a).any fun x => (addrRanges s b).any fun y => rangesMeet x y
  let c1 := Nat.blt 65536 (sum8 fun n => getF s (F.TEN_SESS_SESS_MAX n))
  let c2 := Nat.blt 4096 (sum8 fun n => getF s (F.TEN_SESS_RET_Q n))
  let c3 := anyPair 8 (fun a b => runsMeet (keyRange s a) (keyRange s b)) ||
    (List.range 8).any fun n => Nat.blt 0 (keyRange s n).2 && Nat.blt keySlots ((keyRange s n).1 + (keyRange s n).2)
  let cap := fun n => (getF s (F.TEN_DRAM_CAP_BASE n), getF s (F.TEN_DRAM_CAP_SIZE n))
  let pat := fun n => (getF s (F.TEN_DRAM_PAT_BASE n), getF s (F.TEN_DRAM_PAT_SIZE n))
  let out := fun (x : Nat × Nat) lim => Nat.blt 0 x.2 && Nat.blt lim (x.1 + x.2)
  let c4 := anyPair 8 (fun a b => runsMeet (cap a) (cap b) || runsMeet (pat a) (pat b)) ||
    (List.range 8).any fun n => out (cap n) (getF s F.YAR_REGION_CAP) || out (pat n) (getF s F.YAR_REGION_PAT)
  let pr := fun n => (pairRange s n).toList
  let c5 := (List.range 8).any (fun n => (pr n).any fun (lo, hi) => Nat.blt hi lo) ||
    anyPair 8 fun a b => (pr a).any fun x => (pr b).any fun y => rangesMeet x y
  let c6 := Nat.blt 32 (sum8 (chrOf s) + getF s F.TEN_CFG_SYS_CH)
  let c7 := (List.range 8).any fun n => Nat.blt (3 * chrOf s n * slotFrame s) (getF s (F.TEN_RES_RES n))
  b2n c0 + 2 * b2n c1 + 4 * b2n c2 + 8 * b2n c3 + 16 * b2n c4 + 32 * b2n c5 + 64 * b2n c6 + 128 * b2n c7

/-- Validate the table when GLB_LOCK.TEN is set (R380). -/
def validateTable (s : State) : State :=
  let bad := tableBad s
  let s := setF s F.TEN_STATUS_BAD bad
  if bad = 0 then s else raise s F.TEN_EVT_INVALID

/-- Lanes whose OWN is scheduler (R162). -/
def schedulerLanes (s : State) : Nat :=
  ((List.range 256).filter fun l => bits (fgetD s.lanes l {}).w0.toNat 31 30 == 1).length

/-- A pair lies in an enabled pair range of some function. -/
def inTenantPairs (s : State) (p : Nat) : Bool := (List.range 8).any fun n => (pairRange s n).any fun (lo, hi) => Nat.ble lo p && Nat.ble p hi

/-- The conditions of R381 present, one bit each, and the first phase whose NCAP is short. -/
def conflicts (s : State) : Nat × Nat :=
  let need := sum8 (chrOf s) + getF s F.TEN_CFG_SYS_CH
  let short := (List.range 3).filter fun p => Nat.blt (txPh s p).ncap need
  let c1 := Nat.blt (schedulerLanes s) (3 * need + 8)
  let c2 := (List.range 8).any fun n =>
    (Nat.blt 0 (getF s (F.TEN_DRAM_CAP_SIZE n)) && Nat.blt (getF s F.YAR_REGION_CAP) (getF s (F.TEN_DRAM_CAP_BASE n) + getF s (F.TEN_DRAM_CAP_SIZE n))) ||
    (Nat.blt 0 (getF s (F.TEN_DRAM_PAT_SIZE n)) && Nat.blt (getF s F.YAR_REGION_PAT) (getF s (F.TEN_DRAM_PAT_BASE n) + getF s (F.TEN_DRAM_PAT_SIZE n)))
  let c3 := (isSet s F.MAC_BCN_CFG_EN && inTenantPairs s (getF s F.MAC_BCN_CFG_PAIR)) ||
    (List.range 8).any fun n => isSet s (F.MAC_CONT_CH_EN n) && getF s (F.MAC_CONT_CH_PHASE n) != 3 && inTenantPairs s (getF s (F.MAC_CONT_CH_PAIR n))
  let c4 := Nat.blt (slotsPerEpoch s) (2 ^ getF s F.TEN_CFG_FRAME_LOG2)
  (b2n (short != []) + 2 * b2n c1 + 4 * b2n c2 + 8 * b2n c3 + 16 * b2n c4, short.headD 0)

/-- Write the event of one condition that appeared (R369, R381). -/
def confEvent (s : State) (conf ph b : Nat) : State :=
  eventNow (raise s F.TEN_EVT_CONF) 0 0x000B 0 [BitVec.ofNat 8 conf, BitVec.ofNat 8 b, BitVec.ofNat 8 (if b = 0 then ph else 0)]

/-- Evaluate the runtime conflicts (R381). -/
def evalConflicts (s : State) : State :=
  let (now, ph) := conflicts s
  let old := getF s F.TEN_STATUS_CONF
  let s := setF s F.TEN_STATUS_CONF now
  ((List.range 5).filter fun b => bit now b && !bit old b).foldl (fun s b => confEvent s now ph b) s

/-- The detail with which a command of function `n` other than NOP is refused for its table, if any; `bad`: it was fetched during a mismatch of
set 1 (R379, R380, R382). -/
def tenantRefusal (s : State) (n : Nat) (bad : Bool) : Option Nat :=
  if n = 0 then none
  else if tableInvalid s then some 0x39
  else if !isSet s F.GLB_LOCK_TEN || !committed s 1 || !everMatched s 1 then some 0x10
  else if bad then some 0x11
  else none

/-- A function holds the analysis grant, or is function 0 (R351, R394). -/
def hasGrant (s : State) (n : Nat) : Bool := n == 0 || (tableInForce s && isSet s (F.TEN_GRANT_GRANT n))

/-- An address lies in a function's partition (R383). -/
def inPartition (s : State) (n a : Nat) : Bool := ownerOf s a == n

/-! ### The start of a fetched command (R27, R60, R64, R65, R379, R380, R382) -/

/-- Standby has been requested and is not yet in force: no command starts any more (R65). -/
def enteringStandby (s : State) : Bool := s.pwr.toStandby || (s.pwr.leaving && getF s F.PWR_CTRL_TARGET == 2)

/-- Device state code that refuses a command whose island is off, or on the way there (R60, R64, R65, R66). -/
def offCode (s : State) : Nat := if enteringStandby s then 9 else if s.pwr.leaving then 8 else pwrState s

/-- The power domains of the islands a command needs (R18, R22, Table: Allocation of the Tansy cores; log entry 84): Speedwell's own
for NOP, YARROW with its DRAM, SECURITY for the key commands and for an encrypted transmission, the receive
chain for a poll, TANSY_A for the sessions and TANSY_B for the directory's upkeep. -/
def cmdDomains (c : Cmd) : List Nat :=
  let op := D.op c
  let flags := D.at c 25 1
  if op = 1 then [3]
  else if 0x40 ≤ op ∧ op < 0x50 then [13, 15]
  else if 0x50 ≤ op then [11]
  else if op = 0x10 then 9 :: (if bit flags 0 then [11] else [])
  else if op = 0x11 then [9, 6, 7, 8] ++ (if bit flags 0 then [11] else [])
  else if op = 0x13 then 9 :: (if bit flags 6 then [11] else [])
  else if 0x20 ≤ op ∧ op ≤ 0x25 then [9, 4]
  else if op = 0x31 ∨ op = 0x32 then [9, 5]
  else [9]

/-- Commands beside those that need the line that the firmware carries out: sessions, agreements and the directory's upkeep
(R23, R27; log entry 43). -/
def firmwareOp (op : Nat) : Bool := (Nat.ble 0x20 op && Nat.ble op 0x25) || op == 0x31 || op == 0x32

/-- What ends a command as it starts, whatever it asks for: status and detail. -/
def cmdBar (s : State) (c : Cmd) : Option (Nat × Nat) :=
  match (if D.op c = 1 then none else tenantRefusal s c.fn c.tenBad) with
  | some d => some (St.state, d)
  | none =>
    if enteringStandby s || !(cmdDomains c).all (domainOn s) then some (St.state, offCode s)
    else if firmwareOp (D.op c) && s.pwr.watchdog then some (St.fault, Det.watchdog)
    else none

/-- Run a fetched command of opcode `op`; a command that is not outstanding, or may not start yet, changes nothing. -/
def withCmd (s : State) (uid op : Nat) (f : State → Cmd → State) : State :=
  match findCmd s uid with
  | some c =>
    if D.op c = op ∧ startable s c then
      match cmdBar s c with
      | some (st, d) => complete s c st d 0
      | none => f s c
    else s
  | none => s

end Sys2Proof.Machine
end

