-- ==== Sys2Proof/Machine/Capture.lean ====
section
/-! DEFINITION. Yarrow's capture side: triggers, streams, chunks, segments, storage and streaming (R305 to R331, R395). -/

namespace Sys2Proof.Machine

def stream (s : State) (i : Nat) : Stream := fgetD s.streams i {}

def rxIn (s : State) (i : Nat) : RxIn := fgetD s.rx i {}

def setRx (s : State) (i : Nat) (x : RxIn) : State := { s with rx := fput s.rx i x }

def setStream (s : State) (i : Nat) (x : Stream) : State := { s with streams := fput s.streams i x }

/-! ### The stream program (R318) -/

def Prog.tap (p : List Byte) : Nat := leAt p 0 1
def Prog.sel (p : List Byte) : Nat := leAt p 1 1
def Prog.laneLo (p : List Byte) : Nat := leAt p 2 1
def Prog.laneHi (p : List Byte) : Nat := leAt p 3 1
def Prog.pre (p : List Byte) : Nat := leAt p 4 4
def Prog.post (p : List Byte) : Nat := leAt p 8 4
def Prog.lag (p : List Byte) : Nat := leAt p 12 4
def Prog.mode (p : List Byte) : Nat := leAt p 16 1
def Prog.rearm (p : List Byte) : Nat := leAt p 17 1
def Prog.ring (p : List Byte) : Nat := leAt p 18 1
def Prog.chunkT (p : List Byte) : Nat := let t := leAt p 20 4; if t = 0 then 10000 else t
def Prog.base (p : List Byte) : Nat := leAt p 24 4
def Prog.size (p : List Byte) : Nat := leAt p 28 4
def Prog.start (p : List Byte) : List Byte := slice p 32 16
def Prog.stop (p : List Byte) : List Byte := slice p 48 16

/-- The buffer: first word in the capture region and number of words (log entry 16). -/
def Prog.buffer (p : List Byte) : Nat × Nat := wordsIn (2 ^ 20) (Prog.base p) (Prog.size p)

/-- Number of set bits among the low four. -/
def popCount4 (x : Nat) : Nat := b2n (bit x 0) + b2n (bit x 1) + b2n (bit x 2) + b2n (bit x 3)

/-- The tap takes samples: RAW, FIR, TSL, BLK and SENSE (R307). -/
def sampleTap (t : Nat) : Bool := Nat.ble t 3 || t == 6

/-- Words that `n` items of samples or lane records take; a frame record is taken at its largest, 36 words (R312; log entry 17). -/
def itemWords (p : List Byte) (n : Nat) : Nat :=
  if sampleTap (Prog.tap p) then cdiv (n * popCount4 (Prog.sel p)) 7
  else if Prog.tap p = 4 then cdiv n 2 else 36 * n

/-- Words that a run of items takes (R312). -/
def chunkWords (p : List Byte) (l : List Item) : Nat :=
  if Prog.tap p = 5 then (l.map fun i => i.vals.length).sum else itemWords p l.length

/-- Values of 18 bits packed seven to a word. -/
def packSamples : Nat → List Nat → List Nat
  | 0, _ => []
  | f + 1, l => if l = [] then [] else
    ((l.take 7).zipIdx.map fun (v, i) => v % 2 ^ 18 * 2 ^ (18 * i)).sum :: packSamples f (l.drop 7)
  termination_by structural f => f

/-- A lane record without RSV[22:19] (R312). -/
def laneRec60 (r : Nat) : Nat := bits r 63 23 * 2 ^ 19 + bits r 18 0

/-- Lane records packed two to a word. -/
def packRecords : List Nat → List Nat
  | a :: b :: l => (laneRec60 a + laneRec60 b * 2 ^ 60 + 2 * 2 ^ 120) :: packRecords l
  | [a] => [laneRec60 a + 2 ^ 120]
  | [] => []

/-- The data words of a chunk; a marked sample is the erasure code (R308, R312). -/
def packItems (p : List Byte) (l : List Item) : List Nat :=
  let vals := l.flatMap fun i => i.vals
  if sampleTap (Prog.tap p) then packSamples (vals.length + 1) vals
  else if Prog.tap p = 4 then packRecords vals else vals

/-- Valid positions in the last data word (R315; a word of a frame record is one position, log entry 17). -/
def lastN (p : List Byte) (l : List Item) : Nat :=
  let n := (l.flatMap fun i => i.vals).length
  if n = 0 then 0 else if sampleTap (Prog.tap p) then (n - 1) % 7 + 1 else if Prog.tap p = 4 then (n - 1) % 2 + 1 else 1

/-- The five-lane map with the receive lanes halved is in force (R16). -/
def fiveLaneRx (s : State) : Bool := s.rel.fiveLane && ((fgetD s.blanes 0 {}).lasting || (fgetD s.blanes 1 {}).lasting || (fgetD s.blanes 2 {}).lasting)

/-- RATE of a header (R315). -/
def rateCode (s : State) (p : List Byte) : Nat :=
  if Prog.tap p = 0 then b2n (fiveLaneRx s) else if Prog.tap p ≤ 3 then 2 else if Prog.tap p = 6 then 3 else 4

/-- Place fields of a word, each with its lowest bit. -/
def fieldsOf (l : List (Nat × Nat)) : Nat := (l.map fun (v, lo) => v * 2 ^ lo).sum

/-- A header pair (R315). -/
def headerPair (s : State) (i : Nat) (x : Stream) (typ nw flags lastn count : Nat) (it : Item) : List Nat :=
  [fieldsOf [(typ, 122), (i, 118), (Prog.tap x.prog, 115), (nw, 104), (flags, 94), (x.cseq % 2 ^ 30, 64), (it.time % 2 ^ 64, 0)],
   fieldsOf [(it.cidx % 2 ^ 32, 94), (it.phase % 2 ^ 31, 63), (lastn, 60), (Prog.sel x.prog % 16, 56), (rateCode s x.prog, 53),
     (x.segno % 2 ^ 16, 37), (count % 2 ^ 37, 0)]]

/-! ### Storage (R329) -/

/-- Words of the buffer in use. -/
def bufUsed (x : Stream) : Nat := (x.chunks.map Prod.snd).sum

/-- Store words in the buffer from offset `w`, modulo its size. -/
def storeWords (s : State) (base size : Nat) : Nat → List Nat → State
  | _, [] => s
  | w, d :: l => storeWords { s with dram := fputD s.dram (base + w % size) 0 (storeWord d) } base size (w + 1) l

/-- The buffer has room for `n` words; in STREAM the capture ring has room for a chunk too, and no pair waits ahead of it (R329, R350; log
entry 18). STORE_WRAP makes room. -/
def roomFor (s : State) (x : Stream) (n : Nat) : Bool :=
  match Prog.mode x.prog with
  | 0 => Nat.ble (x.wptr + n) (Prog.buffer x.prog).2
  | 1 => true
  | _ => x.owed == [] && Nat.ble (bufUsed x + n) (Prog.buffer x.prog).2 && ringRoom s x.fn (40 + Prog.ring x.prog)

/-- Drop the oldest whole chunks until `n` words fit. -/
def dropOldest (size n : Nat) : List (Nat × Nat) → List (Nat × Nat)
  | [] => []
  | c :: l => if ((c :: l).map Prod.snd).sum + n ≤ size then c :: l else dropOldest size n l

/-- Write a chunk's words into the buffer and, in STREAM, hand it to the capture ring with `n` items. -/
def putWords (s : State) (i : Nat) (words : List Nat) (n : Nat) (first : Item) : State :=
  let x := stream s i
  let (base, size) := Prog.buffer x.prog
  let k := words.length
  let old := if Prog.mode x.prog = 1 then dropOldest size k x.chunks else x.chunks
  let s := storeWords s base size x.wptr words
  let wp := if Prog.mode x.prog = 0 then x.wptr + k else (x.wptr + k) % size
  let s := setStream s i { x with chunks := old ++ [(x.wptr, k)], wptr := wp }
  if Prog.mode x.prog = 2 then
    let q := x.fn * 4 + Prog.ring x.prog
    let s := { s with kqOwners := fput s.kqOwners q (fgetD s.kqOwners q [] ++ [i]) }
    bankAdd s x.fn { ring := 40 + Prog.ring x.prog, data := words.flatMap hostForm, cap := some ⟨i, x.uid, n, first⟩ }
  else s

/-- A pair with NW = 0; one of a STREAM program that finds no room waits for it, and what follows it waits too (R314, R329, R350). -/
def putPair (s : State) (i typ flags count : Nat) (it : Item) : State :=
  let x := stream s i
  let w := headerPair s i x typ 0 flags 0 count it
  let s := setStream s i { x with cseq := x.cseq + 1 }
  if Prog.mode x.prog = 2 && !roomFor s x 2 then setStream s i { stream s i with owed := x.owed ++ [w] }
  else putWords s i w 0 it

/-- Pairs that wait are written as far as there is room. -/
def payOwed (s : State) (i : Nat) : State :=
  (stream s i).owed.foldl (fun s w =>
    let x := stream s i
    if x.owed.head? = some w && roomFor s { x with owed := [] } 2
    then putWords (setStream s i { x with owed := x.owed.drop 1 }) i w 0 {} else s) s

/-- Pre-trigger items of the segment (R315, R325). -/
def preItems (x : Stream) : Nat := (x.startIt.getD x.segFrom) - x.segFrom

/-- `n` items that cannot be placed are lost, counted and marked (R20, R329). -/
def loseCount (s : State) (i n : Nat) (first : Item) : State :=
  let x := stream s i
  let s := setStream s i { x with
    gap := x.gap + n, gapItem := if x.gap = 0 then first else x.gapItem, lost := satN (2 ^ 32 - 1) (x.lost + n) }
  raise (bump s R.YAR_LOST_CNT n) F.YAR_EVT_LOSS

/-- The items of the open chunk are lost. -/
def loseItems (s : State) (i : Nat) : State :=
  let x := stream s i
  loseCount (setStream s i { x with chunk := [] }) i x.chunk.length (x.chunk.headD {})

/-- The segment's SEG_START pair, where no chunk has carried it (R314). -/
def putStart (s : State) (i : Nat) (it : Item) : State :=
  let x := stream s i
  if x.opened then s else
  let s := putPair s i 1 0 (preItems x) it
  setStream s i { stream s i with opened := true }

/-- The GAP pair of the items lost, after the segment's start (R314, R329). -/
def putLost (s : State) (i : Nat) : State :=
  let x := stream s i
  if x.gap = 0 then s else
  let s := putPair (putStart s i x.gapItem) i 4 0 x.gap x.gapItem
  setStream s i { stream s i with gap := 0 }

/-- Once room has returned, pairs that wait are written, then the GAP pair of items lost (R329). -/
def putGap (s : State) (i : Nat) : State :=
  let s := payOwed s i
  if roomFor s (stream s i) 2 then putLost s i else s

/-- Write the open chunk as it stands: SEG_START for the first of the segment, then CHUNK (R314). -/
def writeChunk (s : State) (i : Nat) : State :=
  let x := stream s i
  match x.chunk with
  | [] => s
  | it :: _ =>
    let words := packItems x.prog x.chunk
    let flags := 4 * b2n x.tbStep + 2 * b2n x.rateChg + b2n it.hold
    let typ := if x.opened then 2 else 1
    let count := if x.opened then 0 else preItems x
    let h := headerPair s i x typ words.length flags (lastN x.prog x.chunk) count it
    let s := putWords (setStream s i { x with cseq := x.cseq + 1 }) i (h ++ words) x.chunk.length it
    setStream s i { stream s i with
      opened := true, chunk := [], tbStep := false, rateChg := false,
      count := x.count + x.chunk.length, lastItem := x.chunk.getLastD it }

/-- Flags of SEG_END: FULL, ENDED, DEFECT and the stream's own SHORTPRE and LATE (R315). -/
def segFlags (x : Stream) (extra : Nat) : Nat := extra + 128 * b2n x.late + 64 * b2n x.shortPre

/-- Write SEG_END, before it SEG_START when no chunk carried it and the GAP of items lost, then the segment event, and count the segment (R314,
R326, R328). A STORE_STOP buffer too full for the pairs takes none of them (log entry 18). -/
def endSegment (s : State) (i extra : Nat) (t : Item) : State :=
  let x := stream s i
  let fits := Prog.mode x.prog != 0 || roomFor s x (2 + 2 * b2n (!x.opened))
  let flags := segFlags x extra
  let s := if fits then putPair (putLost (putStart s i (if x.gap = 0 then x.startItem else x.gapItem)) i) i 3 flags x.count t else s
  let s := raise s F.YAR_EVT_SEG_DONE
  let s := event s x.fn 0x0007 x.fn t.time t.cidx
    (toLE 1 i ++ toLE 2 flags ++ toLE 2 x.segno ++ toLE 5 x.count ++ toLE 6 (x.startItem.time % 2 ^ 48))
  setStream s i { stream s i with
    opened := false, chunk := [], count := 0, gap := 0, segno := x.segno + 1, segs := x.segs + 1,
    startEv := none, startIt := none, stopEv := none, stopIt := none, late := false, shortPre := false, lenDone := false }

/-- The stream becomes IDLE and its arm command completes, or ends without a completion (R327). -/
def idleStream (s : State) (i : Nat) (status : Option (Nat × Nat)) : State :=
  let x := stream s i
  let s := setStream s i { x with st := .idle, items := [], chunk := [], feed := [], parts := [], owed := if status = none then [] else x.owed }
  match status, findCmd s x.uid with
  | some (st, det), some c => complete s c st det x.segs
  | _, _ => s

/-- There is room for the open chunk with its pair, and for a SEG_END pair after it (log entry 18). -/
def chunkRoom (s : State) (x : Stream) : Bool := roomFor s x (chunkWords x.prog x.chunk + 4)

/-- A stream leaves its program: any open segment closes at the last committed item (R327). -/
def endStream (s : State) (i extra : Nat) (status : Option (Nat × Nat)) : State :=
  let x := stream s i
  if x.st = .idle then s else
  let isOpen := x.st ≠ .armed ∧ x.startIt.isSome
  let s := if isOpen then
      let s := putGap s i
      let x := stream s i
      let s := if chunkRoom s x then writeChunk s i
        else if Prog.mode x.prog = 2 then loseItems s i else setStream s i { x with chunk := [] }
      let y := stream s i
      endSegment s i extra (if y.count = 0 then y.startItem else y.lastItem)
    else s
  idleStream s i status

/-- Close the open chunk; a STORE_STOP buffer that is full ends the stream, a STREAM without room loses the items (R329). -/
def flushChunk (s : State) (i : Nat) : State :=
  let s := putGap s i
  let x := stream s i
  if x.chunk = [] then s else
  if chunkRoom s x then writeChunk s i
  else if Prog.mode x.prog = 0 then
    endStream (raise (setStream s i { x with chunk := [] }) F.YAR_EVT_FULL) i 16 (some (St.donePartial, 0))
  else loseItems s i

/-- Commit one item to the segment: a chunk that it would not fit in closes first (R316). -/
def commitItem (s : State) (i : Nat) (it : Item) : State :=
  let x := stream s i
  let s := if chunkWords x.prog (x.chunk ++ [it]) > 2046 then flushChunk s i else s
  let x := stream s i
  if x.st = .idle then s else
  setStream s i { x with chunk := x.chunk ++ [it], chunkAt := if x.chunk = [] then s.mains.elapsed else x.chunkAt }

/-! ### Segments (R323 to R326) -/

/-- The stop item of a LEN descriptor (R321). -/
def stopAfter (x : Stream) (k : Nat) : Option Nat :=
  if leAt (Prog.stop x.prog) 0 1 = 10 then some (k + leAt (Prog.stop x.prog) 8 8) else none

/-- The segment ends: the stream re-arms or becomes IDLE (R326). -/
def rearmStream (s : State) (i : Nat) : State :=
  let x := stream s i
  if x.rearm = 0 then idleStream s i (some (St.done, 0)) else
  let r := if x.rearm = 255 then 255 else x.rearm - 1
  let imm := leAt (Prog.start x.prog) 0 1 == 1
  setStream s i { x with
    st := if imm then .capturing else .armed, rearm := r, floor := x.first,
    startIt := if imm then some x.first else none, segFrom := x.first,
    stopIt := if imm then stopAfter x x.first else none,
    shortPre := imm && Nat.blt 0 (Prog.pre x.prog), startItem := x.items.headD {} }

/-- A segment that is not zero-length closes at its last item. -/
def closeSegment (s : State) (i : Nat) : State :=
  let s := flushChunk s i
  let x := stream s i
  if x.st = .idle then s else rearmStream (endSegment s i 0 x.stopItem) i

/-- A zero-length segment (R324); a STORE_STOP buffer without room for its pairs ends the stream (R329). -/
def zeroSegment (s : State) (i flag : Nat) : State :=
  let x := stream s i
  let s := setStream s i { x with chunk := [], count := 0 }
  if Prog.mode x.prog = 0 && !roomFor s x 4 then endStream (raise s F.YAR_EVT_FULL) i 16 (some (St.donePartial, 0))
  else rearmStream (endSegment s i flag x.stopItem) i

/-- Commit the items that are due: those LAG behind the newest, up to POST after the stop item (R323, R325). -/
def commitDue : Nat → State → Nat → State
  | 0, s, _ => s
  | f + 1, s, i =>
    let x := stream s i
    match x.items with
    | [] => s
    | it :: rest =>
      let arrived := x.first + x.items.length
      let due := Nat.ble (x.first + 1 + Prog.lag x.prog) arrived
      let inSeg := match x.stopIt with
        | some t => Nat.blt x.first (t + Prog.post x.prog)
        | none => true
      if x.st = .idle || !due || !inSeg then s else
      let s := setStream s i { x with items := rest, first := x.first + 1, released := some it.time }
      let s := if x.first ≥ x.segFrom then commitItem s i it else s
      commitDue f s i

def Trg.src (t : List Byte) : Nat := leAt t 0 1
def Trg.exported (t : List Byte) : Bool := bit (leAt t 1 1) 7
def Trg.evn (t : List Byte) : Nat := leAt t 1 1 % 16

/-- Note the start and the stop item once they have arrived. -/
def noteItems (x : Stream) : Stream :=
  let at' := fun (k : Option Nat) (d : Item) => match k with
    | some k => if x.first ≤ k then x.items.getD (k - x.first) d else d
    | none => d
  { x with startItem := at' x.startIt x.startItem, stopItem := at' x.stopIt x.stopItem }

/-- The stop item of a LEN descriptor that exports its event has arrived: the event waits to go out (R321). -/
def lenStop (x : Stream) : Stream :=
  let t := Prog.stop x.prog
  if Trg.src t ≠ 10 ∨ !Trg.exported t ∨ x.lenDone ∨ x.startIt = none then x else
  match x.stopIt with
  | some k => if k < x.first + x.items.length then { x with lenDone := true, exports := x.exports ++ [(Trg.evn t, x.stopItem.time)] } else x
  | none => x

/-- After items or events arrived: enter TAIL or close a zero-length segment, commit what is due, close at the last item
(R324, R325). -/
def advance (s : State) (i : Nat) : State :=
  let x := lenStop (noteItems (stream s i))
  let s := setStream s i x
  match x.startIt with
  | none => s
  | some k =>
    if x.st = .idle || x.st = .armed then s else
    let arrived := x.first + x.items.length
    match x.stopIt with
    | some t =>
      if t < k then zeroSegment s i 256
      else if t = k then (if Nat.blt k arrived then zeroSegment s i 512 else s)
      else
        let s := setStream s i { x with st := .tail }
        let s := commitDue (x.items.length + 1) s i
        let y := stream s i
        if y.st = .tail && Nat.ble (t + Prog.post y.prog) y.first then closeSegment s i else s
    | none => commitDue (x.items.length + 1) s i

/-- Release mark items older than the last PRE + LAG (R320). -/
def trimMark (x : Stream) : Stream :=
  let keep := Prog.pre x.prog + Prog.lag x.prog
  let n := x.items.length - keep
  if n = 0 then x else
  { x with items := x.items.drop n, first := x.first + n, released := some ((x.items.getD (n - 1) {}).time) }

/-- Item an event resolves to, and whether it is late; none: not yet arrived (R322, R323). `new`: the newest item arrives with it, so that none
is committed for it yet. -/
def resolve (x : Stream) (e : Nat) (stop new : Bool) : Option (Nat × Bool) :=
  let arrived := x.first + x.items.length
  let due := arrived - b2n new - Prog.lag x.prog
  let oldest := if stop then max x.first due else x.first
  let isRel := match x.released with
    | some t => Nat.ble e t
    | none => false
  if isRel then some (oldest, true) else
  match x.items.findIdx? (fun it => Nat.ble e it.time) with
  | some k => if x.first + k < due then some (oldest, true) else some (x.first + k, false)
  | none => none

/-- Count a late event (R323). -/
def countLate (s : State) : State := raise (bump s R.YAR_LATE_CNT) F.YAR_EVT_LATE

/-- The start item is known: the segment's first item and SHORTPRE (R325). -/
def setStart (s : State) (i k : Nat) (late : Bool) : State :=
  let x := stream s i
  let from' := max (k - Prog.pre x.prog) (max x.first x.floor)
  let s := setStream s i { x with
    startEv := none, startIt := some k, segFrom := from', late := x.late || late,
    shortPre := Nat.blt (k - from') (Prog.pre x.prog),
    stopIt := (stopAfter x k).or x.stopIt }
  if late then countLate s else s

/-- The stop item is known. -/
def setStop (s : State) (i k : Nat) (late : Bool) : State :=
  let x := stream s i
  let s := setStream s i { x with stopEv := none, stopIt := some k, late := x.late || late }
  if late then countLate s else s

/-- Resolve the events that wait, now that items have arrived. -/
def resolvePending (s : State) (i : Nat) (new : Bool) : State :=
  let x := stream s i
  let s := match x.startEv with
    | some e => match resolve x e false new with
      | some (k, l) => setStart s i k l
      | none => s
    | none => s
  let x := stream s i
  match x.stopEv with
  | some e => match resolve x e true new with
    | some (k, l) => setStop s i k l
    | none => s
  | none => s

/-- Accept a start event (R324). -/
def acceptStart (s : State) (i e : Nat) : State :=
  let x := stream s i
  advance (resolvePending (setStream s i { x with st := .capturing, startEv := some e, thr1 := 0 }) i false) i

/-- Accept a stop event (R324). -/
def acceptStop (s : State) (i e : Nat) : State :=
  let x := stream s i
  advance (resolvePending (setStream s i { x with stopEv := some e }) i false) i

/-! ### Triggers (R321) -/

/-- Exports of an IMM start: the stream has re-armed itself with it (R321, R326). -/
def immExports (x y : Stream) : List Nat :=
  let t := Prog.start y.prog
  if Nat.blt x.segs y.segs && y.st == .capturing && Trg.src t == 1 && Trg.exported t then [Trg.evn t] else []

/-- The events of LEN stops that wait to go out. -/
def lenExports (s : State) : State × List (Nat × Nat) :=
  if s.streams.all fun e => e.2.exports == [] then (s, []) else
  ({ s with streams := s.streams.map fun e => (e.1, { e.2 with exports := [] }) }, s.streams.flatMap fun e => e.2.exports)

/-- Try one stream with an event: its Jiroth exports, if any. -/
def tryStream (s : State) (p : List Byte → Bool) (e i : Nat) : State × List Nat :=
  let x := stream s i
  let exp := fun t => if Trg.exported t then [Trg.evn t] else []
  if x.st = .armed ∧ p (Prog.start x.prog) then (acceptStart s i e, exp (Prog.start x.prog))
  else if x.st = .capturing ∧ x.stopEv = none ∧ x.stopIt = none ∧ p (Prog.stop x.prog) then
    let t := acceptStop s i e
    (t, exp (Prog.stop x.prog) ++ immExports x (stream t i))
  else (s, [])

def tryStreams (p : List Byte → Bool) (e : Nat) : List Nat → State → State × List Nat
  | [], s => (s, [])
  | i :: l, s =>
    let (s, a) := tryStream s p e i
    let (s, b) := tryStreams p e l s
    (s, a ++ b)

/-- An event matches a JIR source with its number. -/
def matchJir (n : Nat) (t : List Byte) : Bool := Trg.src t == 9 && leAt t 2 1 == n

/-- An EVENT packet of an exported event (R495). -/
def sendEvent (s : State) (n e : Nat) : State := if jirOn s then sendPacket s 4 [n, e] else s

/-- Fire an event at every stream; an exported one goes to the ring and fires the local JIR sources (R321, R495). Every firing
moves a stream on, so 40 rounds are more than can follow. -/
def fire : Nat → State → (List Byte → Bool) → Nat → State
  | 0, s, _, _ => s
  | f + 1, s, p, e =>
    let (s, ex) := tryStreams p e (List.range 16) s
    let (s, l) := lenExports s
    (ex.map (fun n => (n, e)) ++ l).foldl (fun s (n, t) => fire f (sendEvent s n t) (matchJir n) t) s

/-- Exported events go to the ring and fire the local JIR sources, as do those of LEN stops that have come about. -/
def exportEvents (s : State) (ex : List Nat) (e : Nat) : State :=
  let (s, l) := lenExports s
  (ex.map (fun n => (n, e)) ++ l).foldl (fun s (n, t) => fire 40 (sendEvent s n t) (matchJir n) t) s

/-- Fire a trigger event. -/
def trigger (s : State) (p : List Byte → Bool) (e : Nat) : State := fire 40 s p e

/-- A defect's raise or clear (SRC 5). -/
def matchDef (code obj : Nat) (raised : Bool) (t : List Byte) : Bool :=
  Trg.src t == 5 && leAt t 2 1 == code && (leAt t 3 1 == 2 || leAt t 3 1 == (if raised then 0 else 1)) &&
    (bit (leAt t 4 4) 31 || bits (leAt t 4 4) 17 0 == obj)

/-- A detection on a lane (SRC 3). -/
def matchDet (lane : Nat) (t : List Byte) : Bool := Trg.src t == 3 && Nat.ble (leAt t 2 1) lane && Nat.ble lane (leAt t 3 1)

/-- A header and its outcome (SRC 4). -/
def matchHdr (h outcome : Nat) (t : List Byte) : Bool :=
  let a := if bit (leAt t 4 4) 24 then Hdr.dst h else Hdr.src h
  let am := bits (leAt t 8 4) 17 0
  let lm := leAt t 13 1 % 64
  Trg.src t == 4 && bit (leAt t 14 1) outcome &&
    (if outcome = 4 then am == 0 && lm == 0
     else Nat.land a am == Nat.land (bits (leAt t 4 4) 17 0) am && Nat.land (Hdr.label h) lm == Nat.land (leAt t 12 1 % 64) lm)

/-- A PPS edge (SRC 6). -/
def matchPps (t : List Byte) : Bool := Trg.src t == 6

/-- THRESH count of one descriptor after a sample (R321). -/
def thrStep (t : List Byte) (tap inp : Nat) (x : Int) (marked : Bool) (n : Nat) : Nat :=
  if Trg.src t = 2 ∧ leAt t 2 1 = tap ∧ leAt t 3 1 = inp then
    let lvl := leAt t 8 4 % 2 ^ 18
    let meets := if leAt t 4 1 = 0 then decide (x.natAbs > lvl) else decide (x.natAbs < lvl)
    if marked || !meets then 0 else n + 1
  else n

/-- One sample at a tap: THRESH triggers of every stream (R321). -/
def threshStream (s : State) (tap inp : Nat) (v : Int) (marked : Bool) (e i : Nat) : State :=
  let x := stream s i
  if x.st = .idle then s else
  let a := thrStep (Prog.start x.prog) tap inp v marked x.thr0
  let b := thrStep (Prog.stop x.prog) tap inp v marked x.thr1
  let s := if a = x.thr0 ∧ b = x.thr1 then s else setStream s i { x with thr0 := a, thr1 := b }
  let hit := fun (t : List Byte) (old new : Nat) => Trg.src t == 2 && new == leAt t 12 4 && old != new
  let p := fun (t : List Byte) => (x.st == .armed && t == Prog.start x.prog && hit t x.thr0 a) ||
    (x.st == .capturing && t == Prog.stop x.prog && hit t x.thr1 b)
  if (x.st == .armed && hit (Prog.start x.prog) x.thr0 a) || (x.st == .capturing && hit (Prog.stop x.prog) x.thr1 b) then
    let (s, ex) := tryStream s p e i
    exportEvents s ex e
  else s

/-- One sample at a tap, for every stream. -/
def threshAll (s : State) (tap inp : Nat) (v : Int) (marked : Bool) (e : Nat) : State :=
  if s.streams = [] then s else (List.range 16).foldl (fun s i => threshStream s tap inp v marked e i) s

/-- First cycle at which a CIDX descriptor fires, from cycle `now` on (R321). -/
def cidxFirst (t : List Byte) (now : Nat) : Option Nat :=
  if Trg.src t ≠ 7 then none else
  let c := leAt t 4 4
  let per := leAt t 12 1
  if ahead c now || c = now then some c
  else if per = 0xFF then none
  else some ((c + cdiv ((now + 2 ^ 32 - c) % 2 ^ 32) (2 ^ per) * 2 ^ per) % 2 ^ 32)

/-- The next instant after one that fired. -/
def cidxNext (t : List Byte) (c : Nat) : Option Nat :=
  let per := leAt t 12 1
  if per = 0xFF then none else some ((c + 2 ^ per) % 2 ^ 32)

/-- The elapsed time at which a CIDX descriptor fires in cycle `c`: its phase word reaches PH (R321). -/
def cidxTime (s : State) (t : List Byte) (c : Nat) : Rat := phaseTime s c (leAt t 8 4 : Nat)

/-- The instant of a CIDX descriptor has come: its cycle is over, or runs and its phase word has reached PH. -/
def cidxReached (s : State) (t : List Byte) (c : Nat) : Bool :=
  ahead (cidxNow s) c || (c == cidxNow s && decide (cidxTime s t c ≤ (s.mains.elapsed : Rat)))

/-- CIDX triggers of one stream as time passes; the event time is that instant (R321). -/
def cidxFire (s : State) (i : Nat) : State :=
  let x := stream s i
  if x.st = .idle || (x.cidx0 = none && x.cidx1 = none) || !cidxOk s then s else
  let t0 := Prog.start x.prog
  let t1 := Prog.stop x.prog
  let h0 := x.cidx0.filter (cidxReached s t0)
  let h1 := x.cidx1.filter (cidxReached s t1)
  if h0 = none && h1 = none then s else
  let s := setStream s i { x with
    cidx0 := if h0.isSome then x.cidx0.bind (cidxNext t0) else x.cidx0,
    cidx1 := if h1.isSome then x.cidx1.bind (cidxNext t1) else x.cidx1 }
  let hit := if x.st = .armed then h0.map fun c => (t0, c) else h1.map fun c => (t1, c)
  match hit with
  | none => s
  | some (d, c) =>
    let e := tbAt s (min (cidxTime s d c) s.mains.elapsed)
    let (s, ex) := tryStream s (fun t => Trg.src t == 7 && t == d) e i
    exportEvents s ex e

/-- A record completes at a record tap: it waits for each stream that takes it (R307). -/
def feedRecord (s : State) (takes : Stream → Bool) (it : Item) : State :=
  { s with streams := s.streams.map fun (i, x) => (i, if x.st != .idle && takes x then { x with feed := x.feed ++ [it] } else x) }

/-- A decision record leaves a lane (R165, R307). -/
def feedDecision (s : State) (l word ts cidx : Nat) (hold : Bool) : State :=
  feedRecord s (fun x => Prog.tap x.prog == 4 && Nat.ble (Prog.laneLo x.prog) l && Nat.ble l (Prog.laneHi x.prog))
    { time := ts, cidx := cidx, vals := [word], hold := hold }

/-- SEC of a record. -/
def Sec.unchecked : Nat := 0
def Sec.auth : Nat := 1
def Sec.authFail : Nat := 2
def Sec.replay : Nat := 3

/-- The payload of a frame record, 15 bytes to a word (R312). -/
def frameWords (p : List Byte) : List Nat := (List.range (cdiv p.length 15)).map fun w => leAt p (15 * w) (min 15 (p.length - 15 * w))

/-- A frame record completes: F0, F1 and the payload as it was carried on the line (R307, R312). -/
def feedFrame (s : State) (f : DecFrame) (sec : Nat) (encReq plm : Bool) : State :=
  let f0 := fieldsOf [(f.h % 2 ^ 96, 0), (f.outcome, 96), (sec, 99), (b2n encReq, 101), (b2n plm, 103), (f.mode, 104), (f.lane, 106), (f.copies, 114)]
  feedRecord s (fun x => Prog.tap x.prog == 5)
    { time := f.ts, cidx := f.cidx, hold := f.hold, vals := [f0, fieldsOf [(f.ts % 2 ^ 64, 0), (f.cidx % 2 ^ 32, 64), (f.k, 96)]] ++ frameWords f.payload }

/-- The record as the stream's function may see it (R395). -/
def maskItem (s : State) (x : Stream) (vals : List Nat) : List Nat :=
  if Prog.tap x.prog ≠ 5 ∨ x.fn = 0 then vals else
  match vals with
  | f0 :: f1 :: _ =>
    let h := f0 % 2 ^ 96
    let own := bits f0 98 96 != 4 && (inPartition s x.fn (Hdr.src h) || inPartition s x.fn (Hdr.dst h))
    if own then vals else [setBits (f0 / 2 ^ 96 * 2 ^ 96 + maskHdr h) 102 102 1, f1]
  | l => l

/-- An input, or at the SENSE tap a phase, delivers samples. -/
def tapOn (s : State) (tap i : Nat) : Bool := if tap = 6 then bit (rdN s R.MSY_SNS_CFG) (4 * i) else isSet s (F.RXF_CTRL_EN i)

/-- The inputs or phases that a program's SEL names, in the order A, B, C, N. -/
def Prog.inputs (p : List Byte) : List Nat :=
  (List.range (if Prog.tap p = 6 then 3 else 4)).filter fun i => bit (Prog.sel p) i

/-- One stream with a sample of one of its inputs: an item is an instant of all of them, one sample of each that delivers, the erasure code of
each that is off, and has the time of the first that delivers (R307, R308). -/
def takeSample (s : State) (tap i : Nat) (it : Item) (x : Stream) : Stream :=
  let l := Prog.inputs x.prog
  if x.st = .idle ∨ Prog.tap x.prog ≠ tap ∨ i ∉ l then x else
  let parts := fput x.parts i (fgetD x.parts i [] ++ [it])
  let on := l.filter (tapOn s tap)
  if on.any fun j => fgetD parts j [] == [] then { x with parts := parts } else
  let at' := fun (j : Nat) => (fgetD parts j []).headD {}
  let vals := l.flatMap fun j => if tapOn s tap j then (at' j).vals else [0x20000]
  let left := parts.map fun e => (e.1, if tapOn s tap e.1 then e.2.drop 1 else [])
  { x with parts := left, feed := x.feed ++ [{ at' (on.headD i) with vals := vals }] }

/-- A sample passes a tap: it waits for every stream that takes it, and meets the THRESH triggers (R307, R308, R321). -/
def feedSample (s : State) (tap i : Nat) (it : Item) : State :=
  if s.streams = [] then s else
  let s := { s with streams := s.streams.map fun e => (e.1, takeSample s tap i it e.2) }
  let v := it.vals.headD 0x20000
  threshAll s tap i (sext 18 v) (v == 0x20000) it.time

/-- The instant `d` ns ago: timebase, and cycle index and phase word as the running cycle gives them (R102). -/
def instantBefore (s : State) (d : Nat) (v : Nat) : Item :=
  let e : Rat := (s.mains.elapsed : Rat) - d - cycleStart s
  let w : Int := (e / cycleNs s * phaseP).floor
  let t := wrap 64 ((tbNow s : Int) - d)
  let hold := isSet s F.MSY_STATUS_HOLD
  if 0 ≤ w then { time := t, cidx := cidxNow s, phase := w.toNat % phaseP, vals := [v], hold := hold }
  else { time := t, cidx := (cidxNow s + 2 ^ 32 - 1) % 2 ^ 32, phase := wrap 31 (w % (phaseP : Int)), vals := [v], hold := hold }

/-- A tap item arrives at a stream (R322, R323). -/
def itemArrives (s : State) (i : Nat) (it : Item) : State :=
  let x := stream s i
  if x.st = .idle then s else
  let s := setStream s i { x with items := x.items ++ [it] }
  let s := resolvePending s i true
  let s := advance s i
  let y := stream s i
  let s := exportEvents s (immExports x y) y.lastItem.time
  let x := stream s i
  if x.st = .armed ∨ (x.st = .capturing ∧ x.startIt = none) then setStream s i (trimMark x) else s

/-- CAPTURE_ITEM (R307, R308, R322 to R329, R395): the oldest instant or record of the stream's tap that waits joins the stream's mark or
segment, its triggers are resolved, and items LAG behind are committed. An instant of inputs of which none delivers has the operands' time and
holds erasure codes; a record has the operand's phase word (log entry 113). -/
def execCaptureItem (i : Fin 16) (time : BitVec 64) (cidx : Word) (phase : BitVec 31) (_vals : List Nat) (s : State) : Answer :=
  let x := stream s i.val
  let sample := sampleTap (Prog.tap x.prog)
  match x.feed with
  | it :: r =>
    let it := if sample then it else { it with phase := phase.toNat, vals := maskItem s x it.vals }
    done (itemArrives (setStream s i.val { x with feed := r }) i.val it)
  | [] =>
    let l := Prog.inputs x.prog
    if !sample || l.any (tapOn s (Prog.tap x.prog)) then done s else
    done (itemArrives s i.val
      { time := time.toNat, cidx := cidx.toNat, phase := phase.toNat, vals := l.map fun _ => 0x20000, hold := isSet s F.MSY_STATUS_HOLD })

/-- CHUNK_TIMEOUT (R316): CHUNK_T µs have passed since the open chunk's first word; the chunk closes. -/
def execChunkTimeout (i : Fin 16) (s : State) : Answer :=
  let x := stream s i.val
  if x.chunk = [] ∨ s.mains.elapsed < x.chunkAt + 1000 * Prog.chunkT x.prog then done s else done (flushChunk s i.val)

/-- Close the open chunk of every stream; the next carries TBSTEP or RATECHG (R309, R316). -/
def breakChunks (s : State) (tb : Bool) (p : Stream → Bool) : State :=
  (List.range 16).foldl (fun s i =>
    let x := stream s i
    if x.st = .idle || !p x then s else
    let s := flushChunk s i
    let y := stream s i
    if tb then setStream s i { y with tbStep := true } else setStream s i { y with rateChg := true }) s

/-- The time of a header pair that waits moves by a timebase step. -/
def stepPair (d : Int) (w : List Nat) : List Nat :=
  match w with
  | h :: l => (h / 2 ^ 64 * 2 ^ 64 + wrap 64 ((h % 2 ^ 64 : Nat) + d)) :: l
  | [] => []

/-- A timebase step: chunks close, and every event and item time held moves by the step (R316, R322). -/
def stepStreams (s : State) (d : Int) : State :=
  let mv := fun (t : Nat) => ((t : Int) + d).toNat
  let s := breakChunks s true (fun _ => true)
  { s with
      streams := s.streams.map fun (k, x) => (k, { x with
      items := x.items.map (fun it => { it with time := mv it.time }), feed := x.feed.map (fun it => { it with time := mv it.time }),
      parts := x.parts.map (fun e => (e.1, e.2.map fun it => { it with time := mv it.time })), exports := x.exports.map (fun e => (e.1, mv e.2)),
      owed := x.owed.map (stepPair d),
      stopItem := { x.stopItem with time := mv x.stopItem.time }, gapItem := { x.gapItem with time := mv x.gapItem.time },
      released := x.released.map mv, startEv := x.startEv.map mv, stopEv := x.stopEv.map mv,
      startItem := { x.startItem with time := mv x.startItem.time }, lastItem := { x.lastItem with time := mv x.lastItem.time } }) }

/-- End every stream that satisfies `p` (R327). -/
def endStreams (s : State) (p : Stream → Bool) (extra : Nat) (status : Option (Nat × Nat)) : State :=
  (List.range 16).foldl (fun s i => if p (stream s i) then endStream s i extra status else s) s

/-- YAR_CTRL.CAP_EN is written 0 (R340, R327): every stream ends as by an end command. -/
def disableCapture (s : State) : State :=
  endStreams (setF s F.YAR_CTRL_CAP_EN 0) (fun _ => true) 32 (some (St.donePartial, 0))

/-- CAPTURE_ENGINE_DISABLE (R340, R327). -/
def execCaptureEngineDisable (s : State) : Answer := done (access s R.YAR_CTRL disableCapture)

/-- Every stream and player is IDLE. -/
def yarrowIdle (s : State) : Bool :=
  (s.streams.all fun e => e.2.st == .idle) && (s.players.all fun e => e.2.st == .idle || e.2.st == .passing)

/-- YAR_REGION is written (R305, R306): an accepted write clears both regions and REGION_OK. -/
def writeRegion (s : State) (v : Word) : State :=
  let cap := bits v.toNat 6 0
  let pat := bits v.toNat 14 8
  if Nat.blt 96 cap || Nat.blt 32 pat || Nat.blt 112 (cap + pat) || !yarrowIdle s || !(s.players.all fun e => e.2.st == .idle)
  then raise s F.YAR_EVT_CFG_ERR
  else evalConflicts (setF { wrN s R.YAR_REGION (pat * 256 + cap) with dram := [] } F.YAR_STATUS_REGION_OK 0)

/-- REGION_WRITE (R305, R306). -/
def execRegionWrite (v : Word) (s : State) : Answer := done (access s R.YAR_REGION fun s => writeRegion s v)

/-- REGION_CLEAR_DONE (R306): the clearing ends. -/
def execRegionClearDone (s : State) : Answer := done (setF s F.YAR_STATUS_REGION_OK 1)

/-- Number of a stream state in YAR_STRM_STAT. -/
def StreamSt.num : StreamSt → Nat
  | .idle => 0
  | .armed => 1
  | .capturing => 2
  | .tail => 3

/-- YAR_STRM_IDX selects a stream and YAR_STRM_STAT to _SEG show a snapshot of it (R340). -/
def selectStream (s : State) (v : Word) : State :=
  let i := bits v.toNat 3 0
  let x := stream s i
  let s := wrN s R.YAR_STRM_IDX i
  let p := x.prog
  let s := wrN s R.YAR_STRM_STAT (if x.st = .idle ∧ x.prog = [] then 0 else
    fieldsOf [(x.fn, 28), (x.st.num, 24), (Prog.tap p % 8, 20), (Prog.mode p % 4, 16), (Prog.ring p, 8), (x.rearm, 0)])
  let s := wrN s R.YAR_STRM_OLD ((x.chunks.headD (0, 0)).1)
  let s := wrN s R.YAR_STRM_NEW ((x.chunks.getLastD (0, 0)).1)
  wrN (wrN s R.YAR_STRM_LOST x.lost) R.YAR_STRM_SEG x.segs

/-- STREAM_INDEX_SELECT (R340). -/
def execStreamIndexSelect (v : Word) (s : State) : Answer := done (access s R.YAR_STRM_IDX fun s => selectStream s v)

end Sys2Proof.Machine
end

