-- ==== Sys2Proof/Machine/Sine.lean ====
section
/-! DEFINITION. Sine and cosine of a phase in exact arithmetic: the oscillators of the lanes and of the transmit channels (R146, R196), up to
the rounding, which the spec leaves open. -/

namespace Sys2Proof.Machine

/-- One, in units of 2^-80. -/
def unit80 : Int := 2 ^ 80

/-- π / 2 in units of 2^-80. -/
def halfPi80 : Int := 1898976236818169290393996

/-- Terms of an alternating Taylor series from the term `t` with index `k`: each is the one before times −x² / (k (k + 1)), in units of 2^-80. -/
def taylor (xx : Int) : Nat → Int → Nat → Int
  | 0, _, _ => 0
  | n + 1, t, k => t + taylor xx n (-(t * xx / unit80) / (k * (k + 1) : Nat)) (k + 2)

/-- Cosine and sine of a 32-bit phase, a full turn in 2^32, in units of 2^-80. -/
def cosSin80 (phase : Nat) : Int × Int :=
  let x : Int := halfPi80 * (phase % 2 ^ 30 : Nat) / (2 ^ 30 : Nat)
  let xx := x * x / unit80
  let c := taylor xx 16 unit80 1
  let s := taylor xx 16 x 2
  match phase / 2 ^ 30 % 4 with
  | 0 => (c, s)
  | 1 => (-s, c)
  | 2 => (-c, -s)
  | _ => (s, -c)

/-- A number in units of 2^-80 times an amplitude: the integer below it, or above it where it is none and `up` says so. -/
def scale80 (a : Nat) (x : Int) (up : Bool) : Int :=
  let y := x * a
  y / unit80 + (if y % unit80 = 0 then 0 else b2n up)

/-- Cosine and sine of the lane oscillator, 18 bits at full scale (R146); of the two neighbouring codes an open choice gives one (log entry
14). -/
def oscCos (phase : Nat) : Int := scale80 131071 (cosSin80 phase).1 (Config.oscUp true phase)
def oscSin (phase : Nat) : Int := scale80 131071 (cosSin80 phase).2 (Config.oscUp false phase)

end Sys2Proof.Machine
end

