-- ==== Sys2Proof/Machine/Synth.lean ====
section
/-! DEFINITION. Pattern words and players' entries, and Bugle's samples: channels, start phases, pattern contributions, the limiter (R195 to
R200, R204 to R206, R209, R332 to R334). -/

namespace Sys2Proof.Machine

/-! ### Pattern words and players -/

/-- The pattern region's words lie in `dram` from here on. -/
def patBase : Nat := 2 ^ 30

/-- Payload of a pattern word, corrected where its check field can (R311). -/
def patWord (s : State) (w : Nat) : Nat :=
  let x := fgetD s.dram (patBase + w) 0
  ((readStored x).map Prod.fst).getD (wordPayload x)

/-- A pattern word cannot be read (R311). -/
def patBad (s : State) (w : Nat) : Bool := (readStored (fgetD s.dram (patBase + w) 0)).isNone

def player (s : State) (p : Nat) : Player := fgetD s.players p {}

def setPlayer (s : State) (p : Nat) (x : Player) : State := { s with players := fput s.players p x }

/-- Fields of a sequence list entry (R333). -/
def Ent.type (e : Nat) : Nat := bits e 125 123
def Ent.align (e : Nat) : Bool := bit e 122
def Ent.addr (e : Nat) : Nat := bits e 121 93
def Ent.count (e : Nat) : Nat := bits e 92 61
def Ent.loop (e : Nat) : Nat := bits e 60 45
def Ent.g (e : Nat) : Nat := bits e 44 27
def Ent.a (e : Nat) : Int := sext 18 (bits e 26 9)
def Ent.target (e : Nat) : Nat := bits e 60 41
def Ent.reps (e : Nat) : Nat := bits e 40 25
def Ent.pass (e : Nat) : Bool := bit e 0

/-- Items of a word: 7 for transmit players, 3 pairs for injection players (R334). -/
def itemsPerWord (p : Nat) : Nat := if p < 3 then 7 else 3

/-- Items of the player's entry, over all its passes. -/
def entryItems (e : Nat) : Nat :=
  if Ent.type e = 1 then Ent.count e * (Ent.loop e + 1) else if Ent.type e = 2 then Ent.count e else 0

/-! ### DAC samples -/

/-- The time of DAC sample `n` at 4.096 MS/s, in elapsed ns. -/
def dacTime (n : Nat) : Rat := (n * 15625 : Nat) / (64 : Rat)

/-- The first DAC sample at or after a time. -/
def dacFrom (t : Rat) : Nat := (Rat.ceil (t * 64 / 15625)).toNat

/-- The DAC sample that comes now. -/
def dacNow (s : State) : Nat := dacFrom s.mains.elapsed

/-! ### Channels (R196 to R198, R209) -/



/-- Tone of a bit (R169). -/
def Signal.tone (g : Signal) (b : Bool) : Nat := if b then g.mark else g.space

/-- From which DAC sample on which tone is sent: the wake tone, the first symbol's from its ramp on, then each symbol's (R196, R197). -/
def Signal.tones (g : Signal) : List (Nat × Nat) :=
  (match g.wake with
    | some (tone, _) => [(dacFrom g.t0, tone)]
    | none => []) ++
  (match g.bits with
    | b :: _ => [(dacFrom (if g.rise then g.e0 - g.sym / 8 else g.e0), g.tone b)]
    | [] => []) ++
  (g.starts.zip g.bits).map fun (t, b) => (dacFrom t, g.tone b)

/-- The phase accumulator at a DAC sample: each sample before it added its tone's increment of n × 2^18 (R196). -/
def accumulate : List (Nat × Nat) → Nat → Nat → Nat
  | (a, f) :: (b, g) :: l, n, acc =>
    if n < b then acc + (n - a) * (f * 2 ^ 18) else accumulate ((b, g) :: l) n (acc + (b - a) * (f * 2 ^ 18))
  | [(a, f)], n, acc => acc + (n - a) * (f * 2 ^ 18)
  | [], _, acc => acc

/-- The 32-bit accumulator of a channel at a DAC sample. -/
def Signal.acc (g : Signal) (n : Nat) : Nat := accumulate g.tones n g.phase % 2 ^ 32

/-- The raised-cosine rise at `x` from 0 to 1, in units of 2^-80 (R198). -/
def raisedCos (x : Rat) : Int := (unit80 - (cosSin80 (Rat.floor (x * 2147483648)).toNat).1) / 2

/-- The keying of a wake preamble `d` wake bits after its start: on for a 1, with a ramp of a sixteenth of a bit inside the bit at each
transition (R209). The ramp's shape is that of R198 (log entry 100). -/
def keying (keyed : List Bool) (d : Rat) : Int :=
  let i := (Rat.floor d).toNat
  let x := d - i
  let on := fun (k : Nat) => keyed.getD k false
  if !on i then 0
  else if (i = 0 ∨ !on (i - 1)) ∧ x * 16 < 1 then raisedCos (x * 16)
  else if !on (i + 1) ∧ 15 < x * 16 then raisedCos ((1 - x) * 16)
  else unit80

/-- The envelope of a channel at a time, in units of 2^-80: ramps of an eighth of a symbol before the first symbol and after the last
(R198), the keyed preamble ahead of them (R209), nothing after a cut but the ramp of R197. -/
def Signal.envelope (g : Signal) (t : Rat) : Int :=
  let w := g.sym / 8
  let full :=
    if t < g.t0 then 0
    else if t < g.e0 - w ∨ (!g.rise ∧ t < g.e0) then
      match g.wake with
      | some (_, keyed) => keying keyed ((t - g.t0) / (g.cyc / 24))
      | none => 0
    else if t < g.e0 then raisedCos ((t - g.e0) / w + 1)
    else if t < g.e1 then unit80
    else if g.fall ∧ t < g.e1 + w then raisedCos (1 - (t - g.e1) / w)
    else 0
  match g.stop with
  | some (a, ramp) =>
    if t < a then full else if ramp ∧ t < a + w then full * raisedCos (1 - (t - a) / w) / unit80 else 0
  | none => full

/-- The amplitude word of a phase at a DAC sample, 256 times: it moves along a linear ramp of 256 samples (R203). -/
def ampAt (x : TxPh) (n : Nat) : Nat :=
  let d := n - x.ampFrom
  if 256 ≤ d then 256 * x.amp else x.ampPrev * (256 - d) + x.amp * d

/-- What a channel delivers at a DAC sample: a × sin(accumulator) under its envelope, with the 18-bit sine of the lane oscillators (R196); the
rounding to a code is open (log entry 14). -/
def Signal.code (x : TxPh) (g : Signal) (n : Nat) : Int :=
  let e := g.envelope (dacTime n)
  if e = 0 then 0 else rq 76 (oscSin (g.acc n) * ampAt x n * e) (131071 * 256 * unit80.toNat)

/-- The channels of a phase, in channel order. -/
def signals (s : State) (p : Nat) : List Signal :=
  (s.jobs.flatMap (·.copies)).filterMap fun c => if c.ch.ph = p then c.sig else none

/-! ### The start phase (R199) -/

/-- The largest magnitude of a composite over the `n` DAC samples from `a` on. -/
def peakOf (x : TxPh) (l : List Signal) (a : Nat) : Nat → Nat
  | 0 => 0
  | n + 1 => max (peakOf x l a n) ((l.map fun (g : Signal) => g.code x (a + n)).sum).natAbs

/-- The start phase of a channel: with SPS the one of k × π/4 with the smallest peak over its first 256 samples beside the channels that
run, the lowest k on a tie. -/
def startPhase (s : State) (p : Nat) (g : Signal) : Nat :=
  if !isSet s F.TXS_CTRL_SPS then 0 else
  let peak := fun (k : Nat) => peakOf (txPh s p) ({ g with phase := k * 2 ^ 29 } :: signals s p) (dacFrom g.t0) 256
  (((List.range 8).map fun k => (peak k, k)).foldl (fun (b : Option (Nat × Nat)) e => match b with
    | some c => if e.1 < c.1 then some e else b
    | none => some e) none).elim 0 fun e => e.2 * 2 ^ 29

/-! ### Patterns (R206, R332) -/

/-- The sample a transmit player has for a DAC sample: none when it is not ready, which counts as a gap. -/
def patSample (s : State) (p n : Nat) : Option Int :=
  let x := player s p
  match x.st with
  | .playing =>
    let e := patWord s (x.list + x.entry)
    let i := n - x.since
    if Ent.type e = 0 then some 0
    else if entryItems e ≤ i then none
    else if Ent.type e = 2 then some (Ent.a e)
    else
      let k := i % Ent.count e
      some (sext 18 (bits (patWord s (Ent.addr e + k / 7)) (18 * (k % 7) + 17) (18 * (k % 7))))
  | _ => some 0



/-- The factor of `q` quarter dB less, in units of 2^-24: the greatest a with (a / 2^24)^80 × 10^q ≤ 1. -/
def lessDb (q : Nat) : Nat :=
  (List.range 25).foldl (fun a i =>
    let b := a + 2 ^ (24 - i)
    if b ^ 80 * 10 ^ q ≤ 2 ^ 1920 then b else a) 0

/-- The factor on pattern samples at a DAC sample, in units of 2^-32: the 2 dB of VDRV_LOW come and go along a linear ramp of 256 samples
(R214). -/
def patFactor (x : TxPh) (n : Nat) : Nat :=
  let d := n - x.patFrom
  if 256 ≤ d then 256 * x.pat else x.patPrev * (256 - d) + x.pat * d

/-- The pattern's contribution: the sample times PGAIN, limited to PAT_PEAK, and whether it was limited (R206); with VDRV low 2 dB less
(R214). The roundings are open (log entry 14). -/
def patPart (s : State) (p n : Nat) : Int × Bool :=
  let y := rq 74 ((patSample s p n).getD 0 * getF s (F.TXS_MIX_PGAIN p)) (2 ^ 17)
  let k : Int := getF s (F.TXS_PAT_PEAK_PEAK p)
  let (y, limited) := if y > k then (k, true) else if y < -k then (-k, true) else (y, false)
  (rq 77 (y * patFactor (txPh s p) n) (2 ^ 32), limited)

/-! ### The limiter (R204) -/

/-- Full scale. -/
def fullScale : Int := 131071

/-- KNEE as it acts: at least 65,536. -/
def kneeOf (s : State) : Int := (max 65536 (min 131071 (getF s F.TXS_LIM_CFG_KNEE)) : Nat)

/-- What the limiter makes of a magnitude: the limited value, and whether the sample was limited or clipped (R204). -/
inductive Limit where
  | linear | limited | clipped
  deriving DecidableEq, Repr

/-- The limiter of R204; the rounding of the quotient is open (log entry 14). -/
def limiter (k x : Int) : Int × Limit :=
  let a : Int := x.natAbs
  let f := fullScale
  if a ≤ k then (x, .linear)
  else if a < 2 * f - k then (Int.sign x * rq 75 (4 * (f - k) * a - (a - k) * (a - k)) (4 * (f - k)).toNat, .limited)
  else (Int.sign x * f, .clipped)

/-- The composite of a phase at a DAC sample in the 24-bit accumulator, and whether a pattern sample was limited (R204, R206). -/
def composite (s : State) (p n : Nat) : Int × Bool :=
  let src := getF s (F.TXS_MIX_SRC p)
  let ch := if src = 1 then 0 else ((signals s p).map fun (g : Signal) => g.code (txPh s p) n).sum
  let (pat, c) := if src = 1 ∨ src = 2 then patPart s p n else (0, false)
  (sext 24 (wrap 24 (ch + pat)), c)

/-- What goes with a transmit sample (R102): the phase word, the cycle index, the hold-over flag and the void flag. -/
structure TxTag where
  w : Nat
  cidx : Nat
  hold : Bool
  isVoid : Bool
  deriving DecidableEq, Repr

/-- The tag of a DAC sample of the current cycle. -/
def txTag (s : State) (n : Nat) : TxTag :=
  let w := Rat.floor ((dacTime n - cycleStart s) * phaseP / cycleNs s)
  { w := (max 0 (min w (phaseP - 1))).toNat, cidx := cidxNow s, hold := isSet s F.MSY_STATUS_HOLD, isVoid := s.mains.voidNow }

/-- The code the DAC of a phase takes: the limiter's output, 6 dB less for the rest of a cycle with an overcurrent (R204, R212). -/
def dacCode (s : State) (p n : Nat) : Int :=
  let y := (limiter (kneeOf s) (composite s p n).1).1
  if (txPh s p).cut6 then y * lessDb 24 / 2 ^ 24 else y

/-- A transmit sample: the code and what goes with it (R102). -/
def txSample (s : State) (p n : Nat) : Int × TxTag := (dacCode s p n, txTag s n)

/-- Limited samples, clipped samples and pattern gaps among the `n` DAC samples from `a` on (R205, R206). -/
def countSamples (s : State) (p a : Nat) : Nat → Nat × Nat × Nat
  | 0 => (0, 0, 0)
  | n + 1 =>
    let (l, c, g) := countSamples s p a n
    let (x, pc) := composite s p (a + n)
    let y := (limiter (kneeOf s) x).2
    (l + b2n (y == .limited), c + b2n (y == .clipped) + b2n pc, g + b2n ((patSample s p (a + n)).isNone))

/-- The limiter's counts go up to DAC sample `n` (R205, R206): LIM_CNT, CLIP_CNT, and the gaps of Yarrow. A phase that sends nothing has
none. -/
def countTo (s : State) (p n : Nat) : State :=
  let t := txPh s p
  let s := setTx s p { t with limNext := max t.limNext n }
  let pat := (player s p).st == .playing
  if n ≤ t.limNext ∨ (signals s p = [] ∧ !pat) then s else
  let (l, c, g) := countSamples s p t.limNext (n - t.limNext)
  let s := bump (bump s (R.TXS_LIM_CNT p) l) (R.TXS_CLIP_CNT p) c
  let s := if g = 0 then s else raise (bump s R.YAR_PGAP_CNT g) F.YAR_EVT_PGAP
  let x := txPh s p
  setTx s p { x with clipEp := x.clipEp + c }

end Sys2Proof.Machine
end

