-- ==== Sys2Proof/Machine/Players.lean ====
section
/-! DEFINITION. Yarrow's ring commands and its pattern players (R306, R318, R319, R332 to R338, R394). -/

namespace Sys2Proof.Machine

/-! ### Arming a stream -/

/-- Every byte from `lo` to 15 is 0. -/
def zeroFrom (t : List Byte) (lo : Nat) : Bool := (t.drop lo).all fun b => b == 0

/-- A trigger descriptor is within the ranges of R321. -/
def trigOk (t : List Byte) (stop : Bool) : Bool :=
  let b := fun i => leAt t i 1
  bits (b 1) 6 4 == 0 &&
  match b 0 with
  | 0 => zeroFrom t 2
  | 1 => zeroFrom t 2
  | 2 => (Nat.ble (b 2) 3 || b 2 == 6) && Nat.ble (b 3) (if b 2 = 6 then 2 else 3) && Nat.ble (b 4) 1 && leAt t 5 3 == 0 &&
      Nat.blt (leAt t 8 4) (2 ^ 18) && Nat.ble 1 (leAt t 12 4) && Nat.ble (leAt t 12 4) 65536
  | 3 => Nat.ble (b 2) (b 3) && zeroFrom t 4
  | 4 => leAt t 2 2 == 0 && bits (leAt t 4 4) 23 18 == 0 && bits (leAt t 4 4) 31 25 == 0 && Nat.blt (leAt t 8 4) (2 ^ 18) &&
      Nat.blt (b 12) 64 && Nat.blt (b 13) 64 && Nat.blt (b 14) 32 && b 15 == 0
  | 5 => Nat.ble (b 2) 7 && Nat.ble (b 3) 2 && bits (leAt t 4 4) 30 18 == 0 && zeroFrom t 8
  | 6 => zeroFrom t 2
  | 7 => leAt t 2 2 == 0 && Nat.blt (leAt t 8 4) phaseP && (Nat.ble (b 12) 31 || b 12 == 0xFF) && zeroFrom t 13
  | 8 => leAt t 2 2 == 0 && zeroFrom t 6
  | 9 => Nat.ble (b 2) 15 && zeroFrom t 3
  | 10 => stop && leAt t 2 6 == 0 && Nat.ble (leAt t 8 8) (2 ^ 40)
  | _ => false

/-- The program is well formed (R319). -/
def progOk (p : List Byte) : Bool :=
  Nat.ble (Prog.tap p) 6 && Nat.ble (Prog.sel p) (if Prog.tap p = 6 then 7 else 15) &&
  (!sampleTap (Prog.tap p) || Prog.sel p != 0) && Nat.ble (Prog.laneLo p) (Prog.laneHi p) &&
  Nat.ble (Prog.mode p) 2 && Nat.ble (Prog.ring p) 3 && leAt p 19 1 == 0 && Nat.ble (leAt p 20 4) (10 ^ 7) &&
  Nat.ble 1 (Prog.size p) && Nat.ble (2 * itemWords p (Prog.pre p + Prog.lag p)) (Prog.buffer p).2 &&
  trigOk (Prog.start p) false && trigOk (Prog.stop p) true

/-- Every address of `[lo, lo + 2^k)` that agrees with `a` under `am` lies in one of the ranges. -/
def allInside (rs : List (Nat × Nat)) (a am : Nat) : Nat → Nat → Bool
  | 0, lo => rs.any fun (l, h) => Nat.ble l lo && Nat.ble lo h
  | k + 1, lo =>
    if rs.any (fun (l, h) => Nat.ble l lo && Nat.ble (lo + 2 ^ (k + 1) - 1) h) then true
    else if bit am k then allInside rs a am k (if bit a k then lo + 2 ^ k else lo)
    else allInside rs a am k lo && allInside rs a am k (lo + 2 ^ k)

/-- An HDR trigger whose ADDR, under AMASK, can match an address outside the function's partition (R394). -/
def hdrDenied (s : State) (n : Nat) (t : List Byte) : Bool :=
  Trg.src t == 4 && !allInside (addrRanges s n) (bits (leAt t 4 4) 17 0) (leAt t 8 4) 18 0

/-- A DEF trigger on a SUPV, AUTHD or PLM object outside the function's partition (R394). -/
def defDenied (s : State) (n : Nat) (t : List Byte) : Bool :=
  Trg.src t == 5 && Nat.ble 4 (leAt t 2 1) && Nat.ble (leAt t 2 1) 6 &&
    (bit (leAt t 4 4) 31 || !inPartition s n (bits (leAt t 4 4) 17 0))

/-- What the program uses is permitted to the function (R319, R391, R394). -/
def progPermitted (s : State) (n : Nat) (p : List Byte) : Bool :=
  let (b, k) := Prog.buffer p
  inShare (capShare s n) b k &&
  (n == 0 || (bit (getF s (F.TEN_GRANT_TAPS n)) (Prog.tap p) &&
    !([Prog.start p, Prog.stop p].any fun t => hdrDenied s n t || defDenied s n t)))

/-- CAP_ARM (R318 to R320, R327, R376, R391, R394): refusals without side effect, then the lowest-numbered IDLE stream is armed. -/
def execCapArm (uid : Nat) (buf : List Byte) (s : State) : Answer :=
  done (withCmd s uid 0x40 fun s c =>
    let p := slice buf 0 64
    if !hasGrant s c.fn then notOwned s c
    else if !progOk p then malformed s c 0xFF
    else if getF s F.YAR_REGION_CAP == 0 then wrongState s c 0x2C
    else if !progPermitted s c.fn p then notOwned s c
    else if (ring s c.fn (40 + Prog.ring p)).st ≠ .enabled then wrongState s c 0x30
    else if !isSet s F.YAR_STATUS_REGION_OK || !isSet s F.YAR_CTRL_CAP_EN || inSafe s 10
      then wrongState s c 0x2C
    else match (List.range 16).find? fun i => (stream s i).st == .idle with
      | none => wrongState s c 0x2B
      | some i =>
        let now := cidxNow s
        let s := engineCmd s c
        -- pairs of its last program that found no room are lost with it
        let s := if (stream s i).owed = [] then s else raiseFnEvt s (stream s i).fn 4
        -- chunks of the stream's last program that a ring still holds are no longer its own
        let s := { s with kqOwners := s.kqOwners.map fun (k, l) => (k, l.map fun j => if j = i then 16 else j) }
        let s := setStream s i {
          st := .armed, fn := c.fn, uid := uid, prog := p, rearm := Prog.rearm p,
          cidx0 := cidxFirst (Prog.start p) now, cidx1 := cidxFirst (Prog.stop p) now }
        if leAt (Prog.start p) 0 1 = 1
        then exportEvents (acceptStart s i (tbNow s)) (if Trg.exported (Prog.start p) then [Trg.evn (Prog.start p)] else []) (tbNow s)
        else s)

/-- CAP_END (R327): an end command; DONE for an IDLE stream; a stream of another function is refused. -/
def execCapEnd (uid : Nat) (s : State) : Answer :=
  done (withCmd s uid 0x41 fun s c =>
    let i := D.res c
    let x := stream s i
    if i ≥ 16 then malformed s c 4
    else if !hasGrant s c.fn then notOwned s c
    else if x.st = .idle then complete s c St.done 0 0
    else if x.fn ≠ c.fn then notOwned s c
    else complete (endStream s i 32 (some (St.donePartial, 0))) c St.done 0 0)

/-- CAP_TRIGGER (R321, R327): fires the HOST source of the stream with its CODE at the command's fetch time. -/
def execCapTrigger (uid : Nat) (s : State) : Answer :=
  done (withCmd s uid 0x42 fun s c =>
    let i := D.res c
    let x := stream s i
    if i ≥ 16 then malformed s c 4
    else if !hasGrant s c.fn then notOwned s c
    else if x.st ≠ .idle ∧ x.fn ≠ c.fn then notOwned s c
    else if x.st ≠ .armed ∧ x.st ≠ .capturing then wrongState s c 0x2E
    else
      let p := fun (t : List Byte) => Trg.src t == 8 && leAt t 4 2 == D.at c 24 2
      let (s, ex) := tryStream s p c.fetchTb i
      let s := exportEvents s ex c.fetchTb
      complete s c St.done 0 0)

/-! ### Pattern region and players -/

/-- Store host words from index `w` on. -/
def loadWords (s : State) : Nat → Nat → List Byte → State
  | 0, _, _ => s
  | n + 1, w, l => loadWords { s with dram := fputD s.dram (patBase + w) 0 (storeWord (leAt l 0 16)) } n (w + 1) (l.drop 16)

/-- PAT_LOAD (R306, R313, R338, R385): host words are stored in the pattern region with their check fields. -/
def execPatLoad (uid : Nat) (buf : List Byte) (s : State) : Answer :=
  done (withCmd s uid 0x44 fun s c =>
    let n := D.len c / 16
    if c.fn ≠ 0 then notOwned s c
    else if getF s F.YAR_REGION_PAT == 0 then wrongState s c 0x2C
    else if !inShare (patShare s 0) (D.at c 24 8) n then notOwned s c
    else if !isSet s F.YAR_STATUS_REGION_OK then wrongState s c 0x2C
    else complete (loadWords s n (D.at c 24 8) buf) c St.done 0 (16 * n))

/-- Bits of an entry outside its type's fields are 0, and its fields are within R333. -/
def entryOk (p k e : Nat) : Bool :=
  let free := fun hi lo => bits e hi lo == 0
  match Ent.type e with
  | 0 => free 121 1 && (Nat.ble 3 p || !Ent.pass e)
  | 1 => free 44 0 && Nat.ble 1 (Ent.count e)
  | 2 => free 121 93 && free 60 45 && free 8 0 && Nat.ble 1 (Ent.count e) && (Nat.ble 3 p || free 44 27)
  | 3 => free 121 61 && free 24 0 && Nat.blt (Ent.target e) k && (Nat.ble 3 p || Ent.reps e != 0xFFFF)
  | _ => false

/-- The words a DATA entry names lie in the share. -/
def entryInside (sh : Nat × Nat) (p e : Nat) : Bool :=
  Ent.type e != 1 || inShare sh (Ent.addr e) (cdiv (Ent.count e) (itemsPerWord p))

/-- Check a list from entry `k` on, `fuel` entries at most: 0 well formed and inside, 1 malformed, 2 outside the share, 3 ended by a
word that cannot be corrected (R311, R333, R335). -/
def checkList (s : State) (sh : Nat × Nat) (p base : Nat) : Nat → Nat → Nat → Bool → Nat
  | 0, _, _, _ => 1
  | f + 1, k, reps, outside =>
    if !inShare sh (base + k) 1 then 2 else
    if patBad s (base + k) then 3 else
    let e := patWord s (base + k)
    if !entryOk p k e then 1 else
    let reps := reps + b2n (Ent.type e == 3)
    let outside := outside || !entryInside sh p e
    if reps > 8 then 1 else if Ent.type e = 0 then (if outside then 2 else 0) else checkList s sh p base f (k + 1) reps outside

/-- The player stops and its start command completes with the items played (R337). -/
def stopPlayer (s : State) (p : Nat) (pass : Bool) (status detail : Nat) : State :=
  if (player s p).st = .idle then s else
  let s := if p < 3 then countTo s p (if pass then (player s p).since else dacNow s) else s
  let x := { player s p with played := playedNow s p (player s p) }
  let s := setPlayer s p { x with st := if pass && Nat.ble 3 p then .passing else .idle, align := false }
  let s := s.jobs.foldl (fun (s : State) (j : Job) =>
    if j.kind ≠ .player x.uid p then s else if j.begun then
      noteTx (updJob s j.id fun j => { j with ended := true, copies := j.copies.map fun c => if c.st = .onAir then { c with st := .done } else c }) p
    else withdrawJob s j) s
  match findCmd s x.uid with
  | some c => complete s c status detail x.played
  | none => s

/-- A player reads a pattern word: one that is corrected is written back, and both it and one that cannot be corrected wait to be counted (R311). -/
def readPat (p : Nat) (s : State) (w : Nat) : State :=
  let note := fun (s : State) (bad : Bool) => let x := player s p; setPlayer s p { x with reads := x.reads ++ [(w, bad)] }
  match readStored (fgetD s.dram (patBase + w) 0) with
  | none => note s true
  | some (d, true) => note { s with dram := fputD s.dram (patBase + w) 0 (storeWord d) } false
  | some (_, false) => s

/-- A player that has read an uncorrectable word stops (R311, R337). -/
def stopBad (s : State) (p : Nat) : State :=
  stopPlayer (raise (bump s R.YAR_UNCORR_CNT) F.YAR_EVT_UNCORR) p false St.fault Det.dram

/-- Items of its entry that the player has played. -/
def entryDone (s : State) (p : Nat) : Nat :=
  let x := player s p
  if p < 3 then playedNow s p x - x.played else x.pass * Ent.count (patWord s (x.list + x.entry)) + x.item

/-- Words of a DATA entry that hold the first items from item `lo` up to `hi`. -/
def fetchWords (p e lo hi : Nat) : List Nat :=
  let k := itemsPerWord p
  if Ent.count e ≤ hi - lo then (List.range (cdiv (Ent.count e) k)).map fun i => Ent.addr e + i
  else ((List.range' lo (hi - lo)).filter fun j => j % Ent.count e % k == 0).map fun j => Ent.addr e + j % Ent.count e / k

/-- The player fetches its entry's items up to `ahead` beyond those played; an uncorrectable word stops it (R311, R337; log entry 104). -/
def fetchItems (s : State) (p ahead : Nat) : State :=
  let x := player s p
  let e := patWord s (x.list + x.entry)
  let stop := min (entryItems e) (entryDone s p + ahead)
  if x.st ≠ .playing ∨ Ent.type e ≠ 1 ∨ stop ≤ x.fetched then s else
  let l := fetchWords p e x.fetched stop
  let s := l.foldl (readPat p) (setPlayer s p { x with fetched := stop })
  if l.any (patBad s) then stopBad s p else s

/-- Run entries that play nothing, from the player's entry on, until one plays, waits or ends (R334). A list whose REPEATs play
nothing is followed for `fuel` entries. -/
def runEntries : Nat → State → Nat → State
  | 0, s, _ => s
  | f + 1, s, p =>
    let s := readPat p s ((player s p).list + (player s p).entry)
    let x := player s p
    let e := patWord s (x.list + x.entry)
    if patBad s (x.list + x.entry) then stopBad s p
    else if Ent.align e && !x.align then setPlayer s p { x with st := .waiting, align := true } else
    let x := { x with align := false, st := .playing, pass := 0, item := 0 }
    match Ent.type e with
    | 0 => stopPlayer (setPlayer s p { x with items := 0 }) p (Ent.pass e) St.done 0
    | 3 =>
      let n := fgetD x.cnt x.entry 0
      if Ent.reps e = 0xFFFF || Nat.blt n (Ent.reps e)
      then runEntries f (setPlayer s p { x with cnt := fputD x.cnt x.entry 0 (n + 1), entry := Ent.target e }) p
      else runEntries f (setPlayer s p { x with cnt := fdel x.cnt x.entry, entry := x.entry + 1 }) p
    | _ => fetchItems (setPlayer s p { x with items := entryItems e, fetched := 0 }) p 256

/-- The last pair an injection entry delivers. -/
def lastPair (s : State) (e : Nat) (d : Nat × Int) : Nat × Int :=
  if Ent.type e = 2 then (Ent.g e, Ent.a e)
  else if Ent.type e = 1 then
    let i := Ent.count e - 1
    let w := patWord s (Ent.addr e + i / 3)
    (bits w (36 * (i % 3) + 35) (36 * (i % 3) + 18), sext 18 (bits w (36 * (i % 3) + 17) (36 * (i % 3))))
  else d

/-- A transmit player's entry ends at DAC sample `n`: its samples up to there are counted, the next entry begins there (R206, R332). -/
def entryAt (s : State) (p n : Nat) : State :=
  let s := if p < 3 then countTo s p n else s
  setPlayer s p { player s p with since := n }

/-- Start a player's list. -/
def startList (s : State) (p : Nat) : State :=
  let s := entryAt s p (dacNow s)
  let x := player s p
  -- the player starts at a cycle boundary, so an ALIGN on its first entry waits for nothing
  runEntries 65536 (setPlayer s p { x with startAt := none, entry := 0, cnt := [], played := 0, align := true }) p

/-- Bits of the frequency bands in use: some band of R271 is enabled. -/
def anyBand (s : State) : Bool := (List.range 8).any fun n => isSet s (F.MAC_BAND_RANGE_EN n)

/-- PLAY_STOP (R337, R385): the player stops from the next item; its start command completes DONE_PARTIAL. -/
def execPlayStop (uid : Nat) (s : State) : Answer :=
  done (withCmd s uid 0x46 fun s c =>
    if c.fn ≠ 0 then notOwned s c
    else if D.res c ≥ 7 then malformed s c 4
    else complete (stopPlayer s (D.res c) false St.donePartial 0) c St.done 0 0)

/-- Stop every player that satisfies `q`. -/
def stopPlayers (s : State) (q : Nat → Player → Bool) (status detail : Nat) : State :=
  (List.range 7).foldl (fun s p => if q p (player s p) then stopPlayer s p false status detail else s) s

/-- YAR_CTRL.PLAY_EN is written 0 (R340): every player stops as by a stop command. -/
def disablePlayback (s : State) : State := stopPlayers (setF s F.YAR_CTRL_PLAY_EN 0) (fun _ _ => true) St.donePartial 0

/-- PLAYBACK_ENGINE_DISABLE (R340). -/
def execPlaybackEngineDisable (s : State) : Answer := done (access s R.YAR_CTRL disablePlayback)

/-- Number of a player state in YAR_PLAY_STAT. -/
def PlaySt.num : PlaySt → Nat
  | .idle => 0
  | .waiting => 1
  | .playing => 2
  | .passing => 3

/-- YAR_PLAY_IDX is written (R340): 7 acts as 0 and sets CFG_ERR; YAR_PLAY_STAT and YAR_PLAY_POS show a snapshot. -/
def selectPlayer (s : State) (v : Word) : State :=
  let i := bits v.toNat 2 0
  let s := if i = 7 then raise s F.YAR_EVT_CFG_ERR else s
  let i := if i = 7 then 0 else i
  let x := player s i
  let s := wrN s R.YAR_PLAY_IDX i
  let s := wrN s R.YAR_PLAY_STAT (fieldsOf [(x.st.num, 24), (x.fn % 8, 20), (x.entry % 65536, 0)])
  wrN s R.YAR_PLAY_POS (playedNow s i x)

/-- PLAYER_INDEX_SELECT (R340). -/
def execPlayerIndexSelect (v : Word) (s : State) : Answer := done (access s R.YAR_PLAY_IDX fun s => selectPlayer s v)

/-- The pair an injection player delivers to a working-rate sample, with the player moved on; none: no pair is ready (R132,
R334, R336, R337). -/
def injectionPair (s : State) (p : Nat) : Option (Nat × Int) × State :=
  let x := player s p
  match x.st with
  | .passing => (some (2 ^ 17, 0), s)
  | .waiting => if x.align then (some x.last, s) else (none, s)
  | .idle => (none, s)
  | .playing =>
    let e := patWord s (x.list + x.entry)
    if x.pass * Ent.count e + x.item ≥ entryItems e then (none, s) else
    let pr := if Ent.type e = 2 then (Ent.g e, Ent.a e) else
      let w := patWord s (Ent.addr e + x.item / 3)
      let o := 36 * (x.item % 3)
      (bits w (o + 35) (o + 18), sext 18 (bits w (o + 17) o))
    let last := x.item + 1 ≥ Ent.count e
    (some pr, setPlayer s p { x with
      item := if last then 0 else x.item + 1, pass := if last then x.pass + 1 else x.pass, played := x.played + 1, last := pr })

end Sys2Proof.Machine
end

