-- ==== Sys2Proof/Machine/Defects.lean ====
section
/-! DEFINITION. Defects: what is present, what covers what, how a raise and a clear are reported (R230 to R234), and TXF with
its causes (R215). -/

namespace Sys2Proof.Machine

/-- The object of a defect. -/
inductive DefObj where
  | device
  | input (i : Nat)
  | lane (l : Nat)
  | session (node : Nat)
  | phase (p : Nat)
  deriving DecidableEq, Repr

/-- Defect codes, as byte 2 of the DEF trigger (R321). -/
def Def.loms : Nat := 0
def Def.los : Nat := 1
def Def.lol : Nat := 2
def Def.lof : Nat := 3
def Def.plm : Nat := 4
def Def.supv : Nat := 5
def Def.authd : Nat := 6
def Def.txf : Nat := 7

/-- Key of a fault source's item. -/
def faultKey (src item : Nat) : Nat := src * 2 ^ 24 + item % 2 ^ 24

def setHist (s : State) (k : Nat) (h : History) : State := { s with rel := { s.rel with hist := fputD s.rel.hist k {} h } }

/-- Clear the history of an item, with its leftover raw events: the lasting action is taken on it, or it returns to service (R77, R516). -/
def clearHist (s : State) (src item : Nat) : State := setHist s (faultKey src item) {}

def lane (s : State) (l : Nat) : Lane := fgetD s.lanes l {}

def setLane (s : State) (l : Nat) (x : Lane) : State := { s with lanes := fput s.lanes l x }


def sess (s : State) (node : Nat) : Option Session := fget s.sessions node

def setSess (s : State) (x : Session) : State := { s with sessions := fput s.sessions x.node x }

def updSess (s : State) (node : Nat) (f : Session → Session) : State :=
  match sess s node with
  | some x => setSess s (f x)
  | none => s

/-- The object number of an event (R233). -/
def DefObj.num : DefObj → Nat
  | .device => 0
  | .input i => i
  | .lane l => l
  | .session n => n
  | .phase p => p

/-- Kind of an object, for the defects seen in a second. -/
def DefObj.kind : DefObj → Nat
  | .device => 0
  | .input _ => 1
  | .lane _ => 2
  | .session _ => 3
  | .phase _ => 4

/-- LOMS is present while the tracker is not locked (R230). -/
def loms (s : State) : Bool := !isSet s F.MSY_STATUS_LOCK

/-- The inputs a lane includes: 0 to 3 for A, B, C, N (CMP_LW0). -/
def laneInputs (x : Lane) : List Nat :=
  [bits x.w0.toNat 3 0, bits x.w0.toNat 7 4, bits x.w0.toNat 11 8].filterMap fun c =>
    if Nat.ble 1 c && Nat.ble c 4 then some (c - 1) else none

/-- A defect is present (R230). -/
def present (s : State) (code : Nat) : DefObj → Bool
  | .device => code == 0 && loms s
  | .input i => code == 1 && (rxIn s i).los
  | .lane l => let x := lane s l; (code == 2 && x.lol) || (code == 3 && x.lof) || (code == 4 && x.plm)
  | .session n => match sess s n with
    | some x => (code == 4 && x.plm) || (code == 5 && x.supv) || (code == 6 && x.authd)
    | none => false
  | .phase p => code == 7 && txf s p

/-- The inputs of a lane all have LOS (R231). -/
def losCovers (s : State) (x : Lane) : Bool := laneInputs x != [] && (laneInputs x).all fun i => (rxIn s i).los

/-- A higher defect covers this one (R231). -/
def covered (s : State) (code : Nat) : DefObj → Bool
  | .device => false
  | .phase _ => false
  | .input _ => loms s
  | .lane l => let x := lane s l
    loms s || losCovers s x || (Nat.blt 2 code && x.lol) || (Nat.blt 3 code && x.lof)
  | .session n => loms s || (code != 5 && present s 5 (.session n))

/-- Timebase and cycle index of a defect's raise. -/
def onset (s : State) (code : Nat) : DefObj → Nat × Nat
  | .device => s.lomsOnset
  | .input i => (rxIn s i).losOnset
  | .lane l => fgetD (lane s l).onsets code (0, 0)
  | .session n => match sess s n with
    | some x => fgetD x.onsets code (0, 0)
    | none => (0, 0)
  | .phase p => (txPh s p).txfOnset

/-- Keep the onset of a raise. -/
def setOnset (s : State) (code : Nat) (o : DefObj) (t : Nat × Nat) : State :=
  match o with
  | .device => { s with lomsOnset := t }
  | .input i => setRx s i { rxIn s i with losOnset := t }
  | .lane l => setLane s l { lane s l with onsets := fput (lane s l).onsets code t }
  | .session n => updSess s n fun x => { x with onsets := fput x.onsets code t }
  | .phase p => setTx s p { txPh s p with txfOnset := t }

/-- Set or clear the stored flag of a lane, input or session defect; LOMS and TXF follow from their own state. -/
def markDefect (s : State) (code : Nat) (o : DefObj) (b : Bool) : State :=
  match o with
  | .input i => setRx s i { rxIn s i with los := b }
  | .lane l =>
    let x := lane s l
    setLane s l (if code = 2 then { x with lol := b } else if code = 3 then { x with lof := b } else { x with plm := b })
  | .session n => updSess s n fun x =>
    if code = 4 then { x with plm := b } else if code = 5 then { x with supv := b } else { x with authd := b }
  | _ => s

/-- The function whose event ring also receives a session defect (R233). -/
def defOwner (s : State) : DefObj → Nat
  | .session n => match sess s n with
    | some x => x.fn
    | none => 0
  | _ => 0

/-- Defects of scheduler lanes are reported only while REP_SCHED is 1 (R233). -/
def reportable (s : State) : DefObj → Bool
  | .lane l => bits (lane s l).w0.toNat 31 30 != 1 || isSet s F.LFR_CTRL_REP_SCHED
  | _ => true

/-- Write the event of a raise or a clear (R233, R369); byte 15 is 0 for a raise and 1 for a clear (log entry 22). -/
def defectEvent (s : State) (code : Nat) (o : DefObj) (clear : Bool) (ts cidx dur : Nat) : State :=
  if !reportable s o then s else
  let pl := [BitVec.ofNat 8 code, BitVec.ofNat 8 (b2n clear)] ++ toLE 4 o.num ++ toLE 4 dur
  let fn := defOwner s o
  let s := event s 0 0x0005 fn ts cidx pl
  if fn = 0 then s else event s fn 0x0005 fn ts cidx pl

/-- Every defect that can be present. -/
def allDefects (s : State) : List (Nat × DefObj) :=
  [(0, .device)] ++ (List.range 4).map (fun i => (1, .input i)) ++
    s.lanes.flatMap (fun e => [(2, .lane e.1), (3, .lane e.1), (4, .lane e.1)]) ++
    s.sessions.flatMap (fun e => [(5, .session e.1), (6, .session e.1), (4, .session e.1)])

/-- Report the defects that were covered in `s` and are not any more in `t`, with their original onset (R232). -/
def reportUncovered (s t : State) : State :=
  ((allDefects t).filter fun (c, o) => present t c o && covered s c o && !covered t c o).foldl
    (fun t (c, o) => defectEvent t c o false (onset t c o).1 (onset t c o).2 0) t

/-! ### What the bins and the second keep of it (R236, R240) -/

/-- Key of a session's object; a lane's is its number. -/
def pmNode (n : Nat) : Nat := 2 ^ 18 + n

def Flag.step : Nat := 6
def Flag.restart : Nat := 5
def Flag.cover : Nat := 4
def Flag.partialBin : Nat := 3

def Bin.flag (b : Bin) (i : Nat) : Bin := { b with flags := setBits b.flags i i 1 }

/-- Set a flag of both open bins of an object. -/
def PmObj.flagOpen (x : PmObj) (i : Nat) : PmObj := { x with q := x.q.flag i, d := x.d.flag i }

def updPm (s : State) (k : Nat) (f : PmObj → PmObj) : State :=
  match fget s.pm k with
  | some x => { s with pm := fput s.pm k (f x) }
  | none => s

/-- Set a flag of every open bin. -/
def flagBins (s : State) (i : Nat) : State := { s with pm := s.pm.map fun (k, x) => (k, x.flagOpen i) }

/-- A lane or session began or ended inside the open bins (R240). -/
def pmPartial (s : State) (k : Nat) : State := updPm s k fun x => x.flagOpen Flag.partialBin

/-- LOMS, or for a lane LOS on every included input, is present (R240). -/
def binCovered (s : State) (k : Nat) : Bool := loms s || (Nat.blt k (2 ^ 18) && losCovers s (lane s k))

/-- A defect was present at some time in the second. -/
def seen (s : State) (code : Nat) (o : DefObj) : Bool := present s code o || s.secSeen.contains (code, o.kind, o.num)

/-- Bins and lanes that LOMS or LOS now covers. -/
def markCover (s : State) : State :=
  { s with
    pm := s.pm.map (fun (k, x) => (k, if binCovered s k then x.flagOpen Flag.cover else x)),
    lanes := s.lanes.map fun (l, x) => (l, { x with secLos := x.secLos || losCovers s x }) }

/-- A lane's inputs or its state change: it may be covered from now on. -/
def markLane (s : State) (l : Nat) : State :=
  let x := lane s l
  let s := setLane s l { x with secLos := x.secLos || losCovers s x }
  updPm s l fun p => if binCovered s l then p.flagOpen Flag.cover else p

/-- Keep the presence of a defect: the second it is seen in, and the bins it covers (R236, R240). -/
def markSeen (s : State) (code : Nat) (o : DefObj) : State :=
  let s := { s with secSeen := (code, o.kind, o.num) :: s.secSeen }
  if code < 2 then markCover s else s

/-- Keep the raise of a defect: its onset, DEF_CHG, and the second it is seen in (R232, R233, R236). -/
def noteRaise (s : State) (code : Nat) (o : DefObj) : State :=
  markSeen (raise (setOnset s code o (tbNow s, cidxNow s)) F.LFR_EVT_DEF_CHG) code o

/-- Report a defect that has just been raised: its onset, DEF_CHG, the triggers and, unless it is covered, the event (R232, R233). -/
def reportRaise (s : State) (code : Nat) (o : DefObj) : State :=
  let ts := tbNow s
  let c := cidxNow s
  let s := trigger (noteRaise s code o) (matchDef code o.num true) ts
  if covered s code o then s else defectEvent s code o false ts c 0

/-- A raise, the defect's own state set by `f`. -/
def raiseWith (s : State) (code : Nat) (o : DefObj) (f : State → State) : State :=
  if present s code o then f s else reportRaise (f s) code o

/-- A clear, the defect's own state cleared by `f`. -/
def clearWith (s : State) (code : Nat) (o : DefObj) (f : State → State) : State :=
  if !present s code o then f s else
  let ts := tbNow s
  let c := cidxNow s
  let dur := (c + 2 ^ 32 - (onset s code o).2) % 2 ^ 32
  let cov := covered s code o
  let t := raise (f (markSeen s code o)) F.LFR_EVT_DEF_CHG
  if present t code o then t else
  let t := trigger t (matchDef code o.num false) ts
  let t := if cov then t else defectEvent t code o true ts c dur
  reportUncovered s t

def raiseDefect (s : State) (code : Nat) (o : DefObj) : State := raiseWith s code o fun s => markDefect s code o true

def clearDefect (s : State) (code : Nat) (o : DefObj) : State := clearWith s code o fun s => markDefect s code o false

/-! ### TXF (R215) -/

/-- Change the causes of TXF of a phase: TXF is raised with the first and cleared with the last (R215). -/
def changeTxf (s : State) (p : Nat) (f : TxPh → TxPh) : State :=
  let upd := fun s => setTx s p (f (txPh s p))
  let after := upd s
  if txf s p = txf after p then after
  else if txf after p then raiseBit (raiseWith s 7 (.phase p) upd) R.TXS_EVT p
  else clearWith s 7 (.phase p) upd

end Sys2Proof.Machine
end

