-- ==== Sys2Proof/Machine/Line.lean ====
section
/-! DEFINITION. Committed transmissions seen from the other blocks: what has started, how one is withdrawn, and how commands that
wait for the line end (R64, R65, R84, R111, R249, R272). -/

namespace Sys2Proof.Machine

/-- The jobs of a command. -/
def cmdJobs (s : State) (uid : Nat) : List Job :=
  s.jobs.filter fun j => match j.kind with
    | .command u => u == uid
    | .flood u => u == some uid
    | .player u _ => u == uid
    | _ => false

/-- The command waits for the line, or its committed transmission has not begun. -/
def unstarted (s : State) (c : Cmd) : Bool := c.st == .waiting || (c.st == .onLine && !(cmdJobs s c.uid).any Job.begun)

/-- The transmit player whose start command this is becomes idle. -/
def freePlayer (s : State) (uid : Nat) : State :=
  { s with players := s.players.map fun (k, x) => if x.uid = uid ∧ x.st ≠ .idle then (k, { x with st := .idle }) else (k, x) }

/-- What has been committed for a command and has not begun is withdrawn. -/
def withdrawUnbegun (s : State) (uid : Nat) : State := (cmdJobs s uid).foldl (fun s j => if j.begun then s else withdrawJob s j) s

/-- Every command that has not started and made no attempt is refused with a device state code (R64, R65). -/
def endWaiting (s : State) (code : Nat) : State :=
  (s.cmds.filter fun c => unstarted s c && c.attempts == 0).foldl (fun s c => wrongState (freePlayer (withdrawUnbegun s c.uid) c.uid) c code) s

/-- A SEND or POLL. -/
def isExchange (c : Cmd) : Bool := D.op c == 0x10 || D.op c == 0x11

/-- A FLOOD or RELAY. -/
def isFlood (c : Cmd) : Bool := D.op c == 0x12 || D.op c == 0x13

/-- The node of the session that carries a command's exchange. -/
def carrier (c : Cmd) : Nat := if c.route = [] then D.res c else c.route.headD 0

/-- An exchange with a node has ended: whether it needed a retransmission (R190). -/
def noteExchange (s : State) (node : Nat) (again : Bool) : State :=
  updSess s node fun x => { x with exs := (again :: x.exs).take 16 }

/-- Transmissions on the air on a phase. -/
def onAirPhase (s : State) (p : Nat) : Bool := s.jobs.any fun j => j.copies.any fun c => c.st == .onAir && c.ch.ph == p

end Sys2Proof.Machine
end

