-- ==== Sys2Proof/Machine/Mains.lean ====
section
/-! DEFINITION. Mains sensing, the phase tracker, the cycle index, hold-over and the timebase (R89 to R118). The cycle boundary
itself is in Cycle.lean; what it does to the tracker is `mainsBoundary` here. -/

namespace Sys2Proof.Machine

def mph (s : State) (p : Nat) : MPhase := fgetD s.mains.ph p {}

def setMph (s : State) (p : Nat) (x : MPhase) : State :=
  { s with mains := { s.mains with ph := fput s.mains.ph p x } }

def updMains (s : State) (f : Mains → Mains) : State := { s with mains := f s.mains }

/-- EN, SCS and MUX of a channel (R90): bits of MSY_SNS_CFG at 4 × phase. -/
def snsEn (s : State) (p : Nat) : Bool := bit (rdN s R.MSY_SNS_CFG) (4 * p)
def snsScs (s : State) (p : Nat) : Bool := bit (rdN s R.MSY_SNS_CFG) (4 * p + 1)

/-! ### Linearisation (R92 to R95) -/

/-- A stored coefficient of phase p < 3, i < 6, j < 4; an unlisted one is the default of R94, c_1,0 = 600.0. -/
def coefAt (s : State) (b p i j : Nat) : Word :=
  fgetD s.mains.coef (b * 72 + p * 24 + i * 4 + j) (if i = 1 ∧ j = 0 then 0x4416_0000 else 0)

/-- τ = (T − 25 °C) / 100 °C. -/
def tau (s : State) (p : Nat) : F32 := ((F32.ofWord (mph s p).temp).sub (F32.ofInt 25)).div (F32.ofInt 100)

/-- c_i(τ) by Horner's rule. -/
def coefTau (s : State) (b p i : Nat) : F32 :=
  let t := tau s p
  let c := fun j => F32.ofWord (coefAt s b p i j)
  (((((c 3).mul t).add (c 2)).mul t).add (c 1)).mul t |>.add (c 0)

/-- Horner's rule over x, from the highest coefficient down. -/
def horner (x : F32) : List F32 → F32
  | [] => .fin 0 0
  | c :: r => ((horner x r).mul x).add c

/-- The bank in use. -/
def coefBank (s : State) : Nat := getF s F.MSY_STATUS_COEF_ACT

/-- c_0(τ) to c_5(τ) of a phase, in the bank in use. -/
def coefsOf (s : State) (p : Nat) : List F32 := (List.range 6).map (coefTau s (coefBank s) p)

/-- The linearised code of a stage 4 code, whether it saturated, and the state after it (R92); a tie in its rounding goes to even (log
entry 90). The value of a NaN, which only an infinite or NaN temperature gives, is free. -/
def linearise (s : State) (p : Nat) (code : Int) : Int × Bool × State :=
  let v := horner (F32.round code (-17) false) (coefsOf s p)
  match v with
  | .nan => (sext 18 (freeNat s 18), false, usedFree s)
  | .inf neg => (if neg then -131072 else 131071, true, s)
  | v =>
    let n := (v.scaled 100).getD 0
    if n > 131071 then (131071, true, s) else if n < -131072 then (-131072, true, s) else (n, false, s)

/-- The derivative's coefficients. -/
def derivs (l : List F32) : List F32 := (List.range 5).map fun i => (l.getD (i + 1) (.fin 0 0)).mul (F32.ofInt (i + 1))

/-- Newton steps towards V = 0. -/
def newton (l : List F32) : Nat → F32 → F32
  | 0, x => x
  | n + 1, x => newton l n (x.sub ((horner x l).div (horner x (derivs l))))

/-- Recompute the zero threshold of a phase (R95); where the steps end in no number, or in one outside 18 bits, it is free. -/
def updThreshold (s : State) (p : Nat) : State :=
  let l := coefsOf s p
  let x := newton l 4 (((l.getD 0 .nan).neg).div (l.getD 1 .nan))
  match x.scaled (2 ^ 17) with
  | some n => if -131072 ≤ n ∧ n ≤ 131071 then wrN s (R.MSY_ZTHR p) (wrap 18 n) else usedFree (wrN s (R.MSY_ZTHR p) (freeNat s 18))
  | none => usedFree (wrN s (R.MSY_ZTHR p) (freeNat s 18))

def updThresholds (s : State) : State := updThreshold (updThreshold (updThreshold s 0) 1) 2

/-- The bank can be used: no coefficient is a NaN or an infinity (R93). -/
def bankOk (s : State) (b : Nat) : Bool :=
  (List.range 3).all fun p => (List.range 24).all fun k => (F32.ofWord (coefAt s b p (k / 4) (k % 4))).finite

/-- The requested coefficient bank takes effect (R93). DESIGN CHOICE (log entry 87): R93 does not say whether a request that was refused
for a NaN or an infinity stays; it does, and every later epoch boundary tries it again. -/
def applyBank (s : State) : State :=
  let b := getF s F.MSY_CTRL_COEF_BANK
  if b = coefBank s then s
  else if bankOk s b then updThresholds (setF s F.MSY_STATUS_COEF_ACT b)
  else raise s F.MSY_EVT_CFG_ERR

/-- LIN_DEFAULT: an enabled phase uses a bank not written since reset (R94). -/
def linDefault (s : State) : Bool := (List.range 3).any fun p => snsEn s p && !bit s.mains.bankWritten.toNat (2 * p + coefBank s)

/-- Write one coefficient (R93). -/
def writeCoef (s : State) (b p i j : Nat) (v : Word) : State :=
  updMains s fun m => { m with
    coef := fputD m.coef (b * 72 + p * 24 + i * 4 + j) (if i = 1 ∧ j = 0 then 0x4416_0000 else 0) v,
    bankWritten := BitVec.ofNat 6 (setBits m.bankWritten.toNat (2 * p + b) (2 * p + b) 1) }

/-- MSY_COEF_DATA is written (R93): the selected coefficient; the bank in use, and an index that selects none, are refused with
CFG_ERR. -/
def writeCoefData (s : State) (v : Word) : State :=
  let s := wr s R.MSY_COEF_DATA v
  let b := getF s F.MSY_COEF_IDX_BANK
  let p := getF s F.MSY_COEF_IDX_PHASE
  let i := getF s F.MSY_COEF_IDX_I
  if b = coefBank s ∨ p = 3 ∨ i > 5 then raise s F.MSY_EVT_CFG_ERR
  else writeCoef s b p i (getF s F.MSY_COEF_IDX_J) v

/-- COEF_WRITE (R93). -/
def execCoefWrite (v : Word) (s : State) : Answer := done (access s R.MSY_COEF_DATA fun s => writeCoefData s v)

/-- Select a coefficient bank: at the next epoch boundary, or at once while the index is not valid (R93). -/
def selectBank (s : State) (b : Bool) : State :=
  let s := setB s F.MSY_CTRL_COEF_BANK b
  if cidxOk s then s else applyBank s

/-- COEF_BANK_SELECT (R93). -/
def execCoefBankSelect (bank : Bool) (s : State) : Answer := done (access s R.MSY_CTRL fun s => selectBank s bank)

/-- SENSE_TEMPERATURE_UPDATE (R92, R95). -/
def execSenseTemperatureUpdate (ph : Fin 3) (temp : Word) (s : State) : Answer :=
  if s.pins.inReset then done s else
  done (updThreshold (setMph s ph.val { mph s ph.val with temp := temp }) ph.val)

/-! ### The sense chain (R89 to R91) -/

/-- SENSE_SAMPLE (R89, R90, R92): a stage 4 code arrives; every eighth one makes a filtered sample, whose value the low-pass
gives and the spec does not (free); a group with an invalid sample makes an invalid one. -/
def execSenseSample (ph : Fin 3) (code : BitVec 18) (bad : Bool) (s : State) : Answer :=
  let p := ph.val
  if !snsEn s p || !domainOn s 17 then done s else
  let x := mph s p
  let invalid := bad || Nat.blt 0 x.skip
  let (v, sat, s) := linearise s p code.toInt
  let s := if sat then raise s F.MSY_EVT_SAT else s
  let delay := if snsScs s p then 4410 else 8230
  let s := feedSample s 6 p (instantBefore s delay (if invalid then 0x20000 else wrap 18 v))
  let x := { x with skip := x.skip - 1, lin := (if invalid then none else some v) :: x.lin }
  if x.lin.length < 8 then done (setMph s p x) else
  let y := if x.lin.all Option.isSome then some (sext 18 (freeNat s 18)) else none
  done (setMph (usedFree s) p { x with lin := [], win := y :: x.win, half := x.half + 1 })

/-- The channel of the active reference phase. -/
def refPhase (s : State) : Nat := getF s F.MSY_STATUS_REFPH_ACT

/-- SENSE_CHANNEL_CONFIG (R90, R91): a write of MSY_SNS_CFG. -/
def writeSnsCfg (s : State) (v : Word) : State :=
  let old := rdN s R.MSY_SNS_CFG
  let new := v.toNat % 2 ^ 12
  let r := refPhase s
  let lo := 4 * r
  let refused := isSet s F.MSY_STATUS_LOCK && r < 3 &&
    ((bit old lo && !bit new lo) || bits new (lo + 3) (lo + 2) != bits old (lo + 3) (lo + 2))
  let new := if refused then setBits (setBits new lo lo (b2n (bit old lo))) (lo + 3) (lo + 2) (bits old (lo + 3) (lo + 2)) else new
  let s := if refused then raise s F.MSY_EVT_MUX_REFUSED else s
  let s := if (List.range 3).any (fun p => bits new (4 * p + 3) (4 * p + 2) == 3) then raise s F.MSY_EVT_CFG_ERR else s
  -- 0b11 acts as a short, as 0b10 does
  let mux := fun (x p : Nat) => min 2 (bits x (4 * p + 3) (4 * p + 2))
  let s := wrN s R.MSY_SNS_CFG new
  (List.range 3).foldl (fun s p =>
    if mux new p = mux old p ∧ bit new (4 * p) = bit old (4 * p) then s
    else
      let x := { mph s p with skip := if bit new (4 * p + 1) then 0 else 3 }
      -- a channel that was off has no samples of the most recent cycle (R96)
      setMph s p (if bit new (4 * p) = bit old (4 * p) then x else { x with lin := [], win := [], half := 0 })) s

/-- SENSE_CHANNEL_CONFIG. -/
def execSenseChannelConfig (v : Word) (s : State) : Answer := done (access s R.MSY_SNS_CFG fun s => writeSnsCfg s v)

/-! ### LOMS and hold-over (R109 to R111) -/

/-- TX_LIMIT has been reached: muted until a slot boundary under lock, and transmit commands not yet started are refused
(R111, R112). -/
def txLimit (s : State) : State := endWaiting (raise s F.MSY_STATUS_TXMUTE) 0x20

/-- Forget what the tracker was acquiring. -/
def dropTrack (s : State) : State :=
  updMains s fun m => { m with
    intervals := [], acquiring := false, lockRun := 0, errRun := 0, missRun := 0, regain := false, slew := 0, lengthen := 0,
    lockedFor := 0 }

/-- LOMS is raised, LOCK cleared and a hold-over entered (R109, R110); with a limit of 0 the phases mute at once. -/
def enterHoldover (s : State) : State :=
  if !isSet s F.MSY_STATUS_LOCK then dropTrack s else
  let s := raiseWith s Def.loms .device fun s => setF s F.MSY_STATUS_LOCK 0
  let s := raise (dropTrack s) F.MSY_EVT_LOMS_CHG
  let s := setF (raise s F.MSY_STATUS_HOLD) F.MSY_STATUS_HOLD_AGE 0
  if getF s F.MSY_HOLD_TX_LIMIT = 0 then txLimit s else s

/-- HOLDOVER_TX_LIMIT (R111): the hold-over has reached TX_LIMIT cycles. -/
def execHoldoverTxLimit (s : State) : Answer :=
  let l := getF s F.MSY_HOLD_TX_LIMIT
  if isSet s F.MSY_STATUS_HOLD && l != 0xFFFF && Nat.ble l (getF s F.MSY_STATUS_HOLD_AGE) then done (txLimit s) else done s

/-- Lock is declared: LOMS clears and a hold-over ends (R101, R110, R113). -/
def declareLock (s : State) : State :=
  let s := clearWith s Def.loms .device fun s => raise s F.MSY_STATUS_LOCK
  let s := raise s F.MSY_EVT_LOMS_CHG
  let held := isSet s F.MSY_STATUS_HOLD
  let s := setF s F.MSY_STATUS_HOLD 0
  updMains s fun m => { m with
    acquiring := false, lockRun := 0, errRun := 0, missRun := 0, lockedFor := 0, everLocked := true, regain := held }

/-- TRACKER_EN_WRITE (R109): EN written. -/
def writeTrackerEn (s : State) (en : Bool) : State :=
  let s := setB s F.MSY_CTRL_EN en
  if en then s else enterHoldover s

def execTrackerEnWrite (en : Bool) (s : State) : Answer := done (access s R.MSY_CTRL fun s => writeTrackerEn s en)

/-! ### Rms and threshold events (R96 to R99) -/

/-- Root mean square of the valid samples of a window; the rounding is free. -/
def rmsOf (s : State) (l : List Int) : Nat × State :=
  let sq := (l.map fun v => v.natAbs * v.natAbs).sum
  let m := sq / l.length
  let r := m.sqrt
  if r * r * l.length = sq then (r, s) else (r + freeNat s 1, usedFree s)

/-- LEVEL, HYST, DEB_ON and DEB_OFF of an event's register. -/
structure EvtCfg where
  level : Nat
  hyst : Nat
  debOn : Nat
  debOff : Nat
  deriving DecidableEq, Repr

def evtCfg (s : State) (off : Nat) : EvtCfg :=
  let v := rdN s off
  { level := bits v 17 0, hyst := bits v 22 18, debOn := bits v 27 24, debOff := bits v 31 28 }

/-- The rms meets the raise, and the clear, condition (R97). A swell is kind 1. -/
def evtOn (k : Nat) (c : EvtCfg) (r : Nat) : Bool := if k = 1 then Nat.blt c.level r else Nat.blt r c.level
def evtOff (k : Nat) (c : EvtCfg) (r : Nat) : Bool :=
  if k = 1 then Nat.ble (200 * r) (c.level * (200 - c.hyst)) else Nat.ble (c.level * (200 + c.hyst)) (200 * r)

/-- The run of the most recent refreshes that meet a condition: its length, and its first time, where `old` and `t0` are those the last
refresh had. -/
def evtSpan (l : List (Nat × Nat)) (ok : Nat → Bool) (old t0 : Nat) : Nat × Nat :=
  let run := l.takeWhile fun x => ok x.1
  (run.length, if old ≠ 0 ∧ run.length = satN 31 (old + 1) then t0 else ((run.getLast?.map Prod.snd).getD t0))

/-- Count the refreshes up to one, by the levels now in force; a LEVEL of 0 disables the event, and no run goes on under it (R97). -/
def evtCount (k : Nat) (c : EvtCfg) (l : List (Nat × Nat)) (e : EvtRun) : EvtRun :=
  let r := (l.headD (0, 0)).1
  let (on, onT) := evtSpan l (fun x => evtOn k c x && c.level != 0) e.on e.onset
  let (off, offT) := evtSpan l (fun x => evtOff k c x && c.level != 0) e.off e.onset
  { e with
    on := on, off := off,
    onset := if !e.raised && on != 0 then onT else if e.raised && off != 0 then offT else e.onset,
    extreme := if !e.raised then r else if k = 1 then max e.extreme r else min e.extreme r }

/-- The state the counts give. -/
def evtState (c : EvtCfg) (e : EvtRun) : Bool :=
  if c.level = 0 then false
  else if !e.raised && Nat.ble (2 * c.debOn + 1) e.on then true
  else if e.raised && Nat.ble (2 * c.debOff + 1) e.off then false
  else e.raised

/-- Report one raise or clear (R99, R369). -/
def mainsEvent (s : State) (p k : Nat) (raised : Bool) (onset extreme : Nat) : State :=
  let s := raiseBit s R.MSY_EVT (3 * p + k)
  eventNow s 0 0x0003 0 ([Config.mainsEventByte p k raised] ++ toLE 6 onset ++ toLE 4 (if raised then 0 else extreme))

def getEvt (x : MPhase) (k : Nat) : EvtRun := if k = 0 then x.sag else if k = 1 then x.swell else x.loss
def putEvt (x : MPhase) (k : Nat) (e : EvtRun) : MPhase :=
  if k = 0 then { x with sag := e } else if k = 1 then { x with swell := e } else { x with loss := e }

/-- Evaluate one event at a refresh. DESIGN CHOICE (log entry 124): where a loss that has cleared leaves a sag that meets neither its raise
nor its clear condition, the sag keeps the state it had before the loss. `hold`: the event is counted and not evaluated (R98). -/
def evalEvt (s : State) (p k : Nat) (hold : Bool) : State :=
  let c := evtCfg s (if k = 0 then R.MSY_SAG p else if k = 1 then R.MSY_SWELL p else R.MSY_LOSS p)
  let x := mph s p
  let e := evtCount k c x.rms (getEvt x k)
  let st := if hold then e.raised else evtState c e
  if st = e.raised then setMph s p (putEvt x k e)
  else
    let s := setMph s p (putEvt x k { e with raised := st })
    mainsEvent s p k st e.onset e.extreme

/-- Next enabled phase in the order A, B, C, A after `p`, if another is enabled (R103). -/
def nextPhase (s : State) (p : Nat) : Option Nat := [(p + 1) % 3, (p + 2) % 3].find? fun q => snsEn s q

/-- The offset of a phase is valid: accepted crossings at each of its last 16 cycles (R103). -/
def offsetOk (s : State) (p : Nat) : Bool := bit (rdN s (R.MSY_PHOFS p)) 31

/-- The reference moves to a phase (R103): its offset is frozen when valid, else LOMS is raised and the tracker acquires on it. The
boundaries stood at the old reference's crossing less the offset already frozen, so the new one adds to it. -/
def switchRef (s : State) (p : Nat) : State :=
  if p = refPhase s then s else
  let ok := offsetOk s p
  let o := sext 31 (rdN s (R.MSY_PHOFS p))
  let s := raise (setF s F.MSY_STATUS_REFPH_ACT p) F.MSY_EVT_REF_SWITCH
  if ok then updMains s fun m => { m with offset := m.offset + o }
  else enterHoldover (updMains s fun m => { m with offset := 0 })

/-- Evaluate a phase's rms and its events (R96 to R98). -/
def refreshPhase (s : State) (p : Nat) : State :=
  if !snsEn s p then s else
  let x := mph s p
  let l := x.win.filterMap id
  let s := setMph s p { x with win := x.win.take x.half, half := 0 }
  if l = [] ∨ 2 * (x.win.length - l.length) > x.win.length then s else
  let (r, s) := rmsOf s l
  let sag := evtCfg s (R.MSY_SAG p)
  let sw := evtCfg s (R.MSY_SWELL p)
  let noSwell := Nat.ble sw.level sag.level
  let s := if noSwell then raise s F.MSY_EVT_CFG_ERR else s
  let s := setMph s p { mph s p with rms := ((r, tbNow s) :: (mph s p).rms).take 31 }
  let s := evalEvt s p 2 false
  -- the loss event holds the sag event (R98)
  let s := evalEvt s p 0 (mph s p).loss.raised
  -- a swell whose LEVEL is 0 is cleared even so (R97)
  let s := evalEvt s p 1 (noSwell && sw.level != 0)
  let x := mph s p
  wrN s (R.MSY_RMS p) (r % 2 ^ 18 + 2 ^ 29 * b2n x.sag.raised + 2 ^ 30 * b2n x.swell.raised + 2 ^ 31 * b2n x.loss.raised)

/-- A raised loss of the active reference: AUTOREF switches it, else a hold-over begins (R103, R109). -/
def checkRefLoss (s : State) : State :=
  let r := refPhase s
  if !(mph s r).loss.raised then s
  else match (if isSet s F.MSY_CTRL_AUTOREF then nextPhase s r else none) with
    | some q => switchRef s q
    | none => if isSet s F.MSY_STATUS_LOCK then enterHoldover s else s

/-- RMS_REFRESH (R96 to R99, R103, R109). -/
def execRmsRefresh (s : State) : Answer :=
  done (checkRefLoss (refreshPhase (refreshPhase (refreshPhase s 0) 1) 2))

/-! ### The tracker (R100, R101, R103, R113) -/

/-- The mean of the last 16 periods completed under lock (R110). DESIGN CHOICE (log entry 88): R110 gives no period when fewer were
completed, and no rounding: the mean is of those there are, 20 ms (R96's window) before any, and it is rounded down to 1 ns. -/
def holdPeriod (s : State) : Nat := if s.mains.periods = [] then 20_000_000 else s.mains.periods.sum / s.mains.periods.length

/-- Four consecutive crossing intervals lie in 45 to 65 Hz and agree within 1 % (R101). -/
def intervalsAgree (l : List Nat) : Bool :=
  match l with
  | [a, b, c, d] =>
    let lo := min (min a b) (min c d)
    let hi := max (max a b) (max c d)
    Nat.ble (10 ^ 9) (65 * lo) && Nat.ble (45 * hi) (10 ^ 9) && Nat.ble (100 * hi) (101 * lo)
  | _ => false

/-- The first measured crossing after lock is regained (R113): a slew, or a lengthened void cycle, whose event record holds e in ns.
R369 lists no event type for it (log entry 89). -/
def regainCrossing (s : State) (ts : Nat) : State :=
  let t := holdPeriod s
  let base : Int := s.mains.zc + s.mains.stepped
  let e := (((ts : Int) - s.mains.offset - base) % (t : Int)).toNat
  if e ≤ 500000 then updMains s fun m => { m with regain := false, slew := e }
  else if t ≤ e + 500000 then updMains s fun m => { m with regain := false, slew := (e : Int) - t }
  else
    let s := raise (updMains s fun m => { m with regain := false, lengthen := e }) F.MSY_EVT_PHASE_STEP
    eventNow s 0 Config.phaseStepType.toNat 0 (toLE 4 e)

/-- An accepted crossing of the reference while locked (R109, R113). -/
def crossLocked (s : State) (ts err : Nat) : State :=
  let run := if err > 100000 then s.mains.errRun + 1 else 0
  let s := updMains s fun m => { m with crossed := true, missRun := 0, errRun := run }
  if run ≥ 4 then enterHoldover s else if s.mains.regain then regainCrossing s ts else s

/-- A crossing of the reference while not locked: acquisition and lock (R101). -/
def crossUnlocked (s : State) (ts err : Nat) (last : Option Nat) : State :=
  if s.mains.acquiring then
    let run := if err ≤ 20000 then s.mains.lockRun + 1 else 0
    let s := updMains s fun m => { m with crossed := true, lockRun := run }
    if run ≥ 16 then declareLock s else s
  else
    match last with
    | none => s
    | some l =>
      let iv := ((ts - l) :: s.mains.intervals).take 4
      updMains s fun m => { m with intervals := iv, acquiring := intervalsAgree iv, lockRun := 0 }

/-- Note an accepted crossing of a phase and measure its offset against the reference (R103). -/
def notePhase (s : State) (p ts : Nat) : State :=
  let x := mph s p
  let s := setMph s p { x with lastCross := some ts, crossed := true }
  -- against the reference's crossing of the same cycle: a reference that missed one measures nothing
  match (mph s (refPhase s)).lastCross with
  | some r =>
    if Nat.ble (r + holdPeriod s) ts then s
    else wrN s (R.MSY_PHOFS p) (wrap 31 ((ts : Int) - r) + 2 ^ 31 * b2n (Nat.ble 16 (mph s p).okRun))
  | none => s

/-- ZERO_CROSSING (R100, R101, R103, R109, R113): a locked tracker rejects a crossing more than a tenth of a period off. -/
def execZeroCrossing (ph : Fin 3) (ts pred : BitVec 64) (s : State) : Answer :=
  let p := ph.val
  let t := ts.toNat
  let err := if t < pred.toNat then pred.toNat - t else t - pred.toNat
  if !snsEn s p || !isSet s F.MSY_CTRL_EN || !domainOn s 17 || inSafe s 0 then done s
  else if isSet s F.MSY_STATUS_LOCK && Nat.blt (holdPeriod s) (10 * err) then done (bump s R.MSY_REJ_CNT)
  else
    let last := (mph s p).lastCross
    let s := notePhase s p t
    done (if p ≠ refPhase s then s
      else if isSet s F.MSY_STATUS_LOCK then crossLocked s t err else crossUnlocked s t err last)

/-- REFERENCE_PHASE_SELECT (R103): at the next cycle boundary; 0b11 acts as phase A and sets CFG_ERR. -/
def selectRef (s : State) (ph : BitVec 2) : State :=
  let s := setF s F.MSY_CTRL_REFPH ph.toNat
  let s := if ph = 3 then raise s F.MSY_EVT_CFG_ERR else s
  updMains s fun m => { m with refPend := some (if ph = 3 then 0 else ph.toNat) }

def execReferencePhaseSelect (ph : BitVec 2) (s : State) : Answer := done (access s R.MSY_CTRL fun s => selectRef s ph)

/-- LOOP_BANDWIDTH_SELECT (R101). -/
def selectLbw (s : State) (l : BitVec 2) : State :=
  let s := setF s F.MSY_CTRL_LBW l.toNat
  if cidxOk s then updMains s fun m => { m with lbwPend := some l.toNat }
  else updMains s fun m => { m with lbw := l.toNat, lbwPend := none }

def execLoopBandwidthSelect (lbw : BitVec 2) (s : State) : Answer := done (access s R.MSY_CTRL fun s => selectLbw s lbw)

/-- The index that the boundary of a received packet maps to the own first boundary, falling at `z` (R491): none when no packet is
recent enough; `some none` when the timestamp is not within a quarter period of it. -/
def mappedIndex (s : State) (z : Nat) : Option (Option Nat) :=
  match s.jir.bound with
  | none => none
  | some (c, t, at') =>
    let p := holdPeriod s
    if Nat.blt (2 * p) (s.mains.elapsed - at') then none else
    let d : Int := (z : Int) - t
    -- whole periods between the two boundaries, to the nearest
    let n := (2 * d + p) / (2 * (p : Int))
    let off := d - n * p
    some (if 4 * off.natAbs ≤ p then some (wrap 32 ((c : Int) + n)) else none)

/-- The predicted boundary: one hold-over period after the last, or, for a follower in hold-over with TLOCK, the master's boundary
plus the last measured offset to it (R110, R492). -/
def masterPred (s : State) : Int :=
  let own : Int := (s.mains.zc : Int) + s.mains.stepped + holdPeriod s
  if isSet s F.MSY_STATUS_HOLD && isSet s F.JIR_STATUS_TLOCK && !isSet s F.JIR_CTRL_MASTER then
    match s.jir.timing with
    | some (c, t) => (t : Int) + s.jir.offset + sext 32 (cidxNow s + 1 + 2 ^ 32 - c) * holdPeriod s
    | none => own
  else own

/-- When a cycle boundary falls (R103, R107, R110, R113): the crossing as the tracker filtered it less the frozen offset, or the
predicted boundary in hold-over and while a slew is under way; a lengthened cycle begins at its prediction and ends `e` after it. -/
def boundaryTime (s : State) (ts : Nat) : Nat :=
  let m := s.mains
  let pred : Int := masterPred s
  if isSet s F.MSY_STATUS_LOCK && m.slew == 0 && !m.voidNow && !m.regain && m.lengthen == 0 then wrap 64 ((ts : Int) - m.offset)
  else if m.voidNow then wrap 64 (pred + m.lengthen)
  else wrap 64 (pred + clampI 25000 m.slew)

/-- The part of a cycle boundary that belongs to the tracker and the index: missed crossings, hold-over age, pending reference
and bandwidth, the index and its timestamp (R101, R103, R104, R107, R109, R110, R113). -/
def mainsBoundary (s : State) (ts : Nat) (freq : Word) : State :=
  let held := isSet s F.MSY_STATUS_HOLD
  let s := if isSet s F.MSY_STATUS_LOCK then
      let miss := if s.mains.crossed then 0 else s.mains.missRun + 1
      let s := updMains s fun m => { m with missRun := miss, lockedFor := satN 64 (m.lockedFor + 1) }
      -- 45 Hz and 65 Hz in units of 2^-16 Hz
      if Nat.ble 2 miss || Nat.blt freq.toNat (45 * 2 ^ 16) || Nat.blt (65 * 2 ^ 16) freq.toNat then enterHoldover s else s
    else s
  let z := boundaryTime s ts
  let lock := isSet s F.MSY_STATUS_LOCK
  let m := s.mains
  let period := wrap 64 ((z : Int) - m.zc - m.stepped)
  -- the first boundary after first lock, also when the lock has been lost meanwhile (R104)
  let first := m.everLocked && !cidxOk s
  let s := updMains s fun m => { m with
    crossed := false, zc := z, stepped := 0, freq := freq,
    -- DESIGN CHOICE (log entry 125): the lengthened void cycle is not one of the periods completed under lock
    periods := if lock && cidxOk s && !m.voidNow then (period :: m.periods).take 16 else m.periods,
    slew := if lock then m.slew - clampI 25000 m.slew else 0,
    -- the lengthened cycle begins at this boundary, or ends at it
    voidNow := !m.voidNow && Nat.blt 0 m.lengthen && lock,
    lengthen := if m.voidNow || !lock then 0 else m.lengthen }
  let s := { s with mains := { s.mains with ph := s.mains.ph.map fun (p, x) =>
    (p, { x with crossed := false, okRun := if x.crossed then satN 16 (x.okRun + 1) else 0 }) } }
  let s := (List.range 3).foldl (fun s p =>
    if (mph s p).okRun < 16 then wrN s (R.MSY_PHOFS p) (rdN s (R.MSY_PHOFS p) % 2 ^ 31) else s) s
  let s := match s.mains.lbwPend with
    | some l => updMains s fun m => { m with lbw := l, lbwPend := none }
    | none => s
  let s := match s.mains.refPend with
    | some r => switchRef (updMains s fun m => { m with refPend := none }) r
    | none => s
  let s := if first then
      match mappedIndex s z with
      | none => raise (wrN s R.MSY_CIDX (getF s F.MSY_CIDX_PRESET_PRESET * 256)) F.MSY_STATUS_CIDX_VALID
      | some (some i) => raise (wrN s R.MSY_CIDX i) F.MSY_STATUS_CIDX_VALID
      | some none => raise s F.JIR_EVT_CMAP_FAIL
    else if cidxOk s then wr s R.MSY_CIDX (rd s R.MSY_CIDX + 1) else s
  -- the cycle after the boundary at which a hold-over begins is its first
  if held && isSet s F.MSY_STATUS_HOLD then bumpF s F.MSY_STATUS_HOLD_AGE else s

/-- MSY_CIDX_READ (R107): the index, with its timestamp and frequency snapshot. -/
def readCidx (s : State) : State :=
  let s := wrN s R.MSY_ZCTS_LO s.mains.zc
  let s := wrN s R.MSY_ZCTS_HI (s.mains.zc / 2 ^ 32)
  let s := wr s R.MSY_FREQ s.mains.freq
  { s with readData := rd s R.MSY_CIDX }

def execMsyCidxRead (s : State) : Answer := done (readAccess s R.MSY_CIDX readCidx)

/-! ### Timebase (R114 to R117) -/

/-- TIMEBASE_READ (R115): MSY_TB_LO, with MSY_TB_HI snapshot. -/
def readTimebase (s : State) : State :=
  let s := wrN s R.MSY_TB_LO (tbNow s)
  let s := wrN s R.MSY_TB_HI (tbNow s / 2 ^ 32)
  { s with readData := rd s R.MSY_TB_LO }

def execTimebaseRead (s : State) : Answer := done (readAccess s R.MSY_TB_LO readTimebase)

/-- Add a signed step to a timestamp. -/
def stepped (d : Int) (t : Nat) : Nat := wrap 64 ((t : Int) + d)

/-- Step the timebase (R116, R316, R322): fault windows, supervision timers and the PPS servo move with it. -/
def stepTimebase (s : State) (d : Int) : State :=
  let old := tbNow s
  let new := stepped d old
  let s := updMains s fun m => { m with
    tb := BitVec.ofNat 64 new, stepped := m.stepped + d,
    pps := { m.pps with last := m.pps.last.map (stepped d) } }
  let s := { s with
    rel := { s.rel with
      hist := s.rel.hist.map fun (k, h) => (k, { h with times := h.times.map (stepped d) }),
      lastLink := s.rel.lastLink.map (stepped d) },
    sessions := s.sessions.map fun (k, x) => (k, { x with tAuth := stepped d x.tAuth }) }
  let s := stepStreams s d
  let s := raise s F.MSY_EVT_TB_STEP
  eventNow s 0 0x0004 0 (toLE 8 old ++ toLE 8 new)

/-- The step held in MSY_TB_STEP. -/
def stepValue (s : State) : Int := sext 64 (rdN s R.MSY_TB_STEP_LO + 2 ^ 32 * rdN s R.MSY_TB_STEP_HI)

/-- TIMEBASE_STEP_NOW (R116). -/
def execTimebaseStepNow (s : State) : Answer := done (access s R.MSY_TB_CMD fun s => stepTimebase s (stepValue s))

/-- The step waits for the next accepted PPS edge (R116). -/
def armStep (s : State) : State := updMains s fun m => { m with pps := { m.pps with armed := true } }

/-- TIMEBASE_STEP_AT_PPS (R116). -/
def execTimebaseStepAtPps (s : State) : Answer := done (access s R.MSY_TB_CMD armStep)

/-- ±200 ppm of 8 ns in units of 2^-32 ns. -/
def adjMax : Int := 6871947

/-- RATE_ADJUST_WRITE (R114, R117, R490): limited to ±200 ppm; 0 with a reference on REFIN; refused in servo mode 2 and while the
Jiroth timing is locked. -/
def writeAdj (s : State) (v : Word) : State :=
  if getF s F.MSY_PPS_CTRL_MODE = 2 ∨ isSet s F.JIR_STATUS_TLOCK then raise s F.MSY_EVT_CFG_ERR
  else if getF s F.CLK_STRAP_CLKSEL = 1 ∨ getF s F.CLK_STRAP_CLKSEL = 2 then s
  else wrN s R.MSY_TB_ADJ (wrap 32 (clampI adjMax (sext 32 v.toNat)))

def execRateAdjustWrite (v : Word) (s : State) : Answer := done (access s R.MSY_TB_ADJ fun s => writeAdj s v)

/-- PPS_MODE_SELECT (R117): the servo starts anew; 0b11 acts as 0 and sets CFG_ERR. DESIGN CHOICE (log entry 125): every write starts it anew
and clears PPS_LOCK, also one that leaves MODE as it was. -/
def selectPps (s : State) (mode : BitVec 2) : State :=
  let s := setF s F.MSY_PPS_CTRL_MODE mode.toNat
  let s := if mode = 3 then raise s F.MSY_EVT_CFG_ERR else s
  let s := setF s F.MSY_STATUS_PPS_LOCK 0
  updMains s fun m => { m with pps := { m.pps with last := none, good := 0, bad := 0, slew := 0, held := false } }

def execPpsModeSelect (mode : BitVec 2) (s : State) : Answer := done (access s R.MSY_PPS_CTRL fun s => selectPps s mode)

/-- The servo's mode; 0b11 acts as 0, and so does every mode while TLOCK is 1 (R490). -/
def ppsMode (s : State) : Nat := let m := getF s F.MSY_PPS_CTRL_MODE; if m = 3 ∨ isSet s F.JIR_STATUS_TLOCK then 0 else m

/-- Lock is lost: the servo holds its last rate (R117), until an edge within 1 µs, or a mode is selected (DESIGN CHOICE, log entry 125). -/
def losePps (s : State) : State :=
  if isSet s F.MSY_STATUS_PPS_LOCK
  then updMains (raise (setF s F.MSY_STATUS_PPS_LOCK 0) F.MSY_EVT_PPS_LOST) fun m => { m with pps := { m.pps with held := true } }
  else s

/-- Phase error of an edge: its distance from the nearest whole second, in ns. -/
def ppsError (t : Nat) : Int :=
  let r : Nat := t % 10 ^ 9
  if 2 * r ≥ 10 ^ 9 then (r : Int) - 10 ^ 9 else (r : Int)

/-- A servo steers MSY_TB_ADJ within its limit, to a free value; with a reference on REFIN it stays 0 (R114, R117, R490). -/
def steerAdj (s : State) : State :=
  if getF s F.CLK_STRAP_CLKSEL = 1 ∨ getF s F.CLK_STRAP_CLKSEL = 2 then s
  else usedFree (wrN s R.MSY_TB_ADJ (wrap 32 (clampI adjMax (sext 32 (freeNat s 32)))))

/-- What the servo does with an accepted edge (R117); how mode 2 steers MSY_TB_ADJ is free. -/
def servo (s : State) (t : Nat) (first : Bool) : State :=
  let e := ppsError t
  let s := wrN s R.MSY_PPS_ERR (wrap 32 e)
  let p := s.mains.pps
  let good := if e.natAbs ≤ 100 then satN 8 (p.good + 1) else 0
  let bad := if e.natAbs > 1000 then satN 4 (p.bad + 1) else 0
  let s := updMains s fun m => { m with pps := { m.pps with good := good, bad := bad, held := m.pps.held && bad != 0 } }
  let s := if good ≥ 8 then raise s F.MSY_STATUS_PPS_LOCK else s
  let s := if bad ≥ 4 then losePps s else s
  if s.mains.pps.held then s else
  let s := if first && decide (e.natAbs > 1000000) then stepTimebase s (-e)
    else updMains s fun m => { m with pps := { m.pps with slew := -e * 2 ^ 32 } }
  if ppsMode s = 2 then steerAdj s else s

/-- PPS_EDGE (R116, R117, R321): accepted when it is high for at least 1 µs and 1 s ± 100 µs after the previous accepted edge. -/
def execPpsEdge (ts : BitVec 64) (highNs : Nat) (s : State) : Answer :=
  let t := ts.toNat
  let ok := Nat.ble 1000 highNs && match s.mains.pps.last with
    | none => true
    | some l => Nat.ble (l + 999900000) t && Nat.ble t (l + 1000100000)
  if !ok || s.pins.inReset then done s else
  let first := s.mains.pps.last.isNone
  let s := wrN (wrN s R.MSY_PPS_TS_LO t) R.MSY_PPS_TS_HI (t / 2 ^ 32)
  let s := updMains s fun m => { m with pps := { m.pps with last := some t } }
  let s := trigger s matchPps t
  -- a step made at this edge moves the edge's own time in the servo with it (R116)
  let armed := s.mains.pps.armed
  let s := if armed
    then stepTimebase (updMains s fun m => { m with pps := { m.pps with armed := false } }) (stepValue s) else s
  let t := if armed then stepped (stepValue s) t else t
  if ppsMode s = 0 then done s else done (servo s t first)

/-- PPS_LOST (R117): three expected edges are missing in a row. -/
def execPpsLost (s : State) : Answer := done (losePps s)

end Sys2Proof.Machine
end

