-- ==== Sys2Proof/Machine/Bugle.lean ====
section
/-! DEFINITION. The transmitter: levels, impedance, protection, TXF and its recovery (R195 to R219). Starting and ending frames is in
Transmit.lean. -/

namespace Sys2Proof.Machine

/-! ### Muting -/

/-- A phase waits for a slot or an epoch boundary before it may transmit (R63, R85, R111, R215, R216). -/
def resumeAt (s : State) (p : Nat) (r : Resume) : State :=
  { s with pwr := { s.pwr with resume := fput s.pwr.resume p r } }

/-- The phase is coupled (R52, R61). -/
def coupled (s : State) (p : Nat) : Bool := bit s.pins.coupled.toNat p

/-- The phase is muted for any reason: hard or soft (R211). -/
def phaseMuted (s : State) (p : Nat) : Bool :=
  (hardMute s p).isSome || (fget s.pwr.resume p).isSome || pwrState s != 4 || s.pwr.leaving || s.pwr.watchdogMute ||
    isSet s F.MSY_STATUS_TXMUTE || !cidxOk s || !isSet s F.TXS_CTRL_EN || !coupled s p || !domainOn s (18 + p) ||
    isSet s F.JIR_STATUS_CIDX_CONFLICT || isSet s F.JIR_STATUS_SLOT_MISMATCH || !crcOpen s

/-- Muted by TXF or by undervoltage: device state code 0x22 (R217, R218). -/
def txfMuted (s : State) (p : Nat) : Bool := txf s p || !s.pins.vdrv || !domainOn s (18 + p)

/-- Channels active on a phase; a player's copy, beyond the pairs, holds none (R203, R336). -/
def activeOn (s : State) (p : Nat) : Nat :=
  ((s.jobs.flatMap (·.copies)).filter fun c => c.st == .onAir && c.ch.ph == p && Nat.blt c.ch.pair 256).length

/-! ### Levels (R200 to R203, R208) -/

/-- Table level of R201 for a ceiling of `n` channels, in 0.25 dBµV. -/
def tableLevel (n : Nat) : Nat :=
  if n ≤ 1 then 547 else if n ≤ 2 then 523 else if n ≤ 4 then 504 else if n ≤ 8 then 487 else if n ≤ 16 then 471 else 455

/-- ATT as it acts, 0.25 dB: at most 240. -/
def attWritten (s : State) (p : Nat) : Nat := min 240 (getF s (F.TXS_LVL_ATT p))

/-- NCAP as it acts: 1 to 32 (R203). -/
def ncapWritten (s : State) (p : Nat) : Nat := max 1 (min 32 (getF s (F.TXS_LVL_NCAP p)))

/-- The level in effect in 0.25 dBµV (R202). -/
def levelOf (s : State) (p : Nat) : Nat :=
  let t := txPh s p
  min (min (tableLevel t.ncap - t.att) t.lvlMax) (getF s (F.TXS_REG_MAX_LVL p))

/-- The amplitude word of a level `l` in 0.25 dBµV (R200): the greatest a with a ≤ 131,071 × √2 × 10^(l / 80) × 10^-7. -/
def ampWord (l : Nat) : Nat :=
  let bound := 131071 ^ 80 * 2 ^ 40 * 10 ^ l
  (List.range 18).foldl (fun a i =>
    let b := a + 2 ^ (17 - i)
    if b ^ 80 * 10 ^ 560 ≤ bound then b else a) 0

/-- REG_MAX of 0 forbids the phase (R202). -/
def forbidden (s : State) (p : Nat) : Bool := getF s (F.TXS_REG_MAX_LVL p) == 0

/-- Sorrel may admit one more channel beside `n` on a phase (R195, R203). -/
def roomOn (s : State) (p n : Nat) : Bool :=
  let e := (txPh s p).ncap
  Nat.blt n e && Nat.ble e (ncapWritten s p)

/-- The amplitude word of a phase's channels: that of the level in effect, with VDRV low 2 dB less (R200, R214). -/
def ampTarget (s : State) (p : Nat) : Nat := ampWord (levelOf s p - (if s.pins.vdrvLow then 8 else 0))

/-- The amplitude word follows the level: running channels move to it along a ramp of 256 samples, a phase that sends nothing takes it at
once (R203, R214). -/
def moveAmp (s : State) (p : Nat) : State :=
  let s := countTo s p (dacNow s)
  let t := txPh s p
  let a := ampTarget s p
  if a = t.amp then s
  else if activeOn s p = 0 then setTx s p { t with amp := a, ampPrev := a }
  else post (setTx s p { t with amp := a, ampPrev := ampAt t (dacNow s) / 256, ampFrom := dacNow s }) (.amplitude p a)

/-- A firmware level that waits for the epoch boundary gives way to another: it is reported as discarded (R26, R531). -/
def dropLevel (s : State) (p : Nat) : State :=
  match (txPh s p).attPend with
  | some i => decision s 0 3 true p (txPh s p).att (attWritten s p) i
  | none => s

/-- A write of TXS_LVL_x or TXS_LVL_MAX_x (R203, R208). A new ATT of the host ends what a retry added to the old one (log entry 101). -/
def writeLevel (s : State) (p : Nat) (lvlMax : Bool) (v : Word) : State :=
  if lvlMax then wrN s (R.TXS_LVL_MAX p) (v.toNat % 1024)
  else
    let a := bits v.toNat 9 0
    let n := bits v.toNat 21 16
    let old := getF s (F.TXS_LVL_ATT p)
    let alc := isSet s F.TXS_CTRL_ALC
    let refused := alc && a != old
    let s := if refused || Nat.blt 240 a || n == 0 || Nat.blt 32 n then raise s F.TXS_EVT_CFG_ERR else s
    let s := if !alc && a != old then setTx (dropLevel s p) p { txPh s p with extra := 0, attPend := none } else s
    wrN s (R.TXS_LVL p) ((if alc then old else a) + n * 2 ^ 16)

/-- LEVEL_WRITE (R202, R203, R208). -/
def execLevelWrite (ph : Fin 3) (lvlMax : Bool) (v : Word) (s : State) : Answer :=
  done (access s (if lvlMax then R.TXS_LVL_MAX ph.val else R.TXS_LVL ph.val) fun s => writeLevel s ph.val lvlMax v)

/-- A phase starts again, `extra` above its starting attenuation: with ALC at ATT_START, which the firmware sets, and otherwise at the
host's ATT, which its register keeps (R208, R216). -/
def startPhaseAtt (s : State) (p extra : Nat) : State :=
  let s := dropLevel s p
  let s :=
    if isSet s F.TXS_CTRL_ALC then
      let a := min 240 (getF s F.TXS_ALC_CFG_ATT_START + extra)
      setTx (setF s (F.TXS_LVL_ATT p) a) p { txPh s p with att := a, attPend := none, extra := 0 }
    else let t := txPh s p; setTx s p { t with att := min 240 (t.att - t.extra + extra), attPend := none, extra := extra }
  moveAmp s p

/-- The level changes of an epoch boundary (R203): ATT and LVL_MAX, and NCAP unless a lower one still has too many channels. A
firmware level that takes effect is reported (R26, R531). -/
def applyLevel (s : State) (p : Nat) : State :=
  let t := txPh s p
  let n := ncapWritten s p
  let new := min 240 (attWritten s p + t.extra)
  let s := match t.attPend with
    | some i => if new = t.att then s else decision s 0 3 false p t.att new i
    | none => s
  moveAmp (setTx s p { t with
    att := new, attPend := none, lvlMax := getF s (F.TXS_LVL_MAX_LVL p),
    ncap := if n < t.ncap ∧ activeOn s p > n then t.ncap else n }) p

/-- ATT_I in 0.25 dB: the least n ≥ 0 with 10^(n/80) ≥ 10 V / (|Z| × I_TGT); 240 where that has no bound (R208). -/
def attI (s : State) (z2 : Rat) : Nat :=
  let i : Rat := (getF s F.TXS_ALC_CFG_I_TGT : Rat) / 20
  if z2 = 0 ∨ i = 0 then 240 else
  let r := (100 / (z2 * i * i)) ^ 40
  ((List.range 241).find? fun n => decide (r ≤ (10 : Rat) ^ n)).getD 240

/-- |Z| in 10 mΩ of a squared magnitude, its rounding free. -/
def magOf (s : State) (z2 : Rat) : Nat :=
  let x := z2 * 10000
  let n := x.num.toNat / x.den
  let r := n.sqrt
  if ((r * r : Nat) : Rat) = x then r else r + freeNat s 1

/-- Level adaptation of a phase at an epoch boundary (R208): the new ATT waits for the next one. -/
def adapt (s : State) (p : Nat) (clip : Bool) : State :=
  let t := txPh s p
  let s := setTx s p { t with zMin := none, hotEpoch := t.hot, pdEpoch := false, clipPrev := clip }
  if !isSet s F.TXS_CTRL_ALC || pwrState s != 4 || !coupled s p || s.pwr.watchdog then s else
  let att := t.att
  let req := match t.zMin with
    | some z => attI s z
    | none => att
  let req := if t.pdEpoch then max req (att + 4) else req
  let req := if t.hotEpoch then max req (att + 12) else req
  let req := if clip && t.clipPrev then max req (att + 4) else req
  let new := min 240 (if req > att then req else max req (att - 4))
  let i := match t.zMin with
    | some z => magOf s z
    | none => 0xFFFF_FFFF
  let s := usedFree s
  setTx (setF s (F.TXS_LVL_ATT p) new) p { txPh s p with extra := 0, attPend := if new = att then none else some i }

/-- Count the transmitting time of a phase up to now. -/
def txAccount (s : State) (p : Nat) : State :=
  let t := txPh s p
  match t.onSince with
  | some a =>
    let d := s.mains.elapsed - a
    setTx s p { t with txTime := t.txTime + d, txEp := t.txEp + d, onSince := some s.mains.elapsed }
  | none => s

/-- The limiter's counts up to now (R204 to R206). -/
def limiterCounts (s : State) (p : Nat) : State := countTo (txAccount s p) p (dacNow s)

/-- The clip report of an epoch (R205): more than CLIP_THR clipped samples per 10^6 samples of transmitting time at 4.096 MS/s. -/
def clipReport (s : State) (p : Nat) : Bool × State :=
  let s := txAccount s p
  let t := txPh s p
  let samples := t.txEp * 4096 / 10 ^ 6
  let clip := Nat.blt (getF s F.TXS_LIM_CFG_CLIP_THR * samples) (t.clipEp * 10 ^ 6)
  let s := setTx s p { t with clipEp := 0, txEp := 0 }
  (clip, if clip then raiseBit s R.TXS_EVT (3 + p) else s)

/-- What an epoch boundary does to a phase's level: changes take effect, clipping is reported, the firmware adapts. -/
def levelEpoch (s : State) (p : Nat) : State :=
  let s := applyLevel s p
  let (clip, s) := clipReport s p
  adapt s p clip

/-! ### Impedance (R207) -/

/-- Entry of a pair and tone. -/
def zKey (pair : Nat) (space : Bool) : Nat := pair * 2 + b2n space

/-- A channel of the pair is active on the phase (R207). -/
def pairActive (s : State) (p pair : Nat) : Bool :=
  s.jobs.any fun j => j.copies.any fun c => c.st == .onAir && c.ch == ⟨pair, p⟩

/-- Correlation of samples at 1.024 MS/s with the oscillator of R146 from a phase on, `step` a sample: times 131071, its cosine and sine at full
scale (log entry 34). -/
def correlate (step : Nat) : List Int → Nat → Int × Int
  | [], _ => (0, 0)
  | x :: r, a =>
    let (c, q) := correlate step r ((a + step) % 2 ^ 32)
    (c + x * oscCos a, q - x * oscSin a)

/-- The tone of symbol `k` of a transmission, where the symbol was sent whole on a channel as a 1 or a 0 and has ended; `n` samples at
1.024 MS/s fill it. -/
def symbolTone (s : State) (job : Nat) (ch : Chan) (space : Bool) (k n : Nat) : Option Nat :=
  (findJob s job).bind fun j => j.copies.findSome? fun c => c.sig.bind fun g =>
    let a := g.starts.getD k 0
    let e := g.starts.getD (k + 1) 0
    let last := match g.stop with
      | some (t, _) => min t s.mains.elapsed
      | none => s.mains.elapsed
    if c.ch == ch && g.bits[k]? == some (!space) && decide (a < e ∧ e ≤ (last : Rat)) &&
      decide (((n : Rat) - (e - a) * 1024 / 10 ^ 6) < 1 ∧ ((e - a) * 1024 / 10 ^ 6 - n) < 1)
    then some (if space then g.space else g.mark) else none

/-- IMPEDANCE_UPDATE (R207): a symbol that a transmission has sent whole, with the phase's driver voltage in µV and shunt current in µA
at 1.024 MS/s through it, correlated with the symbol's tone, n × 2^20 of phase a sample (R196): with |I| of at least 5 mA rms, Z = V / I moves
the entry by an eighth; a first value is taken whole (log entry 34). -/
def execImpedanceUpdate (ph : Fin 3) (pair : Byte) (space : Bool) (volt cur : List Int) (job k : Nat) (valid : Bool) (s : State) : Answer :=
  let p := ph.val
  match symbolTone s job ⟨pair.toNat, p⟩ space k cur.length with
  | none => done s
  | some tone =>
  let step := tone * 2 ^ 20
  let (vRe, vIm) := correlate step volt 0
  let (iRe, iIm) := correlate step cur 0
  let i2 := iRe * iRe + iIm * iIm
  if !valid || !domainOn s (18 + p) || volt.length != cur.length || decide (2 * i2 < 25000000 * (cur.length * 131071) ^ 2) then done s else
  let t := txPh s p
  let zr : Rat := ((vRe * iRe + vIm * iIm : Int) : Rat) / i2
  let zi : Rat := ((vIm * iRe - vRe * iIm : Int) : Rat) / i2
  let k := zKey pair.toNat space
  let (er, ei) := match fget t.z k with
    | some (a, b, _) => (a + (zr - a) / 8, b + (zi - b) / 8)
    | none => (zr, zi)
  let m := er * er + ei * ei
  done (setTx s p { t with
    z := fput t.z k (er, ei, cidxNow s),
    zMin := match t.zMin with
      | some o => some (if m < o then m else o)
      | none => some m })

/-- Arctangents of 2^-k in 10^-6 degrees. -/
def atanTable : List Nat :=
  [45000000, 26565051, 14036243, 7125016, 3576334, 1789911, 895174, 447614, 223811, 111906, 55953, 27976, 13988, 6994, 3497,
   1749, 874, 437, 219, 109, 55, 27, 14, 7, 3, 2, 1]

/-- The angle of (x, y), x ≥ 0, by rotations of 2^-k; `x` and `y` scaled up beforehand. -/
def cordic : List Nat → Nat → Int → Int → Int → Int
  | [], _, _, _, a => a
  | d :: r, k, x, y, a =>
    if y = 0 then a
    else if y > 0 then cordic r (k + 1) (x + y / (2 : Int) ^ k) (y - x / (2 : Int) ^ k) (a + d)
    else cordic r (k + 1) (x - y / (2 : Int) ^ k) (y + x / (2 : Int) ^ k) (a - d)

/-- Angle of a complex number in 10^-6 degrees, from −180 to 180. -/
def angleOf (re im : Rat) : Int :=
  let d : Nat := re.den * im.den
  let x := (re * d).num * 2 ^ 40
  let y := (im * d).num * 2 ^ 40
  if x ≥ 0 then cordic atanTable 0 x y 0
  else if y ≥ 0 then 180000000 + cordic atanTable 0 (-x) (-y) 0
  else cordic atanTable 0 (-x) (-y) 0 - 180000000

/-- TXS_Z_IDX is written (R207): TXS_Z_DATA and TXS_Z_AGE show the entry; roundings are free. -/
def selectZ (s : State) (v : Word) : State :=
  let s := wrN s R.TXS_Z_IDX (v.toNat % 2 ^ 11)
  let p := getF s F.TXS_Z_IDX_PHASE
  match fget (txPh s p).z (zKey (getF s F.TXS_Z_IDX_PAIR) (isSet s F.TXS_Z_IDX_TONE)) with
  | none => wrN (wrN s R.TXS_Z_DATA 0) R.TXS_Z_AGE 0
  | some (re, im, age) =>
    let mag := satN 0xFFFF (magOf s (re * re + im * im))
    let s := usedFree s
    let a := angleOf re im
    let a10 : Int := a / 100000 + (if a % 100000 = 0 then 0 else (freeNat s 1 : Int))
    let s := usedFree s
    wrN (wrN s R.TXS_Z_DATA (2 ^ 31 + wrap 12 a10 * 2 ^ 16 + mag)) R.TXS_Z_AGE age

/-- IMPEDANCE_SELECT (R207). -/
def execImpedanceSelect (v : Word) (s : State) : Answer := done (access s R.TXS_Z_IDX fun s => selectZ s v)

/-! ### Protection and recovery (R212 to R216) -/

/-- TW in 0.25 °C: 90 to 125 °C. -/
def twQuarter (s : State) : Int := 4 * (max 90 (min 125 (getF s F.TXS_REC_CFG_TW)) : Nat)

/-- A driver temperature is reported (R213). -/
def noteTemp (s : State) (p : Nat) (temp : BitVec 16) : State :=
  let s := wrN s (R.TXS_TEMP p) temp.toNat
  let hot := decide (twQuarter s ≤ temp.toInt)
  let t := txPh s p
  let s := setTx s p { t with hot := hot, hotEpoch := t.hotEpoch || hot }
  if hot then raise s F.TXS_EVT_THERM_WARN else s

/-- DRIVER_TEMP_WARN (R213). -/
def execDriverTempWarn (ph : Fin 3) (temp : BitVec 16) (s : State) : Answer :=
  if s.pins.inReset then done s else done (noteTemp s ph.val temp)

/-- THERMAL_SHUTDOWN (R213, R215): at 140 °C the phase is hard-muted with cause THERM. -/
def execThermalShutdown (ph : Fin 3) (temp : BitVec 16) (s : State) : Answer :=
  if s.pins.inReset then done s else
  let s := noteTemp s ph.val temp
  if temp.toInt < 560 then done s else done (changeTxf s ph.val fun t => { t with therm := true })

/-- THERMAL_CLEAR (R213, R215): the temperature has stayed below TW for 1 s; the phase resumes at the next slot boundary. -/
def execThermalClear (ph : Fin 3) (temp : BitVec 16) (s : State) : Answer :=
  if s.pins.inReset then done s else
  let s := noteTemp s ph.val temp
  if twQuarter s ≤ temp.toInt || !(txPh s ph.val).therm then done s
  else done (resumeAt (startPhaseAtt (changeTxf s ph.val fun t => { t with therm := false }) ph.val 0) ph.val .slot)

/-- The factor on a phase's pattern output moves to `a` along the ramp of R203 (R214). -/
def movePat (s : State) (p a : Nat) : State :=
  let t := txPh s p
  if a = t.pat then s else setTx s p { t with pat := a, patPrev := patFactor t (dacNow s) / 256, patFrom := dacNow s }

/-- The 2 dB of VDRV_LOW come or go on every phase at once, after the samples sent so far are counted (R205, R214). -/
def setVdrvLow (s : State) (low : Bool) : State :=
  let s := (List.range 3).foldl (fun s p => countTo s p (dacNow s)) s
  let s := { s with pins := { s.pins with vdrvLow := low } }
  (List.range 3).foldl (fun s p => moveAmp (movePat s p (if low then lessDb 8 else 2 ^ 24)) p) s

/-- VDRV_LOW (R214): VDRV falls below 12.0 V; 2 dB of attenuation at once. A device in reset reports nothing (R37). -/
def execVdrvLow (s : State) : Answer :=
  done (setVdrvLow (if s.pins.inReset then s else raise s F.TXS_EVT_VDRV_LOW) true)

/-- VDRV_LOW_CLEAR (R214): VDRV rises above 12.2 V. -/
def execVdrvLowClear (s : State) : Answer := done (setVdrvLow s false)

/-- RETRY_T in ns; 0 acts as 1. -/
def retryNs (s : State) : Nat := max 1 (getF s F.TXS_REC_CFG_RETRY_T) * 10 ^ 9

/-- OC_AUTO_RETRY (R208, R216): the first epoch boundary after RETRY_T with retries left. The phase is back in service, so its fault
history is cleared (R77). -/
def execOcAutoRetry (ph : Fin 3) (s : State) : Answer :=
  let p := ph.val
  let t := txPh s p
  let left := getF s (F.TXS_TXF_RETRY_LEFT p)
  if !t.oc || left == 0 || !cidxOk s || cidxNow s % 256 != 0 || !(t.ocAt.any fun a => Nat.ble (a + retryNs s) s.mains.elapsed) then done s
  else
    let s := clearHist (changeTxf s p fun t => { t with oc := false, ocAt := none, txTime := 0 }) 6 p
    let s := raise (setF s (F.TXS_TXF_RETRY_LEFT p) (left - 1)) F.TXS_EVT_REC
    done (startPhaseAtt s p 24)

/-- RETRY_RELOAD (R216): 3,600 s of transmitting with no lasting overcurrent. -/
def execRetryReload (ph : Fin 3) (s : State) : Answer :=
  let s := txAccount s ph.val
  let t := txPh s ph.val
  if t.oc || Nat.blt t.txTime (3600 * 10 ^ 9) then done s
  else done (setF (setTx s ph.val { t with txTime := 0 }) (F.TXS_TXF_RETRY_LEFT ph.val) (getF s F.TXS_REC_CFG_RETRY))

/-- TXS_TXF_x is written (R216): CLR clears OC and PG, reloads RETRY_LEFT and lets the phase resume at the next epoch boundary;
a driver that failed is switched on again (log entry 35). -/
def writeTxf (s : State) (p : Nat) (v : Word) : State :=
  let t := txPh s p
  if !bit v.toNat 8 then s
  else if !t.oc && !t.pg && txf s p then raise s F.TXS_EVT_CFG_ERR
  else
    let s := setF s (F.TXS_TXF_RETRY_LEFT p) (getF s F.TXS_REC_CFG_RETRY)
    if !t.oc && !t.pg then s
    else
      let s := changeTxf s p fun t => { t with oc := false, pg := false, ocAt := none, txTime := 0 }
      let s := if t.pg then setF (setF s (F.PWR_DOM_PG_FAIL (18 + p)) 0) (F.PWR_DOM_REQ (18 + p)) 1 else s
      resumeAt (startPhaseAtt (if t.oc then clearHist s 6 p else s) p 0) p .epoch

/-- TXF_CLEAR (R215, R216). -/
def execTxfClear (ph : Fin 3) (v : Word) (s : State) : Answer := done (access s (R.TXS_TXF ph.val) fun s => writeTxf s ph.val v)

end Sys2Proof.Machine
end

