-- ==== Sys2Proof/Machine/Jiroth.lean ====
section
/-! DEFINITION. The Jiroth ring: lanes and segments, positions, timing, boundaries, events, breaks (R487 to R496). ROUTE packets are
in Mesh.lean, CRC errors in Faults.lean. -/

namespace Sys2Proof.Machine

def updJir (s : State) (f : Jir → Jir) : State := { s with jir := f s.jir }

/-- The device is the timing master. -/
def jirMaster (s : State) : Bool := isSet s F.JIR_CTRL_MASTER

/-- A packet arrives on a segment in service. -/
def jirRx (s : State) : Bool := jirOn s && isSet s F.JIR_STATUS_SEG_IN_OK

/-- Another device's packet goes on to the next (R488). -/
def forward (s : State) (type src : Nat) (content : List Nat) : State := post s (.jiroth type src none content)

/-- The incoming segment fails: a BREAK packet goes downstream (R487, R488). -/
def failSegment (s : State) : State :=
  let s := updJir s fun j => { j with failed := true }
  let s := setF (setF s F.JIR_STATUS_SEG_IN_OK 0) F.JIR_STATUS_LANE_LOCK 0
  let s := raise s F.JIR_EVT_SEG_FAIL
  if jirOn s then sendPacket s 6 [jirPos s] else s

/-- JIROTH_LANE_LOCK (R77, R487, R489): when both lanes are locked the segment is in service, its lanes' fault history is cleared, and a
master enumerates the ring. -/
def execJirothLaneLock (lane : Fin 2) (s : State) : Answer :=
  if !jirOn s || s.jir.failed then done s else
  let s := setF s F.JIR_STATUS_LANE_LOCK (setBits (getF s F.JIR_STATUS_LANE_LOCK) lane.val lane.val 1)
  if getF s F.JIR_STATUS_LANE_LOCK = 3 ∧ !isSet s F.JIR_STATUS_SEG_IN_OK then
    let s := clearHist (clearHist (raise s F.JIR_STATUS_SEG_IN_OK) 5 0) 5 1
    done (if jirMaster s then sendPacket (setF s F.JIR_STATUS_POS 0) 1 [0] else s)
  else done s

/-- JIROTH_SEGMENT_FAIL (R487, R496). -/
def execJirothSegmentFail (s : State) : Answer := if jirOn s then done (failSegment s) else done s

/-- JIR_CMD.RETRAIN: the lanes train anew (R487). -/
def jirRetrain (s : State) : State :=
  setF (setF (updJir s fun j => { j with failed := false }) F.JIR_STATUS_SEG_IN_OK 0) F.JIR_STATUS_LANE_LOCK 0

/-- JIROTH_RETRAIN (R487). -/
def execJirothRetrain (s : State) : Answer := done (access s R.JIR_CMD jirRetrain)

/-- JIROTH_ENUM (R489): a follower takes the next position and passes the packet on; at the master the counter has gone round and gives
NDEV. -/
def execJirothEnum (src counter : Nat) (s : State) : Answer :=
  if !jirRx s then done s
  else if jirMaster s then
    let s := setF s F.JIR_STATUS_NDEV ((counter + 1) % 16)
    done (setB s F.JIR_STATUS_OVERSIZE (Nat.blt 16 (counter + 1)))
  else
    let s := setF s F.JIR_STATUS_POS ((counter + 1) % 16)
    done (forward (updJir s fun j => { j with twoMasters := false }) 1 src [counter + 1])

/-- The index or the slot size disagrees with the master's: muted, and commands that need transmission are refused (R493, R497). -/
def jirConflict (s : State) : Bool := isSet s F.JIR_STATUS_CIDX_CONFLICT || isSet s F.JIR_STATUS_SLOT_MISMATCH

/-- Compare the index of the master's boundary with the own index of the boundary nearest to it (R493). -/
def checkMasterIndex (s : State) (cidx zcts : Nat) : State :=
  let d := ((zcts : Int) - s.mains.zc).natAbs
  if cidxOk s ∧ 4 * d < holdPeriod s ∧ cidxNow s ≠ cidx then endWaiting (raise s F.JIR_STATUS_CIDX_CONFLICT) 0x40 else s

/-- The offset of a boundary of the master's index to the master's own, where it is not itself predicted from the master (R492). -/
def measureOffset (s : State) (cidx zcts : Nat) : State :=
  if cidxOk s ∧ cidxNow s = cidx ∧ isSet s F.MSY_STATUS_HOLD = false then
    updJir s fun j => { j with offset := (s.mains.zc : Int) + s.mains.stepped - zcts }
  else s

/-- A follower's own boundary may come after the packet that names the master's boundary: it is compared then (R492, R493). -/
def judgeBoundary (s : State) : State :=
  if !jirOn s || jirMaster s || s.jir.twoMasters then s else
  match s.jir.timing with
  | some (c, t) => checkMasterIndex (measureOffset s c t) c t
  | none => s

/-- A follower aligns its timebase to the master's TIMING packet (R490); how it steers MSY_TB_ADJ is free. -/
def jirAlign (s : State) (dep arr : Nat) : State :=
  let e : Int := (dep : Int) + bits (rdN s R.JIR_CDLY) 15 0 + 1600 - arr
  let s := wrN s R.JIR_TB_ERR (wrap 32 e)
  let first := !s.jir.aligned
  let good := if e.natAbs ≤ 1000 then satN 8 (s.jir.good + 1) else 0
  let s := updJir s fun j => { j with aligned := true, good := good }
  let s := if good ≥ 8 then raise s F.JIR_STATUS_TLOCK else s
  let s := if first && decide (e.natAbs > 10000000) then stepTimebase s (e / 10)
    else updMains s fun m => { m with pps := { m.pps with slew := e * 2 ^ 32 / 10 } }
  steerAdj s

/-- JIROTH_TIMING (R489 to R494). A master judges its own packet when it returns, or finds another master; a follower aligns,
checks slot size and index, keeps the master's boundary and a swap announcement, and forwards the packet. -/
def execJirothTiming (src : Nat) (cidx : Word) (zcts : BitVec 64) (slotC : BitVec 2) (dep arr resid : Nat)
    (swap : Option (Word × Word)) (s : State) : Answer :=
  -- the packet goes on with its departure field rewritten
  let fwd := fun (s : State) => post s (.jiroth 2 src (some (dep + bits (rdN s R.JIR_CDLY) 15 0 + 1600 + resid))
    ([cidx.toNat, zcts.toNat, slotC.toNat] ++ (match swap with | some (e, c) => [e.toNat, c.toNat] | none => [])))
  if !jirRx s then done s
  else if jirMaster s then
    if src ≠ jirPos s then done (fwd (raise s F.JIR_EVT_MASTER_CONFLICT))
    else
      let s := wrN s R.JIR_LOOP (arr - s.jir.depart)
      let e : Int := (dep : Int) + bits (rdN s R.JIR_CDLY) 15 0 + 1600 - arr
      done (setB s F.JIR_STATUS_LOOP_ERR (decide (e.natAbs > 200)))
  else
    let s := if src ≠ 0 then updJir s fun j => { j with twoMasters := true } else s
    if s.jir.twoMasters then done (fwd s) else
    let s := jirAlign s dep arr
    let s := updJir s fun j => { j with
      timing := some (cidx.toNat, zcts.toNat),
      swap := match swap with
        | some (e, c) => some (e.toNat, c.toNat)
        | none => j.swap }
    let s := checkMasterIndex (measureOffset s cidx.toNat zcts.toNat) cidx.toNat zcts.toNat
    let s := if slotC.toNat = getF s F.MAC_SLOT_CFG_SLOT_C then setF s F.JIR_STATUS_SLOT_MISMATCH 0
      else endWaiting (raise s F.JIR_STATUS_SLOT_MISMATCH) 0x40
    done (fwd s)

/-- JIROTH_TIMING_LOST (R490): three packets in a row are missing; the follower holds its last rate. -/
def execJirothTimingLost (s : State) : Answer :=
  done (setF (updJir s fun j => { j with good := 0 }) F.JIR_STATUS_TLOCK 0)

/-- JIROTH_BOUNDARY (R488, R491, R493). -/
def execJirothBoundary (src : Nat) (cidx : Word) (zcts : BitVec 64) (s : State) : Answer :=
  if !jirRx s || src == jirPos s then done s else
  let s := updJir s fun j => { j with bound := some (cidx.toNat, zcts.toNat, s.mains.elapsed) }
  let s := if src = 0 ∧ !jirMaster s ∧ !s.jir.twoMasters then checkMasterIndex s cidx.toNat zcts.toNat else s
  done (forward s 3 src [cidx.toNat, zcts.toNat])

/-- JIROTH_EVENT (R488, R495): the device fires its JIR trigger source with the packet's time and forwards the packet. -/
def execJirothEvent (src : Nat) (num : Fin 16) (time : BitVec 64) (s : State) : Answer :=
  if !jirRx s || src == jirPos s then done s
  else done (forward (trigger s (matchJir num.val) time.toNat) 4 src [num.val, time.toNat])

/-- JIROTH_BREAK (R487, R488, R496). -/
def execJirothBreak (pos : Nat) (s : State) : Answer :=
  if !jirRx s || pos == jirPos s then done s else done (forward (raise s F.JIR_EVT_BREAK) 6 pos [pos])

end Sys2Proof.Machine
end

