-- ==== Sys2Proof/Machine/Nvs.lean ====
section
/-! DEFINITION. The non-volatile store: banks and rows, the commit protocol, allowance, retirement, triplicated records (R447 to
R458). What a finished write means to its client is in StoreDone.lean. -/

namespace Sys2Proof.Machine

def nbank (s : State) (b : Nat) : Bank := fgetD s.nvs.banks b {}

def setNbank (s : State) (b : Nat) (x : Bank) : State := { s with nvs := { s.nvs with banks := fput s.nvs.banks b x } }

/-- The store answers requests: its scan is complete (R451). -/
def nvsReady (s : State) : Bool := isSet s F.NVS_STATUS_READY && domainOn s 14

/-- CRC of a commit field: that of R173 over the 64 data bytes and bytes 0 to 5 of the field (R449). -/
def rowCrc (data : List Byte) (seq lidx mark : Nat) : Nat :=
  crc16 (bitsOfBytes (slice data 0 64 ++ toLE 6 (seq % 2 ^ 40 + lidx % 64 * 2 ^ 40 + mark * 2 ^ 46)))

/-- A row as it is programmed (R449). -/
def mkRow (data : List Byte) (seq lidx : Nat) : Row := { data := data, seq := seq, lidx := lidx, mark := 2, crc := rowCrc data seq lidx 2 }

/-- The commit field is one: MARK is 0b10 and the CRC holds (R449). -/
def Row.committed (r : Row) : Bool := r.mark == 2 && r.crc == rowCrc r.data r.seq r.lidx r.mark

/-- The newest commit of a logical row: greatest SEQ (R451). -/
def liveRow (x : Bank) (lidx : Nat) : Option (Nat × Row) :=
  x.rows.foldl (fun best e => if e.2.lidx = lidx ∧ e.2.committed ∧ best.all (fun b => Nat.blt b.2.seq e.2.seq) then some e else best) none

/-- A logical row; one never written reads as 64 zero bytes (R448). -/
def readRow (s : State) (b l : Nat) : List Byte :=
  match liveRow (nbank s b) l with
  | some e => slice e.2.data 0 64
  | none => List.replicate 64 0

/-! ### Where records lie (R448) -/

/-- Copies of the marks of an address: block and row, and byte offset within the row. -/
def hwmCopies (a : Nat) : List (Nat × Nat) := (List.range 3).map fun k => (1024 + 256 * k + a / 1024, a % 1024 / 16)
def hwmOff (a : Nat) : Nat := 4 * (a % 16)

/-- Copies of a persistent key slot. -/
def keyCopies (slot : Nat) : List (Nat × Nat) := (List.range 3).map fun k => (1792 + 16 * k + slot / 64, slot % 64)

/-- Copies of a row of the system records. Rows: 0 boot policy, 1 attestation record, 2 boot count, 3 R_BRX marks (log entry
30). -/
def sysCopies (row : Nat) : List (Nat × Nat) := (List.range 3).map fun k => (1840 + k, row)

/-- The value that at least two of three copies hold (R456); an absent copy holds none. -/
def majority (l : List (Option (List Byte))) : Option (List Byte) :=
  match l with
  | [a, b, c] => if a.isSome ∧ (a = b ∨ a = c) then a else if b = c then b else none
  | _ => none

/-- A logical row cannot be corrected (R447). -/
def rowBad (s : State) (b l : Nat) : Bool := (liveRow (nbank s b) l).any fun e => e.2.bad

/-- Part of a record, from each copy; one with an uncorrectable row counts as absent (R456). -/
def readCopies (s : State) (copies : List (Nat × Nat)) (off n : Nat) : List (Option (List Byte)) :=
  copies.map fun (b, l) => if rowBad s b l then none else some (slice (readRow s b l) off n)

/-! ### Writing (R450, R453) -/

/-- The first free physical index from `i` on, with wrap. -/
def freeIdx (x : Bank) (i : Nat) : Nat := ((List.range 128).map (fun k => (i + k) % 128)).find? (fun k => (fget x.rows k).isNone) |>.getD 0

/-- Program the shadow row and its commit field (R450 steps 1 to 3). -/
def programRow (x : Bank) (lidx : Nat) (data : List Byte) : Bank :=
  let i := freeIdx x x.ptr
  { x with rows := fput x.rows i (mkRow data (x.seq + 1) lidx), seq := x.seq + 1, ptr := (i + 1) % 128, writes := x.writes + 1 }

/-- Commit a logical row: the old row is erased, the shadow row programmed (R450). -/
def commitRow (x : Bank) (lidx : Nat) (data : List Byte) : Bank :=
  { programRow x lidx data with
    rows := fput (x.rows.filter fun e => !(e.2.lidx == lidx)) (freeIdx x x.ptr) (mkRow data (x.seq + 1) lidx) }

/-- A supply collapse in step 3: the data are programmed and the commit field is torn, so that its CRC fails; which CRC is left is free
(R451). -/
def tearRow (x : Bank) (lidx : Nat) (data : List Byte) (free : Nat) : Bank :=
  let r := mkRow data (x.seq + 1) lidx
  { x with rows := fput x.rows (freeIdx x x.ptr) { r with crc := (r.crc + 1 + free % 65535) % 65536 } }

/-- What the scan at power-up leaves of a bank: the newest commit of each logical row (R451). DESIGN CHOICE (log entry 30): a row without
a commit is erased too. -/
def scanBank (x : Bank) : Bank := { x with rows := x.rows.filter fun e => (liveRow x e.2.lidx).any fun l => l.1 == e.1 }

/-- Writes a bank has allowance for: 10 per second, burst of 16 (R453). -/
def tokens (s : State) (x : Bank) : Nat := min 16 (x.left + (s.mains.elapsed - x.refill) / 10 ^ 8)

/-- Take one write of a bank's allowance. -/
def takeToken (s : State) (b : Nat) : State :=
  let x := nbank s b
  let t := tokens s x
  setNbank s b { x with
    left := t - 1,
    refill := if t = 16 then s.mains.elapsed else x.refill + (s.mains.elapsed - x.refill) / 10 ^ 8 * 10 ^ 8 }

/-- The next copy of a write may begin: the store is ready and the power has not failed, or the write has begun (R458), and its
bank has allowance, which rewrites inside the store do not need (R452). -/
def mayStart (s : State) (w : NvsWrite) : Bool :=
  nvsReady s && (!s.pins.pfwLow || Nat.blt 0 w.tried) &&
    match w.copies with
    | [] => true
    | (b, _) :: _ => w.free || s.pins.pfwLow || Nat.blt 0 (tokens s (nbank s b))

/-- Begin the next write that may start, when none is in progress; a write held back by its bank's allowance is counted once
(R453). -/
def startWrites (s : State) : State :=
  if s.nvs.queue.any (·.started) then s else
  let held := s.nvs.queue.filter fun w => nvsReady s && !s.pins.pfwLow && !w.waited && !mayStart s w
  let s := bump s R.NVS_WAIT_CNT held.length
  let mark := fun (w : NvsWrite) => if nvsReady s && !s.pins.pfwLow && !mayStart s w then { w with waited := true } else w
  let q := s.nvs.queue.map mark
  match q.findIdx? (mayStart s) with
  | none => { s with nvs := { s.nvs with queue := q } }
  | some i =>
    let s := { s with nvs := { s.nvs with queue := q.modify i fun w => { w with started := true } } }
    match q[i]? with
    | some w => if w.free then s else
      match w.copies with
      | (b, _) :: _ => takeToken s b
      | [] => s
    | none => s

/-- Put a write in the queue. -/
def queueWrite (s : State) (w : NvsWrite) : State := startWrites { s with nvs := { s.nvs with queue := s.nvs.queue ++ [w] } }

/-- The row's new content: the parts of the record put into the row, over zeros where the row cannot be corrected (log entry 30). -/
def mergeRow (s : State) (b l off : Nat) (data : List Byte) : List Byte :=
  let old := if rowBad s b l then List.replicate 64 0 else readRow s b l
  old.take off ++ data ++ old.drop (off + data.length)

/-- Write part of a record in its copies. -/
def writeRecord (s : State) (copies : List (Nat × Nat)) (off : Nat) (data : List Byte) (c : NvsClient) : State :=
  queueWrite s { copies := copies, data := data, off := off, client := c }

/-- Spare rows left (R454). -/
def spareRows (s : State) : Nat := 5120 - s.nvs.retired.length

/-- A row of a bank must be retired (R454, R455): a spare replaces it, or the bank becomes read-only. -/
def retireRow (s : State) (row : Nat) : State :=
  let b := row / 128
  if (nbank s b).ro then s
  else if spareRows s = 0 then raise (setNbank s b { nbank s b with ro := true }) F.NVS_EVT_RO
  else
    let s := { s with nvs := { s.nvs with retired := s.nvs.retired ++ [row] } }
    let s := raise (bump s R.NVS_RETIRE_CNT) F.NVS_EVT_RETIRE
    if spareRows s ≤ 256 then raise s F.NVS_EVT_SPARE_LOW else s

/-- Fault source 1 is lasting for a row (R454): its content is first written to a new row, and the row retired then. -/
def retireWorn (s : State) (row : Nat) : State :=
  let b := row / 128
  match (fget (nbank s b).rows (row % 128)).filter fun r => (liveRow (nbank s b) r.lidx).any fun e => e.1 == row % 128 with
  | some r => queueWrite s { copies := [(b, r.lidx)], data := slice r.data 0 64, client := .retire row }
  | none => retireRow s row

/-- The write in progress. -/
def runningWrite (s : State) : Option (Nat × NvsWrite) :=
  match s.nvs.queue.findIdx? (·.started) with
  | some i => (s.nvs.queue[i]?).map fun w => (i, w)
  | none => none

/-- A write ends well when its copy, or at least two of three, were committed (R456). -/
def writeOk (w : NvsWrite) : Bool := if w.tried = 1 then w.ok == 1 else Nat.ble 2 w.ok

/-- One row write ends (R450, R455): committed, retried on the next free row after a failed verify, or refused by a read-only
bank. Answers the write when all its copies have been attempted. -/
def rowDone (s : State) (verified : Bool) : State × Option NvsWrite :=
  match runningWrite s with
  | none => (s, none)
  | some (i, w) =>
    match w.copies with
    | [] => ({ s with nvs := { s.nvs with queue := s.nvs.queue.eraseIdx i } }, some w)
    | (b, l) :: rest =>
      let x := nbank s b
      let next := fun (s : State) (ok : Nat) =>
        let w := { w with copies := rest, tried := w.tried + 1, ok := w.ok + ok, started := false, waited := false }
        if rest = [] then (startWrites { s with nvs := { s.nvs with queue := s.nvs.queue.eraseIdx i } }, some w)
        else (startWrites { s with nvs := { s.nvs with queue := s.nvs.queue.modify i fun _ => w } }, none)
      if x.ro then next s 0
      else if !verified then
        (retireRow (setNbank s b { x with ptr := (freeIdx x x.ptr + 1) % 128 }) (b * 128 + freeIdx x x.ptr), none)
      else
        let s := bump (setNbank s b (commitRow x l (mergeRow s b l w.off w.data))) R.NVS_WR_CNT
        next s 1

/-- A reset takes the store's supply or clock: the row write in progress ends as far as it had come (free, R450, R451): not begun, torn in
step 3, committed without step 4, or whole. What waited is gone; allowances start anew. -/
def dropWrites (s : State) : State :=
  let s := match runningWrite s with
    | some (_, w) =>
      match w.copies with
      | (b, l) :: _ =>
        let s' := usedFree s
        let x := nbank s b
        let d := mergeRow s b l w.off w.data
        if x.ro then s' else
        match freeNat s 32 % 4 with
        | 0 => s'
        | 1 => setNbank s' b (tearRow x l d (freeNat s 32 / 4))
        | 2 => setNbank s' b (programRow x l d)
        | _ => setNbank s' b (commitRow x l d)
      | [] => s
    | none => s
  { s with nvs := { s.nvs with
      queue := [], waits := [], banks := s.nvs.banks.map fun (k, x) => (k, { x with left := 16, refill := s.mains.elapsed }) } }

/-- Rewrite the copies of a record that are absent or differ from its value (R456); each one advances NVS_TRIP_CNT. -/
def repairCopies (s : State) (copies : List (Nat × Nat)) (off : Nat) (v : List Byte) : State :=
  copies.foldl (fun s (b, l) =>
    if readCopies s [(b, l)] off v.length = [some v] ∨ (nbank s b).ro then s
    else bump (queueWrite s { copies := [(b, l)], data := v, off := off }) R.NVS_TRIP_CNT) s

/-- Read part of a triplicated record, repairing what differs; `lost` resolves it when no two copies agree, with TRIP_LOST
(R456, R457). -/
def readTriple (s : State) (copies : List (Nat × Nat)) (off n : Nat) (lost : List (List Byte) → Option (List Byte)) :
    Option (List Byte) × State :=
  let l := readCopies s copies off n
  match majority l with
  | some v => (some v, repairCopies s copies off v)
  | none =>
    let s := raise s F.NVS_EVT_TRIP_LOST
    match lost (l.filterMap id) with
    | some v => (some v, repairCopies s copies off v)
    | none => (none, s)

/-- The largest of the values of a field among the copies. -/
def maxField (l : List (List Byte)) (lo n : Nat) : Nat := (l.map fun x => leAt x lo n).foldl max 0

/-- Marks that disagree (R457): the largest R_TX increased by 1 and the largest R_RX. -/
def resolveHwm (l : List (List Byte)) : Option (List Byte) :=
  some (toLE 2 (satN 0xFFFF (maxField l 0 2 + 1)) ++ toLE 2 (maxField l 2 2))

/-- R_TX and R_RX of an address (R409); index 0 is the broadcast key. R_TX lies in the low half (log entry 30). -/
def readHwm (s : State) (a : Nat) : (Nat × Nat) × State :=
  let (v, s) := readTriple s (hwmCopies a) (hwmOff a) 4 resolveHwm
  let v := v.getD []
  ((leAt v 0 2, leAt v 2 2), s)

/-- R_BRX of a source (R409). -/
def readBrx (s : State) (n : Nat) : Nat × State :=
  let (v, s) := readTriple s (sysCopies 3) (2 * n) 2 fun l => some (toLE 2 (maxField l 0 2))
  (leNat (v.getD []), s)

/-- NVS_ROTATION_REWRITE (R452): after 4,096 writes to a bank, its live row of lowest SEQ is rewritten outside the allowance. -/
def execNvsRotationRewrite (b : Fin 2048) (s : State) : Answer :=
  let x := nbank s b.val
  if x.writes < 4096 then done s else
  let s := setNbank s b.val { x with writes := x.writes - 4096 }
  match (scanBank x).rows.foldl (fun (best : Option Row) e => if best.all (fun r => Nat.blt e.2.seq r.seq) then some e.2 else best) none with
  | some r => done (queueWrite s { copies := [(b.val, r.lidx)], data := slice r.data 0 64, free := true })
  | none => done s

/-- NVS_ALLOWANCE_RESUME (R453): a bank has allowance again, so a write that waits for it may begin. -/
def execNvsAllowanceResume (_b : Fin 2048) (s : State) : Answer := done (startWrites s)

end Sys2Proof.Machine
end

