-- ==== Sys2Proof/Machine/Faults.lean ====
section
/-! DEFINITION. Fault windows and the fault log, the barrier lanes, overcurrent and Jiroth CRC errors, uncorrectable words, the
watchdogs, and the clock monitors' source loss (R14 to R17, R27, R44, R45, R75 to R79, R511, R515 to R517). -/

namespace Sys2Proof.Machine

/-! ### Commands that end with FAULT -/

/-- Commands that need the line: those that wait for it or use it (R17, R27). -/
def lineCmds (s : State) : List Cmd := s.cmds.filter fun c => c.st == .waiting || c.st == .onLine

/-- Complete with FAULT the commands that need the line, but those whose frame is on the air: a hard mute completes them. -/
def faultLine (s : State) (detail : Nat) (onAirToo : Bool) : State :=
  (lineCmds s).foldl (fun s c =>
    let js := cmdJobs s c.uid
    if !onAirToo && js.any (fun j => j.copies.any fun k => k.st == .onAir) then s else
    complete (freePlayer (withdrawUnbegun s c.uid) c.uid) c St.fault detail 0) s

/-! ### The high-voltage side and the barrier lanes -/

def blane (s : State) (l : Nat) : BLane := fgetD s.blanes l {}

def setBlane (s : State) (l : Nat) (x : BLane) : State := { s with blanes := fput s.blanes l x }

/-- Barrier lanes in lasting fault. -/
def lostLanes (s : State) : List Nat := (List.range 6).filter fun l => (blane s l).lasting

/-- LOS is raised at once on every enabled input (R230). -/
def losAll (s : State) : State :=
  (List.range 4).foldl (fun s i => if isSet s (F.RXF_CTRL_EN i) then raiseDefect s Def.los (.input i) else s) s

/-- The high-voltage side is lost (R17): muted with TXF on every phase, LOS on every input, LOMS and hold-over; commands that need
the line end with FAULT. -/
def loseHv (s : State) : State :=
  if s.rel.hvLost then s else
  let before := (List.range 3).filter fun p => !txf s p
  let s := { s with rel := { s.rel with hvLost := true } }
  let s := before.foldl (fun s p => raiseBit (reportRaise s Def.txf (.phase p)) R.TXS_EVT p) s
  let s := losAll (enterHoldover s)
  faultLine s Det.barrier false

/-- A lane is dropped (R16): the first leads to a five-lane map, the second to the loss of the high-voltage side. Answers the
action code of the fault log. -/
def dropLane (s : State) (l : Nat) : State × Nat :=
  let others := (lostLanes s).filter fun k => k != l
  let s := setBlane s l { blane s l with lasting := true, locked := false }
  if others = [] then (s, 4) else (loseHv s, 5)

/-! ### Fault windows (R75 to R79) -/



/-- N, T in ms and DIV of a source; the defaults while the GLB group is in its safe action (R507). -/
def faultCfg (s : State) (src : Nat) : Nat × Nat × Nat :=
  let cnt := if inSafe s 14 then (resetValue (R.REL_CNT src)).toNat else rdN s (R.REL_CNT src)
  let win := if inSafe s 14 then (resetValue (R.REL_WIN src)).toNat else rdN s (R.REL_WIN src)
  (bits cnt 7 0, win, bits cnt 9 8)



/-- Source 0 tracks 64 pages; a new page takes the place of the one whose latest event is oldest (R76). -/
def trackPage (s : State) (page : Nat) : State :=
  let l := s.rel.pages.filter fun p => p != page
  let old := l.drop 63
  let s := old.foldl (fun s p => clearHist s 0 p) s
  { s with rel := { s.rel with pages := page :: l.take 63 } }

/-- Retire a DRAM page (R78): action 1, or 2 when no spare is left. -/
def retirePage (s : State) (page : Nat) : State × Nat :=
  let n := getF s F.REL_DRAM_SPARE_SPARE
  if n = 0 then (raise s F.GLB_FAULT_SUM_DRAM_SPARE_OUT, 2)
  else
    let s := setF s F.REL_DRAM_SPARE_SPARE (n - 1)
    ({ s with rel := { s.rel with retired := s.rel.retired ++ [page], pages := s.rel.pages.filter fun p => p != page } }, 1)

/-- Hold the block of a parity bit in its safe action (R80, R81). -/
def holdBlock (s : State) (b : Nat) : State :=
  { s with par := { s.par with acts := s.par.acts.map fun a => if a.block = b then { a with held := true, leaving := false } else a } }

/-- The link is retrained, or drops to two lanes at a second lasting fault within 3,600,000 ms (R76, R79). -/
def retrainLink (s : State) : State × Nat :=
  let again := s.rel.lastLink.any fun t => Nat.ble (tbNow s) (t + 3600000 * 10 ^ 6)
  let s := { s with rel := { s.rel with lastLink := some (tbNow s) } }
  if again then ({ s with pcie := { s.pcie with twoLanes := true } }, 8) else (s, 7)

/-- A lasting overcurrent raises TXF with cause OC (R212, R215, R216). -/
def lastingOc (s : State) (p : Nat) : State :=
  changeTxf s p fun t => { t with oc := true, ocAt := some s.mains.elapsed, txTime := 0 }

/-- The lasting action of a source on an item, with its action code (R76). -/
def lastingAction (s : State) (src item : Nat) : State × Nat :=
  match src with
  | 0 => retirePage s item
  | 1 => (retireWorn s item, 3)
  | 2 => dropLane s item
  | 3 => (holdBlock s item, 6)
  | 4 => retrainLink s
  | 5 => (failSegment s, 9)
  | _ => (lastingOc s item, 0xA)

/-- Write one entry of the fault log (R515, R517). -/
def faultLog (s : State) (src item : Nat) (lasting : Bool) (action count : Nat) : State :=
  let e := getF s F.REL_LOG_STAT_NEXT
  let t := tbNow s
  let w : List Word := [BitVec.ofNat 32 t, BitVec.ofNat 32 (t / 2 ^ 32), BitVec.ofNat 32 (if cidxOk s then cidxNow s else 0),
    BitVec.ofNat 32 (2 ^ 31 + 2 ^ 30 * b2n lasting + src * 2 ^ 24 + item % 2 ^ 24),
    BitVec.ofNat 32 (action * 2 ^ 24 + satN 255 count * 2 ^ 16)]
  let s := { s with rel := { s.rel with log := fput s.rel.log e w } }
  bumpF (setF s F.REL_LOG_STAT_NEXT ((e + 1) % 64)) F.REL_LOG_STAT_TOTAL

/-- The lasting action is taken: history cleared, GLB_FAULT_SUM.LAST, REL_ITEM, the log and the event (R77, R517). -/
def takeLasting (s : State) (src item count : Nat) : State :=
  let (s, act) := lastingAction (clearHist s src item) src item
  let s := setF s F.GLB_FAULT_SUM_LAST (setBits (getF s F.GLB_FAULT_SUM_LAST) src src 1)
  let s := wrN s (R.REL_ITEM src) (2 ^ 31 + item % 2 ^ 24)
  let s := faultLog s src item true act count
  eventNow s 0 0x0002 0 ([BitVec.ofNat 8 src] ++ toLE 4 (item % 2 ^ 24) ++ [BitVec.ofNat 8 act])

/-- The item of a source is in range: lanes 0 to 5, parity bits 0 to 14, the one link, Jiroth lanes 0 and 1, phases 0 to 2, rows of
the store (R515). -/
def faultItemOk (src item : Nat) : Bool :=
  match src with
  | 0 => Nat.blt item (2 ^ 24)
  | 1 => Nat.blt item 262144
  | 2 => Nat.blt item 6
  | 3 => Nat.blt item 15
  | 4 => item == 0
  | 5 => Nat.blt item 2
  | 6 => Nat.blt item 3
  | _ => false

/-- One raw event of a source (R75, R516): every 2^DIV of them make one counted event. -/
def faultRaw (s : State) (src item : Nat) : State :=
  if !faultItemOk src item then s else
  let (n, t, div) := faultCfg s src
  let s := bump s (R.REL_TOT src)
  let s := if src = 1 then bump s R.NVS_CORR_CNT else s
  let k := faultKey src item
  let h := fgetD s.rel.hist k {}
  if h.raw + 1 < 2 ^ div then setHist s k { h with raw := h.raw + 1 } else
  let now := tbNow s
  let times := (now :: h.times.filter fun x => Nat.ble now (x + t * 10 ^ 6)).take (max n 1)
  let s := setHist s k { times := times, raw := 0 }
  let s := if src = 0 then trackPage s item else s
  if Nat.ble n times.length then takeLasting s src item times.length
  else faultLog s src item false 0 times.length

/-- FAULT_EVENT (R75 to R79, R515 to R517). -/
def execFaultEvent (source : Fin 7) (item : BitVec 24) (s : State) : Answer :=
  if s.pins.inReset then done s else done (faultRaw s source.val item.toNat)

/-- End what used an uncorrectable word for command `uid` (R78, R311, R327, R337). -/
def uncorrectable (s : State) (uid : Nat) : State :=
  let s1 := endStreams s (fun x => x.uid == uid && x.st != .idle) 8 (some (St.fault, Det.dram))
  let s2 := stopPlayers s1 (fun _ x => x.uid == uid) St.fault Det.dram
  let s3 := match findCmd s2 uid with
    | some c => complete s2 c St.fault Det.dram 0
    | none => s2
  match findCmd s uid with
  | some c => if 0x40 ≤ D.op c ∧ D.op c ≤ 0x46 then raise (bump s3 R.YAR_UNCORR_CNT) F.YAR_EVT_UNCORR else s3
  | none => s3

/-- An uncorrectable word is a lasting fault of its page at once (R78). -/
def lastingPage (s : State) (page : Nat) : State :=
  let s := trackPage (bump s (R.REL_TOT 0)) page
  takeLasting s 0 page ((fgetD s.rel.hist (faultKey 0 page) {}).times.length + 1)

/-- The 4 KiB page of the DRAM that holds a word, 18 bytes each: the capture region first, the pattern region after it (R305, R310). -/
def pageOf (s : State) (w : Nat) : Nat :=
  (if w < patBase then 18 * w else getF s F.YAR_REGION_CAP * 2 ^ 26 + 18 * (w - patBase)) / 4096

/-- What the players' reads found is counted: a corrected word on fault source 0, one that cannot be corrected as a lasting fault of its page
(R75, R78, R311). -/
def patReport (s : State) : State :=
  if s.players.all fun e => e.2.reads == [] then s else
  s.players.foldl (fun s (p, x) => x.reads.foldl (fun s (w, bad) =>
    let page := pageOf s (patBase + w)
    if bad then lastingPage s page else faultRaw s 0 page) (setPlayer s p { player s p with reads := [] })) s

/-- PLAYER_ENTRY_END (R334, R337): every item of the entry has been played; the list runs on. -/
def execPlayerEntryEnd (p : Fin 7) (s : State) : Answer :=
  let x := player s p.val
  if x.st ≠ .playing then done s else
  let e := patWord s (x.list + x.entry)
  let s := fetchItems s p.val (entryItems e)
  if (player s p.val).st ≠ .playing then done (patReport s) else
  let s := entryAt s p.val (x.since + entryItems e)
  let so := x.pass * Ent.count e + x.item
  let x := { player s p.val with played := x.played + (entryItems e - so), entry := x.entry + 1, last := lastPair s e x.last }
  done (patReport (runEntries 65536 (setPlayer s p.val x) p.val))

/-- PLAYER_ALIGN_RESUME (R334): the cycle boundary an ALIGN entry waits for has come. -/
def execPlayerAlignResume (p : Fin 7) (s : State) : Answer :=
  let x := player s p.val
  if x.st = .waiting ∧ x.align then done (patReport (runEntries 65536 (entryAt s p.val (dacNow s)) p.val)) else done s

/-- What time brings to Yarrow: the players fetch up to 256 items ahead, and CIDX triggers fire (R321, R337). -/
def yarrowTime (s : State) : State :=
  let s := if s.players = [] then s else patReport ((List.range 7).foldl (fun s p => fetchItems s p 256) s)
  if s.streams = [] then s else (List.range 16).foldl cidxFire s

/-- Read `n` words from `w` on, in host form with CORR (R311, R313): a corrected word is counted against its page and written back; the
reading ends (true) at one that cannot be corrected. -/
def readWords : Nat → Nat → State → List Byte → State × List Byte × Bool
  | 0, _, s, l => (s, l, false)
  | n + 1, w, s, l =>
    match readStored (fgetD s.dram w 0) with
    | none => (lastingPage s (pageOf s w), l, true)
    | some (d, c) =>
      let s := if c then faultRaw { s with dram := fputD s.dram w 0 (storeWord d) } 0 (pageOf s w) else s
      readWords n (w + 1) s (l ++ toLE 16 (d + 2 ^ 126 * b2n c))

/-- CAP_READ (R311, R313, R356, R391): the words of the range that lie in the capture share are written to the buffer, up to one that cannot
be corrected. -/
def execCapRead (uid : Nat) (s : State) : Answer :=
  done (withCmd s uid 0x43 fun s c =>
    let w := D.at c 24 8
    let n := D.len c / 16
    let sh := capShare s c.fn
    if !hasGrant s c.fn then notOwned s c
    else if getF s F.YAR_REGION_CAP == 0 then wrongState s c 0x2C
    else if !(Nat.ble sh.1 w && Nat.blt w (sh.1 + sh.2)) then notOwned s c
    else if !isSet s F.YAR_STATUS_REGION_OK then wrongState s c 0x2C
    else
      let k := min n (sh.1 + sh.2 - w)
      let (s, data, bad) := readWords k w s []
      let s := post s (.hostWrite c.fn (D.buf c) data)
      if bad then complete (raise (bump s R.YAR_UNCORR_CNT) F.YAR_EVT_UNCORR) c St.fault Det.dram data.length
      else complete s c (if k = n then St.done else St.donePartial) 0 data.length)

/-- Clear every history of a source (R77, R516). -/
def clearSource (s : State) (src : Nat) : State :=
  let s := { s with rel := { s.rel with hist := s.rel.hist.filter fun e => !(e.1 / 2 ^ 24 == src) } }
  if src = 0 then { s with rel := { s.rel with pages := [] } } else s

/-- REL_CNTn or REL_WINn is written (R76, R77, R516): N = 0 and T = 0 are stored as 1. -/
def writeRel (s : State) (src : Nat) (win : Bool) (v : Word) : State :=
  let s := if win then wrN s (R.REL_WIN src) (max 1 v.toNat)
    else wrN s (R.REL_CNT src) (max 1 (bits v.toNat 7 0) + bits v.toNat 9 8 * 256)
  clearSource s src

/-- REL_CONFIG_WRITE (R76, R77, R516). -/
def execRelConfigWrite (source : Fin 7) (win : Bool) (v : Word) (s : State) : Answer :=
  done (access s (if win then R.REL_WIN source.val else R.REL_CNT source.val) fun s => writeRel s source.val win v)

/-- REL_LOGe_0 is read: words 1 to 4 of the entry are snapshot (R517). -/
def readLog (s : State) (e : Nat) : State :=
  let w := fgetD s.rel.log e []
  { s with rel := { s.rel with snap := fput s.rel.snap e w }, readData := w.headD 0 }

/-- REL_LOG_READ (R517). -/
def execRelLogRead (entry : Fin 64) (s : State) : Answer := done (readAccess s (R.REL_LOG entry.val 0) fun s => readLog s entry.val)

/-! ### Barrier lanes (R15, R44, R45) -/

/-- LANE_COMMA_LOCK (R44, R72 step 3): 64 consecutive valid characters; the receivers are enabled with the timekeeping clock. -/
def execLaneCommaLock (lane : Fin 6) (s : State) : Answer :=
  let x := blane s lane.val
  if !domainOn s 17 || !s.mains.running || x.lasting then done s else done (setBlane s lane.val { x with locked := true })

/-- A lane is in lasting fault without a count of its window (R44, R73): it did not lock in 100 µs from HVCORE's power good and the
enabling of the receivers. -/
def execLaneLockTimeout (lane : Fin 6) (s : State) : Answer :=
  let x := blane s lane.val
  if !domainOn s 17 || !s.mains.running || x.locked || x.lasting then done s
  else done (takeLasting s 2 lane.val (satN 255 (fgetD s.rel.hist (faultKey 2 lane.val) {}).times.length))

/-- What R15 does with the traffic of a packet that failed its CRC: DAC samples go out as zero, control words are sent again; receive
and sense samples come as marked ones with their own commands. -/
def lostPacket (s : State) (l samples : Nat) (control : Bool) : State :=
  let s := if l ≥ 3 ∧ samples ≠ 0 then post s (.dacZero l samples) else s
  if control then post (setBlane s l { blane s l with resend := (blane s l).resend + 1 }) (.resend l 1) else s

/-- LANE_PACKET_CRC_ERROR (R15, R43). -/
def execLanePacketCrcError (lane : Fin 6) (samples : Nat) (control : Bool) (s : State) : Answer :=
  if !(blane s lane.val).locked then done s
  else done (faultRaw (lostPacket s lane.val samples control) 2 lane.val)

/-- LANE_INVALID_CHARACTER (R45): the packet being received is discarded and counts as one that failed its CRC (R15). What it carried is
free: up to 14 DAC samples of 18 bits in 32 bytes, and a control word or none (log entry 85). The next comma comes before any later
packet of the lane. -/
def execLaneInvalidCharacter (lane : Fin 6) (s : State) : Answer :=
  if !(blane s lane.val).locked then done s
  else done (faultRaw (usedFree (lostPacket s lane.val (freeNat s 8 % 15) (Nat.ble 1 (freeNat s 8 / 16 % 2)))) 2 lane.val)

/-! ### Overcurrent, Jiroth CRC errors, watchdogs -/

/-- ILIM in mA: 0.50 A to 2.00 A in steps of 50 mA (R212). -/
def ilimMa (s : State) (p : Nat) : Nat := 50 * max 10 (min 40 (getF s (F.TXS_ILIM_ILIM p)))

/-- OVERCURRENT_EXCEED (R212): the first time in a cycle, the output falls by 6 dB and one event is counted. -/
def execOvercurrentExceed (ph : Fin 3) (mA : Nat) (s : State) : Answer :=
  let p := ph.val
  let t := txPh s p
  if t.cut6 || Nat.ble mA (ilimMa s p) || !domainOn s (18 + p) then done s
  else done (faultRaw (bump (setTx s p { t with cut6 := true }) (R.TXS_OC_CNT p)) 6 p)

/-- JIROTH_PACKET_CRC_ERROR (R488): the packet is dropped and counted; its source sends it again. -/
def execJirothPacketCrcError (lane : Fin 2) (s : State) : Answer :=
  if !jirRx s then done s else done (faultRaw (bump s (R.JIR_CRC_CNT lane.val)) 5 lane.val)

/-- WATCHDOG_EXPIRY (R27): muted at the next slot boundary; commands that need the scheduler end with FAULT. -/
def execWatchdogExpiry (core : Fin 4) (s : State) : Answer :=
  if !domainOn s (if core.val < 2 then 4 else 5) then done s else
  let s := raise { s with pwr := { s.pwr with watchdog := true } } F.GLB_FAULT_SUM_WATCHDOG
  let s := eventNow s 0 0x0008 0 [BitVec.ofNat 8 core.val]
  done (faultLine s Det.watchdog true)

end Sys2Proof.Machine
end

