-- ==== Sys2Proof/Machine/LaneOps.lean ====
section
/-! DEFINITION. A Campion lane as other blocks see it: its configuration fields, its release, its entry into SEARCH (R156, R158, R162,
R220, R258). -/

namespace Sys2Proof.Machine

/-! ### Fields of the lane table (Table: CMP_LW0 to CMP_LW3) -/

def Lane.own (x : Lane) : Nat := bits x.w0.toNat 31 30
def Lane.autoRs (x : Lane) : Bool := bit x.w0.toNat 29
def Lane.mCode (x : Lane) : Nat := bits x.w0.toNat 28 26
def Lane.cmb (x : Lane) : Nat := bits x.w0.toNat 25 24
def Lane.pair (x : Lane) : Nat := bits x.w0.toNat 23 16
/-- Input codes of IN0 to IN2. -/
def Lane.ins (x : Lane) : List Nat := [bits x.w0.toNat 3 0, bits x.w0.toNat 7 4, bits x.w0.toNat 11 8]
def Lane.ofsCfg (x : Lane) : Nat := bits x.w1.toNat 30 0
def Lane.trkN (x : Lane) : Nat := max 1 (bits x.w2.toNat 31 28)
def Lane.lostN (x : Lane) : Nat := max 1 (bits x.w2.toNat 27 24)
def Lane.dropThr (x : Lane) : Nat := bits x.w2.toNat 23 16
def Lane.detN (x : Lane) : Nat := max 1 (bits x.w2.toNat 11 8)
def Lane.detThr (x : Lane) : Nat := bits x.w2.toNat 7 0
def Lane.sw (x : Lane) : Nat := bits x.w3.toNat 31 16
def Lane.qshift (x : Lane) : Nat := bits x.w3.toNat 10 8

/-- M of its code: 24, 48, 96, 192, 384 (R152). -/
def mOf (code : Nat) : Nat := 24 * 2 ^ code

/-- Phase-word counts of an eighth of a symbol (R152). -/
def eighthOf (code : Nat) : Nat := 2 ^ (23 - code)

/-- Phase-word counts of a symbol. -/
def symbolOf (code : Nat) : Nat := 8 * eighthOf code

/-! ### Release and SEARCH -/

/-- s of R159 for one input of a lane. -/
def sRatio (x : Lane) (i : Nat) : F32 :=
  let sh := F32.ofWord (x.sHat.getD i 0)
  let nh := F32.ofWord (x.nHat.getD i 0)
  if sh.zero then .fin 0 0 else if nh.zero then F32.ofInt 1024 else F32.min (sh.div nh) (F32.ofInt 1024)

/-- Binary digits of log2 of `m`, 1 ≤ m < 2 in units of 2^-64, most significant first. -/
def log2Frac : Nat → Nat → Nat → Nat
  | 0, _, acc => acc
  | n + 1, m, acc =>
    let q := m * m / 2 ^ 64
    if 2 ^ 65 ≤ q then log2Frac n (q / 2) (2 * acc + 1) else log2Frac n q (2 * acc)

/-- 10 log10 of a positive ratio in units of 2^-16 dB, up to its last place, whose rounding is not given (log entry 26). -/
def dbFine (r : Rat) : Int :=
  let n : Nat := r.num.natAbs * 2 ^ 128 / r.den
  let e : Nat := n.log2
  let m := n * 2 ^ 64 / 2 ^ e
  let l2 : Int := ((e : Int) - 128) * (2 ^ 40 : Nat) + (log2Frac 40 m 0 : Nat)
  -- 10 log10 2 in units of 2^-60
  l2 * 3470639555327098207 / (2 ^ 84 : Nat) + b2n (Config.roundUp 43 r.num r.den)

/-- The measure of a reception in 2^-16 dB (R190); of a sum of 0 the logarithm is not stated: free. -/
def laneSnr (s : State) (x : Lane) : Int × State :=
  let r : Rat := ((List.range 3).map fun i => (sRatio x i).rat).foldl (· + ·) 0
  if r ≤ 0 then (sext 24 (freeNat s 24), usedFree s) else (dbFine r, s)

/-- The frame in reception goes to the decoder as it stands (R220). -/
def endReception (s : State) (l : Nat) : State :=
  let x := lane s l
  match x.rx with
  | none => s
  | some f =>
    let (snr, s) := laneSnr s x
    let r : Recep := { lane := l, isStatic := x.own == 2, prof := bits x.cfg.toNat 11 8, m := x.mCode, use := x.use, snr := snr, rx := f }
    { setLane s l { x with rx := none } with recs := s.recs ++ [r] }

/-- Inputs of a lane that name an input: positions of IN0 to IN2. -/
def Lane.used (x : Lane) : List Nat := (List.range 3).filter fun i => Nat.ble 1 (x.ins.getD i 0) && Nat.ble (x.ins.getD i 0) 4

/-- Mean of a lane's noise estimates (R258). -/
def Lane.noise (x : Lane) : Word :=
  ((x.used.foldl (fun (t : F32) i => t.add (F32.ofWord (x.nHat.getD i 0))) (F32.fin 0 0)).div (F32.ofInt x.used.length)).toWord

/-- The noise of a scheduler lane is kept for the next lane on its channel (R258). -/
def keepNoise (s : State) (x : Lane) : State :=
  if x.own ≠ 1 ∨ x.ph = 3 ∨ x.st = .off ∨ x.used = [] then s
  else { s with sor := { s.sor with noise := fput s.sor.noise (x.pair * 4 + x.ph) (x.noise, cidxNow s) } }

/-- A lane goes OFF: what it held of a run is dropped, LOL, LOF and PLM clear, and a pending withdrawal takes effect (R162, R230). -/
def offLane (s : State) (l : Nat) : State :=
  let s := endReception ([2, 3, 4].foldl (fun s c => clearDefect s c (.lane l)) s) l
  let s := if (lane s l).st = .off then s else pmPartial s l
  let x := lane s l
  let s := keepNoise s x
  let x := { x with
    st := .off, apply := none, slots := [], periods := 0, qs := [], diffs := [], tFlag := false, lost := 0,
    safe := false, fst := .idle, rx := none, hist := [], use := none, ph := 3, oof := 0, miss := 0, passing := 0,
    since := 0, expect := 0, plmRun := 0 }
  match x.withdraw with
  | some o => evalConflicts (setLane s l { x with w0 := BitVec.ofNat 32 (o * 2 ^ 30), withdraw := none })
  | none => setLane s l x

/-- Enter SEARCH (R156), the framer IDLE; in the CMP safe action the lane does not detect (R163). The noise estimates stay as they are, but for a lane that was still measuring them: they are
seeded at its start only (R158). -/
def searchLane (s : State) (l : Nat) : State :=
  let s := endReception s l
  let x := lane s l
  setLane s l { x with
    st := .search, nHat := if x.seeding then [0, 0, 0] else x.nHat, sHat := [0, 0, 0], safe := inSafeAt s 3 l,
    periods := 0, qs := [], diffs := [], lost := 0, delivered := 0, blk := 0, lateDue := false, eEarly := 0, eOn := 0, eLate := 0,
    fst := .idle, hist := [], oof := 0, since := 0, expect := 0,
    slots := x.slots.map fun t => { t with ended := none, skip := false } }

end Sys2Proof.Machine
end

