-- ==== Sys2Proof/Machine/Guard.lean ====
section
/-! DEFINITION. What guards configuration: parity with shadow copies and safe actions, the CRC over the covered sets, the locks (R80 to
R88, R380, R435, R505 to R507, R514). -/

namespace Sys2Proof.Machine

/-! ### Parity (R80, R81, R507, R514) -/

/-- Block and instance of a parity-covered register; a lane table entry is 0x10000 + lane, entry p of tone-pair bank b is 0x11000 + 256 b +
p, and tap t of coefficient bank b of input i is 0x12000 + 1024 i + 512 b + t; instance 0xFFFF is the whole block (R80, R129, R167, R499,
R507). -/
def parityOf (off : Nat) : Option (Nat × Nat) :=
  if off ≥ 0x10000 then
    (if off < 0x10100 then some (3, off - 0x10000)
     else if 0x11000 ≤ off ∧ off < 0x11200 then some (3, 0xFFFF)
     else if 0x12000 ≤ off ∧ off < 0x13000 then some (1, (off - 0x12000) / 1024) else none)
  else if off ≥ 0x8000 then some (11, (off - 0x8000) / 0x1000)
  else if off = R.GLB_FAULT_MASK ∨ off = R.ATT_BPOL0 ∨ off = R.ATT_BPOL1 ∨ (0x6400 ≤ off ∧ off < 0x6470 ∧ off % 16 < 8)
    then some (14, 0)
  else match off / 0x400 with
  | 0x03 => some (0, 0)
  | 0x04 => some (1, (off - 0x1000) / 0x100 % 4)
  | 0x05 => some (1, (off - 0x1000) / 0x100 % 4)
  | 0x06 => some (2, (off - 0x1800) / 0x40 % 4)
  | 0x07 => some (3, 0xFFFF)
  | 0x08 => some (4, 0)
  | 0x09 => some (6, 0)
  | 0x0A => some (5, 0)
  | 0x0B => some (7, 0)
  | 0x0C => some (8, 0)
  | 0x0D => some (10, 0)
  | 0x0E => some (11, 0xFFFF)
  | 0x0F => some (9, 0)
  | 0x10 => some (12, 0)
  | 0x18 => some (13, 0)
  | _ => none

/-- A lane enters the CMP safe action (R163): it stops and, from TRACK, delivers erased decisions. One that is OFF has nothing to stop. -/
def safeLane (s : State) (l : Nat) : State :=
  let x := lane s l
  if x.st = .off then s else setLane s l { x with safe := true }

/-- The commands whose public-key operation has not begun end (R425, SEC_CTRL.EN); the one that runs goes on. -/
def failQueued (s : State) (f : State → Cmd → State) : State :=
  (s.sec.pkq.filterMap fun o => findCmd s o.uid).foldl f { s with sec := { s.sec with pkq := [] } }

/-- What begins with a block's safe action (R80, R163, R187, R327, R337, R507). -/
def beginSafe (s : State) (b i : Nat) : State :=
  match b with
  | 0 => enterHoldover s
  | 3 => raise (if i = 0xFFFF then s.lanes.foldl (fun s e => safeLane s e.1) s else safeLane s i) F.CMP_EVT_SAFE
  | 4 => { s with retain := [] }
  | 10 => stopPlayers (endStreams s (fun x => x.st != .idle) 8 (some (St.fault, Det.parity))) (fun _ _ => true) St.fault Det.parity
  | 12 => failQueued s fun s c => complete s c St.fault Det.parity 0
  | 14 => faultLine s Det.parity false
  | _ => s

/-- A lane leaves the CMP safe action, unless another instance of it still holds (R163): to SEARCH when it is static with AUTO_RS, else OFF. -/
def unsafeLane (s : State) (l : Nat) : State :=
  let x := lane s l
  if !x.safe || inSafeAt s 3 l then s else
  if x.own = 2 && x.autoRs then searchLane s l else offLane s l

/-- A block instance enters its safe action; the parity bit is set (R80, R514). -/
def enterSafe (s : State) (b i : Nat) (shadowOk : Bool) : State :=
  let old := s.par.acts.find? fun a => a.block == b && a.inst == i
  let act : SafeAct := match old with
    | some a => { a with leaving := shadowOk && !a.held, held := a.held || !shadowOk }
    | none => { block := b, inst := i, leaving := shadowOk, held := !shadowOk }
  let s := { s with par := { s.par with acts := (s.par.acts.filter fun a => !(a.block == b && a.inst == i)) ++ [act] } }
  let s := raiseBit s R.GLB_CFG_PARITY b
  if old.isSome then s else beginSafe s b i

/-- Decimation factor D: 4, or 2 in the five-lane map (R119). -/
def decim (s : State) (i : Nat) : Nat := if isSet s (F.RXF_STATUS_DEC2 i) then 2 else 4

/-- Tap count of the filter in use (R127, R128). -/
def firTaps (s : State) (i : Nat) : Nat :=
  if isSet s (F.RXF_STATUS_ROMF i) then (if isSet s (F.RXF_STATUS_DEC2 i) then 128 else 256)
  else 4 * getF s (F.RXF_FIR_CFG_NTAP4 i (getF s (F.RXF_STATUS_ACT_BANK i)))

/-- The delay line of an input is cleared, and ceil(N / D) outputs carry the front mark (R124). -/
def settleInput (s : State) (i : Nat) : State :=
  let n := cdiv (firTaps s i) (decim s i)
  setB (setRx s i { rxIn s i with line := [], phase := 0, settle := n }) (F.RXF_STATUS_SETTLING i) (n != 0)

/-- A block instance leaves its safe action; the bit clears with the last one, and the block's fault history with it (R77, R81, R514). An
enabled input that leaves settles anew (R124). -/
def leaveSafe (s : State) (a : SafeAct) : State :=
  let s := { s with par := { s.par with acts := s.par.acts.filter fun x => !(x.block == a.block && x.inst == a.inst) } }
  let s := if inSafe s a.block then s
    else clearHist (wrN s R.GLB_CFG_PARITY (setBits (rdN s R.GLB_CFG_PARITY) a.block a.block 0)) 3 a.block
  if a.block = 3 then (if a.inst = 0xFFFF then s.lanes.foldl (fun s e => unsafeLane s e.1) s else unsafeLane s a.inst)
  else if a.block = 1 && isSet s (F.RXF_CTRL_EN a.inst) then settleInput s a.inst else s

/-- Leave the safe actions whose restore or rewriting is complete (R81). -/
def leaveDue (s : State) : State := (s.par.acts.filter (·.leaving)).foldl leaveSafe s

/-- Main copies that fail in an instance. -/
def badIn (l : List Nat) (b i : Nat) : List Nat := l.filter fun o => parityOf o == some (b, i)

/-- The findings for one instance, at a use or in the sweep (R80, R81): safe action, one event on source 3, each register whose shadow is
good restored; the block leaves by itself where every one was. DESIGN CHOICE (log entry 86): a register both of whose copies fail goes on
reading as it was last written. -/
def sweepInst (s : State) (b i : Nat) : State :=
  let main := badIn s.par.mainBad b i
  if main = [] then s else
  let ok := main.all fun o => !s.par.shadowBad.contains o
  let s := enterSafe s b i ok
  let s := { s with par := { s.par with
    mainBad := s.par.mainBad.filter fun o => parityOf o != some (b, i) || s.par.shadowBad.contains o } }
  let s := faultRaw s 3 b
  if cidxOk s then s else leaveDue s

/-- The instances that have a failing main copy. -/
def badInsts (l : List Nat) : List (Nat × Nat) := (l.filterMap parityOf).dedup

/-- PARITY_SWEEP (R80, R81, R163, R507, R513): the offsets whose main copy, and whose shadow copy, were found failing, whether in the sweep
or when the block used the register: no other command upsets a copy, so what a use would find is what this command reports. -/
def execParitySweep (mainBad shadowBad : List Nat) (s : State) : Answer :=
  if s.pins.inReset then done s else
  let cov := fun (l : List Nat) => l.filter fun o => (parityOf o).isSome
  let s := { s with par := { s.par with
      mainBad := (s.par.mainBad ++ cov mainBad).dedup, shadowBad := (s.par.shadowBad ++ cov shadowBad).dedup } }
  done ((badInsts mainBad).foldl (fun s (b, i) => sweepInst s b i) s)

/-- GLB_CFG_PARITY is written (R81, R514): a block whose main copies all pass leaves at the next epoch boundary, or at once. -/
def writeCfgParity (s : State) (v : Word) : State :=
  let ok := fun (a : SafeAct) => bit v.toNat a.block && bit (rdN s R.GLB_CFG_PARITY) a.block &&
    !(s.par.mainBad.any fun o => (parityOf o).any fun x => x.1 == a.block)
  let s := { s with par := { s.par with
      acts := s.par.acts.map fun a => if ok a && !a.leaving then { a with leaving := true, held := false } else a } }
  if cidxOk s then s else leaveDue s

/-- GLB_CFG_PARITY_WRITE (R514). -/
def execGlbCfgParityWrite (v : Word) (s : State) : Answer := done (access s R.GLB_CFG_PARITY fun s => writeCfgParity s v)

/-! ### Configuration CRC (R82 to R85, R505, R506) -/

/-- The registers of a set in pass order (R505). -/
def setRegs (n : Nat) : List Nat :=
  match n with
  | 0 => [0x2448, 0x244C, 0x2488, 0x248C, 0x24C8, 0x24CC] ++ (List.range 8).flatMap fun k => [0x2D00 + 16 * k, 0x2D04 + 16 * k, 0x2D08 + 16 * k]
  | 1 => 0x3C00 :: (List.range 128).map fun k => 0x3C40 + 4 * k
  | 2 => [R.SEC_KPOL, R.SEC_BCAST]
  | _ => [R.ATT_BPOL0, R.ATT_BPOL1]

/-- The CRC-32 of a set (R82). -/
def setCrc (s : State) (n : Nat) : Nat := crc32Reflected ((setRegs n).flatMap fun o => toLE 4 (rdN s o))

/-- Bit `n` of a field of per-set bits. -/
def setSetBit (s : State) (f : Fld) (n : Nat) (b : Bool) : State := setF s f (setBits (getF s f) n n (b2n b))

/-- A pass does not match (R85, R382). -/
def crcMismatch (s : State) (n : Nat) : State :=
  let s := setSetBit s F.GLB_CRC_STAT_OK2 n false
  raise { s with crc := { s.crc with
      run := fdel s.crc.run n, mute := true, tenBad := s.crc.tenBad || n == 1 } } F.GLB_FAULT_SUM_CFG_CRC

/-- A pass matches (R84, R85, R382). -/
def crcMatch (s : State) (n : Nat) : State :=
  let r := satN 2 (fgetD s.crc.run n 0 + 1)
  let s := { s with crc := { s.crc with
      run := fput s.crc.run n r,
      matched := BitVec.ofNat 4 (setBits s.crc.matched.toNat n n 1),
      tenBad := s.crc.tenBad && !(n == 1 && r == 2) } }
  setSetBit s F.GLB_CRC_STAT_OK2 n (r == 2)

/-- CRC_PASS (R82 to R85, R382, R506): a pass over a set completes. -/
def crcPass (s : State) (n : Nat) : State :=
  let c := setCrc s n
  let s := wrN s (R.GLB_CRC_CUR n) c
  let ok := committed s n && c == rdN s (R.GLB_CRC_REF n)
  let s := setSetBit s F.GLB_CRC_STAT_MATCH n ok
  if !committed s n then s else if ok then crcMatch s n else crcMismatch s n

def execCrcPass (set : Fin 4) (s : State) : Answer :=
  if s.pins.inReset then done s else done (crcPass s set.val)

/-- A write is refused by a lock (R7, R88). -/
def lockViolation (s : State) (fn off : Nat) : State :=
  let s := bumpF (raise s F.GLB_FAULT_SUM_LOCK_VIOLATION) F.GLB_LOCKV_CNT_COUNT
  setF (setF s F.GLB_LOCKV_LOG_FUNC fn) F.GLB_LOCKV_LOG_OFFSET off

/-- GLB_CRC_REFn is written (R7, R83, R506): the first write commits the reference. -/
def writeCrcRef (s : State) (n : Nat) (v : Word) : State :=
  if committed s n then lockViolation s 0 (R.GLB_CRC_REF n)
  else setSetBit (wr s (R.GLB_CRC_REF n) v) F.GLB_CRC_STAT_COMMITTED n true

/-- GLB_CRC_REF_WRITE (R83, R506). -/
def execGlbCrcRefWrite (set : Fin 4) (v : Word) (s : State) : Answer :=
  done (access s (R.GLB_CRC_REF set.val) fun s => writeCrcRef s set.val v)

/-! ### Locks (R86, R380, R435) -/

/-- The stored boot policy: ATT_BPOL0 and ATT_BPOL1 (log entry 30). -/
def policyBytes (a b : Nat) : List Byte := toLE 4 a ++ toLE 4 b

/-- GLB_LOCK.BOOT is set (R435): the policy, tightened by what is stored, goes to the store unless it is there. -/
def storePolicy (s : State) : State :=
  let (v, s) := readTriple s (sysCopies 0) 0 8 fun _ => none
  let stored := v.getD (List.replicate 8 0)
  let a := rdN s R.ATT_BPOL0
  let b := rdN s R.ATT_BPOL1
  let f := F.ATT_BPOL0_FW_SVN_MIN
  let x := F.ATT_BPOL0_X_SVN_MIN
  let fw := max (bits a f.hi f.lo) (bits (leAt stored 0 4) f.hi f.lo)
  let xs := max (bits a x.hi x.lo) (bits (leAt stored 0 4) x.hi x.lo)
  let new := policyBytes (setBits (setBits a f.hi f.lo fw) x.hi x.lo xs) (Nat.lor b (leAt stored 4 4))
  if new = stored then s else writeRecord s (sysCopies 0) 0 new .bootPolicy

/-- GLB_LOCK is written: bits are set and stay (R86); TEN validates the partition table, BOOT stores the boot policy. -/
def writeLock (s : State) (v : Word) : State :=
  let old := rdN s R.GLB_LOCK
  let new := Nat.lor old (v.toNat % 16)
  let s := wrN s R.GLB_LOCK new
  let s := if bit new 1 && !bit old 1 then validateTable s else s
  if bit new 3 && !bit old 3 then storePolicy s else s

/-- GLB_LOCK_WRITE (R86, R87, R380, R435). -/
def execGlbLockWrite (v : Word) (s : State) : Answer := done (access s R.GLB_LOCK fun s => writeLock s v)

end Sys2Proof.Machine
end

