-- ==== Sys2Proof/Machine/Lanes.lean ====
section
/-! DEFINITION. The Campion lanes up to the decision: tone pairs, starting and releasing, the correlators, detection, tracking and
the soft decision (R145 to R168). What a decision does is in Framer.lean. -/

namespace Sys2Proof.Machine

/-! ### Tone pairs (R148 to R151) -/

/-- Entry of a bank. -/
def tone (s : State) (b p : Nat) : Nat := (fgetD s.tones (b * 256 + p) 0).toNat

def Tone.valid (e : Nat) : Bool := bit e 31
def Tone.mmax (e : Nat) : Nat := bits e 24 22
def Tone.space (e : Nat) : Nat := bits e 21 11
def Tone.mark (e : Nat) : Nat := bits e 10 0

/-- Spacing of a pair on the 250 Hz grid. -/
def Tone.spacing (e : Nat) : Nat := ((Tone.mark e : Int) - Tone.space e).natAbs

/-- No bank is in use (R150). -/
def noTones (s : State) : Bool := isSet s F.CMP_TP_STATUS_NONE

/-- Bank in use. -/
def toneBank (s : State) : Nat := getF s F.CMP_TP_STATUS_ACT_BANK

/-- The entry of a pair in the bank in use. -/
def activeTone (s : State) (p : Nat) : Nat := tone s (toneBank s) p

/-- A write to bank `b` is refused: in use, or the target of a pending swap (R148). -/
def toneBusy (s : State) (b : Nat) : Bool :=
  (!noTones s && toneBank s == b) || (isSet s F.CMP_TP_STATUS_SWAP_PEND && s.toneSwap == b)

/-- Store an entry in a bank. -/
def putTone (s : State) (b p : Nat) (v : Word) : State :=
  rewritten { s with tones := fputD s.tones (b * 256 + p) 0 (v &&& 0x81FF_FFFF#32) } (0x11000 + b * 256 + p)

/-- CMP_TP_DATA is written: one entry is stored and PAIR advances (R148). DESIGN CHOICE (log entry 91): R148 does not say whether PAIR
advances on a write that is discarded; it does not. -/
def writeTone (s : State) (v : Word) : State :=
  let b := getF s F.CMP_TP_IDX_BANK
  let p := getF s F.CMP_TP_IDX_PAIR
  if toneBusy s b then raise s F.CMP_EVT_CFG_ERR
  else setF (putTone s b p v) F.CMP_TP_IDX_PAIR (p + 1)

/-- TONE_PAIR_WRITE (R148). -/
def execTonePairWrite (v : Word) (s : State) : Answer := done (access s R.CMP_TP_DATA fun s => writeTone s v)

/-- An entry fails the check of its bank (R149). -/
def toneBad (flim e : Nat) : Bool :=
  Tone.valid e && (!(Nat.ble 12 (Tone.mark e) && Nat.ble (Tone.mark e) 2000 && Nat.ble 12 (Tone.space e) && Nat.ble (Tone.space e) 2000)
    || Tone.mark e == Tone.space e || Nat.blt 4 (Tone.mmax e) || Nat.blt (Tone.spacing e * 1000) (mOf (Tone.mmax e) * flim))

/-- The accepted swap takes effect (R149). -/
def toneSwapEffect (s : State) : State :=
  if !isSet s F.CMP_TP_STATUS_SWAP_PEND then s else
  setF (setF (setF s F.CMP_TP_STATUS_SWAP_PEND 0) F.CMP_TP_STATUS_NONE 0) F.CMP_TP_STATUS_ACT_BANK s.toneSwap

/-- CRC-32 over a tone-pair bank (R494). -/
def toneCrc (s : State) (b : Nat) : Nat := crc32Reflected ((List.range 256).flatMap fun p => toLE 4 (tone s b p))

/-- On the master of a ring, an accepted swap is announced with its epoch boundary, the first at least 1 ms after it was accepted
(R494). -/
def announceSwap (s : State) (b : Nat) : State :=
  if !(isSet s F.JIR_CTRL_EN && isSet s F.JIR_CTRL_MASTER) then s else
  let e := (cidxNow s / 256 + 1) * 256
  let far := decide (((s.mains.zc : Int) + s.mains.stepped : Int) + cycleNs s * ((e - cidxNow s : Nat) : Rat) ≥ (tbNow s + 10 ^ 6 : Nat))
  { s with jir := { s.jir with swap := some ((if far then e else e + 256) % 2 ^ 32, toneCrc s b) } }

/-- CMP_TP_SWAP is written (R149); a follower with Jiroth timing locked takes no swap of its own (R494). DESIGN CHOICE (log entry 95): an
accepted swap clears BAD and BAD_PAIR, which R149 only says to set. -/
def swapTones (s : State) (v : Word) : State :=
  let b := bits v.toNat 1 1
  if !bit v.toNat 0 then s else
  let flim := getF s (F.CMP_TP_CFG_FLIM b)
  if isSet s F.CMP_TP_STATUS_SWAP_PEND || (isSet s F.JIR_STATUS_TLOCK && !isSet s F.JIR_CTRL_MASTER) || (!noTones s && toneBank s == b) || Nat.blt flim 180 || Nat.blt 260 flim
  then raise s F.CMP_EVT_CFG_ERR
  else match (List.range 256).find? fun p => toneBad flim (tone s b p) with
    | some p => raise (raise (setF s F.CMP_TP_STATUS_BAD_PAIR p) F.CMP_TP_STATUS_BAD) F.CMP_EVT_CFG_ERR
    | none =>
      let s := setF (setF (raise s F.CMP_TP_STATUS_SWAP_PEND) F.CMP_TP_STATUS_BAD 0) F.CMP_TP_STATUS_BAD_PAIR 0
      let s := { s with toneSwap := b }
      if cidxOk s then announceSwap s b else toneSwapEffect s

/-- TONE_PAIR_SWAP (R149). -/
def execTonePairSwap (v : Word) (s : State) : Answer := done (access s R.CMP_TP_SWAP fun s => swapTones s v)

/-! ### Starting and releasing (R156, R162) -/

/-- The start of a lane with these fields is allowed (R162). -/
def startOk (s : State) (x : Lane) : Bool :=
  let e := activeTone s x.pair
  let used := x.ins.filter fun c => c != 0
  !noTones s && Tone.valid e && Nat.ble x.mCode (Tone.mmax e) && Nat.blt x.ofsCfg phaseP &&
    x.ins.all (fun c => Nat.ble c 4) && used != [] && used.dedup == used && x.cmb != 3 && isSet s F.CMP_CTRL_EN

/-- An accepted start: the lane waits for its apply point with the tones its pair has now (R150, R162). DESIGN CHOICE (log entry 127): the
tones are taken when the lane is loaded or GO is written, and not at the apply point; a swap may fall between. -/
def startLane (s : State) (l : Nat) (x : Lane) (at_ : Option (Nat × Nat)) : State :=
  let e := activeTone s x.pair
  setLane s l { x with apply := at_, mark := Tone.mark e, space := Tone.space e }

/-- LANE_APPLY_POINT (R156, R158, R162): the lane enters SEARCH at its loaded offset with its oscillators reset. -/
def execLaneApplyPoint (l : Fin 256) (s : State) : Answer :=
  let x := lane s l.val
  if x.apply = none ∨ x.st ≠ .off then done s else
  if inSafeAt s 3 l.val || !isSet s F.CMP_CTRL_EN || !domainOn s 8 then done (offLane s l.val) else
  let s := setLane s l.val { x with
    apply := none, slots := [{}, {}, {}], ofsAct := x.ofsCfg, ofsEst := x.ofsCfg, tFlag := false, hist := [], rx := none, fst := .idle, secActive := true,
    nHat := [x.w4, x.w4, x.w4], seeding := x.w4 == 0 }
  done (searchLane (markLane (pmPartial s l.val) l.val) l.val)

/-- CMP_WIN_IDX. -/
def winLane (s : State) : Nat := getF s F.CMP_WIN_IDX_LANE

/-- The lane is idle: OFF and not waiting for an apply point. -/
def Lane.idle (x : Lane) : Bool := x.st == .off && x.apply == none

/-- GO of CMP_LW5 (R162): a static lane that is OFF starts at the next symbol boundary. DESIGN CHOICE (log entry 96): a lane that has been
started and waits for its apply point refuses GO and host writes as one that is not OFF. DESIGN CHOICE (log entry 127): GO to a lane whose OWN
is 0b00 is discarded too, and sets CFG_ERR; R162 speaks of scheduler and static lanes. -/
def goLane (s : State) : State :=
  let l := winLane s
  let x := lane s l
  if x.own = 2 ∧ x.idle ∧ startOk s x then startLane s l x (some (cidxNow s, 0)) else raise s F.CMP_EVT_CFG_ERR

/-- STATIC_LANE_GO (R162). -/
def execStaticLaneGo (s : State) : Answer := done (access s (R.CMP_LW 5) goLane)

/-- RELEASE of CMP_LW5 (R162): a static lane goes OFF; an OFF lane is not changed. -/
def releaseLane (s : State) : State :=
  let l := winLane s
  let x := lane s l
  if x.own = 1 then raise s F.CMP_EVT_CFG_ERR else if x.idle then s else offLane s l

/-- LANE_RELEASE (R162, R230). -/
def execLaneRelease (s : State) : Answer := done (access s (R.CMP_LW 5) releaseLane)

/-- OWN of a written CMP_LW0: 0b11 acts as 0b00. -/
def ownOf (v : Word) : Nat := let o := bits v.toNat 31 30; if o = 3 then 0 else o

/-- Set a configuration word of a lane. -/
def Lane.withWord (x : Lane) (w : Nat) (v : Word) : Lane :=
  match w with
  | 0 => { x with w0 := BitVec.ofNat 32 (setBits (v.toNat) 31 30 (ownOf v)) &&& 0xFFFF_0FFF#32 }
  | 1 => { x with w1 := v &&& 0x7FFF_FFFF#32 }
  | 2 => { x with w2 := v &&& 0xFFFF_0FFF#32 }
  | 3 => { x with w3 := v &&& 0xFFFF_0700#32 }
  | _ => { x with w4 := v }

/-- CMP_LW0 to CMP_LW4 of the selected lane is written (R162): OFF lanes of the host take it; a scheduler lane takes only a change of
OWN, as a mark for withdrawal. DESIGN CHOICE (log entry 97): any other host write to a scheduler lane (another word, or OWN = 0b01), of which
R162 does not speak, is discarded and sets CFG_ERR. -/
def writeLaneWord (s : State) (w : Nat) (v : Word) : State :=
  let l := winLane s
  let x := lane s l
  let s := if w = 0 ∧ bits v.toNat 31 30 = 3 then raise s F.CMP_EVT_CFG_ERR else s
  if x.own = 1 then
    if w = 0 ∧ ownOf v ≠ 1 then
      let s := setLane s l { x with withdraw := some (ownOf v) }
      if x.idle ∧ x.use = none then offLane s l else s
    else raise s F.CMP_EVT_CFG_ERR
  else if x.idle then
    -- a lane handed to the scheduler shows what Sorrel loaded last (R245)
    let y := x.withWord w v
    (if w = 0 then fun s => evalConflicts (markLane s l) else id) (setLane s l (if y.own = 1 then { y with cfg := y.loaded } else y))
  else raise s F.CMP_EVT_CFG_ERR

/-- LANE_CONFIG_WRITE (R162). -/
def execLaneConfigWrite (word : Fin 5) (v : Word) (s : State) : Answer :=
  done (access s (R.CMP_LW word.val) fun s => writeLaneWord (rewritten s (0x10000 + winLane s)) word.val v)

/-- 10 log10 of ŝ in 0.25 dB, 0 when ŝ ≤ 1 (R168): the nearest step, as its worked example reads 52, 28 and 4 for 20, 5 and 1.25. With
40 log10 ŝ at least n − 1/2, ŝ^80 is at least 10^(2n − 1). -/
def snrQuarterDb (r : Rat) : Nat :=
  if r ≤ 1 then 0 else
  let a := r ^ 80
  ((List.range 255).filter fun n => (10 : Rat) ^ (2 * n + 1) ≤ a).length

/-- CMP_LW6 of a lane (Table: CMP_LW6); SAFE shows whether the safe action is in force for it (R163). -/
def lw6 (x : Lane) (safe : Bool) : Nat :=
  fieldsOf [(x.lastW, 28), (b2n x.withdraw.isSome, 15), (b2n safe, 14), (b2n x.lastS, 13), (b2n x.lastH, 12),
    (b2n (x.st == .track), 2), (match x.st with | .off => 0 | .search => 1 | .track => 2, 0)]

/-- Snapshot CMP_LW6 to CMP_LW9 of the selected lane (R168). -/
def snapLane (s : State) : State :=
  let x := lane s (winLane s)
  let db := fun i => satN 255 (snrQuarterDb (sRatio x i).rat)
  wrN (wrN (wrN (wrN s (R.CMP_LW 6) (lw6 x (inSafeAt s 3 (winLane s)))) (R.CMP_LW 7) x.ofsEst) (R.CMP_LW 8) (db 0 + db 1 * 2 ^ 8 + db 2 * 2 ^ 16))
    (R.CMP_LW 9) (satN (2 ^ 32 - 1) x.delivered)

/-- LANE_WINDOW_SELECT (R168). -/
def execLaneWindowSelect (v : Word) (s : State) : Answer :=
  done (access s R.CMP_WIN_IDX fun s => snapLane (setF s F.CMP_WIN_IDX_LANE v.toNat))

/-- CMP_LW6 is read (R168). -/
def readLane (s : State) : State := let s := snapLane s; { s with readData := rd s (R.CMP_LW 6) }

/-- LANE_STATUS_READ (R168). -/
def execLaneStatusRead (s : State) : Answer := done (readAccess s (R.CMP_LW 6) readLane)

/-! ### The correlators (R146, R147, R152, R154, R155) -/

/-- One working-rate sample as it leaves stage 6 (R120, R125). -/
structure Samp where
  val : Int
  mark : Nat
  w : Nat
  cidx : Nat
  ts : Nat
  hold : Bool
  isVoid : Bool

/-- Cosine and sine of tone `n` at the lane's sample number: phase n × 2^20 × k (R146). -/
def oscAt (n k : Nat) : Int × Int :=
  let ph := n * 2 ^ 20 * k % 2 ^ 32
  (oscCos ph, oscSin ph)

/-- Add one sample to an eighth's sums. -/
def Eighth.take (e : Eighth) (mark space k : Nat) (a : Samp) : Eighth :=
  let (mc, ms) := oscAt mark k
  let (sc, ss) := oscAt space k
  let v := if a.mark = 0 then a.val else 0
  { mr := e.mr + v * mc, mi := e.mi + v * ms, sr := e.sr + v * sc, si := e.si + v * ss,
    valid := e.valid + b2n (a.mark == 0 && !a.isVoid), all := e.all + 1, isVoid := e.isVoid || a.isVoid, hold := e.hold || a.hold }

/-- Eighth and labelled cycle of a sample on a lane of offset `ofs` (R152). -/
def eighthIdx (code ofs : Nat) (a : Samp) : Nat × Nat :=
  ((a.w + phaseP - ofs % phaseP) % phaseP / eighthOf code,
   if ofs ≤ a.w then a.cidx else (a.cidx + 2 ^ 32 - 1) % 2 ^ 32)

/-- Take a sample into a slot; an eighth that has ended is dumped, and a symbol's last one ends the symbol. -/
def Slot.take (t : Slot) (code ofs mark space : Nat) (a : Samp) : Slot :=
  let (i, c) := eighthIdx code ofs a
  let t := match t.idx with
    | none => t
    | some j =>
      if j = i then t else
      let lastOne := j % 8 == 7
      { t with
        dumps := (t.acc :: t.dumps).take 24, acc := {}, since := if lastOne then 0 else t.since + 1,
        ended := if lastOne && !t.skip then some (t.cidx, j / 8, t.ts) else t.ended,
        skip := t.skip && !lastOne }
  { t with idx := some i, cidx := c, ts := a.ts, acc := t.acc.take mark space t.nsamp a, nsamp := t.nsamp + 1 }

/-- The eight dumps of the window that ended `back` eighths before the newest dump. -/
def Slot.window (t : Slot) (back : Nat) : Eighth :=
  ((t.dumps.drop back).take 8).foldl (fun a e => {
    mr := a.mr + e.mr, mi := a.mi + e.mi, sr := a.sr + e.sr, si := a.si + e.si, valid := a.valid + e.valid, all := a.all + e.all,
    isVoid := a.isVoid || e.isVoid, hold := a.hold || e.hold }) {}

/-- Mark and space energies in binary32. -/
def Eighth.em (e : Eighth) : F32 := let a := F32.ofInt e.mr; let b := F32.ofInt e.mi; (a.mul a).add (b.mul b)
def Eighth.es (e : Eighth) : F32 := let a := F32.ofInt e.sr; let b := F32.ofInt e.si; (a.mul a).add (b.mul b)

/-- v of a window: 1 exactly, or its valid fraction. -/
def Eighth.whole (e : Eighth) : Bool := e.valid == e.all && e.all != 0
def Eighth.frac (e : Eighth) : F32 := if e.all = 0 then .fin 0 0 else (F32.ofInt e.valid).div (F32.ofInt e.all)

/-- The input is left out of the window: v below VMIN / 16 (R159). -/
def leftOut (s : State) (e : Eighth) : Bool := Nat.blt (e.valid * 16) (max 1 (getF s F.CMP_CTRL_VMIN) * e.all) || e.all == 0

/-- Q over the windows of the included inputs (R157). -/
def metricQ (s : State) (x : Lane) (win : Nat → Eighth) : F32 :=
  x.used.foldl (fun q i =>
    let e := win i
    let n := F32.ofWord (x.nHat.getD i 0)
    if leftOut s e || n.zero then q else q.add (((F32.max e.em e.es).sub (n.mul e.frac)).div n)) (.fin 0 0)

/-- Σ max(E_m, E_s) over the included inputs (R160). -/
def sumMax (s : State) (x : Lane) (win : Nat → Eighth) : F32 :=
  x.used.foldl (fun q i => let e := win i; if leftOut s e then q else q.add (F32.max e.em e.es)) (.fin 0 0)

/-- Window of slot `i`, `back` eighths before its symbol's end. -/
def Lane.win (x : Lane) (back i : Nat) : Eighth := let t := x.slots.getD i {}; t.window (t.since + back)

/-- Shift a lane's alignment by `a` eighths: the offset moves and the eighth in progress is numbered anew (R157, R160). -/
def Lane.shift (x : Lane) (a : Int) : Lane :=
  let n : Int := 8 * mOf x.mCode
  { x with
    ofsAct := (((x.ofsAct : Int) + a * eighthOf x.mCode) % phaseP).toNat,
    slots := x.slots.map fun t => { t with idx := t.idx.map fun i => (((i : Int) - a) % n).toNat } }

/-- OFS_EST from the block sums (R161). -/
def fineOffset (x : Lane) : Nat :=
  let e := (F32.ofWord x.eEarly).rat
  let o := (F32.ofWord x.eOn).rat
  let l := (F32.ofWord x.eLate).rat
  let den := 2 * (2 * o - e - l)
  let dl : Rat := if den ≤ 0 then 0 else max (-1/2) (min (1/2) ((l - e) / den))
  let r := dl * eighthOf x.mCode
  (((x.ofsAct : Int) + rqNear 42 r.num r.den) % phaseP).toNat

/-- The late window of the block's last symbol is complete: add it, take the fine offset from the three sums of as many symbols each, and at
the end of a block move the timing (R160, R161). -/
def lateWindow (s : State) (x : Lane) : Lane :=
  if !x.lateDue || !(x.used.all fun i => Nat.ble 1 (x.slots.getD i {}).since) then x else
  let late := fun i => let t := x.slots.getD i {}; t.window (t.since - 1)
  let eL := (F32.ofWord x.eLate).add (sumMax s x late)
  let x := { x with lateDue := false, eLate := eL.toWord }
  let x := { x with ofsEst := fineOffset x }
  if x.blk < x.trkN then x else
  let eE := F32.ofWord x.eEarly
  let eO := F32.ofWord x.eOn
  let mv : Int := if eE.lt eL && eO.lt eL then 1 else if eL.lt eE && eO.lt eE then -1 else 0
  let x := { x with blk := 0, eEarly := 0, eOn := 0, eLate := 0 }
  if mv = 0 then x else { x.shift mv with tFlag := true }

/-- A working-rate sample of input `inp` reaches one lane. -/
def feedLane (s : State) (inp : Nat) (a : Samp) (l : Nat) : State :=
  let x := lane s l
  if x.st = .off ∨ !x.ins.contains (inp + 1) then s else
  let k := x.ins.findIdx fun c => c == inp + 1
  let first := x.used.headD 0 == k
  let before := (x.slots.getD k {}).idx
  let t := (x.slots.getD k {}).take x.mCode x.ofsAct x.mark x.space a
  -- the spacing is judged at the start of each symbol
  let starts := first && before.map (· / 8) != t.idx.map (· / 8)
  let spacing := ((x.mark : Int) - x.space).natAbs * 250 * 2 ^ 16
  let x := { x with
    slots := x.slots.set k t,
    spc := if starts then Nat.blt spacing (mOf x.mCode * s.mains.freq.toNat) else x.spc,
    spcEnd := if starts then x.spc else x.spcEnd }
  setLane s l (if x.st = .track ∧ !x.safe then lateWindow s x else x)

/-- The lanes that run. -/
def runningLanes (s : State) : List Nat := (s.lanes.filter fun e => e.2.st != .off).map Prod.fst

/-- A working-rate sample reaches the lanes (R147). -/
def feedLanes (s : State) (inp : Nat) (a : Samp) : State :=
  if !domainOn s 8 then s else (runningLanes s).foldl (fun s l => feedLane s inp a l) s

/-! ### Judging a symbol period -/

/-- Every included input has ended its symbol: its label. -/
def Lane.ended (x : Lane) : Option (Nat × Nat × Nat) :=
  match x.used with
  | [] => none
  | i :: r => if (i :: r).all fun j => (x.slots.getD j {}).ended.isSome then (x.slots.getD i {}).ended else none

/-- The symbol has been judged. -/
def Lane.judged (x : Lane) : Lane := { x with slots := x.slots.map fun t => { t with ended := none } }

/-- k = 2^-ALPHA, 2 to 10 (Table: CMP_CTRL). -/
def alpha (s : State) : Nat := max 2 (min 10 (getF s F.CMP_CTRL_ALPHA))

/-- `e + 2^-ALPHA (v - e)`. -/
def average (s : State) (e v : F32) : F32 := e.add ((v.sub e).shift (-(alpha s : Int)))

/-- Update an entry of an estimate list. -/
def updEst (l : List Word) (i : Nat) (f : F32 → F32) : List Word := l.set i (f (F32.ofWord (l.getD i 0))).toWord

/-- Mean of the mark and space energies. -/
def Eighth.mean (e : Eighth) : F32 := (e.em.add e.es).shift (-1)

/-- Alignment `a` of the period that has just ended: its window ends `(8 - a) mod 8` eighths before the period's end (R157). -/
def alignBack (a : Nat) : Nat := (8 - a) % 8

/-- Seed the noise estimates from this period's alignment 0 (R158): the mean over the first four periods. -/
def seedNoise (x : Lane) : Lane :=
  let x := { x with nHat := x.used.foldl (fun l i => updEst l i fun v => v.add (x.win 0 i).mean) x.nHat }
  if x.periods < 4 then x else
  { x with seeding := false, nHat := x.used.foldl (fun l i => updEst l i fun v => v.shift (-2)) x.nHat }

/-- The window of alignment `a` has come whole since the lane's start: eight dumps of every included input (R157). -/
def Lane.formed (x : Lane) (a : Nat) : Bool :=
  x.used.all fun i => let t := x.slots.getD i {}; Nat.ble (t.since + alignBack a + 8) t.dumps.length

/-- A symbol period of SEARCH ends (R157, R158): the lane, with the alignment detected, if any. -/
def searchPeriod (s : State) (x : Lane) : Lane × Option Nat :=
  let x := { x with periods := x.periods + 1 }
  if x.seeding then (seedNoise x, none) else
  -- an alignment whose window is not formed yet has no Q
  let q := (List.range 8).map fun a => if x.formed a then metricQ s x (x.win (alignBack a)) else .nan
  let thr := (F32.ofInt x.detThr).shift (-4)
  let reached := fun (l : List F32) => l.any fun v => v.ge thr
  let df := (List.range 8).map fun a => (List.range 3).map fun i =>
    let e := x.win (alignBack a) i
    if x.used.contains i && e.whole && x.formed a then some (e.em.sub e.es).abs.toWord else none
  let x := { x with qs := (q.map F32.toWord :: x.qs).take x.detN, diffs := (df :: x.diffs).take x.detN }
  let x := if reached q then x else
    { x with nHat := x.used.foldl (fun l i => let e := x.win 0 i; if e.whole then updEst l i fun n => average s n e.mean else l) x.nHat }
  if x.qs.length = x.detN && x.qs.all (fun l => reached (l.map F32.ofWord)) then
    let sums := (List.range 8).map fun a => x.qs.foldl (fun (t : F32) l =>
      match F32.ofWord (l.getD a 0) with
      | .nan => t
      | v => t.add v) (F32.fin 0 0)
    -- of equal sums the lowest alignment is taken (log entry 35)
    let best := (List.range 8).foldl (fun b a => if (sums.getD b F32.nan).lt (sums.getD a F32.nan) then a else b) 0
    (x, some best)
  else (x, none)

/-- Ŝ of an input at entry to TRACK (R158). -/
def seedSignal (x : Lane) (a i : Nat) : Word :=
  let l := x.diffs.filterMap fun d => (d.getD a []).getD i none
  if l = [] then 0 else ((l.foldl (fun (t : F32) w => t.add (F32.ofWord w)) (F32.fin 0 0)).div (F32.ofInt l.length)).toWord

/-- Enter TRACK at alignment `a` (R157): its first decision is for the first symbol that begins there. -/
def trackLane (x : Lane) (a : Nat) : Lane :=
  let x := { x with st := .track, sHat := (List.range 3).map fun i => if x.used.contains i then seedSignal x a i else 0 }
  let x := x.shift a
  { x with
    slots := x.slots.map fun t => { t with skip := a != 0 }, blk := 0, lateDue := false, eEarly := 0, eOn := 0, eLate := 0,
    lost := 0, delivered := 0, ofsEst := x.ofsAct }

/-- Estimates after a symbol in TRACK: only whole symbols teach the lane (R159). -/
def teach (s : State) (x : Lane) : Lane :=
  x.used.foldl (fun x i =>
    let e := x.win 0 i
    if !e.whole then x else
    { x with
      sHat := updEst x.sHat i fun v => average s v (e.em.sub e.es).abs,
      nHat := updEst x.nHat i fun v => average s v (F32.min e.em e.es) }) x

/-- d of a window (R159). -/
def Eighth.d (e : Eighth) : F32 := let t := e.em.add e.es; if t.zero then .fin 0 0 else (e.em.sub e.es).div t

/-- floor of a nonnegative value, at most 15. -/
def floor15 (x : F32) : Nat := min 15 (Rat.floor x.rat).toNat

/-- L and W of a symbol (R164), over the inputs that R159 does not leave out of it and that have a signal. The quotient of the sums is
formed first, so that it is 1 where every sample is valid, and W 15. DESIGN CHOICE (log entry 127): of equal largest products, Select takes that
of the lowest input. -/
def combine (s : State) (x : Lane) : F32 × Nat :=
  let l := x.used.filter fun i => !leftOut s (x.win 0 i) && !(F32.ofWord (x.sHat.getD i 0)).zero
  let sum := fun (l : List Nat) (f : Nat → F32) => l.foldl (fun t i => t.add (f i)) (F32.fin 0 0)
  let v := fun i => (x.win 0 i).frac
  let d := fun i => (x.win 0 i).d
  let r := sRatio x
  if l = [] then (.fin 0 0, 0) else
  match x.cmb with
  | 1 => (sum l fun i => (v i).mul (d i), floor15 (((sum l v).div (F32.ofInt l.length)).mul (F32.ofInt 15)))
  | 2 =>
    match l with
    | [] => (.fin 0 0, 0)
    | i :: t =>
      let j := t.foldl (fun b k => if ((r b).mul (v b)).lt ((r k).mul (v k)) then k else b) i
      (((r j).mul (v j)).mul (d j), floor15 ((v j).mul (F32.ofInt 15)))
  | _ =>
    (sum l fun i => ((r i).mul (v i)).mul (d i),
     floor15 (((sum l fun i => (r i).mul (v i)).div (sum l r)).mul (F32.ofInt 15)))

/-- SOFT of L (R164): L × 2^(QS − 3) to the nearest integer, limited to ±127. -/
def softOf (x : Lane) (l : F32) (w : Nat) : Int :=
  if w = 0 then 0 else
  let r := l.rat * (2 : Rat) ^ ((x.qshift : Int) - 3)
  clampI 127 (rqNear 41 r.num r.den)

/-- The timing block takes a symbol: early and on-time sums now, the late window one eighth on (R160). -/
def blockSum (s : State) (x : Lane) : Lane :=
  { x with
    eEarly := ((F32.ofWord x.eEarly).add (sumMax s x (x.win 1))).toWord,
    eOn := ((F32.ofWord x.eOn).add (sumMax s x (x.win 0))).toWord, blk := x.blk + 1, lateDue := true }

/-- One decision of a lane, as its record has it (R165). -/
structure Decision where
  cidx : Nat
  k : Nat
  ts : Nat
  w : Nat
  soft : Int
  isVoid : Bool
  /-- the flags T, H and S of the symbol and the inputs included -/
  moved : Bool
  hold : Bool
  spc : Bool
  ins : List Nat

/-- The record as the lane delivers it (Table: Lane decision record). -/
def Decision.word (d : Decision) (lane : Nat) : BitVec 64 :=
  BitVec.ofNat 64 (fieldsOf [(d.cidx % 2 ^ 24, 40), (d.k, 31), (lane, 23), ((d.ins.map fun i => 2 ^ i).sum, 16), (b2n d.hold, 15),
    (b2n d.moved, 14), (b2n d.spc, 13), (b2n d.isVoid, 12), (d.w, 8), (wrap 8 d.soft, 0)])

/-- Judge a symbol in TRACK (R159 to R165): the decision, the lane after it, and whether lock is lost. DESIGN CHOICE (log entry 98): the
symbol's own energies update the estimates before its decision and its Q are formed; R159 gives no order. -/
def judgeSymbol (s : State) (x : Lane) (lbl : Nat × Nat × Nat) : Decision × Lane × Bool :=
  let (c, k, ts) := lbl
  let isVoid := x.used.any fun i => (x.win 0 i).isVoid
  let hold := x.used.any fun i => (x.win 0 i).hold
  let moved := x.tFlag
  let x := if x.safe then x else blockSum s (teach s x)
  let (l, w) := if x.safe || isVoid then (F32.fin 0 0, 0) else combine s x
  let soft := softOf x l w
  let weak := (metricQ s x (x.win 0)).lt ((F32.ofInt x.dropThr).shift (-4))
  let lost := if x.safe || w = 0 then x.lost else if weak then x.lost + 1 else 0
  let x := { x with
    lost := lost, lastW := w, lastS := x.spcEnd, lastH := hold, tFlag := false, delivered := x.delivered + 1 }
  (⟨c, k, ts, w, soft, isVoid, moved, hold, x.spcEnd, x.used⟩, x, Nat.ble x.lostN lost && !x.safe)

end Sys2Proof.Machine
end

