-- ==== Sys2Proof/Machine/Frames.lean ====
section
/-! DEFINITION. Frames as they are sent: lengths, sync words, symbols, labels (R169 to R172, R183, R224, R227 to R229). -/

namespace Sys2Proof.Machine

/-- P of R170: 8 × PRE8, 1 to 8. -/
def preLen (s : State) : Nat := 8 * max 1 (min 8 (getF s F.COD_FRAME_CFG_PRE8))

/-- Length in symbols of one frame or copy (R170). -/
def frameLen (s : State) (mode len : Nat) : Nat :=
  if mode = 0 then preLen s + 128 + (if len = 0 then 0 else 8 * len + 32)
  else preLen s + 236 + (if len = 0 then 0 else 16 * len + 76)

/-- Copies of a mode (R170). -/
def copiesOf (mode : Nat) : Nat := if mode = 2 then 4 else if mode = 3 then 6 else 1

/-- Length of a frame with all its copies (R170, R183). -/
def airLen (s : State) (mode len : Nat) : Nat := copiesOf mode * frameLen s mode len + 2 * (copiesOf mode - 1)

/-- Sync word of a mode (R171). -/
def syncWord (mode : Nat) : Nat :=
  match mode with
  | 0 => 0xE5B2_1C69
  | 1 => 0x2F61_D3A4
  | 2 => 0x7A0D_6F13
  | _ => 0x94C7_28DE

/-- Bits of the header as bytes, H[95] first. -/
def hdrBits (h : Nat) : List Bool := bitsMsb 96 h

/-- The symbols of the header or body as they are sent in a mode (R170, R176, R177). -/
def protect (mode : Nat) (hdr : Bool) (l : List Bool) : List Bool := if mode = 0 then l else interleave hdr (convEncode l)

/-- The body bits: payload and CRC-32 (R170, R174). -/
def bodyBits (payload : List Byte) : List Bool := bitsOfBytes payload ++ bitsMsb 32 (crc32Body payload)

/-- The symbols of one frame or copy (R169, R170). -/
def frameSymbols (s : State) (mode h : Nat) (payload : List Byte) : List Bool :=
  (List.range (preLen s)).map (fun i => i % 2 == 0) ++ bitsMsb 32 (syncWord mode) ++ protect mode true (hdrBits h) ++
    (if payload = [] then [] else protect mode false (bodyBits payload))

/-- The device's own node address (R277, R303). -/
def rootAddr (s : State) : Nat := getF s F.VET_ROOT_ADDR

/-- The device has its own address (R303). -/
def rootSet (s : State) : Bool := rootAddr s != 0 && rootAddr s != 0x3FFFF

/-! ### Labels (R224) -/

def Lbl.filler : Nat := 0
def Lbl.beacon : Nat := 1
def Lbl.route : Nat := 2
def Lbl.macctl : Nat := 4

/-- A label without a meaning of its own (R224). -/
def Lbl.reserved (l : Nat) : Bool := (Nat.ble 7 l && Nat.ble l 0xF) || (Nat.ble 0x15 l && Nat.ble l 0x2F)

/-- Routing of a label: DEST, with the value that acts for the engine labels (R224). -/
def lblDest (s : State) (l : Nat) : Nat :=
  let d := bits (rdN s (R.LFR_LBL l)) 5 4
  if Nat.ble 1 l && Nat.ble l 4 && (d == 0 || d == 3) then 1 else d

def lblRing (s : State) (l : Nat) : Nat := bits (rdN s (R.LFR_LBL l)) 2 0
def lblEncReq (s : State) (l : Nat) : Bool := bit (rdN s (R.LFR_LBL l)) 8

/-! ### Filler and idle cells (R227, R228) -/

/-- Payload of a filler frame: x^9 + x^5 + 1 seeded with ones (R228). -/
def fillerBits : Nat → Nat → List Bool
  | 0, _ => []
  | n + 1, r => bit r 8 :: fillerBits n ((2 * r + b2n (bit r 8 != bit r 4)) % 512)

/-- Fill a gap of `g` symbols: lengths of the filler frames and the number of idle cells (R227). -/
def fillGap (len : Nat → Nat) (maxLen : Nat) : Nat → Nat → List Nat × Nat
  | 0, g => ([], g / 4)
  | f + 1, g =>
    if len 0 ≤ g then
      let n := ((List.range (maxLen + 1)).filter fun n => Nat.ble (len n) g).getLastD 0
      let r := fillGap len maxLen f (g - len n)
      (n :: r.1, r.2)
    else ([], g / 4)

/-- Mode of the filler frames. -/
def fillMode (s : State) : Nat := getF s F.LFR_FILL_CFG_MODE

/-- Largest payload of a filler frame: values above 508 act as 508. -/
def fillMax (s : State) : Nat := min 508 (getF s F.LFR_FILL_CFG_MAXLEN)

/-! ### Cycles and symbols in time -/

/-- Absolute slot number of a cycle index (R246). -/
def slotOf (s : State) (c : Nat) : Nat := c / slotC s

/-- Number of slot numbers (R246). -/
def slotCount (s : State) : Nat := 2 ^ 32 / slotC s

/-- `a - b` in slot numbers. -/
def slotSub (s : State) (a b : Nat) : Nat := (a % slotCount s + slotCount s - b % slotCount s) % slotCount s

/-- Slot `a` is ahead of slot `b` (R106, R246). -/
def slotAhead (s : State) (a b : Nat) : Bool := let d := slotSub s a b; decide (1 ≤ d ∧ d < slotCount s / 2)

/-- The current slot. -/
def slotNow (s : State) : Nat := slotOf s (cidxNow s)

end Sys2Proof.Machine
end

