-- ==== Sys2Proof/Machine/Keys.lean ====
section
/-! DEFINITION. The key store, frame counters and high-water marks, host CCM and its contexts, the public-key engine with the quote
(R398 to R427, R441, R442). -/

namespace Sys2Proof.Machine

/-! ### References and keys (R413, R414) -/

/-- Reference of a node key. -/
def nodeRef (a : Nat) : Nat := 2 ^ 31 + a

/-- A 32-bit reference is well formed (R413). -/
def refOk (r : Nat) : Bool :=
  if bit r 31 then bits r 30 18 == 0 && bits r 17 0 != 0 && bits r 17 0 != 0x3FFFF else bits r 30 14 == 0

/-- A function may use a reference (R383, R413). -/
def ownsRef (s : State) (fn r : Nat) : Bool := if bit r 31 then ownerOf s (bits r 17 0) == fn else ownsKey s fn r

def Use.payload : Nat := 0
def Use.hop : Nat := 1
def Use.bcast : Nat := 2
def Use.hostCcm : Nat := 3
def Use.sign : Nat := 4
def Use.ecdh : Nat := 5
def Use.kek : Nat := 6

def key (s : State) (r : Nat) : Option Key := fget s.sec.keys r

/-- Tag bytes of a TLEN code. -/
def tagBytes (c : Nat) : Nat := 4 * (c + 1)

/-- Type and use agree, a node key has the use PAYLOAD and nothing else has (R414). -/
def useOk (node : Bool) (type use : Nat) : Bool :=
  (match type with
    | 1 => [0, 1, 2, 3].contains use
    | 2 => [0, 2, 3, 6].contains use
    | 3 => [4, 5].contains use
    | _ => false) && (use == Use.payload) == node

/-- The function that owns what a reference names (R383, R392). -/
def refOwner (s : State) (r : Nat) : Nat :=
  if bit r 31 then ownerOf s (bits r 17 0) else ((List.range 8).find? fun n => ownsKey s n r).getD 0

/-- The record of a key passes its unwrapping: it is wrapped under the store key drawn last, and names the function that owns its
reference (R417). -/
def unwraps (s : State) (r : Nat) (k : Key) : Bool := k.under == s.sec.storeKey && k.owner == refOwner s r

/-- A use of a reference finds no key in the cache and a record that fails its unwrapping (R417, R418). -/
def recordFails (s : State) (r : Nat) : Bool := !s.sec.cache.contains r && (key s r).any fun k => !unwraps s r k

/-- The key cache after a use of a reference (R418): a miss is counted, the entry least recently used is replaced, but none an SRAM
context or the running public-key operation uses. -/
def touchKey (s : State) (r : Nat) : State :=
  if s.sec.cache.contains r then { s with sec := { s.sec with cache := r :: s.sec.cache.erase r } }
  else
    let s := bump s R.SEC_CACHE_MISS_CNT
    let l := s.sec.cache
    let inUse := fun k => (s.sec.sram.any fun e => e.2.ref == k) || s.sec.pkRun.any fun o => o.slot == some k
    let l := if l.length < 4096 then l else
      match l.reverse.find? fun k => !inUse k with
      | some k => l.erase k
      | none => l
    { s with sec := { s.sec with cache := r :: l } }

/-- Why an operation with a key of use `u` may not run: the status and detail that end a command (R414, R417). -/
def keyBar (s : State) (r u : Nat) : Option (Nat × Nat) :=
  match key s r with
  | none => some (St.state, 0x3B)
  | some k => if recordFails s r then some (St.fault, Det.dram) else if k.use = u then none else some (St.state, 0x3C)

/-- The engines refuse commands (R425, SEC_CTRL.EN): FAULT during the safe action, 0x3C while disabled. -/
def withEngine (s : State) (c : Cmd) (f : State → State) : State :=
  if inSafe s 12 then complete s c St.fault Det.parity 0
  else if !isSet s F.SEC_CTRL_EN then wrongState s c 0x3C
  else f s

/-- The engines serve Sorrel (R425, SEC_CTRL.EN). -/
def engineOn (s : State) : Bool := !inSafe s 12 && isSet s F.SEC_CTRL_EN && domainOn s 11

/-- The broadcast key (R404). -/
def bcastRef (s : State) : Option Nat :=
  let r := getF s F.SEC_BCAST_SLOT
  if isSet s F.SEC_BCAST_EN && (keyBar s r Use.bcast).isNone then some r else none

/-! ### Retention entries that end (R187) -/

/-- Retention entries of a node end. -/
def endRetention (s : State) (node : Nat) : State := { s with retain := s.retain.filter fun r => !(r.node == node) }

/-- Replacing or deleting a key ends the entries of the sessions that use it. -/
def endRetentionKey (s : State) (r : Nat) : State :=
  if bit r 31 then endRetention s (bits r 17 0)
  else
    let ns := (s.sessions.filter fun e => e.2.hopKey == r).map Prod.fst
    { s with retain := s.retain.filter fun e => !ns.contains e.node }

/-- Remove a key from the store and the cache. -/
def removeKey (s : State) (r : Nat) : State :=
  let s := endRetentionKey s r
  { s with sec := { s.sec with keys := fdel s.sec.keys r, cache := s.sec.cache.erase r } }

/-- A record that fails its unwrapping is deleted as its key is needed (R417). -/
def dropFailed (s : State) (r : Nat) : State := if recordFails s r then removeKey s r else s

/-- End a command that its key bars (R414, R417). -/
def keyRefused (s : State) (c : Cmd) (r : Nat) (e : Nat × Nat) : State := complete (dropFailed s r) c e.1 e.2 0

/-! ### Counters and marks (R405 to R411) -/

/-- Counter key: node address, or 0 for the broadcast key (R448 gives index 0 to it). -/
def txCtr (s : State) (k : Nat) : Nat := if k = 0 then s.sec.bcastTx else fgetD s.sec.txCtr k 0

def setTxCtr (s : State) (k v : Nat) : State :=
  if k = 0 then { s with sec := { s.sec with bcastTx := v } } else { s with sec := { s.sec with txCtr := fputD s.sec.txCtr k 0 v } }

def rxCtr (s : State) (node : Nat) : RxCtr := fgetD s.sec.rxCtr node {}

def bsrc (s : State) (n : Nat) : RxCtr := fgetD s.sec.bsrc n {}

/-- A transmit counter moves on; reaching 0xFF00_0000 warns the function that owns its key (R406). -/
def moveTxCtr (s : State) (k v : Nat) : State :=
  let warn := Nat.blt (txCtr s k) 0xFF00_0000 && Nat.ble 0xFF00_0000 v
  let s := setTxCtr s k v
  if !warn then s else
  let slot := getF s F.SEC_BCAST_SLOT
  let fn := if k = 0 then ((key s slot).map (·.owner)).getD 0 else ownerOf s k
  eventNow (raise s F.SEC_EVT_CTR_WARN) fn 0x000A fn (toLE 4 (if k = 0 then slot else nodeRef k) ++ toLE 4 v)

/-- The next counter of a key may not be used (R406). -/
def ctrSpent (s : State) (k : Nat) : Bool := Nat.ble 0xFFFF_0000 (txCtr s k)

/-- Begin a high-water commit for a frame (R409). -/
def commitMark (s : State) (copies : List (Nat × Nat)) (off : Nat) (v : Nat) (w : HwmWait) : Nat × State :=
  let id := s.nextFid
  let s := { s with nextFid := id + 1, nvs := { s.nvs with waits := fput s.nvs.waits id w } }
  (id, writeRecord (bump s R.SEC_HWM_WR_CNT) copies off (toLE 2 v) (.hwm id))

/-- Take the next transmit counter of a key: the counter, and the state with the warning of R406. -/
def takeCtr (s : State) (k : Nat) : Nat × State :=
  (txCtr s k, moveTxCtr s k (txCtr s k + 1))

/-- A high-water commit of a key's R_TX is under way, or has failed and not been answered (R409). -/
def markPending (s : State) (k : Nat) : Bool :=
  s.nvs.waits.any fun e => (e.2.tx.any fun x => x.1 == k) && e.2.outcome != some true

/-- R_TX covers a counter of the key (R409). -/
def markCovers (s : State) (k c : Nat) : Bool := Nat.blt c ((readHwm s k).1.1 * 65536)

/-- Before a frame with counter `c` of a key is encrypted its block is committed, once for all frames that need it (R409). -/
def askMark (s : State) (k c : Nat) (w : HwmWait) : State :=
  let v := c / 65536 + 1
  let t := (readHwm s k).2
  if markCovers s k c || Nat.ble 0xFFFF_0000 c || (t.nvs.waits.any fun e => e.2.outcome != some false && e.2.tx.any fun x => x.1 == k && Nat.ble v x.2)
  then t
  else (commitMark t (hwmCopies k) (hwmOff k) v { w with tx := some (k, v) }).2

/-- Counters of a node key from its marks (R411). -/
def loadMarks (s : State) (node : Nat) : State :=
  let ((tx, rx), s) := readHwm s node
  let s := moveTxCtr (setTxCtr s node 0) node (tx * 65536)
  { s with sec := { s.sec with rxCtr := fput s.sec.rxCtr node { h := (rx + 1) * 65536 - 1, win := BitVec.allOnes 64, empty := false } } }

/-- A receive state of a broadcast source from its mark (R405). -/
def restoreBsrc (s : State) (n : Nat) : State :=
  let (m, s) := readBrx s n
  let x : RxCtr := if m = 0 then { opened := true } else { h := m * 65536 - 1, win := BitVec.allOnes 64, empty := false }
  { s with sec := { s.sec with bsrc := fput s.sec.bsrc n x } }

/-- BROADCAST_SOURCE_WRITE (R405): EN rising, a change of ADDR and OPEN = 1 open the entry; a change of ADDR also commits
R_BRX = 0. -/
def writeBsrc (s : State) (n : Nat) (v : Word) : State :=
  let old := rdN s (R.SEC_BSRC n)
  let addr := bits v.toNat 17 0
  let moved := addr != bits old 17 0
  let s := wrN s (R.SEC_BSRC n) (b2n (bit v.toNat 31) * 2 ^ 31 + addr)
  let s := if moved then writeRecord s (sysCopies 3) (2 * n) [0, 0] .none else s
  if moved || bit v.toNat 30 || (bit v.toNat 31 && !bit old 31)
  then { s with sec := { s.sec with bsrc := fput s.sec.bsrc n { opened := true } } } else s

/-- BROADCAST_SOURCE_WRITE. -/
def execBroadcastSourceWrite (n : Fin 16) (v : Word) (s : State) : Answer :=
  done (access s (R.SEC_BSRC n.val) fun s => writeBsrc s n.val v)

/-! ### The public-key engine (R422 to R424) -/

/-- `n` free bytes of the random source. -/
def freeBytes (s : State) (n : Nat) : List Byte := toBE n (freeNat s (8 * n))

/-- A free private key: 1 to n − 1 (R415). -/
def freeScalar (s : State) : Nat := freeNat s 256 % (p256N - 1) + 1

/-- Fuse word as resolved (R428, R429). -/
def fuse (s : State) (w : Nat) : Nat := (fgetD s.boot.resolved w 0).toNat

/-- The resolved device seed, 32 bytes: words 0x041 to 0x048 in order, the low byte of each first (R428; log entry 11). -/
def seedOf (s : State) : List Byte := (List.range 8).flatMap fun i => toLE 4 (fuse s (0x041 + i))

/-- The ASCII bytes of "OX9618-". -/
def keyName : List Byte := [0x4F, 0x58, 0x39, 0x36, 0x31, 0x38, 0x2D]

/-- The device key, the first 32 bytes of SHA-384(0x02, "OX9618-DK", SEED) (R417, R440). -/
def deviceKey (s : State) : List Byte := slice (sha384 ([0x02] ++ keyName ++ [0x44, 0x4B] ++ seedOf s)) 0 32

/-- The attestation key d = 1 + (v mod (n − 1)), v = SHA-384(0x01, "OX9618-AK", SEED) (R440). -/
def attestKey (s : State) : Nat := beNat (sha384 ([0x01] ++ keyName ++ [0x41, 0x4B] ++ seedOf s)) % (p256N - 1) + 1

/-- Bytes 0 to 559 of a quote (R442). -/
def quoteBody (s : State) (o : PkOp) : List Byte :=
  let reg := fun r => toLE 4 (rdN s r)
  let marg := (List.range 64).map fun i => BitVec.ofNat 8 ((List.range 8).map fun b => 2 ^ b * b2n (s.boot.marg.contains (8 * i + b))).sum
  toLE 2 1 ++ [BitVec.ofNat 8 o.fn, 0xB0] ++ toLE 4 (fuse s 0x049) ++ toLE 4 (fuse s 0x04A) ++ slice o.buf 0 32 ++
    toLE 8 (tbNow s) ++ toLE 4 (if cidxOk s then cidxNow s else 0) ++ reg R.ATT_BOOTCNT ++
    toLE 2 (getF s F.ATT_SVN_FW_SVN) ++ toLE 2 (if isSet s F.ATT_STATUS_XATON_USED then getF s F.ATT_SVN_X_SVN else 0) ++
    (List.range 8).flatMap (fun i => toBE 48 (fgetD s.boot.meas i 0)) ++ marg ++
    (List.range 4).flatMap (fun n => reg (R.GLB_CRC_REF n)) ++ (List.range 4).flatMap (fun n => reg (R.GLB_CRC_CUR n)) ++
    [BitVec.ofNat 8 (getF s F.GLB_CRC_STAT_COMMITTED + 16 * getF s F.GLB_CRC_STAT_MATCH),
     BitVec.ofNat 8 (getF s F.GLB_LOCK_BAND + 2 * getF s F.GLB_LOCK_TEN + 4 * getF s F.GLB_LOCK_KEYPOL + 8 * getF s F.GLB_LOCK_BOOT +
       16 * getF s F.GLB_FAULT_SUM_CFG_CRC + 32 * b2n (tableInForce s)),
     BitVec.ofNat 8 (rdN s R.ATT_STATUS % 256)] ++ List.replicate 13 0

/-- The engine takes the next operation: functions in round-robin, each in fetch order (R422),
none while SEC_CTRL.EN is 0. A quote's fields are taken now (R442). -/
def pkNext (s : State) : State :=
  if s.sec.pkRun.isSome || !isSet s F.SEC_CTRL_EN then s else
  match (List.range' 1 8).findSome? fun i => s.sec.pkq.find? fun o => o.fn == (s.sec.pkLast + i) % 8 with
  | none => s
  | some o =>
    { s with sec := { s.sec with
        pkq := s.sec.pkq.erase o, pkLast := o.fn,
        pkRun := some { o with body := if o.op = 4 then quoteBody s o else [] } } }

/-- Private scalar of a slot. -/
def slotScalar (s : State) (r : Nat) : Nat := ((key s r).map fun k => beNat k.material).getD 0

/-- A command whose public-key operation must come first is still to start: an earlier one of the function of opcode 0x58 to 0x5A or 0x60, or a
KEY_LOAD, whose record may ask for a generated key (R422). -/
def pkBehind (s : State) (c : Cmd) : Bool :=
  s.cmds.any fun d => d.fn == c.fn && Nat.blt d.uid c.uid && d.st == .fetched && [0x50, 0x58, 0x59, 0x5A, 0x60].contains (D.op d)

/-- Queue a public-key operation of a command, with the key that its slot holds now (R416). -/
def pkQueue (s : State) (c : Cmd) (op : Nat) (buf : List Byte) : State :=
  let o : PkOp := { uid := c.uid, fn := c.fn, op := op, buf := buf, scalar := slotScalar s (D.res c),
                    slot := if op = 0 ∨ op = 2 then some (D.res c) else none }
  let s := engineCmd s c
  pkNext { s with sec := { s.sec with pkq := s.sec.pkq ++ [o] } }

/-! ### Loading and deleting keys (R415 to R418) -/

/-- A key named by an SRAM context in use (R416). -/
def ctxNames (s : State) (r : Nat) : Bool := s.sec.sram.any fun e => e.2.ref == r

/-- Put a key into the store (R416, R417): it is of a new generation, wrapped under the store key; the cached copy is dropped. -/
def installKey (s : State) (r : Nat) (k : Key) : State :=
  let s := endRetentionKey s r
  { s with sec := { s.sec with
      keys := fput s.sec.keys r { k with gen := s.sec.gen + 1, under := s.sec.storeKey }, gen := s.sec.gen + 1, cache := s.sec.cache.erase r } }

/-- The row of a persistent slot: reference, owner and key wrapped under the device key (R417; log entry 30). -/
def keyRow (s : State) (r : Nat) (k : Key) : List Byte :=
  let m := kwWrap (deviceKey s)
    (toLE 4 r ++ [BitVec.ofNat 8 k.owner, BitVec.ofNat 8 k.type, BitVec.ofNat 8 k.use, BitVec.ofNat 8 (k.tlen + 16 * (k.material.length / 16))] ++
      slice k.material 0 32)
  m ++ List.replicate (64 - m.length) 0

/-- The key that a row holds. -/
def rowKey (s : State) (row : List Byte) : Option (Nat × Key) :=
  if row.all (· == 0) then none else
  match kwUnwrap (deviceKey s) (slice row 0 48) with
  | none => none
  | some d => some (leAt d 0 4,
      { type := leAt d 5 1, use := leAt d 6 1, tlen := leAt d 7 1 % 4, material := slice d 8 (leAt d 7 1 / 16 * 16), persist := true, owner := leAt d 4 1 })

/-- A load is of the broadcast key (R405, R411). -/
def isBcast (s : State) (r use : Nat) : Bool := !bit r 31 && use == Use.bcast && r == getF s F.SEC_BCAST_SLOT

/-- A load with NEWKEY = 1 sets the marks to 0, for the broadcast key also every R_BRX (R411). -/
def zeroMarks (s : State) (r use uid : Nat) : State :=
  if bit r 31 then writeRecord s (hwmCopies (bits r 17 0)) (hwmOff (bits r 17 0)) [0, 0, 0, 0] (.keyLoad uid)
  else if isBcast s r use then
    writeRecord (writeRecord s (sysCopies 3) 0 (List.replicate 32 0) (.keyLoad uid)) (hwmCopies 0) (hwmOff 0) [0, 0] (.keyLoad uid)
  else s

/-- The counters of a key installed with NEWKEY = 1: 0, the receive state empty; every broadcast source entry opens (R405, R411). -/
def zeroCounters (s : State) (r use : Nat) : State :=
  if bit r 31 then
    let s := setTxCtr s (bits r 17 0) 0
    { s with sec := { s.sec with rxCtr := fput s.sec.rxCtr (bits r 17 0) {} } }
  else if isBcast s r use then
    let s := setTxCtr s 0 0
    { s with sec := { s.sec with bsrc := (List.range 16).foldl (fun m n => fput m n { opened := true }) s.sec.bsrc } }
  else s

/-- The transmit counter of the broadcast key from its mark (R411). -/
def loadBcast (s : State) : State :=
  let ((tx, _), s) := readHwm s 0
  moveTxCtr (setTxCtr s 0 0) 0 (tx * 65536)

/-- Counters of a key that is loaded with NEWKEY = 0 (R411). -/
def oldCounters (s : State) (r use : Nat) : State :=
  if bit r 31 then loadMarks s (bits r 17 0) else if isBcast s r use then loadBcast s else s

/-- The row of a slot as its key in the store has it. -/
def rowNow (s : State) (r : Nat) : List Byte :=
  match key s r with
  | some k => if k.persist then keyRow s r k else List.replicate 64 0
  | none => List.replicate 64 0

/-- A load whose store writes are done, or that needs none, ends: its key replaces the old one, with the counters of R411. Where an SRAM context
has come to name the old key meanwhile the load is refused, and the row of the slot is written back (R416). -/
def finishLoad (s : State) (c : Cmd) (r : Nat) (k : Key) (fresh : Bool) (len : Nat) : State :=
  if ctxNames s r then
    let s := if bit r 31 || (!k.persist && !(key s r).any (·.persist)) then s else writeRecord s (keyCopies r) 0 (rowNow s r) .none
    wrongState s c 0x3D
  else
    let s := installKey s r k
    complete (if fresh then zeroCounters s r k.use else oldCounters s r k.use) c St.done 0 len

/-- The key that a checked record describes, its material given. -/
def recKey (c : Cmd) (buf : List Byte) (mat : List Byte) : Key :=
  { type := leAt buf 0 1, use := (List.range 7).findIdx fun i => leAt buf 1 1 == 2 ^ i, tlen := leAt buf 2 1 % 4, material := mat,
    persist := bit (leAt buf 3 1) 0, owner := c.fn }

/-- A record asks for NEWKEY (R415). -/
def recFresh (buf : List Byte) : Bool := bit (leAt buf 3 1) 1

/-- A store write of the command is still queued. -/
def writesLeft (s : State) (uid : Nat) : Bool := s.nvs.queue.any fun w => w.client == .keyLoad uid

/-- Load a checked key (R411, R415 to R417): its store writes first, of marks and of its slot's row, which a key that is not persistent clears. -/
def loadKey (s : State) (c : Cmd) (buf mat : List Byte) (len : Nat) : State :=
  let r := D.res c
  let k := recKey c buf mat
  let s := if recFresh buf then zeroMarks s r k.use c.uid else s
  let s := if k.persist then writeRecord s (keyCopies r) 0 (keyRow s r k) (.keyLoad c.uid)
    else if (key s r).any (·.persist) then writeRecord s (keyCopies r) 0 (List.replicate 64 0) (.keyLoad c.uid) else s
  -- the key waits in the command until its store writes are done
  if writesLeft s c.uid then updCmd s c.uid fun d => { d with st := .engine, payload := buf, cipher := mat, attempts := len }
  else finishLoad s c r k (recFresh buf) len

/-- The record of a load is malformed (R414 to R416). -/
def recordBad (s : State) (r : Nat) (wrapped : Bool) (b : List Byte) : Bool :=
  let type := leAt b 0 1
  let useB := leAt b 1 1
  let use := (List.range 7).findIdx fun i => useB == 2 ^ i
  let fl := leAt b 3 1
  let n := if type = 1 then 16 else 32
  let gen := bit fl 2
  let persist := bit fl 0
  use == 7 || !useOk (bit r 31) type use || Nat.blt 3 (leAt b 2 1) || Nat.blt 7 fl || leAt b 4 4 != 0 || (slice b 48 16).any (· != 0) ||
    Nat.blt (leAt b 2 1) (getF s F.SEC_KPOL_MIN_TLEN) || (gen && type != 3) ||
    (!gen && (slice b (if wrapped then 16 + n else 8 + n) (48 - (if wrapped then 16 + n else 8 + n))).any (· != 0)) ||
    (!gen && !wrapped && !isSet s F.SEC_KPOL_PLAIN_IMPORT) ||
    (persist && (bit r 31 || Nat.blt 1023 r || !isSet s F.SEC_KPOL_PERSIST_EN))

/-- KEY_LOAD (R411, R413 to R417). -/
def execKeyLoad (uid : Nat) (buf : List Byte) (s : State) : Answer :=
  done (withCmd s uid 0x50 fun s c => withEngine s c fun s =>
    let r := D.res c
    let kek := D.at c 24 2
    let wrapped := bit (D.at c 26 1) 0
    let b := slice buf 0 64
    if !refOk r then malformed s c 4
    else if !ownsRef s c.fn r || (wrapped && (Nat.blt 16383 kek || !ownsKey s c.fn kek)) then notOwned s c
    else if recordBad s r wrapped b then malformed s c 0xFF
    else if bit (leAt b 3 1) 1 && !isSet s F.SEC_KPOL_NEWKEY_EN then wrongState s c 0x3C
    else if ctxNames s r then wrongState s c 0x3D
    else if bit (leAt b 3 1) 2 then (if pkBehind s c then s else pkQueue s c 3 b)
    else
      let n := if leAt b 0 1 = 1 then 16 else 32
      if wrapped then
        match keyBar s kek Use.kek, key s kek with
        | some e, _ => keyRefused s c kek e
        | none, some k =>
          match kwUnwrap k.material (slice b 8 (n + 8)) with
          | some m => loadKey (touchKey s kek) c b m 0
          | none => malformed s c 0xFF
        | none, none => wrongState s c 0x3B
      else loadKey s c b (slice b 8 n) 0)

/-- KEY_DELETE (R416): the key leaves the store, the cache and, when persistent, the non-volatile store; the marks stay. Only function 0 clears
keys, its own and those of every other function (R392; log entry 131). -/
def execKeyDelete (uid : Nat) (s : State) : Answer :=
  done (withCmd s uid 0x51 fun s c => withEngine s c fun s =>
    let r := D.res c
    if !refOk r then malformed s c 4
    else if c.fn ≠ 0 then notOwned s c
    else match key s r with
      | none => wrongState s c 0x3B
      | some k =>
        if ctxNames s r then wrongState s c 0x3D
        else if k.persist then writeRecord (engineCmd (removeKey s r) c) (keyCopies r) 0 (List.replicate 64 0) (.keyDelete c.uid)
        else complete (removeKey s r) c St.done 0 0)

/-! ### DRAM_UNCORRECTABLE (R78, R311, R417) -/

/-- The key whose record a command reads from the DRAM as it is not in the cache: the KEK of a wrapped load, the key of a first CCM part, of a
signature or of a key agreement (R415, R418, R419, R423). -/
def keyRead (s : State) (c : Cmd) : Option Nat :=
  (match D.op c with
    | 0x50 => if bit (D.at c 26 1) 0 then some (D.at c 24 2) else none
    | 0x52 | 0x53 => if bit (D.at c 24 1) 0 then some (D.res c) else none
    | 0x58 | 0x5A => some (D.res c)
    | _ => none).filter fun r => !s.sec.cache.contains r

/-- DRAM_UNCORRECTABLE (R78, R311, R417): a lasting fault of the page at once; the command whose data held it ends with FAULT, and a key record
that it read so is deleted. -/
def execDramUncorrectable (page : BitVec 24) (uid : Option Nat) (s : State) : Answer :=
  if !domainOn s 13 then done s else
  let s := lastingPage s page.toNat
  match uid with
  | some u => done (uncorrectable (match (findCmd s u).bind (keyRead s) with
    | some r => removeKey s r
    | none => s) u)
  | none => done s

/-! ### Host CCM (R419 to R421) -/

def sram (s : State) (i : Nat) : Option Ctx := fget s.sec.sram i

def setSram (s : State) (i : Nat) (x : Option Ctx) : State :=
  { s with sec := { s.sec with sram := match x with
    | some x => fput s.sec.sram i x
    | none => fdel s.sec.sram i } }

/-- Whether an earlier command of the function that names the context is not final: commands that name one context are served in
fetch order (R420). -/
def ctxBehind (s : State) (c : Cmd) (i : Nat) : Bool :=
  s.cmds.any fun d => d.fn == c.fn && Nat.blt d.uid c.uid &&
    (((D.op d == 0x52 || D.op d == 0x53) && D.at d 26 2 == i) || ((D.op d == 0x54 || D.op d == 0x55) && D.res d == i))

/-- The same for the wrapped context of CTX_SAVE and CTX_RESTORE (R420). -/
def wrappedBehind (s : State) (c : Cmd) (w : Nat) : Bool :=
  s.cmds.any fun d => d.fn == c.fn && Nat.blt d.uid c.uid && (D.op d == 0x54 || D.op d == 0x55) && D.at d 24 2 == w

/-- The MAC takes bytes; whole blocks are run, the rest waits. -/
def Ctx.mix (x : Ctx) (ks : List (List Nat)) (l : List Byte) : Ctx :=
  let a := x.part ++ l
  let n := a.length / 16 * 16
  { x with mac := cbcMac ks x.mac (a.take n), part := a.drop n }

/-- The unfinished block is padded with zeros and run. -/
def Ctx.pad (x : Ctx) (ks : List (List Nat)) : Ctx :=
  if x.part = [] then x else { x with mac := cbcMac ks x.mac (padBlock x.part), part := [] }

/-- A context at a FIRST part: B0, and the encoded length of the associated data (R419; SP 800-38C). -/
def newCtx (r : Nat) (k : Key) (nonce : List Byte) (msg ad : Nat) : Ctx :=
  let ks := roundKeys k.material
  let x : Ctx := { ref := r, gen := k.gen, nonce := nonce, msgLeft := msg, adLeft := ad, tlen := tagBytes k.tlen,
                   mac := cbcMac ks (List.replicate 16 0) (ccmB0 nonce (tagBytes k.tlen) ad msg) }
  if ad = 0 then x else x.mix ks (if ad < 0xFF00 then toBE 2 ad else [0xFF, 0xFE] ++ toBE 4 ad)

/-- The tag of a context whose parts are all in. -/
def Ctx.tag (x : Ctx) (ks : List (List Nat)) : List Byte := ((xorBytes (x.pad ks).mac (ccmStream ks x.nonce 0)).take x.tlen)

/-- One CCM part on its context: the data of the part, `at` where it lies in BUF (R419, R412). -/
def ccmPart (s : State) (c : Cmd) (dec : Bool) (i : Nat) (x : Ctx) (k : Key) (start : Nat) (data : List Byte) : State :=
  let fl := D.at c 24 1
  let last := bit fl 1
  let ks := roundKeys k.material
  let free := fun s => setSram s i none
  let s := touchKey s x.ref
  let ad := bit fl 2
  -- the last bytes of the LAST part of a decryption are the tag
  let n := if dec && last then data.length - x.tlen else data.length
  let body := data.take n
  if (dec && last && Nat.blt data.length x.tlen) ∨ (if ad then x.adLeft < n else x.msgLeft < n ∨ x.adLeft ≠ 0) then malformed (free s) c 16
  else
    let out := xorBytes body (ccmKeystream ks x.nonce x.pos n)
    let y := if ad then
        let y := { x.mix ks body with adLeft := x.adLeft - n }
        if y.adLeft = 0 then y.pad ks else y
      else { x.mix ks (if dec then out else body) with msgLeft := x.msgLeft - n, pos := x.pos + n }
    let len := freeNat s 32
    let s := usedFree s
    let s := if ad || n == 0 then s else post s (.hostWrite c.fn (D.buf c + start) out)
    if !last then complete (setSram s i (some y)) c St.done 0 len
    else if dec then
      if data.drop n = y.tag ks then complete (free s) c St.done 0 len
      else complete (raise (bump (free s) R.SEC_AUTHFAIL_CNT) F.SEC_EVT_AUTH_FAIL) c St.authFail 0 len
    else complete (post (free s) (.hostWrite c.fn (D.buf c + start + n) (y.tag ks))) c St.done 0 len

/-- A CCM command: FIRST opens its context, another part continues one (R419, R421). The final LEN is not stated: free. -/
def ccmCmd (s : State) (c : Cmd) (dec : Bool) (buf : List Byte) : State :=
  let i := D.at c 26 2
  let fl := D.at c 24 1
  let first := bit fl 0
  let d := slice buf 0 (D.len c)
  if ctxBehind s c i then s
  else if first && !refOk (D.res c) then malformed s c 4
  else if i / 8 ≠ c.fn ∨ i > 63 ∨ (first && !ownsRef s c.fn (D.res c)) then notOwned s c
  else if first then
    if D.len c < 13 then malformed s c 16
    else match keyBar s (D.res c) Use.hostCcm, key s (D.res c) with
      | none, some k =>
        if (sram s i).isSome then wrongState s c 0x3D
        else ccmPart s c dec i (newCtx (D.res c) k (d.take 13) (D.at c 28 2) (D.at c 30 2)) k 13 (d.drop 13)
      | some e, _ => keyRefused s c (D.res c) e
      | none, none => wrongState s c 0x3B
  else
    match sram s i with
    | none => wrongState s c 0x3D
    | some x => match (key s x.ref).filter fun k => k.gen == x.gen with
      | some k => ccmPart s c dec i x k 0 d
      | none => wrongState s c 0x3B

/-- CCM_ENCRYPT. -/
def execCcmEncrypt (uid : Nat) (buf : List Byte) (s : State) : Answer :=
  done (withCmd s uid 0x52 fun s c => withEngine s c fun s => ccmCmd s c false buf)

/-- CCM_DECRYPT. -/
def execCcmDecrypt (uid : Nat) (buf : List Byte) (s : State) : Answer :=
  done (withCmd s uid 0x53 fun s c => withEngine s c fun s => ccmCmd s c true buf)

/-- CTX_SAVE (R420): the context is wrapped into the system area and freed. -/
def execCtxSave (uid : Nat) (s : State) : Answer :=
  done (withCmd s uid 0x54 fun s c => withEngine s c fun s =>
    let i := D.res c
    let w := D.at c 24 2
    if ctxBehind s c i || wrappedBehind s c w then s
    else if i > 63 ∨ i / 8 ≠ c.fn ∨ w > 4095 ∨ w / 512 ≠ c.fn then notOwned s c
    else match sram s i with
      | none => wrongState s c 0x3D
      | some x =>
        let s := setSram s i none
        complete (usedFree { s with sec := { s.sec with wrapped := fput s.sec.wrapped w x } }) c St.done 0 (freeNat s 32))

/-- CTX_RESTORE (R420, R421): the wrapped context returns to a free SRAM context if its key is still of the same generation. -/
def execCtxRestore (uid : Nat) (s : State) : Answer :=
  done (withCmd s uid 0x55 fun s c => withEngine s c fun s =>
    let i := D.res c
    let w := D.at c 24 2
    if ctxBehind s c i || wrappedBehind s c w then s
    else if i > 63 ∨ i / 8 ≠ c.fn ∨ w > 4095 ∨ w / 512 ≠ c.fn then notOwned s c
    else match fget s.sec.wrapped w with
      | none => wrongState s c 0x3D
      | some x =>
        if (sram s i).isSome || !((key s x.ref).any fun k => k.gen == x.gen) then wrongState s c 0x3D
        else
          let s := setSram s i (some x)
          complete (usedFree { s with sec := { s.sec with wrapped := fdel s.sec.wrapped w } }) c St.done 0 (freeNat s 32))

/-! ### Public-key commands (R422 to R424, R441) -/

/-- A public-key command that names a slot: ownership, presence and use, then the engine. -/
def pkCmd (s : State) (c : Cmd) (use op : Nat) (buf : List Byte) : State :=
  let r := D.res c
  if pkBehind s c then s
  else if !refOk r || bit r 31 then malformed s c 4
  else if !ownsKey s c.fn r then notOwned s c
  else match keyBar s r use with
    | some e => keyRefused s c r e
    | none => pkQueue (touchKey s r) c op buf

/-- ECDSA_SIGN. -/
def execEcdsaSign (uid : Nat) (buf : List Byte) (s : State) : Answer :=
  done (withCmd s uid 0x58 fun s c => withEngine s c fun s => pkCmd s c Use.sign 0 (slice buf 0 (D.len c)))

/-- ECDSA_VERIFY. -/
def execEcdsaVerify (uid : Nat) (buf : List Byte) (s : State) : Answer :=
  done (withCmd s uid 0x59 fun s c => withEngine s c fun s =>
    if pkBehind s c then s else if D.len c < 128 then malformed s c 16 else pkQueue s c 1 (slice buf 0 (D.len c)))

/-- ECDH: EXPORT needs the policy; without it the destination slot is the function's, its use an AES-256 use (R423). -/
def execEcdh (uid : Nat) (buf : List Byte) (s : State) : Answer :=
  done (withCmd s uid 0x5A fun s c => withEngine s c fun s =>
    let exp := bit (D.at c 26 1) 0
    let use := (List.range 7).findIdx fun i => D.at c 27 1 == 2 ^ i
    let dst := D.at c 24 2
    if pkBehind s c then s
    else if exp && !isSet s F.SEC_KPOL_ECDH_EXPORT then wrongState s c 0x3C
    else if !exp && !useOk false 2 use then malformed s c 27
    else if !exp && Nat.blt 16383 dst then malformed s c 24
    else if !exp && !ownsKey s c.fn dst then notOwned s c
    else if !exp && ctxNames s dst then wrongState s c 0x3D
    else pkCmd s c Use.ecdh 2 (slice buf 0 64))

/-- QUOTE (R441). -/
def execQuote (uid : Nat) (buf : List Byte) (s : State) : Answer :=
  done (withCmd s uid 0x60 fun s c => withEngine s c fun s =>
    if pkBehind s c then s
    else if !isSet s F.ATT_STATUS_MEAS_FINAL then wrongState s c 0x3F
    else if isSet s F.ATT_STATUS_AK_INVALID then wrongState s c 0x3E
    else pkQueue s c 4 (slice buf 0 32))

/-- A signature with fresh nonces until r and s are not 0 (R423): r, s and the state. -/
def signWith (d e : Nat) : Nat → State → Nat × Nat × State
  | 0, s => (0, 0, s)
  | n + 1, s =>
    let k := freeScalar s
    let s := usedFree s
    match ecdsaWith d e k with
    | some (r, t) => (r, t, s)
    | none => signWith d e n s

/-- RESULT and outputs of a signature. -/
def doSign (s : State) (d : Nat) (buf : List Byte) : Nat × List Byte × State :=
  if buf.length ≠ 32 ∧ buf.length ≠ 48 then (Pk.range, [], s)
  else match scalarBad d with
    | some e => (e, [], s)
    | none => let (r, t, s) := signWith d (beNat (buf.take 32)) 64 s; (Pk.ok, toBE 32 r ++ toBE 32 t, s)

/-- RESULT of a verification. -/
def doVerify (buf : List Byte) : Nat :=
  if buf.length ≠ 160 ∧ buf.length ≠ 176 then Pk.range else
  match ptOf (buf.take 64) with
  | .error e => e
  | .ok q =>
    let r := beNat (slice buf 64 32)
    let t := beNat (slice buf 96 32)
    if ecdsaOk q r t (beNat (slice buf 128 32)) then Pk.ok else Pk.invalidSig

/-- RESULT and shared secret of a key agreement. -/
def doEcdh (d : Nat) (buf : List Byte) : Nat × List Byte :=
  match scalarBad d, ptOf buf with
  | some e, _ => (e, [])
  | none, .error e => (e, [])
  | none, .ok q => match ptMul d (some q) with
    | none => (Pk.infinity, [])
    | some z => (Pk.ok, toBE 32 z.1)

/-- Put the secret of a key agreement into its slot, whose row no longer holds a key (R416, R423). -/
def storeSecret (s : State) (c : Cmd) (z : List Byte) : State :=
  let m := (sha384 (z ++ slice c.desc 28 4)).take 32
  let use := (List.range 7).findIdx fun i => D.at c 27 1 == 2 ^ i
  let dst := D.at c 24 2
  let s := if (key s dst).any (·.persist) then writeRecord s (keyCopies dst) 0 (List.replicate 64 0) .none else s
  installKey s dst { type := 2, use := use, tlen := getF s F.SEC_KPOL_MIN_TLEN, material := m, owner := c.fn }

/-- The running operation ends: RESULT and outputs in BUF, zeros where the result is not OK (R424). -/
def pkFinish (s : State) (o : PkOp) (c : Cmd) : State :=
  let w := fun (s : State) (l : List Byte) => post s (.hostWrite c.fn (D.buf c) l)
  match o.op with
  | 0 => let (r, out, s) := doSign s o.scalar o.buf
         complete (w s (toLE 4 r ++ slice out 0 64)) c St.done 0 68
  | 1 => complete (w s (toLE 4 (doVerify o.buf))) c St.done 0 4
  | 2 =>
    let (r, z) := doEcdh o.scalar o.buf
    let exp := bit (D.at c 26 1) 0
    if r = Pk.ok ∧ !exp ∧ ctxNames s (D.at c 24 2) then wrongState s c 0x3D else
    let s := if r = Pk.ok ∧ !exp then storeSecret s c z else s
    complete (w s (toLE 4 r ++ (if exp then slice z 0 32 else []))) c St.done 0 (if exp then 36 else 4)
  | 3 =>
    let d := freeScalar s
    let s := usedFree s
    loadKey (w s (ptBytes (ptMul d p256G))) c o.buf (toBE 32 d) 64
  | _ =>
    let ak := attestKey s
    let (r, t, s) := signWith ak (beNat ((sha384 o.body).take 32)) 64 s
    let pub := bit (D.at c 24 1) 0
    let q := o.body ++ toBE 32 r ++ toBE 32 t ++ (if pub then ptBytes (ptMul ak p256G) else [])
    complete (w s q) c St.done 0 q.length

/-- PK_OPERATION_DONE (R422, R424): the operation's outputs and completion, and the next operation. -/
def execPkOperationDone (s : State) : Answer :=
  match s.sec.pkRun with
  | none => done s
  | some o =>
    let s := { s with sec := { s.sec with pkRun := none } }
    done (pkNext (match findCmd s o.uid with
      | some c => pkFinish s o c
      | none => s))

end Sys2Proof.Machine
end

