-- ==== Sys2Proof/Machine/Mesh.lean ====
section
/-! DEFINITION. Vetch: the node directory, link costs, source routes, repair and the seen cache (R277 to R304). -/

namespace Sys2Proof.Machine

def updMesh (s : State) (f : Mesh → Mesh) : State := { s with mesh := f s.mesh }

/-- Number of the current epoch (R105). -/
def epochNow (s : State) : Nat := cidxNow s / 256

/-- Epochs since `e` (R106). -/
def epochAge (s : State) (e : Nat) : Nat := (epochNow s + 2 ^ 24 - e % 2 ^ 24) % 2 ^ 24

/-! ### The directory tables (R297 to R301) -/

/-- The keyed hash of R297. -/
def vetHash (k j v : Nat) : Nat :=
  let m := 2 ^ 64
  let x := Nat.xor k ((j * 2 ^ 40 + v) % m)
  let x := Nat.xor x (x / 2 ^ 30) * 0xBF58_476D_1CE4_E5B9 % m
  let x := Nat.xor x (x / 2 ^ 27) * 0x94D0_49BB_1331_11EB % m
  Nat.xor x (x / 2 ^ 31)

/-- The first entry of the bucket of an address in table `j`. -/
def bucketAt (s : State) (j a : Nat) : Nat := j * 163840 + 4 * (vetHash s.mesh.key.toNat j a / 2 ^ 32 * 40960 / 2 ^ 32)

/-- The four places of a bucket. -/
def places (b : Nat) : List Nat := [b, b + 1, b + 2, b + 3]

/-- Where an address may lie, table 0 first. -/
def homes (s : State) (a : Nat) : List Nat := places (bucketAt s 0 a) ++ places (bucketAt s 1 a)

/-- The place that holds an address. -/
def dirPlace (s : State) (a : Nat) : Option Nat := (homes s a).find? fun p => (fget s.mesh.tables p).any fun r => r.addr == a

/-- Look an address up (R298). -/
def dirFind (s : State) (a : Nat) : Option DirRec :=
  match dirPlace s a with
  | some p => fget s.mesh.tables p
  | none => s.mesh.stash.find? fun r => r.addr == a

def setPlace (s : State) (p : Nat) (r : DirRec) : State := updMesh s fun m => { m with tables := fput m.tables p r }

/-- Change a record in place. -/
def dirUpdate (s : State) (a : Nat) (f : DirRec → DirRec) : State :=
  match dirPlace s a with
  | some p => match fget s.mesh.tables p with
    | some r => setPlace s p (f r)
    | none => s
  | none => updMesh s fun m => { m with stash := m.stash.map fun r => if r.addr = a then f r else r }

def freePlace (s : State) (l : List Nat) : Option Nat := l.find? fun p => (fget s.mesh.tables p).isNone

/-- The other bucket of the record at a place. -/
def otherBucket (s : State) (p : Nat) : List Nat :=
  match fget s.mesh.tables p with
  | some r => places (bucketAt s (if p < 163840 then 1 else 0) r.addr)
  | none => []

/-- Breadth-first search for a chain of moves that ends at a free place: paths of places, newest first (R299 step 3). -/
def chainGo (s : State) : Nat → List (List Nat) → Option (List Nat)
  | 0, _ => none
  | n + 1, paths =>
    match paths.findSome? fun pa => match pa with
        | p :: _ => (freePlace s (otherBucket s p)).map fun q => q :: pa
        | [] => none with
    | some c => some c
    | none => chainGo s n (paths.flatMap fun pa => match pa with
        | p :: _ => (otherBucket s p).map fun q => q :: pa
        | [] => [])

/-- Carry a chain out from its free end; the first place of it becomes free. -/
def moveChain (s : State) : List Nat → State
  | q :: p :: l => moveChain (match fget s.mesh.tables p with
    | some r => updMesh (setPlace s q r) fun m => { m with tables := fdel m.tables p }
    | none => s) (p :: l)
  | _ => s

/-- Try to place a record in the tables (R299 steps 2 and 3). -/
def placeRec (s : State) (r : DirRec) : Option State :=
  match freePlace s (homes s r.addr) with
  | some p => some (setPlace s p r)
  | none => match chainGo s 3 ((homes s r.addr).map fun p => [p]) with
    | some c => match c.getLast? with
      | some p => some (setPlace (moveChain s c) p r)
      | none => none
    | none => none

/-- An insert is refused or dropped (R299, R301). -/
def countRefused (s : State) : State := bump s R.VET_DIR_REFUSE_CNT

/-- Insert a record (R299, R301): in the stash while it holds fewer than `lim`. -/
def dirInsert (s : State) (r : DirRec) (lim : Nat) : Option State :=
  if (dirFind s r.addr).isSome then some (dirUpdate s r.addr fun _ => r)
  else match placeRec s r with
    | some t => some t
    | none =>
      if s.mesh.stash.length < lim then
        let s := updMesh s fun m => { m with stash := m.stash ++ [r] }
        some (if s.mesh.stash.length ≥ 48 then raise s F.VET_EVT_STASH_HIGH else s)
      else none

/-- Learn an address inside a committed partition (R301), reported now or heard in a frame of cycle `heard`. -/
def dirLearn (s : State) (a : Nat) (heard : Option Nat) : State :=
  let e := epochNow s
  let upd := fun (r : DirRec) => { r with epoch := e, last := heard.getD r.last }
  if a = 0 ∨ a = 0x3FFFF then s
  else if (dirFind s a).isSome then dirUpdate s a upd
  else if !tableInForce s then s
  else match dirInsert s (upd { addr := a, learned := true, dev := jirPos s }) 32 with
    | some t => t
    | none => countRefused s

/-- After a delete each stash entry is tried again, in stash order (R300). -/
def drainStash (s : State) : State :=
  s.mesh.stash.foldl (fun s r =>
    match placeRec s r with
    | some t => updMesh t fun m => { m with stash := m.stash.erase r }
    | none => s) s

/-- Remove a record. -/
def dirRemove (s : State) (a : Nat) : State :=
  let s := match dirPlace s a with
    | some p => updMesh s fun m => { m with tables := fdel m.tables p }
    | none => updMesh s fun m => { m with stash := m.stash.filter fun r => !(r.addr == a) }
  drainStash (updMesh s fun m => { m with routes := fdel m.routes a, dirty := true })

/-- Every record of the directory. -/
def dirAll (s : State) : List DirRec := s.mesh.tables.map Prod.snd ++ s.mesh.stash

/-! ### Sessions and hop limits (R281) -/

def active (s : State) (a : Nat) : Bool := (sess s a).any fun x => x.state == 0

/-- H_MAX: 1 to 8. -/
def hMax (s : State) : Nat := max 1 (min 8 (getF s F.VET_ROUTE_CFG_H_MAX))

def hopLimit (s : State) (r : DirRec) : Nat := if r.hmax = 0 then hMax s else min (hMax s) r.hmax

/-- The relays a command names belong to a function (R383). -/
def relaysOwned (s : State) (n : Nat) (l : List Nat) : Bool := l.all fun r => ownerOf s r == n

/-- The relays of a route meet R281 for a node. -/
def relaysOk (s : State) (a : Nat) (lim : Nat) (l : List Nat) : Bool :=
  Nat.ble 1 l.length && Nat.ble (l.length + 1) lim && (l.headD 0 |> active s) && l.dedup == l && !l.contains a && !l.contains (rootAddr s) &&
    l.all fun r => r != 0 && r != 0x3FFFF && (dirFind s r).any fun d => d.rly

/-! ### Link costs (R277 to R280) -/

def linkKey (a b : Nat) : Nat := a * 2 ^ 18 + b

def link (s : State) (a b : Nat) : Option Link := fget s.mesh.links (linkKey a b)

def ageMax (s : State) : Nat := max 1 (getF s F.VET_COST_CFG1_AGE_MAX)

def repairHold (s : State) : Nat := max 1 (getF s F.VET_ROUTE_CFG_REPAIR_HOLD)

/-- Measures of a direction: snr in 0.5 dB, er in percent, rt (R277, R279). -/
def measures (x : Link) : Option (Rat × Rat × Nat) :=
  let fs : List (Int × Nat × Nat × Bool) := x.frames
  let base : Option (Rat × Rat × Nat) := match x.rep with
    | some (a, b, c) => some ((a : Rat), (b : Rat), c)
    | none =>
      let n := x.frames.length
      if n = 0 then none else
      let snrs : List Int := fs.map fun f => f.1
      let ers : List Nat := fs.map fun f => f.2.1
      let decs : List Nat := fs.map fun f => f.2.2.1
      let er : Rat := if decs.sum = 0 then 0 else 100 * (ers.sum : Rat) / (decs.sum : Rat)
      some ((snrs.sum : Rat) / (n * 2 ^ 15), er, (fs.filter fun f => f.2.2.2).length)
  base.map fun (a, b, c) => (a, b, min 16 (c + x.rtUp))

/-- Cost of a direction; 4,095 means unusable (R277). None: neither measured nor reported. -/
def dirCost (s : State) (a b : Nat) : Option Nat :=
  match link s a b with
  | none => none
  | some x =>
    if x.failed.isSome then some 4095 else
    match measures x with
    | none => none
    | some (snr2, er, rt) =>
      let snr := snr2 / 2
      if snr < (sext 6 (getF s F.VET_COST_CFG1_SNR_MIN) : Rat) ∨ epochAge s x.epoch ≥ ageMax s then some 4095 else
      let d := (getF s F.VET_COST_CFG1_SNR_REF : Rat) - snr
      let c : Rat := getF s F.VET_COST_CFG0_BASE + getF s F.VET_COST_CFG0_W_SNR * max 0 d + getF s F.VET_COST_CFG0_W_ER * er +
        getF s F.VET_COST_CFG0_W_RT * rt
      some (min 4095 (rqNear 55 c.num c.den).toNat)

/-- Cost of a link (R278): 4,095 is that of an unusable one, and the cost of a link known in one direction may lie above. -/
def linkCost (s : State) (a b : Nat) : Nat :=
  match dirCost s a b, dirCost s b a with
  | some x, some y => max x y
  | some x, none => if x ≥ 4095 then 4095 else x + getF s F.VET_COST_CFG1_ASYM
  | none, some y => if y ≥ 4095 then 4095 else y + getF s F.VET_COST_CFG1_ASYM
  | none, none => 4095

/-- A frame whose header passed came from a sender: the device's own measures of that direction (R279). -/
def measure (s : State) (from' : Nat) (snr : Int) (erased decisions : Nat) (rtx : Bool) : State :=
  let k := linkKey from' (rootAddr s)
  let x := fgetD s.mesh.links k {}
  updMesh s fun m => { m with
    links := fput m.links k { x with frames := ((snr, erased, decisions, rtx) :: x.frames).take 16, epoch := epochNow s }, dirty := true }

/-- Keep the 16 neighbours of a node with the lowest cost (R280). -/
def keep16 (s : State) (b : Nat) : State :=
  let l := (s.mesh.links.filter fun e => e.1 % 2 ^ 18 == b).map fun e => (((dirCost s (e.1 / 2 ^ 18) b).getD 4095), e.1)
  if l.length ≤ 16 then s else
  let drop := (l.mergeSort fun x y => Nat.ble x.1 y.1).drop 16
  updMesh s fun m => { m with links := m.links.filter fun e => !(drop.any fun d => d.2 == e.1) }

/-- An accepted neighbour report replaces the entries for directions into the reporter (R280). -/
def report (s : State) (b : Nat) (l : List (Nat × Int × Nat × Nat)) : State :=
  let s := updMesh s fun m => { m with
    links := l.foldl (fun ls (a, snr, er, rt) =>
        let old := fgetD m.links (linkKey a b) {}
        fput ls (linkKey a b) { rep := some (snr, er, rt), epoch := epochNow s, failed := old.failed })
      (m.links.filter fun e => !(e.1 % 2 ^ 18 == b)), dirty := true }
  keep16 (l.foldl (fun s e => dirLearn s e.1 none) s) b

/-! ### Repair (R289) -/

/-- A repair takes place. -/
def countRepair (s : State) : State := updMesh (raise (bump s R.VET_REPAIR_CNT) F.VET_EVT_REPAIR) fun m => { m with dirty := true }

/-- Mark a link failed for REPAIR_HOLD epochs; each end keeps at most 16 neighbours (R280). -/
def failLink (s : State) (a b : Nat) : State :=
  let until' := (epochNow s + repairHold s) % 2 ^ 24
  let mark := fun (m : Mesh) k => { m with links := fput m.links k { fgetD m.links k { epoch := epochNow s } with failed := some until' } }
  countRepair (keep16 (keep16 (updMesh s fun m => mark (mark m (linkKey a b)) (linkKey b a)) a) b)

/-- A routed command ended without response (R289): rt of every link beyond the first is raised. -/
def raiseRt (s : State) (path : List Nat) : State :=
  let pairs := (path.drop 1).zip (path.drop 2)
  let up := fun (m : Mesh) k => match fget m.links k with
    | some x => { m with links := fput m.links k { x with rtUp := min 16 (x.rtUp + 1) } }
    | none => m
  countRepair (updMesh s fun m => pairs.foldl (fun m (a, b) => up (up m (linkKey a b)) (linkKey b a)) m)

/-- REPAIR_HOLD_EXPIRY (R289): the link takes its measured cost again. -/
def execRepairHoldExpiry (a b : BitVec 18) (s : State) : Answer :=
  let due := fun (x : Link) => x.failed.any fun e => epochAge s e < 2 ^ 23
  let keys := [linkKey a.toNat b.toNat, linkKey b.toNat a.toNat]
  if !(keys.any fun k => (fget s.mesh.links k).any due) then done s else
  done (updMesh s fun m => { m with
    links := m.links.map fun e => if keys.contains e.1 && due e.2 then (e.1, { e.2 with failed := none }) else e, dirty := true })

/-- NEIGHBOUR_AGE_EXPIRY (R277, R289): a direction unreported for AGE_MAX epochs is removed. -/
def execNeighbourAgeExpiry (sender receiver : BitVec 18) (s : State) : Answer :=
  match link s sender.toNat receiver.toNat with
  | none => done s
  | some x =>
    if epochAge s x.epoch < ageMax s then done s
    else done (countRepair (updMesh s fun m => { m with links := fdel m.links (linkKey sender.toNat receiver.toNat) }))

/-! ### Routes (R281, R284, R287, R288) -/

/-- A node's route: the relays in force. -/
def routeOf (s : State) (a : Nat) : Option (List Nat) := (fget s.mesh.routes a).map fun r => r.relays

/-- The links of a route: root, relays, node. -/
def pathOf (s : State) (a : Nat) (l : List Nat) : List Nat := [rootAddr s] ++ l ++ [a]

/-- Cost of a path with the link costs of now; 65,535 when a link has the cost 4,095 (R278, R284). -/
def pathCost (s : State) (l : List Nat) : Nat :=
  let cs := (l.zip (l.drop 1)).map fun (a, b) => linkCost s a b
  if cs.contains 4095 then 65535 else cs.sum

/-- The relays are still usable (R285). -/
def routeUsable (s : State) (a : Nat) (l : List Nat) : Bool := l.headD 0 |> fun r => active s r && Nat.blt (pathCost s (pathOf s a l)) 65535

/-- A label of the relaxation: cost and the nodes passed, the device left out. -/
abbrev PLabel := Nat × List Nat

/-- Lexicographic order of address lists. -/
def lexLt : List Nat → List Nat → Bool
  | [], [] => false
  | [], _ => true
  | _, [] => false
  | a :: l, b :: m => Nat.blt a b || (a == b && lexLt l m)

/-- The better of two labels (R284): cost, then hops, then relays. -/
def labelLt (x y : PLabel) : Bool :=
  Nat.blt x.1 y.1 || (x.1 == y.1 && (Nat.blt x.2.length y.2.length || (x.2.length == y.2.length && lexLt x.2 y.2)))

/-- Put a label if it is better. -/
def relax (m : FMap PLabel) (v : Nat) (l : PLabel) : FMap PLabel :=
  match fget m v with
  | some o => if labelLt l o then fput m v l else m
  | none => fput m v l

/-- Undirected usable links: none of cost 4,095 (R284). -/
def usableLinks (s : State) : List (Nat × Nat × Nat) :=
  let pairs := (s.mesh.links.map fun e => let a := e.1 / 2 ^ 18; let b := e.1 % 2 ^ 18; if a ≤ b then (a, b) else (b, a)).dedup
  (pairs.map fun (a, b) => (a, b, linkCost s a b)).filter fun e => e.2.2 != 4095

/-- One round of the hop-bounded relaxation: relays need RLY = 1. -/
def relaxRound (s : State) (es : List (Nat × Nat × Nat)) (m : FMap PLabel) : FMap PLabel :=
  let step := fun (n : FMap PLabel) (u v c : Nat) =>
    match fget m u with
    | some (k, p) => if (dirFind s u).any (fun d => d.rly) && !p.contains v && v != rootAddr s then relax n v (k + c, p ++ [v]) else n
    | none => n
  es.foldl (fun n (a, b, c) => step (step n a b c) b a c) m

/-- Least-cost labels for each hop bound 1 to H_MAX: the first hop goes to a node with an ACTIVE session. -/
def labels (s : State) : List (FMap PLabel) :=
  let es := usableLinks s
  let first := es.foldl (fun m (a, b, c) =>
    let v := if a = rootAddr s then b else a
    if (a = rootAddr s ∨ b = rootAddr s) ∧ active s v then relax m v (c, [v]) else m) []
  ((List.range (hMax s - 1)).foldl (fun (l : List (FMap PLabel)) _ => l ++ [relaxRound s es (l.getLastD [])]) [first])

/-- A route as the decision event carries it (R531). -/
def routeCode (l : List Nat) : Nat := l.headD 0 + 2 ^ 24 * l.length

/-- Replace, drop or keep one node's route (R284, R287). A pinned route is kept, its cost as the links have it now; a node with an ACTIVE session is
reached directly and has none (R281, R288). -/
def newRoute (s : State) (ls : List (FMap PLabel)) (r : DirRec) : State :=
  if r.pin then match fget s.mesh.routes r.addr with
    | some x =>
      let c := pathCost s (pathOf s r.addr x.relays)
      dirUpdate (updMesh s fun m => { m with routes := fput m.routes r.addr { x with cost := c } }) r.addr fun d => { d with cost := c }
    | none => s
  else if active s r.addr then
    let c := linkCost s (rootAddr s) r.addr
    dirUpdate (updMesh s fun m => { m with routes := fdel m.routes r.addr }) r.addr fun d => { d with relays := [], cost := c }
  else
  let lim := hopLimit s r
  let best := (fget (ls.getD (lim - 1) []) r.addr).map fun (c, p) => (c, p.dropLast)
  let cur := fget s.mesh.routes r.addr
  let put := fun (s : State) (l : List Nat) (c : Nat) =>
    let s := updMesh s fun m => { m with routes := fput m.routes r.addr { relays := l, cost := c } }
    let s := dirUpdate s r.addr fun d => { d with relays := l, cost := c }
    decision (raise s F.VET_EVT_ROUTE_CHG) (ownerOf s r.addr) 6 false r.addr (routeCode ((cur.map (·.relays)).getD [])) (routeCode l) c
  match cur, best with
  | none, none => s
  | none, some (c, l) => put s l c
  | some x, b =>
    let now := pathCost s (pathOf s r.addr x.relays)
    let bad := !routeUsable s r.addr x.relays || Nat.blt lim (x.relays.length + 1)
    match b with
    | none =>
      if bad then
        let s := updMesh s fun m => { m with routes := fdel m.routes r.addr }
        let s := dirUpdate s r.addr fun d => { d with relays := [], cost := 0xFFFF }
        decision (raise s F.VET_EVT_ROUTE_CHG) (ownerOf s r.addr) 6 false r.addr (routeCode x.relays) 0 0xFFFF
      else s
    | some (c, l) =>
      if l = x.relays ∨ !(bad || Nat.blt (c + getF s F.VET_ROUTE_CFG_HYST) now) then
        dirUpdate (updMesh s fun m => { m with routes := fput m.routes r.addr { x with cost := now } }) r.addr fun d => { d with cost := now }
      else put s l c

/-- The device's own route cost to a node: 0xFFFF with no route. -/
def ownCost (s : State) (a : Nat) : Nat :=
  if active s a then linkCost s (rootAddr s) a else ((fget s.mesh.routes a).map (·.cost)).getD 0xFFFF

/-- The device with the lowest route cost to a node, with hysteresis (R288). -/
def newDev (s : State) (r : DirRec) : State :=
  let own := jirPos s
  let all := (own, ownCost s r.addr) :: fgetD s.mesh.others r.addr []
  let costOf := fun d => ((all.find? fun e => e.1 == d).map Prod.snd).getD 0xFFFF
  let best := all.foldl (fun b e => if e.2 < b.2 then e else b) (r.dev, costOf r.dev)
  if best.1 ≠ r.dev ∧ best.2 + getF s F.VET_ROUTE_CFG_HYST < costOf r.dev
  then dirUpdate s r.addr fun d => { d with dev := best.1 } else s

/-- A discovery request for a node left with no usable route (R290). -/
def discover (s : State) (a : Nat) : State :=
  match dirFind s a with
  | none => s
  | some r =>
    if !isSet s F.VET_CTRL_DISC || s.mesh.method || !rootSet s || r.disc.any (fun e => epochAge s e < repairHold s) then s else
    let pl := [(3 : Byte)] ++ toBE 3 a
    let h := mkHdr 0x3FFFF (rootAddr s) Lbl.route pl.length 0 (max 1 (getF s F.VET_FLOOD_CFG_TTL)) (freeNat s 12) false false false (freeNat s 2)
    let s := dirUpdate (usedFree s) a fun d => { d with disc := some (epochNow s) }
    updMesh s fun m => { m with floods := m.floods ++ [(h, pl)] }

/-- ROUTE_COMPUTE_DONE (R284, R288, R290): under host-managed relay no routes are computed (R294). -/
def execRouteComputeDone (s : State) : Answer :=
  if !s.mesh.dirty || !domainOn s 9 || s.pwr.watchdog then done s else
  if s.mesh.method then done (updMesh s fun m => { m with dirty := false }) else
  let ls := labels s
  let rs := dirAll s
  let s := updMesh s fun m => { m with dirty := false }
  let s := rs.foldl (fun s r => newRoute s ls r) s
  let s := rs.foldl (fun s r => newDev s ((dirFind s r.addr).getD r)) s
  let lost := fun (s : State) (a : Nat) => a != rootAddr s && !active s a && ((routeOf s a).map (routeUsable s a)).getD false == false
  done (rs.foldl (fun s r => if lost s r.addr then discover s r.addr else s) s)

/-- LEARNED_ENTRY_AGE_EXPIRY (R301): a learned entry not heard or reported for AGE_MAX epochs, with no session and used by no
route, is deleted. -/
def execLearnedEntryAgeExpiry (addr : BitVec 18) (s : State) : Answer :=
  let a := addr.toNat
  match dirFind s a with
  | none => done s
  | some r =>
    if r.learned && Nat.ble (ageMax s) (epochAge s r.epoch) && (sess s a).isNone && !(s.mesh.routes.any fun e => e.2.relays.contains a) &&
      !((dirAll s).any fun d => d.pin && d.relays.contains a)
    then done (dirRemove s a) else done s

/-- A write of VET_ROOT (R303): discarded with CFG_ERR while Sorrel is enabled. -/
def writeRoot (s : State) (v : Word) : State :=
  if isSet s F.MAC_CTRL_EN then raise s F.VET_EVT_CFG_ERR
  else updMesh (wrN s R.VET_ROOT (bits v.toNat 17 0)) fun m => { m with dirty := true }

/-- VET_ROOT_WRITE (R303). -/
def execVetRootWrite (v : Word) (s : State) : Answer := done (access s R.VET_ROOT fun s => writeRoot s v)

/-- JIROTH_ROUTE (R288, R496): another device's neighbour reports and route costs. -/
def execJirothRoute (src : Nat) (costs : List (Nat × Nat)) (reports : List (Nat × Nat × Int × Nat × Nat)) (s : State) : Answer :=
  if !jirRx s || src == jirPos s then done s else
  -- a report replaces the entries of its reporter (R280); with EN = 0 reports are ignored (R304)
  let taken := if isSet s F.VET_CTRL_EN then (reports.map Prod.fst).dedup else []
  let s := taken.foldl (fun s rcv => report s rcv ((reports.filter fun r => r.1 == rcv).map Prod.snd)) s
  let s := forward s 5 src ((costs.flatMap fun e => [e.1, e.2]) ++ reports.flatMap fun (rcv, snd, snr, er, rt) => [rcv, snd, wrap 8 snr, er, rt])
  let s := costs.foldl (fun s (n, c) =>
    let l := (fgetD s.mesh.others n []).filter fun e => !(e.1 == src)
    updMesh s fun m => { m with others := fputD m.others n [] (if c ≥ 0xFFFF then l else l ++ [(src, c)]) }) s
  done (costs.foldl (fun s e => match dirFind s e.1 with
    | some r => newDev s r
    | none => s) s)

/-! ### Directory commands (R296, R299, R300) -/

/-- A directory record as the host reads it (R296). -/
def dirBytes (s : State) (r : DirRec) : List Byte :=
  let r := match r.policy with
    | some (pin, hm, rel) => { r with pin := pin, hmax := hm, relays := if pin then rel else r.relays }
    | none => r
  let id := r.dev % 16 * 2 ^ 28 + b2n (active s r.addr) * 2 ^ 24 + b2n r.pin * 2 ^ 23 + b2n r.rly * 2 ^ 22 + b2n r.learned * 2 ^ 21 +
    ownerOf s r.addr * 2 ^ 18 + r.addr
  let n := r.relays.length
  toLE 4 id ++ toLE 2 r.cost ++ [BitVec.ofNat 8 (r.hmax * 16 + n % 8)] ++
    (List.range 7).flatMap (fun i => toLE 3 (r.relays.getD i 0)) ++ toLE 4 r.last

/-- DIR_READ (R296, R298): the record of the address; what an address without one reads as is not stated: free. -/
def execDirRead (uid : Nat) (s : State) : Answer :=
  done (withCmd s uid 0x30 fun s c =>
    if ownerOf s (D.res c) ≠ c.fn ∧ c.fn ≠ 0 then notOwned s c else
    match dirFind s (D.res c) with
    | some r => complete (post s (.hostWrite c.fn (D.buf c) (dirBytes s r))) c St.done 0 32
    | none => complete (usedFree (post s (.hostWrite c.fn (D.buf c) (freeBytes s 32)))) c St.done 0 32)

/-- An insert is refused (R299): counted, DIR_REFUSED set. -/
def refuseInsert (s : State) : State := raise (countRefused s) F.VET_EVT_DIR_REFUSED

/-- The record of a write is well formed: reserved bits 0, its address, unused relays 0. -/
def recOk (a : Nat) (b : List Byte) : Bool :=
  let id := leAt b 0 4
  let n := leAt b 6 1 % 8
  bits id 17 0 == a && bits id 27 25 == 0 && !bit (leAt b 6 1) 3 &&
    (List.range 7).all fun i => let x := leAt b (7 + 3 * i) 3; Nat.blt x (2 ^ 18) && (Nat.blt i n || x == 0)

/-- Host policies of the directory take effect at an epoch boundary (R25, R287): the hop limit, and a pinned route with its relays. -/
def applyPolicy (s : State) (r : DirRec) : State :=
  match r.policy with
  | none => s
  | some (pin, hm, rel) =>
    let cost := pathCost s (pathOf s r.addr rel)
    let s := dirUpdate s r.addr fun d =>
      if pin then { d with policy := none, pin := true, hmax := hm, relays := rel, cost := cost } else { d with policy := none, pin := false, hmax := hm }
    updMesh s fun m => { m with dirty := true, routes := if pin then fput m.routes r.addr { relays := rel, cost := cost } else m.routes }

/-- DIR_WRITE (R25, R281, R287, R299): a host record; a pinned route must meet R281. -/
def execDirWrite (uid : Nat) (buf : List Byte) (s : State) : Answer :=
  done (withCmd s uid 0x31 fun s c =>
    let a := D.res c
    let b := slice buf 0 32
    let id := leAt b 0 4
    let hm := leAt b 6 1 / 16
    let n := leAt b 6 1 % 8
    let rel := (List.range n).map fun i => leAt b (7 + 3 * i) 3
    let pin := bit id 23
    let lim := if hm = 0 then hMax s else min (hMax s) hm
    if a = 0 ∨ Nat.ble 0x3FFFF a then malformed (refuseInsert s) c 4
    else if ownerOf s a ≠ c.fn ∧ c.fn ≠ 0 then notOwned (refuseInsert s) c
    else if !recOk a b || (pin && !relaysOk s a lim rel) then malformed (refuseInsert s) c 0xFF
    else if pin && !relaysOwned s (ownerOf s a) rel then notOwned (refuseInsert s) c
    else
      let old := dirFind s a
      let o := old.getD { addr := a, last := 0, epoch := epochNow s, dev := jirPos s }
      let r := { o with rly := bit id 22, learned := false, policy := some (pin, hm, rel) }
      match dirInsert s r 64 with
      | none => complete (refuseInsert s) c 0x25 0 0
      | some t => complete (updMesh t fun m => { m with dirty := true }) c St.done 0 0)

/-- DIR_DELETE (R300, R376). -/
def execDirDelete (uid : Nat) (s : State) : Answer :=
  done (withCmd s uid 0x32 fun s c =>
    if ownerOf s (D.res c) ≠ c.fn ∧ c.fn ≠ 0 then notOwned s c
    else if (sess s (D.res c)).isSome then wrongState s c 0x31
    else complete (dirRemove s (D.res c)) c St.done 0 0)

/-! ### The seen cache (R292) -/

/-- Lifetime of a seen entry. -/
def seenT (s : State) : Nat := max 1 (getF s F.VET_FLOOD_CFG_SEEN_T)

/-- A flooded frame meets the seen cache: whether it is a duplicate (R292). -/
def seenCheck (s : State) (h : Nat) (payload : List Byte) : Bool × State :=
  let k := [Hdr.src h, Hdr.label h, Hdr.seq h, if payload = [] then Hdr.hcrc h else crc32Body payload]
  let set := vetHash s.mesh.key.toNat 2 (Hdr.src h + Hdr.label h * 2 ^ 18 + Hdr.seq h * 2 ^ 24) / 2 ^ 56
  let l := fgetD s.mesh.seen set []
  let alive := fun (e : List Nat × Nat) => Nat.blt ((cidxNow s + 2 ^ 32 - e.2) % 2 ^ 32) (seenT s)
  if l.any fun e => e.1 == k && alive e then (true, bump s R.VET_SEEN_DUP_CNT)
  else
    let live := l.filter alive
    let full := live.length ≥ 16
    let s := if full then raise (bump s R.VET_SEEN_EVICT_CNT) F.VET_EVT_SEEN_EVICT else s
    (false, updMesh s fun m => { m with seen := fput m.seen set ((k, cidxNow s) :: live.take 15) })

end Sys2Proof.Machine
end

