-- ==== Sys2Proof/Machine/Budget.lean ====
section
/-! DEFINITION. Duty budgets: bands, occupancy in bins, charges and the admission test (R271, R272). -/

namespace Sys2Proof.Machine

/-- A tone belongs to a band (R271). -/
def inBand (s : State) (n tone : Nat) : Bool :=
  isSet s (F.MAC_BAND_RANGE_EN n) && Nat.ble (getF s (F.MAC_BAND_RANGE_LO n)) tone && Nat.ble tone (getF s (F.MAC_BAND_RANGE_HI n))

/-- Bands that hold one of the tones. -/
def bandsOf (s : State) (tones : List Nat) : List Nat := (List.range 8).filter fun n => tones.any (inBand s n)

/-- Every tone lies in an enabled band (R271). -/
def tonesAllowed (s : State) (tones : List Nat) : Bool := tones.all fun t => (List.range 8).any fun n => inBand s n t

/-- The tones of a pair. -/
def pairTones (s : State) (pair : Nat) : List Nat := let e := activeTone s pair; [Tone.mark e, Tone.space e]

/-- WIN in 100 ms, as it acts. -/
def bandWin (s : State) (n : Nat) : Nat := max 1 (getF s (F.MAC_BAND_BUDGET_WIN n))

/-- WIN at which a band's bins are kept (R272). -/
def keptWin (s : State) (n : Nat) : Nat := fgetD s.bands.win n (bandWin s n)

/-- Length of a bin in ns: WIN / 64. -/
def binNs (win : Nat) : Nat := win * 1562500

/-- Total length of the union of intervals, cut to `[a, b)`. -/
def unionLen (a b : Nat) (l : List (Nat × Nat)) : Nat :=
  let l := (l.map fun (x, y) => (max a x, min b y)).filter fun (x, y) => Nat.blt x y
  let l := l.mergeSort fun x y => Nat.ble x.1 y.1
  (l.foldl (fun (acc : Nat × Nat) (x, y) => (acc.1 + (max acc.2 y - max acc.2 x), max acc.2 y)) (0, a)).1

/-- Key of occupancy carried over a change of WIN. -/
def carryKey (n p bin : Nat) : Nat := (n * 3 + p) * 2 ^ 40 + bin

/-- Phases a band's occupancy is kept for: one each with PERPH, all as one without (R271). -/
def bandPhases (s : State) (n : Nat) : List (List Nat) := if isSet s (F.MAC_BAND_RANGE_PERPH n) then [[0], [1], [2]] else [[0, 1, 2]]

/-- Occupancy of a bin in µs, rounded up, with more intervals beside the charges held (R272). -/
def binUse (s : State) (n : Nat) (ps : List Nat) (win bin : Nat) (extra : List (Nat × Nat)) : Nat :=
  let a := bin * binNs win
  let l := ((s.bands.charges.filter fun c => c.band == n && ps.contains c.ph).map fun c => (c.t0, c.t1)) ++ extra
  cdiv (unionLen a (a + binNs win) l) 1000 + (ps.map fun p => fgetD s.bands.carried (carryKey n p bin) 0).sum

/-- Bins an interval touches. -/
def bandBins (win : Nat) (i : Nat × Nat) : Nat × Nat := (i.1 / binNs win, (i.2 - 1) / binNs win)

/-- The bins of a band take the length of a changed WIN (R272): the occupancy of each old bin goes to the new bin that holds its end,
bins that end more than 65 new bins ago are dropped. Charges whose transmission has not begun keep their place, so that they can
still be refunded (log entry 40). -/
def rebin (s : State) (n : Nat) : State :=
  let win := bandWin s n
  let old := fgetD s.bands.win n win
  if old = win then { s with bands := { s.bands with win := fput s.bands.win n win } } else
  let now := s.mains.elapsed
  let past := s.bands.charges.filter fun c => c.band == n && Nat.ble c.t0 now
  -- the 65 bins that the band keeps
  let oldBins : List Nat := (((past.flatMap fun (c : Charge) => let (a, b) := bandBins old (c.t0, c.t1); List.range' a (b + 1 - a)) ++
    ((s.bands.carried.filter fun (e : Nat × Nat) => Nat.ble (carryKey n 0 0) e.1 && Nat.blt e.1 (carryKey (n + 1) 0 0)).map fun (e : Nat × Nat) => e.1 % 2 ^ 40)).dedup).filter
    fun b => Nat.ble (now / binNs old) (b + 64)
  let s' := { s with bands := { s.bands with charges := past } }
  let moved : List (Nat × Nat) := oldBins.flatMap fun b => (bandPhases s n).filterMap fun (ps : List Nat) =>
    let nb := (b + 1) * binNs old / binNs win
    if (nb + 65) * binNs win < now then none else some (carryKey n (ps.headD 0) nb, binUse s' n ps old b [])
  let kept := s.bands.carried.filter fun e => !(Nat.ble (carryKey n 0 0) e.1 && Nat.blt e.1 (carryKey (n + 1) 0 0))
  { s with bands := { s.bands with
      charges := s.bands.charges.filter fun c => !(c.band == n && Nat.ble c.t0 now),
      carried := moved.foldl (fun m (k, v) => fputD m k 0 (fgetD m k 0 + v)) kept,
      win := fput s.bands.win n win } }

/-- Charges that no run can contain any more, and carried bins as old, are dropped. -/
def pruneBands (s : State) : State :=
  let now := s.mains.elapsed
  let oldest := fun n => now - 130 * binNs (max (bandWin s n) (keptWin s n))
  { s with bands := { s.bands with
      charges := s.bands.charges.filter fun c => Nat.ble (oldest c.band) c.t1,
      carried := s.bands.carried.filter fun e => Nat.ble (now / binNs (keptWin s (e.1 / 2 ^ 40 / 3))) (e.1 % 2 ^ 40 + 130) } }

/-- Allowance of a band in µs × 65,536 × 256: the full one, or the spare share (R272, R388); none: no limit. -/
def allowance (s : State) (n : Nat) (spare : Bool) : Option Nat :=
  let a := getF s (F.MAC_BAND_BUDGET_ALLOW n)
  if a = 0xFFFF then none
  else some (bandWin s n * 100000 * a * (if spare then getF s F.TEN_CFG_SPARE_BGT else 256))

/-- Intervals on a phase. -/
abbrev Span := Nat × Nat × Nat

/-- A transmission's intervals in one band pass the test, for `held` the charges held or none (R272). -/
def bandAdmits (s : State) (n : Nat) (spare : Bool) (l : List Span) : Bool :=
  match allowance s n spare with
  | none => true
  | some lim =>
    let win := bandWin s n
    Nat.blt 0 lim && (bandPhases s n).all fun ps =>
      let mine := (l.filter fun (p, _, _) => ps.contains p).map fun (_, a, b) => (a, b)
      mine.all fun i =>
        let (a, b) := bandBins win i
        (List.range' (a - 64) (b + 1 - (a - 64))).all fun st =>
          Nat.ble (((List.range 65).map fun k => binUse s n ps win (st + k) mine).sum * 65536 * 256) lim

/-- The bands a transmission on a channel is charged to (R271). -/
def chanBands (s : State) (c : Chan) : List Nat := bandsOf s (pairTones s c.pair)

/-- Admission of copies: channel, start and end in elapsed ns. -/
def admits (s : State) (spare : Bool) (l : List (Chan × Nat × Nat)) : Bool :=
  (List.range 8).all fun n =>
    let mine := (l.filter fun (c, _, _) => (chanBands s c).contains n).map fun (c, a, b) => (c.ph, a, b)
    mine == [] || bandAdmits s n spare mine

/-- The transmission exceeds the allowance on its own (R272). -/
def neverAdmits (s : State) (l : List (Chan × Nat × Nat)) : Bool :=
  !admits { s with bands := {} } false l

/-- The bands of a transmission take a changed WIN at its test or charge (R272). -/
def rebinFor (s : State) (l : List Chan) : State := ((l.flatMap (chanBands s)).dedup).foldl rebin s

/-- Charge copies of a job (R272). -/
def charge (s : State) (job : Nat) (l : List (Nat × Chan × Nat × Nat)) : State :=
  let s := rebinFor s (l.map fun e => e.2.1)
  { s with bands := { s.bands with
      charges := s.bands.charges ++ l.flatMap fun (j, c, a, b) => (chanBands s c).map fun n => ⟨job, j, n, c.ph, a, b⟩ } }

/-- Refund one copy (R272). -/
def refund (s : State) (job j : Nat) : State :=
  { s with bands := { s.bands with charges := s.bands.charges.filter fun c => !(c.id == job && c.copy == j) } }

/-- MAC_BANDn_USED: the largest occupancy of a run that holds the current bin or a later one, over the phases, in 1/65,536 of WIN. -/
def bandUsed (s : State) (n : Nat) : Nat :=
  let win := keptWin s n
  let cur := s.mains.elapsed / binNs win
  let last := (s.bands.charges.filter fun c => c.band == n).foldl (fun m c => max m (c.t1 / binNs win)) cur
  let runs := (bandPhases s n).flatMap fun ps => (List.range' (cur - 64) (last + 1 - (cur - 64))).map fun st =>
    ((List.range 65).map fun k => binUse s n ps win (st + k) []).sum
  (rq 56 (runs.foldl max 0 * 65536 : Nat) (bandWin s n * 100000)).toNat

end Sys2Proof.Machine
end

