-- ==== Sys2Proof/Machine/Receive.lean ====
section
/-! DEFINITION. The receive chain: converter, FIR, injection point, Teasel, impulse blanker (R119 to R144), and the five-lane map
(R16, R131). -/

namespace Sys2Proof.Machine

def updRx (s : State) (i : Nat) (f : RxIn → RxIn) : State := setRx s i (f (rxIn s i))

/-! ### The filter in use (R127 to R130) -/

/-- Taps of a built-in filter. -/
def romTaps (two : Bool) : Nat := if two then 128 else 256

/-- First half of a symmetric filter within R128's limits, of unity gain with SHIFT 10: F4's, and F2's. -/
def spareF4 : List Int :=
  [-15, 177, 229, 296, 311, 215, 89, -59, -169, -156, -89, 34, 142, 133, 69, -59] ++
  [-177, -171, -103, 43, 177, 176, 101, -65, -222, -228, -145, 46, 229, 245, 154, -65] ++
  [-277, -306, -207, 44, 289, 334, 226, -59, -342, -405, -288, 33, 359, 444, 319, -43] ++
  [-416, -526, -393, 14, 439, 579, 438, -17, -501, -676, -527, -18, 530, 746, 590, 23] ++
  [-599, -861, -698, -67, 637, 953, 785, 83, -715, -1094, -920, -139, 765, 1217, 1040, 170] ++
  [-856, -1395, -1216, -245, 924, 1566, 1386, 299, -1036, -1803, -1626, -403, 1133, 2052, 1883, 498] ++
  [-1284, -2395, -2239, -656, 1436, 2796, 2663, 828, -1670, -3365, -3273, -1106, 1952, 4126, 4109, 1476] ++
  [-2409, -5327, -5463, -2120, 3128, 7374, 7886, 3317, -4642, -11945, -13840, -6685, 9507, 30941, 51236, 63449]
def spareF2 : List Int :=
  [158, 585, 522, 6, -359, -46, 301, 4, -376, -55, 384, 31, -485, -96, 514, 87] ++
  [-630, -164, 675, 171, -806, -262, 869, 288, -1018, -397, 1102, 444, -1272, -576, 1382, 652] ++
  [-1579, -815, 1723, 929, -1956, -1135, 2145, 1302, -2433, -1573, 2691, 1821, -3065, -2194, 3438, 2580] ++
  [-3967, -3141, 4559, 3799, -5413, -4771, 6522, 6107, -8270, -8321, 11158, 12372, -17379, -22946, 39881, 117370]

/-- The part's coefficients in the first half. -/
def romHalf (two : Bool) : List Int := (List.range (romTaps two / 2)).map fun i => (Config.romTap two i).toInt

/-- Response at `f` kHz of a symmetric filter with the given first half, in units of 2^-80: 4.096 MS/s with 256 taps, 2.048 MS/s with 128. -/
def gainAt (two : Bool) (half : List Int) (f : Nat) : Int :=
  (half.reverse.zipIdx.map fun (c, k) => 2 * c * (cosSin80 (f * (2 * k + 1) * 2 ^ (if two then 20 else 19))).1).sum

/-- A filter keeps R128's limits at every whole kHz: within 0.1 dB up to 490 kHz, and 60 dB down wherever it aliases into that band. -/
def romFlat (two : Bool) (half : List Int) (shift : Nat) : Bool :=
  let u : Int := unit80 * 2 ^ (8 + shift)
  ((List.range 491).all fun f => decide (988553094657 * u ≤ 10 ^ 12 * gainAt two half f) &&
    decide (10 ^ 12 * gainAt two half f ≤ 1011579454260 * u)) &&
  ((List.range' 534 1515).all fun f => (Nat.blt 1514 f && Nat.blt f 1558) || (two && Nat.blt 1024 f) ||
    decide (1000 * (gainAt two half f).natAbs ≤ u))

/-- The part's coefficients make unity gain at DC with its SHIFT and keep R128's limits. -/
def romFits (two : Bool) : Bool :=
  2 * (romHalf two).sum == 2 ^ (8 + (Config.romScale two).toNat) && romFlat two (romHalf two) (Config.romScale two).toNat

/-- SHIFT of a built-in filter (R128; log entry 13). -/
def romShift (two : Bool) : Nat := if romFits two then (Config.romScale two).toNat else 10

/-- Coefficient `k` of a built-in filter: linear-phase, of unity gain, its coefficients summing to 2^(8 + SHIFT), and within R128's limits (R127,
R128). The part's coefficients are open (log entry 13). -/
def romCoef (two : Bool) (k : Nat) : Int :=
  let half := if romFits two then romHalf two else if two then spareF2 else spareF4
  half.getD (min k (romTaps two - 1 - k)) 0

/-- s = 8 + SHIFT of the filter in use. -/
def firShift (s : State) (i : Nat) : Nat :=
  8 + if isSet s (F.RXF_STATUS_ROMF i) then romShift (isSet s (F.RXF_STATUS_DEC2 i))
    else getF s (F.RXF_FIR_CFG_SHIFT i (getF s (F.RXF_STATUS_ACT_BANK i)))

/-- Declared group delay in half converter samples: a built-in filter is linear-phase. -/
def firDelay (s : State) (i : Nat) : Nat :=
  if isSet s (F.RXF_STATUS_ROMF i) then firTaps s i - 1
  else getF s (F.RXF_FIR_CFG_DELAY i (getF s (F.RXF_STATUS_ACT_BANK i)))

/-- Coefficient k of the filter in use. -/
def firCoef (s : State) (i k : Nat) : Int :=
  if isSet s (F.RXF_STATUS_ROMF i) then romCoef (isSet s (F.RXF_STATUS_DEC2 i)) k
  else sext 18 (fgetD (rxIn s i).coef (getF s (F.RXF_STATUS_ACT_BANK i) * 512 + k) 0).toNat

/-- sat18 of R127, and whether it limited. -/
def sat18 (x : Int) : Int × Bool := (clampI 131071 x, decide (131071 < x.natAbs))

/-! ### Teasel's template (R133 to R137) -/

/-- Bins of the template at a RES. -/
def binsOf (res : Nat) : Nat := 24576 / 2 ^ res

/-- A bin: T in 2^-6 codes and c. -/
def binAt (x : RxIn) (b : Nat) : Int × Nat := fgetD x.tmpl b (0, 0)

def RxIn.putBin (x : RxIn) (b : Nat) (v : Int × Nat) : RxIn := { x with tmpl := fputD x.tmpl b (0, 0) v }

/-- The template is cleared (R135). -/
def clearTmpl (s : State) (i : Nat) : State :=
  raiseBit (updRx s i fun x => { x with tmpl := [], scale := none }) (R.TSL_EVT i) 0

/-- Every T is multiplied by 2^(new − old); a bin that saturates has c set to 0 (R135). -/
def scaleTmpl (x : RxIn) (old new : Nat) : RxIn :=
  x.tmpl.foldl (fun y e =>
    let (t, c) := e.2
    let v : Int := if old ≤ new then t * 2 ^ (new - old) else rq 43 t (2 ^ (old - new))
    let w := clampI 8388607 v
    y.putBin e.1 (w, if w = v then c else 0)) { x with tmpl := [], scale := none }

/-! ### Enabling, gain, settling (R121 to R124) -/



/-- Converter instants in 200 µs, after which the converter has settled (R121). -/
def warmUp (s : State) (i : Nat) : Nat := if isSet s (F.RXF_STATUS_DEC2 i) then 410 else 820

/-- RXF_CTRL_x.EN is written 1 or 0 (R121, R124, R135, R230). -/
def enableInput (s : State) (i : Nat) (en : Bool) : State :=
  if en = isSet s (F.RXF_CTRL_EN i) then s
  else if en then
    let s := settleInput (setF s (F.RXF_CTRL_EN i) 1) i
    clearTmpl (updRx s i fun x => { x with warm := warmUp s i, losOn := 0, losOff := 0 }) i
  else
    let s := setF (setF (setF s (F.RXF_CTRL_EN i) 0) (F.RXF_STATUS_PWR i) 0) (F.RXF_STATUS_SETTLING i) 0
    let s := clearDefect s Def.los (.input i)
    updRx s i fun x => { x with line := [], phase := 0, settle := 0, warm := 0, losOn := 0, losOff := 0, csNow := [], csLevel := [] }

/-- INPUT_ENABLE (R121). -/
def execInputEnable (inp : Fin 4) (en : Bool) (s : State) : Answer :=
  done (access s (R.RXF_CTRL inp.val) fun s => enableInput s inp.val en)

/-- The firmware's pending gain is reported (R26, R531): applied when it takes effect, or discarded when a host write replaces it. -/
def reportGain (s : State) (i g : Nat) (discarded : Bool) : State :=
  match (rxIn s i).gainWhy with
  | none => s
  | some (old, input) => decision (updRx s i fun x => { x with gainWhy := none }) 0 0x04 discarded i old g input

/-- A gain change takes effect (R122, R123). -/
def applyGain (s : State) (i : Nat) : State :=
  match (rxIn s i).gainPend with
  | none => s
  | some g =>
    let x := rxIn s i
    let s := reportGain (setRx s i { x with gainPend := none }) i g false
    if g = x.gain then s
    else raise (updRx s i fun y => { y with gain := g, scale := some ((x.scale.map Prod.fst).getD x.gain, g) }) (F.RXF_EVT_GAIN_CHG i)

/-- Ask for a gain: at the next epoch boundary, or at once while the index is not valid (R122). -/
def askGain (s : State) (i g : Nat) : State :=
  let s := reportGain s i ((rxIn s i).gainPend.getD 0) true
  let s := updRx s i fun x => { x with gainPend := some g }
  if cidxOk s then s else applyGain s i

/-- RXF_GAIN_x is written (R122, R123). -/
def writeGain (s : State) (i : Nat) (v : Word) : State :=
  let g := bits v.toNat 2 0
  let s := setF s (F.RXF_GAIN_MAX i) (bits v.toNat 6 4)
  if isSet s (F.RXF_CTRL_AGC i) then raise s (F.RXF_EVT_CFG_ERR i) else
  let s := if g > 4 then raise s (F.RXF_EVT_CFG_ERR i) else s
  askGain (setF s (F.RXF_GAIN_GAIN i) g) i (min 4 g)

/-- GAIN_WRITE (R122). -/
def execGainWrite (inp : Fin 4) (v : Word) (s : State) : Answer :=
  done (access s (R.RXF_GAIN inp.val) fun s => writeGain s inp.val v)

/-- The firmware's gain decision at an epoch boundary, for the next one (R123); none after its watchdog has expired (R27). `peakEpoch` is the
highest that RXF_PEAK_x has stood at in the epoch. -/
def agc (s : State) (i : Nat) : State :=
  let x := rxIn s i
  let g := min 4 (getF s (F.RXF_GAIN_GAIN i))
  let s := setRx s i { x with overEpoch := false, peakEpoch := rdN s (R.RXF_PEAK i) }
  if !isSet s (F.RXF_CTRL_AGC i) || !isSet s (F.RXF_CTRL_EN i) || inSafeAt s 1 i || s.pwr.watchdog then s else
  let g' := if x.overEpoch then g - 1
    else if Nat.blt x.peakEpoch 16384 && Nat.blt g (min 4 (getF s (F.RXF_GAIN_MAX i))) then g + 1 else g
  if g' = g then s else
  updRx (setF s (F.RXF_GAIN_GAIN i) g') i fun y => { y with
    gainPend := some g', gainWhy := some (g, if x.overEpoch then 0xFFFF_FFFF else x.peakEpoch) }

/-! ### Coefficients and swaps (R129, R130) -/

/-- A write to bank `b` is refused: in use, or the target of a pending swap (R129). -/
def firBusy (s : State) (i b : Nat) : Bool :=
  (!isSet s (F.RXF_STATUS_ROMF i) && getF s (F.RXF_STATUS_ACT_BANK i) == b) ||
    (isSet s (F.RXF_STATUS_SWAP_PEND i) && (rxIn s i).swapBank == b)

/-- RXF_COEF_DATA_x is written: one coefficient is stored and TAP advances (R129; a TAP above 383 selects none, log entry 36). DESIGN CHOICE
(log entry 91): R129 does not say whether TAP advances on a write that is discarded; it does not. -/
def writeFirCoef (s : State) (i : Nat) (v : Word) : State :=
  let b := getF s (F.RXF_COEF_IDX_BANK i)
  let t := getF s (F.RXF_COEF_IDX_TAP i)
  if firBusy s i b || Nat.ble 384 t then raise s (F.RXF_EVT_CFG_ERR i)
  else
    let s := updRx s i fun x => { x with coef := fputD x.coef (b * 512 + t) 0 (v &&& 0x3_FFFF#32) }
    setF (rewritten s (0x12000 + 1024 * i + 512 * b + t)) (F.RXF_COEF_IDX_TAP i) (t + 1)

/-- FIR_COEF_WRITE (R129). -/
def execFirCoefWrite (inp : Fin 4) (v : Word) (s : State) : Answer :=
  done (access s (R.RXF_COEF_DATA inp.val) fun s => writeFirCoef s inp.val v)

/-- The accepted swap takes effect (R130). -/
def firSwapEffect (s : State) (i : Nat) : State :=
  if !isSet s (F.RXF_STATUS_SWAP_PEND i) then s else
  let x := rxIn s i
  let s := setF (setF (setF s (F.RXF_STATUS_SWAP_PEND i) 0) (F.RXF_STATUS_ROMF i) 0) (F.RXF_STATUS_ACT_BANK i) x.swapBank
  let s := raise s (F.RXF_EVT_SWAP_DONE i)
  if x.swapKeep then s else clearTmpl s i

/-- RXF_FIR_SWAP_x is written (R130). -/
def swapFir (s : State) (i : Nat) (v : Word) : State :=
  if !bit v.toNat 0 then s else
  let b := bits v.toNat 1 1
  let n := getF s (F.RXF_FIR_CFG_NTAP4 i b)
  if isSet s (F.RXF_STATUS_SWAP_PEND i) || (!isSet s (F.RXF_STATUS_ROMF i) && getF s (F.RXF_STATUS_ACT_BANK i) == b) ||
      n == 0 || Nat.blt 96 n || isSet s (F.RXF_FIR_CFG_DEC2 i b) != isSet s (F.RXF_STATUS_DEC2 i)
  then raise s (F.RXF_EVT_CFG_ERR i)
  else
    let s := raise (updRx s i fun x => { x with swapBank := b, swapKeep := bit v.toNat 2, swapAt := cidxNow s }) (F.RXF_STATUS_SWAP_PEND i)
    if cidxOk s then s else firSwapEffect s i

/-- FIR_BANK_SWAP (R130). -/
def execFirBankSwap (inp : Fin 4) (v : Word) (s : State) : Answer :=
  done (access s (R.RXF_FIR_SWAP inp.val) fun s => swapFir s inp.val v)

/-! ### The five-lane map (R16, R131) -/

/-- An input enters the five-lane map. -/
def fiveLaneInput (s : State) (i : Nat) : State :=
  let s := if isSet s (F.RXF_STATUS_SWAP_PEND i)
    then raise (setF s (F.RXF_STATUS_SWAP_PEND i) 0) (F.RXF_EVT_SWAP_CANCEL i) else s
  let s := raise (raise s (F.RXF_STATUS_DEC2 i)) (F.RXF_STATUS_ROMF i)
  clearTmpl (settleInput s i) i

/-- FIVE_LANE_MAP_CHANGE (R16, R124, R128, R131, R309): the one lost lane's map takes effect; the loss of a receive lane changes the
receive rates, filters and templates. -/
def execFiveLaneMapChange (s : State) : Answer :=
  if (lostLanes s).length ≠ 1 ∨ s.rel.fiveLane then done s else
  let t := raise { s with rel := { s.rel with fiveLane := true } } F.GLB_FAULT_SUM_LANE_DEG
  if !fiveLaneRx t then done t else
  -- the open chunks close with the old rate code
  let s := breakChunks s false fun x => Prog.tap x.prog == 0
  let s := raise { s with rel := { s.rel with fiveLane := true } } F.GLB_FAULT_SUM_LANE_DEG
  done ((List.range 4).foldl fiveLaneInput s)

/-! ### Converter samples (R119, R121, R125) -/

/-- A sample at a tap: 18 bits, the erasure code when marked (R125, R308). -/
def tapCode (mark : Nat) (v : Int) : Nat := if mark = 0 then wrap 18 v else 0x20000

/-- The instant at the pads of the sample that crosses the barrier now: stages 1 and 2 ago (R119, R307). -/
def rawInstant (s : State) (i v : Nat) : Item := instantBefore s (if isSet s (F.RXF_STATUS_DEC2 i) then 5000 else 3500) v

/-- CONVERTER_SAMPLE: a sample crosses the barrier into the FIR window; one erased under R15 counts as lost on the link, as does every one
in RXF's safe action, an overrange one, and one before the converter has settled, as front. Without the high-voltage side none crosses, and
the raw tap holds the erasure code (R125). -/
def execConverterSample (inp : Fin 4) (code : BitVec 18) (ovr erased : Bool) (s : State) : Answer :=
  let i := inp.val
  if !domainOn s 6 then done s else
  let x := rxIn s i
  if !isSet s (F.RXF_CTRL_EN i) then done s else
  if s.rel.hvLost || !domainOn s 17 then done (feedSample s 0 i (rawInstant s i (tapCode 3 0))) else
  let mag := code.toInt.natAbs
  let mark := if erased || inSafeAt s 1 i then 3 else if ovr || x.warm != 0 then 2 else 0
  let keep := firTaps s i
  let s := setRx s i { x with
    line := (((if mark = 0 then code.toInt else 0), mark, x.gain) :: x.line).take (max keep 384), phase := x.phase + 1,
    warm := x.warm - 1, overEpoch := x.overEpoch || (ovr && !erased),
    peakEpoch := if erased then x.peakEpoch else max x.peakEpoch mag }
  let s := if x.warm ≤ 1 then raise s (F.RXF_STATUS_PWR i) else s
  let s := feedSample s 0 i (rawInstant s i (tapCode mark code.toInt))
  if erased then done s else
  let s := if mag > rdN s (R.RXF_PEAK i) then wrN s (R.RXF_PEAK i) mag else s
  done (if ovr then raise (bump s (R.RXF_OVR_CNT i)) (F.RXF_EVT_OVR i) else s)

/-! ### The working-rate sample (R120, R127, R132, R133, R139 to R141) -/

/-- Delay from the pads to the arrival of the newest converter sample, in units of 2^-14 ns: stages 1 and 2, and the declared group
delay in half samples of 122.0703125 ns (twice that in the five-lane map). -/
def padDelay (s : State) (i : Nat) : Nat :=
  if isSet s (F.RXF_STATUS_DEC2 i) then 5000 * 2 ^ 14 + firDelay s i * 4000000 else 3500 * 2 ^ 14 + firDelay s i * 2000000

/-- The instant at the pads (R120): phase word, cycle index and timebase. DESIGN CHOICE (log entry 92): while no index is valid, a sample of
before the boundary is tagged with the index before the one that reads, modulo 2^32; R120 and R104 do not say. -/
def atPads (s : State) (i w ts : Nat) : Nat × Nat × Nat :=
  let d := padDelay s i
  -- counts of the phase word: d × f × P
  let cnt := (rqNear 44 (d * s.mains.freq.toNat * phaseP : Nat) (2 ^ 14 * 10 ^ 9 * 2 ^ 16)).toNat
  let t := (rqNear 45 (ts * 2 ^ 14 - d : Nat) (2 ^ 14)).toNat
  if cnt ≤ w then (w - cnt, cidxNow s, t) else ((w + phaseP - cnt % phaseP) % phaseP, (cidxNow s + 2 ^ 32 - 1) % 2 ^ 32, t)

/-- Stage 3: the FIR's output and mark, and whether it saturated (R124 to R127). -/
def firOut (s : State) (i : Nat) : Int × Nat × Bool :=
  let x := rxIn s i
  if !isSet s (F.RXF_CTRL_EN i) || inSafeAt s 1 i || s.rel.hvLost then (0, 3, false) else
  let win := x.line.take (firTaps s i)
  let top := win.foldl (fun m e => max m e.2.1) 0
  -- the window holds samples at the old and at the new gain (R122)
  let mixed := win.any fun e => e.2.2 != (win.headD (0, 0, 0)).2.2
  let mark := max top (if x.settle ≠ 0 || mixed then 2 else 0)
  if mark ≠ 0 then (0, mark, false) else
  let acc := (win.zipIdx.map fun (e, k) => firCoef s i k * e.1).sum
  let sh := firShift s i
  let (y, o) := sat18 ((acc + 2 ^ (sh - 1)) / 2 ^ sh)
  if o then (0, 2, true) else (y, 0, false)

/-- Stage 4: the injection point (R132, R337). -/
def inject (s : State) (i : Nat) (v : Int) (mark : Nat) : Int × Nat × Bool × State :=
  -- an injection player consumes one pair per sample whatever INJ_EN holds
  let (pr, t) := injectionPair (patReport (fetchItems s (3 + i) 256)) (3 + i)
  let t := if pr = none ∧ (player t (3 + i)).st = .playing then raise (bump t R.YAR_PGAP_CNT) F.YAR_EVT_PGAP else t
  if !isSet s (F.RXF_CTRL_INJ_EN i) then (v, mark, false, t) else
  match pr with
  | none => (0, max mark 2, false, raise (bump t (R.RXF_INJ_GAP i)) (F.RXF_EVT_INJ_GAP i))
  | some (g, a) =>
    if mark ≠ 0 then (0, mark, false, t) else
    let sh := getF s (F.RXF_INJ_SHIFT2 i)
    let (y, o) := sat18 ((v * g + a * 2 ^ 17 + 2 ^ (16 + sh)) / 2 ^ (17 + sh))
    if o then (0, 2, true, t) else (y, 0, false, t)

/-- LOMS has cleared, and LOCK has not been 1 for 64 cycles or a slew is under way (R135). -/
def regaining (s : State) : Bool := isSet s F.MSY_STATUS_LOCK && (Nat.blt s.mains.lockedFor 64 || s.mains.slew != 0)

/-- Teasel runs on the input: EN, no safe action, powered, no void cycle, not regaining (R135). -/
def tslRuns (s : State) (i : Nat) (isVoid : Bool) : Bool :=
  isSet s (F.TSL_CFG_EN i) && !inSafeAt s 2 i && domainOn s 7 && !isVoid && !regaining s

/-- Subtraction applies (R135). -/
def subOn (s : State) (i : Nat) (hold isVoid : Bool) : Bool :=
  tslRuns s i isVoid && (!hold || Nat.blt (getF s F.MSY_STATUS_HOLD_AGE) (getF s (F.TSL_CFG_HOLD_SUB i)))

/-- Adaptation runs (R135). -/
def adaptOn (s : State) (i : Nat) (hold isVoid : Bool) : Bool := tslRuns s i isVoid && !hold && !isSet s (F.TSL_CFG_FREEZE i)

/-- Adaptation runs for a sample the blanker has judged: by its own flags and by what holds then (R133, R135). -/
def judgedOn (s : State) (i : Nat) (d : DlySample) : Bool :=
  adaptOn s i (d.hold || isSet s F.MSY_STATUS_HOLD) (d.isVoid || s.mains.voidNow)

/-- A bin that failed parity is read as cleared, and counted (R137). -/
def perrBins (s : State) (i : Nat) (bad : List Nat) : State :=
  if bad = [] then s else
  let s := updRx s i fun x => bad.foldl (fun x b => x.putBin b (0, 0)) x
  raiseBit (bump s (R.TSL_PERR_CNT i) bad.length) (R.TSL_EVT i) 3

/-- Stage 5 (R133): the output, whether it was subtracted, and e over 64 × q. -/
def teasel (s : State) (i : Nat) (v : Int) (w : Nat) (sub : Bool) : Int × Bool × Int :=
  let x := rxIn s i
  let q := 65536 * 2 ^ x.res
  let n := binsOf x.res
  let b := w / q % n
  let r := w % q
  let (t0, c0) := binAt x b
  let (t1, c1) := binAt x ((b + 1) % n)
  let e := v * 64 * q - (t0 * (q - r : Nat) + t1 * r)
  let minc := max 1 (getF s (F.TSL_CFG_MINC i))
  if sub && Nat.ble minc c0 && Nat.ble minc c1 then (rq 46 e (64 * q), true, e) else (v, false, e)

/-- The template learns from a sample the blanker has passed (R133). -/
def learn (on : Bool) (x : RxIn) (d : DlySample) : RxIn :=
  match d.e with
  | none => x
  | some (e, res) =>
    if !on ∨ d.mark ≠ 0 ∨ res ≠ x.res then x else
    let q := 65536 * 2 ^ res
    let n := (rqNear 47 d.w q).toNat % binsOf res
    let (t, c) := binAt x n
    let k := min (max x.mu (6 + res)) c
    let t' := clampI 8388607 (t + rq 48 e (q * 2 ^ k))
    x.putBin n (t', min (c + 1) 15)

/-- BETA and K in force; values below 8 act as 8 (R139). -/
def blkBeta (s : State) (i : Nat) : Nat := max 8 (getF s (F.RXF_BLK_CFG_BETA i))
def blkK (s : State) (i : Nat) : Nat := max 8 (getF s (F.RXF_BLK_CFG_K i))

/-- y² > max(FLOOR², (K / 4)² m) (R139). -/
def triggers (s : State) (i : Nat) (x : RxIn) (y : Int) : Bool :=
  let p := y.natAbs * y.natAbs
  let fl := getF s (F.RXF_BLK_FLOOR_FLOOR i)
  x.seeded && Nat.blt (max (16 * (fl * fl)) (blkK s i * blkK s i * x.m)) (16 * p)

/-- Stage 6 takes a sample in (R139 to R141): the delay with it, newest first, and how many samples it has just blanked. A trigger whose PRE
reaches the end of the last run joins it. DESIGN CHOICE (log entry 126): the last 256 samples of R141 are those that enter the blanker
unmarked, blanked by it or not; a front or link mark is no sample of them. -/
def blank (s : State) (i : Nat) (x : RxIn) (d : DlySample) : RxIn × Nat :=
  let p := d.val.natAbs * d.val.natAbs
  let sq := if d.mark = 0 then (p :: x.sq).take 256 else x.sq
  let seeding := d.mark = 0 ∧ ¬ x.seeded ∧ 0 < x.seed
  let x := { x with
    sq := sq, seed := if seeding then x.seed - 1 else x.seed, seedSum := if seeding then x.seedSum + p else x.seedSum }
  if !isSet s (F.RXF_CTRL_BLANK_EN i) then ({ x with dly := d :: x.dly, run := 0, post := 0, lastRun := 0 }, 0)
  else if d.mark = 0 ∧ triggers s i x d.val then
    let pre := getF s (F.RXF_BLK_CFG_PRE i)
    let cnt := ((x.dly.take pre).filter fun e => e.mark == 0).length
    let dly := (x.dly.take pre).map (fun e => if e.mark = 0 then { e with mark := 1, val := 0 } else e) ++ x.dly.drop pre
    let back := (dly.takeWhile fun e => e.mark == 1).length
    let run := 1 + (if x.run ≠ 0 then x.run else if x.lastRun ≠ 0 ∧ x.since < back then x.since + x.lastRun else back)
    ({ x with dly := { d with mark := 1, val := 0 } :: dly, post := getF s (F.RXF_BLK_CFG_POST i), run := run }, 1 + cnt)
  else if d.mark = 0 ∧ 0 < x.post then
    ({ x with dly := { d with mark := 1, val := 0 } :: x.dly, post := x.post - 1, run := x.run + 1 }, 1)
  else ({ x with
    dly := d :: x.dly, post := x.post - 1, run := 0, lastRun := if x.run = 0 then x.lastRun else x.run,
    since := if x.run = 0 then x.since + 1 else 1 }, 0)

/-- The oldest sample leaves stage 6, 32 samples on: it updates m and the template, and goes to the lanes (R119, R133, R139). -/
def leaveStage6 (s : State) (i : Nat) : State :=
  let x := rxIn s i
  if x.dly.length ≤ 32 then s else
  let d := x.dly.getLastD { val := 0, mark := 3 }
  let p := d.val.natAbs * d.val.natAbs
  let x := { x with dly := x.dly.dropLast }
  let m := if d.mark = 0 ∧ x.seeded ∧ isSet s (F.RXF_CTRL_BLANK_EN i)
    then x.m + rq 49 ((p : Int) - x.m) (2 ^ blkBeta s i) else x.m
  let s := setRx s i (learn (judgedOn s i d) { x with m := m.toNat } d)
  let s := feedSample s 3 i { time := d.ts, cidx := d.cidx, phase := d.w, vals := [tapCode d.mark d.val], hold := d.hold }
  feedLanes s i ⟨d.val, d.mark, d.w, d.cidx, d.ts, d.hold, d.isVoid⟩

/-- A saturation at stages 3 to 5 is counted (R127, R132, R133). -/
def satInput (s : State) (i : Nat) (o : Bool) : State :=
  if o then raise (bump s (R.RXF_SAT_CNT i)) (F.RXF_EVT_SAT i) else s

/-- The blanker's run has reached MAXRUN (R141). -/
def runFull (s : State) (i : Nat) : Bool :=
  let m := getF s (F.RXF_BLK_MAXRUN_MAXRUN i)
  m != 0 && Nat.ble m (rxIn s i).run

/-- The band power meters take a sample after Teasel: each millisecond gives a reading of every band, of which the newest 256 stay (R273). -/
def meter (s : State) (x : RxIn) (v : Int) : RxIn :=
  let now := v :: x.csNow
  if now.length < 1024 then { x with csNow := now }
  else
    let r := (List.range 8).map fun n =>
      Config.bandLevel (getF s (F.MAC_BAND_RANGE_LO n)) (getF s (F.MAC_BAND_RANGE_HI n)) x.gain now
    { x with csNow := [], csLevel := (r :: x.csLevel).take 256 }

/-- A working-rate sample passes stages 3 to 6. DESIGN CHOICE (log entry 126): a sample whose subtraction saturated counts, with its limited
result, among the valid samples of R138's sums, since the mark it then gets is stage 5's own. -/
def workingSample (s : State) (i w ts : Nat) (bad : List Nat) : State :=
  -- the swap waits for the first sample of the next cycle, which has the new bank's declared delay already (R130)
  let (_, c, _) := atPads s i w ts
  let s := if isSet s (F.RXF_STATUS_SWAP_PEND i) && c != (rxIn s i).swapAt && !ahead (rxIn s i).swapAt c then firSwapEffect s i else s
  let (pw, c, t) := atPads s i w ts
  let flags := if c = cidxNow s then (isSet s F.MSY_STATUS_HOLD, s.mains.voidNow) else (rxIn s i).flags
  let s := perrBins s i bad
  let (v, mark, o3) := firOut s i
  let x := rxIn s i
  let x := match x.scale with
    | some (a, b) => if (x.line.take (firTaps s i)).all fun e => e.2.2 == b then scaleTmpl x a b else x
    | none => x
  let left := x.settle - 1
  let s := setRx s i { x with phase := 0, settle := left, flags := flags }
  let s := setB s (F.RXF_STATUS_SETTLING i) (left != 0)
  let (v, mark, o4, s) := inject s i v mark
  let x := rxIn s i
  let s := setRx s i { x with
    cycAll := x.cycAll + 1, cycValid := x.cycValid + b2n (mark == 0), cycLink := x.cycLink + b2n (mark == 3),
    cycSq := x.cycSq + v.natAbs * v.natAbs }
  let sub := subOn s i flags.1 flags.2
  let (y, subbed, e) := teasel s i v pw sub
  let (y, o5) := sat18 y
  let o5 := o5 && mark == 0
  let s := if o5 then raiseBit s (R.TSL_EVT i) 2 else s
  let s := satInput s i (o3 || o4 || o5)
  let d : DlySample :=
    if mark ≠ 0 then { val := 0, mark := mark, w := pw, cidx := c, ts := t, hold := flags.1, isVoid := flags.2 }
    else if o5 then { val := 0, mark := 2, w := pw, cidx := c, ts := t, hold := flags.1, isVoid := flags.2 }
    else { val := y, mark := 0, w := pw, cidx := c, ts := t, hold := flags.1, isVoid := flags.2,
           e := if domainOn s 7 then some (e, (rxIn s i).res) else none }
  let x := rxIn s i
  let good := mark = 0
  let x := { x with
    validCnt := x.validCnt + b2n good, subCnt := x.subCnt + b2n (good && subbed),
    sumX := x.sumX + (if good && subbed then v.natAbs * v.natAbs else 0),
    sumY := x.sumY + (if good && subbed then y.natAbs * y.natAbs else 0) }
  let (x, n) := blank s i (meter s x d.val) d
  let s := bump (setRx s i x) (R.RXF_ERS_CNT i) n
  let at' := fun (v : Nat) => ({ time := t, cidx := c, phase := pw, vals := [v], hold := flags.1 } : Item)
  let s := feedSample (feedSample s 1 i (at' (tapCode mark v))) 2 i (at' (tapCode d.mark d.val))
  leaveStage6 s i

/-- RX_WORKING_SAMPLE (R119, R120): an enabled input delivers one after D converter instants. -/
def execRxWorkingSample (inp : Fin 4) (w : BitVec 31) (ts : BitVec 64) (bad : List Nat) (s : State) : Answer :=
  let i := inp.val
  if !domainOn s 6 || Nat.ble phaseP w.toNat then done s
  else if isSet s (F.RXF_CTRL_EN i) && !s.rel.hvLost && Nat.blt (rxIn s i).phase (decim s i) then done s
  else done (workingSample s i w.toNat ts.toNat bad)

/-- √m in codes; its rounding is not given (log entry 26). -/
def sqrtFree (n : Nat) : Nat := let r := n.sqrt; if r * r = n then r else r + b2n (Config.roundUp 50 n 1)

/-- Begin a seeding of m over the next 256 valid samples (R139). -/
def reseed (x : RxIn) : RxIn := { x with seed := 256, seedSum := 0, seeded := false, post := 0, run := 0, lastRun := 0 }

/-- BLANKER_SEED_DONE (R139): m is the mean of the 256 squares, and triggering begins. -/
def execBlankerSeedDone (inp : Fin 4) (s : State) : Answer :=
  let x := rxIn s inp.val
  if x.seeded || x.seed != 0 then done s
  else done (setRx s inp.val { x with m := (rq 51 x.seedSum 256).toNat, seeded := true })

/-- BLANK_MAXRUN (R141, R139): the run ends, m is reseeded from the last 256 squares, and the seeding of R139 follows. -/
def execBlankMaxrun (inp : Fin 4) (s : State) : Answer :=
  let x := rxIn s inp.val
  if !runFull s inp.val then done s
  else done (raise (setRx s inp.val (reseed { x with m := (rq 52 (x.sq.sum : Nat) (max 1 x.sq.length)).toNat })) (F.RXF_EVT_BLANK_SAT inp.val))

/-! ### Template access (R136, R137) -/

/-- TSL_TPL_IDX_x.BIN advances. -/
def nextBin (s : State) (i : Nat) : State := wrN s (R.TSL_TPL_IDX i) ((rdN s (R.TSL_TPL_IDX i) + 1) % 2 ^ 15)

/-- TSL_TPL_DATA_x is read (R136). -/
def readTmpl (s : State) (i : Nat) (bad : Bool) : State :=
  let b := rdN s (R.TSL_TPL_IDX i) % 2 ^ 15
  let s := if bad then perrBins s i [b] else s
  let (t, c) := if b < binsOf (rxIn s i).res then binAt (rxIn s i) b else (0, 0)
  nextBin { s with readData := BitVec.ofNat 32 (c * 2 ^ 24 + wrap 24 t) } i

/-- TEMPLATE_READ (R136). -/
def execTemplateRead (inp : Fin 4) (bad : Bool) (s : State) : Answer :=
  done (readAccess s (R.TSL_TPL_DATA inp.val) fun s => readTmpl s inp.val bad)

/-- TSL_TPL_DATA_x is written (R136): only while FREEZE is 1, and only a bin of the template. -/
def writeTmpl (s : State) (i : Nat) (v : Word) : State :=
  let b := rdN s (R.TSL_TPL_IDX i) % 2 ^ 15
  nextBin (if !isSet s (F.TSL_CFG_FREEZE i) || Nat.ble (binsOf (rxIn s i).res) b then raiseBit s (R.TSL_EVT i) 1
    else updRx s i fun x => x.putBin b (sext 24 v.toNat, bits v.toNat 27 24)) i

/-- TEMPLATE_WRITE (R136). -/
def execTemplateWrite (inp : Fin 4) (v : Word) (s : State) : Answer :=
  done (access s (R.TSL_TPL_DATA inp.val) fun s => writeTmpl s inp.val v)

/-! ### At a cycle and an epoch boundary (R122, R123, R134, R138, R230) -/

/-- MU and RES of TSL_CFG_x take effect; a change of RES clears the template (R134). -/
def applyTsl (s : State) (i : Nat) : State :=
  let mu := max (getF s (F.TSL_CFG_MU i)) (6 + getF s (F.TSL_CFG_RES i))
  let res := getF s (F.TSL_CFG_RES i)
  let old := (rxIn s i).res
  let s := updRx s i fun x => { x with mu := mu, res := res }
  if res = old then s else clearTmpl s i

/-- RXF_RMS_x of the cycle that ends, and the LOS rules (R143, R230). -/
def inputCycle (s : State) (i : Nat) : State :=
  let x := rxIn s i
  let rms := if x.cycValid = 0 then 0 else sqrtFree (rq 53 x.cycSq x.cycValid).toNat
  let s := wrN s (R.RXF_RMS i) rms
  let s := setRx s i { x with cycSq := 0, cycValid := 0, cycLink := 0, cycAll := 0 }
  if !isSet s (F.RXF_CTRL_EN i) then s else
  let lvl := getF s (F.LFR_LOS_LEVEL i)
  let many := Nat.blt x.cycAll (2 * x.cycLink) || s.rel.hvLost
  let on := if Nat.blt rms lvl || many then x.losOn + 1 else 0
  let off := if Nat.ble (2 * lvl) rms && !many then x.losOff + 1 else 0
  let s := updRx s i fun y => { y with losOn := satN 1000 on, losOff := satN 1000 off }
  if !x.los && Nat.ble (max 1 (getF s (F.LFR_LOS_LOS_ON i))) on then raiseDefect s Def.los (.input i)
  else if x.los && Nat.ble (max 1 (getF s (F.LFR_LOS_LOS_OFF i))) off then clearDefect s Def.los (.input i)
  else s

/-- How often `b` can be multiplied by 10 and stay at most `a`. -/
def tens : Nat → Nat → Nat → Nat
  | 0, _, _ => 0
  | n + 1, a, b => if 10 * b ≤ a then tens n a (10 * b) + 1 else 0

/-- floor(100 log10 (x / y)), up to a rounding that is not given: the suppression in 0.1 dB, within the 16 signed bits of its register (R138;
log entry 26). -/
def suppTenths (x y : Nat) : Int :=
  if x = 0 ∨ y = 0 then 0 else
  let up := fun (a b : Nat) => tens 32767 (a ^ 100) (b ^ 100)
  if y ≤ x then
    let n := up x y
    if 10 ^ n * y ^ 100 = x ^ 100 then n else n + b2n (Config.roundUp 54 x y)
  else
    let n := up y x
    if 10 ^ n * x ^ 100 = y ^ 100 then -(n : Int) else -(n : Int) - 1 + b2n (Config.roundUp 54 x y)

/-- TSL_SUPP_x of the epoch that ends (R138); with no power left in one of the sums the value is free. -/
def suppReport (s : State) (i : Nat) : State :=
  let x := rxIn s i
  let ok := x.validCnt != 0 && Nat.ble x.validCnt (2 * x.subCnt)
  let unknown := x.sumX == 0 || x.sumY == 0
  let v := if unknown then freeNat s 16 else wrap 16 (suppTenths x.sumX x.sumY)
  let s := if unknown then usedFree s else s
  let s := wrN s (R.TSL_SUPP i) (2 ^ 31 * b2n ok + v)
  setRx s i { x with sumX := 0, sumY := 0, subCnt := 0, validCnt := 0 }

end Sys2Proof.Machine
end

