-- ==== Sys2Proof/Machine/Rtc.lean ====
section
/-! DEFINITION. The real-time clock, its commit, the AON switch and the tamper loops (R460 to R466). What the applied commit does
to the PM bins is in Performance.lean. -/

namespace Sys2Proof.Machine

/-- DAY and SOD (R460). -/
def rtcDay (s : State) : Nat := s.rtc.sec / 86400 % 2 ^ 21
def rtcSod (s : State) : Nat := s.rtc.sec % 86400

/-- RTC_SEC_LO is read: all fields are snapshot from one count (R462). -/
def readRtc (s : State) : State :=
  let s := wrN s R.RTC_SEC_LO s.rtc.sec
  let s := wrN s R.RTC_SEC_HI (s.rtc.sec / 2 ^ 32 % 2 ^ 16)
  let s := wrN s R.RTC_SUB s.rtc.sub
  let s := wrN s R.RTC_DAY (rtcDay s)
  let s := wrN s R.RTC_SOD (rtcSod s)
  { s with readData := rd s R.RTC_SEC_LO }

/-- RTC_SNAPSHOT_READ (R462). -/
def execRtcSnapshotRead (s : State) : Answer := done (readAccess s R.RTC_SEC_LO readRtc)

/-- The shadow of SEC. -/
def rtcShadow (s : State) : Nat := rdN s R.RTC_SET_LO + 2 ^ 32 * (rdN s R.RTC_SET_HI % 2 ^ 16)

/-- A write of RTC_COMMIT (R463). -/
def commitRtc (s : State) (go : Bool) : State :=
  if isSet s F.RTC_STATUS_COMMIT_PEND then raise s F.RTC_EVT_CFG_ERR
  else if !go then s
  else if Nat.ble 181193932800 (rtcShadow s) then raise s F.RTC_EVT_CFG_ERR
  else raise s F.RTC_STATUS_COMMIT_PEND

/-- RTC_COMMIT (R463). -/
def execRtcCommit (go : Bool) (s : State) : Answer := done (access s R.RTC_COMMIT fun s => commitRtc s go)

/-- AON_SOURCE_CHANGE (R464): the supplies in millivolts; VIO33 has precedence while present. In Backup the state code is that of
R61. -/
def execAonSourceChange (vio33 vbat : Nat) (s : State) : Answer :=
  let p := if s.pins.vio33 then Nat.ble 2850 vio33 else Nat.blt 2950 vio33
  let src := getF s F.RTC_STATUS_SRC
  let new := if p then 0
    else if src = 0 then (if Nat.ble (vio33 + 50) vbat then 1 else 0)
    else (if Nat.ble (vbat + 50) vio33 then 0 else 1)
  let s := { s with pins := { s.pins with vio33 := p } }
  let s := if s.pins.inReset then setF s F.PWR_STATUS_STATE (if p then 0 else new) else s
  if new = src then done s else done (raise (setF s F.RTC_STATUS_SRC new) F.RTC_EVT_SRC_CHG)

/-- TAMPER_OPEN (R466): a loop enabled by RTC_TAMP_CFG has read high at three consecutive samples. -/
def execTamperOpen (loop : Fin 2) (s : State) : Answer :=
  let i := loop.val
  if !bit (rdN s R.RTC_TAMP_CFG) i then done s else
  let s := if bit (rdN s R.RTC_EVT) (2 + i) then s else wrN s (R.RTC_TAMP_TS i) s.rtc.sec
  done (raise (raiseBit s R.RTC_EVT (2 + i)) F.GLB_FAULT_SUM_TAMPER)

end Sys2Proof.Machine
end

