-- ==== Sys2Proof/Machine/Performance.lean ====
section
/-! DEFINITION. Performance data: counts, errored and unavailable seconds, bins, checkpoints, the second of the real-time clock and
its commit (R235 to R243, R463). -/

namespace Sys2Proof.Machine

/-! ### Counts (R235) -/

def Pm.good : Nat := 0
def Pm.errored : Nat := 1
def Pm.corrected : Nat := 2
def Pm.combined : Nat := 3
def Pm.retx : Nat := 4
def Pm.erased : Nat := 5
def Pm.authFail : Nat := 6
def Pm.hdrRpl : Nat := 7
def Pm.plmf : Nat := 8
def Pm.es : Nat := 9
def Pm.ses : Nat := 10
def Pm.uas : Nat := 11

/-- Performance counting is on (LFR_CTRL.PM_EN). -/
def pmOn (s : State) : Bool := isSet s F.LFR_CTRL_PM_EN

/-- Add to a count of a bin, saturating. -/
def Bin.add (b : Bin) (i n : Nat) : Bin := { b with counts := b.counts.set i (satN (2 ^ 32 - 1) (b.counts.getD i 0 + n)) }

/-- Take from a count of a bin. -/
def Bin.take (b : Bin) (i n : Nat) : Bin := { b with counts := b.counts.set i (b.counts.getD i 0 - n) }

/-- Advance a count of an object in both open bins (R235, R238). -/
def pmAdd (s : State) (k i n : Nat) : State :=
  if pmOn s then updPm s k fun x => { x with q := x.q.add i n, d := x.d.add i n } else s

/-! ### Bins (R238 to R242) -/

/-- BIN_ID of the open bins at the clock's time (R239). -/
def quarterId (s : State) : Nat := rtcDay s * 2 ^ 7 + rtcSod s / 900
def dayId (s : State) : Nat := 2 ^ 31 + rtcDay s * 2 ^ 7

/-- A new bin of an object: STEP while TIME_INVALID is set, COVER while a covering defect is present (R240, R241). -/
def newBin (s : State) (k id : Nat) : Bin :=
  let b : Bin := { id := id }
  let b := if isSet s F.RTC_STATUS_TIME_INVALID then b.flag Flag.step else b
  if binCovered s k then b.flag Flag.cover else b

/-- An object with new bins opened now, with RESTART (R242). -/
def newObj (s : State) (k : Nat) : PmObj :=
  { q := (newBin s k (quarterId s)).flag Flag.restart, d := (newBin s k (dayId s)).flag Flag.restart }

/-- The PM store begins anew: a bin with RESTART for every lane (R242). -/
def pmStart (s : State) : State := { s with pm := (List.range 256).map (fun l => (l, newObj s l)), secSeen := [] }

/-- A session is created: its bins open with PARTIAL, and with RESTART when the store was not kept since (R240, R242). -/
def pmSession (s : State) (n : Nat) : State :=
  pmPartial { s with pm := fput s.pm (pmNode n) (newObj s (pmNode n)) } (pmNode n)

/-- A count of an open session (R235). -/
def pmSess (s : State) (node i n : Nat) : State := if (sess s node).isSome then pmAdd s (pmNode node) i n else s

/-- Close the quarter bin and open the next. -/
def closeQ (now : Nat) (x : PmObj) (new : Bin) : PmObj :=
  { x with q := new, qh := ({ x.q with endAt := now } :: x.qh).take 96, secs := x.secs.map fun (a, b, i, j) => (a, b, i + 1, j) }

def closeD (now : Nat) (x : PmObj) (new : Bin) : PmObj :=
  { x with d := new, dh := ({ x.d with endAt := now } :: x.dh).take 31, secs := x.secs.map fun (a, b, i, j) => (a, b, i, j + 1) }

/-- Roll an object's bins over to the clock's time (R238, R241). -/
def rollObj (s : State) (k : Nat) (x : PmObj) : PmObj :=
  let x := if x.q.id = quarterId s then x else closeQ s.mains.elapsed x (newBin s k (quarterId s))
  let x := if x.d.id = dayId s then x else closeD s.mains.elapsed x (newBin s k (dayId s))
  if isSet s F.RTC_STATUS_TIME_INVALID then x.flagOpen Flag.step else x

/-- A bin as its 64-byte record (R239, R240). -/
def binRecord (k : Nat) (b : Bin) : List Byte :=
  let susp := b2n (bit b.flags Flag.step || bit b.flags Flag.restart || bit b.flags Flag.cover)
  let l := toLE 4 b.id ++ toLE 4 ((b.flags + 128 * susp) * 2 ^ 24 + k % 2 ^ 18) ++ toLE 4 b.elapsed ++ b.counts.flatMap (toLE 4)
  l ++ toLE 4 (crc32Body l)

/-! ### Seconds (R236, R237) -/

/-- Change the bin a second fell in: the open one, or the newest history bins. A final bin never changes (R238). -/
def adjustBin (h : List Bin) (cur : Bin) (age : Nat) (f : Bin → Bin) : Bin × List Bin :=
  if age = 0 then (f cur, h) else (cur, h.modify (age - 1) fun b => if b.final then b else f b)

def adjustSec (x : PmObj) (qa da : Nat) (f : Bin → Bin) : PmObj :=
  let (q, qh) := adjustBin x.qh x.q qa f
  let (d, dh) := adjustBin x.dh x.d da f
  { x with q := q, qh := qh, d := d, dh := dh }

/-- Classify a second (R236, R237): severely errored, errored. -/
def countSecond (x : PmObj) (sev err cov : Bool) : PmObj :=
  let upd := fun (b : Bin) =>
    let b := { b with elapsed := b.elapsed + 1 }
    let b := if cov then b.flag Flag.cover else b
    if x.unavail then b.add Pm.uas 1
    else (if sev then (if err then b.add Pm.es 1 else b).add Pm.ses 1 else if err then b.add Pm.es 1 else b)
  let x := { x with q := upd x.q, d := upd x.d, secs := ((sev, err, 0, 0) :: x.secs).take 10,
                    run := if sev != x.unavail then x.run + 1 else 0 }
  if x.run < 10 then x else
  if x.unavail then
    let y := x.secs.foldl (fun y (_, e, qa, da) =>
      adjustSec y qa da fun b => let b := b.take Pm.uas 1; if e then b.add Pm.es 1 else b) x
    { y with unavail := false, run := 0 }
  else
    let y := x.secs.foldl (fun y (_, _, qa, da) => adjustSec y qa da fun b => ((b.take Pm.es 1).take Pm.ses 1).add Pm.uas 1) x
    { y with unavail := true, run := 0 }

/-- The second of a lane (R236). -/
def laneSecond (s : State) (l : Nat) : State :=
  let x := lane s l
  if !x.secActive then s else
  let loms := seen s Def.loms .device
  let los := x.secLos || losCovers s x
  let own := seen s Def.lol (.lane l) || seen s Def.lof (.lane l)
  let cfg := rdN s R.LFR_PM_CFG
  let frames := x.secBad != 0 && Nat.ble (bits cfg 15 8 * x.secFrames) (256 * x.secBad)
  let erased := x.secDec != 0 && Nat.ble (bits cfg 23 16 * x.secDec) (256 * x.secErased)
  let sev := loms || los || own || frames || erased
  updPm s l fun p => countSecond p sev (sev || x.secBad != 0) (loms || los)

/-- The second of a session (R236). -/
def sessSecond (s : State) (n : Nat) : State :=
  match sess s n with
  | none => s
  | some x =>
    let loms := seen s Def.loms .device
    let supv := seen s Def.supv (.session n)
    let cfg := rdN s R.LFR_PM_CFG
    let frames := x.secBad != 0 && Nat.ble (bits cfg 15 8 * x.secFrames) (256 * x.secBad)
    let sev := loms || supv || frames
    updPm s (pmNode n) fun p => countSecond p sev (sev || x.secErr) loms

/-- What begins with a new second. -/
def clearSecond (s : State) : State :=
  { s with
    secSeen := [], lanes := s.lanes.map (fun (l, x) => (l, { x with
      secErased := 0, secDec := 0, secFrames := 0, secBad := 0, secActive := x.st != .off, secLos := losCovers s x })),
    sessions := s.sessions.map fun (n, x) => (n, { x with secFrames := 0, secBad := 0, secErr := false }) }

/-- A second of the real-time clock ends (R236, R460): what it held is counted, and the bins of the new second open. -/
def pmSecond (s : State) : State :=
  let s := if pmOn s then
      let s := s.lanes.foldl (fun s e => laneSecond s e.1) s
      s.sessions.foldl (fun s e => sessSecond s e.1) s
    else s
  let s := { s with rtc := { s.rtc with sec := (s.rtc.sec + 1) % 2 ^ 48, sub := 0, acc := 0 } }
  clearSecond { s with pm := s.pm.map fun (k, x) => (k, rollObj s k x) }

/-- PM_SECOND. -/
def execPmSecond (s : State) : Answer := if s.rtc.running then done (pmSecond s) else done s

/-- RTC_COMMIT_APPLY (R463, R241). -/
def execRtcCommitApply (s : State) : Answer :=
  if !isSet s F.RTC_STATUS_COMMIT_PEND then done s else
  let s := { s with rtc := { s.rtc with sec := rtcShadow s, sub := 0, acc := 0, running := true } }
  let s := setF (setF s F.RTC_STATUS_COMMIT_PEND 0) F.RTC_STATUS_TIME_INVALID 0
  let s := flagBins s Flag.step
  done { s with pm := s.pm.map fun (k, x) =>
    (k, if x.q.id = quarterId s ∧ x.d.id = dayId s then x
        else closeD s.mains.elapsed (closeQ s.mains.elapsed x ((newBin s k (quarterId s)).flag Flag.step)) ((newBin s k (dayId s)).flag Flag.step)) }

/-! ### Final bins and the checkpoint area (R238, R243) -/

/-- The rows of the checkpoint area that have been written (64 rows to a block, R448): slot and the address its record names. -/
def ckptRows (s : State) : List (Nat × Nat) :=
  (s.nvs.banks.filter fun e => Nat.blt e.1 1024).flatMap fun (b, x) =>
    ((x.rows.map fun r => r.2.lidx).dedup.filter fun l => !rowBad s b l).map fun l => (b * 64 + l, leAt (readRow s b l) 4 4 % 2 ^ 18)

/-- The record of a node in the checkpoint area. -/
def ckptFind (s : State) (n : Nat) : Option Nat := ((ckptRows s).find? fun e => e.2 == n).map Prod.fst

/-- The slot of a session in the checkpoint area: the one that holds the node's record, else the first never written, else the
first whose node has no session (log entry 38). -/
def ckptSlot (s : State) (n : Nat) : Nat :=
  let l := ckptRows s
  ((ckptFind s n).or ((List.range 65536).find? fun i => l.all fun e => e.1 != i)).getD
    (((l.find? fun e => (sess s e.2).isNone).map Prod.fst).getD 0)

/-- An ended bin has been open to adjustments for 10 s (R238). -/
def Bin.due (now : Nat) (b : Bin) : Bool := !b.final && Nat.ble (b.endAt + 10 ^ 10) now

def Bin.close (now : Nat) (b : Bin) : Bin := if b.due now then { b with final := true } else b

/-- BIN_FINAL (R238, R243): the bins of the object that ended 10 s ago become final; a session's day bin goes to the checkpoint area. -/
def execBinFinal (obj : Nat) (day : Bool) (s : State) : Answer :=
  match fget s.pm obj with
  | none => done s
  | some x =>
    let now := s.mains.elapsed
    let s := { s with pm := fput s.pm obj (if day then { x with dh := x.dh.map (Bin.close now) } else { x with qh := x.qh.map (Bin.close now) }) }
    let n := obj - 2 ^ 18
    match (if day then x.dh.find? (Bin.due now) else none), sess s n with
    | some b, some _ =>
      if obj < 2 ^ 18 || !isSet s F.LFR_CTRL_CKPT_EN then done s else
      let i := ckptSlot s n
      done (writeRecord s [(i / 64, i % 64)] 0 (binRecord n b) .checkpoint)
    | _, _ => done s

/-- The bins that a PM_READ returns, newest first: current, then history (R239, R356). -/
def pmBins (x : PmObj) (day : Bool) : List Bin := if day then x.d :: x.dh else x.q :: x.qh

end Sys2Proof.Machine
end

