-- ==== Sys2Proof/Machine/Sessions.lean ====
section
/-! DEFINITION. Sessions, supervision, quiet agreements and the mode measures (R190 to R193, R246, R250 to R255, R262 to R264, R268 to
R270, R357 to R359). -/

namespace Sys2Proof.Machine

/-! ### Time, guard, events -/

/-- `a - b` of cycle indices. -/
def cycSub (a b : Nat) : Nat := (a % 2 ^ 32 + 2 ^ 32 - b % 2 ^ 32) % 2 ^ 32

/-- The guard in µs at a cycle (R263). -/
def guardUs (s : State) (x : Session) (cyc : Nat) : Nat :=
  let gmax := 2 * getF s F.MAC_GUARD_CFG_G_MAX
  let age := cycSub cyc x.cAuth
  let drift := if x.drift = 0 then getF s F.MAC_GUARD_CFG_DRIFT else x.drift
  if x.maxAge ∨ 2 ^ 31 ≤ age then gmax else min gmax (getF s F.MAC_GUARD_CFG_G_BASE + drift * cdiv age 256)

/-- Event counter of a native session at a slot (R253). -/
def eventAt (s : State) (x : Session) (slot : Nat) : Nat := slotSub s slot x.anchor / 2 ^ x.ivl

/-- A slot is one of the session's events (R253, R254). -/
def isEvent (s : State) (x : Session) (slot : Nat) : Bool := x.kind || slotSub s slot x.anchor % 2 ^ x.ivl == 0

/-- A slot is an anchor (R253). -/
def isAnchor (s : State) (x : Session) (slot : Nat) : Bool := slotSub s slot x.anchor % 2 ^ x.ivl == 0

/-- A quiet agreement keeps its period at a cycle (R269, R270). -/
def quietAt (q : Quiet) (cyc : Nat) : Bool :=
  (q.state == 1 || q.state == 2 || q.state == 3) &&
    Nat.blt (cycSub cyc q.c) (match q.endAt with | some e => cycSub e q.c | none => q.dur)

/-- The periods of two agreements overlap. -/
def periodsMeet (c d c' d' : Nat) : Bool := Nat.blt (cycSub c' c) d || Nat.blt (cycSub c c') d'

/-- The agreement whose period holds a group's sessions at a cycle. -/
def quietOf (s : State) (group cyc : Nat) : Option Quiet :=
  if group = 0 then none else (s.quiets.find? fun e => e.2.group == group && quietAt e.2 cyc).map Prod.snd

/-- First slot of the wake window a slot lies in. -/
def windowOf (s : State) (q : Quiet) (slot : Nat) : Nat :=
  let d := slotSub s slot (q.c / slotC s)
  slot + slotCount s - d % 2 ^ q.win

/-- The slot is the session's wake anchor in its window (R269). -/
def wakeAnchor (s : State) (x : Session) (q : Quiet) (slot : Nat) : Bool :=
  let w := windowOf s q slot % slotCount s
  if x.kind then w == slot % slotCount s
  else isAnchor s x slot && Nat.blt (slotSub s slot w) (2 ^ x.ivl)

/-- The session may be served at a slot: one of its events, and in a quiet period its wake anchor (R253, R254, R269). -/
def servable (s : State) (x : Session) (slot : Nat) : Bool :=
  match quietOf s x.group (slot * slotC s % 2 ^ 32) with
  | some q => wakeAnchor s x q slot
  | none => isEvent s x slot

/-- The first servable slot from `slot` on, looked for in `n` steps of the event interval. -/
def nextServable (s : State) (x : Session) : Nat → Nat → Option Nat
  | 0, _ => none
  | n + 1, slot => if servable s x slot then some (slot % slotCount s) else
    nextServable s x n (if x.kind then slot + 1 else slot + (2 ^ x.ivl - slotSub s slot x.anchor % 2 ^ x.ivl))

/-- First cycle of a slot. -/
def slotCycle (s : State) (slot : Nat) : Nat := slot % slotCount s * slotC s

/-! ### Mode measures (R190) -/

/-- SNR in 0.5 dB: the mean of the receptions. -/
def sessSnr (x : Session) : Rat :=
  let l : List Int := x.rxs.map fun r => r.1
  if l = [] then 0 else (l.sum : Rat) / ((l.length * 2 ^ 15 : Nat) : Rat)

/-- ER in percent: erased decisions over decisions. -/
def sessEr (x : Session) : Rat :=
  let e : List Nat := x.rxs.map fun r => r.2.1
  let n : List Nat := x.rxs.map fun r => r.2.2
  if n.sum = 0 then 0 else 100 * (e.sum : Rat) / (n.sum : Rat)

def sessRf (x : Session) : Nat := (x.exs.filter id).length

/-- The measured input of a mode decision (R531). -/
def modeInput (x : Session) : Nat :=
  wrap 16 (rqNear 57 (sessSnr x).num (sessSnr x).den) + (rq 58 (sessEr x).num (sessEr x).den).toNat % 256 * 2 ^ 16 + sessRf x * 2 ^ 24

/-- Distinct pairs of a map (R184). -/
def mapPairs (m : List Chan) : Nat := (m.map (·.pair)).dedup.length

/-- A mode is allowed for a session: in its set, and with pairs enough (R184, R191). -/
def modeOk (x : Session) (m : Nat) : Bool := bit x.modeSet m && (Nat.blt m 2 || Nat.ble (copiesOf m) (mapPairs x.map))

/-- A pending mode decision is discarded, or a later one replaces it (R25, R26, R192). -/
def dropPend (s : State) (x : Session) : State :=
  match x.pend with
  | some (m, _) => decision s x.fn 1 true x.node x.mode m x.pendIn
  | none => s

/-- A confirmed mode that has not come into effect gives way to a fall-back. -/
def dropEffect (s : State) (x : Session) : State :=
  match x.effect with
  | some (old, new, i) => decision s x.fn 1 true x.node old new i
  | none => s

/-- At a session's next event a confirmed mode takes effect and is reported (R26, R192). -/
def modeEffect (s : State) (x : Session) : State :=
  match x.effect with
  | some (old, new, i) =>
    if isEvent s x (slotNow s) then decision (setSess s { x with effect := none, chgCidx := cidxNow s }) x.fn 1 false x.node old new i else s
  | none => s

/-- The most robust mode allowed (R193). -/
def robustest (x : Session) : Option Nat := [3, 2, 1, 0].find? (modeOk x)

/-- A channel map within the host's limits for a session (R23, R184, R250, R254, R357): pairs and phases that the host's block names; 1 to 16
entries, one for Ngasen; valid pairs of its function inside the band profile, on permitted phases; distinct pairs enough for the mode in force
and the one announced. Log entry 102. -/
def mapAllowed (s : State) (x : Session) (m : List Chan) : Bool :=
  (m.all fun c => x.allow.any (·.pair == c.pair) && x.allow.any (·.ph == c.ph)) && Nat.ble 1 m.length && Nat.ble m.length (if x.kind then 1 else 16) && !noTones s &&
    (m.all fun c => Nat.ble c.ph 2 && !forbidden s c.ph && Tone.valid (activeTone s c.pair) && ownsPair s x.fn c.pair &&
      tonesAllowed s (pairTones s c.pair)) &&
    (x.mode :: (x.pend.map Prod.fst).toList).all fun k => Nat.blt k 2 || Nat.ble (copiesOf k) (mapPairs m)

/-! ### The parameter block (R357) -/

/-- A session's block. -/
def blockOf (x : Session) : List Byte :=
  [BitVec.ofNat 8 (b2n x.kind * 128 + x.m), BitVec.ofNat 8 (x.mode * 16 + x.modeSet), BitVec.ofNat 8 x.map.length,
   BitVec.ofNat 8 (x.fn * 16 + x.prof)] ++ toLE 2 x.hopKey ++ [BitVec.ofNat 8 x.ivl, BitVec.ofNat 8 x.retry] ++ toLE 4 x.supvT ++
    toLE 2 x.replyLen ++ [BitVec.ofNat 8 x.rGap, BitVec.ofNat 8 x.group] ++ toLE 2 x.drift ++ toLE 2 x.wakeTone ++ toLE 2 x.wakeCode ++
    [0, 0] ++ (List.range 16).flatMap (fun i => match x.map[i]? with
      | some c => toLE 2 (c.ph * 256 + c.pair)
      | none => [0, 0]) ++ List.replicate 8 0

def Blk.kind (b : List Byte) : Bool := bit (leAt b 0 1) 7
def Blk.m (b : List Byte) : Nat := leAt b 0 1 % 8
def Blk.mode (b : List Byte) : Nat := bits (leAt b 1 1) 5 4
def Blk.modeSet (b : List Byte) : Nat := leAt b 1 1 % 16
def Blk.mapN (b : List Byte) : Nat := leAt b 2 1 % 32
def Blk.fn (b : List Byte) : Nat := bits (leAt b 3 1) 6 4
def Blk.map (b : List Byte) : List Chan :=
  (List.range (Blk.mapN b)).map fun i => let e := leAt b (24 + 2 * i) 2; ⟨e % 256, bits e 9 8⟩

/-- A session with the host's fields of a block, its mode and map apart. -/
def Session.take (x : Session) (b : List Byte) : Session :=
  { x with
    modeSet := Blk.modeSet b, prof := leAt b 3 1 % 16, hopKey := leAt b 4 2, ivl := leAt b 6 1 % 32, retry := leAt b 7 1 % 8,
    supvT := leAt b 8 4, replyLen := leAt b 12 2, rGap := leAt b 14 1 % 64, group := leAt b 15 1, drift := leAt b 16 2,
    wakeTone := leAt b 18 2, wakeCode := leAt b 20 2 }

/-- The ranges of R250, R251 and R357 hold. -/
def blockOk (s : State) (b : List Byte) : Bool :=
  let ivl := leAt b 6 1
  let supv := leAt b 8 4
  bits (leAt b 0 1) 6 3 == 0 && Nat.ble (Blk.m b) 4 && Nat.blt (leAt b 1 1) 64 && bit (Blk.modeSet b) (Blk.mode b) &&
    Nat.blt (leAt b 2 1) 32 && Nat.ble 1 (Blk.mapN b) && Nat.ble (Blk.mapN b) 16 && Nat.blt (leAt b 3 1) 128 && Nat.ble ivl 16 &&
    Nat.blt (leAt b 7 1) 8 && Nat.ble 10 supv && Nat.blt supv (2 ^ 20) && Nat.ble (leAt b 12 2) 508 && Nat.ble 2 (leAt b 14 1) &&
    Nat.blt (leAt b 14 1) 64 && Nat.blt (leAt b 16 2) 1024 && Nat.blt (leAt b 18 2) 2048 && Nat.blt (leAt b 4 2) 16384 &&
    leAt b 22 2 == 0 && leAt b 56 8 == 0 && (!Blk.kind b || Blk.mapN b == 1) &&
    (!Blk.kind b || (Nat.ble 12 (leAt b 18 2) && Nat.ble (leAt b 18 2) 2000)) &&
    -- three event intervals at 45 Hz
    Nat.ble (3 * 2 ^ ivl * slotC s * 10) (supv * 45) &&
    (Blk.map b).all fun c => Nat.ble c.ph 2 && !noTones s && Tone.valid (activeTone s c.pair)

/-- Key and pairs lie in the shares of the session's function (R383). -/
def blockShared (s : State) (b : List Byte) : Bool :=
  ownsKey s (Blk.fn b) (leAt b 4 2) && (Blk.map b).all fun c => ownsPair s (Blk.fn b) c.pair

/-- ANCHOR at open (R253): of the slots two or more ahead, the first whose position has the fewest anchors. -/
def chooseAnchor (s : State) (ivl : Nat) : Nat :=
  let pos := (s.sessions.filter fun e => e.2.ivl == ivl && !e.2.kind).map fun e => e.2.anchor % 2 ^ ivl
  let st := slotNow s + 2
  let n := min (2 ^ ivl) (pos.length + 1)
  let cnt := fun i => (pos.filter fun p => p == (st + i) % 2 ^ ivl).length
  (st + (List.range n).foldl (fun b i => if cnt i < cnt b then i else b) 0) % slotCount s

/-- OFS_N at open (R251): the last frame of the node within 256 cycles, else the phase offset of map entry 0; whether the guard age is
taken as reached. -/
def openOfs (s : State) (node ph : Nat) : Nat × Bool :=
  match (fget s.heard node).filter fun h => Nat.ble (cycSub (cidxNow s) h.1) 256 with
  | some h => (h.2, false)
  | none =>
    let ns := sext 31 (rdN s (R.MSY_PHOFS ph))
    let q : Rat := (ns : Rat) * phaseP / cycleNs s
    ((rqNear 59 q.num q.den % phaseP).toNat, true)

/-- SESSION_OPEN (R251, R253, R357, R383, R384). -/
def execSessionOpen (uid : Nat) (buf : List Byte) (s : State) : Answer :=
  done (withCmd s uid 0x20 fun s c =>
    let n := D.res c
    let b := slice buf 0 64
    let f := Blk.fn b
    if n = 0 ∨ 0x3FFFF ≤ n then malformed s c 4
    else if !blockOk s b then malformed s c 0xFF
    else if (f ≠ c.fn ∧ c.fn ≠ 0) ∨ ownerOf s n ≠ f ∨ !blockShared s b then notOwned s c
    else if !cidxOk s then wrongState s c 0x20
    else if (sess s n).isSome then wrongState s c 0x31
    else if 65536 ≤ s.sessions.length then wrongState s c 0x24
    else if tableInForce s && Nat.ble (getF s (F.TEN_SESS_SESS_MAX f)) (s.sessions.filter fun e => e.2.fn == f).length
      then wrongState s c 0x38
    else
      let (ofs, age) := openOfs s n ((Blk.map b).headD ⟨0, 0⟩).ph
      let x : Session := Session.take { node := n, fn := f, kind := Blk.kind b, m := Blk.m b, mode := Blk.mode b, map := Blk.map b, allow := Blk.map b } b
      let x := { x with anchor := chooseAnchor s x.ivl, ofsN := ofs, maxAge := age, tAuth := tbNow s, cAuth := cidxNow s,
                        chgCidx := cidxNow s }
      let s := updMesh (setSess s x) fun m => { m with dirty := true }
      complete (pmSession s n) c St.done 0 0)

/-- The bytes of a mask. -/
def maskBytes (mask : Nat) (new old : List Byte) : List Byte := (List.range 64).map fun i => if bit mask i then new.getD i 0 else old.getD i 0

/-- SESSION_MODIFY (R250, R251, R255, R358): the selected bytes take effect at the next epoch boundary. -/
def execSessionModify (uid : Nat) (buf : List Byte) (s : State) : Answer :=
  done (withCmd s uid 0x21 fun s c =>
    if ownerOf s (D.res c) ≠ c.fn ∧ c.fn ≠ 0 then notOwned s c else
    match sess s (D.res c) with
    | none => wrongState s c 0x25
    | some x =>
      let mask := D.at c 24 8
      let (pm, pb) := x.modify.getD (0, blockOf x)
      let old := maskBytes pm pb (blockOf x)
      let b := maskBytes mask (slice buf 0 64) old
      if [22, 23, 56, 57, 58, 59, 60, 61, 62, 63].any (bit mask) then malformed s c 24
      else if Blk.kind b != x.kind || Blk.m b != x.m then malformed s c 0xFF
      else if bit mask 3 && Blk.fn b != x.fn then malformed s c 0xFF
      -- MODE counts only where byte 1 is selected
      else if !blockOk s (if bit mask 1 then b else b.set 1 (BitVec.ofNat 8 (Blk.modeSet b + 16 * ((List.range 4).find? (bit (Blk.modeSet b))).getD 0)))
        then malformed s c 0xFF
      else if !blockShared s b then notOwned s c
      else complete (setSess s { x with modify := some (Nat.lor pm mask, b) }) c St.done 0 0)

/-! ### The end of a session (R252, R264) -/

/-- The jobs of a node that are under way. -/
def liveJobs (s : State) (node : Nat) : List Job := s.jobs.filter fun j => j.node == node && !j.ended

/-- Commands of a function for a node that wait or run. -/
def nodeCmds (s : State) (node : Nat) : List Cmd :=
  s.cmds.filter fun c => D.res c == node && (D.op c == 0x10 || D.op c == 0x11) && (c.st == .waiting || c.st == .onLine)

/-- Free a session's entry (R187, R230, R240, R252). -/
def freeSession (s : State) (node : Nat) : State :=
  let s := [4, 5, 6].foldl (fun s c => clearDefect s c (.session node)) s
  let s := pmPartial (endRetention s node) (pmNode node)
  updMesh { s with sessions := fdel s.sessions node } fun m => { m with dirty := true }

/-- A closing session whose last exchange has ended is freed (R252). -/
def freeClosed (s : State) (node : Nat) : State :=
  if (sess s node).any (fun x => x.state == 2) && liveJobs s node == [] && nodeCmds s node == [] then freeSession s node else s

/-- The final completion of a command's exchange: one that made an attempt counts among its session's exchanges, a routed one without response
raises rt beyond the first link, and a closing session that it was the last of is freed (R190, R252, R259, R289). -/
def endExchange (s : State) (c : Cmd) (status detail len : Nat) : State :=
  let s := if isExchange c && c.attempts != 0 then noteExchange s (carrier c) (Nat.blt 1 c.attempts) else s
  let s := if status = St.noResponse ∧ c.route ≠ [] ∧ active s (carrier c) then raiseRt s (pathOf s (D.res c) c.route) else s
  freeClosed (complete s c status detail len) (carrier c)

/-- Refuse a command, or end it after attempts: NO_RESPONSE with their number, which R356 excludes for a FLOOD or RELAY (R10, R259, R290). -/
def refuseCmd (c : Cmd) (s : State) (status detail : Nat) : State :=
  if c.attempts = 0 || isFlood c then endExchange s c status detail 0 else endExchange s c St.noResponse c.attempts 0

/-- Every command that waits to repeat an attempt ends (R64). -/
def endRepeats (s : State) (code : Nat) : State :=
  (s.cmds.filter fun c => unstarted s c && c.attempts != 0).foldl (fun s c => refuseCmd c (withdrawUnbegun s c.uid) St.state code) s

/-- The first relay's session is gone: its link is marked failed (R289). -/
def loseRelay (s : State) (node : Nat) : State :=
  if s.mesh.routes.any fun e => e.2.relays.headD 0 == node then failLink s (rootAddr s) node else s

/-- SESSION_CLOSE (R252): commands not started end with 0x25; an exchange under way, its repeats with it, runs to its end. -/
def execSessionClose (uid : Nat) (s : State) : Answer :=
  done (withCmd s uid 0x22 fun s c =>
    if ownerOf s (D.res c) ≠ c.fn ∧ c.fn ≠ 0 then notOwned s c else
    match sess s (D.res c) with
    | none => wrongState s c 0x25
    | some x =>
      let s := setSess s { x with state := 2 }
      let s := ((nodeCmds s x.node).filter fun d => d.attempts == 0 && unstarted s d).foldl (fun s d =>
        wrongState (withdrawUnbegun s d.uid) d 0x25) s
      -- rescue polls, opening frames and announcements that have not begun are withdrawn
      let s := (liveJobs s x.node).foldl (fun s j => match j.kind with
        | .command _ => s
        | _ => if j.begun then s else withdrawJob s j) s
      complete (freeClosed (loseRelay s x.node) x.node) c St.done 0 0)

/-- A session's status record at the boundary of the current slot (Table: Session status record). -/
def statusOf (s : State) (x : Session) : List Byte :=
  let st := slotNow s
  let next := st + (2 ^ x.ivl - slotSub s st x.anchor % 2 ^ x.ivl) % 2 ^ x.ivl
  let e := if x.kind then x.events else eventAt s x next
  let w0 := fieldsOf [(b2n x.plm, 31), (b2n x.authd, 30), (b2n x.supv, 29), (b2n x.pend.isSome, 28), ((x.pend.map Prod.fst).getD 0, 26),
    (x.mode, 24), (b2n x.kind, 23), (x.fn, 20), (x.state, 18), (x.node, 0)]
  toLE 4 w0 ++ toLE 4 x.anchor ++ toLE 4 e ++ toLE 4 x.ofsN ++ toLE 8 x.tAuth ++ toLE 4 x.cAuth ++
    toLE 2 (guardUs s x (slotCycle s st)) ++ [BitVec.ofNat 8 x.mapVer, 0] ++ slice (blockOf x) 24 32

/-- Every session's status record is taken at a slot boundary (R359). -/
def takeStatus (s : State) : State := { s with sessions := s.sessions.map fun e => (e.1, { e.2 with snap := statusOf s e.2 }) }

/-- SESSION_QUERY (R359): the record of the last slot boundary; that of now for a session opened since, or without one (log entry 118). -/
def execSessionQuery (uid : Nat) (s : State) : Answer :=
  done (withCmd s uid 0x23 fun s c =>
    if ownerOf s (D.res c) ≠ c.fn then notOwned s c else
    match sess s (D.res c) with
    | none => wrongState s c 0x25
    | some x =>
      let r := if x.snap = [] || !cidxOk s then statusOf s x else x.snap
      complete (post s (.hostWrite c.fn (D.buf c) r)) c St.done 0 64)

/-- SUPERVISION_EXPIRY (R264): SUPV is raised at a slot boundary once T_AUTH + SUPV_T is not after the timebase. -/
def execSupervisionExpiry (node : BitVec 18) (s : State) : Answer :=
  match sess s node.toNat with
  | none => done s
  | some x =>
    if x.supv ∨ x.state = 1 ∨ tbNow s < x.tAuth + x.supvT * 10 ^ 8 ∨ !domainOn s 9 then done s else
    let s := raiseDefect s Def.supv (.session x.node)
    let s := updSess s x.node fun x => { x with state := if x.state = 0 then 1 else x.state }
    let s := raise (bump s R.MAC_SUPV_CNT) F.MAC_EVT_SUPV_CHG
    let s := loseRelay (endRetention s x.node) x.node
    let s := updMesh s fun m => { m with dirty := true }
    -- an exchange whose downlink is on the line, or committed with an attempt begun, runs to its end
    done ((nodeCmds s x.node).foldl (fun s c =>
      if (cmdJobs s c.uid).any (fun j => j.begun && j.live) then s else
      refuseCmd c (withdrawUnbegun s c.uid) St.nodeLost 0) s)

/-- SUPERVISION_FALLBACK (R193): the last authenticated frame is older than half the timeout. -/
def execSupervisionFallback (node : BitVec 18) (s : State) : Answer :=
  match sess s node.toNat with
  | none => done s
  | some x =>
    if x.fallback ∨ tbNow s ≤ x.tAuth + x.supvT * 10 ^ 8 / 2 ∨ s.pwr.watchdog then done s else
    match robustest x with
    | none => done s
    | some m =>
      let s := dropEffect (dropPend s x) x
      let s := setSess s { x with fallback := true, mode := m, pend := none, effect := none, sinceChg := 0, chgCidx := cidxNow s }
      done (decision s x.fn 2 false x.node x.mode m (cycSub (cidxNow s) x.cAuth))

/-- MODE_ANNOUNCE_EXHAUSTED (R192): eight frames carried the announcement without confirmation. -/
def execModeAnnounceExhausted (node : BitVec 18) (s : State) : Answer :=
  match sess s node.toNat with
  | none => done s
  | some x =>
    match x.pend with
    | some (_, n) =>
      if n < 8 then done s else done (dropPend (setSess s { x with pend := none }) x)
    | none => done s

/-- RETENTION_EXPIRY (R187). -/
def execRetentionExpiry (node : BitVec 18) (seq : BitVec 12) (s : State) : Answer :=
  let old := fun (r : Retain) =>
    r.node == node.toNat && r.key.getD 2 0 == seq.toNat && Nat.ble (max 1 (getF s F.COD_RET_CFG_RET_CYC)) (cycSub (cidxNow s) r.cidx)
  let n := (s.retain.filter old).length
  done (bump { s with retain := s.retain.filter fun r => !old r } R.COD_RET_EXPIRE_CNT n)

/-! ### Slot length (R246) -/

/-- A write of MAC_SLOT_CFG (R246). -/
def writeSlotCfg (s : State) (v : Word) : State :=
  if bits v.toNat 1 0 ≠ getF s F.MAC_SLOT_CFG_SLOT_C ∧ (isSet s F.MAC_CTRL_EN ∨ s.sessions ≠ []) then raise s F.MAC_EVT_CFG_ERR
  else evalConflicts (wr s R.MAC_SLOT_CFG (v &&& 0xFFFF0003#32))

/-- SLOT_SIZE_WRITE (R246). -/
def execSlotSizeWrite (v : Word) (s : State) : Answer := done (access s R.MAC_SLOT_CFG fun s => writeSlotCfg s v)

/-! ### Quiet agreements (R268 to R270) -/

def quiet (s : State) (i : Nat) : Option Quiet := fget s.quiets i

/-- An agreement still stands: not cancelled and not over. -/
def Quiet.stands (q : Quiet) : Bool := q.state == 1 || q.state == 2 || q.state == 3



/-- QA_COMMIT (R268). -/
def execQaCommit (uid : Nat) (s : State) : Answer :=
  done (withCmd s uid 0x24 fun s c =>
    let g := D.res c
    let cy := D.at c 24 4
    let dur := D.at c 28 3
    let win := D.at c 31 1
    let lead := cycSub cy (cidxNow s)
    if c.fn ≠ 0 then notOwned s c
    else if g = 0 ∨ 255 < g then malformed s c 4
    else if cy % slotC s ≠ 0 then malformed s c 24
    else if dur % slotC s ≠ 0 ∨ dur < 2 ^ win * slotC s then malformed s c 28
    else if 12 < win then malformed s c 31
    else if lead < getF s F.MAC_SLOT_CFG_QA_LEAD ∨ 2 ^ 31 ≤ lead then wrongState s c 0x23
    else match (List.range 8).find? fun i => (quiet s i).isNone with
      | none => wrongState s c 0x26
      | some i =>
        if s.quiets.any fun e => e.2.group == g && e.2.stands && periodsMeet cy dur e.2.c e.2.dur then wrongState s c 0x26
        else complete { s with quiets := fput s.quiets i { state := 1, group := g, c := cy, dur := dur, win := win } } c St.done 0 i)

/-- The record of an agreement is carried until two epochs after it ends (R267). -/
def carryUntil (s : State) : Nat := (cidxNow s + 512) % 2 ^ 32

/-- The first wake window that begins after (`incl`: at or after) the current cycle: its first cycle. -/
def nextWindow (s : State) (q : Quiet) (incl : Bool) : Nat :=
  let w := 2 ^ q.win * slotC s
  let d := cycSub (cidxNow s) q.c
  if 2 ^ 31 ≤ d then q.c else
  let k := if incl then cdiv d w else d / w + 1
  (q.c + k * w) % 2 ^ 32

/-- A wake request is decided (R270): by its timestamp against the zero-crossing timestamp of cycle C. -/
def wakeRequest (s : State) (i node ts : Nat) : State :=
  match quiet s i with
  | none => s
  | some q =>
    let ev := fun (s : State) r => eventNow s 0 0x0006 0 ([BitVec.ofNat 8 i, BitVec.ofNat 8 r] ++ toLE 4 node ++ toLE 6 (ts % 2 ^ 48))
    let tell := fun (s : State) => { s with sessions := s.sessions.map fun (n, x) => if x.group = q.group then (n, { x with wake := some i }) else (n, x) }
    if !(q.state == 1 || q.state == 2) then ev s 2
    else if q.cz.all fun z => Nat.blt ts z then
      ev (raise (tell { s with quiets := fput s.quiets i { q with state := 4, tell := some (nextWindow s q false), carryTo := some (carryUntil s) } })
        F.MAC_EVT_QA_CANCEL) 0
    else
      let w := nextWindow s q true
      -- the period ends with that window, and at the latest where it was to end (R269)
      ev (tell { s with quiets := fput s.quiets i { q with
        state := 3, tell := some w, endAt := some ((q.c + min q.dur (cycSub (w + 2 ^ q.win * slotC s) q.c)) % 2 ^ 32) } }) 1

/-- QA_WITHDRAW (R270): a wake request dated at its fetch. -/
def execQaWithdraw (uid : Nat) (s : State) : Answer :=
  done (withCmd s uid 0x25 fun s c =>
    if c.fn ≠ 0 then notOwned s c
    else if 7 < D.res c then malformed s c 4
    else complete (wakeRequest s (D.res c) 0 c.fetchTb) c St.done 0 0)

/-- MAC_QA_IDX is written (R276): the agreement's registers show a snapshot. -/
def selectQa (s : State) (v : Word) : State :=
  let i := bits v.toNat 2 0
  let s := wrN s R.MAC_QA_IDX i
  match quiet s i with
  | some q =>
    if !q.stands then wrN (wrN (wrN s R.MAC_QA_STAT 0) R.MAC_QA_C 0) R.MAC_QA_DUR 0 else
    wrN (wrN (wrN s R.MAC_QA_STAT (fieldsOf [(q.state, 24), (q.win, 16), (q.group, 0)])) R.MAC_QA_C q.c) R.MAC_QA_DUR q.dur
  | none => wrN (wrN (wrN s R.MAC_QA_STAT 0) R.MAC_QA_C 0) R.MAC_QA_DUR 0

/-- QA_INDEX_SELECT (R276). -/
def execQaIndexSelect (v : Word) (s : State) : Answer := done (access s R.MAC_QA_IDX fun s => selectQa s v)

/-- A quiet period begins or ends at a cycle boundary; records lapse two epochs after (R267, R269, R270). -/
def quietBoundary (s : State) : State :=
  let c := cidxNow s
  let s := if s.quiets.any fun e => e.2.state == 3 && e.2.endAt == some c then raise s F.MAC_EVT_QA_END else s
  { s with quiets := (s.quiets.map fun (i, q) =>
      let q := if q.c = c ∧ q.cz = none then { q with cz := some s.mains.zc } else q
      let q := if q.state = 1 ∧ q.c = c then { q with state := 2 } else q
      let ended := q.stands && match q.endAt with
        | some e => e == c
        | none => (q.c + q.dur) % 2 ^ 32 == c
      if ended then (i, { q with state := 5, carryTo := some (carryUntil s) }) else (i, q)).filter fun e => e.2.carryTo != some c }

/-- Cycles of a modification fall due at an epoch boundary (R25, R250, R255, R358): map and hop key through their announcement, MODE
as a host decision. -/
def applyModify (s : State) (x : Session) : State :=
  match x.modify with
  | none => s
  | some (mask, sel) =>
    -- the bytes not selected stay as they have become
    let b := maskBytes mask sel (blockOf x)
    let y := { Session.take x b with modify := none, hopKey := x.hopKey }
    let y := if (2 :: List.range' 24 32).any (bit mask) then { y with allow := Blk.map b } else y
    -- a pending decision outside the new policy is discarded (R25), and one that the host's replaces (R192)
    let host := bit mask 1 && Blk.mode b != x.mode
    let disc := host || y.pend.any fun p => !bit y.modeSet p.1
    let s := if disc then dropPend s y else s
    let y := if disc then { y with pend := none } else y
    let mapChg := Blk.map b != x.map || leAt b 4 2 != x.hopKey
    -- so is a pending channel map that the host's replaces
    let s := match if mapChg then y.mapChg else none with
      | some m => decision s y.fn 5 true y.node y.mapVer m.ver 3
      | none => s
    let y := if mapChg then { y with mapChg := some { map := Blk.map b, ver := (x.mapVer + 1) % 16, hopKey := some (leAt b 4 2) } } else y
    let y := if host then { y with pend := some (Blk.mode b, 0), pendIn := 0 } else y
    setSess s y

end Sys2Proof.Machine
end

