-- ==== Sys2Proof/Machine/Sorrel.lean ====
section
/-! DEFINITION. What Sorrel places: timing of an exchange on the node's grid, hop placement, holds, lanes, encryption, and the
commit of one exchange (R182 to R184, R217, R247, R256 to R259, R271, R386 to R388, R401 to R409). -/

namespace Sys2Proof.Machine

/-! ### Hop placement (R182) -/

/-- The block enciphered for an event. -/
def hopBlock (e a : Nat) : List Byte := toLE 4 e ++ toLE 3 a ++ List.replicate 9 0

/-- Choose the channels of the copies from the 16 bytes `o`. -/
def chooseGo (o : List Byte) (map : List Chan) : Nat → Nat → List Chan → List Chan
  | 0, _, ch => ch
  | n + 1, j, ch =>
    let cand : List Chan := map.filter fun x => !ch.any fun c => c.pair == x.pair
    let cand : List Chan := match ch.getLast? with
      | some p => let other := cand.filter fun x => x.ph != p.ph; if other = [] then cand else other
      | none => cand
    match cand[(leAt o (2 * j) 2) % cand.length]? with
    | some c => chooseGo o map n (j + 1) (ch ++ [c])
    | none => ch

/-- Placement of an event with `n` copies under a hop key (R182). -/
def placement (key : List Byte) (map : List Chan) (n e node : Nat) : List Chan := chooseGo (aes key (hopBlock e node)) map n 0 []

/-- The new map of a change holds at an event whose slot begins at cycle `cyc`: once confirmed from its epoch boundary on, and during an
alternation at odd events (R255). -/
def newMapAt (x : Session) (e cyc : Nat) : Bool :=
  x.mapChg.any fun m => if m.split then e % 2 == 1 else m.confirmed && m.q.any fun q => q == cyc || ahead cyc q

/-- The map and hop key in force for an event. -/
def mapAt (x : Session) (e cyc : Nat) : List Chan × Nat :=
  match x.mapChg with
  | some m => if newMapAt x e cyc then (m.map, m.hopKey.getD x.hopKey) else (x.map, x.hopKey)
  | none => (x.map, x.hopKey)

/-! ### Timing (R256, R257) -/

/-- A transmission on its channel: copy, channel, start and end in elapsed ns with its ramps, the counts of its first sample and of its first
symbol from the slot's start, its symbols, whether it is a copy of the MACCTL frame ahead, and whether it is left silent. -/
structure PCopy where
  j : Nat
  ch : Chan
  t0 : Nat
  t1 : Nat
  w0 : Rat := 0
  w1 : Int := 0
  len : Nat := 0
  pre : Bool := false
  silent : Bool := false
  deriving DecidableEq, Repr

/-- A planned exchange: copies, the slots its channels are held for, the reply's lanes (channel, cycle and symbol of the apply
point, search window), the spans of the reply copies, slots, and the wake preamble. -/
structure XPlan where
  copies : List PCopy
  holds : List (Chan × List Nat)
  lanes : List (Chan × Nat × Nat × Nat)
  replyAt : List (Nat × Nat)
  slots : Nat
  wake : Option (Nat × Nat) := none

/-- Cost in channel-slots (R386). -/
def XPlan.cost (p : XPlan) : Nat := (p.holds.map fun h => h.2.length).sum

/-- Elapsed ns of an instant given in phase-word counts from the start of a slot. -/
def slotTime (s : State) (slot : Nat) (counts : Rat) : Nat := (phaseTime s (slotCycle s slot) counts).floor.toNat

/-- Wake bits of a preamble: 32 × REP + GAP (R209). -/
def wakeBits (s : State) : Nat := 32 * max 1 (getF s F.TXS_WAKE_CFG_REP) + getF s F.TXS_WAKE_CFG_GAP

/-- The slots that `[a, b)` counts from the start of a slot overlap. -/
def slotsOver (s : State) (slot : Nat) (a b : Int) : List Nat :=
  let len : Int := slotC s * phaseP
  let i := (max a 0 / len).toNat
  let k := (max (b - 1) 0 / len).toNat
  (List.range' i (k + 1 - i)).map fun d => (slot + d) % slotCount s

/-- Plan an exchange that begins in a slot: copies on `chs` with frame length `d`, reply copies of length `u` when a reply is expected
(R183, R256 to R258). `g`: guard in µs. `pre`: the length of a MACCTL frame all of whose copies go ahead (R255; log entry 41), or 0. -/
def planX (s : State) (slot m ofs g : Nat) (chs : List Chan) (pre d : Nat) (reply : Option Nat) (rGap : Nat) (wake : Option (Nat × Nat)) :
    XPlan :=
  let sc : Int := symbolOf m
  let mm := mOf m
  let l : Int := Rat.ceil ((g : Rat) * 1000 * mm / cycleNs s + 1 / 8)
  let cd := fun (a : Int) (b : Int) => -((-a) / b)
  let wb : Int := phaseP / 24
  let wStart : Int := cd (l * sc) wb * wb
  let wEnd : Int := wStart + wakeBits s * wb
  let q0 := if wake.isSome then cd (wEnd - ofs) sc else cd (l * sc - ofs) sc
  let a0 : Int := q0 * sc + ofs
  let n := chs.length
  let ahead := if pre = 0 then 0 else n * (pre + 2)
  let dAll := ahead + n * d + 2 * (n - 1)
  let r0 : Int := a0 + (dAll + rGap) * sc
  let t := fun (a : Rat) => slotTime s slot a
  let idx := (List.range n).zip chs
  let first := fun (j : Nat) => let a := a0 + j * (pre + 2) * sc; (a, a + pre * sc)
  let down := fun (j : Nat) => let a := a0 + ahead * sc + j * (d + 2) * sc; (a, a + d * sc)
  let back := fun (u j : Nat) => let a := r0 + j * (u + 2) * sc; (a, a + u * sc)
  let spans := fun (j : Nat) =>
    let x := ((if pre = 0 then down j else first j).1, (down j).2)
    (if j = 0 ∧ wake.isSome then (wStart, x.2) else x) :: (match reply with | some u => [back u j] | none => [])
  let lane := fun (u j : Nat) (c : Chan) =>
    let q := ((back u j).1 - ofs) / sc - l
    (c, wrap 32 ((slotCycle s slot : Int) + q / mm), (q % mm).toNat, min 65535 (2 * l.toNat + preLen s + 8))
  let copy := fun (j : Nat) (c : Chan) (a b : Int) (len : Nat) (isPre waken : Bool) =>
    let st : Rat := if waken && wake.isSome then wStart else (a : Rat) - (sc : Rat) / 8
    ({ j := j, ch := c, t0 := t st, t1 := t ((b : Rat) + (sc : Rat) / 8), w0 := st, w1 := a, len := len, pre := isPre } : PCopy)
  { copies :=
      (if pre = 0 then [] else idx.map fun (j, c) => copy j c (first j).1 (first j).2 pre true (j == 0)) ++
      idx.map fun (j, c) => copy (if pre = 0 then j else n + j) c (down j).1 (down j).2 d false (pre == 0 && j == 0),
    holds := idx.map fun (j, c) => (c, ((spans j).flatMap fun (a, b) => slotsOver s slot (a - l * sc) (b + l * sc)).dedup),
    lanes := match reply with | some u => idx.map fun (j, c) => lane u j c | none => [],
    replyAt := match reply with | some u => idx.map fun (j, _) => (t (back u j).1, t (back u j).2) | none => [],
    slots :=
      let wSym := if wake.isSome then cdiv (wakeBits s * mm) 24 else 0
      let need := 2 * l.toNat + 1 + dAll + wSym + (match reply with | some u => rGap + n * u + 2 * (n - 1) | none => 0)
      max 1 (cdiv need (slotC s * mm)),
    wake := wake }

/-! ### Holding channels (R195, R247, R387, R388) -/

/-- Holds of a slot. -/
def holdsAt (s : State) (slot : Nat) : List Hold := s.sor.holds.filter fun h => h.slots.contains (slot % slotCount s)

/-- The channel is a continuous beacon channel (R227, R247, R267). -/
def contChan (s : State) (c : Chan) : Bool :=
  isSet s F.MAC_BCN_CFG_EN && isSet s F.MAC_BCN_CFG_CONT && bit (getF s F.MAC_BCN_CFG_PH) c.ph && c.pair == getF s F.MAC_BCN_CFG_PAIR

/-- A continuous beacon channel counts on each of its phases. -/
def contOn (s : State) (p : Nat) : Nat := b2n (contChan s ⟨getF s F.MAC_BCN_CFG_PAIR, p⟩)

/-- Channels in use on a phase in a slot: those held, and a continuous channel, once. -/
def usedOn (s : State) (slot p : Nat) : Nat := ((holdsAt s slot).filter fun h => h.ch.ph == p && !contChan s h.ch).length + contOn s p

/-- Some quiet period lies in the epoch of a slot (R265). -/
def quietEpoch (s : State) (slot : Nat) : Bool :=
  let e := slotCycle s slot / 256 * 256
  s.quiets.any fun x => x.2.state != 4 && periodsMeet x.2.c (match x.2.endAt with | some a => cycSub a x.2.c | none => x.2.dur) e 256

/-- PER in force, if there are contention slots (R265). -/
def contPer (s : State) (slot : Nat) : Option Nat :=
  let per := min 8 (getF s F.MAC_CONT_CFG_PER_LOG2)
  let q := 4 - getF s F.MAC_SLOT_CFG_SLOT_C
  let off := isSet s F.MAC_CONT_CFG_OFF
  if quietEpoch s slot then some (if off then q else min per q) else if off then none else some per

/-- A contention slot (R265). -/
def contSlot (s : State) (slot : Nat) : Bool := (contPer s slot).any fun per => slot % 2 ^ per == 0

/-- The contention channels enabled, lowest number first: channel, M, SYNCM, PROF. -/
def contChans (s : State) : List (Chan × Nat × Nat × Nat) :=
  (List.range 8).filterMap fun n =>
    if isSet s (F.MAC_CONT_CH_EN n) && getF s (F.MAC_CONT_CH_PHASE n) != 3 then
      let m := getF s (F.MAC_CONT_CH_SYNCM n)
      some (⟨getF s (F.MAC_CONT_CH_PAIR n), getF s (F.MAC_CONT_CH_PHASE n)⟩, getF s (F.MAC_CONT_CH_M n), if m = 0 then 15 else m,
        getF s (F.MAC_CONT_CH_PROF n))
    else none

/-- The channels may be held for transmissions: none is held by another or a contention channel in its contention slot, a continuous channel
only for what `system` sends on it, and each phase keeps within NCAP (R203, R247, R266). -/
def holdsFit (s : State) (system : Bool) (l : List (Chan × List Nat)) : Bool :=
  l.all fun (c, ts) => ts.all fun t =>
    let mine := (l.filter fun (d, us) => d.ph == c.ph && us.contains t && !contChan s d).length
    !((holdsAt s t).any fun h => h.ch == c) && !(contSlot s t && (contChans s).any fun e => e.1 == c) &&
      (if contChan s c
        then system && Nat.ble (usedOn s t c.ph) (txPh s c.ph).ncap && (Nat.ble (txPh s c.ph).ncap (ncapWritten s c.ph) || pairActive s c.ph c.pair)
        else roomOn s c.ph (usedOn s t c.ph + mine - 1))

/-- A function's reserved channels on a phase in a slot. -/
def reservedOn (s : State) (fn slot p : Nat) : Nat :=
  ((holdsAt s slot).filter fun h => h.kind == .reserved && h.fn == fn && h.ch.ph == p).length

/-- CHR that acts: function 0 has every channel until the table is in force (R379). -/
def chrAct (s : State) (fn : Nat) : Nat := if tableInForce s then chrOf s fn else if fn = 0 then 32 else 0

/-- The exchange keeps the function's reserved channels within CHR on every phase (R387). -/
def withinChr (s : State) (fn : Nat) (l : List (Chan × List Nat)) : Bool :=
  l.all fun (c, ts) => ts.all fun t =>
    Nat.ble (reservedOn s fn t c.ph + (l.filter fun (d, us) => d.ph == c.ph && us.contains t).length) (chrAct s fn)

/-- Slot frame of a slot (R386). -/
def frameOf (s : State) (slot : Nat) : Nat := slot % slotCount s / slotFrame s

def rcKey (fn fr : Nat) : Nat := fn * 2 ^ 32 + fr

/-- RC_n of a slot's frame. -/
def rcOf (s : State) (fn slot : Nat) : Nat := fgetD s.air.rc (rcKey fn (frameOf s slot)) 0

/-- The reservation has room for `w` (R387). -/
def reserveFits (s : State) (fn slot w : Nat) : Bool :=
  if tableInForce s then Nat.ble (rcOf s fn slot + w) (getF s (F.TEN_RES_RES fn)) else fn == 0

/-- Charge RC_n, or the spare count, of a slot's frame; frames long past are dropped (R386 to R388). -/
def chargeAir (s : State) (fn slot w : Nat) (spare : Bool) : State :=
  let k := rcKey fn (frameOf s slot)
  let keep := fun (m : FMap Nat) => m.filter fun e => Nat.ble (frameOf s (slotNow s)) (e.1 % 2 ^ 32 + 1)
  { s with air := { s.air with
      rc := if spare then keep s.air.rc else fputD (keep s.air.rc) k 0 (rcOf s fn slot + w),
      spare := if spare then fputD (keep s.air.spare) k 0 (fgetD s.air.spare k 0 + w) else keep s.air.spare } }

/-! ### Lanes (R258, R266) -/

/-- Free scheduler lanes: owned by the scheduler, idle and not marked for withdrawal (R162, R258). -/
def freeLanes (s : State) : List Nat :=
  (List.range 256).filter fun l => let x := lane s l; x.own == 1 && x.idle && x.withdraw == none && x.use == none && !inSafeAt s 3 l

/-- NSEED for a channel: the mean N̂ of the last lane released on it within the last epoch (R258). -/
def nseed (s : State) (c : Chan) : Word :=
  match fget s.sor.noise (c.pair * 4 + c.ph) with
  | some (w, cyc) => if cycSub (cidxNow s) cyc ≤ 256 then w else 0
  | none => 0

/-- The fields Sorrel loads (R258). -/
def schedLane (s : State) (m : Nat) (c : Chan) (ofs sw syncm prof : Nat) : Lane :=
  let r := rdN s (R.MAC_RXSEL c.ph)
  let cmb := bits r 13 12
  { w0 := BitVec.ofNat 32 (fieldsOf [(1, 30), (m, 26), (if cmb = 3 then 0 else cmb, 24), (c.pair, 16), (bits r 11 0, 0)]),
    w1 := BitVec.ofNat 32 ofs, w2 := 0x48080430, w3 := BitVec.ofNat 32 (sw * 2 ^ 16 + 3 * 2 ^ 8), w4 := nseed s c,
    cfg := BitVec.ofNat 32 (prof * 2 ^ 8 + syncm * 2 ^ 4), ph := c.ph }

/-- Start a scheduler lane at an apply point (R162, R258). -/
def startSched (s : State) (l : Nat) (x : Lane) (cyc k : Nat) (use : Option (Nat × Nat)) : State :=
  let y := lane s l
  let x := { x with
    loaded := x.cfg, use := use, onsets := y.onsets, secErased := y.secErased, secDec := y.secDec, secFrames := y.secFrames, secBad := y.secBad,
    secActive := y.secActive, secLos := y.secLos }
  markLane (startLane s l x (some (cyc, k))) l

/-! ### Building frames (R401 to R406) -/

/-- The nonce of a frame the device sends (R402). -/
def lineNonce (node bc : Bool) (src dst ctr : Nat) : List Byte :=
  [BitVec.ofNat 8 (128 * b2n node + 64 * b2n bc)] ++ toLE 3 src ++ toLE 3 dst ++ toLE 4 ctr ++ [0, 0]

/-- Associated data: H[95:16] with HOP, TTL and RTX 0, then the route extension (R403). -/
def lineAd (h : Nat) (ext : List Byte) : List Byte := toBE 10 (setBits (setBits (setBits h 42 39 0) 38 35 0) 20 20 0 / 2 ^ 16) ++ ext

/-- The route extension of a route away from the head-end (R282). -/
def extOf (relays : List Nat) : List Byte :=
  if relays = [] then [] else [BitVec.ofNat 8 relays.length] ++ relays.flatMap fun r => toBE 3 r

/-- What Sorrel is asked to send to a node: key for the counter and the cipher, label, extension, plaintext. -/
structure Req where
  dst : Nat
  label : Nat
  ext : List Byte := []
  plain : List Byte := []
  enc : Bool := true
  hops : Nat := 0

/-- Tag bytes of a node's key. -/
def nodeTag (s : State) (a : Nat) : Nat := ((key s (nodeRef a)).map fun k => tagBytes k.tlen).getD 0

/-- LEN of a request's payload field. -/
def Req.len (s : State) (r : Req) (a : Nat) : Nat := r.ext.length + r.plain.length + (if r.enc then nodeTag s a else 0)

/-- Take a counter and make header and payload of a first attempt (R172, R283, R401 to R406). The TTL of a frame that is not routed
is not stated: free. -/
def buildFrame (s : State) (r : Req) (nmode : Nat) : Nat × List Byte × Nat × State :=
  let (ctr, s) := takeCtr s r.dst
  let rte := r.ext != []
  let ttl := if rte then r.hops else freeNat s 4
  let s := if rte then s else usedFree s
  let h := mkHdr r.dst (rootAddr s) r.label (r.len s r.dst) 0 ttl ctr r.enc rte false nmode
  if r.enc then
    match key s (nodeRef r.dst) with
    | some k =>
      let s := touchKey s (nodeRef r.dst)
      (h, r.ext ++ ccmSeal k.material (lineNonce false false (rootAddr s) r.dst ctr) (lineAd h r.ext) r.plain (tagBytes k.tlen), ctr, s)
    | none => (h, r.ext ++ r.plain, ctr, s)
  else (h, r.ext ++ r.plain, ctr, s)

/-- A header sent again: RTX = 1 (R259). -/
def withRtx (h : Nat) : Nat := fixHdr (setBits h 20 20 1)

/-! ### Committing one exchange -/

/-- What comes of considering one transmission at a commit. -/
inductive Try where
  /-- not one of its events, or nothing to do -/
  | skip
  /-- passed over at its event, with the cause (R260) -/
  | passed (c : Cause) (s : State)
  | placed (s : State)
  /-- ended with its final completion -/
  | ended (s : State)

/-- The class of service (R274, R387, R388). -/
inductive Cls where
  | under | reserved | spare
  deriving DecidableEq, Repr

/-- Commit a planned exchange, on the account of a function: charges, holds, lanes and the job (R247, R258, R272, R386, R387). -/
def commitX (s : State) (slot : Nat) (x : Session) (fn : Nat) (p : XPlan) (cls : Cls) (job : Job) : State :=
  let id := s.nextJob
  let kind := if cls = .spare then HoldKind.spare else HoldKind.reserved
  let s := { s with nextJob := id + 1 }
  let s := charge s id ((p.copies.filter fun c => !c.silent).map fun c => (c.j, c.ch, c.t0, c.t1))
  let s := { s with sor := { s.sor with holds := s.sor.holds ++ p.holds.map fun (c, ts) => ⟨c, ts, kind, fn, id⟩ } }
  let s := chargeAir s fn slot p.cost (cls == .spare)
  let free := freeLanes s
  let s := ((List.range p.lanes.length).zip (p.lanes.zip free)).foldl (fun s (j, (c, cyc, k, sw), l) =>
    startSched s l (schedLane s x.m c x.ofsN sw x.modeSet x.prof) cyc k (some (id, j))) s
  let copies := p.copies.map fun c => ({
    ch := c.ch, t0 := c.t0, t1 := c.t1, c0 := slotCycle s slot, w0 := c.w0, w1 := c.w1, len := c.len, pre := c.pre,
    st := if c.silent then .silent else .planned } : Copy)
  let s := { s with jobs := s.jobs ++ [{ job with
      id := id, fn := fn, m := x.m, ofs := x.ofsN, slot := slot, slots := p.slots, cost := p.cost, frame := rcKey fn (frameOf s slot),
      reserved := cls != .spare, copies := copies, wake := p.wake, replyAt := p.replyAt }] }
  if x.kind then updSess s x.node fun y => { y with events := (y.events + 1) % 2 ^ 32 } else s

/-- The limits of spare work (R388): whether what it holds keeps them; item 2 is counted. `waiting`: the functions and the costs of the commands
that wait. -/
def spareOk (s : State) (holds : List (Chan × List Nat)) (waiting : List (Nat × Nat)) : Bool × State :=
  let sl := max 1 (getF s F.TEN_CFG_SPARE_SL)
  if holds.any fun h => Nat.blt sl h.2.length then (false, s)
  else
    -- what the functions with waiting commands, inside their reservation of the slot's frame, have not used of CHR stays free
    let short := holds.any fun (c, ts) => ts.any fun t =>
      let fns := ((waiting.filter fun e => reserveFits s e.1 t e.2).map Prod.fst).dedup
      let need := (fns.map fun m => chrOf s m - reservedOn s m t c.ph).sum
      let mine := (holds.filter fun (d, us) => d.ph == c.ph && us.contains t).length
      Nat.blt (txPh s c.ph).ncap (usedOn s t c.ph + mine + need)
    if short then (false, bump s R.TEN_HOLD_CNT) else (true, s)

/-! ### Counters and marks of what is committed (R406, R409) -/

/-- The key of a command's node is another one than its frame was encrypted under. -/
def rekeyed (s : State) (c : Cmd) : Bool := (key s (nodeRef (D.res c))).any fun k => k.gen != c.keyGen

/-- A command's frame takes a new counter: the first, and one that goes over another route after the key was replaced (R285, R406). -/
def freshCtr (s : State) (c : Cmd) (rel : List Nat) : Bool := c.ctr.isNone || (rel != c.route && c.enc && rekeyed s c)

/-- The counters that a job's frames will take as it begins, in order: of which key (a node's address, 0 for the broadcast key), and whether
the frame is encrypted. A job that has begun or ended takes none. -/
def jobKeys (s : State) (j : Job) : List (Nat × Bool) :=
  if j.ended || j.begun then [] else
  match j.making, j.kind with
  | .ctl, _ => [(j.node, true)]
  | .beacon, _ => [(0, true)]
  | .command, .command uid =>
    (if j.say = [] then [] else [(j.node, true)]) ++
    (match findCmd s uid with
    | some c => if freshCtr s c j.relays then [(D.res c, c.enc)] else []
    | none => [])
  | _, _ => []

/-- How many counters of a key the jobs up to one will take. -/
def ctrsAhead (s : State) (k id : Nat) : Nat :=
  ((s.jobs.filter fun j => Nat.ble j.id id).flatMap (jobKeys s)).countP fun e => e.1 == k

/-- The high-water commits that a job's counters need begin as it is committed (R409; log entry 128). -/
def askMarks (s : State) (j : Job) : State :=
  (((jobKeys s j).filter fun e => e.2).map Prod.fst).dedup.foldl (fun s k =>
    askMark s k (txCtr s k + ctrsAhead s k j.id - 1)
      { job := some j.id, frame := none, cmd := match j.kind with | .command uid => some uid | _ => none }) s

/-- The marks of the job committed last. -/
def askLast (s : State) : State := match s.jobs.getLast? with
  | some j => askMarks s j
  | none => s

/-- The map and hop key of a session at a slot (R255). -/
def mapOf (s : State) (x : Session) (slot : Nat) : List Chan × Nat := mapAt x (if x.kind then x.events else eventAt s x slot) (slotCycle s slot)

/-- The channels of an exchange of a session at a slot (R182). -/
def chansAt (s : State) (x : Session) (slot : Nat) : List Chan :=
  let (map, hk) := mapOf s x slot
  if x.kind then map.take 1
  else placement (((key s hk).map (·.material)).getD []) map (copiesOf x.mode) (eventAt s x slot) x.node

/-- The plan of an exchange of a session on its channels: `d` symbols to a copy, after `pre` of a MACCTL frame. -/
def planFor (s : State) (slot : Nat) (x : Session) (chs : List Chan) (pre d : Nat) (reply : Bool) : XPlan :=
  planX s slot x.m x.ofsN (guardUs s x (cidxNow s)) chs pre d (if reply then some (frameLen s x.mode x.replyLen) else none) x.rGap
    (if x.kind then some (x.wakeTone, x.wakeCode) else none)

/-- Try to place an exchange of a session at one of its events, on the account of function `fn`: `d` symbols to a copy, after the `pre`
symbols of a MACCTL frame. `refuse`: how the command ends when it may never be sent so. -/
def tryX (s : State) (slot : Nat) (x : Session) (fn : Nat) (cls : Cls) (pre d : Nat) (reply : Bool) (enc : Bool) (waiting : List (Nat × Nat))
    (refuse : State → Nat → Nat → State) (job : Job) : Try :=
  if !engineOn s && (enc || !x.kind) then .skip else
  let n := copiesOf x.mode
  let e := if x.kind then x.events else eventAt s x slot
  let (map, hk) := mapOf s x slot
  if n > 1 ∧ mapPairs map < n then .ended (refuse s St.state 0x21) else
  match (if x.kind then none else keyBar s hk Use.hop) with
  | some e => .ended (refuse (dropFailed s hk) e.1 e.2)
  | none =>
    let s := if x.kind then s else touchKey s hk
    let chs := chansAt s x slot
    if chs.length < n then .ended (refuse s St.state 0x21) else
    let wake := if x.kind then some (x.wakeTone, x.wakeCode) else none
    let tones := chs.flatMap (fun c => pairTones s c.pair) ++ (wake.map Prod.fst).toList
    if !tonesAllowed s tones || (map.all fun c => forbidden s c.ph) then .ended (refuse s St.budget 0)
    else if chs.any fun c => forbidden s c.ph then .passed .budget s else
    -- at least half of the copies go out, the others stay silent; without them TXF refuses, and any other mute is waited for (R217)
    let muted := chs.filter fun c => phaseMuted s c.ph
    let txfs := chs.filter fun c => txfMuted s c.ph
    if (n = 1 ∧ txfs ≠ []) ∨ 2 * (n - txfs.length) < n then .ended (refuse s St.state 0x22)
    else if 2 * (n - muted.length) < n ∨ (n = 1 ∧ muted ≠ []) then .skip else
    let p := planFor s slot x chs pre d reply
    let p := { p with copies := p.copies.map fun c => { c with silent := phaseMuted s c.ch.ph } }
    let lanesOk := p.lanes.all fun (c, _, _, sw) => startOk s (schedLane s x.m c x.ofsN sw x.modeSet x.prof)
    if !holdsFit s false p.holds then .passed .noLane s
    else if cls = .spare ∧ !(spareOk s p.holds waiting).1 then .passed .reservation (spareOk s p.holds waiting).2
    else if cls ≠ .spare ∧ !withinChr s fn p.holds then .passed .reservation s
    else if cls = .reserved ∧ !reserveFits s fn slot p.cost then .passed .reservation s
    else if (freeLanes s).length < p.lanes.length then .passed .noLane (raise (bump s R.MAC_NOLANE_CNT) F.MAC_EVT_NOLANE)
    -- a start that R162 refuses
    else if !lanesOk then .passed .noLane (raise s F.CMP_EVT_CFG_ERR)
    else
      let s := rebinFor s (p.copies.map (·.ch))
      if !admits s (cls == .spare) ((p.copies.filter fun c => !c.silent).map fun c => (c.ch, c.t0, c.t1))
        then .passed .budget s
      else .placed (askLast (commitX s slot x fn p cls { job with
        node := x.node, mode := x.mode, reply := reply, newMap := newMapAt x e (slotCycle s slot) }))

/-- NMODE of a frame to a session: the announced mode, else the current one (R172, R192). -/
def nmodeOf (x : Session) : Nat := (x.pend.map Prod.fst).getD x.mode

/-- The MACCTL frame that says something to a session; how the contents are coded the spec does not say (log entry 39). -/
def ctlReq (x : Session) (say : List (List Nat)) : Req :=
  { dst := x.node, label := Lbl.macctl, plain := (Config.macctl x.node say).take 480 }

/-- No MACCTL frame can be sent to a session: its key does not allow it, or has no counter left. -/
def ctlBar (s : State) (x : Session) : Bool := (keyBar s (nodeRef x.node) Use.payload).isSome || ctrSpent s x.node || !engineOn s

/-- A MACCTL exchange with a session: what it says, and its job's kind (R255, R264, R268, R270, R408). -/
def tryCtl (s : State) (slot : Nat) (x : Session) (say : List (List Nat)) (kind : JobKind) : Try :=
  if ctlBar s x then .skip else
  match tryX s slot x x.fn .under 0 (frameLen s x.mode ((ctlReq x say).len s x.node)) true true [] (fun s _ _ => s)
    { id := 0, kind := kind, fn := x.fn, making := .ctl, say := say } with
  | .ended _ => .skip
  | .passed _ t => .passed .none t
  | t => t

end Sys2Proof.Machine
end

