-- ==== Sys2Proof/Machine/Commit.lean ====
section
/-! DEFINITION. The commit of a slot in its order of service: contention openings, beacons, repeats, rescue polls, opening frames and
floods, reserved and spare commands, announcements (R246 to R249, R258 to R260, R264 to R267, R274, R284 to R291, R336, R387, R388,
R408). -/

namespace Sys2Proof.Machine

/-! ### Contention slots (R265, R266) -/

/-- A contention opening may hold its channel: nothing else holds it, and the phase keeps within NCAP (R247). -/
def contFits (s : State) (c : Chan) (slot : Nat) : Bool :=
  !((holdsAt s slot).any fun h => h.ch == c) && !contChan s c && roomOn s c.ph (usedOn s slot c.ph)

/-- Open one contention channel in a slot, on the first free lane (R266). -/
def openOne (s : State) (slot : Nat) (e : Chan × Nat × Nat × Nat) : State :=
  let (c, m, sy, pr) := e
  if !contFits s c slot then s else
  let x := schedLane s m c 0 (slotC s * mOf m) sy pr
  match freeLanes s with
  | [] => s
  | i :: _ =>
    if !startOk s x then raise s F.CMP_EVT_CFG_ERR else
    let s := startSched s i x (slotCycle s slot) 0 none
    { s with sor := { s.sor with holds := s.sor.holds ++ [⟨c, [slot % slotCount s], .contention, 0, 0⟩] } }

/-- Contention openings of a slot, lowest channel number first; a shortage of lanes is counted (R266). -/
def openContention (s : State) (slot : Nat) : State :=
  if !contSlot s slot then s else
  let l := (contChans s).filter fun e => contFits s e.1 slot && startOk s (schedLane s e.2.1 e.1 0 (slotC s * mOf e.2.1) e.2.2.1 e.2.2.2)
  let short := Nat.blt (freeLanes s).length l.length
  let s := (contChans s).foldl (fun s e => openOne s slot e) s
  if short then raise (bump s R.MAC_CONT_SHORT_CNT) F.MAC_EVT_CONT_SHORT else s

/-! ### Beacons and floods (R267, R291) -/

/-- Phases a beacon or flood can go out on now. -/
def bcnPhases (s : State) : List Nat :=
  (List.range 3).filter fun p => bit (getF s F.MAC_BCN_CFG_PH) p && !phaseMuted s p && !forbidden s p

/-- The M code of the beacon channel. -/
def bcnM (s : State) : Nat := let m := getF s F.MAC_BCN_CFG_M; if m > 4 then 0 else m

/-- The agreements a beacon carries (R267). -/
def bcnRecords (s : State) : List (List Byte) :=
  s.quiets.map fun (i, q) =>
    let st := if q.state = 4 then 2 else if q.state = 1 then 0 else if q.state = 2 then 1 else 3
    [BitVec.ofNat 8 (i + st * 16), BitVec.ofNat 8 q.group] ++ toBE 4 q.c ++ toBE 3 q.dur ++ [BitVec.ofNat 8 q.win, 0, 0]

/-- The beacon's payload before its tag (R267). -/
def bcnPayload (s : State) (slot : Nat) : List Byte :=
  let r := bcnRecords s
  toBE 4 (slotCycle s slot) ++ [BitVec.ofNat 8 (getF s F.MAC_SLOT_CFG_SLOT_C * 64 + (contPer s slot).getD 0), BitVec.ofNat 8 r.length] ++
    r.flatten

/-! ### Filler on continuous channels (R227, R228) -/

/-- The symbols of a filler frame with LEN = n (R228). -/
def fillerFrame (s : State) (n : Nat) : List Bool :=
  frameSymbols s (fillMode s) (mkHdr 0x3FFFF (rootAddr s) Lbl.filler n 0 0 0 false false false 0) (bytesOfBits n (fillerBits (8 * n) 511))

/-- The frames and idle cells of a gap of `g` symbols (R227). -/
def gapFill (s : State) (g : Nat) : List Nat × Nat := fillGap (frameLen s (fillMode s)) (fillMax s) g (g / 4 * 4)

/-- The symbols of a gap: filler frames, then idle cells of 1, 0, 1, 0. -/
def gapSymbols (s : State) (r : List Nat × Nat) : List Bool :=
  r.1.flatMap (fillerFrame s) ++ (List.replicate r.2 [true, false, true, false]).flatten

/-- The filler on the air on a channel: its job, copy and signal. -/
def fillerOn (s : State) (c : Chan) : Option (Job × Copy × Signal) :=
  s.jobs.findSome? fun j => if j.kind = .filler && !j.ended then
    (j.copies.find? fun k => k.ch == c && k.st == .onAir).bind fun k => k.sig.map fun g => (j, k, g) else none

/-- Symbols from a copy's first one to a phase-word count after the boundary of a cycle (R197). -/
def symbolsFrom (k : Copy) (m cycle : Nat) (count : Int) : Int :=
  (sext 32 (wrap 32 ((cycle : Int) - k.c0)) * phaseP + count - k.w1) / symbolOf m

/-- Symbols of a filler up to the end of the frame or idle cell in progress after `n` symbols. -/
def fillerEnd : List Nat → Nat → Nat → Nat
  | [], at_, n => at_ + cdiv (n - at_) 4 * 4
  | f :: l, at_, n => if n < at_ + f then (if n = at_ then at_ else at_ + f) else fillerEnd l (at_ + f) n

/-- Symbols of a filler that is on the air up to the end of the frame or idle cell in progress now. -/
def fillerStop (s : State) (j : Job) (g : Signal) : Nat :=
  fillerEnd j.fill 0 (g.starts.countP fun t => decide (t < (s.mains.elapsed : Rat)))

/-- The first symbol of a frame that a slot brings onto the beacon pair, counted from the slot's start: symbol 1, or later, at the end of the
filler frame in progress (R227, R267). -/
def systemStart (s : State) (slot m : Nat) (ps : List Nat) : Nat :=
  ps.foldl (fun q p => match fillerOn s ⟨getF s F.MAC_BCN_CFG_PAIR, p⟩ with
    | some (j, k, g) => max q (1 + (fillerStop s j g : Int) - symbolsFrom k m (slotCycle s slot) (symbolOf m)).toNat
    | none => q) 1

/-- The filler on a channel is planned anew up to a frame that comes before its end: what is sent stays, the rest of the gap is filled
again. -/
def refill (s : State) (c : Chan) (m slot : Nat) (count : Int) : State :=
  match fillerOn s c with
  | none => s
  | some (j, k, g) =>
    let n := (symbolsFrom k m (slotCycle s slot) count).toNat
    if g.bits.length ≤ n then s else
    let stop := min n (fillerStop s j g)
    let r := gapFill s (n - stop)
    let sym := gapSymbols s r
    let s := post s (.filler c.ph c.pair r.1 r.2 sym)
    let len := stop + sym.length
    let g' := { g with bits := g.bits.take stop ++ sym, starts := g.starts.take (len + 1) }
    updJob s j.id fun j => { j with
      fill := (j.fill.take ((List.range j.fill.length).countP fun i => Nat.ble ((j.fill.take (i + 1)).sum) stop)) ++ r.1.map (frameLen s (fillMode s))
      copies := j.copies.map fun k => if k.ch = c then { k with t1 := g'.e1.floor.toNat, len := len, sig := some g' } else k }

/-- What comes of placing a beacon or a flood. -/
inductive Place where
  | placed (s : State)
  /-- the duty budget does not allow it -/
  | budget
  | no

/-- The continuous beacon channel of a phase has been admitted, and so charged, over an interval (R227, R267, R272). -/
def contCovers (s : State) (p t0 t1 : Nat) : Bool := s.sor.cont.any fun c => c.ph == p && Nat.ble c.t0 t0 && Nat.ble t1 c.t1

/-- Place a frame with a payload field of `len` bytes on the beacon pair of the phases, from symbol 1 of the slot on the device's own grid
(R227, R267, R291): admitted and held, or not. `cont`: the slots up to the next beacon, to whose start a continuous channel is charged. -/
def placeSystem (s : State) (slot mode len h : Nat) (body : List Byte) (kind : JobKind) (making : Making) (cont : Option Nat) : Place :=
  let m := bcnM s
  let sc := symbolOf m
  let pair := getF s F.MAC_BCN_CFG_PAIR
  let ps := bcnPhases s
  let d := frameLen s mode len
  let q := systemStart s slot m ps
  let w0 : Rat := (q : Rat) * sc - (sc : Rat) / 8
  let w1 : Rat := (d + q : Nat) * (sc : Rat) + (sc : Rat) / 8
  let t0 := slotTime s slot w0
  let t1 := slotTime s slot (match cont with
    | some per => (per * slotC s : Nat) * (phaseP : Rat) + (sc : Rat) * (9 / 8)
    | none => w1)
  let ts := slotsOver s slot 0 ((d + q) * sc)
  let holds : List (Chan × List Nat) := ps.map fun p => (⟨pair, p⟩, ts)
  let sysOk := !tableInForce s || ps.all fun p => ts.all fun t =>
    Nat.blt ((holdsAt s t).filter fun x => x.kind == .system && x.ch.ph == p).length (getF s F.TEN_CFG_SYS_CH)
  let s' := rebinFor s (holds.map Prod.fst)
  let due := holds.filter fun x => !contCovers s x.1.ph t0 t1
  if ps = [] ∨ !holdsFit s true holds || !sysOk then .no
  else if !tonesAllowed s (pairTones s pair) || !admits s' false (due.map fun h => (h.1, t0, t1)) then .budget
  else
    let id := s'.nextJob
    let s := { s' with nextJob := id + 1 }
    let s := charge s id (((List.range ps.length).zip holds).filterMap fun (j, h) => if due.contains h then some (j, h.1, t0, t1) else none)
    let s := holds.foldl (fun s x => refill s x.1 m slot (q * sc)) s
    let hs : List Hold := holds.map fun (x : Chan × List Nat) => { ch := x.1, slots := x.2, kind := .system, fn := 0, job := id }
    let cs : List Copy := holds.map fun (x : Chan × List Nat) =>
      { ch := x.1, t0 := t0, t1 := slotTime s slot w1, c0 := slotCycle s slot, w0 := w0, w1 := q * sc, len := d }
    let spans : List ContSpan := if cont.isSome then ps.map fun p => { ph := p, job := id, t0 := t0, t1 := t1 } else []
    let s := { s with sor := { s.sor with holds := s.sor.holds ++ hs, cont := s.sor.cont ++ spans } }
    .placed (askLast { s with jobs := s.jobs ++ [{
      id := id, kind := kind, fn := 0, mode := mode, m := m, h := h, body := body, slot := slot, slots := ts.length, making := making,
      copies := cs }] })

/-- A slot carries a beacon (R267). -/
def bcnSlot (s : State) (slot : Nat) : Bool :=
  isSet s F.MAC_BCN_CFG_EN && slot % 2 ^ min 8 (getF s F.MAC_BCN_CFG_PER_LOG2) == 0

/-- The beacon of a slot (R267): skipped when the budget refuses it. It is numbered and encrypted as it begins (log entry 128). -/
def placeBeacon (s : State) (slot : Nat) : State :=
  if !bcnSlot s slot || bcnPhases s == [] || !engineOn s || !rootSet s || ctrSpent s 0 then s else
  match (bcastRef s).bind (key s) with
  | none => s
  | some k =>
    let pl := bcnPayload s slot
    let cont := if isSet s F.MAC_BCN_CFG_CONT then some (2 ^ min 8 (getF s F.MAC_BCN_CFG_PER_LOG2)) else none
    match placeSystem s slot (getF s F.MAC_BCN_CFG_MODE) (pl.length + tagBytes k.tlen) 0 pl .beacon .beacon cont with
    | .placed t => t
    | .budget => raise (bump s R.MAC_BCN_SKIP_CNT) F.MAC_EVT_BCN_SKIP
    | .no => s

/-- The header of a FLOOD or RELAY command; a flood's SEQ and NMODE are not stated: free. -/
def floodHdr (s : State) (c : Cmd) : Nat × State :=
  if D.op c = 0x13 then
    (mkHdr 0x3FFFF (D.res c) c.label c.payload.length (D.at c 26 1 % 16) (D.at c 26 1 / 16) (D.at c 27 2) c.enc false false (freeNat s 2), usedFree s)
  else
    let f := freeNat s 14
    (mkHdr 0x3FFFF (rootAddr s) c.label c.payload.length 0 (max 1 (getF s F.VET_FLOOD_CFG_TTL)) (f % 4096) false false false (f / 4096), usedFree s)

/-- Record why a command is passed over at its event, with its single DEFERRED (R260). -/
def holdBack (s : State) (c : Cmd) (cause : Cause) (est : Nat) : State :=
  if cause = .none ∨ c.attempts ≠ 0 then s else
  let s := updCmd s c.uid fun d => { d with cause := cause }
  match findCmd s c.uid with
  | some d => deferCmd s d est
  | none => s

/-- Phases a flood is sent on: every phase of MAC_BCN_CFG.PH that is not forbidden (R202, R291). -/
def floodPhases (s : State) : List Nat := (List.range 3).filter fun p => bit (getF s F.MAC_BCN_CFG_PH) p && !forbidden s p

/-- Place a waiting FLOOD or RELAY: refused where every phase has come to be forbidden, or one is muted by TXF or undervoltage; any other mute
is waited for (R202, R217, R291). A repeat sends the frame of the first attempt with RTX = 1 (R259). -/
def placeFlood (s : State) (slot : Nat) (c : Cmd) : State :=
  let ps := floodPhases s
  if ps = [] ∧ getF s F.MAC_BCN_CFG_PH % 8 ≠ 0 ∧ c.attempts = 0 then complete s c St.budget 0 0
  else if ps.any (txfMuted s) then refuseCmd c s St.state 0x22
  else if ps = [] ∨ ps.any (phaseMuted s) then s
  else
    let (h, t) := if c.attempts = 0 then floodHdr s c else (withRtx c.hdr, s)
    match placeSystem t slot (getF s F.MAC_BCN_CFG_MODE) c.payload.length h c.payload (.flood (some c.uid)) .none none with
    | .placed t => updCmd t c.uid fun d => { d with st := .onLine, hdr := h, cause := .none }
    | .budget => holdBack (bump s R.MAC_BUDGET_DEFER_CNT) c .budget (slotCycle s (slot + 1))
    | .no => holdBack s c .noLane (slotCycle s (slot + 1))

/-- Place the floods that wait: commands in fetch order, then the device's own, under managed flooding alone (R294). -/
def placeFloods (s : State) (slot : Nat) : State :=
  let s := (s.cmds.filter fun c => c.st == .waiting && isFlood c && c.attempts == 0 && ahead c.deadline (slotCycle s slot)).foldl
    (fun s c => placeFlood s slot c) s
  if s.mesh.method then s else
  s.mesh.floods.foldl (fun s f =>
    match placeSystem s slot (getF s F.MAC_BCN_CFG_MODE) f.2.length f.1 f.2 (.flood none) .none none with
    | .placed t => updMesh t fun m => { m with floods := m.floods.erase f }
    | _ => s) s

/-! ### Commands for a node -/

/-- The command expects a reply. -/
def expects (c : Cmd) : Bool := D.op c == 0x11

/-- The route a command takes now: none when there is none (R281, R285, R287, R290). Answers the session that carries it and the
relays. With VET_CTRL.EN = 0 no routed command is served (R304). -/
def routeFor (s : State) (c : Cmd) : Option (Session × List Nat) :=
  let node := D.res c
  let on := isSet s F.VET_CTRL_EN
  if c.ext ≠ [] ∧ c.attempts = 0 then
    -- the extension of the host (R294)
    let r := (List.range (leAt c.ext 0 1 % 8)).map fun i => beNat (slice c.ext (1 + 3 * i) 3)
    if on then (sess s (r.headD 0)).map fun x => (x, r) else none
  -- the route of the first attempt is kept while it is usable; one the host gave is kept (R285, R294)
  else if on && c.attempts ≠ 0 && c.route != [] && (bit (D.at c 25 1) 1 || routeUsable s node c.route)
    then if active s (c.route.headD 0) then (sess s (c.route.headD 0)).map fun x => (x, c.route) else none
  else if active s node || (c.route == [] && c.attempts != 0 && (sess s node).any fun x => x.state == 2)
    then (sess s node).map fun x => (x, [])
  else match (if on then routeOf s node else none) with
    | some l => if active s (l.headD 0) then (sess s (l.headD 0)).map fun x => (x, l) else none
    | none => none

/-- The command is the first of its function for its node that waits, and neither the node nor the session that carries it is in an
exchange (R365). -/
def firstForNode (s : State) (c : Cmd) (x : Session) : Bool :=
  !(s.cmds.any fun d => d.fn == c.fn && D.res d == D.res c && Nat.blt d.uid c.uid && isExchange d && (d.st == .waiting || d.st == .onLine)) &&
    !(s.jobs.any fun j => j.node == x.node && !j.ended)

/-- No route (R290). -/
def noRoute (s : State) (c : Cmd) : State :=
  let s := raise (bump s R.VET_NOROUTE_CNT) F.VET_EVT_NOROUTE
  refuseCmd c (discover s (D.res c)) St.state 0x27

/-- The request of a command over its route. -/
def reqOf (c : Cmd) (rel : List Nat) : Req :=
  let host := c.ext != [] && c.attempts == 0 && !c.routed
  { dst := D.res c, label := c.label, ext := if host then c.ext else extOf rel, plain := c.payload, enc := c.enc,
    hops := if rel = [] then 0 else rel.length + 1 }

/-- Bytes of the payload field of a command's frame over a route. -/
def cmdLen (s : State) (c : Cmd) (rel : List Nat) : Nat := if !freshCtr s c rel && rel == c.route then c.cipher.length else (reqOf c rel).len s (D.res c)

/-- The frame of an attempt as it begins, recorded with its command. The first is built with a counter of its own. A repeat reuses header,
counter and ciphertext with RTX = 1; an unencrypted one carries the mode announced now, which the tag of an encrypted one forbids (log entry
128). Over a new route the same counter serves with the new extension, unless the key is another one (R192, R259, R285, R403, R406). -/
def cmdFrame (s : State) (c : Cmd) (x : Session) (rel : List Nat) : Nat × List Byte × State :=
  let r := reqOf c rel
  let again := fun h => if c.attempts = 0 then h else withRtx h
  let note := fun (s : State) ctr h body => updCmd s c.uid fun d => { d with
    ctr := some ctr, hdr := h, cipher := body, route := rel, routed := rel != [], ext := r.ext,
    keyGen := ((key s (nodeRef r.dst)).map fun k => k.gen).getD 0 }
  if freshCtr s c rel then
    let (h, body, ctr, s) := buildFrame s r (nmodeOf x)
    (again h, body, note s ctr h body)
  else if rel = c.route then
    (again (if c.enc then c.hdr else setBits c.hdr 19 18 (nmodeOf x) |> fixHdr), c.cipher, s)
  else
    let ctr := c.ctr.getD 0
    let ext := extOf rel
    let h := mkHdr r.dst (rootAddr s) c.label (r.len s r.dst) 0 (rel.length + 1) ctr c.enc (rel != []) false (nmodeOf x)
    let body := match key s (nodeRef r.dst) with
      | some k => if c.enc then ext ++ ccmSeal k.material (lineNonce false false (rootAddr s) r.dst ctr) (lineAd h ext) c.payload (tagBytes k.tlen)
        else ext ++ c.payload
      | none => ext ++ c.payload
    (again h, body, note s ctr h body)

/-! ### What MACCTL frames say (R255, R268, R270, R408) -/

/-- What a session is to be told at one of its events: what a wake request led to, at its wake anchor from the window named on (4); a new
map and its version (2); the agreements announced to its group (3). -/
def sayings (s : State) (x : Session) (slot : Nat) : List (List Nat) :=
  (match x.wake.bind fun i => (quiet s i).map fun q => (i, q) with
    | some (i, q) =>
      let w := slotCycle s (windowOf s q slot)
      if wakeAnchor s x q slot && q.tell.any (fun a => a == w || ahead w a) then [[4, i, q.state, q.group, q.c, q.endAt.getD 0]] else []
    | none => []) ++
  (match x.mapChg with
    | some m => if m.confirmed then [] else [[2, m.ver] ++ m.map.flatMap fun c => [c.pair, c.ph]]
    | none => []) ++
  (s.quiets.filter fun e => e.2.state == 1 && e.2.group == x.group && x.group != 0).map fun e => [3, e.1, e.2.group, e.2.c, e.2.dur, e.2.win]

/-- A frame that says something begins: a wake request's outcome is told, and a map change applies from an epoch boundary at least two
epochs after its first announcement (R255, R270). -/
def told (s : State) (j : Job) : State :=
  let has := fun (k : Nat) => j.say.any fun l => l.headD 9 == k
  updSess s j.node fun y => { y with
    wake := if has 4 then none else y.wake,
    mapChg := y.mapChg.map fun m => if has 2 ∧ m.q = none then { m with q := some ((slotCycle s j.slot / 256 + 3) * 256 % 2 ^ 32) } else m }

/-- What is said ahead of a command's frame: nothing where the session's key, or its last counters, do not allow a frame more. -/
def sayAhead (s : State) (x : Session) (slot : Nat) : List (List Nat) :=
  if ctlBar s x || Nat.ble 0xFFFF_0000 (txCtr s x.node + 1) then [] else sayings s x slot

/-- Symbols of the MACCTL frame that goes ahead of a frame, 0 for none, and of the command's frame. -/
def cmdSymbols (s : State) (x : Session) (rel : List Nat) (say : List (List Nat)) (c : Cmd) : Nat × Nat :=
  (if say = [] then 0 else frameLen s x.mode ((ctlReq x say).len s x.node), frameLen s x.mode (cmdLen s c rel))

/-- The exchange of a command keeps to a quiet period of its session at a slot, which is one of its events (R260, R269). -/
def quietEvent (s : State) (x : Session) (slot : Nat) : Bool :=
  isEvent s x slot && !servable s x slot

/-- Consider a waiting SEND or POLL at a commit. What the session is to be told goes ahead of its frame. -/
def tryCmd (s : State) (slot : Nat) (cls : Cls) (waiting : List (Nat × Nat)) (c : Cmd) : Try :=
  match routeFor s c with
  | none => .ended (noRoute s c)
  | some (x, rel) =>
    if (x.state ≠ 0 && (x.state ≠ 2 || c.attempts == 0)) || !firstForNode s c x || (c.attempts == 0 && !ahead c.deadline (slotCycle s slot)) then .skip
    else if !servable s x slot then (if quietEvent s x slot then .passed .quiet s else .skip)
    else if 508 < cmdLen s c rel then .ended (refuseCmd c s St.state 0x28)
    else match (if c.enc then keyBar s (nodeRef (D.res c)) Use.payload else none) with
      | some e => .ended (refuseCmd c (dropFailed s (nodeRef (D.res c))) e.1 e.2)
      | none =>
        if freshCtr s c rel ∧ ctrSpent s (D.res c) then .ended (refuseCmd c s St.state 0x3A) else
        let say := sayAhead s x slot
        let (pre, d) := cmdSymbols s x rel say c
        match tryX s slot x c.fn cls pre d (expects c) c.enc waiting (fun s a b => refuseCmd c s a b)
            { id := 0, kind := .command c.uid, fn := c.fn, making := .command, relays := rel, hops := (reqOf c rel).hops, say := say } with
        | .placed t => .placed (updCmd t c.uid fun d => { d with st := .onLine, cause := .none })
        | t => t

/-- A slot's reservation or the spare airtime leaves it open to a session's function (R260). -/
def openTo (s : State) (fn slot : Nat) : Bool := reserveFits s fn slot 1 || getF s (F.TEN_RES_WT fn) != 0

/-- The earliest event that the committed plans and the reservations of the current and the next epoch leave open to a session after a slot
(R260): a forecast. With none in these epochs it is the first event after them; where a long quiet period hides that too, it is free. -/
def estimate (s : State) (x : Session) (slot : Nat) : Nat × State :=
  let step := if x.kind then 1 else 2 ^ x.ivl
  let stop := slotCycle s slot / 256 * 256 + 512
  let n := cdiv (stop - slotCycle s slot) (slotC s * step)
  let l := (List.range n).filterMap fun i => nextServable s x 2 (slot + 1 + i * step)
  let free := fun (t : Nat) => openTo s x.fn t && x.map.any fun c => !(holdsAt s t).any fun h => h.ch == c
  match (l.find? free).or (nextServable s x 64 (slot + 1 + n * step)) with
  | some t => (slotCycle s t, s)
  | none => (freeNat s 32, usedFree s)

/-- The commands that wait for a node: those that repeat an attempt, floods among them, or those that have made none, playbacks among them, by
deadline, then function, then fetch order (R259, R387). -/
def waitList (s : State) (again : Bool) : List Cmd :=
  let l := s.cmds.filter fun c => c.st == .waiting && (isExchange c || (D.op c == 0x45 && !again) || (isFlood c && again)) &&
    (c.attempts != 0) == again
  let k := fun (c : Cmd) => (cycSub c.deadline (cidxNow s), c.fn, c.uid)
  l.mergeSort fun a b =>
    let (d, f, u) := k a
    let (d', f', u') := k b
    Nat.blt d d' || (d == d' && (Nat.blt f f' || (f == f' && Nat.ble u u')))

/-- A command held back by the budget is counted (R276). -/
def countDefer (s : State) (cause : Cause) : State := if cause = .budget then bump s R.MAC_BUDGET_DEFER_CNT else s

/-- Repeats under way (R274 item 3). -/
def placeRepeats (s : State) (slot : Nat) : State :=
  (waitList s true).foldl (fun s c =>
    if isFlood c then placeFlood s slot c else
    match tryCmd s slot .under [] c with
    | .placed t => t
    | .ended t => t
    | .passed cause t => countDefer t cause
    | .skip => s) s

/-- Rescue polls (code 0) and session-opening frames (code 1, with the receive floor), served where the session is (R264, R269, R274 item 4,
R408). -/
def placeRescue (s : State) (slot : Nat) : State :=
  s.sessions.foldl (fun s (n, x) =>
    if s.jobs.any (fun j => j.node == n && !j.ended) || !servable s x slot then s else
    let t :=
      if x.state = 1 then
        if !x.kind && eventAt s x slot % 2 ^ min 8 (getF s F.MAC_CTRL_RESCUE_DIV) == 0 then
          match robustest x with
          | some m => tryCtl s slot { x with mode := m } ([0] :: sayings s x slot) (.rescue n)
          | none => .skip
        else .skip
      else if x.state = 0 && x.opening then
        let r := rxCtr s n
        tryCtl s slot x ([1, if r.empty then 0 else r.h + 1] :: sayings s x slot) (.opening n)
      else .skip
    match t with
    | .placed t => t
    | .passed _ t => t
    | _ => s) s

/-! ### Playback (R336) -/

/-- Items of a list and ALIGN entries run up to its END (R334, R336): `sums` holds what has been run before each entry, that of entry `k`
first. A REPEAT runs the entries from its target to itself REPS times more. -/
def listItems (s : State) (base : Nat) : Nat → Nat → List (Nat × Nat) → Nat × Nat
  | 0, _, sums => sums.headD (0, 0)
  | f + 1, k, sums =>
    let e := patWord s (base + k)
    let n := (sums.headD (0, 0)).1
    let a := (sums.headD (0, 0)).2 + b2n (Ent.align e)
    match Ent.type e with
    | 0 => (n, a)
    | 3 =>
      let t := sums.getD (k - Ent.target e) (0, 0)
      listItems s base f (k + 1) ((n + Ent.reps e * (n - t.1), a + Ent.reps e * (a - t.2)) :: sums)
    | _ => listItems s base f (k + 1) ((n + entryItems e, a) :: sums)

/-- Planned length of a playback in ns: its items × 244.140625 ns, and a cycle at 45 Hz for each ALIGN entry run (R336). -/
def playNs (s : State) (base : Nat) : Nat :=
  let (n, a) := listItems s base 65536 0 [(0, 0)]
  (n * 244140625 + 999999) / 1000000 + a * 22223000

/-- Consider a playback that waits for its slot (R202, R217, R336, R387, R388): with the pattern alone it holds every channel of its phase, and is
charged like an exchange. -/
def tryPlayer (s : State) (slot : Nat) (cls : Cls) (waiting : List (Nat × Nat)) (c : Cmd) : Try :=
  let p := D.res c
  let x := player s p
  if p > 2 ∨ x.uid ≠ c.uid || !ahead c.deadline (slotCycle s slot) then .skip
  else if txfMuted s p then .ended (wrongState (freePlayer s c.uid) c 0x22)
  else if phaseMuted s p then .skip
  else if forbidden s p || getF s (F.TXS_PAT_PEAK_PEAK p) == 0 || !anyBand s then .ended (complete (freePlayer s c.uid) c St.budget 0 0)
  else
    let t0 := slotTime s slot 0
    let t1 := t0 + playNs s x.list
    let span := min (slotCount s) (max 1 (cdiv (t1 - t0) (max 1 (Rat.floor (cycleNs s * slotC s)).toNat)))
    let ts := (List.range span).map fun d => (slot + d) % slotCount s
    let alone := getF s (F.TXS_MIX_SRC p) == 1
    let chs : List (Chan × List Nat) := if alone then (List.range (txPh s p).ncap).map fun i => (⟨256 + i, p⟩, ts) else []
    let cost := (chs.map fun h => h.2.length).sum
    let bands := (List.range 8).filter fun n => isSet s (F.MAC_BAND_RANGE_EN n)
    let spare := cls == .spare
    if alone && ts.any (fun t => usedOn s t p != 0) then .passed .noLane s
    else if spare && !(spareOk s chs waiting).1 then .passed .reservation (spareOk s chs waiting).2
    else if !spare && (!withinChr s c.fn chs || !reserveFits s c.fn slot cost) then .passed .reservation s
    else
      let s := bands.foldl rebin s
      if !(bands.all fun n => bandAdmits s n spare [(p, t0, t1)]) then .passed .budget s
      else
        let id := s.nextJob
        let charges : List Charge := bands.map fun n => { id := id, band := n, ph := p, t0 := t0, t1 := t1 }
        let holds : List Hold := chs.map fun h =>
          { ch := h.1, slots := h.2, kind := if spare then .spare else .reserved, fn := c.fn, job := id }
        let s := { s with
          nextJob := id + 1, bands := { s.bands with charges := s.bands.charges ++ charges }, sor := { s.sor with holds := s.sor.holds ++ holds } }
        let s := chargeAir s c.fn slot cost spare
        let s := { s with jobs := s.jobs ++ [{
          id := id, kind := .player c.uid p, fn := c.fn, slot := slot, slots := ts.length, cost := cost, frame := rcKey c.fn (frameOf s slot),
          reserved := !spare, copies := [{ ch := ⟨256, p⟩, t0 := t0, t1 := t1, c0 := slotCycle s slot }] }] }
        .placed (updCmd s c.uid fun d => { d with st := .onLine, cause := .none })

/-- Consider a command of item 5 or 6 of R274: an exchange or a playback. -/
def tryWork (s : State) (slot : Nat) (cls : Cls) (waiting : List (Nat × Nat)) (c : Cmd) : Try :=
  if D.op c = 0x45 then tryPlayer s slot cls waiting c else tryCmd s slot cls waiting c

/-- Commands within their tenants' reservations, by deadline (R274 item 5, R336, R387). -/
def placeReserved (s : State) (slot : Nat) : State :=
  (waitList s false).foldl (fun s c =>
    match tryWork s slot .reserved [] c with
    | .placed t => t
    | .ended t => t
    | _ => s) s

/-- The functions whose fetched commands wait, with what each command would cost in the slot (R386, R388 item 2). -/
def waitingFns (s : State) (slot : Nat) : List (Nat × Nat) :=
  s.cmds.filterMap fun c =>
    if c.st ≠ .waiting ∨ !isExchange c then none else
    match routeFor s c with
    | none => none
    | some (x, rel) =>
      let (pre, d) := cmdSymbols s x rel (sayAhead s x slot) c
      some (c.fn, (planFor s slot x (chansAt s x slot) pre d (expects c)).cost)

/-- A function's waiting exchanges and playbacks, by deadline. -/
def spareList (s : State) (n : Nat) : List Cmd := (waitList s false).filter fun c => c.fn == n

/-- Serve one function's spare commands while its credit lasts (R388). -/
def spareFn (slot n : Nat) : List Cmd → State → State
  | [], s => s
  | c :: l, s =>
    match tryWork s slot .spare (waitingFns s slot) c with
    | .placed t =>
      let w := (t.jobs.getLast?.map fun j => j.cost).getD 0
      let cr := fgetD s.air.credit n 0
      if w ≤ cr then spareFn slot n l { t with air := { t.air with credit := fputD t.air.credit n 0 (cr - w), last := n } } else s
    | .ended t => spareFn slot n l t
    | _ => spareFn slot n l s

/-- A function has a spare command that could be placed. -/
def hasSpare (s : State) (slot n : Nat) : Bool :=
  (spareList s n).any fun c => match tryWork s slot .spare (waitingFns s slot) c with
    | .placed _ => true
    | _ => false

/-- Spare work by deficit round-robin (R274 item 6, R388). -/
def placeSpare (s : State) (slot : Nat) : State :=
  let last := s.air.last
  ((List.range' 1 8).map fun i => (last + i) % 8).foldl (fun s n =>
    if !hasSpare s slot n then { s with air := { s.air with credit := fdel s.air.credit n } } else
    let wt := getF s (F.TEN_RES_WT n)
    let s := { s with air := { s.air with credit := fputD s.air.credit n 0 (min (fgetD s.air.credit n 0 + wt) (8 * wt)) } }
    spareFn slot n (spareList s n) s) s

/-- A command passed over learns it, with the earliest event left open to it, or for a playback the next slot (R260). -/
def passOver (s : State) (slot : Nat) (c : Cmd) (cause : Cause) : State :=
  let s := countDefer s cause
  if D.op c = 0x45 then holdBack s c cause (slotCycle s (slot + 1)) else
  match routeFor s c with
  | some (x, _) => let (e, t) := estimate s x slot; holdBack t c cause e
  | none => s

/-- Every command passed over at its event learns it (R260, R274): the cause is what stopped it as reserved work, or, with its reservation
used up, what stopped it as spare work. -/
def passedOver (s : State) (slot : Nat) : State :=
  (waitList s false).foldl (fun s c =>
    match tryWork s slot .reserved [] c with
    | .passed .reservation t =>
      if getF s (F.TEN_RES_WT c.fn) = 0 then passOver t slot c .reservation else
      (match tryWork s slot .spare (waitingFns s slot) c with
      | .passed cause t => passOver t slot c cause
      | .ended t => t
      | _ => passOver s slot c .reservation)
    | .passed cause t => passOver t slot c cause
    -- it could be placed as reserved work only beside work that has been placed meanwhile
    | .placed _ => passOver s slot c .reservation
    | .ended t => t
    | .skip => s) s

/-- What sessions are to be told at events that nothing else took (R255, R268, R270; log entry 41). -/
def placeAnnounce (s : State) (slot : Nat) : State :=
  s.sessions.foldl (fun s (n, x) =>
    if x.state ≠ 0 || s.jobs.any (fun j => j.node == n && !j.ended) || !servable s x slot then s else
    let say := sayings s x slot
    if say = [] then s else
    match tryCtl s slot x say (.announce n) with
    | .placed t => t
    | .passed _ t => t
    | _ => s) s

/-! ### SLOT_COMMIT -/

/-- Past holds are dropped, and jobs that have ended and that no lane or frame refers to. -/
def tidy (s : State) (slot : Nat) : State :=
  let now := slot + slotCount s - 1
  let holds := (s.sor.holds.map fun h => { h with slots := h.slots.filter fun t => !slotAhead s now t }).filter fun h => h.slots != []
  let used := fun (j : Job) => s.lanes.any fun e => e.2.use.any fun u => u.1 == j.id
  let framed := fun (j : Job) => s.frames.any fun e => e.2.job == some j.id
  let cont := s.sor.cont.filter fun c => Nat.ble s.mains.elapsed c.t1
  pruneBands { s with sor := { s.sor with holds := holds, cont := cont }, jobs := s.jobs.filter fun j => !j.ended || used j || framed j || j.deadline.isSome }

/-- Commit the plan of a slot in the order of R274; without an address of its own the device only opens contention slots (R266, R303), and so it
does after the firmware watchdog, since reception keeps running (R27, R249). -/
def commitSlot (s : State) (slot : Nat) : State :=
  let s := tidy { s with sor := { s.sor with committed := some slot } } slot
  let s := openContention s slot
  if !rootSet s || s.pwr.watchdog then s else
  let s := placeBeacon s slot
  let s := placeRepeats s slot
  let s := placeFloods (placeRescue s slot) slot
  let s := passedOver (placeSpare (placeReserved s slot) slot) slot
  placeAnnounce s slot

/-- SLOT_COMMIT (R248): at the boundary of a slot the plan of the next is committed, once. -/
def execSlotCommit (s : State) : Answer :=
  let slot := (slotNow s + 1) % slotCount s
  if !cidxOk s || cidxNow s % slotC s != 0 || s.sor.committed == some slot || !isSet s F.MAC_CTRL_EN || !domainOn s 9 || inSafe s 7 then done s
  else done (commitSlot s slot)

end Sys2Proof.Machine
end

