-- ==== Sys2Proof/Machine/Submit.lean ====
section
/-! DEFINITION. What becomes of a transmit command when it starts: SEND, POLL, FLOOD, RELAY and PLAY_START, and the ends of commands
that wait (R60, R64, R84, R111, R217, R259, R260, R271, R272, R281 to R290, R294, R295, R303, R335, R336, R356, R360, R361, R385, R493). -/

namespace Sys2Proof.Machine

/-! ### The state of the device (R17, R27, R60, R64 to R66, R84, R85, R111, R112, R303, R493, R507) -/

/-- The device state that refuses every transmit command, if any. -/
def txRefusal (s : State) : Option Nat :=
  if s.pwr.leaving || pwrState s != 4 || !domainOn s 9 || !domainOn s 10 then some (offCode s)
  else if !((List.range 4).all fun n => committed s n && everMatched s n) then some 0x10
  else if s.crc.mute then some 0x11
  else if !cidxOk s || isSet s F.MSY_STATUS_TXMUTE then some 0x20
  else if jirConflict s then some 0x40
  else if !rootSet s then some 0x2A
  else none

/-- The fault that ends every command that needs the line, if any. -/
def lineFault (s : State) : Option Nat :=
  if s.rel.hvLost then some Det.barrier
  else if s.pwr.watchdog then some Det.watchdog
  else if inSafe s 14 then some Det.parity
  else none

/-- A transmit command goes on only where the device can transmit. -/
def onLineCmd (s : State) (c : Cmd) (f : State → State) : State :=
  match lineFault s with
  | some d => complete s c St.fault d 0
  | none => match txRefusal s with
    | some d => wrongState s c d
    | none => f s

/-! ### Deadlines (R248, R253, R260) -/

/-- The deadline that acts: DEADLINE, or with NODL the cycle index at fetch plus MAC_DL_DEF (0 acts as 1). -/
def deadlineOf (s : State) (c : Cmd) : Nat :=
  if D.nodl c then (c.fetchCidx + max 1 (rdN s R.MAC_DL_DEF)) % 2 ^ 32 else D.deadline c

/-- The first slot whose plan is not committed (R248). -/
def openSlot (s : State) : Nat :=
  let next := (slotNow s + 1) % slotCount s
  if s.sor.committed = some next ∨ cidxNow s % slotC s ≠ 0 then slotNow s + 2 else slotNow s + 1

/-- The first event of a session from a slot on. -/
def firstEvent (s : State) (x : Session) (slot : Nat) : Nat :=
  if x.kind then slot else slot + (2 ^ x.ivl - slotSub s slot x.anchor % 2 ^ x.ivl) % 2 ^ x.ivl

/-- The command begins to wait for the line. -/
def waitLine (s : State) (c : Cmd) (f : Cmd → Cmd) : State :=
  updCmd s c.uid fun d => f { d with st := .waiting, deadline := deadlineOf s c }

/-! ### Budget at fetch (R271, R272) -/

/-- The copies of a transmission at one of the session's events, as they would be charged. -/
def eventCopies (s : State) (x : Session) (slot len : Nat) (reply : Bool) : List (Chan × Nat × Nat) :=
  (planFor s slot x (chansAt s x slot) 0 (frameLen s x.mode len) reply).copies.map fun c => (c.ch, c.t0, c.t1)

/-- At the event of a slot the transmission's tones are allowed, its phases permitted and its own charge within the allowances. -/
def admissibleAt (s : State) (x : Session) (slot len : Nat) (reply : Bool) : Bool :=
  let l := eventCopies s x slot len reply
  tonesAllowed s (l.flatMap (fun c => pairTones s c.1.pair) ++ (if x.kind then [x.wakeTone] else [])) &&
    !l.any (fun c => forbidden s c.1.ph) && !neverAdmits s l

/-- Some event of the session from a slot on and before the deadline admits the transmission. -/
def someEvent (s : State) (x : Session) (deadline len : Nat) (reply : Bool) : Nat → Nat → Bool
  | 0, _ => false
  | n + 1, slot => ahead deadline (slotCycle s slot) &&
      (admissibleAt s x slot len reply || someEvent s x deadline len reply n (slot + (if x.kind then 1 else 2 ^ x.ivl)))

/-- The transmission can never be admitted: no event before the deadline admits it (R260, R271, R272; log entry 42). -/
def neverSent (s : State) (x : Session) (slot deadline len : Nat) (reply : Bool) : Bool :=
  (x.map.all fun c => forbidden s c.ph || !tonesAllowed s (pairTones s c.pair)) ||
    !someEvent s x deadline len reply (cycSub deadline (cidxNow s) / slotC s + 1) slot

/-! ### SEND and POLL (R281 to R290, R294, R295, R356, R360, R385) -/

/-- The relays that a host's route extension names. -/
def hostRelays (d : List Byte) : List Nat := (List.range (leAt d 0 1 % 8)).map fun i => beNat (slice d (1 + 3 * i) 3)

/-- The host's route extension of a payload: its length, and whether it meets R281 and R283 (R294). -/
def hostExt (s : State) (node : Nat) (d : List Byte) : Nat × Bool :=
  let ctl := leAt d 0 1
  let n := ctl % 8
  let rel := hostRelays d
  let lim := match dirFind s node with | some r => hopLimit s r | none => hMax s
  (1 + 3 * n, ctl == n && Nat.ble (1 + 3 * n) d.length && relaysOk s node lim rel)

/-- The refusals of a command that has found the session that carries it. -/
def admitX (s : State) (c : Cmd) (x : Session) (r : Req) (poll : Bool) : State :=
  let len := r.len s r.dst
  let slot := firstEvent s x (openSlot s)
  let dl := deadlineOf s c
  if 508 < len then wrongState s c 0x28
  else match (if r.enc then keyBar s (nodeRef r.dst) Use.payload else none).or (if x.kind then none else keyBar s x.hopKey Use.hop) with
    | some e => complete (dropFailed (if x.kind then s else dropFailed s x.hopKey) (nodeRef r.dst)) c e.1 e.2 0
    | none =>
      if !ahead dl (cidxNow s) || !ahead dl (slotCycle s slot) then complete s c St.reservation 0 0
      else if neverSent s x slot dl len poll then complete s c St.budget 0 0
      else
        let s := waitLine s c fun d => { d with payload := r.plain, label := r.label, enc := r.enc, ext := r.ext }
        match quietOf s x.group (cidxNow s) with
        | some _ =>
          let (e, s) := estimate s x slot
          deferCmd (updCmd s c.uid fun d => { d with cause := .quiet }) ((findCmd s c.uid).getD c) e
        | none => s

/-- A SEND or POLL starts. -/
def sendCmd (s : State) (c : Cmd) (buf : List Byte) (poll : Bool) : State :=
  let node := D.res c
  let label := D.at c 24 1
  let enc := bit (D.at c 25 1) 0
  let rte := bit (D.at c 25 1) 1
  let d := slice buf 0 (D.len c)
  if node = 0 ∨ 0x3FFFF ≤ node then malformed s c 4
  else if ownerOf s node ≠ c.fn then notOwned s c
  else if Lbl.reserved label || label == Lbl.filler then malformed s c 24
  else if (!enc && c.fn != 0) || (rte && !s.mesh.method) || (!rte && s.mesh.method && (sess s node).isNone) then malformed s c 25
  else if poll && (List.range 8).all (fun q => (ring s c.fn (32 + q)).st != .enabled) then wrongState s c 0x30
  else onLineCmd s c fun s =>
    let r : Req := { dst := node, label := label, plain := d, enc := enc }
    if (dirFind s node).any fun e => e.dev != jirPos s then wrongState s c 0x29
    else if rte then
      let (n, ok) := hostExt s node d
      if !ok then malformed s c 0xFF
      else if !relaysOwned s c.fn (hostRelays d) then notOwned s c
      else if !isSet s F.VET_CTRL_EN then noRoute s c
      else match sess s (beNat (slice d 1 3)) with
      | some x => admitX s c x { r with ext := d.take n, plain := d.drop n } poll
      | none => malformed s c 0xFF
    else match sess s node with
      | some x =>
        if x.state = 1 then complete s c St.nodeLost 0 0
        else if x.state = 2 then wrongState s c 0x25
        else admitX s c x r poll
      | none =>
        if (dirFind s node).isNone then wrongState s c 0x25
        else match (if isSet s F.VET_CTRL_EN then routeOf s node else none) with
          | none => noRoute s c
          | some rel => match (if active s (rel.headD 0) then sess s (rel.headD 0) else none) with
            | none => noRoute s c
            | some x =>
              -- the route is taken anew at each commit until the first attempt, so the extension is not kept
              let t := admitX s c x { r with ext := extOf rel } poll
              updCmd t c.uid fun e => { e with ext := [] }

/-- SEND. -/
def execSend (uid : Nat) (buf : List Byte) (s : State) : Answer := done (withCmd s uid 0x10 fun s c => sendCmd s c buf false)

/-- POLL. -/
def execPoll (uid : Nat) (buf : List Byte) (s : State) : Answer := done (withCmd s uid 0x11 fun s c => sendCmd s c buf true)

/-! ### FLOOD and RELAY (R291, R294, R360, R361) -/

/-- A FLOOD or RELAY whose fields are good begins to wait: refused at once when its deadline leaves no slot or its frame can never be
admitted. -/
def floodCmd (s : State) (c : Cmd) (label : Nat) (enc : Bool) (d : List Byte) : State :=
  onLineCmd s c fun s =>
    let slot := openSlot s
    let dl := deadlineOf s c
    let ps := (List.range 3).filter fun p => bit (getF s F.MAC_BCN_CFG_PH) p
    let pair := getF s F.MAC_BCN_CFG_PAIR
    let ns := (frameLen s (getF s F.MAC_BCN_CFG_MODE) d.length + 1) * symbolOf (bcnM s)
    let l : List (Chan × Nat × Nat) := ps.map fun p => (⟨pair, p⟩, slotTime s slot 0, slotTime s slot ns)
    if !ahead dl (cidxNow s) || !ahead dl (slotCycle s slot) then complete s c St.reservation 0 0
    else if ps = [] || !tonesAllowed s (pairTones s pair) || ps.all (forbidden s) || neverAdmits s l then complete s c St.budget 0 0
    else waitLine s c fun e => { e with payload := d, label := label, enc := enc }

/-- FLOOD. -/
def execFlood (uid : Nat) (buf : List Byte) (s : State) : Answer :=
  done (withCmd s uid 0x12 fun s c =>
    let label := D.at c 24 1
    if c.fn ≠ 0 then notOwned s c
    else if D.res c ≠ 0x3FFFF then malformed s c 4
    else if Lbl.reserved label || label == Lbl.filler then malformed s c 24
    else floodCmd s c label false (slice buf 0 (D.len c)))

/-- RELAY. -/
def execRelay (uid : Nat) (buf : List Byte) (s : State) : Answer :=
  done (withCmd s uid 0x13 fun s c =>
    if c.fn ≠ 0 then notOwned s c
    else if !s.mesh.method then wrongState s c 0x32
    else floodCmd s c (D.at c 24 1) (bit (D.at c 25 1) 6) (slice buf 0 (D.len c)))

/-! ### PLAY_START (R306, R333, R335, R336, R385) -/

/-- PLAY_START: every entry is checked; the player waits for its cycle, and onto a transmit output for its slot. -/
def execPlayStart (uid : Nat) (s : State) : Answer :=
  done (withCmd s uid 0x45 fun s c =>
    let p := D.res c
    let base := D.at c 24 4
    let r := checkList s (patShare s 0) p base 65536 0 0 false
    if c.fn ≠ 0 then notOwned s c
    else if p ≥ 7 then malformed s c 4
    else if p < 3 ∧ D.at c 28 4 ≠ 0 then malformed s c 28
    else if getF s F.YAR_REGION_PAT == 0 then wrongState s c 0x2C
    else if r = 1 then malformed s c 0xFF
    else if r = 2 then notOwned s c
    else if r = 3 then
      let s := match (List.range 65536).find? fun k => patBad s (base + k) with
        | some k => lastingPage s (pageOf s (patBase + base + k))
        | none => s
      complete (raise (bump s R.YAR_UNCORR_CNT) F.YAR_EVT_UNCORR) c St.fault Det.dram 0
    else if (player s p).st ≠ .idle then wrongState s c 0x2D
    else if !isSet s F.YAR_CTRL_PLAY_EN || !isSet s F.YAR_STATUS_REGION_OK || inSafe s 10 then wrongState s c 0x2C
    else
      let go := fun (s : State) => setPlayer s p { st := .waiting, fn := 0, uid := uid, list := base, startAt := if p < 3 then none else some (D.at c 28 4) }
      if p ≥ 3 then engineCmd (go s) c
      else onLineCmd s c fun s =>
        let t0 := slotTime s (openSlot s) 0
        let span := [(p, t0, t0 + playNs s base)]
        let dl := deadlineOf s c
        if getF s (F.TXS_REG_MAX_LVL p) = 0 ∨ getF s (F.TXS_PAT_PEAK_PEAK p) = 0 ∨ !anyBand s then complete s c St.budget 0 0
        else if !ahead dl (cidxNow s) || !ahead dl (slotCycle s (openSlot s)) then complete s c St.reservation 0 0
        else if (List.range 8).any fun n => isSet s (F.MAC_BAND_RANGE_EN n) && !bandAdmits { s with bands := {} } n false span
          then complete s c St.budget 0 0
        else waitLine (go s) c id)

/-! ### Commands that end without being served -/

/-- DEADLINE_EXPIRY (R260): a command that has made no attempt and waits ends by the cause recorded last. -/
def execDeadlineExpiry (uid : Nat) (s : State) : Answer :=
  match findCmd s uid with
  | none => done s
  | some c =>
    if c.st ≠ .waiting ∨ c.attempts ≠ 0 ∨ ahead c.deadline (cidxNow s) then done s
    else done (complete (freePlayer s uid) c (if c.cause = .budget then St.budget else St.reservation) 0 0)

/-- An attempt of a command has ended without reply, or was cut off before its end: it waits for a repeat, or the exchange
ends; while the device leaves Active, or SUPV of the node is raised, no attempt is repeated (R64, R259, R264). -/
def endAttempt (s : State) (c : Cmd) (retry : Nat) : State :=
  let lost := c.route = [] && (sess s (D.res c)).any fun x => x.supv
  if c.attempts < 1 + retry ∧ pwrState s = 4 ∧ !s.pwr.leaving ∧ !lost then updCmd s c.uid fun d => { d with st := .waiting }
  else if D.op c = 0x10 ∧ c.sent ≠ 0 then endExchange s c St.done 0 (D.len c)
  else endExchange s c St.noResponse c.attempts 0

/-- RETRY of a command: that of the session that carries it; none left: no repeat. -/
def retryOf (s : State) (node : Nat) : Nat := ((sess s node).map fun x => x.retry).getD 0

/-- ROUTED_REPLY_TIMEOUT (R286, R259): HOP_WAIT × h cycles after the downlink no authenticated reply has come. -/
def execRoutedReplyTimeout (uid : Nat) (s : State) : Answer :=
  match findCmd s uid, (cmdJobs s uid).find? fun j => j.ended && (j.deadline.any fun d => !ahead d (cidxNow s)) with
  | some c, some j =>
    if c.st ≠ .onLine then done s else
    let s := updJob s j.id fun j => { j with deadline := none }
    done (freeClosed (endAttempt s c (retryOf s (carrier c))) (carrier c))
  | _, _ => done s

end Sys2Proof.Machine
end

