-- ==== Sys2Proof/Machine/Transmit.lean ====
section
/-! DEFINITION. Committed transmissions on the line: their start, carrier sensing, their end, a void cycle (R182, R183, R195 to R199,
R209, R211, R217, R227, R248, R249, R259, R261, R272, R273, R286, R336, R364). -/

namespace Sys2Proof.Machine

/-! ### Withdrawing what has not begun (R217, R249, R272, R273) -/

/-- A command whose committed transmission does not take place waits again, or is refused: with 0x22 where TXF or undervoltage mutes the phase, with
a key's code where its frame cannot be encrypted. -/
def backToWait (s : State) (uid : Nat) (code : Option (Nat × Nat)) : State :=
  match findCmd s uid with
  | none => s
  | some c => match code with
    | some e => refuseCmd c (dropFailed s (nodeRef (D.res c))) e.1 e.2
    | none => updCmd s uid fun d => { d with st := .waiting }

/-- A job is withdrawn before it begins. -/
def dropJob (s : State) (j : Job) (code : Option (Nat × Nat)) : State :=
  let s := withdrawJob s j
  match j.kind with
  | .command uid => backToWait s uid code
  | .flood (some uid) => backToWait s uid code
  | .flood none => updMesh s fun m => { m with floods := m.floods ++ [(j.h, j.body)] }
  | .player uid _ => if code.isSome then backToWait (freePlayer s uid) uid code else backToWait s uid none
  | _ => s

/-- Change the copies of a job in place: `f` on those that satisfy `p`. -/
def mapCopies (s : State) (id : Nat) (p : Copy → Bool) (f : Copy → Copy) : State :=
  updJob s id fun j => { j with copies := j.copies.map fun c => if p c then f c else c }

/-- Numbers of the copies of a job that satisfy `p`. -/
def copyIdx (j : Job) (p : Copy → Bool) : List Nat :=
  ((List.range j.copies.length).zip j.copies).filterMap fun (i, c) => if p c then some i else none

/-- Copies are left out before they start: silent, their charge refunded, that of a continuous channel with its period (R217, R267, R272). -/
def silence (s : State) (j : Job) (p : Copy → Bool) : State :=
  let s := (copyIdx j p).foldl (fun s i => refund s j.id i) (mapCopies s j.id p fun c => { c with st := .silent })
  let gone := fun (c : ContSpan) => c.job == j.id && j.copies.any fun k => p k && k.ch.ph == c.ph
  { s with sor := { s.sor with cont := s.sor.cont.filter fun c => !gone c } }

/-- The planned copies that start first. -/
def nextCopies (j : Job) : Copy → Bool :=
  let t := (j.copies.filter fun c => c.st == .planned).foldl (fun m c => if m = 0 then c.t0 + 1 else min m (c.t0 + 1)) 0
  fun c => c.st == .planned && c.t0 + 1 == t

/-! ### The end of a downlink (R259, R261, R364) -/

/-- The transmit timestamp of a copy: the timebase at which the last symbol of its sync word ended (R261). -/
def txStamp (s : State) (c : Copy) : Nat := tbAt s (match c.sig with
  | some g => g.sync
  | none => c.t1)

/-- The copy whose sync word dates an attempt: one of the frame itself, where it was reached. -/
def dated (j : Job) : Option Copy :=
  let sent := fun (c : Copy) => c.st == .done || c.st == .cut
  (j.copies.find? fun c => sent c && !c.pre).or (j.copies.find? sent)

/-- Hops of a routed job's reply wait, in cycles (R286). -/
def hopWait (s : State) (h : Nat) : Nat := max 1 (getF s F.VET_ROUTE_CFG_HOP_WAIT) * h

def endJob (s : State) (id : Nat) : State := updJob s id fun j => { j with ended := true }

/-- Lanes that still listen for a job's reply. -/
def replyLanes (s : State) (id : Nat) : Bool := s.lanes.any fun e => e.2.use.any fun u => u.1 == id

/-- Frames of a reply that are still in the decoder, the cipher engine or behind a high-water commit. -/
def replyFrames (s : State) (id : Nat) : Bool :=
  (s.frames.any fun e => e.2.job == some id) || s.recs.any fun r => r.use.any fun u => u.1 == id

/-- The attempt of a direct exchange has ended without reply (R259). -/
def noReply (s : State) (j : Job) : State :=
  let s := endJob s j.id
  match j.kind with
  | .command uid => match findCmd s uid with
    | some c => if c.st = .onLine then endAttempt s c (retryOf s j.node) else s
    | none => s
  | _ => s

/-- When no lane and no frame of the reply is left, the attempt has ended (R258, R259); a routed reply is waited for by time
(R286). -/
def checkReply (s : State) (id : Nat) : State :=
  match findJob s id with
  | none => s
  | some j =>
    if j.ended || j.live || !j.begun || replyLanes s id || replyFrames s id then s
    else freeClosed (if j.deadline.isSome then endJob s id else noReply s j) j.node

/-- The command of a downlink that has been sent to its end or cut off by a void cycle. -/
def downlinkDone (s : State) (j : Job) (c : Cmd) (ts : Nat) : State :=
  let s := updCmd s c.uid fun d => { d with attempts := d.attempts + 1, sent := d.sent + b2n (!j.cutVoid), txTs := some ts }
  let c := (findCmd s c.uid).getD c
  if j.cutVoid then endAttempt (endJob s j.id) c (retryOf s j.node)
  else if !j.reply then endExchange (endJob s j.id) c St.done 0 (D.len c)
  else if j.hops ≠ 0 then
    updJob s j.id fun j => { j with deadline := some ((cidxNow s + hopWait s j.hops) % 2 ^ 32) }
  else s

/-- A FLOOD or RELAY has been sent to its end, or cut off by a void cycle: then it is repeated, without a limit, since no RETRY applies to it
(R259, R356; log entry 103). -/
def floodDone (s : State) (j : Job) (uid ts : Nat) : State :=
  let s := endJob (updCmd s uid fun d => { d with attempts := d.attempts + 1, sent := d.sent + b2n (!j.cutVoid), txTs := some ts }) j.id
  match findCmd s uid with
  | none => s
  | some c =>
    if !j.cutVoid then completeAt s c St.done 0 (D.len c) ts
    else if pwrState s = 4 ∧ !s.pwr.leaving then updCmd s uid fun d => { d with st := .waiting }
    else wrongState s c (offCode s)

/-- Every copy of a job has ended. -/
def endDownlink (s : State) (id : Nat) : State :=
  match findJob s id with
  | none => s
  | some j =>
    if j.live || j.ended then s else
    let ts := ((dated j).map (txStamp s)).getD (tbNow s)
    let s := updJob s id fun j => { j with ts := ts }
    let s := match j.kind with
      | .command uid => match findCmd s uid with
        | some c => downlinkDone s j c ts
        | none => if j.reply then s else endJob s id
      | .flood (some uid) => floodDone s j uid ts
      | .flood none | .beacon | .player _ _ | .filler => endJob s id
      | _ => if j.cutVoid then endJob s id else s
    let s := if j.reply then checkReply s id else s
    freeClosed s j.node

/-! ### FRAME_TRANSMIT_START (R182, R183, R197, R209, R217, R405 to R409) -/

/-- The key of a counter: the broadcast key's is 0 (R448). -/
def ctrKey (s : State) (k : Nat) : Option Key := if k = 0 then (bcastRef s).bind (key s) else key s (nodeRef k)

/-- The bytes of the payload field that a job's own frame will have. -/
def Job.len (s : State) (j : Job) : Nat :=
  match j.making, j.kind with
  | .beacon, _ => j.body.length + ((ctrKey s 0).map fun k => tagBytes k.tlen).getD 0
  | .ctl, _ => ((sess s j.node).map fun x => (ctlReq x j.say).len s j.node).getD 0
  | .command, .command uid => ((findCmd s uid).map fun c => cmdLen s c j.relays).getD 0
  | _, _ => j.body.length

/-- Why a job's frame may not be made now: none where it may; a refusal, where a key or its counters do not allow it (R405, R406, R414); or only
a wait, for the mark that must cover its counters (R409), for the cipher engine, or where its length is no longer the planned one. -/
def makeBar (s : State) (j : Job) : Option (Option (Nat × Nat)) :=
  let l := jobKeys s j
  let count := fun (k : Nat) => l.countP fun e => e.1 == k
  let crypt := (l.filter fun e => e.2).map Prod.fst
  if l.any fun e => Nat.blt 0xFFFF_0000 (txCtr s e.1 + count e.1) then some (some (St.state, 0x3A)) else
  match crypt.findSome? fun k => if k = 0 then none else keyBar s (nodeRef k) Use.payload with
  | some e => some (some e)
  | none =>
    if (crypt != [] && !engineOn s) || crypt.any (fun k => (ctrKey s k).isNone || markPending s k || !markCovers s k (txCtr s k + count k - 1)) ||
      (j.making != .none && j.copies.any fun c => !c.pre && c.len != frameLen s j.mode (j.len s))
    then some none else none

/-- A beacon's frame, numbered and encrypted under the broadcast key; its TTL and NMODE are not stated: free (R267, R405). -/
def beaconFrame (s : State) (pl : List Byte) : Nat × List Byte × State :=
  match ctrKey s 0 with
  | none => (0, pl, s)
  | some k =>
    let (ctr, t) := takeCtr (touchKey s (getF s F.SEC_BCAST_SLOT)) 0
    let h := mkHdr 0x3FFFF (rootAddr s) Lbl.beacon (pl.length + tagBytes k.tlen) 0 (freeNat s 4) ctr true false false (freeNat s 2)
    (h, ccmSeal k.material (lineNonce false true (rootAddr s) 0x3FFFF ctr) (lineAd h []) pl (tagBytes k.tlen), usedFree t)

/-- A MACCTL frame to a session. -/
def ctlFrame (s : State) (x : Session) (say : List (List Nat)) : Nat × List Byte × State :=
  let (h, body, _, s) := buildFrame s (ctlReq x say) (nmodeOf x)
  (h, body, s)

/-- The frames of a job are made as it begins: the MACCTL frame ahead first, then its own (R192, R255, R406). A rescue poll announces the mode
it is sent in. -/
def makeFrames (s : State) (j : Job) : State :=
  match j.making, j.kind, sess s j.node with
  | .beacon, _, _ => let (h, body, s) := beaconFrame s j.body; updJob s j.id fun j => { j with h := h, body := body }
  | .ctl, k, some x =>
    let (h, body, s) := ctlFrame s (match k with | .rescue _ => { x with mode := j.mode } | _ => x) j.say
    updJob s j.id fun j => { j with h := h, body := body }
  | .command, .command uid, some x =>
    let (pre, s) := if j.say = [] then (none, s) else let (h, body, s) := ctlFrame s x j.say; (some (h, body), s)
    match findCmd s uid with
    | none => s
    | some c => let (h, body, s) := cmdFrame s c x j.relays; updJob s j.id fun j => { j with h := h, body := body, pre := pre }
  | _, _, _ => s

/-- Frames to a node that carry the announced mode go on the line: each is counted (R192). -/
def countAnnounce (s : State) (j : Job) : State :=
  updSess s j.node fun x => { x with pend := x.pend.map fun (m, n) =>
    (m, n + b2n (Hdr.nmode j.h == m) + b2n (j.pre.any fun e => Hdr.nmode e.1 == m)) }

/-- The keyed bits of a wake preamble: REP times 16 ones and the code, most significant bit first, then GAP silent bits (R209). -/
def wakeKeyed (s : State) (code : Nat) : List Bool :=
  (List.replicate (max 1 (getF s F.TXS_WAKE_CFG_REP)) (List.replicate 16 true ++ bitsMsb 16 code)).flatten ++
    List.replicate (getF s F.TXS_WAKE_CFG_GAP) false

/-- What a frame joins on a continuous channel: the filler or frame that ends where its copy begins (R198, R227). -/
def joins (s : State) (c : Copy) (j : Job) (k : Copy) : Bool :=
  contChan s c.ch && k.ch == c.ch && (k.st == .onAir || k.st == .done) && decide (symbolsFrom k j.m c.c0 c.w1 = k.len)

def joined (s : State) (c : Copy) : Option Signal := s.jobs.findSome? fun j => (j.copies.find? (joins s c j)).bind fun k => k.sig

/-- What the channel of a copy sends (R196 to R198, R209, R227): each symbol from where the phase word reaches its count, the wake preamble
ahead of the first copy. -/
def copySignal (s : State) (j : Job) (c : Copy) : Signal :=
  let (h, body) := if c.pre then j.pre.getD (0, []) else (j.h, j.body)
  let bits := frameSymbols s j.mode h body
  let starts := (List.range (bits.length + 1)).map fun k => phaseTime s c.c0 ((c.w1 : Rat) + k * symbolOf j.m)
  let e := activeTone s c.ch.pair
  let g : Signal := {
    t0 := c.t0, starts := starts, cyc := cycleNs s, m := mOf j.m, bits := bits, mark := Tone.mark e, space := Tone.space e,
    wake := if (j.copies.headD c).w1 = c.w1 then j.wake.map fun (tone, code) => (tone, wakeKeyed s code) else none, syncLen := preLen s + 32 }
  match joined s c with
  | some f => { g with t0 := g.e0.floor.toNat, rise := false, phase := f.acc (dacFrom g.e0) }
  | none => { g with phase := startPhase s c.ch.ph g }

/-- What a frame joins ends where it begins, with no ramp (R198, R227). -/
def endJoined (s : State) (c : Copy) : State :=
  let stop := fun (k : Copy) => { k with st := .done, sig := k.sig.map fun g => { g with fall := false } }
  let upd := fun (j : Job) => { j with copies := j.copies.map fun k => if joins s c j k then stop k else k }
  { s with jobs := s.jobs.map fun j => if j.kind = .filler then { upd j with ended := j.ended || !(upd j).live } else upd j }

/-- One copy goes on the line. -/
def sendCopy (s : State) (j : Job) (i : Nat) (c : Copy) : State :=
  let p := c.ch.ph
  let s := moveAmp s p
  let g := copySignal s j c
  let amp := (txPh s p).amp
  let s := endJoined s c
  let s := updJob s j.id fun j => { j with copies := j.copies.set i { c with st := .onAir, sig := some g } }
  let s := match g.wake with
    | some (tone, keyed) => post s (.wake j.id p tone amp keyed)
    | none => s
  post s (.line j.id i p c.ch.pair amp g.phase g.m j.ofs g.bits)

/-- The copies due begin; a copy on a muted phase stays silent. -/
def startCopies (s : State) (j : Job) : State :=
  let due := nextCopies j
  let s := silence s j fun c => due c && phaseMuted s c.ch.ph
  match findJob s j.id with
  | none => s
  | some j =>
    let l := ((List.range j.copies.length).zip j.copies).filter fun e => due e.2
    let s := l.foldl (fun s e => sendCopy s j e.1 e.2) s
    endDownlink ([0, 1, 2].foldl noteTx s) j.id

/-- Why a transmission that has not begun may not: none where it may; a refusal with 0x22, or only a wait. A robust frame needs half of its
copies; a beacon or a flood of the device's own goes out where it can (R217). -/
def startBar (s : State) (j : Job) : Option (Option (Nat × Nat)) :=
  let l := j.copies.filter fun c => c.st == .planned || c.st == .silent
  let muted := l.filter fun c => c.st == .silent || phaseMuted s c.ch.ph
  let system := match j.kind with
    | .beacon => true
    | .flood none => true
    | _ => false
  let robust := match j.kind with
    | .flood _ => false
    | _ => Nat.blt 1 l.length
  if s.mains.voidNow then some none
  else if muted = [] || (system && muted.length < l.length) then makeBar s j
  else if robust && Nat.ble l.length (2 * (l.length - muted.length)) && !system then makeBar s j
  else if muted.any fun c => c.st == .silent || txfMuted s c.ch.ph then some (some (St.state, 0x22))
  else some none

/-! ### Carrier sensing (R273) -/

/-- The device transmits in a band on a phase. -/
def sendingIn (s : State) (n p : Nat) : Bool :=
  s.jobs.any fun j => j.copies.any fun c => c.st == .onAir && c.ch.ph == p &&
    (match j.kind with
      | .player _ _ => isSet s (F.MAC_BAND_RANGE_EN n)
      | _ => (chanBands s c.ch).contains n)

/-- The bands of a copy in which carrier sensing must find the phase quiet. -/
def sensedBands (s : State) (j : Job) (c : Copy) : List Nat :=
  let bands := match j.kind with
    | .player _ _ => (List.range 8).filter fun n => isSet s (F.MAC_BAND_RANGE_EN n)
    | _ => chanBands s c.ch
  bands.filter fun n => isSet s (F.MAC_BAND_CS_EN n) && !sendingIn s n c.ch.ph

/-- The copies that come next and still need their check. -/
def unsensed (s : State) (j : Job) : Bool :=
  let due := nextCopies j
  ((List.range j.copies.length).zip j.copies).any fun (i, c) => due c && !j.sensed.contains i && !phaseMuted s c.ch.ph && sensedBands s j c != []

/-- A frame sent again counts against the session of the node it goes to (R235). -/
def countRetx (s : State) (j : Job) : State := if Hdr.rtx j.h then pmSess s (Hdr.dst j.h) Pm.retx 1 else s

/-- FRAME_TRANSMIT_START: the copies of a committed frame that come next begin on their channels, once carrier sensing has let them. -/
def execFrameTransmitStart (job : Nat) (s : State) : Answer :=
  match findJob s job with
  | none => done s
  | some j =>
    let player := match j.kind with
      | .player _ _ => true
      | _ => false
    if j.ended || player || !(j.copies.any fun c => c.st == .planned) || slotAhead s j.slot (slotNow s) || unsensed s j then done s
    else if j.begun then done (startCopies s j)
    else match startBar s j with
      | some code => done (freeClosed (dropJob s j code) j.node)
      | none =>
        let s := makeFrames s j
        match findJob s job with
        | some j => done (startCopies (countRetx (told (countAnnounce s j) j) j) j)
        | none => done s

/-! ### PLAYER_START_CYCLE (R206, R336) -/

/-- PLAYER_START_CYCLE: an injection player's start cycle, or the first cycle boundary of a transmit player's slot, which plays only
where Sorrel has committed it and its phase is not muted. -/
def execPlayerStartCycle (p : Fin 7) (s : State) : Answer :=
  let x := player s p.val
  if x.st ≠ .waiting ∨ x.align then done s
  else if p.val < 3 then
    match s.jobs.find? fun j => j.kind == .player x.uid p.val && !j.ended with
    | some j =>
      if slotAhead s j.slot (slotNow s) || unsensed s j then done s else
      match startBar s j with
      | some code => done (dropJob s j code)
      | none => done (startList (noteTx (mapCopies s j.id (fun _ => true) fun c => { c with st := .onAir }) p.val) p.val |> patReport)
    | none => done s
  else if ahead (x.startAt.getD 0) (cidxNow s) then done s
  else done (patReport (startList s p.val))

/-! ### CARRIER_SENSE_CHECK (R273) -/

/-- A copy finds one of its bands busy: the meter of its phase has not stayed below LVL for the whole of the last T ms (0 acts as 1). -/
def copyBusy (s : State) (j : Job) (c : Copy) : Bool :=
  (sensedBands s j c).any fun n =>
    let l := (rxIn s c.ch.ph).csLevel.take (max 1 (getF s (F.MAC_BAND_CS_T n)))
    Nat.blt l.length (max 1 (getF s (F.MAC_BAND_CS_T n))) || l.any fun r => Nat.ble (getF s (F.MAC_BAND_CS_LVL n)) (r.getD n 0)

/-- A job goes out on each phase by itself: a beacon, a flood of the device's own. -/
def Job.each (j : Job) : Bool := j.kind == .beacon || j.kind == .flood none

/-- CARRIER_SENSE_CHECK of one copy that comes next (R273). A busy result leaves it silent where a copy has gone out or each phase is a transmission
of its own; otherwise it withdraws the transmission, whose command is held back. -/
def execCarrierSenseCheck (job copy : Nat) (s : State) : Answer :=
  match findJob s job, (findJob s job).bind fun j => j.copies[copy]? with
  | some j, some c =>
    if j.ended || !nextCopies j c || j.sensed.contains copy then done s
    else if !copyBusy s j c then done (updJob s job fun j => { j with sensed := copy :: j.sensed })
    else
      let s := bump s R.MAC_CS_BUSY_CNT
      if j.begun then done (endDownlink (silence s j fun d => d == c) job)
      else if j.each && j.copies.any (fun d => d.st == .planned && d != c) then done (silence s j fun d => d == c)
      else
        let s := dropJob s j none
        match j.kind with
        | .command uid | .flood (some uid) | .player uid _ =>
          match findCmd s uid with
          | none => done s
          | some c =>
            let (e, s) := match sess s j.node with
              | some x => estimate s x (j.slot + 1)
              | none => (slotCycle s (j.slot + 1), s)
            done (holdBack s c .budget e)
        | _ => done s
  | _, _ => done s

/-! ### FRAME_TRANSMIT_END (R227, R259) -/

/-- The copies on the air that end first. -/
def endingCopies (j : Job) : Copy → Bool :=
  let t := (j.copies.filter fun c => c.st == .onAir).foldl (fun m c => if m = 0 then c.t1 + 1 else min m (c.t1 + 1)) 0
  fun c => c.st == .onAir && c.t1 + 1 == t

/-- The frames committed on a channel and not begun. -/
def plannedOn (s : State) (c : Chan) : List Copy :=
  (s.jobs.filter fun j => !j.ended).flatMap fun j => j.copies.filter fun k => k.ch == c && k.st == .planned

/-- Symbols from the end of a copy's frame to the next frame on its continuous channel: one already committed, or the next beacon (R227,
R267). -/
def gapAfter (s : State) (m : Nat) (k : Copy) : Nat :=
  let per := 2 ^ min 8 (getF s F.MAC_BCN_CFG_PER_LOG2)
  let beacon := symbolsFrom k m (slotCycle s (slotNow s + (per - slotNow s % per))) (symbolOf (bcnM s))
  (((plannedOn s k.ch).map fun c => symbolsFrom k m c.c0 c.w1).foldl min beacon - k.len).toNat

/-- What follows copy `i` of a job on a continuous channel. The gap to the next frame is filled while the channel is in a period that has been
admitted; it is silent on a phase that is muted or forbidden, and after a beacon that was refused (R202, R227, R267). -/
def fillAfter (s : State) (j : Job) (i : Nat) (k : Copy) : State :=
  match k.sig with
  | none => s
  | some g =>
    let p := k.ch.ph
    let now := s.mains.elapsed
    if !contChan s k.ch || phaseMuted s p || forbidden s p || !contCovers s p now now || pairActive s p k.ch.pair then s else
    let r := gapFill s (gapAfter s j.m k)
    let bits := gapSymbols s r
    if bits = [] then s else
    let w1 : Int := k.w1 + k.len * symbolOf j.m
    let starts := (List.range (bits.length + 1)).map fun n => phaseTime s k.c0 ((w1 : Rat) + n * symbolOf j.m)
    let f : Signal := { g with
      t0 := g.e1.floor.toNat, starts := starts, bits := bits, wake := none, phase := g.acc (dacFrom g.e1), rise := false, fall := true, syncLen := 0 }
    let s := updJob s j.id fun j => { j with copies := j.copies.set i { k with st := .done, sig := some { g with fall := false } } }
    let s := post s (.filler p k.ch.pair r.1 r.2 bits)
    { s with nextJob := s.nextJob + 1, jobs := s.jobs ++ [{
        id := s.nextJob, kind := .filler, fn := 0, mode := fillMode s, m := j.m, slot := slotNow s, fill := r.1.map (frameLen s (fillMode s)),
        copies := [{ ch := k.ch, t0 := f.t0, t1 := f.e1.floor.toNat, c0 := k.c0, w0 := w1, w1 := w1, len := bits.length, st := .onAir, sig := some f }] }] }

/-- A filler on a phase that is muted softly ends with the filler frame or cell in progress (R111, R211). -/
def endMutedFiller (s : State) (j : Job) : State :=
  match j.kind, j.copies with
  | .filler, [c] =>
    match c.sig with
    | some g =>
      let stop := fillerStop s j g
      if j.ended || c.st != .onAir || !phaseMuted s c.ch.ph || Nat.ble g.bits.length stop then s else
      let f := { g with bits := g.bits.take stop, starts := g.starts.take (stop + 1), fall := true }
      updJob s j.id fun j => { j with copies := [{ c with t1 := (f.e1 + f.sym / 8).floor.toNat, len := stop, sig := some f }] }
    | none => s
  | _, _ => s

/-- A copy follows the phase word of the new cycle: a planned one as a whole, one on the air with the symbols that have not begun (R102, R197). -/
def retimeCopy (s : State) (m : Nat) (c : Copy) : Copy :=
  if 256 ≤ c.ch.pair then c else
  let at_ := fun (n : Rat) => phaseTime s c.c0 ((c.w1 : Rat) + n * symbolOf m)
  let t1 := (at_ (c.len + 1 / 8)).floor.toNat
  match c.st with
  | .planned => { c with t0 := (phaseTime s c.c0 c.w0).floor.toNat, t1 := t1 }
  | .onAir => { c with t1 := t1, sig := c.sig.map fun g => { g with
      starts := ((List.range g.starts.length).zip g.starts).map fun (n, t) => if t ≤ (s.mains.elapsed : Rat) then t else at_ n } }
  | _ => c

/-- At a cycle boundary every transmission that has not ended follows the phase word of the new cycle. -/
def retime (s : State) : State :=
  { s with jobs := s.jobs.map fun j => if j.ended then j else { j with copies := j.copies.map (retimeCopy s j.m) } }

/-- FRAME_TRANSMIT_END: the last symbol of a frame or copy has been sent. -/
def execFrameTransmitEnd (job : Nat) (s : State) : Answer :=
  match findJob s job with
  | none => done s
  | some j =>
    let player := match j.kind with
      | .player _ _ => true
      | _ => false
    let ending := endingCopies j
    let l := j.copies.filter ending
    if player || l = [] then done s else
    let s := (copyIdx j ending).foldl (fun s i => post s (.lineEnd j.id i false)) s
    let s := mapCopies s j.id ending fun c => { c with st := .done }
    let s := ((List.range j.copies.length).zip j.copies).foldl (fun s e => if ending e.2 then fillAfter s j e.1 e.2 else s) s
    done (endDownlink ([0, 1, 2].foldl noteTx s) j.id)

/-! ### A void cycle begins (R197, R249) -/

/-- Frames in progress are ramped down; what remains of them is not sent. -/
def truncate (s : State) (j : Job) : State :=
  let player := match j.kind with
    | .player _ _ => true
    | _ => false
  if j.ended || player || !j.begun || !j.live then s else
  let s := (copyIdx j fun c => c.st == .onAir).foldl (fun s i => post s (.lineEnd j.id i true)) s
  let s := silence s j fun c => c.st == .planned
  let s := mapCopies s j.id (fun c => c.st == .onAir) fun c =>
    { c with st := .cut, sig := c.sig.map fun g => { g with stop := some (s.mains.elapsed, true) } }
  let s := updJob s j.id fun j => { j with cutVoid := true }
  endDownlink ([0, 1, 2].foldl noteTx s) j.id

/-- What a void cycle does on the line: frames in progress end, and what was to begin in a slot whose first cycle it is is withdrawn
with its charge. -/
def voidCycle (s : State) : State :=
  let s := s.jobs.foldl truncate s
  if cidxNow s % slotC s ≠ 0 then s else
  let slot := slotNow s
  let s := (s.jobs.filter fun j => !j.ended && !j.begun && j.slot == slot).foldl (fun s j => freeClosed (dropJob s j none) j.node) s
  { s with sor := { s.sor with holds := s.sor.holds.filter fun h => !(h.kind == .contention && h.slots == [slot]) } }

end Sys2Proof.Machine
end

