-- ==== Sys2Proof/Machine/Framer.lean ====
section
/-! DEFINITION. The framer of a lane: the end of a symbol, sync words, the header's and the body's symbols, what is handed to the
decoder; and the settings of labels and lanes (R157, R160, R165, R166, R171, R179, R220 to R224, R229, R230, R236, R245). -/

namespace Sys2Proof.Machine

/-! ### Soft values (R179) -/

/-- Least W of a decision taken as data: an EMIN of 0 erases only W = 0. -/
def eMin (s : State) : Nat := max 1 (getF s F.COD_CTRL_EMIN)

/-- A lane decision as the framer and the decoder use it. -/
def softDec (s : State) (d : Decision) : Dec :=
  let lost := Nat.blt d.w (eMin s)
  { u := if lost then 0 else d.soft, erased := lost, k := d.k, cidx := d.cidx, ts := d.ts, hold := d.hold }

/-! ### Sync words (R171, R220 to R222) -/

/-- The lane is continuous (R220). -/
def Lane.cont (x : Lane) : Bool := x.own == 2 && bit x.cfg.toNat 0

/-- Modes whose sync words are searched; a mask of 0 acts as all (R245). -/
def Lane.syncModes (x : Lane) : List Nat :=
  let m := bits x.cfg.toNat 7 4
  (List.range 4).filter fun i => m == 0 || bit m i

/-- Disagreements of the last 32 decisions with a word; `loose`: decisions with u = 0 do not count (R221, R222). -/
def disagreeing (word : Nat) (hist : List Dec) (loose : Bool) : Nat :=
  ((bitsMsb 32 word).zip hist.reverse).countP fun (b, d) => if d.u = 0 then !loose else b != decide (d.u > 0)

/-- The mode whose word matches the last 32 decisions: fewest disagreements, then the more robust mode (R221). -/
def syncMatch (x : Lane) (tol : Nat) (loose : Bool) : Option Nat :=
  if x.hist.length < 32 || (loose && Nat.blt 16 (x.hist.countP fun d => d.u == 0)) then none else
  let l := (x.syncModes.map fun m => (disagreeing (syncWord m) x.hist loose, m)).filter fun e => Nat.ble e.1 tol
  (l.foldl (fun (b : Option (Nat × Nat)) e => match b with
    | some c => if e.1 ≤ c.1 then some e else b
    | none => some e) none).map Prod.snd

def tolH (s : State) : Nat := min 8 (getF s F.LFR_FRM_CFG_TOL_H)
def tolL (s : State) : Nat := min 8 (getF s F.LFR_FRM_CFG_TOL_L)
def idleMax (s : State) : Nat := getF s F.LFR_FRM_CFG_IDLE_MAX

/-- A reception begins at the last symbol of its sync word: time, symbol and OFS_EST are handed over (R223). -/
def newRx (x : Lane) (mode : Nat) (d : Dec) (expd : Bool) : RxFrame :=
  { mode := mode, ts := d.ts, cidx := d.cidx, k := d.k, hold := d.hold, ofs := x.ofsEst, expd := expd }

/-- Symbols of a header, and of a body of `len` bytes (R170). -/
def hdrLen (mode : Nat) : Nat := if mode = 0 then 96 else 204
def bodyLen (mode len : Nat) : Nat := if len = 0 then 0 else if mode = 0 then 8 * len + 32 else 16 * len + 76

/-- The longest body: no lane waits longer for a header that another copy may complete. -/
def bodyMax (mode : Nat) : Nat := bodyLen mode 508

/-! ### Groups of robust copies (R185) -/

/-- Receptions of a group: those of the job's lanes that run, and those with the decoder, in the same robust mode. -/
def inGroup (job mode : Nat) (u : Option (Nat × Nat)) (f : RxFrame) : Bool := f.mode == mode && u.any fun e => e.1 == job

/-- The group a reception belongs to: a robust mode on a lane of an exchange. -/
def groupOf (u : Option (Nat × Nat)) (f : RxFrame) : Option Nat := if f.mode < 2 then none else u.map Prod.fst

/-- Every reception of a group with its copy number and lane. -/
def groupRx (s : State) (job mode : Nat) : List (Nat × RxFrame) :=
  (s.lanes.filterMap fun e => match e.2.rx with
    | some f => if inGroup job mode e.2.use f then some ((e.2.use.map Prod.snd).getD 0, f) else none
    | none => none) ++
  s.recs.filterMap fun r => if inGroup job mode r.use r.rx then some ((r.use.map Prod.snd).getD 0, r.rx) else none

/-- The header that a group has already passed. -/
def groupHdr (s : State) (job mode : Nat) : Option Nat := (groupRx s job mode).findSome? fun e => e.2.h

/-! ### The end of a frame on its lane (R156, R220) -/

/-- The framer or a lock loss releases a lane: a static lane with AUTO_RS searches again, another is OFF. -/
def letGo (s : State) (l : Nat) : State :=
  let x := lane s l
  if x.own = 2 && x.autoRs then searchLane s l else offLane s l

/-- The last symbol of a frame, as far as it is received, has come: the frame goes to the decoder, a burst lane is released. `past`:
decisions since the frame's last symbol. -/
def frameEnd (s : State) (l past : Nat) : State :=
  if (lane s l).cont then
    let s := endReception s l
    setLane s l { lane s l with since := past, expect := 1 }
  else letGo s l

/-- A missed sync word, or a header that fails at an expected place, of a continuous lane (R220, R229). -/
def missFrame (s : State) (l : Nat) : State :=
  let x := lane s l
  if x.fst = .sync then
    let n := x.miss + 1
    if max 1 (getF s F.LFR_FRM_CFG_LOF_N) ≤ n
    then raiseDefect (setLane s l { x with fst := .hunt, miss := n, expect := 0, passing := 0, oof := 0 }) Def.lof (.lane l)
    else setLane s l { x with miss := n, since := 0, expect := 2 }
  else setLane s l { x with fst := .hunt, expect := 0, passing := 0 }

/-! ### Accumulated values (R180) -/

def sat16 (x : Int) : Int := clampI 32767 x

def accAdd (a b : List Int) : List Int := List.zipWith (fun x y => sat16 (x + y)) a b

/-- Sum of lists of `n` values; a missing decision is 0. -/
def accSum (n : Nat) (l : List (List Int)) : List Int :=
  l.foldl (fun a v => accAdd a ((v ++ List.replicate (n - v.length) 0).take n)) (List.replicate n 0)

/-- Hard bits of Plain. -/
def hardBits (l : List Int) : List Bool := l.map fun a => decide (a > 0)

/-- Decode `n` information bits of a codeword (R176 to R180). -/
def decodeWord (mode : Nat) (hdr : Bool) (n : Nat) (acc : List Int) : List Bool :=
  if mode = 0 then hardBits acc else viterbi n (deinterleave hdr acc)

/-- The codeword needed no correction (R181): every re-encoded bit agrees with its value, in Plain no value is 0. -/
def cleanWord (mode : Nat) (hdr : Bool) (info : List Bool) (acc : List Int) : Bool :=
  if mode = 0 then acc.all fun a => a != 0 else disagrees (convEncode info) (deinterleave hdr acc) == 0

/-- Header values of receptions; what a copy that ended in its header did not bring is 0. -/
def hdrAcc (mode : Nat) (l : List RxFrame) : List Int := accSum (hdrLen mode) (l.map fun f => f.hdr.map (·.u))

/-- The header that receptions give together. -/
def hdrOf (mode : Nat) (l : List RxFrame) : Nat := natOfBits (decodeWord mode true 96 (hdrAcc mode l))

/-- A header failure of one or more receptions, counted against its lanes; its FRAME record completes (R175, R235, R236, R307). -/
def countHdrFail (s : State) (ls : List Nat) (fs : List RxFrame) : State :=
  let f := fs.headD {}
  let s := raise (bump s R.COD_HDR_FAIL_CNT) F.COD_EVT_HDR_FAIL
  let s := ls.foldl (fun s l =>
    let x := lane s l
    pmAdd (setLane s l { x with secFrames := x.secFrames + 1, secBad := x.secBad + 1 }) l Pm.hdrRpl 1) s
  let s := feedFrame s {
    h := hdrOf f.mode fs, payload := [], outcome := 4, lane := ls.headD 0, mode := f.mode, ts := f.ts, cidx := f.cidx, k := f.k,
    hold := f.hold, copies := fs.length } Sec.unchecked false false
  trigger s (matchHdr 0 4) f.ts

/-! ### One decision (R220 to R223) -/

/-- The lane takes a decision while a reception runs. -/
def collect (s : State) (l : Nat) (f : RxFrame) (d : Dec) : State :=
  let x := lane s l
  let f := if f.hdr.length < hdrLen f.mode then { f with hdr := f.hdr ++ [d] } else { f with body := f.body ++ [d] }
  -- a later copy of a group whose header has passed needs no decode of its own (R185)
  let f := if f.h = none ∧ f.hdr.length = hdrLen f.mode
    then { f with h := (groupOf x.use f).bind fun j => groupHdr s j f.mode } else f
  let s := setLane s l { x with rx := some f, fst := if f.h.isSome ∧ !x.cont then .sync else x.fst }
  match f.h with
  | some h => if bodyLen f.mode (Hdr.len h) ≤ f.body.length then frameEnd s l 0 else s
  | none => if bodyMax f.mode ≤ f.body.length then frameEnd s l 0 else s

/-- A continuous lane that expects a sync word takes a decision (R222, R229). -/
def expectSync (s : State) (l : Nat) (d : Dec) : State :=
  let x := lane s l
  let n := x.since + 1
  let x := { x with since := n }
  let p := preLen s + 32
  let lim := if x.expect = 1 then p + 4 * idleMax s else frameLen s (fillMode s) (fillMax s) + 4 * idleMax s
  let here := if x.expect = 1 then Nat.ble p n && (n - p) % 4 == 0 else true
  match (if here then syncMatch x (tolL s) true else none) with
  | some m => setLane s l { x with rx := some (newRx x m d true), expect := 0 }
  | none => let s := setLane s l x; if lim ≤ n then missFrame s l else s

/-- The framer takes a decision. -/
def frameDec (s : State) (l : Nat) (d : Dec) : State :=
  let x := lane s l
  let x := { x with hist := (d :: x.hist).take 32, oof := if x.fst = .sync then 0 else x.oof + 1 }
  let s := setLane s l x
  match x.rx with
  | some f => collect s l f d
  | none =>
    if x.expect ≠ 0 then expectSync s l d
    else if x.fst = .hunt then
      match syncMatch x (tolH s) false with
      | some m => setLane s l { x with fst := .presync, passing := 0, rx := some (newRx x m d false) }
      | none => s
    else s

/-! ### A group that can give no frame any more (R175, R185) -/

/-- Some lane of the exchange may still bring a header of this mode. -/
def lanesOpen (s : State) (job mode : Nat) : Bool :=
  s.lanes.any fun e => e.2.use.any (fun u => u.1 == job) && !(e.2.rx.any fun f => f.mode == mode && f.tried)

/-- The group's copies all failed: one header failure; the lanes hunt again. -/
def concludeGroup (s : State) (job mode : Nat) : State :=
  let l := groupRx s job mode
  let wait := fun (f : RxFrame) => !f.tried && f.hdr.length == hdrLen mode
  if l = [] || l.any (fun e => e.2.h.isSome || wait e.2) || lanesOpen s job mode then s else
  let ls := (s.lanes.filter fun e => e.2.rx.any fun f => inGroup job mode e.2.use f).map Prod.fst ++
    ((s.recs.filter fun r => inGroup job mode r.use r.rx).map (·.lane))
  let s := { s with recs := s.recs.filter fun r => !inGroup job mode r.use r.rx }
  let hunt : Nat × Lane → Nat × Lane := fun (k, x) =>
    if x.rx.any (fun f => inGroup job mode x.use f) then (k, { x with rx := none, fst := .hunt }) else (k, x)
  let s := { s with lanes := s.lanes.map hunt }
  countHdrFail s ls (l.map Prod.snd)

/-- A lane of an exchange has gone, or a frame on it has ended: groups without hope fail, and an exchange nothing more can come of has
ended its attempt (R258, R259). -/
def laneGone (s : State) (job : Nat) : State := checkReply (concludeGroup (concludeGroup s job 2) job 3) job

/-! ### LANE_SYMBOL_END -/

/-- A detection (R157): the lane enters TRACK, its framer HUNT; its event has the lane, the pair and the time of the last sample. -/
def detect (s : State) (l : Nat) (x : Lane) (a : Nat) : State :=
  let ts := ((x.used.head?.bind fun i => (x.slots.getD i {}).ended).map fun e => e.2.2).getD (tbNow s)
  let x := trackLane x.judged a
  let s := setLane s l { x with
    fst := .hunt, miss := 0, passing := 0, oof := 0, hist := [], rx := none, since := 0, expect := 0, detEvent := some (x.pair, ts) }
  let s := raise (bump s R.CMP_DET_CNT) F.CMP_EVT_DET
  let s := trigger s (matchDet l) ts
  clearDefect s Def.lol (.lane l)

/-- A lock loss (R156, R160, R230). -/
def loseLock (s : State) (l : Nat) : State :=
  let use := (lane s l).use
  let s := raise (bump s R.CMP_LOCKLOSS_CNT) F.CMP_EVT_LOCKLOSS
  let s := letGo (raiseDefect s Def.lol (.lane l)) l
  match use with
  | some (j, _) => laneGone s j
  | none => s

/-- The decoder's input is full (R166); how many records it holds the spec does not say: free (log entry 99). -/
def decoderFull (s : State) : Bool := freeNat s 1 == 1 || !bit (getF s F.CLK_STATUS_LOCK) 4

/-- One decision of a lane in TRACK goes to the framer and the counts (R155, R166, R179, R235); when the decoder's input is full it is
discarded and counted, and a gap mark, an erased symbol, passes in its place. -/
def deliverDec (s : State) (l : Nat) (x : Lane) (d : Decision) : State :=
  let full := decoderFull s
  let s := feedDecision (usedFree s) l (d.word l).toNat d.ts d.cidx d.hold
  let e : Dec := if full then { u := 0, erased := true, k := d.k, cidx := d.cidx, ts := d.ts, hold := d.hold } else softDec s d
  let x := { x with
    secDec := x.secDec + 1, secErased := x.secErased + b2n e.erased, record := if full then x.record else d.word l }
  let s := setLane (if full then bump s R.CMP_DROP_CNT else s) l x
  let s := if x.lastS then raise (bump s R.CMP_SPC_CNT) F.CMP_EVT_SPC else s
  let s := if e.erased then pmAdd s l Pm.erased 1 else s
  if isSet s F.LFR_CTRL_EN then frameDec s l e else s

/-- A symbol period of a lane ends. -/
def symbolEnd (s : State) (l : Nat) : State :=
  let x := lane s l
  match x.ended with
  | none => s
  | some lbl =>
    match x.st with
    | .off => s
    | .search =>
      if x.safe then setLane s l x.judged else
      let (y, a) := searchPeriod s x
      match a with
      | some a => detect s l y a
      | none => setLane s l y.judged
    | .track =>
      let (d, y, lost) := judgeSymbol s x lbl
      let y := if decoderFull s then { y with delivered := x.delivered } else y
      let s := deliverDec s l y.judged d
      let s := match x.use with
        | some (j, _) => if (lane s l).st = .track then s else laneGone s j
        | none => s
      -- a release by the framer in the same symbol wins (R162)
      if lost && (lane s l).st == .track && (lane s l).delivered == y.delivered then loseLock s l else s

/-- LANE_SYMBOL_END (R154, R157 to R166, R179, R220 to R223). -/
def execLaneSymbolEnd (l : Fin 256) (s : State) : Answer := if domainOn s 8 then done (symbolEnd s l.val) else done s

/-- SEARCH_WINDOW_END (R156): SW symbol periods of SEARCH have ended without a detection. -/
def execSearchWindowEnd (l : Fin 256) (s : State) : Answer :=
  let x := lane s l.val
  if x.st ≠ .search ∨ x.safe ∨ x.sw = 0 ∨ x.periods < x.sw then done s else
  let s := offLane s l.val
  match x.own, x.use with
  | 2, _ => done (raise s F.CMP_EVT_DROP)
  | _, some (j, _) => done (laneGone s j)
  | _, none => done s

/-- LOF_TIMEOUT (R230): a continuous lane has been in TRACK for OOF_T symbols without reaching SYNC. -/
def execLofTimeout (l : Fin 256) (s : State) : Answer :=
  let x := lane s l.val
  if x.st ≠ .track ∨ !x.cont ∨ x.fst = .sync ∨ x.oof < 64 * max 1 (getF s F.LFR_FRM_CFG_OOF_T) then done s
  else done (raiseDefect s Def.lof (.lane l.val))

/-! ### Settings (R224, R245) -/

/-- The routing of a label is fixed. -/
def Lbl.fixed (l : Nat) : Bool := l == 0 || Lbl.reserved l

/-- LFR_LBLn is written (R224). -/
def writeLabel (s : State) (l : Nat) (v : Word) : State :=
  let d := bits v.toNat 5 4
  if Lbl.fixed l then raise s F.LFR_EVT_CFG_ERR
  else
    let s := if l < 5 && (d == 0 || d == 3) then raise s F.LFR_EVT_CFG_ERR else s
    wr s (R.LFR_LBL l) (v &&& 0x0000_0137#32)

/-- LABEL_ROUTE_WRITE (R224). -/
def execLabelRouteWrite (label : BitVec 6) (v : Word) (s : State) : Answer :=
  done (access s (R.LFR_LBL label.toNat) fun s => writeLabel s label.toNat v)

/-- LFR_LANE_CFG is written (R245): only a static lane that is OFF takes it. -/
def writeLaneCfg (s : State) (v : Word) : State :=
  let l := getF s F.LFR_LANE_IDX_LANE
  let x := lane s l
  if x.own ≠ 2 || !x.idle then raise s F.LFR_EVT_CFG_ERR
  else
    let s := if bits v.toNat 7 4 = 0 then raise s F.LFR_EVT_CFG_ERR else s
    setLane s l { x with cfg := v &&& 0x0000_0FF1#32 }

/-- LANE_FRAMING_CONFIG (R245). -/
def execLaneFramingConfig (v : Word) (s : State) : Answer := done (access s R.LFR_LANE_CFG fun s => writeLaneCfg s v)

end Sys2Proof.Machine
end

