-- ==== Sys2Proof/Machine/Deliver.lean ====
section
/-! DEFINITION. From a decoded frame to its consumer: replay check and decryption, high-water marks, routing by label, receive records,
the engines behind the labels, replies, floods (R192, R224 to R226, R230, R235, R255, R259, R262, R264, R270, R279, R280, R286, R289,
R291 to R294, R361, R368, R401 to R412). -/

namespace Sys2Proof.Machine

/-! ### Counts and defects of a frame (R226, R230, R235, R236) -/

def DecFrame.src (f : DecFrame) : Nat := Hdr.src f.h

/-- A count of a frame against its lanes and the session of its source (R235). -/
def countFrame (s : State) (f : DecFrame) (i : Nat) : State :=
  pmSess (f.lanes.foldl (fun s l => pmAdd s l i 1) s) f.src i 1

/-- The frame makes the current second worse for its lanes and its session (R236). -/
def badSecond (s : State) (f : DecFrame) (lanes : Bool) : State :=
  let s := if lanes then f.lanes.foldl (fun s l => setLane s l { lane s l with secBad := (lane s l).secBad + 1 }) s else s
  updSess s f.src fun x => { x with secBad := x.secBad + b2n lanes, secErr := true }

/-- AUTH_FAIL, an ENC_REQ discard or a frame without a key (R225, R404, R412). -/
def countAuthFail (s : State) (f : DecFrame) : State := badSecond (countFrame s f Pm.authFail) f true

/-- A frame of a node whose header passed has ended: `bad` counts toward AUTHD, `ok` authenticated (R230). -/
def noteAuth (s : State) (node : Nat) (bad ok : Bool) : State :=
  match sess s node with
  | none => s
  | some x =>
    let x := { x with auths := (bad :: x.auths).take 16, authRun := if ok then min 16 (x.authRun + 1) else 0 }
    let s := setSess s x
    if x.authd then (if x.authRun = 16 then clearDefect s Def.authd (.session node) else s)
    else if max 1 (bits (rdN s R.LFR_PM_CFG) 7 4) ≤ x.auths.countP id then raiseDefect s Def.authd (.session node)
    else s

/-- A run of frames against the state of PLM: the new run, and whether PLM changes (R230). -/
def plmStep (n : Nat) (present unexpected : Bool) (run : Nat) : Nat × Bool :=
  if present = unexpected then (0, false) else if n ≤ run + 1 then (0, true) else (run + 1, false)

/-- A delivered frame is expected or not: PLM of its session, or of its static lane (R226, R230). -/
def notePlm (s : State) (f : DecFrame) (unexpected : Bool) : State :=
  let n := max 1 (bits (rdN s R.LFR_PM_CFG) 3 0)
  let flip := fun (s : State) o => if unexpected then raiseDefect s Def.plm o else clearDefect s Def.plm o
  if f.isStatic then
    let x := lane s f.lane
    let (r, c) := plmStep n x.plm unexpected x.plmRun
    let s := setLane s f.lane { x with plmRun := r }
    if c then flip s (.lane f.lane) else s
  else match sess s f.src with
    | none => s
    | some x =>
      let (r, c) := plmStep n x.plm unexpected x.plmRun
      let s := setSess s { x with plmRun := r }
      if c then flip s (.session f.src) else s

/-- The label is not expected by the profile of the session, or of the lane (R226). -/
def unexpected (s : State) (f : DecFrame) : Bool :=
  let p := if f.isStatic then f.prof else match sess s f.src with
    | some x => x.prof
    | none => f.prof
  let l := Hdr.label f.h
  l != Lbl.filler && !bit (if l < 32 then rdN s (R.LFR_PROF_LO p) else rdN s (R.LFR_PROF_HI p)) (l % 32)

/-! ### Resynchronisation and what an authenticated frame tells (R192, R255, R262, R264) -/

/-- Distance of two offsets. -/
def ofsDist (a b : Nat) : Nat := let d := (a + phaseP - b % phaseP) % phaseP; min d (phaseP - d)

/-- An offset lies within the session's guard of its OFS_N (R262). -/
def inGuard (s : State) (x : Session) (ofs : Nat) : Bool :=
  decide ((ofsDist ofs x.ofsN : Rat) * cycleNs s / phaseP ≤ (guardUs s x (cidxNow s) : Rat) * 1000)

/-- A frame that has not authenticated, received on a scheduler lane (R262). -/
def resyncPlain (s : State) (f : DecFrame) : State :=
  if f.isStatic then s else
  match sess s f.src with
  | none => s
  | some x => if inGuard s x f.ofs then setSess s { x with ofsN := f.ofs } else bump s R.MAC_RESYNC_REJ_CNT

/-- A frame that has authenticated (R262). -/
def resyncAuth (s : State) (f : DecFrame) : State :=
  if f.isStatic then s else
  updSess s f.src fun x => { x with ofsN := f.ofs, tAuth := f.ts, cAuth := f.cidx, maxAge := false }

/-- SUPV clears, a LOST session is ACTIVE again (R264). -/
def clearSupv (s : State) (node : Nat) : State :=
  match sess s node with
  | some x =>
    if !x.supv then s else
    let s := clearDefect s Def.supv (.session node)
    let s := updSess s node fun x => { x with state := if x.state = 1 then 0 else x.state }
    updMesh (raise s F.MAC_EVT_SUPV_CHG) fun m => { m with dirty := true }
  | none => s

/-- The node's frame carries the announced mode: the change applies from the session's next event, where it is reported (R26, R192). -/
def confirmMode (s : State) (f : DecFrame) : State :=
  match sess s f.src with
  | none => s
  | some x => match x.pend with
    | none => s
    | some (m, _) =>
      if Hdr.nmode f.h ≠ m then s else
      setSess s { x with mode := m, pend := none, effect := some (x.mode, m, x.pendIn), sinceChg := 0, chgCidx := cidxNow s }

/-- Take the new map of a change, or drop it (R255); retention ends with the hop key (R187). -/
def endMapChange (s : State) (x : Session) (m : MapChange) (new : Bool) (outcome : Nat) : State :=
  let y := if new then { x with map := m.map, hopKey := m.hopKey.getD x.hopKey, mapVer := m.ver, mapChg := none } else { x with mapChg := none }
  let s := if y.hopKey = x.hopKey then s else endRetention s x.node
  decision (setSess s y) x.fn 5 false x.node x.mapVer y.mapVer outcome

/-- During an alternation the first authenticated frame on a placement of one map fixes that map (R255). -/
def fixMap (s : State) (f : DecFrame) : State :=
  match f.job.bind (findJob s), sess s f.src with
  | some j, some x => match x.mapChg with
    | some m => if m.split && j.node == x.node then endMapChange s x m j.newMap 2 else s
    | none => s
  | _, _ => s

/-- Everything an authenticated frame from a node does beside its payload. -/
def authSeen (s : State) (f : DecFrame) : State :=
  let s := clearSupv (resyncAuth s f) f.src
  let s := updSess s f.src fun x => { x with opening := false, fallback := false }
  fixMap (confirmMode (noteAuth s f.src false true) f) f

/-! ### Replies (R259, R286, R364) -/

/-- An exchange has its authenticated reply: its lanes are released, its command completes. -/
def replied (s : State) (j : Job) (len : Nat) : State :=
  let s := updJob s j.id fun j => { j with ended := true, deadline := none }
  let s := ((s.lanes.filter fun e => e.2.use.any fun u => u.1 == j.id).map Prod.fst).foldl offLane s
  let s := match j.kind with
    | .command uid => match findCmd s uid with
      | some c => endExchange s c St.done 0 len
      | none => s
    | _ => s
  freeClosed s j.node

/-- The exchanges that an authenticated frame answers: that of its lane, and a routed command by node and SEQ in time (R286). -/
def answers (s : State) (f : DecFrame) (j : Job) : Bool :=
  if j.hops = 0 then !j.ended && j.reply && f.job == some j.id && j.node == f.src
  else match j.kind with
    | .command uid => (findCmd s uid).any fun c => c.st == .onLine && D.res c == f.src && Hdr.seq c.hdr == Hdr.seq f.h &&
        j.deadline.any fun d => !ahead f.cidx d
    | _ => false

/-- A frame has ended as an authenticated one with a payload of `len` bytes. -/
def answerJobs (s : State) (f : DecFrame) (len : Nat) : State := (s.jobs.filter (answers s f)).foldl (fun s j => replied s j len) s

/-- The cipher engine has finished with a frame: its FRAME record completes (R307); an exchange nothing more can come of has ended its attempt. -/
def frameGone (s : State) (fid : Nat) (f : DecFrame) (sec : Nat := Sec.unchecked) (plm : Bool := false) : State :=
  let s := feedFrame { s with frames := fdel s.frames fid } f sec false plm
  match f.job with
  | some j => laneGone s j
  | none => s

/-! ### Engines (R224, R255, R270, R280, R289, R290) -/

/-- A rejected ROUTE frame (R280). -/
def rejectReport (s : State) : State := raise (bump s R.VET_RPT_REJ_CNT) F.VET_EVT_RPT_REJ

/-- A ROUTE payload of a TYPE that is reserved (R280). -/
def reservedRoute (f : DecFrame) (d : List Byte) : Bool := Hdr.label f.h == Lbl.route && !([1, 2, 3].contains (leAt d 0 1))

/-- A ROUTE payload (R280, R289). A report too short for its records is rejected (log entry 47); with VET_CTRL.EN = 0 reports are ignored
(R304). -/
def routePayload (s : State) (f : DecFrame) (auth : Bool) (d : List Byte) : State :=
  match leAt d 0 1 with
  | 1 =>
    if !isSet s F.VET_CTRL_EN then s else
    let n := leAt d 1 1
    if !(auth || isSet s F.VET_CTRL_RPT_PLAIN) || (dirFind s f.src).isNone || d.length < 2 + 6 * n then rejectReport s else
    let l := (List.range n).map fun i =>
      let r := slice d (2 + 6 * i) 6
      (beNat (r.take 3) % 2 ^ 18, sext 8 (leAt r 3 1), leAt r 4 1, leAt r 5 1)
    updMesh (report s f.src l) fun m => { m with news := fput m.news f.src l }
  | 2 => if auth ∧ 7 ≤ d.length then failLink s f.src (beNat (slice d 1 3) % 2 ^ 18) else s
  | _ => s

/-- A MACCTL payload: what it says is the command's operand (R255, R270; log entry 39). -/
def macctlPayload (s : State) (f : DecFrame) (ctl arg : Nat) : State :=
  match ctl with
  | 1 => updSess s f.src fun x => { x with mapChg := x.mapChg.map fun m => if m.ver = arg ∧ m.q.isSome ∧ !m.split then { m with confirmed := true } else m }
  | 2 => if (sess s f.src).isSome then wakeRequest s (arg % 8) f.src f.ts else s
  | _ => s

/-- The device engine of a label takes a frame; MACCTL acts only when it has authenticated. -/
def engineTakes (s : State) (f : DecFrame) (auth : Bool) (d : List Byte) : State :=
  let l := Hdr.label f.h
  if l = Lbl.route then routePayload s f auth d
  else if l = Lbl.macctl ∧ auth then macctlPayload s f f.ctl.1 f.ctl.2
  else s

/-! ### Floods (R291 to R294) -/

/-- A flooded frame (R291). -/
def flooded (s : State) (h : Nat) : Bool :=
  Hdr.dst h == 0x3FFFF || (Hdr.dst h == rootAddr s && !Hdr.rte h && Nat.ble 1 (Hdr.hop h))

/-- A delivered flooded frame goes onward (R293). -/
def floodOn (s : State) (f : DecFrame) : State :=
  if s.mesh.method || !flooded s f.h || !isSet s F.VET_FLOOD_CFG_REBCAST || Hdr.ttl f.h < 2 || Hdr.label f.h == Lbl.filler then s else
  let n := fgetD s.mesh.onward f.src 0
  if getF s F.VET_FLOOD_CFG_FLOOD_RATE ≤ n then bump s R.VET_FLOOD_LIM_CNT else
  let h := fixHdr (setBits (setBits f.h 42 39 (Hdr.hop f.h + 1)) 38 35 (Hdr.ttl f.h - 1))
  updMesh s fun m => { m with onward := fput m.onward f.src (n + 1), floods := m.floods ++ [(h, f.payload)] }

/-! ### Routing and records (R224 to R226, R368) -/

/-- The receiving function (R225). -/
def rxFn (s : State) (f : DecFrame) : Nat := if f.isStatic then 0 else ((sess s f.src).map (·.fn)).getD 0

/-- The 32 bytes of a receive-frame record before its phase (R368). -/
def rqRecord (f : DecFrame) (sec len lost : Nat) (plm : Bool) : List Byte :=
  toLE 12 f.h ++ toLE 6 (f.ts % 2 ^ 48) ++ toLE 4 f.cidx ++
    [BitVec.ofNat 8 (f.outcome + sec * 8 + b2n plm * 32 + f.mode * 64), BitVec.ofNat 8 f.lane] ++ toLE 2 len ++
    [BitVec.ofNat 8 f.copies, BitVec.ofNat 8 (wrap 8 (max (-128) (min 127 (rqNear 57 f.snr (2 ^ 15)))))] ++ toLE 2 lost ++ [0, 0]

/-- Write a frame to a receive ring; a ring without room loses it (R20, R368). -/
def toRing (s : State) (fn q : Nat) (f : DecFrame) (sec : Nat) (plm : Bool) (d : List Byte) : State :=
  if ringRoom s fn (32 + q) then
    let x := ring s fn (32 + q)
    bankAdd (setRing s fn (32 + q) { x with lost := 0 }) fn { ring := 32 + q, data := rqRecord f sec d.length x.lost plm, payload := d }
  else loseRecord s fn (32 + q)

/-- Discarded for want of a route (R225). -/
def unrouted (s : State) : State := raise (bump s R.LFR_UNROUTED_CNT) F.LFR_EVT_UNROUTED

/-- Route a frame by its label (R80, R224 to R226, R412): every delivered frame is expected or not, whatever its route. -/
def deliver (s : State) (f : DecFrame) (sec : Nat) (d : List Byte) : State :=
  let l := Hdr.label f.h
  let fn := rxFn s f
  let dest := lblDest s l
  let host := dest == 0 || dest == 2
  let engine := (dest == 1 || dest == 2) && Nat.ble sec Sec.auth
  if inSafe s 4 || inSafe s 5 || !isSet s F.COD_CTRL_EN then s
  else
    let plm := unexpected s f
    let s := if plm then countFrame s f Pm.plmf else s
    let s := notePlm s f plm
    -- a reserved TYPE is discarded whole; its content is known where it is not encrypted or has authenticated (log entry 47)
    if engine && reservedRoute f d then rejectReport s
    else if Lbl.reserved l || (host && (ring s fn (32 + lblRing s l)).st != .enabled) then unrouted s
    else if !host && !engine then s
    else
    let s := if host then toRing s fn (lblRing s l) f sec plm (if sec = Sec.replay then [] else d) else s
    let s := if engine then engineTakes s f (sec == Sec.auth) d else s
    floodOn s f

/-! ### Keys, counters, decryption (R401 to R412) -/

/-- Bytes of the route extension of a frame (R282). -/
def extLen (h : Nat) (payload : List Byte) : Nat := if Hdr.rte h then 1 + 3 * (leAt payload 0 1 % 8) else 0

/-- How a frame with ENC = 1 is checked (R404). -/
inductive Check where
  /-- not for this device: not decrypted, delivered to no ring -/
  | other
  | noKey
  | node (k : Key)
  | source (n : Nat) (k : Key)

/-- The source entry that names an address. -/
def sourceOf (s : State) (a : Nat) : Option Nat := (List.range 16).find? fun n => isSet s (F.SEC_BSRC_EN n) && getF s (F.SEC_BSRC_ADDR n) == a

/-- The source entry whose state a frame's counter is of (R404, R405). -/
def sourceFor (s : State) (h : Nat) : Option Nat :=
  if Hdr.label h = Lbl.beacon ∧ Hdr.dst h = 0x3FFFF then sourceOf s (Hdr.src h) else none

/-- The key that checks a frame (R404). -/
def checkOf (s : State) (h : Nat) : Check :=
  let a := Hdr.src h
  let src := sourceFor s h
  if !engineOn s then .noKey
  else if Hdr.dst h ≠ 0x3FFFF ∧ Hdr.dst h ≠ rootAddr s then .other
  else match src with
    | some n => match (bcastRef s).bind (key s) with
      | some k => .source n k
      | none => .noKey
    | none => match keyBar s (nodeRef a) Use.payload, key s (nodeRef a) with
      | none, some k => .node k
      | _, _ => .noKey

/-- The counter that a SEQ stands for beside H; none where it is none (R407 steps 1 and 2). -/
def counterOf (h seq : Nat) : Option Nat :=
  let lo : Int := (h : Int) - 2047
  let c : Int := lo + ((seq : Int) - lo) % 4096
  if c < 0 ∨ 0xFFFF_FFFF < c then none else some c.toNat

/-- The candidates for the counter of a frame from an open source entry, in order; a number of more than 32 bits is no counter (R405). -/
def candidates (mark seq : Nat) : List Nat :=
  ((List.range 1024).map fun j => mark * 65536 + seq + 4096 * j).filter fun c => Nat.blt c (2 ^ 32)

/-- A counter passes the window (R407 step 3). -/
def RxCtr.fresh (x : RxCtr) (c : Nat) : Bool := Nat.blt x.h c || (Nat.ble x.h (c + 63) && !x.win.getLsbD (x.h - c))

/-- A counter enters the window (R407 step 5). -/
def RxCtr.accept (x : RxCtr) (c : Nat) : RxCtr :=
  if x.opened then { h := c, win := 1, empty := false }
  else if x.h < c then { x with h := c, win := x.win <<< (c - x.h) ||| 1, empty := false }
  else { x with win := x.win ||| (1 <<< (x.h - c)), empty := false }

/-- Open a frame under a counter (R402, R403). -/
def openFrame (f : DecFrame) (k : Key) (bc : Bool) (ctr : Nat) : List Byte × Bool :=
  let e := extLen f.h f.payload
  ccmOpen k.material (lineNonce true bc f.src (Hdr.dst f.h) ctr) (lineAd f.h (f.payload.take e)) (f.payload.drop e) (tagBytes k.tlen)

/-- A frame that ends with REPLAY (R407): no payload is written. -/
def endReplay (s : State) (fid : Nat) (f : DecFrame) : State :=
  let s := raise (bump s R.SEC_REPLAY_CNT) F.SEC_EVT_REPLAY
  let s := badSecond (pmSess s f.src Pm.hdrRpl 1) f false
  frameGone (deliver (noteAuth (resyncPlain s f) f.src true false) f Sec.replay []) fid f Sec.replay (unexpected s f)

/-- A frame that ends with AUTH_FAIL (R412): its plaintext goes to the host alone. -/
def endAuthFail (s : State) (fid : Nat) (f : DecFrame) (d : List Byte) : State :=
  let s := raise (bump s R.SEC_AUTHFAIL_CNT) F.SEC_EVT_AUTH_FAIL
  let s := countAuthFail s f
  frameGone (deliver (noteAuth (resyncPlain s f) f.src true false) f Sec.authFail d) fid f Sec.authFail (unexpected s f)

/-- A frame discarded before delivery for want of a key (R404, R409). -/
def noKey (s : State) : State := raise (bump s R.SEC_NOKEY_CNT) F.SEC_EVT_NOKEY

/-- A frame that authenticates and whose marks are committed (R407, R259). -/
def endAuth (s : State) (fid : Nat) (f : DecFrame) (c : Nat) (src : Option Nat) (d : List Byte) : State :=
  let s := match src with
    | some n => { s with sec := { s.sec with bsrc := fput s.sec.bsrc n ((bsrc s n).accept c) } }
    | none => { s with sec := { s.sec with rxCtr := fput s.sec.rxCtr f.src ((rxCtr s f.src).accept c) } }
  let s := deliver (authSeen s f) f Sec.auth d
  frameGone (answerJobs s f d.length) fid f Sec.auth (unexpected s f)

/-- The mark a counter needs before its frame is delivered, if any (R409). The frames of one key are checked one after the other, so no two
commits of a mark are under way. -/
def markRx (s : State) (fid : Nat) (f : DecFrame) (c : Nat) (src : Option Nat) : Option Nat × State :=
  match src with
  | some n =>
    let (m, s) := readBrx s n
    if c / 65536 < m then (none, s) else
    let (id, s) := commitMark s (sysCopies 3) (2 * n) (c / 65536 + 1) { job := none, frame := some fid }
    (some id, s)
  | none =>
    let ((_, rx), s) := readHwm s f.src
    if c / 65536 ≤ rx then (none, s) else
    let (id, s) := commitMark s (hwmCopies f.src) (hwmOff f.src + 2) (c / 65536) { job := none, frame := some fid }
    (some id, s)

/-- An authenticated frame: it waits for its mark, or ends. -/
def authenticated (s : State) (fid : Nat) (f : DecFrame) (c : Nat) (src : Option Nat) (d : List Byte) : State :=
  if src.isSome ∧ c / 65536 = 0xFFFF then frameGone (noteAuth (resyncPlain (noKey s) f) f.src false false) fid f
  else match markRx s fid f c src with
    | (none, s) => endAuth s fid f c src d
    | (some _, s) => { s with frames := fput s.frames fid { f with ctr := some c, brx := src, plain := d } }

/-- Check and decrypt a frame (R404 to R407, R412). -/
def decrypt (s : State) (fid : Nat) (f : DecFrame) : State :=
  let len := f.payload.length - extLen f.h f.payload
  match checkOf s f.h with
  | .other => frameGone (noteAuth (resyncPlain s f) f.src false false) fid f
  | .noKey =>
    let s := if !engineOn s then s else dropFailed s (if (sourceFor s f.h).isSome then getF s F.SEC_BCAST_SLOT else nodeRef f.src)
    frameGone (noteAuth (countAuthFail (resyncPlain (noKey s) f) f) f.src true false) fid f
  | .node k =>
    let s := touchKey s (nodeRef f.src)
    let x := rxCtr s f.src
    if len < tagBytes k.tlen then endAuthFail s fid f [] else
    match counterOf x.h (Hdr.seq f.h) with
    | none => endReplay s fid f
    | some c =>
      if !x.fresh c then endReplay s fid f else
      let (d, ok) := openFrame f k false c
      if ok then authenticated s fid f c none d else endAuthFail s fid f d
  | .source n k =>
    let s := touchKey s (getF s F.SEC_BCAST_SLOT)
    let x := bsrc s n
    if len < tagBytes k.tlen then endAuthFail s fid f []
    else if x.opened then
      let (m, s) := readBrx s n
      let cs := candidates m (Hdr.seq f.h)
      match cs.find? fun c => (openFrame f k true c).2 with
      | some c => authenticated s fid f c (some n) (openFrame f k true c).1
      | none => endAuthFail s fid f (openFrame f k true (cs.getLastD 0)).1
    else match counterOf x.h (Hdr.seq f.h) with
      | none => endReplay s fid f
      | some c =>
        if !x.fresh c then endReplay s fid f else
        let (d, ok) := openFrame f k true c
        if ok then authenticated s fid f c (some n) d else endAuthFail s fid f d

/-- A flooded frame meets the seen cache, under managed flooding (R292); under host-managed relay every copy passes (R294). -/
def floodGate (s : State) (f : DecFrame) : Bool × State :=
  if flooded s f.h && !s.mesh.method then seenCheck s f.h f.payload else (false, s)

/-- The key a frame is checked under, as its node's address, or none for the broadcast key (R404); that of a frame that waits for its mark is the
one it was checked under. -/
def frameKey (s : State) (f : DecFrame) : Option Nat :=
  if f.ctr.isSome then (if f.brx.isSome then none else some f.src) else
  match checkOf s f.h with
  | .source _ _ => none
  | _ => some f.src

/-- FRAME_DECRYPT (R292, R361, R404 to R409, R412): frames of one key are checked in the order in which they were decoded (R407). -/
def execFrameDecrypt (fid : Nat) (ctl : Fin 3) (arg : Nat) (s : State) : Answer :=
  match fget s.frames fid with
  | none => done s
  | some f =>
    if f.ctr.isSome || (s.frames.any fun e => Nat.blt e.1 fid && frameKey s e.2 == frameKey s f) then done s else
    let f := { f with ctl := (ctl.val, arg) }
    match floodGate s f with
    | (true, s) => done (frameGone (noteAuth (resyncPlain s f) f.src false false) fid f)
    | (false, s) =>
      if s.mesh.method && flooded s f.h
      then done (frameGone (noteAuth (deliver (resyncPlain s f) f Sec.unchecked f.payload) f.src false false) fid f Sec.unchecked (unexpected s f))
      else done (decrypt s fid f)

/-! ### HWM_COMMIT_DONE (R407, R409, R410) -/

/-- A frame whose mark cannot be committed is not sent (R410): its job is withdrawn and its command ends. It has taken no counter. -/
def failJob (s : State) (j : Job) : State :=
  let s := withdrawJob s j
  let s := match j.kind with
    | .command uid => match findCmd s uid with
      | some c => endExchange s c St.fault Det.nvsWorn 0
      | none => s
    | _ => s
  freeClosed s j.node

/-- A commit of R_TX of key `k` has failed (R410): the frame that asked for it, in the job that waits for it now or with a command that waits
again, is not sent; the next frame of the key asks for a new commit. -/
def failTx (s : State) (w : HwmWait) (k : Nat) : State :=
  let s := raise s F.SEC_EVT_HWM_FAIL
  let ours := fun (j : Job) => !j.ended && !j.begun && (w.job == some j.id || match j.kind with
    | .command u => w.cmd == some u
    | _ => false)
  let s := match s.jobs.find? ours, w.cmd.bind (findCmd s) with
    | some j, _ => failJob s j
    | none, some c => if c.st = .waiting then endExchange s c St.fault Det.nvsWorn 0 else s
    | none, none => s
  match s.jobs.find? fun j => (jobKeys s j).contains (k, true) with
  | some j => askMarks s j
  | none => s

/-- HWM_COMMIT_DONE: the frame that waited goes on, or is not sent or delivered. -/
def execHwmCommitDone (id : Nat) (s : State) : Answer :=
  match fget s.nvs.waits id with
  | none => done s
  | some w =>
    match w.outcome with
    | none => done s
    | some ok =>
      let s := { s with nvs := { s.nvs with waits := fdel s.nvs.waits id } }
      let s := match w.tx with
        | some (k, _) => if ok then s else failTx s w k
        | none => s
      match w.frame, w.frame.bind (fget s.frames) with
      | some fid, some f =>
        match f.ctr with
        | none => done s
        | some c =>
          if !ok then done (frameGone (noteAuth (resyncPlain (raise (noKey s) F.SEC_EVT_HWM_FAIL) f) f.src false false) fid f) else
          done (endAuth s fid f c f.brx f.plain)
      | _, _ => done s

end Sys2Proof.Machine
end

