-- ==== Sys2Proof/Machine/Decoder.lean ====
section
/-! DEFINITION. The decoder: headers and bodies of one copy and of robust groups, retransmission combining, outcomes, the measures of a
reception and mode selection (R175 to R193, R225, R228, R235, R262, R279, R283, R301, R321). -/

namespace Sys2Proof.Machine

/-- The header decisions are all in. -/
def RxFrame.full (f : RxFrame) : Bool := f.hdr.length == hdrLen f.mode

/-! ### HEADER_DECODED (R175, R185, R220, R262, R301) -/

/-- A header has passed in a reception: the node is heard, its session moves within the guard, its address is learned. -/
def hdrSeen (s : State) (isStatic : Bool) (f : RxFrame) (h : Nat) : State :=
  let a := Hdr.src h
  let s := { s with heard := fput s.heard a (f.cidx, f.ofs) }
  let s := if isStatic then s else updSess s a fun x => if inGuard s x f.ofs then { x with ofsN := f.ofs } else x
  if Hdr.label h = Lbl.filler then s else dirLearn s a (some f.cidx)

/-- The header of a single reception, or of every complete one of a group, is known. -/
def RxFrame.passed (f : RxFrame) (h : Nat) : RxFrame := { f with h := some h, contrib := true }

/-- A lane whose header has passed (R220): a burst lane is in SYNC; a continuous one once PSYNC_N have passed at expected places. -/
def laneSync (s : State) (l : Nat) (expd : Bool) : State :=
  let x := lane s l
  if !x.cont then setLane s l { x with fst := .sync }
  else
    let n := if expd then x.passing + 1 else x.passing
    if x.fst = .sync then setLane s l { x with miss := 0, passing := n }
    else if max 1 (getF s F.LFR_FRM_CFG_PSYNC_N) ≤ n
    then clearDefect (setLane s l { x with fst := .sync, miss := 0, passing := n, oof := 0 }) Def.lof (.lane l)
    else setLane s l { x with passing := n }

/-- A lane whose header is known and whose body is in ends its frame. -/
def endIfWhole (s : State) (l : Nat) : State :=
  match (lane s l).rx with
  | some f => match f.h with
    | some h => let n := bodyLen f.mode (Hdr.len h)
                if n ≤ f.body.length then frameEnd s l (f.body.length - n) else s
    | none => s
  | none => s

/-- A group's header has passed: every copy found has contributed to it, and one that is not amid its header has it. -/
def passGroup (s : State) (job mode h : Nat) : State :=
  let mk : RxFrame → RxFrame := fun f => if f.full then f.passed h else { f with contrib := true }
  let onLane : Nat × Lane → Nat × Lane := fun (k, x) =>
    match x.rx with
    | some f => if inGroup job mode x.use f then (k, { x with rx := some (mk f), fst := if f.full then .sync else x.fst }) else (k, x)
    | none => (k, x)
  let onRec : Recep → Recep := fun r => if inGroup job mode r.use r.rx then { r with rx := r.rx.passed h } else r
  let s := { s with lanes := s.lanes.map onLane, recs := s.recs.map onRec }
  ((s.lanes.filter fun e => e.2.rx.any fun f => inGroup job mode e.2.use f).map Prod.fst).foldl endIfWhole s

/-- A copy's header has been tried in vain. -/
def tryGroup (s : State) (l job mode : Nat) : State :=
  let mk : RxFrame → RxFrame := fun f => if f.full then { f with tried := true } else f
  let x := lane s l
  let s := match x.rx with
    | some f => if inGroup job mode x.use f then setLane s l { x with rx := some (mk f) } else s
    | none => s
  let onRec : Recep → Recep := fun r => if r.lane = l ∧ inGroup job mode r.use r.rx then { r with rx := mk r.rx } else r
  laneGone { s with recs := s.recs.map onRec } job

/-- A group's header decode: the values of every copy found so far (R185 step 1). -/
def decodeGroup (s : State) (l job mode : Nat) (isStatic : Bool) : State :=
  let g := groupRx s job mode
  let h := hdrOf mode (g.map Prod.snd)
  if !hdrPasses h then tryGroup s l job mode else
  let first := g.foldl (fun (b : Option (Nat × RxFrame)) e => match b with
    | some c => if e.1 < c.1 then some e else b
    | none => some e) none
  let s := match first with
    | some e => hdrSeen s isStatic e.2 h
    | none => s
  passGroup s job mode h

/-- The header of a reception that runs on a lane is judged. -/
def judgeLive (s : State) (l : Nat) (f : RxFrame) : State :=
  let x := lane s l
  if !isSet s F.COD_CTRL_EN then
    let s := setLane s l { x with rx := none, fst := .hunt, expect := 0 }
    match x.use with
    | some (j, _) => laneGone s j
    | none => s
  else match groupOf x.use f with
    | some j => decodeGroup s l j f.mode false
    | none =>
      let h := hdrOf f.mode [f]
      if hdrPasses h then
        let s := hdrSeen s (x.own == 2) f h
        endIfWhole (laneSync (setLane s l { lane s l with rx := some (f.passed h) }) l f.expd) l
      else
        let s := setLane s l { x with rx := none }
        let s := if x.cont then missFrame s l else setLane s l { lane s l with fst := .hunt }
        countHdrFail s [l] [f]

/-- A copy of a group that ended amid its header waits for the header of another; it has been looked at. -/
def setTried (s : State) (r : Recep) : State :=
  { s with recs := s.recs.map fun q => if q = r then { r with rx := { r.rx with tried := true } } else q }

/-- A reception that has ended on its lane is judged: one without a complete header is a header failure (R220), but for a copy of a group,
whose values still add to the group's header (R185). -/
def judgeEnded (s : State) (r : Recep) : State :=
  let gone := fun (s : State) => match r.use with
    | some (j, _) => laneGone s j
    | none => s
  let without := { s with recs := s.recs.erase r }
  if !isSet s F.COD_CTRL_EN then gone without
  else match groupOf r.use r.rx with
    | some j => if r.rx.full then decodeGroup s r.lane j r.rx.mode r.isStatic else gone (setTried s r)
    | none =>
      let h := hdrOf r.rx.mode [r.rx]
      if r.rx.full && hdrPasses h then
        { hdrSeen s r.isStatic r.rx h with recs := s.recs.map fun q => if q = r then { r with rx := r.rx.passed h } else q }
      else gone (countHdrFail without [r.lane] [r.rx])

/-- HEADER_DECODED: the decode of the header that waits on a lane. -/
def execHeaderDecoded (l : Fin 256) (s : State) : Answer :=
  if !domainOn s 9 then done s else
  let waits := fun (f : RxFrame) => f.h.isNone && !f.tried
  match s.recs.find? fun r => r.lane == l.val && waits r.rx with
  | some r => done (judgeEnded s r)
  | none => match (lane s l.val).rx with
    | some f => if waits f && f.full then done (judgeLive s l.val f) else done s
    | none => done s

/-! ### Copies of one frame (R185) -/

/-- Symbols from copy `a` to copy `b` on the line. -/
def symbolsTo (m : Nat) (a b : RxFrame) : Int :=
  let n : Int := 2 ^ 32 * mOf m
  let d := ((b.cidx * mOf m + b.k : Nat) : Int) - (a.cidx * mOf m + a.k : Nat)
  let r := d % n
  if 2 * r < n then r else r - n

/-- Copy `b` lies where copy `a` lets it be expected, within a symbol. -/
def agrees (m d : Nat) (a b : Nat × RxFrame) : Bool :=
  decide ((symbolsTo m a.2 b.2 - ((b.1 : Int) - a.1) * d).natAbs ≤ 1)

/-- The reference copy: the one that most copies agree with, the lowest of equals (R185 step 3). The copies rise in number. -/
def reference (m d : Nat) (l : List (Nat × RxFrame)) : Option (Nat × RxFrame) :=
  let n := fun a => l.countP (agrees m d a)
  l.foldl (fun b a => match b with
    | some c => if n c < n a then some a else b
    | none => some a) none

/-! ### Retention (R186 to R188) -/

/-- The items that identify an entry, the session apart. -/
def retKey (h : Nat) : List Nat := [Hdr.src h, Hdr.dst h, Hdr.seq h, Hdr.label h, Hdr.len h]

def sameEntry (h : Nat) (r : Retain) : Bool := r.node == Hdr.src h && r.key == retKey h

/-- A function's share of the store (R188). -/
def retQuota (s : State) (fn : Nat) : Nat := if tableInForce s then getF s (F.TEN_SESS_RET_Q fn) else if fn = 0 then 4096 else 0

def dropEntry (s : State) (h : Nat) : State := { s with retain := s.retain.filter fun r => !sameEntry h r }

/-- Keep the values of an ERRORED body (R186, R188). -/
def keepEntry (s : State) (fn h cidx : Nat) (acc : List Int) : State :=
  let s := dropEntry s h
  let mine := s.retain.filter fun r => r.fn == fn
  if retQuota s fn = 0 then s else
  let s := if retQuota s fn ≤ mine.length
    then raise (bump { s with retain := s.retain.erase (mine.headD ⟨0, 0, [], [], 0, 0⟩) } R.COD_RET_EVICT_CNT) F.COD_EVT_RET_EVICT else s
  { s with retain := s.retain ++ [{ node := Hdr.src h, fn := fn, key := retKey h, acc := acc, count := 1, cidx := cidx }] }

/-- The disagreeing fraction of kept and new values is at most DIS_MAX / 256 (R186). -/
def combinable (s : State) (kept new : List Int) : Bool :=
  let l := (kept.zip new).filter fun (a, b) => a != 0 && b != 0
  Nat.ble (256 * l.countP fun (a, b) => decide (a > 0) != decide (b > 0)) (getF s F.COD_RET_CFG_DIS_MAX * l.length)

/-! ### Decoding a body (R174, R176, R180, R181, R186) -/

/-- Payload of body values, and whether its CRC-32 matches. -/
def decodeBody (mode len : Nat) (acc : List Int) : List Byte × List Bool × Bool :=
  if len = 0 then ([], [], true) else
  let b := decodeWord mode false (8 * len + 32) acc
  let p := bytesOfBits len (b.take (8 * len))
  (p, b, decide (natOfBits (b.drop (8 * len)) = crc32Body p))

/-- Outcome of a frame (R181): payload, outcome, and the state with its retention entry served. -/
def decodeFrame (s : State) (mode h cidx : Nat) (hdr : List RxFrame) (acc : List Int) : List Byte × Nat × State :=
  let len := Hdr.len h
  let ret := isSet s F.COD_CTRL_RET_EN && mode != 0 && len != 0
  let max' := max 2 (min 8 (getF s F.COD_RET_CFG_RET_MAX))
  let alone := fun (s : State) =>
    let (p, b, ok) := decodeBody mode len acc
    let clean := cleanWord mode true (hdrBits h) (hdrAcc mode hdr) && (len == 0 || cleanWord mode false b acc)
    if ok then (p, if clean then Pm.good else 1, s)
    else (p, 3, match sess s (Hdr.src h) with
      | some x => if ret && x.state == 0 then keepEntry s x.fn h cidx acc else s
      | none => s)
  match if ret && Hdr.rtx h then s.retain.find? (sameEntry h) else none with
  | none => alone s
  | some e =>
    if !combinable s e.acc acc then
      alone (raise (bump (dropEntry s h) R.COD_RET_MISMATCH_CNT) F.COD_EVT_MISMATCH)
    else
      let sum := accAdd e.acc acc
      let (p, _, ok) := decodeBody mode len sum
      if ok then (p, 2, dropEntry s h)
      else
        let n := e.count + 1
        let s := dropEntry s h
        (p, 3, if max' ≤ n then s else { s with retain := s.retain ++ [{ e with acc := sum, count := n, cidx := cidx }] })

/-! ### Mode selection (R190, R191) -/

/-- Register of the boundary between modes `b` and `b + 1`. -/
def mselReg (b : Nat) : Nat := R.COD_MSEL_P + 4 * b

/-- The thresholds in use (R191). -/
def mselWord (s : State) (b : Nat) : Nat := (fgetD s.msel b (resetValue (mselReg b))).toNat

/-- The measures ask for the more robust side of a boundary. -/
def asksDown (s : State) (x : Session) (b : Nat) : Bool :=
  let w := mselWord s b
  decide (sessSnr x < (sext 8 (bits w 23 16) : Rat)) || decide (sessEr x > (bits w 9 4 : Rat)) || Nat.ble (bits w 3 0) (sessRf x)

/-- The measures allow the less robust side. -/
def allowsUp (s : State) (x : Session) (b : Nat) : Bool :=
  let w := mselWord s b
  let dn := bits w 3 0
  decide (sessSnr x ≥ (sext 8 (bits w 31 24) : Rat)) && decide (sessEr x ≤ (bits w 15 10 : Rat)) &&
    (if dn < 2 then sessRf x == 0 else Nat.ble (sessRf x) (dn - 2))

/-- The mode the firmware decides on (R191). -/
def chooseMode (s : State) (x : Session) : Option Nat :=
  let m := x.mode
  if m < 3 ∧ asksDown s x m then (List.range' (m + 1) (3 - m)).find? (modeOk x)
  else if 0 < m ∧ allowsUp s x (m - 1) ∧ 16 ≤ x.sinceChg ∧ 64 ≤ cycSub (cidxNow s) x.chgCidx
  then ((List.range m).reverse).find? (modeOk x)
  else none

/-- A reception of a session: its measures, and the decision they lead to; a decision for the mode already announced is none (R190 to
R192). -/
def noteReception (s : State) (f : DecFrame) : State :=
  let s := updSess s f.src fun x => { x with rxs := ((f.snr, f.erased, f.decisions) :: x.rxs).take 16, sinceChg := x.sinceChg + 1 }
  match sess s f.src with
  | none => s
  | some x =>
    if !isSet s F.COD_CTRL_MSEL_EN || s.pwr.watchdog then s else
    match chooseMode s x with
    | none => s
    | some m => if x.pend.any fun p => p.1 == m then s else
      setSess (dropPend s x) { x with pend := some (m, 0), pendIn := modeInput x }

/-! ### BODY_DECODED -/

/-- Outcome number of R312 as a count of R235. -/
def pmOf (o : Nat) : Nat := match o with
  | 0 => Pm.good
  | 1 => Pm.corrected
  | 2 => Pm.combined
  | _ => Pm.errored

/-- Count a frame against its lanes (R235, R236). -/
def countLanes (s : State) (f : DecFrame) : State :=
  f.lanes.foldl (fun s l =>
    let x := lane s l
    let s := setLane s l { x with secFrames := x.secFrames + 1, secBad := x.secBad + b2n (f.outcome == 3) }
    let s := pmAdd s l (pmOf f.outcome) 1
    if Hdr.rtx f.h then pmAdd s l Pm.retx 1 else s) s

/-- Count a frame against its session (R235, R236). -/
def countSession (s : State) (f : DecFrame) : State :=
  let s := updSess s f.src fun x => { x with
    secFrames := x.secFrames + 1, secBad := x.secBad + b2n (f.outcome == 3), secErr := x.secErr || f.outcome == 3 }
  pmSess (pmSess s f.src (pmOf f.outcome) 1) f.src Pm.erased f.erased

/-- The sender of a frame (R279): behind a relay only a body that decoded names it. -/
def senderOf (f : DecFrame) : Option Nat :=
  let n := Hdr.hop f.h
  if n = 0 then some f.src
  else if f.outcome = 3 ∨ !Hdr.rte f.h ∨ leAt f.payload 0 1 % 8 < n then none
  else some (beNat (slice f.payload (1 + 3 * (n - 1)) 3) % 2 ^ 18)

/-- The check of R283: the extension cannot be used. -/
def badExt (h : Nat) (p : List Byte) : Bool :=
  let n := leAt p 0 1 % 8
  Hdr.rte h && (n == 0 || Nat.blt n (Hdr.hop h) || Nat.blt (Hdr.len h) (1 + 3 * n) ||
    (List.range n).any fun i => let r := beNat (slice p (1 + 3 * i) 3) % 2 ^ 18; r == 0 || r == 0x3FFFF)

/-- A frame that ends with the decoder: its FRAME record completes (R307). `encReq`: discarded under R225; `plm`: unexpected. -/
def frameEnds (s : State) (f : DecFrame) (encReq : Bool := false) (plm : Bool := false) : State :=
  let s := feedFrame s f Sec.unchecked encReq plm
  match f.job with
  | some j => laneGone s j
  | none => s

/-- A decoded frame without encryption meets the seen cache, then its label (R225, R292, R361). -/
def routeClear (s : State) (f : DecFrame) : State :=
  match floodGate s f with
  | (true, s) => frameEnds (noteAuth (resyncPlain s f) f.src false false) f
  | (false, s) =>
    if lblEncReq s (Hdr.label f.h) then
      frameEnds (noteAuth (countAuthFail (bump (resyncPlain s f) R.LFR_ENCREQ_CNT) f) f.src true false) f true
    else
      let carried := s.mesh.method && flooded s f.h
      let d := if carried then f.payload else f.payload.drop (extLen f.h f.payload)
      frameEnds (noteAuth (deliver (resyncPlain s f) f Sec.unchecked d) f.src false false) f false (unexpected s f)

/-- What follows from a frame's outcome (R181, R187, R225, R228, R279, R283). -/
def afterBody (s : State) (f : DecFrame) : State :=
  let s := trigger (countLanes s f) (matchHdr f.h f.outcome) f.ts
  if Hdr.label f.h = Lbl.filler then frameEnds (bump s R.LFR_FILLER_CNT) f else
  let s := countSession s f
  let s := match senderOf f with
    | some a => measure s a f.snr f.erased f.decisions (Hdr.rtx f.h)
    | none => s
  let s := if f.isStatic then s else noteReception s f
  -- any frame of the session with another SEQ that passes its CRC-32 ends its entries (R187)
  let s := if f.outcome = 3 ∨ Hdr.len f.h = 0 then s
    else { s with retain := s.retain.filter fun r => !(r.node == f.src && r.key.getD 2 0 != Hdr.seq f.h) }
  if f.outcome = 3 then frameEnds (noteAuth (resyncPlain s f) f.src false false) f
  -- the safe action of COD and LFR: no frames delivered
  else if inSafe s 4 || inSafe s 5 then frameEnds s f
  else if badExt f.h f.payload then frameEnds (bump (resyncPlain s f) R.VET_RTE_DROP_CNT) f
  else if Hdr.enc f.h then { s with frames := fput s.frames s.nextFid f, nextFid := s.nextFid + 1 }
  else routeClear s f

/-- Decode the body of one or more copies of a frame (R185 steps 3 to 5). The copies rise in number. -/
def decodeCopies (s : State) (h : Nat) (l : List (Nat × Recep)) : State :=
  let mode := ((l.head?.map fun e => e.2.rx.mode).getD 0)
  let m := ((l.head?.map fun e => e.2.m).getD 0)
  let d := frameLen s mode (Hdr.len h) + 2
  let cs := l.map fun e => (e.1, e.2.rx)
  match reference m d cs with
  | none => s
  | some r =>
    let (good, bad) := l.partition fun e => agrees m d r (e.1, e.2.rx)
    let s := if bad = [] then s else raise (bump s R.COD_COPY_DROP_CNT bad.length) F.COD_EVT_COPY_DROP
    let again := bad.any fun e => e.2.rx.contrib
    let hs := (good.map fun e => e.2.rx).filter fun f => again || f.contrib
    let h := if again then hdrOf mode hs else h
    let job := (l.head?.bind fun e => e.2.use).map Prod.fst
    let lanes := good.map fun e => e.2.lane
    match good.head? with
    | none => s
    | some (_, g) =>
      if again && !hdrPasses h then
        let s := countHdrFail s lanes hs
        match job with
        | some j => laneGone s j
        | none => s
      else
        let n := bodyLen mode (Hdr.len h)
        let acc := accSum n (good.map fun e => e.2.rx.body.map (·.u))
        let last := good.foldl (fun c e => ((e.2.rx.body.take n).getLast?.map (·.cidx)).getD c) g.rx.cidx
        let (p, o, s) := decodeFrame s mode h last hs acc
        let decs := good.flatMap fun e => e.2.rx.hdr ++ e.2.rx.body.take n
        let snrs : List Int := l.map fun e => e.2.snr
        afterBody s {
          h := h, payload := p, outcome := o, lane := g.lane, mode := mode, ts := g.rx.ts, cidx := g.rx.cidx, k := g.rx.k, hold := g.rx.hold,
          copies := good.length, ofs := g.rx.ofs, snr := rqNear 57 snrs.sum snrs.length, erased := decs.countP (·.erased),
          decisions := decs.length, job := job, lanes := lanes, isStatic := g.isStatic, prof := g.prof }

/-- The last expected copy has ended, or no lane of the exchange is left that could bring a missing one (R185 step 5). -/
def groupReady (s : State) (job mode : Nat) : Bool :=
  (s.recs.any fun r => inGroup job mode r.use r.rx && r.use.any fun u => u.2 + 1 == copiesOf mode) ||
    !(s.lanes.any fun e => e.2.use.any fun u => u.1 == job)

/-- Put copies in order of number. -/
def byCopy (l : List Recep) : List (Nat × Recep) :=
  (l.map fun r => ((r.use.map Prod.snd).getD 0, r)).mergeSort fun a b => Nat.ble a.1 b.1

/-- Two receptions belong to one frame: a group of robust copies, or the same. -/
def sameFrame (r q : Recep) : Bool :=
  match groupOf r.use r.rx with
  | some j => inGroup j r.rx.mode q.use q.rx
  | none => q == r

/-- Where the last symbol of a frame stands in the order in which receptions ended; one that can still bring a copy stands behind them all. -/
def endPlace (s : State) (r : Recep) : Nat :=
  let n := s.recs.length
  let open' := (groupOf r.use r.rx).any fun j => !groupReady s j r.rx.mode
  if open' then n else ((List.range n).zip s.recs).foldl (fun (m : Nat) (e : Nat × Recep) => if sameFrame r e.2 then max m e.1 else m) 0

/-- An earlier frame of the same six items is still to be decoded (R189). -/
def behindSame (s : State) (r : Recep) (h : Nat) : Bool :=
  s.recs.any fun (q : Recep) => !sameFrame r q && (q.rx.h.any fun g => retKey g == retKey h) && Nat.blt (endPlace s q) (endPlace s r)

/-- The lanes of an exchange that are still open are released. -/
def offJob (s : State) (job : Option Nat) : State :=
  match job with
  | some n => ((s.lanes.filter fun e => e.2.use.any fun u => u.1 == n).map Prod.fst).foldl offLane s
  | none => s

/-- BODY_DECODED: the decode of the frame that a lane has ended. The lanes of its group that are still open are released; a copy in reception
there is judged with the others (R185). -/
def execBodyDecoded (l : Fin 256) (s : State) : Answer :=
  if !domainOn s 9 then done s else
  match s.recs.find? fun r => r.lane == l.val && r.rx.h.isSome with
  | none => done s
  | some r =>
    let h := r.rx.h.getD 0
    let job := groupOf r.use r.rx
    if (job.any fun j => !groupReady s j r.rx.mode) || behindSame s r h then done s else
    let s := offJob s job
    let l := s.recs.filter (sameFrame r)
    let s := { s with recs := s.recs.filter fun q => !sameFrame r q }
    if !isSet s F.COD_CTRL_EN then
      match r.use with
      | some (j, _) => done (laneGone s j)
      | none => done s
    else done (decodeCopies s h (byCopy l))

end Sys2Proof.Machine
end

