-- ==== Sys2Proof/Machine/Speedwell.lean ====
section
/-! DEFINITION. Speedwell, the host interface: doorbells, rings, the fetch of a descriptor with the checks of its form, stale
banks, MSI-X, failed host reads, NOP and PM_READ, and the resets of functions (R239, R341 to R356, R367 to R375). -/

namespace Sys2Proof.Machine

/-! ### Functions (R343, R375) -/

/-- The function exists: a virtual one while NumVFs reaches it and VF Enable is 1 (R343). -/
def fnExists (s : State) (fn : Nat) : Bool := fn == 0 || (s.pcie.vfEnable && Nat.ble fn s.pcie.numVfs)

/-- The function's memory space answers: none in D3hot. -/
def fnHere (s : State) (fn : Nat) : Bool := !s.pins.inReset && !s.pcie.d3hot && fnExists s fn

/-- Configuration requests are answered: before step 8 of the boot they receive Configuration Request Retry Status, and no memory space
or MSI-X table is reached without them (R69, R72, R74). -/
def cfgOpen (s : State) : Bool := !s.pins.inReset && !s.pcie.retry

/-- Speedwell answers an access of the function to its doorbells. -/
def doorOpen (s : State) (fn : Nat) : Bool := fnHere s fn && domainOn s 3 && pwrState s != 2 && !bootStopped s

/-- A record is discarded with its ring: a KQ chunk's items are lost of their stream (R20, R352). -/
def loseBanked (s : State) (fn : Nat) (b : BankRec) : State :=
  let s := loseRecord s fn b.ring
  match b.cap with
  | none => s
  | some c =>
    let x := stream s c.stream
    if c.count = 0 then s
    else if x.st ≠ .idle ∧ x.uid = c.uid then loseCount s c.stream c.count c.first
    else raise (bump s R.YAR_LOST_CNT c.count) F.YAR_EVT_LOSS

/-- What waits in the banks for a ring that takes nothing more is discarded and counted (R20, R352). -/
def dropBanked (s : State) (fn r : Nat) : State :=
  let l := bank s fn (ringClass r)
  (l.filter fun b => b.ring == r).foldl (fun s b => loseBanked s fn b) (setBank s fn (ringClass r) (l.filter fun b => b.ring != r))

/-- The ring enters ERROR: the device stops using it (R350, R355); what waits in a bank for it is discarded, completions held (R367). -/
def ringError (s : State) (fn r err : Nat) : State :=
  let s := setRing s fn r { ring s fn r with st := .error, err := err }
  let s := if 32 ≤ r then dropBanked s fn r else s
  raiseFnEvt (raiseBit s R.HQE_EVT fn) fn 1

/-- A doorbell write that counts: the function is enabled, the ring ENABLED and the write covers the slot's first dword;
otherwise DB_IGN (R350). -/
def doorbell (s : State) (fn r : Nat) (whole : Bool) (f : State → State) : State :=
  if !doorOpen s fn then s
  else if !whole || !isSet s (F.HQE_FN_CTRL_EN fn) || (ring s fn r).st != .enabled then raiseFnEvt s fn 2
  else f s

/-- The doorbell of an SQ (R349, R350): the new tail; one out of range, or behind what the ring still holds, puts the ring in ERROR. -/
def tailDoorbell (s : State) (fn sq : Nat) (v : Word) (whole : Bool) : State :=
  doorbell s fn sq whole fun s =>
    let x := ring s fn sq
    let size := ringSize s fn sq
    let v := bits v.toNat 15 0
    let i := x.index % size
    if v ≥ size ∨ (v + size - i) % size < (x.host + size - i) % size then ringError s fn sq 1
    else setRing s fn sq { x with host := v }

/-- SQ_DOORBELL (R349, R350). -/
def execSqDoorbell (fn : Fin 8) (sq : Fin 16) (v : Word) (whole : Bool) (s : State) : Answer := done (tailDoorbell s fn.val sq.val v whole)

/-- Chunks that a capture ring no longer holds: their space in the streams' buffers is free (R329). -/
def freeChunks (s : State) (k n : Nat) : State :=
  let l := fgetD s.kqOwners k []
  let s := { s with kqOwners := fputD s.kqOwners k [] (l.drop n) }
  (l.take n).foldl (fun s i => if 16 ≤ i then s else setStream s i { stream s i with chunks := (stream s i).chunks.drop 1 }) s

/-- Streams that found a capture ring full write the pairs that wait, and the GAP pair of items lost, once room has returned (R329). -/
def gapStreams (s : State) (fn q : Nat) : State :=
  (List.range 16).foldl (fun s i =>
    let x := stream s i
    if x.fn = fn ∧ Prog.mode x.prog = 2 ∧ Prog.ring x.prog = q then putGap s i else s) s

/-- The doorbell of a device-written ring (R350, R367, R372): entries are released; a fill still at the level raises the vector again;
completions held for the ring are written. -/
def releaseDoorbell (s : State) (fn r : Nat) (v : Word) (whole : Bool) : State :=
  doorbell s fn r whole fun s =>
    let x := ring s fn r
    let size := ringSize s fn r
    let v := bits v.toNat 15 0
    let rel := (v + size - x.host % size) % size
    if v ≥ size ∨ ringFill s fn r < rel then ringError s fn r 1
    else
      let s := setRing s fn r { x with host := v }
      let s := if isSet s (F.HQE_RCFG_IEN fn r) && Nat.ble (ringLevel s fn r) (ringFill s fn r)
        then raiseVector s fn (getF s (F.HQE_RCFG_VEC fn r)) else s
      if r < 32 then releaseHeld s.held.length s fn (r - 16)
      else if 40 ≤ r ∧ r < 44 then gapStreams (freeChunks s (fn * 4 + (r - 40)) rel) fn (r - 40)
      else s

/-- HEAD_DOORBELL (R350, R367, R372). -/
def execHeadDoorbell (fn : Fin 8) (r : Fin 45) (v : Word) (whole : Bool) (s : State) : Answer :=
  if r.val < 16 then done s else done (releaseDoorbell s fn.val r.val v whole)

/-- The doorbell of any ring (R347). -/
def ringDoorbell (s : State) (fn r : Nat) (v : Word) (whole : Bool) : State :=
  if r < 16 then tailDoorbell s fn r v whole else releaseDoorbell s fn r v whole

/-! ### Enabling and disabling rings (R348, R351, R352, R373) -/

/-- A command is outstanding that was fetched from an SQ bound to the CQ, or its completion is not yet written (R352). -/
def cqBusy (s : State) (fn cq : Nat) : Bool :=
  (List.range 16).any (fun q => ((ring s fn q).st == .enabled || (ring s fn q).st == .draining) && getF s (F.HQE_RCFG_CQ fn q) == cq) ||
    s.cmds.any (fun c => c.fn == fn && c.cq == cq) || s.held.any (fun h => h.fn == fn && h.cq == cq) ||
    (bank s fn 0).any fun b => b.ring == 16 + cq

/-- A write of HQE_RCFG_r: a reserved SIZE, and a change of SIZE or CQ while EN is 1, are discarded with CFG_ERR; a vector that a
virtual function lacks sets CFG_ERR and acts as 0 (R348, R373, R378). -/
def writeRcfg (s : State) (fn r : Nat) (v : Word) (f : State → Bool → State) : State :=
  let n := v.toNat
  let en := isSet s (F.HQE_RCFG_EN fn r)
  if 10 < bits n 24 21 ∨ (en ∧ (bits n 24 21 ≠ getF s (F.HQE_RCFG_SIZE fn r) ∨ (r < 16 ∧ bits n 28 25 ≠ getF s (F.HQE_RCFG_CQ fn r))))
  then fnCfgErr s fn
  else f (if fn ≠ 0 ∧ 7 < bits n 20 16 then fnCfgErr s fn else s) en

/-- HQE_RCFG_r with its reserved bit 29 as 0. -/
def rcfgWord (v : Word) : Nat := setBits v.toNat 29 29 0

/-- A write of HQE_RCFG_r with EN = 1 (R348, R351): on enable index, fill and wraps are 0 and the phase 1; what was held for a CQ is
written. -/
def ringOn (s : State) (fn r : Nat) (v : Word) : State :=
  writeRcfg s fn r v fun s en =>
    if en then wrN s (R.HQE_RCFG fn r) (rcfgWord v)
    else if 40 ≤ r ∧ r < 44 ∧ !hasGrant s fn then fnCfgErr s fn
    else
      let s := setRing (wrN s (R.HQE_RCFG fn r) (rcfgWord v)) fn r { st := .enabled, phase := true, lost := (ring s fn r).lost }
      if 16 ≤ r ∧ r < 32 then releaseHeld s.held.length s fn (r - 16) else s

/-- A write of HQE_RCFG_r with EN = 0 (R352): an SQ drains, a CQ in use stays enabled, another ring is disabled at once. -/
def ringOff (s : State) (fn r : Nat) (v : Word) : State :=
  writeRcfg s fn r v fun s en =>
    if !en then wrN s (R.HQE_RCFG fn r) (rcfgWord v)
    else if r < 16 then setRing (wrN s (R.HQE_RCFG fn r) (rcfgWord v)) fn r { ring s fn r with st := .draining }
    else if r < 32 && cqBusy s fn (r - 16) then fnCfgErr s fn
    else
      let s := setRing (wrN s (R.HQE_RCFG fn r) (rcfgWord v)) fn r { ring s fn r with st := .disabled }
      let s := if 32 ≤ r then dropBanked s fn r else s
      if 40 ≤ r ∧ r < 44 then freeChunks s (fn * 4 + (r - 40)) (fgetD s.kqOwners (fn * 4 + (r - 40)) []).length else s

/-- RING_ENABLE. -/
def execRingEnable (fn : Fin 8) (r : Fin 45) (v : Word) (s : State) : Answer :=
  if !bit v.toNat 31 || !fnHere s fn.val then done s else done (access s (R.HQE_RCFG fn.val r.val) fun s => ringOn s fn.val r.val v)

/-- RING_DISABLE. -/
def execRingDisable (fn : Fin 8) (r : Fin 45) (v : Word) (s : State) : Answer :=
  if bit v.toNat 31 || !fnHere s fn.val then done s else done (access s (R.HQE_RCFG fn.val r.val) fun s => ringOff s fn.val r.val v)

/-- SQ_DRAINED (R352): a draining SQ none of whose commands remains becomes DISABLED. -/
def execSqDrained (fn : Fin 8) (sq : Fin 16) (s : State) : Answer :=
  let x := ring s fn.val sq.val
  if x.st ≠ .draining ∨ s.cmds.any (fun c => c.fn == fn.val && c.sq == sq.val) ∨ sqUnwritten s fn.val sq.val then done s
  else done (setRing s fn.val sq.val { x with st := .disabled })

/-! ### The form of a descriptor (R353, R354, R356, and R413 to R423 and R441 for the key and quote commands) -/

/-- What an opcode permits. -/
structure OpForm where
  /-- bits of bytes 4 to 7 that may be 1 -/
  res : Nat
  /-- least and greatest LEN, and what LEN is a multiple of; a greatest of 0: BUF is not used and is 0 -/
  lo : Nat
  hi : Nat
  unit : Nat
  /-- alignment of BUF -/
  align : Nat := 1
  /-- bits of bytes 24 to 31 that may be 1, byte 24 lowest -/
  spec : Nat
  deriving DecidableEq, Repr

/-- The forms of Table: Opcodes. Where the table gives no range for LEN, every LEN is in range. -/
def opForm (op : Nat) : Option OpForm :=
  let node := 0x3FFFF
  let any := 0xFFFF_FFFF
  let all := 0xFFFF_FFFF_FFFF_FFFF
  match op with
  | 0x01 => some { res := 0, lo := 0, hi := 0, unit := 1, spec := 0 }
  | 0x10 | 0x11 => some { res := node, lo := 0, hi := 508, unit := 1, spec := 0x033F }
  | 0x12 => some { res := node, lo := 0, hi := 508, unit := 1, spec := 0x3F }
  | 0x13 => some { res := node, lo := 0, hi := 508, unit := 1, spec := 0x0F_FFFF_403F }
  | 0x20 => some { res := node, lo := 64, hi := 64, unit := 1, spec := 0 }
  | 0x21 => some { res := node, lo := 64, hi := 64, unit := 1, spec := all }
  | 0x22 | 0x32 => some { res := node, lo := 0, hi := 0, unit := 1, spec := 0 }
  | 0x23 => some { res := node, lo := 64, hi := 64, unit := 1, spec := 0 }
  | 0x24 => some { res := any, lo := 0, hi := 0, unit := 1, spec := all }
  | 0x25 | 0x41 | 0x46 | 0x51 => some { res := any, lo := 0, hi := 0, unit := 1, spec := 0 }
  | 0x30 | 0x31 => some { res := node, lo := 32, hi := 32, unit := 1, spec := 0 }
  | 0x38 => some { res := 0x8003_FFFF, lo := 64, hi := 6208, unit := 1, align := 16, spec := 0xFF_FFFF }
  | 0x40 => some { res := 0, lo := 64, hi := 64, unit := 1, spec := 0 }
  | 0x42 | 0x54 | 0x55 => some { res := any, lo := 0, hi := 0, unit := 1, spec := 0xFFFF }
  | 0x43 | 0x44 => some { res := 0, lo := 0, hi := any, unit := 16, align := 16, spec := all }
  | 0x45 => some { res := any, lo := 0, hi := 0, unit := 1, spec := all }
  | 0x50 => some { res := any, lo := 64, hi := 64, unit := 1, spec := 0x01_FFFF }
  | 0x52 | 0x53 => some { res := any, lo := 0, hi := any, unit := 1, spec := 0xFFFF_FFFF_FFFF_0007 }
  | 0x58 => some { res := any, lo := 0, hi := any, unit := 1, spec := 0 }
  | 0x59 => some { res := 0, lo := 0, hi := any, unit := 1, spec := 0 }
  | 0x5A => some { res := any, lo := 64, hi := 64, unit := 1, spec := 0xFFFF_FFFF_FF01_FFFF }
  | 0x60 => some { res := 0, lo := 32, hi := 32, unit := 1, spec := 0x01 }
  | _ => none

/-- `x` has no bit outside `m`. -/
def within (x m : Nat) : Bool := Nat.lor x m == m

/-- First of bytes 24 to 31 with a bit that its opcode does not use. -/
def badSpec (c : Cmd) (m : Nat) : Option Nat := (List.range' 24 8).find? fun i => !within (D.at c i 1) (m / 2 ^ (8 * (i - 24)) % 256)

/-- Fields whose permitted values the opcode's own rule gives (R356, R419). -/
def badField (c : Cmd) : Option Nat :=
  match D.op c with
  | 0x38 =>
    if bit (D.res c) 31 ∧ 255 < D.res c % 2 ^ 31 then some 4
    else if 2 < D.at c 24 1 then some 24
    else if D.at c 26 1 = 0 ∨ 97 < D.at c 26 1 then some 26
    else none
  | 0x52 | 0x53 =>
    if bit (D.at c 24 1) 0 then none
    else if D.res c ≠ 0 then some 4
    else if D.at c 28 2 ≠ 0 then some 28
    else if D.at c 30 2 ≠ 0 then some 30
    else none
  | _ => none

/-- The byte offset of the first field found bad, if any (R354). DEADLINE is a field of every descriptor and is not checked (log
entry 44). -/
def descBad (c : Cmd) : Option Nat :=
  match opForm (D.op c) with
  | none => some 0
  | some f =>
    if 3 < D.at c 1 1 then some 1
    else if !within (D.res c) f.res then some 4
    else if badField c = some 4 then some 4
    else if (f.hi = 0 ∧ D.buf c ≠ 0) ∨ D.buf c % f.align ≠ 0 then some 8
    else if D.len c < f.lo ∨ f.hi < D.len c ∨ D.len c % f.unit ≠ 0 then some 16
    else match badSpec c f.spec, badField c with
      | some a, some b => some (min a b)
      | a, b => a.or b

/-! ### The fetch (R353 to R355, R367) -/

/-- Commands of a function fetched and not final, those whose final completion is held among them (R367). -/
def outstanding (s : State) (fn : Nat) : Nat :=
  (s.cmds.filter fun c => c.fn == fn).length + (s.held.filter fun h => h.fn == fn && h.isFinal).length

/-- Speedwell may fetch the next descriptor of an SQ: the ring is enabled and not empty, the function may fetch, its CQ holds no
completion, and no FENCE command waits to start (R80, R353, R367, R375). -/
def fetchable (s : State) (fn sq : Nat) : Bool :=
  doorOpen s fn && isSet s (F.HQE_FN_CTRL_EN fn) && (ring s fn sq).st == .enabled && (ring s fn sq).index != (ring s fn sq).host &&
    Nat.blt (outstanding s fn) 4096 && !(s.held.any fun h => h.fn == fn && h.cq == getF s (F.HQE_RCFG_CQ fn sq)) &&
    !(s.cmds.any fun c => c.fn == fn && c.sq == sq && D.fence c && c.st == .fetched) && !inSafeAt s 11 fn && s.pwr.resetAt.isNone

/-- The first of `n` numbers after `last`, taken round, that passes. -/
def turn (last n : Nat) (ok : Nat → Bool) : Option Nat := ((List.range n).map fun i => (last + 1 + i) % n).find? ok

/-- The SQ whose descriptor is fetched next: the functions in turn, and of each its SQs in turn, one descriptor a visit (R367). -/
def nextFetch (s : State) : Option (Nat × Nat) :=
  (turn s.pcie.visitFn 8 fun f => (List.range 16).any (fetchable s f)).bind fun f =>
    (turn (fgetD s.pcie.visitSq f 15) 16 (fetchable s f)).map fun q => (f, q)

/-- The fetch has visited an SQ. -/
def visited (s : State) (fn sq : Nat) : State :=
  { s with pcie := { s.pcie with visitFn := fn, visitSq := fput s.pcie.visitSq fn sq } }

/-- A failed host read is counted and flagged (R355). -/
def dmaErr (s : State) (fn : Nat) : State := raiseFnEvt (bump s R.HQE_DMA_ERR_CNT) fn 3

/-- The descriptor read of an SQ fails: the SQ goes to ERROR (R355). -/
def fetchErr (s : State) (fn sq : Nat) : State := ringError (dmaErr (visited s fn sq) fn) fn sq 2

/-- Commands that read a buffer of the host: not those that use none or only write one (R355, R356). -/
def readsBuf (c : Cmd) : Bool := D.len c != 0 && !([0x23, 0x30, 0x38, 0x43].contains (D.op c))

/-- A fetched command of good form begins: it ends at once where nothing of its kind may run; else it waits for its own
row. -/
def beginCmd (s : State) (c : Cmd) : State :=
  if startable s c then
    match cmdBar s c with
    | some (st, d) => complete s c st d 0
    | none => s
  else s

/-- DESCRIPTOR_FETCH: the read of the descriptor whose turn it is arrives and is checked. -/
def execDescriptorFetch (fn : Fin 8) (sq : Fin 16) (desc : List Byte) (err : Bool) (s : State) : Answer :=
  if nextFetch s ≠ some (fn.val, sq.val) then done s
  else if err then done (fetchErr s fn.val sq.val)
  else
    let x := ring s fn.val sq.val
    let c : Cmd := { uid := s.nextUid, fn := fn.val, sq := sq.val, cq := getF s (F.HQE_RCFG_CQ fn.val sq.val), desc := slice desc 0 32,
                     fetchTb := tbNow s, fetchCidx := cidxNow s, tenBad := s.crc.tenBad }
    let s := setRing (visited s fn.val sq.val) fn.val sq.val { x with index := (x.index + 1) % ringSize s fn.val sq.val }
    let s := { s with cmds := s.cmds ++ [c], nextUid := s.nextUid + 1 }
    match descBad c with
    | some off => done (malformed s c off)
    | none => done (beginCmd s c)

/-- COMPLETION_TIMEOUT (R355): of a buffer read, FAULT with HOST_DMA; of a descriptor fetch, the SQ goes to ERROR. -/
def execCompletionTimeout (fn : Fin 8) (sq : Fin 16) (uid : Option Nat) (s : State) : Answer :=
  match uid with
  | none => if nextFetch s = some (fn.val, sq.val) then done (fetchErr s fn.val sq.val) else done s
  | some u =>
    match findCmd s u with
    | some c => if c.fn = fn.val ∧ startable s c ∧ readsBuf c then done (complete (dmaErr s c.fn) c St.fault Det.dma 0) else done s
    | none => done s

/-- BANK_STALE (R366, R370, R371): a filling bank that holds a record for its stale time is closed and drained, the completions after the
receive records. -/
def execBankStale (fn : Fin 8) (cls : Fin 4) (s : State) : Answer :=
  if !bankDue s fn.val cls.val then done s
  else done (drainClass s fn.val cls.val)

/-! ### MSI-X (R373) -/

/-- Send the messages that are pending and no longer masked. -/
def sendPending (s : State) (fn : Nat) : State :=
  (List.range 32).foldl (fun s v =>
    let p := (fgetD s.pcie.pba fn 0).toNat
    if bit p v && vectorOpen s fn v
    then post { s with pcie := { s.pcie with pba := fputD s.pcie.pba fn 0 (BitVec.ofNat 32 (setBits p v v 0)) } } (msixMessage s fn v)
    else s) s

/-- MSIX_UNMASK: MSI-X Enable is set, the Function Mask or a vector's mask is cleared; pending messages go out. -/
def execMsixUnmask (fn : Fin 8) (what : Fin 3) (vec : BitVec 5) (s : State) : Answer :=
  if !fnHere s fn.val || !cfgOpen s then done s else
  let p := s.pcie
  let p := match what.val with
    | 0 => { p with msixEn := BitVec.ofNat 8 (setBits p.msixEn.toNat fn.val fn.val 1) }
    | 1 => { p with fnMask := BitVec.ofNat 8 (setBits p.fnMask.toNat fn.val fn.val 0) }
    | _ =>
      let m := (fgetD p.vecMask fn.val 0xFFFF_FFFF).toNat
      { p with vecMask := fputD p.vecMask fn.val 0xFFFF_FFFF (BitVec.ofNat 32 (setBits m vec.toNat vec.toNat 0)) }
  done (sendPending { s with pcie := p } fn.val)

/-! ### NOP and PM_READ (R239, R243, R356) -/

/-- NOP. -/
def execNop (uid : Nat) (s : State) : Answer := done (withCmd s uid 0x01 fun s c => complete s c St.done 0 0)

/-- The records a PM_READ reads from: an object's bins from FIRST on, or a session's checkpoint. -/
def pmRecords (s : State) (res kind first : Nat) : List (List Byte) :=
  let lane := bit res 31
  if kind = 2 then (if lane then [] else
    ((ckptFind s res).toList.map fun i => readRow s (i / 64) (i % 64)).drop first)
  else
    let key := if lane then res % 256 else pmNode res
    match fget s.pm key with
    | some x => ((pmBins x (kind == 1)).drop first).map (binRecord (if lane then res % 256 else res))
    | none => []

/-- PM_READ: as many whole records as there are, as COUNT asks and as LEN holds; DONE_PARTIAL when they are fewer than COUNT. -/
def execPmRead (uid : Nat) (s : State) : Answer :=
  done (withCmd s uid 0x38 fun s c =>
    let r := D.res c
    let n := D.at c 26 1
    if c.fn ≠ 0 ∧ (bit r 31 ∨ ownerOf s r ≠ c.fn) then notOwned s c
    else
      let l := (pmRecords s r (D.at c 24 1) (D.at c 25 1)).take (min n (D.len c / 64))
      let s := if l = [] then s else post s (.hostWrite c.fn (D.buf c) l.flatten)
      complete s c (if l.length < n then St.donePartial else St.done) 0 (64 * l.length))

/-! ### Resets of functions (R374, R375) -/

/-- Offsets of a function's window. -/
def inWindow (fn off : Nat) : Bool := Nat.ble (0x8000 + 0x1000 * fn) off && Nat.blt off (0x9000 + 0x1000 * fn)

/-- The function's records and rings are gone; its MSI-X state is at reset. -/
def clearRings (s : State) (fn : Nat) : State :=
  { s with
    rings := s.rings.filter fun e => e.1 / 64 != fn
    banks := s.banks.filter fun e => e.1 / 4 != fn
    held := s.held.filter fun h => h.fn != fn
    kqOwners := s.kqOwners.filter fun e => e.1 / 4 != fn
    pcie := { s.pcie with
      msixEn := BitVec.ofNat 8 (setBits s.pcie.msixEn.toNat fn fn 0), fnMask := BitVec.ofNat 8 (setBits s.pcie.fnMask.toNat fn fn 0),
      vecMask := fdel s.pcie.vecMask fn, pba := fdel s.pcie.pba fn, table := s.pcie.table.filter fun e => e.1 / 128 != fn } }

/-- The commands of a function end without completions; what has not begun is withdrawn (R374 items 2 and 4). -/
def abortCmds (s : State) (p : Cmd → Bool) : State :=
  let cs := s.cmds.filter p
  let s := cs.foldl (fun s c => withdrawUnbegun s c.uid) s
  { s with
    cmds := s.cmds.filter fun c => !p c
    sec := { s.sec with pkq := s.sec.pkq.filter fun o => !(cs.any fun c => c.uid == o.uid) } }

/-- R374: the effects of a function-level reset of one function. The event goes out first: function 0's own is lost with its rings. -/
def resetFn (s : State) (fn : Nat) : State :=
  let n := outstanding s fn
  let s := eventNow s 0 0x0009 fn (BitVec.ofNat 8 fn :: toLE 2 n)
  let s := abortCmds (clearRings s fn) fun c => c.fn == fn
  let s := endStreams s (fun x => x.fn == fn) 0 none
  let s := stopPlayers s (fun _ x => x.fn == fn) St.aborted 0
  let s := clearRings s fn
  let s := resetRegs s fun o => inWindow fn o && o != R.HQE_FN_FLR fn
  let s := { s with par := { s.par with
    mainBad := s.par.mainBad.filter fun o => !inWindow fn o, shadowBad := s.par.shadowBad.filter fun o => !inWindow fn o } }
  bump (setF s (F.HQE_FN_FLR_ABORTED fn) n) R.HQE_FLR_CNT

/-- Functions 7 to 0 are reset, function 0 last. -/
def resetFns (s : State) : State := (List.range 8).reverse.foldl resetFn s

/-- FUNCTION_LEVEL_RESET (R374, R375): of function 0, VF Enable is cleared and all eight functions are reset. -/
def execFunctionLevelReset (fn : Fin 8) (s : State) : Answer :=
  if !fnExists s fn.val || !cfgOpen s then done s
  else if fn.val = 0 then done (resetFns { s with pcie := { s.pcie with vfEnable := false } })
  else done (resetFn s fn.val)

/-- D3HOT_ENTRY (R375): the effects of R374 on functions 0 to 7. -/
def execD3hotEntry (s : State) : Answer :=
  if s.pcie.d3hot || !cfgOpen s then done s else done (resetFns { s with pcie := { s.pcie with d3hot := true } })

/-- D0_RETURN (R375): function 0's configuration space takes its reset values, VF Enable among them. -/
def execD0Return (s : State) : Answer :=
  if !s.pcie.d3hot then done s
  else done { clearRings s 0 with pcie := { (clearRings s 0).pcie with d3hot := false, vfEnable := false, numVfs := 0 } }

/-- VF_ENABLE_CLEAR (R375): each virtual function that existed is reset. -/
def execVfEnableClear (s : State) : Answer :=
  if !s.pcie.vfEnable then done s
  else done ((List.range' 1 s.pcie.numVfs).foldl resetFn { s with pcie := { s.pcie with vfEnable := false } })

/-- VF_ENABLE_SET (R74, R343, R375): the virtual functions are created with their windows at reset values; with the boot stopped TotalVFs
is 0 and none can be enabled. -/
def execVfEnableSet (n : Fin 8) (s : State) : Answer :=
  if s.pcie.vfEnable || !cfgOpen s || bootStopped s then done s
  else
    let s := resetRegs s fun o => (List.range' 1 n.val).any fun fn => inWindow fn o && o != R.HQE_FN_FLR fn
    done { s with pcie := { s.pcie with vfEnable := true, numVfs := n.val } }

end Sys2Proof.Machine
end

