-- ==== Sys2Proof/Machine/Registers.lean ====
section
/-! DEFINITION. The register decoder of BAR0: what a read of each register shows, what reading it does, and what a write of it does
(R6 to R9, R86 to R88, R346, R499 to R502). Power requests and fuse programming are added in Access.lean. -/

namespace Sys2Proof.Machine

/-! ### What a read shows -/

/-- Words of a block's array: the index of an offset in it. -/
def idxOf (off base stride : Nat) : Nat := (off - base) / stride

/-- A bitmap word: bit b shows `p (32 × w + b)`. -/
def bitmap (w : Nat) (p : Nat → Bool) : Nat := ((List.range 32).map fun b => b2n (p (32 * w + b)) * 2 ^ b).sum

/-- One bit per phase or function. -/
def maskOf (n : Nat) (p : Nat → Bool) : Nat := ((List.range n).map fun b => b2n (p b) * 2 ^ b).sum

/-- Lanes with a property. -/
def lanesWith (s : State) (p : Lane → Bool) : Nat := ((List.range 256).filter fun l => p (lane s l)).length

/-- HVCORE source (R46): 1 VDRV, 2 VISO5, 0 none. -/
def hvSrc (s : State) : Nat := if s.pins.vdrv then 1 else if s.pins.viso5 then 2 else 0

/-- GLB_FAULT_SUM: the flags stored and the conditions shown (R512). -/
def faultSum (s : State) : Nat :=
  let w := rdN s R.GLB_FAULT_SUM
  let put := fun (w : Nat) (b : Nat) (v : Bool) => setBits w b b (b2n v)
  put (put (put (put (put (put w 20 (s.nvs.banks.any fun e => e.2.ro)) 19 ((List.range 3).any (txf s))) 18 (loms s))
    11 (rdN s R.GLB_CFG_PARITY != 0)) 9 s.rel.hvLost) 8 s.rel.fiveLane

/-- FAULT# is driven low (R513). -/
def faultPin (s : State) : Bool :=
  Nat.land (faultSum s) (rdN s R.GLB_FAULT_MASK) != 0 || getF s F.GLB_STATUS_BOOT_PHASE != 15 || inSafe s 14 || s.pins.testHalt

/-- CPL_x sinks: the phase is coupled and HVCORE is powered, which it is in neither Backup nor Off (R54). DESIGN CHOICE (log entry 123):
through a power-on reset the outputs are off, whatever supplies HVCORE, since no register then says that a phase is coupled. -/
def cplPin (s : State) (p : Nat) : Bool := coupled s p && domainOn s 17

/-- Teasel's status of an input (R135). -/
def tslStatus (s : State) (i : Nat) : Nat :=
  let x := rxIn s i
  let hold := isSet s F.MSY_STATUS_HOLD
  let isVoid := s.mains.voidNow
  let minc := max 1 (getF s (F.TSL_CFG_MINC i))
  let ready := fun (b : Nat) => Nat.ble minc (binAt x b).2
  let n := binsOf x.res
  fieldsOf [((x.tmpl.filter fun e => Nat.ble minc e.2.2).length, 16), (b2n (inSafeAt s 2 i), 4), (b2n (hold || isVoid || regaining s), 3),
    (getF s (F.TSL_CFG_FREEZE i), 2), (b2n (isSet s (F.RXF_CTRL_EN i) && adaptOn s i hold isVoid), 1),
    (b2n (isSet s (F.RXF_CTRL_EN i) && subOn s i hold isVoid && x.tmpl.any fun e => ready e.1 && ready ((e.1 + 1) % n)), 0)]

/-- Registers of the GLB, PWR and CLK blocks that are not plain words. -/
def viewGlobal (s : State) (off : Nat) : Option Nat :=
  if off = R.GLB_FAULT_SUM then some (faultSum s)
  else if off = R.PWR_SUPPLY then some (fieldsOf [(b2n s.pins.pfwLow, 7), (hvSrc s, 4), (b2n s.pins.hvPg, 3), (b2n s.pins.viso5, 2), (b2n s.pins.vdrv, 1)])
  else if off = R.CLK_TK_OFS then some (if isSet s F.CLK_STATUS_TK_HOLD then 0 else freeNat s 16)
  else if R.CLK_FMON 0 ≤ off ∧ off ≤ R.CLK_FMON 11 then
    some (if idxOf off (R.CLK_FMON 0) 4 ≤ 10 ∧ bit (getF s F.CLK_STATUS_LOCK) (idxOf off (R.CLK_FMON 0) 4) = false then 0 else freeNat s 24)
  else none

/-- Registers of the MSY, RXF and TSL blocks that are not plain words. -/
def viewReceive (s : State) (off : Nat) : Option Nat :=
  if off = R.MSY_TB_LO then some (tbNow s % 2 ^ 32)
  else if off = R.MSY_STATUS then some (setBits (rdN s off) 7 7 (b2n (linDefault s)))
  else if off = R.MSY_COEF_DATA then
    -- DESIGN CHOICE (log entry 124): with PHASE 3 or I above 5 no coefficient is selected, and what is read is free
    if getF s F.MSY_COEF_IDX_PHASE = 3 ∨ 5 < getF s F.MSY_COEF_IDX_I then some (freeNat s 32) else
    some (coefAt s (getF s F.MSY_COEF_IDX_BANK) (getF s F.MSY_COEF_IDX_PHASE) (getF s F.MSY_COEF_IDX_I) (getF s F.MSY_COEF_IDX_J)).toNat
  else if 0x1000 ≤ off ∧ off < 0x1400 then
    let i := idxOf off 0x1000 0x100
    if off = R.RXF_COEF_DATA i then
      some (wrap 32 (sext 18 (fgetD (rxIn s i).coef (getF s (F.RXF_COEF_IDX_BANK i) * 512 + getF s (F.RXF_COEF_IDX_TAP i)) 0).toNat))
    else if off = R.RXF_NOISE i then some (sqrtFree (rxIn s i).m)
    else none
  else if 0x1800 ≤ off ∧ off < 0x1900 then
    let i := idxOf off 0x1800 0x40
    if off = R.TSL_STATUS i then some (tslStatus s i)
    else if off = R.TSL_TPL_DATA i then some (readTmpl s i false).readData.toNat else none
  else none

/-- Registers of the CMP, COD, TXS and LFR blocks that are not plain words. -/
def viewLine (s : State) (off : Nat) : Option Nat :=
  if off = R.CMP_STATUS then some (fieldsOf [
    (lanesWith s fun x => x.own == 1 && x.idle && x.withdraw.isNone, 18), (lanesWith s fun x => x.st == .track, 9), (lanesWith s fun x => x.st == .search, 0)])
  else if off = R.CMP_TP_DATA then some (tone s (getF s F.CMP_TP_IDX_BANK) (getF s F.CMP_TP_IDX_PAIR))
  else if R.CMP_LW 0 ≤ off ∧ off ≤ R.CMP_LW 4 then
    let x := lane s (winLane s)
    some (([x.w0, x.w1, x.w2, x.w3, x.w4].getD (idxOf off (R.CMP_LW 0) 4) 0).toNat)
  else if off = R.CMP_LW 6 then some (lw6 (lane s (winLane s)) (inSafeAt s 3 (winLane s)))
  else if off = R.COD_STATUS then some s.retain.length
  else if off = R.TXS_STATUS then some (fieldsOf [(b2n s.pins.vdrvLow, 10), (b2n s.pins.vdrv, 9), (maskOf 3 fun p => domainOn s (18 + p), 6),
    (maskOf 3 (txf s), 3), (maskOf 3 fun p => phaseMuted s p, 0)])
  else if 0x2440 ≤ off ∧ off < 0x2500 then
    let p := idxOf off 0x2440 0x40
    let t := txPh s p
    if off = R.TXS_TXF p then
      some (setBits (rdN s off) 4 0 (b2n t.oc + 2 * b2n t.therm + 4 * b2n t.uv + 8 * b2n t.pg + 16 * b2n s.rel.hvLost))
    else if off = R.TXS_ACT p then some (fieldsOf [(activeOn s p, 24), (t.ncap, 16), (levelOf s p, 0)])
    else none
  else if off = R.LFR_STATUS then some (fieldsOf [(lanesWith s fun x => x.cont && x.fst == .sync, 16), (lanesWith s fun x => x.lof, 0)])
  else if off = R.LFR_DEF_DEV then some (fieldsOf [(maskOf 3 (txf s), 8), (maskOf 4 fun i => (rxIn s i).los, 4), (b2n (loms s), 0)])
  else if off = R.LFR_LANE_CFG then some (lane s (getF s F.LFR_LANE_IDX_LANE)).cfg.toNat
  else if off = R.LFR_LANE_STAT then
    let x := lane s (getF s F.LFR_LANE_IDX_LANE)
    some (fieldsOf [(x.miss % 16, 8), (b2n x.plm, 6), (b2n x.lof, 5), (b2n x.lol, 4),
      (match x.fst with | .idle => 0 | .hunt => 1 | .presync => 2 | .sync => 3, 0)])
  else if off = R.LFR_SESS_DEF then some (fieldsOf [(satN 0xFFFF (s.sessions.filter fun e => e.2.authd).length, 16),
    (satN 0xFFFF (s.sessions.filter fun e => e.2.supv).length, 0)])
  else if off = R.LFR_SESS_PLM then some (satN 0xFFFF (s.sessions.filter fun e => e.2.plm).length)
  else if R.LFR_LOL 0 ≤ off ∧ off ≤ R.LFR_LOL 7 then some (bitmap (idxOf off (R.LFR_LOL 0) 4) fun l => (lane s l).lol)
  else if R.LFR_LOF 0 ≤ off ∧ off ≤ R.LFR_LOF 7 then some (bitmap (idxOf off (R.LFR_LOF 0) 4) fun l => (lane s l).lof)
  else if R.LFR_PLM 0 ≤ off ∧ off ≤ R.LFR_PLM 7 then some (bitmap (idxOf off (R.LFR_PLM 0) 4) fun l => (lane s l).plm)
  else none

/-- Registers of the MAC, VET, YAR and TEN blocks that are not plain words. -/
def viewAccess (s : State) (off : Nat) : Option Nat :=
  if off = R.MAC_STATUS then some (fieldsOf [(maskOf 8 fun i => (fget s.quiets i).any fun q => q.state == 2, 24), (s.sessions.length, 0)])
  else if 0x2D00 ≤ off ∧ off < 0x2D80 ∧ off % 16 = 12 then some (bandUsed s (idxOf off 0x2D00 16))
  else if off = R.VET_STATUS then some (fieldsOf [(b2n s.mesh.dirty, 31), (s.mesh.routes.length, 0)])
  else if off = R.VET_DIR_STATUS then some (fieldsOf [(s.mesh.stash.length, 24), (s.mesh.tables.length + s.mesh.stash.length, 0)])
  else if off = R.YAR_STATUS then some (setBits (fieldsOf [((s.streams.filter fun e => e.2.st == .armed).length, 16),
    ((s.streams.filter fun e => e.2.st == .capturing || e.2.st == .tail).length, 8),
    (maskOf 7 fun p => (player s p).st == .playing, 0)]) 31 31 (getF s F.YAR_STATUS_REGION_OK))
  else if off = R.TEN_STATUS then
    let locked := isSet s F.GLB_LOCK_TEN
    some (fieldsOf [(b2n (locked && getF s F.TEN_STATUS_BAD == 0), 31), (b2n locked, 30), (getF s F.TEN_STATUS_CONF, 16), (getF s F.TEN_STATUS_BAD, 0)])
  else if 0x3E40 ≤ off ∧ off < 0x3EC0 then
    let n := idxOf off 0x3E40 16
    if off = R.TEN_USE_SESS n then
      some (fieldsOf [((s.retain.filter fun r => r.fn == n).length, 17), ((s.sessions.filter fun e => e.2.fn == n).length, 0)])
    else if off = R.TEN_USE_RC n then
      some (fieldsOf [(satN 0xFFFF (fgetD s.air.spare (rcKey n (frameOf s (slotNow s))) 0), 16), (satN 0xFFFF (rcOf s n (slotNow s)), 0)])
    else none
  else none

/-- State code of a ring. -/
def RingSt.num : RingSt → Nat
  | .disabled => 0
  | .enabled => 1
  | .draining => 2
  | .error => 3

/-- Registers of the HQE block and the function windows that are not plain words. -/
def viewHost (s : State) (off : Nat) : Option Nat :=
  if off = R.HQE_STATUS then some (fieldsOf [(if s.pcie.vfEnable then s.pcie.numVfs else 0, 16), (s.pcie.speed, 8), (s.pcie.lanes, 0)])
  else if off < 0x8000 then none
  else
    let fn := idxOf off 0x8000 0x1000
    let o := off % 0x1000
    if off = R.HQE_FN_STATUS fn then some (fieldsOf [(b2n (s.held.any fun h => h.fn == fn), 18), (b2n (inSafeAt s 11 fn), 17),
      (b2n (hasGrant s fn), 16), (outstanding s fn, 0)])
    else if 0x100 ≤ o ∧ o < 0x3D0 ∧ o % 16 = 12 then
      let x := ring s fn (idxOf o 0x100 16)
      some (fieldsOf [(x.st.num, 30), (b2n x.phase, 29), (x.err, 26), (x.index, 0)])
    else none

/-- The device seed and its copy never read (R428). -/
def seedWord (w : Nat) : Bool := (Nat.ble 0x041 w && Nat.ble w 0x048) || (Nat.ble 0x141 w && Nat.ble w 0x148)

/-- Registers of the SEC, ATT, OTP, NVS and REL blocks and of the ports that are not plain words. -/
def viewTrust (s : State) (off : Nat) : Option Nat :=
  if off = R.SEC_STATUS then some (fieldsOf [(s.sec.cache.length, 16), (s.sec.sram.length, 8), (b2n (inSafe s 12), 2), (b2n s.sec.pkRun.isSome, 1),
    (b2n s.sec.storeOk, 0)])
  else if R.SEC_BSRC 0 ≤ off ∧ off ≤ R.SEC_BSRC 15 then
    some (setBits (rdN s off) 30 30 (b2n (bsrc s (idxOf off (R.SEC_BSRC 0) 4)).opened))
  else if off = R.ATT_MEAS_DATA then
    let k := getF s F.ATT_MEAS_IDX_WORD
    some (if k ≥ 12 then 0 else leAt (toBE 48 (fgetD s.boot.meas (getF s F.ATT_MEAS_IDX_SLOT) 0)) (4 * k) 4)
  else if off = R.OTP_DATA then some (if seedWord (getF s F.OTP_IDX_WORD) then 0 else fuse s (getF s F.OTP_IDX_WORD))
  else if off = R.OTP_WSTAT then
    let w := getF s F.OTP_IDX_WORD
    let cp := if w < 0x100 then (if 0x080 ≤ w ∧ w < 0x0C0 then w + 0x40 else w + 0x100) else w
    some (fieldsOf [(b2n (cp != w && s.boot.marg.contains cp), 3), (b2n (s.boot.marg.contains w), 2), (fgetD s.boot.src w 0, 0)])
  else if R.OTP_MARG 0 ≤ off ∧ off ≤ R.OTP_MARG 15 then some (bitmap (idxOf off (R.OTP_MARG 0) 4) fun w => s.boot.marg.contains w)
  else if off = R.NVS_STATUS then
    let ro := (s.nvs.banks.filter fun e => e.2.ro).length
    some (fieldsOf [(b2n (nvsReady s), 31), (b2n (ro != 0), 30), (b2n (runningWrite s).isSome, 29), (b2n s.pins.pfwLow, 28),
      (if nvsReady s then 8192 - 4 * ro else 0, 0)])
  else if off = R.NVS_SPARE then some (spareRows s)
  else if off = R.NVS_RO_MAP then some (bitmap (getF s F.NVS_RO_IDX_WORD) fun b => (nbank s b).ro)
  else if off = R.UART_STATUS then some (fieldsOf [(b2n (s.uart.xoff || s.uart.coll), 16), (b2n s.uart.muted, 15), (s.uart.tx.length, 8), (s.uart.rx.length, 0)])
  else if off = R.UART_RXD then some (s.uart.rx.headD 0)
  else if off = R.I2C_RDATA then some (if s.i2c.rd = [] then 0 else 256 + (s.i2c.rd.headD 0).toNat)
  else if off = R.RTC_SEC_LO then some (s.rtc.sec % 2 ^ 32)
  else if off = R.I2C_STATUS then some (setBits (rdN s off) 7 6 (freeNat s 2))
  else if 0x6800 ≤ off ∧ off < 0x7000 ∧ off % 32 = 0 then some ((fgetD s.rel.log (idxOf off 0x6800 32) []).headD 0).toNat
  else if 0x6800 ≤ off ∧ off < 0x7000 then some ((fgetD s.rel.snap (idxOf off 0x6800 32) []).getD (idxOf (off % 32) 0 4) 0).toNat
  else none

/-- The word a read of an offset shows; write-only registers and unused offsets read 0 (R6, R501). -/
def viewReg (s : State) (off : Nat) : Nat :=
  ((viewGlobal s off).orElse fun _ => (viewReceive s off).orElse fun _ => (viewLine s off).orElse fun _ => (viewAccess s off).orElse fun _ =>
    (viewHost s off).orElse fun _ => viewTrust s off).getD (rdN s off)

/-! ### Reads -/

/-- A whole-dword read of an offset whose block answers: the word, and the side effect of the read (R6 RC, R107, R115, R136, R168, R462, R472,
R477, R501, R515). -/
def readReg (s : State) (off : Nat) : State :=
  if off = R.MSY_CIDX then readCidx s
  else if off = R.MSY_TB_LO then readTimebase s
  else if off = R.RTC_SEC_LO then readRtc s
  else if off = R.CMP_LW 6 then readLane s
  else if off = R.UART_RXD then uartPop s
  else if off = R.I2C_RDATA then i2cPop s
  else if 0x1800 ≤ off ∧ off < 0x1900 ∧ off % 0x40 = 0x14 then readTmpl s (idxOf off 0x1800 0x40) false
  else if 0x6800 ≤ off ∧ off < 0x7000 ∧ off % 32 = 0 then readLog s (idxOf off 0x6800 32)
  else
    match regAt off with
    | some d =>
      let s := usedFree { s with readData := BitVec.ofNat 32 (viewReg s off) }
      if d.rc then wrN s off 0 else s
    | none => { s with readData := 0 }

/-! ### Writes -/

/-- Bits of `x` that are not in `m`. -/
def without (x m : Nat) : Nat := x - Nat.land x m

/-- A write by the access codes of the register's bits (R6, R8). -/
def plainWrite (s : State) (d : RegDef) (off : Nat) (v : Word) : State :=
  let n := Nat.lor (without (rdN s off) d.rw) (Nat.land v.toNat d.rw)
  wrN s off (Nat.lor (without n (Nat.land v.toNat d.w1c)) (Nat.land v.toNat d.w1s))

/-- The register is locked (R7, R86). -/
def lockedReg (s : State) (d : RegDef) : Bool := d.lock != 0 && d.rw != 0 && bit (rdN s R.GLB_LOCK) (d.lock - 1)

/-- MSY_CTRL is written: each field that changes acts (R93, R101, R103, R109). -/
def writeMsyCtrl (s : State) (v : Word) : State :=
  let n := v.toNat
  let s := setF s F.MSY_CTRL_AUTOREF (bits n 3 3)
  let s := if bit n 6 = isSet s F.MSY_CTRL_COEF_BANK then s else selectBank s (bit n 6)
  let s := if bits n 5 4 = getF s F.MSY_CTRL_LBW then s else selectLbw s (BitVec.ofNat 2 (bits n 5 4))
  let s := if bits n 2 1 = getF s F.MSY_CTRL_REFPH then s else selectRef s (BitVec.ofNat 2 (bits n 2 1))
  if bit n 0 = isSet s F.MSY_CTRL_EN then s else writeTrackerEn s (bit n 0)

/-- MSY registers with an effect of their own. -/
def writeMsy (s : State) (off : Nat) (v : Word) : Option State :=
  if off = R.MSY_CTRL then some (writeMsyCtrl s v)
  else if off = R.MSY_SNS_CFG then some (writeSnsCfg s v)
  else if off = R.MSY_COEF_DATA then some (writeCoefData s v)
  else if off = R.MSY_TB_CMD then some (if v = 1 then stepTimebase s (stepValue s) else if v = 2 then armStep s else s)
  else if off = R.MSY_TB_ADJ then some (writeAdj s v)
  else if off = R.MSY_PPS_CTRL then some (selectPps s (BitVec.ofNat 2 (bits v.toNat 1 0)))
  else none

/-- RXF_CTRL_x is written: enabling the blanker seeds it anew (R121, R139). -/
def writeRxCtrl (s : State) (i : Nat) (v : Word) : State :=
  let n := v.toNat
  let was := isSet s (F.RXF_CTRL_BLANK_EN i)
  let s := wrN s (R.RXF_CTRL i) (bits n 3 1 * 2 + getF s (F.RXF_CTRL_EN i))
  let s := if bit n 3 && !was then updRx s i reseed else s
  enableInput s i (bit n 0)

/-- RXF and TSL registers with an effect of their own (R122, R129, R130, R134, R136, R139). -/
def writeRx (s : State) (d : RegDef) (off : Nat) (v : Word) : Option State :=
  if off < 0x1400 then
    let i := idxOf off 0x1000 0x100
    if off = R.RXF_CTRL i then some (writeRxCtrl s i v)
    else if off = R.RXF_GAIN i then some (writeGain s i v)
    else if off = R.RXF_COEF_DATA i then some (writeFirCoef s i v)
    else if off = R.RXF_FIR_SWAP i then some (swapFir s i v)
    else if off = R.RXF_BLK_CFG i then
      let s := plainWrite s d off v
      some (if getF s (F.RXF_BLK_CFG_K i) < 8 ∨ getF s (F.RXF_BLK_CFG_BETA i) < 8 then raise s (F.RXF_EVT_CFG_ERR i) else s)
    else none
  else
    let i := idxOf off 0x1800 0x40
    if off = R.TSL_TPL_DATA i then some (writeTmpl s i v)
    else if off = R.TSL_CFG i then
      let s := plainWrite s d off v
      some (if getF s (F.TSL_CFG_MU i) < 6 + getF s (F.TSL_CFG_RES i) then raiseBit s (R.TSL_EVT i) 1 else s)
    else none

/-- CMP registers with an effect of their own (R148, R149, R159, R162, R168). -/
def writeCmp (s : State) (d : RegDef) (off : Nat) (v : Word) : Option State :=
  let n := v.toNat
  if off = R.CMP_CTRL then
    let s := plainWrite s d off v
    let s := if bits n 7 4 < 2 ∨ 10 < bits n 7 4 then raise s F.CMP_EVT_CFG_ERR else s
    some (if bit n 0 then s else (s.lanes.filter fun e => !e.2.idle).foldl (fun s e => offLane s e.1) s)
  else if off = R.CMP_TP_DATA then some (writeTone s v)
  else if off = R.CMP_TP_SWAP then some (swapTones s v)
  else if off = R.CMP_WIN_IDX then some (snapLane (setF s F.CMP_WIN_IDX_LANE n))
  else if R.CMP_LW 0 ≤ off ∧ off ≤ R.CMP_LW 4 then
    some (writeLaneWord (rewritten s (0x10000 + winLane s)) (idxOf off (R.CMP_LW 0) 4) v)
  else if off = R.CMP_LW 5 then
    let s := if bit n 0 then goLane s else s
    some (if bit n 1 then releaseLane s else s)
  else none

/-- COD registers with an effect of their own (R170, R187, R191). -/
def writeCod (s : State) (d : RegDef) (off : Nat) (v : Word) : Option State :=
  let n := v.toNat
  let p := plainWrite s d off v
  let err := fun (bad : Bool) (s : State) => if bad then raise s F.COD_EVT_CFG_ERR else s
  if off = R.COD_CTRL then some (if bit n 0 then p else { p with retain := [] })
  else if off = R.COD_FRAME_CFG then some (err (Nat.blt 8 (bits n 3 0)) p)
  else if off = R.COD_RET_CFG then some (err (Nat.blt (bits n 11 8) 2 || Nat.blt 8 (bits n 11 8)) p)
  else if R.COD_MSEL_P ≤ off ∧ off ≤ R.COD_MSEL_R4 then
    let bad := decide (sext 8 (bits n 31 24) ≤ sext 8 (bits n 23 16)) || Nat.ble (bits n 9 4) (bits n 15 10)
    some (if bad then err true p else { p with msel := fput p.msel (idxOf off R.COD_MSEL_P 4) v })
  else none

/-- TXS registers with an effect of their own (R202, R203, R205, R207, R208, R217). -/
def writeTxs (s : State) (d : RegDef) (off : Nat) (v : Word) : Option State :=
  if off = R.TXS_Z_IDX then some (selectZ s v)
  else if off = R.TXS_LIM_CFG then
    let s := plainWrite ((List.range 3).foldl (fun s p => countTo s p (dacNow s)) s) d off v
    some (if getF s F.TXS_LIM_CFG_KNEE < 65536 then raise s F.TXS_EVT_CFG_ERR else s)
  else if 0x2440 ≤ off ∧ off < 0x2500 then
    let p := idxOf off 0x2440 0x40
    if off = R.TXS_LVL p then some (writeLevel s p false v)
    else if off = R.TXS_LVL_MAX p then some (writeLevel s p true v)
    else if off = R.TXS_TXF p then some (writeTxf s p v)
    else if off = R.TXS_ILIM p then
      let s := plainWrite s d off v
      some (if bits v.toNat 5 0 < 10 ∨ 40 < bits v.toNat 5 0 then raise s F.TXS_EVT_CFG_ERR else s)
    else if off = R.TXS_MIX p then
      let s := plainWrite (countTo s p (dacNow s)) d off v
      some (if getF s (F.TXS_MIX_SRC p) = 3 then raise s F.TXS_EVT_CFG_ERR else s)
    else if off = R.TXS_PAT_PEAK p then some (plainWrite (countTo s p (dacNow s)) d off v)
    else if off = R.TXS_REG_MAX p then some (moveAmp (plainWrite s d off v) p)
    else none
  else none

/-- LFR_CTRL.EN = 0 stops every framer: the frame in reception is dropped and the framer is IDLE. -/
def stopFramers (s : State) : State :=
  { s with lanes := s.lanes.map fun e => (e.1, { e.2 with fst := .idle, rx := none, hist := [], miss := 0, passing := 0, expect := 0, since := 0 }) }

/-- LFR registers with an effect of their own (R222, R224, R227, R245). -/
def writeLfr (s : State) (d : RegDef) (off : Nat) (v : Word) : Option State :=
  let n := v.toNat
  let p := plainWrite s d off v
  let err := fun (bad : Bool) (s : State) => if bad then raise s F.LFR_EVT_CFG_ERR else s
  if off = R.LFR_CTRL then some (if bit n 0 then p else stopFramers p)
  else if off = R.LFR_FRM_CFG then some (err (Nat.blt 8 (bits n 7 4) || Nat.blt 8 (bits n 3 0)) p)
  else if off = R.LFR_FILL_CFG then some (err (Nat.blt 508 (bits n 8 0)) p)
  else if off = R.LFR_LANE_CFG then some (writeLaneCfg s v)
  else if R.LFR_LBL 0 ≤ off ∧ off ≤ R.LFR_LBL 63 then some (writeLabel s (idxOf off (R.LFR_LBL 0) 4) v)
  else none

/-- MAC registers with an effect of their own (R162, R246, R260, R267, R271, R273, R381). -/
def writeMac (s : State) (d : RegDef) (off : Nat) (v : Word) : Option State :=
  let n := v.toNat
  let p := plainWrite s d off v
  let err := fun (bad : Bool) (s : State) => if bad then raise s F.MAC_EVT_CFG_ERR else s
  if off = R.MAC_CTRL then some (err (Nat.blt 8 (bits n 11 8)) p)
  else if off = R.MAC_SLOT_CFG then some (writeSlotCfg s v)
  else if off = R.MAC_DL_DEF then some (err (n == 0) p)
  else if off = R.MAC_CONT_CFG then some (err (Nat.blt 8 (bits n 3 0)) p)
  else if off = R.MAC_BCN_CFG then some (evalConflicts (err (Nat.blt 4 (bits n 25 23) || Nat.blt 8 (bits n 22 19)) p))
  else if R.MAC_RXSEL 0 ≤ off ∧ off ≤ R.MAC_RXSEL 2 then some (err (bits n 13 12 == 3) p)
  else if off = R.MAC_QA_IDX then some (selectQa s v)
  else if R.MAC_CONT_CH 0 ≤ off ∧ off ≤ R.MAC_CONT_CH 7 then some (evalConflicts (err (bits n 27 24 == 0 || bits n 9 8 == 3) p))
  else none

/-- VET registers with an effect of their own (R284, R303). -/
def writeVet (s : State) (d : RegDef) (off : Nat) (v : Word) : Option State :=
  let p := plainWrite s d off v
  if off = R.VET_ROOT then some (writeRoot s v)
  else if off = R.VET_COST_CFG0 ∨ off = R.VET_COST_CFG1 then some (updMesh p fun m => { m with dirty := true })
  else if off = R.VET_ROUTE_CFG then
    some (updMesh (if Nat.blt 8 (bits v.toNat 31 28) then raise p F.VET_EVT_CFG_ERR else p) fun m => { m with dirty := true })
  else none

/-- YAR registers with an effect of their own (R305, R327, R333). -/
def writeYar (s : State) (off : Nat) (v : Word) : Option State :=
  let n := v.toNat
  if off = R.YAR_CTRL then
    let s := if bit n 0 then setF s F.YAR_CTRL_CAP_EN 1 else disableCapture s
    some (if bit n 1 then setF s F.YAR_CTRL_PLAY_EN 1 else disablePlayback s)
  else if off = R.YAR_REGION then some (writeRegion s v)
  else if off = R.YAR_STRM_IDX then some (selectStream s v)
  else if off = R.YAR_PLAY_IDX then some (selectPlayer s v)
  else none

/-- A write to a base, payload or write-back address of an enabled ring that would change it is discarded (R348). -/
def writeRingAddr (s : State) (d : RegDef) (off fn r : Nat) (v : Word) : State :=
  if isSet s (F.HQE_RCFG_EN fn r) && Nat.land v.toNat d.rw != rdN s off then fnCfgErr s fn else plainWrite s d off v

/-- Registers of a function window with an effect of their own (R348, R352, R373). -/
def writeWin (s : State) (d : RegDef) (off : Nat) (v : Word) : Option State :=
  let fn := idxOf off 0x8000 0x1000
  let o := off % 0x1000
  if off = R.HQE_FN_CTRL fn then
    let s := plainWrite s d off v
    some (if fn ≠ 0 ∧ 7 < bits v.toNat 5 1 then fnCfgErr s fn else s)
  else if 0x100 ≤ o ∧ o < 0x3D0 then
    let r := idxOf o 0x100 16
    if o % 16 = 8 then some (if bit v.toNat 31 then ringOn s fn r v else ringOff s fn r v)
    else if o % 16 < 8 then some (writeRingAddr s d off fn r v)
    else none
  else if 0x400 ≤ o ∧ o < 0x440 then some (writeRingAddr s d off fn (32 + idxOf o 0x400 8) v)
  else if 0x440 ≤ o ∧ o < 0x460 then some (writeRingAddr s d off fn (40 + idxOf o 0x440 8) v)
  else none

/-- SEC registers with an effect of their own (R399, R405, SEC_CTRL.EN). -/
def writeSec (s : State) (d : RegDef) (off : Nat) (v : Word) : Option State :=
  if off = R.SEC_CTRL then
    let s := plainWrite s d off v
    let m := getF s F.SEC_CTRL_SCM
    let s := if m = 3 ∨ m < getF s F.SEC_KPOL_SCM_MIN then raise s F.SEC_EVT_CFG_ERR else s
    some (if isSet s F.SEC_CTRL_EN then pkNext s else failQueued s fun s c => wrongState s c 0x3C)
  else if R.SEC_BSRC 0 ≤ off ∧ off ≤ R.SEC_BSRC 15 then some (writeBsrc s (idxOf off (R.SEC_BSRC 0) 4) v)
  else none

/-- RTC registers with an effect of their own (R463). -/
def writeRtcReg (s : State) (d : RegDef) (off : Nat) (v : Word) : Option State :=
  if off = R.RTC_COMMIT then some (commitRtc s (bit v.toNat 0))
  else if off = R.RTC_SET_LO ∨ off = R.RTC_SET_HI then
    some (if isSet s F.RTC_STATUS_COMMIT_PEND then raise s F.RTC_EVT_CFG_ERR else plainWrite s d off v)
  else none

/-- Registers of the ports with an effect of their own (R470 to R487). -/
def writePort (s : State) (d : RegDef) (off : Nat) (v : Word) : Option State :=
  let n := v.toNat
  if off = R.UART_CFG then some (writeUartCfg s v)
  else if off = R.UART_BAUD then some (writeUartBaud s v)
  else if off = R.UART_CTRL then
    let s := if bit n 2 then uartFlushRx s else s
    let s := if bit n 1 then uartFlushTx s else s
    some (if bit n 0 then uartResume s else s)
  else if off = R.UART_TXD then some (uartPush s v)
  else if off = R.I2C_CFG then some (writeI2cCfg s v)
  else if off = R.I2C_CMD then some (i2cGo s v)
  else if off = R.I2C_CTRL then some (if bit n 0 then busClearNow s else s)
  else if off = R.I2C_WDATA then some (i2cPush s v)
  else if off = R.SPI_F_CMD then some (flashGo s v)
  else if off = R.SPI_T_CTRL then some (if bit n 0 then spiPost s else s)
  else if off = R.JIR_CTRL then
    if isSet s F.JIR_CTRL_EN ∧ bit n 1 ≠ isSet s F.JIR_CTRL_MASTER
    then some (setF (raise s F.JIR_EVT_CFG_ERR) F.JIR_CTRL_EN (bits n 0 0)) else some (plainWrite s d off v)
  else if off = R.JIR_CMD then some (if bit n 0 then jirRetrain s else s)
  else none

/-- GLB and REL registers with an effect of their own (R76, R81, R83, R86). -/
def writeGlb (s : State) (off : Nat) (v : Word) : Option State :=
  if off = R.GLB_CFG_PARITY then some (writeCfgParity s v)
  else if off = R.GLB_LOCK then some (writeLock s v)
  else if R.GLB_CRC_REF 0 ≤ off ∧ off ≤ R.GLB_CRC_REF 3 then some (writeCrcRef s (idxOf off (R.GLB_CRC_REF 0) 4) v)
  else if 0x6400 ≤ off ∧ off < 0x6470 ∧ off % 16 < 8 then some (writeRel s (idxOf off 0x6400 16) (off % 16 == 4) v)
  else none

/-- The effect of a write by the block that holds the register, where it is not that of the access codes alone. -/
def blockWrite (s : State) (d : RegDef) (off : Nat) (v : Word) : Option State :=
  if off ≥ 0x8000 then writeWin s d off v
  else match off / 0x400 with
  | 0x00 => writeGlb s off v
  | 0x03 => writeMsy s off v
  | 0x04 => writeRx s d off v
  | 0x06 => writeRx s d off v
  | 0x07 => writeCmp s d off v
  | 0x08 => writeCod s d off v
  | 0x09 => writeTxs s d off v
  | 0x0A => writeLfr s d off v
  | 0x0B => writeMac s d off v
  | 0x0C => writeVet s d off v
  | 0x0D => writeYar s off v
  | 0x0F => some (evalConflicts (plainWrite s d off v))
  | 0x10 => writeSec s d off v
  | 0x14 => writeRtcReg s d off v
  | 0x15 => writePort s d off v
  | 0x16 => writePort s d off v
  | 0x17 => writePort s d off v
  | 0x18 => writePort s d off v
  | 0x19 => writeGlb s off v
  | _ => none

/-- A write of a dword by a function to a register whose block answers: locked, by the block, or by its access codes (R6, R7, R501). -/
def writeReg (s : State) (fn off : Nat) (v : Word) : State :=
  match regAt off with
  | none => s
  | some d => if lockedReg s d then lockViolation s fn off else (blockWrite s d off v).getD (plainWrite s d off v)

/-- PF0 BAR0 reaches the window of another function: the write is refused (R346). -/
def crossWindow (s : State) (off : Nat) : State :=
  if reach s off then wrN (raise s F.HQE_EVT_XWIN) R.HQE_XWIN_LOG off else offAccess s off

/-- PF0 offset of an offset in a function's BAR0 (R345, R499); none beyond its end. -/
def barOffset (fn off : Nat) : Option Nat :=
  if fn = 0 then (if off < 0x10000 then some off else none)
  else if off < 0x1000 then some (0x8000 + 0x1000 * fn + off) else none

/-- Only dwords are accepted: a partial or unaligned access sets ACC_ERR (R500). -/
def accErr (s : State) : State := raise s F.GLB_FAULT_SUM_ACC_ERR

/-- SPI_TARGET_READ (R483, R484): status byte and the words from an offset, without the side effects of a read; an offset that is not
permitted reads a free value. Reading SPI_T_H2B7 clears the pending bit (R486). READY is taken as Listen reached (log entry 33). -/
def targetRead (s : State) (off words : Nat) : State :=
  let o := off / 4 * 4
  let n := min words 16
  let data := (List.range n).map fun i => BitVec.ofNat 32 (
    if o + 4 * i ≥ 0x8000 then freeNat s 32 else if reach s (o + 4 * i) then viewReg s (o + 4 * i) else 0)
  let st := fieldsOf [(b2n s.spi.frameErr, 0), (b2n s.spi.h2b, 1), (b2n (getF s F.GLB_STATUS_BOOT_PHASE == 15), 2)]
  let s := usedFree (post s (.spiOut st data))
  if (List.range n).any (fun i => o + 4 * i == R.SPI_T_H2B 7) then { s with spi := { s.spi with h2b := false } } else s

end Sys2Proof.Machine
end

