-- ==== Sys2Proof/Machine/Power.lean ====
section
/-! DEFINITION. Power domains and power states, supplies, clocks, and what every reset leaves (R36, R46 to R49, R55 to R74, R503, R504,
R509 to R511). The boot flow is in Boot.lean. -/

namespace Sys2Proof.Machine

/-! ### Domains (R58 to R60, R509) -/

/-- Parents of a domain (Table: Power domains and their parents). -/
def parents (d : Nat) : List Nat :=
  match d with
  | 3 => [2]
  | 5 => [4]
  | 7 => [6]
  | 8 => [6]
  | 9 => [12]
  | 10 => [9]
  | 11 => [12]
  | 13 => [12]
  | 15 => [13]
  | 18 => [17, 10]
  | 19 => [17, 10]
  | 20 => [17, 10]
  | 1 => []
  | 17 => []
  | _ => [1]

/-- Island whose clock a domain holds (R18, R510); islands 10 and 11 are always powered. -/
def islandOf (d : Nat) : Option Nat :=
  match d with
  | 2 => some 0
  | 3 => some 1
  | 6 => some 2
  | 4 => some 3
  | 9 => some 4
  | 10 => some 5
  | 11 => some 6
  | 12 => some 7
  | 15 => some 8
  | 16 => some 9
  | _ => none

/-- Domains with a domain among their ancestors, itself included. -/
def withChildren (d : Nat) : List Nat :=
  (List.range' 1 20).filter fun e => e == d || (parents e).contains d || (parents e).any fun q => (parents q).contains d || (parents q).any fun r => (parents r).contains d

/-- The domain may report power good: requested, not failed, its parents on (R58); step 10 of R72 goes in the order given there. -/
def mayRise (s : State) (d : Nat) : Bool :=
  isSet s (F.PWR_DOM_REQ d) && !domainOn s d && (parents d).all (domainOn s) &&
    (getF s F.GLB_STATUS_BOOT_PHASE != 5 ||
      (([5, 6, 7, 8, 9, 11, 15, 3].find? fun e => isSet s (F.PWR_DOM_REQ e)).all fun e => e == d))

/-- Request a list of domains: those on, and those that failed or hang under one that failed, are passed over (R509). -/
def reqDomains (s : State) (l : List Nat) : State :=
  l.foldl (fun s d =>
    if domainOn s d || (List.range' 1 20).any (fun e => isSet s (F.PWR_DOM_PG_FAIL e) && (withChildren e).contains d) then s
    else setF s (F.PWR_DOM_REQ d) 1) s

/-- A switch-on is still waited for. -/
def rising (s : State) : Bool := (List.range' 1 20).any fun d => isSet s (F.PWR_DOM_REQ d) && !domainOn s d

/-- Store a domain's power-good bit. -/
def setPg (s : State) (d : Nat) (b : Bool) : State :=
  let s := setB (wrN s R.PWR_PG (setBits (rdN s R.PWR_PG) d d (b2n b))) (F.PWR_DOM_PG d) b
  match islandOf d with
  | some i => setF s F.CLK_STATUS_LOCK (setBits (getF s F.CLK_STATUS_LOCK) i i (b2n b))
  | none => s

/-! ### Xaton records (R437, R438) -/

/-- Domain a record waits for; BUGLE's records are written at every entry to Active. -/
def XRec.domain : XRec → Nat
  | .reg off _ => blockDomain off
  | .tonePair .. => 8
  | _ => 1

/-- Write a record as function 0 would (R93, R148, R438): coefficients go to bank 0. -/
def applyRec (s : State) (r : XRec) : State :=
  match r with
  | .reg off v =>
    let s := rewritten s off
    if off ≠ R.PWR_CTRL then writeReg s 0 off v
    else if 2 ≤ v.toNat % 8 ∧ v.toNat % 8 ≤ 4 then setF s F.PWR_CTRL_TARGET (v.toNat % 8) else raise s F.PWR_STATUS_REQ_ERR
  | .coef ph cs => (List.range 24).foldl (fun s k => writeCoef s 0 ph (k / 4) (k % 4) (cs.getD k 0)) s
  | .tonePair b first es => es.foldl writeTone (wrN s R.CMP_TP_IDX (256 * b + first))
  | .subsys ven id => { s with pcie := { s.pcie with subVendor := ven, subId := id } }
  | .ref n v => writeCrcRef s n v
  | .lock v => writeLock s v

/-- The held records of a domain, written when it reports power good. -/
def applyHeld (s : State) (d : Nat) : State :=
  let mine := if d = 10 then s.boot.xaton.filter fun r => r.domain == 10 else s.boot.held.filter fun r => r.domain == d
  mine.foldl applyRec { s with boot := { s.boot with held := s.boot.held.filter fun r => !(r.domain == d) } }

/-! ### What a domain brings with it -/

/-- Persistent keys are reloaded from the store (R417, R457): a record that no two copies hold leaves its slot empty. -/
def reloadKeys (s : State) : State :=
  if isSet s F.ATT_STATUS_DK_INVALID then s else
  let slots := (List.range 1024).filter fun k => (keyCopies k).any fun (b, l) => (readRow s b l).any (· != 0)
  slots.foldl (fun s k =>
    match readTriple s (keyCopies k) 0 64 fun _ => none with
    | (some row, s) =>
      (match rowKey s row with
      | some (r, x) => if r = k then { s with sec := { s.sec with keys := fput s.sec.keys r { x with gen := s.sec.gen + 1, under := s.sec.storeKey }, gen := s.sec.gen + 1 } } else s
      | none => s)
    | (none, s) => s) s

/-- SECURITY is on: the store key is drawn, persistent keys and broadcast sources are restored (R405, R417). -/
def securityUp (s : State) : State :=
  let s := reloadKeys (usedFree { s with sec := { s.sec with storeOk := true, storeKey := freeNat s 256 } })
  loadBcast ((List.range 16).foldl restoreBsrc s)

/-- A driver domain is on: its impedance table is empty, an undervoltage clears and the phase starts again (R207, R208, R215). -/
def driverUp (s : State) (p : Nat) : State :=
  let s := setTx s p { txPh s p with z := [], zMin := none }
  if (txPh s p).uv && s.pins.vdrv then resumeAt (startPhaseAtt (changeTxf s p fun t => { t with uv := false }) p 0) p .slot else s

/-- A domain reports power good. -/
def domainUp (s : State) (d : Nat) : State :=
  let s := bumpF (setF (setPg s d true) (F.PWR_DOM_REQ d) 0) (F.PWR_DOM_ON_CNT d)
  -- what a domain holds from before is restored first, then the held writes are made (R405)
  let s := if d = 11 then securityUp s else s
  let s := applyHeld (if d = 16 then post s (.portPads true) else s) d
  if d = 9 then usedFree { s with mesh := { s.mesh with key := Config.freeBits 64 s.freeCtr } }
  else if d = 16 ∧ getF s F.GLB_STATUS_BOOT_PHASE < 5 then raise s F.SPI_F_STATUS_OWN
  else if 18 ≤ d then driverUp s (d - 18)
  else s

/-- Domains are switched off, those that hang under others first (R58). -/
def domainsDown (s : State) (l : List Nat) : State :=
  let s := if l.contains 16 && domainOn s 16 then post s (.portPads false) else s
  l.reverse.foldl (fun s d => setF (setPg s d false) (F.PWR_DOM_REQ d) 0) s

/-! ### Power states (R61 to R67) -/

/-- A power state takes effect. -/
def setPower (s : State) (n : Nat) : State :=
  raise (setF (setF s F.PWR_STATUS_STATE n) F.PWR_STATUS_BUSY 0) F.PWR_EVT_STATE_CHG

/-- Registers that return from Standby at their reset values (R503). -/
def standbyReset (off : Nat) : Bool :=
  !(Nat.blt off 0x1000 || (Nat.ble 0x3C00 off && Nat.blt off 0x4000) || (Nat.ble 0x4400 off && Nat.blt off 0x5400) ||
    (Nat.ble 0x6400 off && Nat.blt off 0x7000) || (setOf off).isSome)

/-- What the islands that Standby switches off held is lost (R61). The index conflict of the ring stays (R493). -/
def clearEngines (s : State) : State :=
  let conflict := getF s F.JIR_STATUS_CIDX_CONFLICT
  let s := resetRegs s standbyReset
  let s := { s with
    rx := [], tones := [], toneSwap := 0, lanes := [], recs := [], msel := [], frames := [], retain := [], heard := [], tx := [], jobs := [],
    sessions := [], quiets := [], air := {}, sor := {}, pm := [], secSeen := [], mesh := {}, dram := [], streams := [],
    kqOwners := [], players := [], rings := [], banks := [], held := [], cmds := [], sec := {}, uart := {}, i2c := {}, spi := {},
    jir := {} }
  let par := { s.par with
    mainBad := s.par.mainBad.filter (fun o => !standbyReset o && Nat.blt o 0x10000),
    shadowBad := s.par.shadowBad.filter (fun o => !standbyReset o && Nat.blt o 0x10000),
    acts := s.par.acts.filter fun a => a.block == 0 || a.block == 9 || a.block == 14 }
  let bad := rdN s R.GLB_CFG_PARITY
  let keep := (List.range 15).map fun b => b2n (bit bad b && (b == 0 || b == 9 || b == 14)) * 2 ^ b
  let s := setF (wrN { s with par := par } R.GLB_CFG_PARITY keep.sum) F.JIR_STATUS_CIDX_CONFLICT conflict
  -- the five-lane map holds until a device reset (R131)
  if fiveLaneRx s then (List.range 4).foldl (fun s i => raise s (F.RXF_STATUS_DEC2 i)) s else s

/-- Standby takes effect: every domain but AON, PCIE, NVS and HVCORE is off (R61). -/
def enterStandby (s : State) : State :=
  let s := [0, 1, 2, 3].foldl (fun s c => (List.range 8).foldl (fun s fn => drainBank s fn c) s) s
  let s := evalConflicts <| domainsDown (clearEngines s) [3, 4, 5, 6, 7, 8, 9, 10, 11, 12, 13, 15, 16, 18, 19, 20]
  setPower { s with pwr := { s.pwr with toStandby := false, armed := false, resume := [] } } 2

/-- No completion waits that could not be written: none is held, and each bank's ring is enabled (R11, R367). -/
def allWritable (s : State) : Bool :=
  s.held == [] && s.banks.all fun e => e.1 % 4 != 0 || e.2.all fun b => (ring s (e.1 / 4) b.ring).st == .enabled

/-- Every command is complete and its completion written: Standby may be entered (R65). -/
def standbyDue (s : State) : Bool := s.pwr.toStandby && !s.pwr.leaving && s.cmds == [] && allWritable s

/-- The request for Standby in Listen (R65): what has not started is refused with 0x09 or ends with NO_RESPONSE; streams and players end
as by their end commands (log entry 45). -/
def beginStandby (s : State) : State :=
  let s := raise { s with pwr := { s.pwr with toStandby := true } } F.PWR_STATUS_BUSY
  let s := (s.cmds.filter fun c => c.st == .fetched).foldl (fun s c => wrongState s c 0x09) s
  let s := endRepeats (endWaiting s 0x09) 0x09
  let s := stopPlayers (endStreams s (fun _ => true) 32 (some (St.donePartial, 0))) (fun _ _ => true) St.donePartial 0
  let s := (s.cmds.filter fun c => s.sec.pkq.any fun o => o.uid == c.uid).foldl (fun s c => wrongState s c 0x09) { s with sec := { s.sec with pkq := [] } }
  if standbyDue s then enterStandby s else s

/-- Without VDRV, every coupled phase of a requested Active has TXF cause UV (R63, R215). -/
def noteUv (s : State) : State :=
  if s.pins.vdrv then s else ((List.range 3).filter (coupled s)).foldl (fun s p => changeTxf s p fun t => { t with uv := true }) s

/-- Active takes effect (R63, R208). -/
def activeNow (s : State) : State :=
  (List.range 3).foldl (fun s p => startPhaseAtt s p 0) (noteUv (setPower { s with pwr := { s.pwr with armed := false } } 4))

/-- Every domain that Active waited for has reported or failed: it takes effect at the next slot boundary, where there is one (R63, R105);
`force` is what taking effect does. -/
def armActive (s : State) (force : State → State) : State :=
  if cidxOk s then { s with pwr := { s.pwr with armed := true } } else force s

/-- The request for Active in Listen (R63): BUGLE and, with VDRV, the drivers of coupled phases are switched on. A domain that failed
before is not waited for (R509). -/
def beginActive (s : State) : State :=
  let s := reqDomains (raise s F.PWR_STATUS_BUSY) [10]
  let ps := (List.range 3).filter (coupled s)
  let s := if s.pins.vdrv then reqDomains s (ps.map (· + 18)) else noteUv s
  if rising s then s else armActive s activeNow

/-- Listen is in force: the change goes on as TARGET asks (R62). -/
def pursueListen (s : State) : State :=
  let t := getF s F.PWR_CTRL_TARGET
  if t = 4 then beginActive s else if t = 2 then beginStandby s else s

/-- No phase transmits any more: BUGLE and the drivers are switched off and Listen takes effect (R64). -/
def finishLeave (s : State) : State :=
  let s := domainsDown s [10, 18, 19, 20]
  pursueListen (setPower { s with pwr := { s.pwr with leaving := false, resume := [] } } 3)

/-- Active is left once no frame is on the air. -/
def leaveDone (s : State) : Bool := s.pwr.leaving && !((List.range 3).any (onAirPhase s))

/-- The request to leave Active (R64, R65): nothing new starts, what has not begun is withdrawn, refused or ended. -/
def beginLeave (s : State) : State :=
  let s := raise { s with pwr := { s.pwr with leaving := true, armed := false } } F.PWR_STATUS_BUSY
  let s := let code := if getF s F.PWR_CTRL_TARGET = 2 then 0x09 else 0x08
    endRepeats (endWaiting s code) code
  let s := (s.jobs.filter fun j => !j.begun && !j.ended).foldl withdrawJob s
  if leaveDone s then finishLeave s else s

/-- Registers kept under R504, and the references and locks, are not written again after Standby (R438). -/
def XRec.retained : XRec → Bool
  | .reg off _ => (setOf off).isSome || (Nat.ble 0x3C00 off && Nat.blt off 0x4000) || (Nat.ble 0x4400 off && Nat.blt off 0x4800) || off == R.GLB_LOCK
  | .ref .. => true
  | .lock _ => true
  | _ => false

/-- The domains of Listen. -/
def listenDomains : List Nat := [4, 16, 12, 13, 5, 6, 7, 8, 9, 11, 15, 3]

/-- Every domain of Listen has reported or failed: Listen takes effect and the change goes on (R62, R65). -/
def riseDone (s : State) : State := pursueListen (pmStart (setPower s 3))

/-- The records of the Xaton image in use are written anew, those of domains that are off once their domain reports (R438). -/
def rewriteXaton (s : State) (rs : List XRec) : State :=
  let l := rs.filter fun r => !r.retained
  let held := l.filter fun r => r.domain != 10 && !domainOn s r.domain
  (l.filter fun r => r.domain != 10 && domainOn s r.domain).foldl applyRec { s with boot := { s.boot with xaton := rs, held := held } }

/-- The return from Standby (R65, R438): the domains of Listen are switched on and the Xaton records written anew. -/
def beginRise (s : State) : State :=
  let s := reqDomains (rewriteXaton (raise s F.PWR_STATUS_BUSY) s.boot.xaton) listenDomains
  if rising s then s else riseDone s

/-- Go on toward PWR_CTRL.TARGET when no change is in progress (R62). -/
def pursue (s : State) : State :=
  let t := getF s F.PWR_CTRL_TARGET
  if isSet s F.PWR_STATUS_BUSY then s
  else match pwrState s with
  | 4 => if t = 4 then s else beginLeave s
  | 3 => pursueListen s
  | 2 => if t = 2 then s else beginRise s
  | _ => s

/-- Active takes effect, and what was requested meanwhile begins (R62, R63). -/
def enterActive (s : State) : State := pursue (activeNow s)

/-- A state change whose domains have all reported goes on (R63, R65, R105): Active waits for the next slot boundary, when there is one. -/
def settlePower (s : State) : State :=
  if !isSet s F.PWR_STATUS_BUSY || rising s || s.pwr.toStandby || s.pwr.leaving then s
  else if pwrState s = 2 then riseDone s
  else if pwrState s = 3 then armActive s enterActive
  else s

/-- Step on an empty queue: 8 ns pass, with what they bring to Yarrow, and Standby is entered when its time has come (log entry 2). -/
def idle (s : State) : State :=
  let s := yarrowTime (tick s)
  if standbyDue s then pursue (enterStandby s) else s

/-- A power state is requested (R62). -/
def requestPower (s : State) (fn code : Nat) : State :=
  access s R.PWR_CTRL fun s =>
    if fn ≠ 0 ∨ (code ≠ 2 ∧ code ≠ 3 ∧ code ≠ 4) then raise s F.PWR_STATUS_REQ_ERR
    else pursue (setF s F.PWR_CTRL_TARGET code)

/-- STANDBY_REQUEST (R62, R65). -/
def execStandbyRequest (fn : Fin 8) (s : State) : Answer := done (requestPower s fn.val 2)

/-- LISTEN_REQUEST (R62, R64). -/
def execListenRequest (fn : Fin 8) (s : State) : Answer := done (requestPower s fn.val 3)

/-- ACTIVE_REQUEST (R62, R63). -/
def execActiveRequest (fn : Fin 8) (s : State) : Answer := done (requestPower s fn.val 4)

/-- ACTIVE_EXIT_FRAME_END (R64): the frame in progress on a phase has ended, or had ended before. -/
def execActiveExitFrameEnd (_ph : Fin 3) (s : State) : Answer := if leaveDone s then done (finishLeave s) else done s

/-! ### The boot stops (R74) -/

/-- Stop the boot with a code: the configuration space answers from its reset values. DESIGN CHOICE (log entry 123): no switch-on is waited
for any longer, so that one of AON, PCIE, TANSY_A, NVS and PERIPH that had not yet reported stays off. -/
def stopBoot (s : State) (code : Nat) : State :=
  let s := setF (setF s F.GLB_STATUS_BOOT_PHASE 0xE) F.GLB_STATUS_BOOT_ERR code
  let s := domainsDown s [5, 6, 7, 8, 9, 10, 11, 12, 13, 15, 18, 19, 20]
  let s := (List.range' 1 20).foldl (fun s d => setF s (F.PWR_DOM_REQ d) 0) s
  { s with
    pcie := { up := s.pcie.up, speed := s.pcie.speed, lanes := s.pcie.lanes, twoLanes := s.pcie.twoLanes, retry := false }
    boot := { s.boot with held := [] } }

/-- The boot flow is under way: steps 5 to 10 of R72. -/
def booting (s : State) : Bool := getF s F.GLB_STATUS_BOOT_PHASE != 0xE && getF s F.GLB_STATUS_BOOT_PHASE != 0xF

/-- DOMAIN_POWER_GOOD (R59). -/
def execDomainPowerGood (d : Nat) (s : State) : Answer :=
  if s.pins.inReset || d < 1 || 20 < d || d = 17 || !mayRise s d then done s else done (settlePower (domainUp s d))

/-- A domain fails (R509, R511): it and those under it go off and stay off; a driver is handled as TXF cause PG (R215). -/
def failDomain (s : State) (d code : Nat) : State :=
  let lost := (List.range 3).filter fun p => domainOn s (18 + p) && (withChildren d).contains (18 + p)
  let s := raise (setF (domainsDown s (withChildren d)) (F.PWR_DOM_PG_FAIL d) 1) F.PWR_EVT_PG_FAIL
  let s := (if 18 ≤ d then [d - 18] else lost).foldl (fun s p => changeTxf s p fun t => { t with pg := true }) s
  if booting s && d != 17 && Nat.blt d 18 then stopBoot s code else settlePower s

/-- DOMAIN_PG_TIMEOUT (R509): no power good 50 µs after the switch. -/
def execDomainPgTimeout (d : Nat) (s : State) : Answer :=
  if s.pins.inReset || d < 1 || 20 < d || d = 17 || !mayRise s d then done s else done (failDomain s d 0x20)

/-! ### Supplies (R46 to R49, R214) -/

/-- HVCORE is unpowered (R49): its lanes are lost, hold-over, LOS on every input. -/
def hvUnpowered (s : State) : State :=
  let s := domainsDown { s with blanes := s.blanes.map fun e => (e.1, { e.2 with locked := false, resend := 0 }) } [17, 18, 19, 20]
  losAll (enterHoldover s)

/-- The drivers' supply is gone: with Active requested, TXF cause UV; a change to Active that waited for the drivers alone goes on
without them, whatever was requested meanwhile (R62, R63, R214, R215). -/
def vdrvGone (s : State) : State :=
  let s := domainsDown s [18, 19, 20]
  settlePower (if getF s F.PWR_CTRL_TARGET = 4 then noteUv s else s)

/-- The drivers' supply is back: with Active in force or on its way, the drivers of coupled phases are switched on. -/
def vdrvBack (s : State) : State :=
  if getF s F.PWR_CTRL_TARGET = 4 && (pwrState s == 4 || (pwrState s == 3 && isSet s F.PWR_STATUS_BUSY && !booting s))
  then
    let s := reqDomains s (((List.range 3).filter (coupled s)).map (· + 18))
    if rising s then { s with pwr := { s.pwr with armed := false } } else s
  else s

/-- The supplies of the high-voltage side change (R46 to R49). -/
def setSupply (s : State) (vdrv viso5 : Bool) : State :=
  let old := s.pins
  let src := hvSrc s
  let s := { s with pins := { old with vdrv := vdrv, viso5 := viso5, hvPg := old.hvPg && (vdrv || viso5) } }
  if old.inReset then s else
  let s := if vdrv = old.vdrv then s else raise s F.PWR_EVT_VDRV_CHG
  let s := if viso5 = old.viso5 then s else raise s F.PWR_EVT_VISO5_CHG
  let s := if hvSrc s = src then s else raise s F.PWR_EVT_HV_SRC_CHG
  let s := if old.hvPg && !s.pins.hvPg then hvUnpowered s else s
  if vdrv = old.vdrv then s else if vdrv then vdrvBack s else vdrvGone s

/-- VDRV_PRESENCE_CHANGE (R46): present from above 11.0 V until below 10.5 V. -/
def execVdrvPresenceChange (mv : Nat) (s : State) : Answer :=
  done (setSupply s (if s.pins.vdrv then Nat.ble 10500 mv else Nat.blt 11000 mv) s.pins.viso5)

/-- VISO5_PRESENCE_CHANGE (R46): present from above 4.6 V until below 4.4 V. -/
def execViso5PresenceChange (mv : Nat) (s : State) : Answer :=
  done (setSupply s s.pins.vdrv (if s.pins.viso5 then Nat.ble 4400 mv else Nat.blt 4600 mv))

/-- HVCORE_POWER_GOOD (R44, R46, R73). -/
def execHvcorePowerGood (s : State) : Answer :=
  if s.pins.hvPg || (!s.pins.vdrv && !s.pins.viso5) then done s else
  let s := { s with pins := { s.pins with hvPg := true } }
  if s.pins.inReset then done s else done (bumpF (setPg s 17 true) (F.PWR_DOM_ON_CNT 17))

/-! ### Power-on reset (R36, R37, R68, R71, R503) -/

/-- The RTC block's registers. -/
def rtcReg (off : Nat) : Bool := Nat.ble 0x5000 off && Nat.blt off 0x5400

/-- A power-on reset begins (R68): AON's clock and registers, the fuses and the rows of the store stay. What the model keeps of its own
stays too (log entry 8). -/
def powerOnReset (s : State) : State :=
  let s := dropWrites s
  { State.reset with
    regs := s.regs.filter fun e => rtcReg e.1
    pins := { s.pins with inReset := true, testHalt := false, husenseRose := none }
    boot := { fuses := s.boot.fuses }
    nvs := { banks := s.nvs.banks.map fun (k, x) => (k, { x with refill := 0 }), retired := s.nvs.retired }
    rtc := s.rtc
    readData := s.readData, posted := s.posted, nextUid := s.nextUid, nextJob := s.nextJob, nextFid := s.nextFid
    freeCtr := s.freeCtr, pending := s.pending }

/-- HVCORE reports power good when its supply is there (R44, R46). -/
def hvcoreOn (s : State) : State := if s.pins.hvPg then bumpF (setPg s 17 true) (F.PWR_DOM_ON_CNT 17) else s

/-- The reference the strap selects is in use; the crystals show what is present (R36, R510). -/
def refSelected (s : State) (ref : Bool) : State :=
  setB (setB (setB s F.CLK_STATUS_REF_OK ref) F.CLK_STATUS_XTAL_OK (!ref)) F.CLK_STATUS_X32_OK s.rtc.running

/-- The straps are sampled (R36). -/
def sampleStraps (s : State) (clksel : BitVec 2) : State :=
  let s := setF (setF s F.CLK_STRAP_CLKSEL clksel.toNat) F.CLK_STRAP_STRAP_INV (b2n (clksel == 3))
  refSelected (if clksel = 3 then raise s F.GLB_FAULT_SUM_STRAP_INV else s) (clksel == 1 || clksel == 2)

/-- t0: the straps are sampled; with TESTEN high the device stays in reset, HVCORE's domain with it (R36, R37, R56, R72 step 2).
DESIGN CHOICE (log entry 83): a reset that ends with TESTEN high releases PFW# like any other. -/
def endReset (s : State) (clksel : BitVec 2) (testen : Bool) : State :=
  let low := s.pins.pfwLow && !s.pins.husenseHigh
  let s := { s with pins := { s.pins with inReset := testen, testHalt := testen, pfwLow := low, pfwReset := low } }
  let s := sampleStraps s clksel
  if testen then s else hvcoreOn s

/-- PORST_ASSERT (R68). -/
def execPorstAssert (s : State) : Answer :=
  if s.pins.porstLow then done s else done (powerOnReset { s with pins := { s.pins with porstLow := true } })

/-- PORST_RELEASE (R36, R72): t0, unless the internal monitor still holds the reset. -/
def execPorstRelease (clksel : BitVec 2) (testen : Bool) (s : State) : Answer :=
  if !s.pins.porstLow then done s else
  let s := { s with pins := { s.pins with porstLow := false } }
  if s.pins.monitorReset then done s else done (endReset s clksel testen)

/-- SUPPLY_MONITOR_RESET (R71): a rail leaves its tolerance while PORST# is high. -/
def execSupplyMonitorReset (s : State) : Answer :=
  if s.pins.porstLow then done s else done (powerOnReset { s with pins := { s.pins with monitorReset := true } })

/-- SUPPLY_MONITOR_RESET_END (R36, R71). -/
def execSupplyMonitorResetEnd (clksel : BitVec 2) (testen : Bool) (s : State) : Answer :=
  if !s.pins.monitorReset then done s else
  let s := { s with pins := { s.pins with monitorReset := false } }
  if s.pins.porstLow then done s else done (endReset s clksel testen)

/-- HUSENSE_FALL (R55, R458): PFW# is driven low; every phase is hard-muted and no new store write starts. -/
def execHusenseFall (s : State) : Answer :=
  done { s with pins := { s.pins with
    husenseHigh := false, pfwLow := true, husenseRose := none, pfwReset := s.pins.pfwReset && s.pins.pfwLow } }

/-- HUSENSE_RISE (R56): above 1.050 V; PFW# is released where a power-on reset has completed since it was driven, and otherwise the
wait of 10 ms begins. -/
def execHusenseRise (s : State) : Answer :=
  if s.pins.husenseHigh then done s else
  let low := s.pins.pfwLow && !s.pins.pfwReset
  done { s with pins := { s.pins with
    husenseHigh := true, pfwLow := low, pfwReset := false, husenseRose := if low then some s.mains.elapsed else none } }

/-- HOLDUP_RECOVERY_RESET (R56): HUSENSE has stayed above 1.050 V for 10 ms and no store write is in progress; PFW# is released at the end. -/
def execHoldupRecoveryReset (clksel : BitVec 2) (testen : Bool) (s : State) : Answer :=
  let waited := s.pins.husenseRose.any fun t => !s.mains.running || Nat.ble (t + 10000000) s.mains.elapsed
  if (s.pins.inReset && !s.pins.testHalt) || !s.pins.pfwLow || !s.pins.husenseHigh || !waited || (runningWrite s).isSome then done s
  else done (endReset (powerOnReset s) clksel testen)

/-- AON_RESET (R68, R465, R503): the AON rail fell below its retention threshold; the power-on reset that always comes with it, and the RTC
block at its reset values, so that the time is invalid and the tamper state lost. -/
def execAonReset (s : State) : Answer :=
  let s := powerOnReset { s with pins := { s.pins with monitorReset := s.pins.monitorReset || !s.pins.porstLow } }
  done { resetRegs s rtcReg with rtc := {} }

/-! ### Device reset (R69) -/

/-- Every filling bank is closed and written. -/
def drainAll (s : State) : State := (List.range 8).foldl (fun s fn => [1, 0, 2, 3].foldl (fun s c => drainBank s fn c) s) s

/-- DEVICE_RESET_REQUEST (R69): the phases mute and ABORTED_RESET is written for every outstanding command. -/
def requestReset (s : State) (fn : Nat) (key : Byte) : State :=
  access s R.GLB_RESET fun s =>
    if fn ≠ 0 ∨ key ≠ 0xA5 ∨ s.pwr.resetAt.isSome then s
    else
      let s := { s with pwr := { s.pwr with resetAt := some s.mains.elapsed } }
      let s := stopPlayers (endStreams s (fun _ => true) 0 (some (St.aborted, 0))) (fun _ _ => true) St.aborted 0
      let s := s.cmds.foldl (fun s c => complete s c St.aborted 0 0) s
      drainAll { s with sec := { s.sec with pkq := [], pkRun := none } }

/-- DEVICE_RESET_REQUEST. -/
def execDeviceResetRequest (fn : Fin 8) (key : Byte) (s : State) : Answer := done (requestReset s fn.val key)

/-- Registers a device reset keeps (R503): the RTC block, the timing registers of MSY, the strap. -/
def resetKept (off : Nat) : Bool :=
  rtcReg off || (Nat.ble 0x0C10 off && Nat.ble off 0x0C1C) || (Nat.ble 0x0CA0 off && Nat.ble off 0x0CB4) ||
    (Nat.ble 0x0CC0 off && Nat.ble off 0x0CCC) || off == R.CLK_STRAP

/-- What a device reset leaves (R69, R72, R108, R503): AON, PCIE and the timekeeping island stay; the tracker and HVCORE restart, so a valid
index goes on in hold-over. ON_CNT counts since power-on reset and is kept (log entry 45). -/
def deviceReset (s : State) : State :=
  let s := dropWrites (drainAll s)
  let m := s.mains
  let valid := cidxOk s
  let age := if isSet s F.MSY_STATUS_LOCK then 0 else getF s F.MSY_STATUS_HOLD_AGE
  let t : State := { State.reset with
    regs := s.regs.filter fun e => resetKept e.1
    pins := s.pins, pcie := s.pcie
    boot := { fuses := s.boot.fuses }
    mains := {
      elapsed := m.elapsed, running := m.running, tb := m.tb, frac := m.frac, pps := m.pps, zc := m.zc, stepped := m.stepped, freq := m.freq,
      periods := m.periods, everLocked := m.everLocked }
    bands := s.bands
    nvs := { banks := s.nvs.banks, retired := s.nvs.retired }
    rtc := s.rtc
    readData := s.readData, posted := s.posted, nextUid := s.nextUid, nextJob := s.nextJob, nextFid := s.nextFid
    freeCtr := s.freeCtr, pending := s.pending }
  let t := setF (setB (setB t F.MSY_STATUS_CIDX_VALID valid) F.MSY_STATUS_HOLD valid) F.MSY_STATUS_HOLD_AGE age
  let t := (List.range' 1 20).foldl (fun t d => setF t (F.PWR_DOM_ON_CNT d) (getF s (F.PWR_DOM_ON_CNT d))) t
  let t := if domainOn s 2 then setPg t 2 true else t
  let t := if s.pins.hvPg then setPg t 17 true else t
  let t := wrN t R.CLK_STATUS (Nat.lor (rdN t R.CLK_STATUS) (Nat.land (rdN s R.CLK_STATUS) 0xF0000400))
  setF t F.JIR_STATUS_CIDX_CONFLICT (getF s F.JIR_STATUS_CIDX_CONFLICT)

/-- DEVICE_RESET_WAIT_END (R69): every completion is written, or 10 ms have passed. -/
def execDeviceResetWaitEnd (s : State) : Answer :=
  match s.pwr.resetAt with
  | none => done s
  | some t0 => if s.held = [] ∨ t0 + 10000000 ≤ s.mains.elapsed then done (deviceReset s) else done s

/-! ### Host link reset (R68, R70, R503) -/

/-- HOST_LINK_RESET: commands end without completion, what they had waiting for the line is cancelled, the host interface and the
configuration space take their reset values; the line side runs on. -/
def execHostLinkReset (s : State) : Answer :=
  if s.pins.inReset then done s else
  let s := abortCmds ((List.range 8).foldl clearRings s) fun _ => true
  let s := endStreams s (fun _ => true) 0 none
  let s := { s with players := s.players.map fun e => if e.2.st = .waiting ∧ !e.2.align then (e.1, { e.2 with st := .idle }) else e }
  let s := (List.range 8).foldl clearRings s
  let hqe := fun o => (Nat.ble 0x3800 o && Nat.blt o 0x3C00) || (Nat.ble 0x8000 o && o % 0x1000 != 0x00C)
  let s := resetRegs s hqe
  let s := { s with
    par := { s.par with mainBad := s.par.mainBad.filter fun o => !hqe o, shadowBad := s.par.shadowBad.filter fun o => !hqe o }
    pcie := { retry := s.pcie.retry, twoLanes := s.pcie.twoLanes, subVendor := s.pcie.subVendor, subId := s.pcie.subId } }
  done (raise s F.GLB_STATUS_HOST_RESET_SEEN)

/-! ### Clocks (R72 step 3, R511) -/

/-- TIMEKEEPING_PLL_LOCK (R72 step 3): the timebase starts from zero. -/
def execTimekeepingPllLock (s : State) : Answer :=
  if s.pins.inReset || s.mains.running then done s
  else
    let s := setF s F.CLK_STATUS_LOCK (setBits (getF s F.CLK_STATUS_LOCK) 10 10 1)
    done { s with mains := { s.mains with running := true, tb := 0, frac := 0 } }

/-- REF_SOURCE_LOST (R511). -/
def execRefSourceLost (s : State) : Answer :=
  if s.pins.inReset then done s else
  let s := raise (raise s F.CLK_EVT_REF_LOST) F.GLB_FAULT_SUM_REF_LOST
  done (raise (setF (setF s F.CLK_STATUS_REF_OK 0) F.CLK_STATUS_XTAL_OK 0) F.CLK_STATUS_TK_HOLD)

/-- REF_RELOCK (R511): the source has been present for 10 ms. -/
def execRefRelock (s : State) : Answer :=
  if s.pins.inReset || !isSet s F.CLK_STATUS_TK_HOLD then done s else
  let ref := getF s F.CLK_STRAP_CLKSEL == 1 || getF s F.CLK_STRAP_CLKSEL == 2
  done (setF (setB (setB s F.CLK_STATUS_REF_OK ref) F.CLK_STATUS_XTAL_OK (!ref)) F.CLK_STATUS_TK_HOLD 0)

/-- The lock bit of an island. -/
def setLock (s : State) (i : Nat) (b : Bool) : State := setF s F.CLK_STATUS_LOCK (setBits (getF s F.CLK_STATUS_LOCK) i i (b2n b))

/-- Domain of an island. -/
def domainOf (i : Nat) : Nat := ((List.range' 1 20).find? fun d => islandOf d == some i).getD 1

/-- ISLAND_UNLOCK (R511). -/
def execIslandUnlock (i : Fin 10) (s : State) : Answer :=
  if s.pins.inReset || !bit (getF s F.CLK_STATUS_LOCK) i.val then done s
  else done (raise (raiseBit (setLock s i.val false) R.CLK_EVT i.val) F.GLB_FAULT_SUM_CLK_UNLOCK)

/-- ISLAND_RELOCK (R511). -/
def execIslandRelock (i : Fin 10) (s : State) : Answer :=
  if s.pins.inReset || !domainOn s (domainOf i.val) then done s else done (setLock s i.val true)

/-- ISLAND_RELOCK_TIMEOUT (R509, R511): not relocked within 1 ms, a domain failure. -/
def execIslandRelockTimeout (i : Fin 10) (s : State) : Answer :=
  if s.pins.inReset || !domainOn s (domainOf i.val) || bit (getF s F.CLK_STATUS_LOCK) i.val then done s
  else done (failDomain s (domainOf i.val) 0x21)

/-- X32_STOP (R511): the 32.768 kHz crystal has stopped for 4 ms. -/
def execX32Stop (s : State) : Answer :=
  let s := if s.pins.inReset then s else raise (setF s F.CLK_STATUS_X32_OK 0) F.CLK_EVT_X32_STOP
  let s := raise s F.RTC_STATUS_TIME_INVALID
  let s := flagBins s Flag.step
  done { s with rtc := { s.rtc with running := false } }

end Sys2Proof.Machine
end

