-- ==== Sys2Proof/Machine/Boot.lean ====
section
/-! DEFINITION. Fuses, the boot flow, the images, measurement and the attestation record (R72, R341, R428 to R440, R443, R444). -/

namespace Sys2Proof.Machine

/-! ### Fuses (R428 to R431) -/

/-- The fuse words of Table: Fuse map. -/
def fuseWords : List Nat := List.range 0x4C ++ List.range' 0x80 0x80 ++ List.range' 0x100 0x4C

/-- Restrictive words. -/
def restrictiveWord (w : Nat) : Bool := w == 0x030 || (Nat.ble 0x03D w && Nat.ble w 0x040)

/-- Restrictive value of each bit of a restrictive word: DEBUG_OPEN's is 0, every other one 1. -/
def restrictiveBits (w : Nat) : Nat := if w = 0x03D then 0xFFFF_FFFE else 0xFFFF_FFFF

/-- Redundant copy of a key or trim word. -/
def copyWord (w : Nat) : Option Nat :=
  if restrictiveWord w then none
  else if w < 0x4C then some (w + 0x100)
  else if 0x80 ≤ w ∧ w < 0xC0 then some (w + 0x40)
  else none

/-- The three reads of a word: those given, and otherwise its array value three times. -/
def fuseReads (s : State) (reads : List (Nat × Word × Word × Word)) (w : Nat) : Word × Word × Word :=
  match reads.find? fun e => e.1 == w with
  | some e => e.2
  | none => let v := fgetD s.boot.fuses w 0; (v, v, v)

/-- The three reads agree. -/
def soundReads (x : Word × Word × Word) : Bool := x.1 == x.2.1 && x.1 == x.2.2

/-- Resolve a word by its class: value and source, 0 primary, 1 copy, 2 restrictive bits applied, 3 default or unusable (R429). A word
the spec gives no value, marginal with its copy or a marginal copy itself, is `free`; an unusable SERIAL reads 0. -/
def resolveFuse (rdw : Nat → Word × Word × Word) (free : Word) (w : Nat) : Word × Nat :=
  let x := rdw w
  if soundReads x then (x.1, 0)
  else if restrictiveWord w then
    let differ := (x.1 ^^^ x.2.1) ||| (x.1 ^^^ x.2.2)
    ((x.1 &&& ~~~differ) ||| (differ &&& BitVec.ofNat 32 (restrictiveBits w)), 2)
  else match copyWord w with
  | none => (free, 0)
  | some c =>
    if soundReads (rdw c) then ((rdw c).1, 1)
    else if 0x80 ≤ w then (Config.trimDefault w, 3)
    else if w = 0x049 ∨ w = 0x04A then (0, 3)
    else (free, 3)

/-- Extend a measurement slot: M is SHA-384(M ‖ d) (R439). -/
def extendSlot (s : State) (i : Nat) (d : List Byte) : State :=
  let m := beNat (sha384 (toBE 48 (fgetD s.boot.meas i 0) ++ d))
  { s with boot := { s.boot with meas := fput s.boot.meas i m } }

/-- The marginal bitmap of R442. -/
def marginalBytes (s : State) : List Byte :=
  (List.range 64).map fun i => BitVec.ofNat 8 ((List.range 8).map fun b => 2 ^ b * b2n (s.boot.marg.contains (8 * i + b))).sum

/-- Every word is resolved for the session (R429, R430). -/
def resolveAll (s : State) (reads : List (Nat × Word × Word × Word)) : State :=
  let rdw := fuseReads s reads
  let one := fun (s : State) (w : Nat) =>
    let r := resolveFuse rdw (Config.freeBits 32 s.freeCtr) w
    { usedFree s with boot := { s.boot with
        resolved := fputD s.boot.resolved w 0 r.1,
        src := fputD s.boot.src w 0 r.2,
        marg := if soundReads (rdw w) then s.boot.marg else s.boot.marg ++ [w] } }
  fuseWords.foldl one { s with boot := { s.boot with resolved := [], src := [], marg := [] } }

/-- Words of the seed that are unusable (R429). -/
def seedLost (s : State) : Bool := (List.range' 0x041 8).any fun w => fgetD s.boot.src w 0 == 3

/-- FUSE_SHADOW_VALID (R72 step 4, R429, R430, R439): the words resolve, slots 0 and 1 are measured, and the domains of steps 5 to 7 are
switched on. -/
def execFuseShadowValid (reads : List (Nat × Word × Word × Word)) (s : State) : Answer :=
  if s.pins.inReset || !s.mains.running || s.boot.shadowOk || getF s F.GLB_STATUS_BOOT_PHASE != 0 then done s else
  let s := resolveAll s reads
  let from3 := s.boot.src.filter fun e => e.2 == 3 && Nat.ble 0x80 e.1
  let from1 := s.boot.src.filter fun e => e.2 == 1
  let s := setF (setF (setF (raise s F.OTP_STATUS_SHADOW_OK) F.OTP_STATUS_N_MARG s.boot.marg.length) F.OTP_STATUS_N_DEF from3.length)
    F.OTP_STATUS_N_COPY from1.length
  let s := if seedLost s then raise (raise s F.ATT_STATUS_AK_INVALID) F.ATT_STATUS_DK_INVALID else s
  let words := (List.range 0x41 ++ [0x049, 0x04A, 0x04B]).flatMap fun w => toLE 4 (fuse s w)
  let s := extendSlot (extendSlot s 0 (toBE 48 Config.romDigest.toNat)) 1 (sha384 (words ++ marginalBytes s))
  done (reqDomains (setF { s with boot := { s.boot with shadowOk := true } } F.GLB_STATUS_BOOT_PHASE 1) [2, 4, 14, 16, 12, 13])

/-- Words of a thermometer, as blown, with `data` blown in word `w`: they count up from bit 0 (R431). -/
def thermometerOk (s : State) (base n w : Nat) (data : Word) : Bool :=
  let word := fun i => Nat.lor (fgetD s.boot.fuses i 0).toNat (if i = w then data.toNat else 0)
  let v := ((List.range n).map fun i => word (base + i) * 2 ^ (32 * i)).sum
  Nat.land v (v + 1) == 0

/-- Programming is accepted for these words and bits only (R431). -/
def mayProgram (s : State) (w : Nat) (data : Word) : Bool :=
  if (0x031 ≤ w ∧ w ≤ 0x03C) ∨ (0x131 ≤ w ∧ w ≤ 0x13C) then (List.range' 0x031 12).all fun k => fuse s k == 0
  else if w = 0x03D then data &&& 0xFFFF_FFF9 == 0
  else if w = 0x03E ∨ w = 0x03F then thermometerOk s 0x03E 2 w data
  else if w = 0x040 then thermometerOk s 0x040 1 w data
  else false

/-- OTP_PGM_CMD is written (R431). A request outside both conditions shows either result; one made while BUSY is ignored (log entry
46). -/
def programFuse (s : State) (key : Nat) (env : Bool) : State :=
  if key ≠ 0x5A ∨ s.boot.pgm.isSome then s else
  let w := getF s F.OTP_PGM_IDX_WORD
  let data := rd s R.OTP_PGM_DATA
  match mayProgram s w data, env with
  | true, true => raise { s with boot := { s.boot with pgm := some (w, data) } } F.OTP_PGM_STAT_BUSY
  | true, false => setF s F.OTP_PGM_STAT_RESULT 3
  | false, true => setF s F.OTP_PGM_STAT_RESULT 2
  | false, false => usedFree (setF s F.OTP_PGM_STAT_RESULT (2 + freeNat s 1))

/-- FUSE_PROGRAM (R431): a write of function 0. -/
def execFuseProgram (key : Byte) (env : Bool) (s : State) : Answer :=
  done (access s R.OTP_PGM_CMD fun s => programFuse s key.toNat env)

/-- FUSE_PROGRAM_DONE (R431): the bits are blown, and the word reads `m1` and `m0` at the margin references. -/
def execFuseProgramDone (m1 m0 : Word) (s : State) : Answer :=
  match s.boot.pgm with
  | none => done s
  | some (w, data) =>
    let s := { s with boot := { s.boot with pgm := none, fuses := fputD s.boot.fuses w 0 (fgetD s.boot.fuses w 0 ||| data) } }
    let ok := m1 &&& data == data && m0 &&& data == data
    done (setF (setF s F.OTP_PGM_STAT_BUSY 0) F.OTP_PGM_STAT_RESULT (b2n (!ok)))

/-! ### Link and DRAM (R72 steps 5 and 7, R79, R341) -/

/-- LINK_TRAINED (R341): at most two lanes once the link has dropped to them (R79). -/
def execLinkTrained (speed lanes : Nat) (s : State) : Answer :=
  if s.pins.inReset || !domainOn s 2 || Nat.blt speed 1 || Nat.blt 3 speed || !(lanes == 1 || lanes == 2 || lanes == 4) then done s
  else done { s with pcie := { s.pcie with up := true, speed := speed, lanes := if s.pcie.twoLanes then min lanes 2 else lanes } }

/-- DRAM_TRAINED (R72 step 7). -/
def execDramTrained (s : State) : Answer :=
  if s.boot.shadowOk && domainOn s 12 && domainOn s 13 && booting s then done { s with boot := { s.boot with dramOk := true } } else done s

/-! ### The firmware image (R432 to R434, R443) -/

/-- Bits at 1. -/
def ones32 (x : Nat) : Nat := ((List.range 32).map fun i => b2n (bit x i)).sum

/-- Security floors of the fuses (R428). -/
def fwFloor (s : State) : Nat := ones32 (fuse s 0x03E) + ones32 (fuse s 0x03F)
def xFloor (s : State) : Nat := ones32 (fuse s 0x040)

/-- A key hash in 12 words, when it is usable (R428, R429; log entry 11). -/
def keyHash (s : State) (base : Nat) : Option (List Byte) :=
  let ws := List.range' base 12
  if ws.any fun w => fgetD s.boot.src w 0 == 3 then none else some (ws.flatMap fun w => toLE 4 (fuse s w))

/-- The integrator key hash: all zero, or unusable, is none (R428, R429). -/
def intHash (s : State) : Option (List Byte) := (keyHash s 0x031).filter fun h => h.any (· != 0)

/-- A signature r ‖ s over a message verifies under a public key (R422, R433). -/
def sigOk (pub sig msg : List Byte) : Bool :=
  match ptOf pub with
  | .error _ => false
  | .ok q => ecdsaOk q (beNat (slice sig 0 32)) (beNat (slice sig 32 32)) (beNat (slice (sha384 msg) 0 32))

def zeros (l : List Byte) : Bool := l.all (· == 0)

/-- Offset and length of a component (R432; four bytes each, log entry 46). -/
def compOf (img : List Byte) (i : Nat) : Nat × Nat := (leAt img (16 + 16 * i) 4, leAt img (20 + 16 * i) 4)

/-- Check 1 of R433. -/
def headerOk (img : List Byte) : Bool :=
  let len := leAt img 8 4
  let cs := (List.range 3).map (compOf img)
  slice img 0 4 == [0x4F, 0x58, 0x46, 0x57] && leAt img 4 2 == 1 && Nat.ble 1024 len && Nat.ble len (2 ^ 22) &&
    zeros (slice img 12 4) && zeros ((List.range 3).flatMap fun i => slice img (28 + 16 * i) 4) && zeros (slice img 210 46) &&
    zeros (slice img 512 512) && cs.all (fun c => Nat.ble (c.1 + c.2) len) &&
    [(0, 1), (0, 2), (1, 2)].all fun (i, j) =>
      let a := cs.getD i (0, 0)
      let b := cs.getD j (0, 0)
      Nat.ble (a.1 + a.2) b.1 || Nat.ble (b.1 + b.2) a.1

/-- The co-signature is there and verifies (R433 check 4). -/
def cosigned (s : State) (img : List Byte) : Bool :=
  leAt img 209 1 == 1 && intHash s == some (sha384 (slice img 384 64)) && sigOk (slice img 384 64) (slice img 448 64) (slice img 0 384)

/-- The first firmware check that fails (R433). -/
def firmwareFault (s : State) (img : List Byte) : Option Nat :=
  let key := leAt img 208 1
  let want := bit (fuse s 0x03D) 1 || isSet s F.ATT_BPOL1_COSIGN_REQ
  if !headerOk img then some 0x01
  else if 3 < key ∨ keyHash s (12 * key) ≠ some (sha384 (slice img 256 64)) ∨ bit (fuse s 0x030) key then some 0x03
  else if !sigOk (slice img 256 64) (slice img 320 64) (slice img 0 256) then some 0x02
  else if (want || leAt img 209 1 == 1) && !cosigned s img then some 0x04
  else if leAt img 6 2 < max (fwFloor s) (getF s F.ATT_BPOL0_FW_SVN_MIN) then some 0x05
  else if (List.range 3).any fun i => sha384 (slice img (compOf img i).1 (compOf img i).2) != slice img (64 + 48 * i) 48 then some 0x06
  else none

/-- The boot policy is loaded (R434). -/
def loadPolicy (s : State) : State :=
  match readTriple s (sysCopies 0) 0 8 fun _ => none with
  | (some p, s) => wrN (wrN s R.ATT_BPOL0 (leAt p 0 4)) R.ATT_BPOL1 (leAt p 4 4 % 8)
  | (none, s) =>
    let s := setF (setF s F.ATT_BPOL0_FW_SVN_MIN (fwFloor s)) F.ATT_BPOL0_X_SVN_MIN (xFloor s)
    raise (wrN s R.ATT_BPOL1 7) F.ATT_STATUS_BPOL_LOST

/-- The boot count is read, and its next value written (R443, R457): it shows once it is committed. -/
def countBoot (s : State) : State :=
  match readTriple s (sysCopies 2) 0 4 fun l => some (toLE 4 (maxField l 0 4)) with
  | (some v, s) => writeRecord (wrN s R.ATT_BOOTCNT (leNat v)) (sysCopies 2) 0 (toLE 4 (leNat v + 1)) .bootCount
  | (none, s) => s

/-- The image is in use: slots 3 to 5 and its security version (R439). -/
def measureFirmware (s : State) (img : List Byte) : State :=
  let dig := fun i => slice img (64 + 48 * i) 48
  let s := extendSlot (extendSlot (extendSlot (extendSlot s 3 (sha384 (slice img 0 512))) 3 (dig 0)) 4 (dig 1)) 5 (dig 2)
  let s := setB (setF s F.ATT_SVN_FW_SVN (leAt img 6 2)) F.ATT_STATUS_COSIGNED (leAt img 209 1 == 1)
  { s with boot := { s.boot with fwOk := true } }

/-- The boot policy, loaded with the store's scan or, where TANSY_A came on after it, now (R434). -/
def withPolicy (s : State) : State := if getF s F.GLB_STATUS_BOOT_PHASE = 1 then loadPolicy s else s

/-- FIRMWARE_IMAGE_VERIFIED (R72 step 6, R433, R434, R439, R443). -/
def execFirmwareImageVerified (image : List Byte) (s : State) : Answer :=
  let p := getF s F.GLB_STATUS_BOOT_PHASE
  if s.pins.inReset || !(domainOn s 4 && domainOn s 16 && nvsReady s) || !(p == 1 || p == 2) then done s else
  let s := countBoot (withPolicy s)
  let s := extendSlot (setF s F.GLB_STATUS_BOOT_PHASE 3) 2 (policyBytes (rdN s R.ATT_BPOL0) (rdN s R.ATT_BPOL1))
  match firmwareFault s image with
  | some code => done (stopBoot s code)
  | none => done (measureFirmware s image)

/-! ### The firmware runs (R72 step 8, R440) -/

/-- The attestation record: Q in one row, the first 16 bytes of SHA-384(d) in another (log entry 30). -/
def attestRecord (s : State) : List Byte × List Byte :=
  (ptBytes (ptMul (attestKey s) p256G), slice (sha384 (toBE 32 (attestKey s))) 0 16)

/-- No attestation record was ever written. -/
def noAttest (s : State) : Bool := ((readCopies s (sysCopies 1) 0 64) ++ (readCopies s (sysCopies 4) 0 16)).all fun c => c.any zeros

/-- The attestation record is made at the first boot and compared at every later one (R440, R457). -/
def checkAttest (s : State) : State :=
  if isSet s F.ATT_STATUS_AK_INVALID then s
  else if noAttest s then
    let r := attestRecord s
    let s := writeRecord (writeRecord s (sysCopies 1) 0 r.1 .attest) (sysCopies 4) 0 r.2 .attest
    raise s F.ATT_STATUS_AK_FIRST
  else
    let (v, s) := readTriple s (sysCopies 4) 0 16 fun _ => none
    if v = some (attestRecord s).2 then s else raise (raise s F.ATT_STATUS_AK_INVALID) F.ATT_STATUS_DK_INVALID

/-- FIRMWARE_START (R72 step 8). -/
def execFirmwareStart (s : State) : Answer :=
  if s.boot.fwOk && s.boot.dramOk && getF s F.GLB_STATUS_BOOT_PHASE == 3 then
    let s := checkAttest (setF s F.GLB_STATUS_BOOT_PHASE 4)
    done { s with boot := { s.boot with running := true }, pcie := { s.pcie with retry := false } }
  else done s

/-! ### The Xaton image (R437, R438) -/

/-- Words of a payload from a byte on. -/
def wordsAt (p : List Byte) (lo n : Nat) : List Word := (List.range n).map fun i => BitVec.ofNat 32 (leAt p (lo + 4 * i) 4)

/-- One record from its type and payload; none is malformed (R437, R438; a field outside its range is malformed, log entry 46). -/
def parseRec (type : Nat) (p : List Byte) : Option XRec :=
  let word := BitVec.ofNat 32 (leAt p 4 4)
  match type with
  | 1 => if p.length = 8 ∧ leAt p 0 4 < 0x8000 ∧ (regAt (leAt p 0 4)).any (fun d => d.rw != 0) then some (.reg (leAt p 0 4) word) else none
  | 2 => if p.length = 100 ∧ leAt p 0 1 < 3 then some (.coef (leAt p 0 1) (wordsAt p 4 24)) else none
  | 3 => if 4 ≤ p.length ∧ p.length = 4 + 4 * leAt p 2 1 ∧ leAt p 0 1 < 2
      then some (.tonePair (leAt p 0 1) (leAt p 1 1) (wordsAt p 4 (leAt p 2 1))) else none
  | 4 => if p.length = 4 then some (.subsys (leAt p 0 2) (leAt p 2 2)) else none
  | 5 => if p.length = 8 ∧ leAt p 0 4 < 4 then some (.ref (leAt p 0 4) word) else none
  | 6 => if p.length = 4 then some (.lock (BitVec.ofNat 32 (leAt p 0 4))) else none
  | _ => none

/-- A LOCK record. -/
def XRec.isLock : XRec → Bool
  | .lock _ => true
  | _ => false

/-- The set a REF record names. -/
def XRec.refSet : XRec → Option Nat
  | .ref n _ => some n
  | _ => none

/-- The records of an image, on fuel; none when one is malformed or one follows LOCK. -/
def parseRecs : Nat → List Byte → Option (List XRec)
  | 0, _ => some []
  | n + 1, l =>
    if l = [] then some [] else
    let len := leAt l 2 2
    let whole := 4 + (len + 3) / 4 * 4
    if l.length < 4 ∨ l.length < whole then none else
    match parseRec (leAt l 0 1) (slice l 4 len) with
    | none => none
    | some r => if r.isLock ∧ l.drop whole ≠ [] then none else (parseRecs n (l.drop whole)).map fun rs => r :: rs

/-- The records, when the image is well formed (R437, R438). -/
def parseXaton (img : List Byte) : Option (List XRec) :=
  if leAt img 4 2 ≠ 1 ∨ leAt img 8 4 < 256 ∨ img.length < leAt img 8 4 ∨ !zeros (slice img 12 116) then none else
  match parseRecs img.length (slice img 256 (leAt img 8 4 - 256)) with
  | some rs => if decide (rs.filterMap XRec.refSet).Nodup then some rs else none
  | none => none

/-- The image verifies (R438 steps 1 to 4): its records, or the code the boot stops with; none is an absent image. -/
def verifyXaton (s : State) (img : List Byte) : Except Nat (Option (List XRec)) :=
  if slice img 0 4 ≠ [0x58, 0x41, 0x54, 0x4E] then
    (if bit (fuse s 0x03D) 2 || isSet s F.ATT_BPOL1_XATON_REQ then .error 0x11 else .ok none)
  else if intHash s ≠ some (sha384 (slice img 128 64)) ∨
      !sigOk (slice img 128 64) (slice img 192 64) (slice img 0 192 ++ slice img 256 (leAt img 8 4 - 256)) then .error 0x10
  else if leAt img 6 2 < max (xFloor s) (getF s F.ATT_BPOL0_X_SVN_MIN) then .error 0x12
  else match parseXaton img with
  | none => .error 0x13
  | some rs => .ok (some rs)

/-- Write the records: those whose domain is on now, the others later; then the references and the locks (R438 step 5). -/
def applyXaton (s : State) (rs : List XRec) : State :=
  let late := fun (r : XRec) => r.isLock || r.refSet.isSome
  let now := rs.filter fun r => !late r && r.domain != 10 && domainOn s r.domain
  let later := rs.filter fun r => !late r && r.domain != 10 && !domainOn s r.domain
  let s := now.foldl applyRec { s with boot := { s.boot with xaton := rs, held := later } }
  let s := (rs.filter fun r => r.refSet.isSome).foldl applyRec s
  (rs.filter XRec.isLock).foldl applyRec s

/-- Domains of step 10, in order. -/
def controlDomains : List Nat := [5, 6, 7, 8, 9, 11, 15, 3]

/-- Step 9 ends: slots 6 and 7, the flash is free for function 0, and the domains of step 10 are switched on (R72, R439, R481). -/
def endXaton (s : State) (img : List Byte) : State :=
  let s := extendSlot s 6 (sha384 img)
  let words := [R.GLB_CRC_REF 0, R.GLB_CRC_REF 1, R.GLB_CRC_REF 2, R.GLB_CRC_REF 3, R.GLB_LOCK].flatMap fun r => toLE 4 (rdN s r)
  reqDomains (setF (extendSlot s 7 words) F.SPI_F_STATUS_OWN 0) controlDomains

/-- The device is on its way back from Standby. -/
def returning (s : State) : Bool := getF s F.GLB_STATUS_BOOT_PHASE == 15 && pwrState s == 2 && isSet s F.PWR_STATUS_BUSY && !s.pins.inReset

/-- XATON_APPLY (R72 step 9, R438, R439). On the return from Standby the image in the flash is verified again, and its records take the
place of those of the boot (log entry 45). -/
def execXatonApply (image : List Byte) (s : State) : Answer :=
  if returning s then
    match verifyXaton s image with
    | .error code => done (stopBoot s code)
    | .ok rs => done (rewriteXaton s (rs.getD []))
  else if getF s F.GLB_STATUS_BOOT_PHASE ≠ 4 ∨ !s.boot.running then done s else
  match verifyXaton s image with
  | .error code => done (stopBoot s code)
  | .ok none => done (endXaton (setF s F.GLB_STATUS_BOOT_PHASE 5) [])
  | .ok (some rs) =>
    let s := raise (setF (setF s F.GLB_STATUS_BOOT_PHASE 5) F.ATT_SVN_X_SVN (leAt image 6 2)) F.ATT_STATUS_XATON_USED
    done (endXaton (applyXaton s rs) (slice image 0 (leAt image 8 4)))

/-! ### Steps 10 and 11 (R72, R436, R439) -/

/-- CONTROL_DOMAINS_ON (R72 step 10): what is still off of domains 5 to 9, 11, 15 and 3 reports power good in this order. -/
def execControlDomainsOn (s : State) : Answer :=
  if getF s F.GLB_STATUS_BOOT_PHASE ≠ 5 then done s else
  let s := controlDomains.foldl (fun s d => if mayRise s d then domainUp s d else s) s
  if controlDomains.all (domainOn s) then done (setF s F.GLB_STATUS_BOOT_PHASE 6) else done s

/-- LISTEN_REACHED (R72 step 11, R436, R439): the debug port opens or stays closed, the measurements become final, Listen takes effect. -/
def execListenReached (s : State) : Answer :=
  if getF s F.GLB_STATUS_BOOT_PHASE ≠ 6 then done s else
  let opens := bit (fuse s 0x03D) 0 && !isSet s F.ATT_BPOL1_DBG_DIS
  let s := if opens then extendSlot (raise s F.ATT_STATUS_DEBUG_OPEN) 7 [0xDB, 0x60, 0x00, 0x01] else s
  let s := raise (setF s F.GLB_STATUS_BOOT_PHASE 15) F.ATT_STATUS_MEAS_FINAL
  done (pursueListen (pmStart (setPower s 3)))

end Sys2Proof.Machine
end

