-- ==== Sys2Proof/Machine/Pci.lean ====
section
/-! DEFINITION. The configuration space, and the host's accesses beyond BAR0: the MSI-X table and the PBA of BAR4, the doorbells of BAR2 (R341,
R343 to R345, R373). -/

namespace Sys2Proof.Machine

/-! ### The configuration space (R341, R343, R344) -/

/-- Identifiers of function 0 (R344): device, class code, revision, and the device identifier of a virtual function (R343). -/
def Pci.device : Nat := 0x9618
def Pci.classCode : Nat := 0x078000
def Pci.revision : Nat := 0xB0
def Pci.vfDevice : Nat := 0x9619

/-- TotalVFs and InitialVFs: 7, none with the boot stopped (R74, R343). -/
def totalVfs (s : State) : Nat := if bootStopped s then 0 else 7

/-- Routing ID of a function, less that of function 0: First VF Offset and VF Stride are 1 (R343). -/
def routingOffset (fn : Nat) : Nat := fn

/-- Vectors of a function's MSI-X table (R341). -/
def vectors (fn : Nat) : Nat := if fn = 0 then 32 else 8

/-- The dwords of a function's configuration space that the spec gives: the header's at their places in PCI Express Base, and those of the
capabilities, whose places the spec does not give, from 0x100 on in the order of Table: Capabilities (log entry 130). -/
def cfgRead (s : State) (fn o : Nat) : Nat :=
  let pf := fn == 0
  match o with
  | 0x00 => if pf then fieldsOf [(Pci.device, 16), (Config.vendorId.toNat, 0)] else 0xFFFF_FFFF
  | 0x08 => fieldsOf [(Pci.classCode, 8), (Pci.revision, 0)]
  | 0x2C => fieldsOf [(s.pcie.subId, 16), (s.pcie.subVendor, 0)]
  -- power management: PowerState, No_Soft_Reset 0
  | 0x100 => if pf && s.pcie.d3hot then 3 else 0
  -- device capabilities: payload up to 256 bytes, 8-bit Extended Tag, Function Level Reset; completion timeout ranges A and B
  | 0x104 => fieldsOf [(1, 28), (1, 5), (1, 0)]
  | 0x108 => 3
  -- link capabilities: 8 GT/s, four lanes, ASPM L1 only; the link as it is
  | 0x10C => fieldsOf [(2, 10), (4, 4), (3, 0)]
  | 0x110 => fieldsOf [(s.pcie.lanes, 20), (s.pcie.speed, 16)]
  -- MSI-X message control: Enable, Function Mask, table size less one; the table at 0 and the PBA at 0x800 of BAR4
  | 0x114 => fieldsOf [(b2n (bit s.pcie.msixEn.toNat fn), 31), (b2n (bit s.pcie.fnMask.toNat fn), 30), (vectors fn - 1, 16)]
  | 0x118 => 4
  | 0x11C => 0x804
  -- Advanced Error Reporting and the Device Serial Number: function 0 alone
  | 0x120 => b2n pf
  | 0x124 => if pf then fuse s 0x049 else 0
  | 0x128 => if pf then fuse s 0x04A else 0
  -- SR-IOV: TotalVFs and InitialVFs, NumVFs and VF Enable, VF Stride and First VF Offset, VF Device ID, 4 KiB pages
  | 0x12C => if pf then fieldsOf [(totalVfs s, 16), (totalVfs s, 0)] else 0
  | 0x130 => if pf then fieldsOf [(s.pcie.numVfs, 16), (b2n s.pcie.vfEnable, 0)] else 0
  | 0x134 => if pf then fieldsOf [(1, 16), (routingOffset 1, 0)] else 0
  | 0x138 => if pf then Pci.vfDevice * 2 ^ 16 else 0
  | 0x13C => b2n pf
  -- ARI
  | 0x140 => 1
  | _ => 0

/-- A write of the configuration space: MSI-X Enable and the Function Mask; messages no longer held back go out (R373). -/
def cfgWrite (s : State) (fn o : Nat) (v : Word) : State :=
  if o ≠ 0x114 then s else
  let p := s.pcie
  sendPending { s with pcie := { p with
    msixEn := BitVec.ofNat 8 (setBits p.msixEn.toNat fn fn (b2n (bit v.toNat 31))),
    fnMask := BitVec.ofNat 8 (setBits p.fnMask.toNat fn fn (b2n (bit v.toNat 30))) } } fn

/-! ### BAR4 (R345, R373) -/

/-- A dword of the MSI-X table or the PBA; 0 beyond them. -/
def bar4Read (s : State) (fn o : Nat) : Nat :=
  if o < 16 * vectors fn then
    if o % 16 = 12 then b2n (bit (fgetD s.pcie.vecMask fn 0xFFFF_FFFF).toNat (o / 16)) else (fgetD s.pcie.table (fn * 128 + o / 4) 0).toNat
  else if o = 0x800 then (fgetD s.pcie.pba fn 0).toNat
  else 0

/-- A write of a dword of the MSI-X table: address, data, or the vector's mask; elsewhere nothing is kept. -/
def bar4Write (s : State) (fn o : Nat) (v : Word) : State :=
  if 16 * vectors fn ≤ o then s
  else if o % 16 = 12 then
    let m := (fgetD s.pcie.vecMask fn 0xFFFF_FFFF).toNat
    sendPending { s with pcie := { s.pcie with
      vecMask := fputD s.pcie.vecMask fn 0xFFFF_FFFF (BitVec.ofNat 32 (setBits m (o / 16) (o / 16) (b2n (bit v.toNat 0)))) } } fn
  else { s with pcie := { s.pcie with table := fputD s.pcie.table (fn * 128 + o / 4) 0 (if o % 16 = 0 then v &&& ~~~3#32 else v) } }

/-! ### Accesses beyond BAR0 -/

/-- Where an access lies: BAR2 from 0x2_0000, BAR4 from 0x4_0000, the configuration space from 0x8_0000 of the command's offset (log entry
130). -/
def spaceOf (off : Nat) : Option (Nat × Nat) :=
  if off % 0x10000 < 0x1000 then
    match off / 0x10000 with
    | 2 => some (2, off % 0x10000)
    | 4 => some (4, off % 0x10000)
    | 8 => some (8, off % 0x10000)
    | _ => none
  else none

/-- A function's configuration space is answered: in D3hot too (R375). -/
def cfgHere (s : State) (fn : Nat) : Bool := fnExists s fn && cfgOpen s

/-- A write beyond BAR0: doorbells take effect as R350 says, BAR4 takes whole aligned dwords (R345). -/
def spaceWrite (s : State) (fn off : Nat) (v : Word) (be : BitVec 4) : State :=
  match spaceOf off with
  | some (2, o) => if o / 8 < 45 then ringDoorbell s fn (o / 8) v (o % 8 == 0 && be == 15) else s
  | some (4, o) => if fnHere s fn && cfgOpen s && o % 4 == 0 && be == 15 then bar4Write s fn o v else s
  | some (8, o) => if cfgHere s fn && o % 4 == 0 && be == 15 then cfgWrite s fn o v else s
  | _ => s

/-- A read beyond BAR0: BAR2 reads 0, BAR4 answers aligned dwords and 0 else (R345). -/
def spaceRead (s : State) (fn off : Nat) : State :=
  match spaceOf off with
  | some (2, _) => if fnHere s fn && cfgOpen s then { s with readData := 0 } else s
  | some (4, o) =>
    if fnHere s fn && cfgOpen s then { s with readData := if o % 4 = 0 then BitVec.ofNat 32 (bar4Read s fn o) else 0 } else s
  | some (8, o) => if cfgHere s fn then { s with readData := BitVec.ofNat 32 (cfgRead s fn (o / 4 * 4)) } else s
  | _ => s

end Sys2Proof.Machine
end

