-- ==== Sys2Proof/Machine/Access.lean ====
section
/-! DEFINITION. Accesses of the host and of the SPI target port to the register map (R6 to R9, R62, R69, R88, R346, R431, R483, R484,
R499 to R502). -/

namespace Sys2Proof.Machine

/-- A dword write through a function's BAR0, at an offset of PF0 BAR0: the registers whose writes act on the whole device, and all
others. -/
def hostWrite (s : State) (fn o : Nat) (v : Word) : State :=
  if o = R.GLB_RESET then requestReset s fn (BitVec.ofNat 8 v.toNat)
  else if o = R.PWR_CTRL then requestPower s fn (v.toNat % 8)
  else if o = R.OTP_PGM_CMD then access s o fun s => usedFree (programFuse s (v.toNat % 256) (freeNat s 1 == 1))
  else access s o fun s => writeReg s fn o v

/-- REGISTER_WRITE: `off` in the function's BAR0, `be` its byte enables. A partial or unaligned write is discarded with ACC_ERR (R500), and
so is a write of function 0 to the window of another function, with XWIN (R346). Whether VDDA18 and the junction are in range at a fuse
request is free (log entry 46). Beyond BAR0 lie the spaces of `spaceOf`. -/
def execRegisterWrite (fn : Fin 8) (off : Nat) (v : Word) (be : BitVec 4) (s : State) : Answer :=
  match barOffset fn.val off with
  | none => done (spaceWrite s fn.val off v be)
  | some o =>
    if s.pins.inReset || !fnHere s fn.val then done s
    else if be ≠ 15 ∨ o % 4 ≠ 0 then done (offAccess (accErr s) o)
    else if fn.val = 0 ∧ 0x9000 ≤ o then done (crossWindow s o)
    else done (hostWrite s fn.val o v)

/-- READ_CLEAR: a read of a dword; an unaligned one reads its bytes without side effect and sets ACC_ERR (R9, R500). -/
def execReadClear (fn : Fin 8) (off : Nat) (s : State) : Answer :=
  match barOffset fn.val off with
  | none => done (spaceRead s fn.val off)
  | some o =>
    if s.pins.inReset || !fnHere s fn.val then done s
    else if o % 4 = 0 then done (readAccess s o fun s => readReg s o)
    else
      let a := o / 4 * 4
      let w := fun (s : State) (b : Nat) => if reach s b then viewReg s b else 0
      let both := w s a + 2 ^ 32 * w s (a + 4)
      done (offAccess (accErr { s with readData := BitVec.ofNat 32 (both / 2 ^ (8 * (o % 4))) }) o)

/-- SPI_TARGET_READ (R484): the port answers while PERIPH is on. -/
def execSpiTargetRead (off : BitVec 16) (words : Nat) (s : State) : Answer :=
  if s.pins.inReset || !domainOn s 16 || words == 0 then done s else done (targetRead s off.toNat words)

end Sys2Proof.Machine
end

