-- ==== Sys2Proof/Machine/Cycle.lean ====
section
/-! DEFINITION. The cycle boundary: what the tracker does at it is in Mains.lean, and here is everything else that waits for a cycle,
slot or epoch boundary (R23 to R27, R81, R85, R104, R105, R111, R113, R122, R123, R134, R138, R143, R149, R203, R205, R208, R212, R230,
R249, R255, R269, R294, R381, R488, R494). -/

namespace Sys2Proof.Machine

/-! ### Every boundary -/

/-- Receive inputs: the values of the cycle that ends, LOS, and Teasel's MU and RES (R134, R143, R230). -/
def inputsCycle (s : State) : State :=
  if !domainOn s 6 then s else (List.range 4).foldl (fun s i => applyTsl (inputCycle s i) i) s

/-- The limiter's counts of the cycle, a driver's dissipation over it, a measured value, and the end of an overcurrent cut (R205, R208,
R212). -/
def driverCycle (s : State) (p : Nat) : State :=
  let s := setTx s p { txPh s p with cut6 := false }
  if !domainOn s (18 + p) then s else
  let s := limiterCounts s p
  let w := freeNat s 16
  let s := wrN (usedFree s) (R.TXS_PDISS p) w
  if 10 * getF s F.TXS_ALC_CFG_PD_MAX < w then setTx s p { txPh s p with pdEpoch := true } else s

/-- The ROUTE packet of an epoch (R488, R496): the neighbour reports accepted since the last one, and the route costs that have changed. -/
def sendRoute (s : State) : State :=
  let costs := ((dirAll s).map fun r => (r.addr, ownCost s r.addr)).filter fun e => fgetD s.mesh.costsSent e.1 0xFFFF != e.2
  let s := sendPacket s 5 ((costs.flatMap fun e => [e.1, e.2]) ++ s.mesh.news.flatMap fun (rcv, l) =>
    l.flatMap fun (snd, snr, er, rt) => [rcv, snd, wrap 8 snr, er, rt])
  updMesh s fun m => { m with news := [], costsSent := costs.foldl (fun k e => fput k e.1 e.2) m.costsSent }

/-- Packets of the Jiroth ring at a boundary (R488, R494, R496): ROUTE once per epoch, BOUNDARY from every device with a valid index, TIMING from a master that is not
over the ring's size. The departure is stamped in 0.1 ns. -/
def jirothCycle (s : State) (epoch : Bool) : State :=
  if !(jirOn s && cidxOk s) then s else
  let s := if epoch then sendRoute s else s
  let s := sendPacket s 3 [cidxNow s, s.mains.zc]
  if !jirMaster s || isSet s F.JIR_STATUS_OVERSIZE then s else
  let ann := match s.jir.swap with
    | some (e, c) => [e, c]
    | none => []
  sendPacket (updJir s fun j => { j with depart := 10 * tbNow s }) 2 ([cidxNow s, s.mains.zc, getF s F.MAC_SLOT_CFG_SLOT_C] ++ ann)

/-- Exchanges whose receive lanes have gone end their attempt, and closing sessions with nothing left are freed (R252, R259). -/
def sweepExchanges (s : State) : State :=
  let s := (s.jobs.filter fun j => !j.ended && j.begun && !j.live).foldl (fun s j => laneGone s j.id) s
  (s.sessions.map Prod.fst).foldl freeClosed s

/-! ### Epoch boundaries -/

/-- A tone-pair swap that falls due (R149, R494): a ring's master waits for the epoch it announced; a follower takes the announced swap to
a bank of the announced CRC, and otherwise reports TP_MISMATCH. -/
def toneEpoch (s : State) : State :=
  let clear := fun (s : State) => updJir s fun j => { j with swap := none }
  match s.jir.swap with
  | none => toneSwapEffect s
  | some (e, c) =>
    if jirOn s && jirMaster s then (if e = cidxNow s then clear (toneSwapEffect s) else s)
    else if !jirOn s then clear (toneSwapEffect s)
    else
      let s := toneSwapEffect s
      if e ≠ cidxNow s then s else
      match ([0, 1].filter fun b => noTones s || toneBank s != b).find? fun b => toneCrc s b == c with
      | some b => clear (setF (setF s F.CMP_TP_STATUS_NONE 0) F.CMP_TP_STATUS_ACT_BANK b)
      | none => clear (raise s F.JIR_EVT_TP_MISMATCH)

/-- A map change of a session whose epoch boundary has come (R255): confirmed, it is taken; otherwise both maps alternate. -/
def mapEpoch (s : State) (node : Nat) : State :=
  match sess s node with
  | none => s
  | some x => match x.mapChg with
    | none => s
    | some m =>
      if m.split || !(m.q.any fun q => q == cidxNow s) then s
      else if m.confirmed then endMapChange s x m true 0
      else
        let s := raise (setSess s { x with mapChg := some { m with split := true } }) F.MAC_EVT_MAP_SPLIT
        decision s x.fn 5 false x.node x.mapVer m.ver 1

/-- The firmware's channel-map decision for a session (R23, R25, R255): an open choice that begins a change where it lies within the host's
limits, and is discarded with an event where it does not, or where a change is under way. Log entry 102. -/
def decideMap (s : State) (node : Nat) : State :=
  match sess s node with
  | none => s
  | some x =>
    let m : List Chan := (Config.mapDecision s.freeCtr).map fun c => ⟨c.1 % 256, c.2 % 3⟩
    let s := usedFree s
    let ver := (x.mapVer + 1) % 16
    if m = [] ∨ m = x.map ∨ x.state ≠ 0 ∨ s.pwr.watchdog ∨ !domainOn s 9 then s
    else if x.mapChg.isSome || !mapAllowed s x m then decision s x.fn 5 true x.node x.mapVer ver 3
    else setSess s { x with mapChg := some { map := m, ver := ver } }

/-- Sessions: host policies first, then map changes, then the firmware's own (R23, R25, R255, R358). -/
def sessionEpoch (s : State) : State :=
  let nodes := s.sessions.map Prod.fst
  let s := (nodes.filterMap (sess s)).foldl applyModify s
  nodes.foldl decideMap (nodes.foldl mapEpoch s)

/-- Vetch: the host's policies of the directory, the relay method in force, and onward floods counted anew; under host-managed relay there is
no seen cache, and no flood of the device's own waits (R25, R293, R294). -/
def meshEpoch (s : State) : State :=
  let s := (dirAll s).foldl applyPolicy s
  let m := isSet s F.VET_CTRL_METHOD
  updMesh s fun v => { v with
    onward := [], dirty := v.dirty || v.method != m, method := m, seen := if m then [] else v.seen, floods := if m then [] else v.floods }

/-- Receive gains: the change that waited, then the gain controller's next decision; and the suppression report (R122, R123, R138). -/
def gainEpoch (s : State) : State :=
  if !domainOn s 6 then s else (List.range 4).foldl (fun s i => suppReport (agc (applyGain s i) i) i) s

/-- What takes effect at an epoch boundary (R105). -/
def epochBoundary (s : State) : State :=
  let s := applyBank (gainEpoch (leaveDue s))
  let s := (List.range 3).foldl levelEpoch (toneEpoch s)
  evalConflicts (meshEpoch (sessionEpoch s))

/-! ### Slot boundaries -/

/-- What a slot boundary does: mutes that wait for it end or begin, a confirmed mode and Active take effect (R27, R63, R85, R111, R113, R215, R216). -/
def slotBoundary (s : State) (epoch : Bool) : State :=
  let s := { s with pwr := { s.pwr with
    watchdogMute := s.pwr.watchdogMute || s.pwr.watchdog,
    resume := s.pwr.resume.filter fun e => e.2 == .epoch && !epoch } }
  -- a void cycle that the first crossing after lock will bring, or has brought, comes first
  let s := if isSet s F.MSY_STATUS_LOCK && !s.mains.regain && s.mains.lengthen == 0 then setF s F.MSY_STATUS_TXMUTE 0 else s
  let s := if s.crc.mute && getF s F.GLB_CRC_STAT_OK2 == 15 then { s with crc := { s.crc with mute := false } } else s
  let s := takeStatus ((s.sessions.map Prod.snd).foldl modeEffect s)
  if s.pwr.armed then enterActive s else s

/-- CYCLE_BOUNDARY (R96, R104, R107): a measured or predicted boundary, `ts` as the tracker filtered it; while the index is not valid, the
end of a fixed window of 20 ms. -/
def execCycleBoundary (ts : BitVec 64) (freq : Word) (s : State) : Answer :=
  if s.pins.inReset || !s.mains.running then done s else
  let s := judgeBoundary (retime (quietBoundary (mainsBoundary s ts.toNat freq)))
  let s := (List.range 3).foldl driverCycle (inputsCycle s)
  let s := s.jobs.foldl endMutedFiller (if s.mains.voidNow then voidCycle s else s)
  let s := sweepExchanges s
  let epoch := cidxOk s && cidxNow s % 256 == 0
  let s := jirothCycle (if epoch then epochBoundary s else s) epoch
  -- an index lost while Active waited for a slot boundary leaves it no boundary to wait for
  let s := if !cidxOk s && s.pwr.armed then enterActive s else s
  let s := if cidxOk s && cidxNow s % slotC s == 0 && !s.mains.voidNow then slotBoundary s epoch else s
  if standbyDue s then done (pursue (enterStandby s)) else done s

end Sys2Proof.Machine
end

