-- ==== Sys2Proof/Machine/StoreDone.lean ====
section
/-! DEFINITION. What the end of a store write means to the client that waits for it, and the scan at power-up (R243, R410, R411, R417,
R435, R443, R450, R451). -/

namespace Sys2Proof.Machine

/-- A store write of KEY_LOAD has ended: the key is installed with the last one; NVS_WORN ends the command (R417, R455). -/
def loadWritten (s : State) (uid : Nat) (ok : Bool) : State :=
  match findCmd s uid with
  | none => s
  | some c =>
    if !ok then complete s c St.fault Det.nvsWorn 0
    else if writesLeft s uid then s
    else finishLoad s c (D.res c) (recKey c c.payload c.cipher) (recFresh c.payload) c.attempts

/-- The client of a finished write (R243, R409, R416, R417, R435, R443, R454, R455). -/
def clientDone (s : State) (w : NvsWrite) : State :=
  let ok := writeOk w
  match w.client with
  | .none => s
  | .hwm id =>
    (match fget s.nvs.waits id with
    | some x => { s with nvs := { s.nvs with waits := fput s.nvs.waits id { x with outcome := some ok } } }
    | none => s)
  | .keyLoad uid => loadWritten s uid ok
  | .keyDelete uid =>
    (match findCmd s uid with
    | some c => if ok then complete s c St.done 0 0 else complete s c St.fault Det.nvsWorn 0
    | none => s)
  | .bootPolicy => if ok then s else raise s F.ATT_STATUS_BPOL_LOST
  | .bootCount => if ok then wrN s R.ATT_BOOTCNT (leAt w.data 0 4) else raise s F.ATT_STATUS_BPOL_LOST
  | .attest => s
  | .retire row => retireRow s row
  | .checkpoint => if ok then s else raise s F.LFR_EVT_CKPT_FAIL

/-- NVS_WRITE_DONE (R450, R455, R456): the row write in progress ends; `verified` says that the row read back as programmed. -/
def execNvsWriteDone (verified : Bool) (s : State) : Answer :=
  match rowDone s verified with
  | (s, some w) => done (clientDone s w)
  | (s, none) => done s

/-- The scan of the commit fields has ended: what it leaves of each bank; READY is set and waiting requests run (R451). -/
def scanned (s : State) : State :=
  startWrites (raise { s with nvs := { s.nvs with banks := s.nvs.banks.map fun (k, x) => (k, scanBank x) } } F.NVS_STATUS_READY)

/-- NVS_SCAN_DONE (R451). At step 6 of R72, with TANSY_A on, the boot ROM then loads the boot policy (R434, R444). -/
def execNvsScanDone (s : State) : Answer :=
  if !domainOn s 14 || isSet s F.NVS_STATUS_READY then done s
  else if getF s F.GLB_STATUS_BOOT_PHASE = 1 ∧ domainOn s 4 then done (setF (loadPolicy (scanned s)) F.GLB_STATUS_BOOT_PHASE 2)
  else done (scanned s)

end Sys2Proof.Machine
end

