-- ==== Sys2Proof/Machine/Dispatch.lean ====
section
/-! DEFINITION. One arm for each command: a direct call of its meaning. -/

namespace Sys2Proof.Machine

/-- The command's effect on everything but the queue. -/
def exec (i : Instr) (s : State) : Host.Outcome State Fault Refusal :=
  match i with
  | .porstAssert => Sys2Proof.Machine.execPorstAssert s
  | .porstRelease clksel testen => Sys2Proof.Machine.execPorstRelease clksel testen s
  | .supplyMonitorReset => Sys2Proof.Machine.execSupplyMonitorReset s
  | .supplyMonitorResetEnd clksel testen => Sys2Proof.Machine.execSupplyMonitorResetEnd clksel testen s
  | .husenseFall => Sys2Proof.Machine.execHusenseFall s
  | .husenseRise => Sys2Proof.Machine.execHusenseRise s
  | .holdupRecoveryReset clksel testen => Sys2Proof.Machine.execHoldupRecoveryReset clksel testen s
  | .aonReset => Sys2Proof.Machine.execAonReset s
  | .deviceResetRequest fn key => Sys2Proof.Machine.execDeviceResetRequest fn key s
  | .deviceResetWaitEnd => Sys2Proof.Machine.execDeviceResetWaitEnd s
  | .hostLinkReset => Sys2Proof.Machine.execHostLinkReset s
  | .functionLevelReset fn => Sys2Proof.Machine.execFunctionLevelReset fn s
  | .d3hotEntry => Sys2Proof.Machine.execD3hotEntry s
  | .d0Return => Sys2Proof.Machine.execD0Return s
  | .vfEnableClear => Sys2Proof.Machine.execVfEnableClear s
  | .vfEnableSet numVfs => Sys2Proof.Machine.execVfEnableSet numVfs s
  | .standbyRequest fn => Sys2Proof.Machine.execStandbyRequest fn s
  | .listenRequest fn => Sys2Proof.Machine.execListenRequest fn s
  | .activeRequest fn => Sys2Proof.Machine.execActiveRequest fn s
  | .activeExitFrameEnd ph => Sys2Proof.Machine.execActiveExitFrameEnd ph s
  | .domainPowerGood d => Sys2Proof.Machine.execDomainPowerGood d s
  | .domainPgTimeout d => Sys2Proof.Machine.execDomainPgTimeout d s
  | .timekeepingPllLock => Sys2Proof.Machine.execTimekeepingPllLock s
  | .fuseShadowValid reads => Sys2Proof.Machine.execFuseShadowValid reads s
  | .linkTrained speed lanes => Sys2Proof.Machine.execLinkTrained speed lanes s
  | .firmwareImageVerified image => Sys2Proof.Machine.execFirmwareImageVerified image s
  | .dramTrained => Sys2Proof.Machine.execDramTrained s
  | .firmwareStart => Sys2Proof.Machine.execFirmwareStart s
  | .xatonApply image => Sys2Proof.Machine.execXatonApply image s
  | .controlDomainsOn => Sys2Proof.Machine.execControlDomainsOn s
  | .listenReached => Sys2Proof.Machine.execListenReached s
  | .laneCommaLock lane => Sys2Proof.Machine.execLaneCommaLock lane s
  | .laneLockTimeout lane => Sys2Proof.Machine.execLaneLockTimeout lane s
  | .lanePacketCrcError lane samples control => Sys2Proof.Machine.execLanePacketCrcError lane samples control s
  | .laneInvalidCharacter lane => Sys2Proof.Machine.execLaneInvalidCharacter lane s
  | .fiveLaneMapChange => Sys2Proof.Machine.execFiveLaneMapChange s
  | .vdrvPresenceChange mv => Sys2Proof.Machine.execVdrvPresenceChange mv s
  | .viso5PresenceChange mv => Sys2Proof.Machine.execViso5PresenceChange mv s
  | .hvcorePowerGood => Sys2Proof.Machine.execHvcorePowerGood s
  | .faultEvent source item => Sys2Proof.Machine.execFaultEvent source item s
  | .dramUncorrectable page uid => Sys2Proof.Machine.execDramUncorrectable page uid s
  | .relConfigWrite source win v => Sys2Proof.Machine.execRelConfigWrite source win v s
  | .relLogRead entry => Sys2Proof.Machine.execRelLogRead entry s
  | .paritySweep mainBad shadowBad => Sys2Proof.Machine.execParitySweep mainBad shadowBad s
  | .glbCfgParityWrite v => Sys2Proof.Machine.execGlbCfgParityWrite v s
  | .crcPass set => Sys2Proof.Machine.execCrcPass set s
  | .glbCrcRefWrite set v => Sys2Proof.Machine.execGlbCrcRefWrite set v s
  | .glbLockWrite v => Sys2Proof.Machine.execGlbLockWrite v s
  | .watchdogExpiry core => Sys2Proof.Machine.execWatchdogExpiry core s
  | .registerWrite fn off v be => Sys2Proof.Machine.execRegisterWrite fn off v be s
  | .readClear fn off => Sys2Proof.Machine.execReadClear fn off s
  | .senseSample ph code bad => Sys2Proof.Machine.execSenseSample ph code bad s
  | .senseChannelConfig v => Sys2Proof.Machine.execSenseChannelConfig v s
  | .coefWrite v => Sys2Proof.Machine.execCoefWrite v s
  | .coefBankSelect bank => Sys2Proof.Machine.execCoefBankSelect bank s
  | .referencePhaseSelect ph => Sys2Proof.Machine.execReferencePhaseSelect ph s
  | .loopBandwidthSelect lbw => Sys2Proof.Machine.execLoopBandwidthSelect lbw s
  | .trackerEnWrite en => Sys2Proof.Machine.execTrackerEnWrite en s
  | .senseTemperatureUpdate ph temp => Sys2Proof.Machine.execSenseTemperatureUpdate ph temp s
  | .rmsRefresh => Sys2Proof.Machine.execRmsRefresh s
  | .zeroCrossing ph ts pred => Sys2Proof.Machine.execZeroCrossing ph ts pred s
  | .cycleBoundary ts freq => Sys2Proof.Machine.execCycleBoundary ts freq s
  | .holdoverTxLimit => Sys2Proof.Machine.execHoldoverTxLimit s
  | .msyCidxRead => Sys2Proof.Machine.execMsyCidxRead s
  | .timebaseRead => Sys2Proof.Machine.execTimebaseRead s
  | .timebaseStepNow => Sys2Proof.Machine.execTimebaseStepNow s
  | .timebaseStepAtPps => Sys2Proof.Machine.execTimebaseStepAtPps s
  | .rateAdjustWrite v => Sys2Proof.Machine.execRateAdjustWrite v s
  | .ppsModeSelect mode => Sys2Proof.Machine.execPpsModeSelect mode s
  | .ppsEdge ts highNs => Sys2Proof.Machine.execPpsEdge ts highNs s
  | .ppsLost => Sys2Proof.Machine.execPpsLost s
  | .inputEnable inp en => Sys2Proof.Machine.execInputEnable inp en s
  | .gainWrite inp v => Sys2Proof.Machine.execGainWrite inp v s
  | .firCoefWrite inp v => Sys2Proof.Machine.execFirCoefWrite inp v s
  | .firBankSwap inp v => Sys2Proof.Machine.execFirBankSwap inp v s
  | .converterSample inp code ovr erased => Sys2Proof.Machine.execConverterSample inp code ovr erased s
  | .rxWorkingSample inp w ts bad => Sys2Proof.Machine.execRxWorkingSample inp w ts bad s
  | .blankerSeedDone inp => Sys2Proof.Machine.execBlankerSeedDone inp s
  | .blankMaxrun inp => Sys2Proof.Machine.execBlankMaxrun inp s
  | .templateRead inp bad => Sys2Proof.Machine.execTemplateRead inp bad s
  | .templateWrite inp v => Sys2Proof.Machine.execTemplateWrite inp v s
  | .tonePairWrite v => Sys2Proof.Machine.execTonePairWrite v s
  | .tonePairSwap v => Sys2Proof.Machine.execTonePairSwap v s
  | .laneWindowSelect v => Sys2Proof.Machine.execLaneWindowSelect v s
  | .laneStatusRead => Sys2Proof.Machine.execLaneStatusRead s
  | .staticLaneGo => Sys2Proof.Machine.execStaticLaneGo s
  | .laneRelease => Sys2Proof.Machine.execLaneRelease s
  | .laneConfigWrite word v => Sys2Proof.Machine.execLaneConfigWrite word v s
  | .laneApplyPoint lane => Sys2Proof.Machine.execLaneApplyPoint lane s
  | .laneSymbolEnd lane => Sys2Proof.Machine.execLaneSymbolEnd lane s
  | .searchWindowEnd lane => Sys2Proof.Machine.execSearchWindowEnd lane s
  | .lofTimeout lane => Sys2Proof.Machine.execLofTimeout lane s
  | .headerDecoded lane => Sys2Proof.Machine.execHeaderDecoded lane s
  | .bodyDecoded lane => Sys2Proof.Machine.execBodyDecoded lane s
  | .retentionExpiry node seq => Sys2Proof.Machine.execRetentionExpiry node seq s
  | .modeAnnounceExhausted node => Sys2Proof.Machine.execModeAnnounceExhausted node s
  | .supervisionFallback node => Sys2Proof.Machine.execSupervisionFallback node s
  | .frameDecrypt fid ctl arg => Sys2Proof.Machine.execFrameDecrypt fid ctl arg s
  | .hwmCommitDone id => Sys2Proof.Machine.execHwmCommitDone id s
  | .frameTransmitStart job => Sys2Proof.Machine.execFrameTransmitStart job s
  | .carrierSenseCheck job copy => Sys2Proof.Machine.execCarrierSenseCheck job copy s
  | .frameTransmitEnd job => Sys2Proof.Machine.execFrameTransmitEnd job s
  | .impedanceUpdate ph pair space volt cur job k valid => Sys2Proof.Machine.execImpedanceUpdate ph pair space volt cur job k valid s
  | .impedanceSelect v => Sys2Proof.Machine.execImpedanceSelect v s
  | .levelWrite ph lvlMax v => Sys2Proof.Machine.execLevelWrite ph lvlMax v s
  | .overcurrentExceed ph mA => Sys2Proof.Machine.execOvercurrentExceed ph mA s
  | .driverTempWarn ph temp => Sys2Proof.Machine.execDriverTempWarn ph temp s
  | .thermalShutdown ph temp => Sys2Proof.Machine.execThermalShutdown ph temp s
  | .thermalClear ph temp => Sys2Proof.Machine.execThermalClear ph temp s
  | .vdrvLow => Sys2Proof.Machine.execVdrvLow s
  | .vdrvLowClear => Sys2Proof.Machine.execVdrvLowClear s
  | .ocAutoRetry ph => Sys2Proof.Machine.execOcAutoRetry ph s
  | .retryReload ph => Sys2Proof.Machine.execRetryReload ph s
  | .txfClear ph v => Sys2Proof.Machine.execTxfClear ph v s
  | .pmSecond => Sys2Proof.Machine.execPmSecond s
  | .binFinal obj day => Sys2Proof.Machine.execBinFinal obj day s
  | .labelRouteWrite label v => Sys2Proof.Machine.execLabelRouteWrite label v s
  | .laneFramingConfig v => Sys2Proof.Machine.execLaneFramingConfig v s
  | .slotCommit => Sys2Proof.Machine.execSlotCommit s
  | .supervisionExpiry node => Sys2Proof.Machine.execSupervisionExpiry node s
  | .deadlineExpiry uid => Sys2Proof.Machine.execDeadlineExpiry uid s
  | .routedReplyTimeout uid => Sys2Proof.Machine.execRoutedReplyTimeout uid s
  | .slotSizeWrite v => Sys2Proof.Machine.execSlotSizeWrite v s
  | .qaIndexSelect v => Sys2Proof.Machine.execQaIndexSelect v s
  | .routeComputeDone => Sys2Proof.Machine.execRouteComputeDone s
  | .repairHoldExpiry a b => Sys2Proof.Machine.execRepairHoldExpiry a b s
  | .neighbourAgeExpiry sender receiver => Sys2Proof.Machine.execNeighbourAgeExpiry sender receiver s
  | .learnedEntryAgeExpiry addr => Sys2Proof.Machine.execLearnedEntryAgeExpiry addr s
  | .vetRootWrite v => Sys2Proof.Machine.execVetRootWrite v s
  | .regionWrite v => Sys2Proof.Machine.execRegionWrite v s
  | .regionClearDone => Sys2Proof.Machine.execRegionClearDone s
  | .captureItem stream time cidx phase vals => Sys2Proof.Machine.execCaptureItem stream time cidx phase vals s
  | .chunkTimeout stream => Sys2Proof.Machine.execChunkTimeout stream s
  | .playerEntryEnd player => Sys2Proof.Machine.execPlayerEntryEnd player s
  | .playerAlignResume player => Sys2Proof.Machine.execPlayerAlignResume player s
  | .playerStartCycle player => Sys2Proof.Machine.execPlayerStartCycle player s
  | .captureEngineDisable => Sys2Proof.Machine.execCaptureEngineDisable s
  | .playbackEngineDisable => Sys2Proof.Machine.execPlaybackEngineDisable s
  | .streamIndexSelect v => Sys2Proof.Machine.execStreamIndexSelect v s
  | .playerIndexSelect v => Sys2Proof.Machine.execPlayerIndexSelect v s
  | .sqDoorbell fn sq v whole => Sys2Proof.Machine.execSqDoorbell fn sq v whole s
  | .headDoorbell fn ring v whole => Sys2Proof.Machine.execHeadDoorbell fn ring v whole s
  | .ringEnable fn ring v => Sys2Proof.Machine.execRingEnable fn ring v s
  | .ringDisable fn ring v => Sys2Proof.Machine.execRingDisable fn ring v s
  | .sqDrained fn sq => Sys2Proof.Machine.execSqDrained fn sq s
  | .descriptorFetch fn sq desc err => Sys2Proof.Machine.execDescriptorFetch fn sq desc err s
  | .bankStale fn cls => Sys2Proof.Machine.execBankStale fn cls s
  | .nop uid => Sys2Proof.Machine.execNop uid s
  | .send uid buf => Sys2Proof.Machine.execSend uid buf s
  | .poll uid buf => Sys2Proof.Machine.execPoll uid buf s
  | .flood uid buf => Sys2Proof.Machine.execFlood uid buf s
  | .relay uid buf => Sys2Proof.Machine.execRelay uid buf s
  | .sessionOpen uid buf => Sys2Proof.Machine.execSessionOpen uid buf s
  | .sessionModify uid buf => Sys2Proof.Machine.execSessionModify uid buf s
  | .sessionClose uid => Sys2Proof.Machine.execSessionClose uid s
  | .sessionQuery uid => Sys2Proof.Machine.execSessionQuery uid s
  | .qaCommit uid => Sys2Proof.Machine.execQaCommit uid s
  | .qaWithdraw uid => Sys2Proof.Machine.execQaWithdraw uid s
  | .dirRead uid => Sys2Proof.Machine.execDirRead uid s
  | .dirWrite uid buf => Sys2Proof.Machine.execDirWrite uid buf s
  | .dirDelete uid => Sys2Proof.Machine.execDirDelete uid s
  | .pmRead uid => Sys2Proof.Machine.execPmRead uid s
  | .capArm uid buf => Sys2Proof.Machine.execCapArm uid buf s
  | .capEnd uid => Sys2Proof.Machine.execCapEnd uid s
  | .capTrigger uid => Sys2Proof.Machine.execCapTrigger uid s
  | .capRead uid => Sys2Proof.Machine.execCapRead uid s
  | .patLoad uid buf => Sys2Proof.Machine.execPatLoad uid buf s
  | .playStart uid => Sys2Proof.Machine.execPlayStart uid s
  | .playStop uid => Sys2Proof.Machine.execPlayStop uid s
  | .keyLoad uid buf => Sys2Proof.Machine.execKeyLoad uid buf s
  | .keyDelete uid => Sys2Proof.Machine.execKeyDelete uid s
  | .ccmEncrypt uid buf => Sys2Proof.Machine.execCcmEncrypt uid buf s
  | .ccmDecrypt uid buf => Sys2Proof.Machine.execCcmDecrypt uid buf s
  | .ctxSave uid => Sys2Proof.Machine.execCtxSave uid s
  | .ctxRestore uid => Sys2Proof.Machine.execCtxRestore uid s
  | .ecdsaSign uid buf => Sys2Proof.Machine.execEcdsaSign uid buf s
  | .ecdsaVerify uid buf => Sys2Proof.Machine.execEcdsaVerify uid buf s
  | .ecdh uid buf => Sys2Proof.Machine.execEcdh uid buf s
  | .quote uid buf => Sys2Proof.Machine.execQuote uid buf s
  | .pkOperationDone => Sys2Proof.Machine.execPkOperationDone s
  | .broadcastSourceWrite n v => Sys2Proof.Machine.execBroadcastSourceWrite n v s
  | .fuseProgram key env => Sys2Proof.Machine.execFuseProgram key env s
  | .fuseProgramDone m1 m0 => Sys2Proof.Machine.execFuseProgramDone m1 m0 s
  | .nvsWriteDone verified => Sys2Proof.Machine.execNvsWriteDone verified s
  | .nvsScanDone => Sys2Proof.Machine.execNvsScanDone s
  | .nvsRotationRewrite bank => Sys2Proof.Machine.execNvsRotationRewrite bank s
  | .nvsAllowanceResume bank => Sys2Proof.Machine.execNvsAllowanceResume bank s
  | .rtcSnapshotRead => Sys2Proof.Machine.execRtcSnapshotRead s
  | .rtcCommit go => Sys2Proof.Machine.execRtcCommit go s
  | .rtcCommitApply => Sys2Proof.Machine.execRtcCommitApply s
  | .aonSourceChange vio33 vbat => Sys2Proof.Machine.execAonSourceChange vio33 vbat s
  | .tamperOpen loop => Sys2Proof.Machine.execTamperOpen loop s
  | .uartCharacterReceived data parity stop => Sys2Proof.Machine.execUartCharacterReceived data parity stop s
  | .uartCharacterSent collided data parity stop => Sys2Proof.Machine.execUartCharacterSent collided data parity stop s
  | .uartTxdWrite v => Sys2Proof.Machine.execUartTxdWrite v s
  | .uartRxdRead => Sys2Proof.Machine.execUartRxdRead s
  | .uartResume => Sys2Proof.Machine.execUartResume s
  | .uartFlushRx => Sys2Proof.Machine.execUartFlushRx s
  | .uartFlushTx => Sys2Proof.Machine.execUartFlushTx s
  | .i2cGo v => Sys2Proof.Machine.execI2cGo v s
  | .i2cTransactionDone result sent recv => Sys2Proof.Machine.execI2cTransactionDone result sent recv s
  | .i2cSclTimeout sent recv => Sys2Proof.Machine.execI2cSclTimeout sent recv s
  | .i2cDisable v => Sys2Proof.Machine.execI2cDisable v s
  | .i2cBusClear pulses => Sys2Proof.Machine.execI2cBusClear pulses s
  | .i2cWdataWrite v => Sys2Proof.Machine.execI2cWdataWrite v s
  | .i2cRdataRead => Sys2Proof.Machine.execI2cRdataRead s
  | .spiFlashGo v => Sys2Proof.Machine.execSpiFlashGo v s
  | .spiFlashDone data err => Sys2Proof.Machine.execSpiFlashDone data err s
  | .spiTargetRead off words => Sys2Proof.Machine.execSpiTargetRead off words s
  | .spiTargetWrite opcode off edges words => Sys2Proof.Machine.execSpiTargetWrite opcode off edges words s
  | .spiHostPost => Sys2Proof.Machine.execSpiHostPost s
  | .jirothLaneLock lane => Sys2Proof.Machine.execJirothLaneLock lane s
  | .jirothSegmentFail => Sys2Proof.Machine.execJirothSegmentFail s
  | .jirothRetrain => Sys2Proof.Machine.execJirothRetrain s
  | .jirothEnum src counter => Sys2Proof.Machine.execJirothEnum src counter s
  | .jirothTiming src cidx zcts slotC dep arr resid swap => Sys2Proof.Machine.execJirothTiming src cidx zcts slotC dep arr resid swap s
  | .jirothTimingLost => Sys2Proof.Machine.execJirothTimingLost s
  | .jirothBoundary src cidx zcts => Sys2Proof.Machine.execJirothBoundary src cidx zcts s
  | .jirothEvent src num time => Sys2Proof.Machine.execJirothEvent src num time s
  | .jirothRoute src costs reports => Sys2Proof.Machine.execJirothRoute src costs reports s
  | .jirothBreak pos => Sys2Proof.Machine.execJirothBreak pos s
  | .jirothPacketCrcError lane => Sys2Proof.Machine.execJirothPacketCrcError lane s
  | .refSourceLost => Sys2Proof.Machine.execRefSourceLost s
  | .refRelock => Sys2Proof.Machine.execRefRelock s
  | .islandUnlock isl => Sys2Proof.Machine.execIslandUnlock isl s
  | .islandRelock isl => Sys2Proof.Machine.execIslandRelock isl s
  | .islandRelockTimeout isl => Sys2Proof.Machine.execIslandRelockTimeout isl s
  | .x32Stop => Sys2Proof.Machine.execX32Stop s
  | .msixUnmask fn what vec => Sys2Proof.Machine.execMsixUnmask fn what vec s
  | .completionTimeout fn sq uid => Sys2Proof.Machine.execCompletionTimeout fn sq uid s

end Sys2Proof.Machine
end

