-- ==== Sys2Proof/Machine/Step.lean ====
section
/-! DEFINITION. One step: the command at the front of the queue, or one tick of the timekeeping clock on an empty queue (log
entry 2). -/

namespace Sys2Proof.Machine

/-- Take the command at the front and run it on the queue's rest; on an empty queue 8 ns pass (log entry 2). -/
def step (s : State) : Host.Outcome State Fault Refusal :=
  match s.pending with
  | c :: rest => exec c { s with pending := rest }
  | [] => done (idle s)

/-- Put the command a table word spells at the front of the queue; no row of the table has bits, so `s` is unchanged. -/
def State.withFetchWord (s : State) (nbits w : Nat) : State :=
  match Sys2Proof.decodeTableWord nbits w with
  | some c => { s with pending := c :: s.pending }
  | none => s

end Sys2Proof.Machine
end

