-- ==== Sys2Proof/Safety.lean ====
section
/-! DEFINITION. What counts as a safe state of the device, in the terms claims use. -/

namespace Sys2Proof.Machine

/-- No frame or copy is on the air on a phase that is hard-muted (R85, R211, R217). -/
def LineSafe (s : State) : Prop :=
  ∀ j ∈ s.jobs, ∀ c ∈ j.copies, c.st = .onAir → hardMute s c.ch.ph = none

/-- Every hard mute has been carried out: nothing is on the air on a hard-muted phase, and no such phase counts transmitting
time (R205, R211, R216). Every step leaves the device so. -/
def Settled (s : State) : Prop :=
  LineSafe s ∧ ∀ e ∈ s.tx, (hardMute s e.1).isSome → e.2.onSince = none

/-- The rings of one function alone differ, with what is held and posted and the function's window of BAR0. -/
def RingOnly (fn : Nat) (s t : State) : Prop :=
  { t with regs := s.regs, rings := s.rings, banks := s.banks, held := s.held, posted := s.posted, pcie := s.pcie } = s ∧
  { t.pcie with pba := s.pcie.pba } = s.pcie ∧ ∀ off, off / 0x1000 ≠ 8 + fn → rd t off = rd s off

/-- The host interface alone differs: rings, banks, completions held and posted, commands, players, and the function windows of
BAR0; everything else is as in `s`. -/
def HostOnly (s t : State) : Prop :=
  { t with regs := s.regs, rings := s.rings, banks := s.banks, held := s.held, posted := s.posted, pcie := s.pcie, cmds := s.cmds, players := s.players } = s ∧
  { t.pcie with pba := s.pcie.pba } = s.pcie ∧ ∀ off < 0x8000, rd t off = rd s off

/-- Yarrow's capture side and the host interface alone differ, the commands outstanding being some of those before, and of the registers
YAR's counters and flags (R327 to R329). -/
def CaptureOnly (s t : State) : Prop :=
  { t with regs := s.regs, rings := s.rings, banks := s.banks, held := s.held, posted := s.posted, pcie := s.pcie, cmds := s.cmds, streams := s.streams, kqOwners := s.kqOwners, dram := s.dram } = s ∧
  { t.pcie with pba := s.pcie.pba } = s.pcie ∧ (∀ off < 0x8000, off / 0x400 ≠ 0xD → rd t off = rd s off) ∧ ∀ c ∈ t.cmds, c ∈ s.cmds

/-- The command completes: exec answers a next state, of which `P` holds. -/
def Completes (i : Instr) (s : State) (P : State → Prop) : Prop := ∃ t, exec i s = .next t ∧ P t

/-- The command has ended with this status, detail and length, and of the state before its completion `P` holds (R10, R362). -/
def Ends (c : Cmd) (status detail len : Nat) (t : State) (P : State → Prop) : Prop := ∃ u, t = complete u c status detail len ∧ P u

/-- A command of a ring is outstanding with this opcode, may start, and nothing bars its start (R353, R365, R379). -/
def Ready (s : State) (uid op : Nat) (c : Cmd) : Prop :=
  findCmd s uid = some c ∧ D.op c = op ∧ startable s c = true ∧ cmdBar s c = none

/-- What a power-on reset leaves of the device (R68, R503): the RTC block's registers, the clock, the fuses and the store's retired rows as
before; every other register at its reset value, no command, frame or lane left, and no completion posted. -/
def AonKept (s t : State) : Prop :=
  (∀ off, rd t off = if rtcReg off then rd s off else resetValue off) ∧ t.rtc = s.rtc ∧ t.boot.fuses = s.boot.fuses ∧
  t.nvs.retired = s.nvs.retired ∧ t.cmds = [] ∧ t.jobs = [] ∧ t.lanes = [] ∧ t.posted = s.posted ∧ t.pins.inReset = true

/-- A function's side of the host interface is gone: its rings, banks and held completions, its commands, its MSI-X state, and its window but
HQE_FN_FLR at reset values (R374 items 1, 4 and 5). -/
def FnGone (t : State) (n : Nat) : Prop :=
  (∀ r < 64, ring t n r = {}) ∧ (∀ c < 4, bank t n c = []) ∧ (∀ h ∈ t.held, h.fn ≠ n) ∧ (∀ c ∈ t.cmds, c.fn ≠ n) ∧
  (∀ v < 32, vectorOpen t n v = false ∧ bit (fgetD t.pcie.pba n 0).toNat v = false) ∧
  ∀ off, inWindow n off = true → off ≠ R.HQE_FN_FLR n → rd t off = resetValue off

/-- No job of the commands of `s` that satisfy `p` waits for the line any more, unless a copy of it has begun (R70, R374 item 2). -/
def Withdrawn (s t : State) (p : Cmd → Prop) : Prop :=
  ∀ c ∈ s.cmds, p c → ∀ j ∈ cmdJobs t c.uid, j.begun = true ∨ ∀ k ∈ j.copies, k.st ≠ .planned

/-- What a function-level reset leaves of a function (R374 items 1 to 5). -/
def FnReset (s t : State) (n : Nat) : Prop :=
  FnGone t n ∧ Withdrawn s t (fun c => c.fn = n) ∧ (∀ i < 16, (stream t i).fn = n → (stream t i).st = .idle) ∧
  ∀ p < 7, (player t p).fn = n → (player t p).st = .idle

/-- What survives a reset of the host side (R70, R374): the line side runs on, and, no player being stopped, what is on the air stays. -/
def LineRuns (s t : State) : Prop :=
  t.mains = s.mains ∧ t.sessions = s.sessions ∧ t.lanes = s.lanes ∧ t.retain = s.retain ∧ t.quiets = s.quiets ∧ t.mesh = s.mesh ∧ t.pm = s.pm ∧
  t.sec.keys = s.sec.keys ∧ t.nvs = s.nvs ∧ t.rtc = s.rtc ∧
  ((∀ p < 7, (player s p).st = .idle) → ∀ j ∈ s.jobs, ∀ c ∈ j.copies, c.st = .onAir → ∃ k ∈ t.jobs, k.id = j.id ∧ c ∈ k.copies)

/-- Every register but those of a list reads as before. -/
def SameRegs (s t : State) (but : List Nat) : Prop := ∀ off, off ∉ but → rd t off = rd s off

/-- The registers alone differ. -/
def RegsOnly (s t : State) : Prop := { t with regs := s.regs } = s

/-- The registers alone differ, and of them only those of a list. -/
def OnlyRegs (s t : State) (but : List Nat) : Prop := RegsOnly s t ∧ SameRegs s t but

/-- One receive input alone differs, and of the registers only those of a list (a write of a register clears its parity mark). -/
def InputOnly (s t : State) (i : Nat) (but : List Nat) : Prop :=
  { t with regs := s.regs, rx := s.rx, par := s.par } = s ∧ (∀ q, q ≠ i → rxIn t q = rxIn s q) ∧ SameRegs s t but

/-- One Campion lane alone differs, and of the registers only those of a list (a write of a register clears its parity mark). -/
def LaneOnly (s t : State) (l : Nat) (but : List Nat) : Prop :=
  { t with regs := s.regs, lanes := s.lanes, par := s.par } = s ∧ (∀ q, q ≠ l → lane t q = lane s q) ∧ SameRegs s t but

end Sys2Proof.Machine
end

