-- ==== Sys2Proof/Certificates/Slice0/Obligations.lean ====
section
/-! DEFINITION. The statements for the provers. Each says which rules of the spec it follows. `Completes i s P`: exec answers a next state
of which `P` holds; `Settled s`: no frame is on the air on a hard-muted phase, which every step leaves (StepKeepsMutedPhasesSilent). -/

open Sys2Proof Sys2Proof.Machine


/-! ### The queue, the step, reset, the register map -/

/-- A step takes the command at the front of the queue and runs it on the queue's rest. -/
def Obligations.StepRunsTheFrontCommand : Prop :=
  ∀ (s : State) (c : Instr) (rest : List Instr), s.pending = c :: rest → step s = exec c { s with pending := rest }

/-- Every command answers a next state, whatever the state and its operands, and leaves no frame on the air on a hard-muted phase. -/
def Obligations.EveryCommandCompletesSettled : Prop :=
  ∀ (i : Instr) (s : State), Completes i s Settled

/-- R85, R211, R217, R80, R17, R69: whatever a step does, afterwards no copy of a frame is on the air on a phase that is hard-muted,
and no such phase counts transmitting time; and a step always answers a next state. -/
def Obligations.StepKeepsMutedPhasesSilent : Prop :=
  (∀ s t : State, Settled s → step s = .next t → Settled t) ∧ ∀ s : State, ∃ t, step s = .next t

/-- The state after reset: every register at its reset value (R499), power-on reset in force (R68), nothing queued, nothing on the
line, and the invariant of StepKeepsMutedPhasesSilent. -/
def Obligations.ResetStateIsEmptyAndSettled : Prop :=
  (∀ off, rd State.reset off = resetValue off) ∧ State.reset.pins.inReset = true ∧ State.reset.pending = [] ∧ State.reset.cmds = [] ∧
  State.reset.jobs = [] ∧ State.reset.sessions = [] ∧ State.reset.mains.running = false ∧ Settled State.reset ∧
  getF State.reset F.GLB_STATUS_BOOT_PHASE = 0 ∧ getF State.reset F.PWR_STATUS_STATE = 0 ∧ getF State.reset F.MSY_STATUS_HOLD = 0

/-- On an empty queue 8 ns pass (log entry 2, a choice of the model): with MSY_TB_ADJ 0 and no servo slew a running timebase
advances by 8 ns, a stopped one stands (R114); a running real-time clock counts at 32,768 Hz, and skips the count at which a negative
correction reaches one (R460, R461). With no capture stream and no player to serve (R321, R337), no register, frame or command changes. -/
def Obligations.EmptyQueuePasses8ns : Prop :=
  ∀ s : State, s.pending = [] → standbyDue s = false → Settled s →
    ∃ t, step s = .next t ∧ t.pins = s.pins ∧ (s.streams = [] → s.players = [] → t.regs = s.regs ∧ t.jobs = s.jobs ∧ t.cmds = s.cmds) ∧
      (s.mains.running = false → t.mains = s.mains) ∧
      (s.mains.running = true → t.mains.elapsed = s.mains.elapsed + 8 ∧
        (rd s R.MSY_TB_ADJ = 0 → s.mains.pps.slew = 0 → t.mains.tb = s.mains.tb + 8 ∧ t.mains.frac = s.mains.frac)) ∧
      (s.rtc.running = false → t.rtc = s.rtc) ∧
      (s.rtc.running = true → t.rtc.sec = s.rtc.sec ∧ (s.rtc.acc + 262144 < 10 ^ 9 → t.rtc.sub = s.rtc.sub ∧ t.rtc.cal = s.rtc.cal) ∧
        (10 ^ 9 ≤ s.rtc.acc + 262144 → t.rtc.acc = s.rtc.acc + 262144 - 10 ^ 9 ∧
          (rd s R.RTC_CAL = 0 → s.rtc.cal < 10 ^ 7 → -(10 ^ 7) < s.rtc.cal → t.rtc.sub = min 32767 (s.rtc.sub + 1)) ∧
          (rd s R.RTC_CAL = 0x200 → s.rtc.cal ≤ 512 - 10 ^ 7 → -(10 ^ 7) < s.rtc.cal → t.rtc.sub = s.rtc.sub)))

/-- Storing a register changes that register alone, and keeps the register map in its one canonical form: keys rising, no entry at its
reset value. -/
def Obligations.RegisterStoreIsExactAndCanonical : Prop :=
  ∀ (s : State) (o : Nat) (v : Word),
    rd (wr s o v) o = v ∧ (∀ o', o' ≠ o → rd (wr s o v) o' = rd s o') ∧ { wr s o v with regs := s.regs } = s ∧
    (FMapWf resetValue s.regs = true → FMapWf resetValue (wr s o v).regs = true) ∧
    ∀ f : Fld, f.lo ≤ f.hi → f.hi < 32 → ∀ n, getF (setF s f n) f = n % 2 ^ (f.hi + 1 - f.lo) ∧
      ∀ g : Fld, g.off ≠ f.off ∨ f.hi < g.lo ∨ g.hi < f.lo → getF (setF s f n) g = getF s g

/-! ### Reset (R36, R37, R55, R56, R68 to R71, R503) -/

/-- PORST_ASSERT, SUPPLY_MONITOR_RESET, AON_RESET: what a power-on reset and an AON reset leave (R68, R71, R465, R503). -/
def Obligations.PowerOnResetKeepsOnlyAon : Prop :=
  ∀ s : State,
    (s.pins.porstLow = false → Completes .porstAssert s fun t => AonKept s t ∧ t.pins.porstLow = true) ∧
    (s.pins.porstLow = false → Completes .supplyMonitorReset s fun t => AonKept s t ∧ t.pins.monitorReset = true) ∧
    Completes .aonReset s fun t =>
      (∀ off, rd t off = resetValue off) ∧ t.rtc = {} ∧ t.boot.fuses = s.boot.fuses ∧ t.cmds = [] ∧ t.jobs = [] ∧
        t.posted = s.posted ∧ t.pins.inReset = true

/-- PORST_RELEASE, SUPPLY_MONITOR_RESET_END, HOLDUP_RECOVERY_RESET: the reset ends and the straps are sampled (R36, R37, R56, R71). -/
def Obligations.ResetEndSamplesStraps : Prop :=
  ∀ (s : State) (clksel : BitVec 2) (testen : Bool),
    let sampled := fun t : State => t.pins.inReset = testen ∧ t.pins.testHalt = testen ∧
      getF t F.CLK_STRAP_CLKSEL = clksel.toNat ∧ isSet t F.CLK_STRAP_STRAP_INV = (clksel == 3) ∧
      isSet t F.CLK_STATUS_REF_OK = (clksel == 1 || clksel == 2) ∧ isSet t F.CLK_STATUS_XTAL_OK = (!(clksel == 1 || clksel == 2)) ∧
      isSet t F.CLK_STATUS_X32_OK = s.rtc.running ∧ (clksel = 3 → isSet t F.GLB_FAULT_SUM_STRAP_INV = true) ∧ t.rtc = s.rtc
    (s.pins.porstLow = true → s.pins.monitorReset = false →
      Completes (.porstRelease clksel testen) s fun t => sampled t ∧ t.pins.porstLow = false) ∧
    (s.pins.monitorReset = true → s.pins.porstLow = false →
      Completes (.supplyMonitorResetEnd clksel testen) s fun t => sampled t ∧ t.pins.monitorReset = false) ∧
    (Settled s → s.pins.pfwLow = false ∨ s.pins.husenseHigh = false ∨ s.pins.husenseRose = none ∨ (runningWrite s).isSome = true →
      Completes (.holdupRecoveryReset clksel testen) s fun t => t = s) ∧
    ∀ t0, s.pins.inReset = false ∨ s.pins.testHalt = true → s.pins.pfwLow = true → s.pins.husenseHigh = true → s.pins.husenseRose = some t0 →
      s.mains.running = false ∨ t0 + 10000000 ≤ s.mains.elapsed → runningWrite s = none →
      Completes (.holdupRecoveryReset clksel testen) s fun t => sampled t ∧ t.pins.pfwLow = false ∧ t.cmds = [] ∧ t.jobs = []

/-- HUSENSE_FALL, HUSENSE_RISE: a fall drives PFW# low and hard-mutes every phase, so nothing stays on the air; a rise
releases PFW# where a power-on reset has completed since it was driven, and otherwise starts the wait of 10 ms (R55, R56, R458). -/
def Obligations.HoldupWarningMutesEveryPhase : Prop :=
  ∀ s : State,
    (Completes .husenseFall s fun t =>
      t.pins = { s.pins with
        husenseHigh := false, pfwLow := true, husenseRose := none, pfwReset := s.pins.pfwReset && s.pins.pfwLow } ∧ (∀ p, (hardMute t p).isSome) ∧
        (∀ j ∈ t.jobs, ∀ c ∈ j.copies, c.st ≠ .onAir) ∧ t.mains = s.mains ∧ t.nvs = s.nvs ∧ ∀ off < 0x8000, rd t off = rd s off) ∧
    (Settled s → s.pins.husenseHigh = false → Completes .husenseRise s fun t =>
      t = { s with pins := { s.pins with
        husenseHigh := true, pfwLow := s.pins.pfwLow && !s.pins.pfwReset, pfwReset := false,
        husenseRose := if s.pins.pfwLow && !s.pins.pfwReset then some s.mains.elapsed else none } })

/-- DEVICE_RESET_REQUEST, DEVICE_RESET_WAIT_END: 0xA5 from function 0 mutes every phase and ends every command; another key, or a
virtual function, has no effect on the power state; the wait ends in a reset that keeps the clock, the timebase, the cycle index, the
fuses and the configuration space (R69, R68, R108, R503). -/
def Obligations.DeviceResetEndsCommandsAndKeepsTime : Prop :=
  ∀ s : State,
    (reach s R.GLB_RESET = true → s.pwr.resetAt = none → Completes (.deviceResetRequest 0 0xA5) s fun t =>
      t.pwr.resetAt = some s.mains.elapsed ∧ t.cmds = [] ∧ t.sec.pkq = [] ∧ t.sec.pkRun = none ∧ (∀ p, (hardMute t p).isSome) ∧
        (∀ j ∈ t.jobs, ∀ c ∈ j.copies, c.st ≠ .onAir)) ∧
    (∀ (fn : Fin 8) (key : Byte), reach s R.GLB_RESET = true → fn ≠ 0 ∨ key ≠ 0xA5 → Completes (.deviceResetRequest fn key) s fun t =>
      t.pwr = s.pwr ∧ t.sec = s.sec ∧ t.sessions = s.sessions ∧ ∀ off < 0x8000, rd t off = rd s off) ∧
    ∀ t0, s.pwr.resetAt = some t0 → s.held = [] ∨ t0 + 10000000 ≤ s.mains.elapsed → Completes .deviceResetWaitEnd s fun t =>
      t.pwr.resetAt = none ∧ t.cmds = [] ∧ t.jobs = [] ∧ t.sessions = [] ∧ t.lanes = [] ∧ t.rtc = s.rtc ∧ t.mains.tb = s.mains.tb ∧
        t.boot.fuses = s.boot.fuses ∧ t.boot.running = false ∧ rd t R.MSY_CIDX = rd s R.MSY_CIDX ∧
        isSet t F.MSY_STATUS_CIDX_VALID = isSet s F.MSY_STATUS_CIDX_VALID ∧ isSet t F.MSY_STATUS_HOLD = isSet s F.MSY_STATUS_CIDX_VALID ∧
        getF t F.GLB_STATUS_BOOT_PHASE = 0 ∧ t.pcie.up = s.pcie.up ∧ t.pcie.numVfs = s.pcie.numVfs

/-- HOST_LINK_RESET, FUNCTION_LEVEL_RESET, D3HOT_ENTRY, D0_RETURN, VF_ENABLE_CLEAR, VF_ENABLE_SET: the functions in a reset's scope lose
rings, banks, commands, MSI-X state and window, their streams and players end and what they had waiting for the line is withdrawn, and the
line side runs on; other functions keep their commands, and function 0 receives the event 0x0009 (R68, R70, R74, R343, R374, R375, R503). -/
def Obligations.HostResetsEndTheirCommandsOnly : Prop :=
  ∀ s : State, Settled s →
    (s.pins.inReset = false → Completes .hostLinkReset s fun t =>
      t.cmds = [] ∧ (∀ n < 8, FnGone t n) ∧ Withdrawn s t (fun _ => True) ∧ (∀ i < 16, (stream t i).st = .idle) ∧
        (∀ p < 7, (player t p).st = if (player s p).st = .waiting ∧ (player s p).align = false then .idle else (player s p).st) ∧ LineRuns s t ∧
        (∀ off, 0x3800 ≤ off → off < 0x3C00 → rd t off = resetValue off) ∧ (∀ n < 8, rd t (R.HQE_FN_FLR n) = rd s (R.HQE_FN_FLR n)) ∧
        isSet t F.GLB_STATUS_HOST_RESET_SEEN = true ∧
        (∀ off < 0x8000, off / 0x400 ≠ 0xD → off / 0x400 ≠ 0xE → off ≠ R.GLB_STATUS → rd t off = rd s off) ∧
        t.pcie = { retry := s.pcie.retry, twoLanes := s.pcie.twoLanes, subVendor := s.pcie.subVendor, subId := s.pcie.subId }) ∧
    (∀ n : Fin 8, n ≠ 0 → fnExists s n.val = true → s.pins.inReset = false → s.pcie.retry = false → Completes (.functionLevelReset n) s fun t =>
      FnReset s t n.val ∧ LineRuns s t ∧ (∀ c ∈ t.cmds, c ∈ s.cmds) ∧
        (∀ c ∈ s.cmds, c.fn ≠ n.val → (∀ p < 7, (player s p).uid ≠ c.uid) → c ∈ t.cmds) ∧
        (∀ f < 8, f ≠ 0 → f ≠ n.val → ∀ r < 40, ring t f r = ring s f r) ∧
        getF t (F.HQE_FN_FLR_ABORTED n.val) = outstanding s n.val % 65536 ∧
        rdN t R.HQE_FLR_CNT = satN (2 ^ 32 - 1) (rdN s R.HQE_FLR_CNT + 1) ∧
        (s.streams = [] → s.players = [] → domainOn s 3 = true → ringRoom s 0 44 = true → bankBytes (bank s 0 2) + 32 < 4096 →
          ∃ b, bank t 0 2 = bank s 0 2 ++ [b] ∧ b.ring = 44 ∧ slice b.data 0 3 = [0x09, 0x00, BitVec.ofNat 8 n.val])) ∧
    (s.pins.inReset = false → s.pcie.retry = false → Completes (.functionLevelReset 0) s fun t =>
      t.pcie.vfEnable = false ∧ (∀ n < 8, FnReset s t n) ∧ LineRuns s t) ∧
    (s.pcie.d3hot = false → s.pins.inReset = false → s.pcie.retry = false → Completes .d3hotEntry s fun t =>
      t.pcie.d3hot = true ∧ (∀ n < 8, FnReset s t n) ∧ LineRuns s t) ∧
    (s.pcie.d3hot = true → Completes .d0Return s fun t =>
      t.pcie.d3hot = false ∧ t.pcie.vfEnable = false ∧ t.pcie.numVfs = 0 ∧ t.pcie.up = s.pcie.up ∧ t.cmds = s.cmds ∧ t.regs = s.regs ∧
        (∀ r < 64, ring t 0 r = {}) ∧ (∀ v < 32, vectorOpen t 0 v = false) ∧ t.jobs = s.jobs ∧ LineRuns s t) ∧
    (s.pcie.vfEnable = true → Completes .vfEnableClear s fun t =>
      t.pcie.vfEnable = false ∧ (∀ n, 1 ≤ n → n ≤ s.pcie.numVfs → FnReset s t n) ∧ LineRuns s t ∧ (∀ c ∈ t.cmds, c ∈ s.cmds) ∧
        (∀ c ∈ s.cmds, c.fn = 0 → (∀ p < 7, (player s p).uid ≠ c.uid) → c ∈ t.cmds) ∧
        rdN t R.HQE_FLR_CNT = satN (2 ^ 32 - 1) (rdN s R.HQE_FLR_CNT + s.pcie.numVfs)) ∧
    (s.pins.inReset = true → Completes .hostLinkReset s fun t => t = s) ∧
    (cfgOpen s = false → Completes .d3hotEntry s (fun t => t = s) ∧
      ∀ n, Completes (.functionLevelReset n) s (fun t => t = s) ∧ Completes (.vfEnableSet n) s fun t => t = s) ∧
    (s.pcie.d3hot = true → Completes .d3hotEntry s fun t => t = s) ∧ (s.pcie.d3hot = false → Completes .d0Return s fun t => t = s) ∧
    (s.pcie.vfEnable = false → Completes .vfEnableClear s fun t => t = s) ∧
    (∀ n, fnExists s n.val = false → Completes (.functionLevelReset n) s fun t => t = s) ∧
    (s.pcie.vfEnable = true ∨ bootStopped s = true → ∀ n, Completes (.vfEnableSet n) s fun t => t = s) ∧
    ∀ n : Fin 8, s.pcie.vfEnable = false → s.pins.inReset = false → s.pcie.retry = false → bootStopped s = false →
      Completes (.vfEnableSet n) s fun t =>
        t.pcie = { s.pcie with vfEnable := true, numVfs := n.val } ∧ t.cmds = s.cmds ∧ t.jobs = s.jobs ∧ t.rings = s.rings ∧
          ∀ off, rd t off = if (List.range' 1 n.val).any (fun fn => inWindow fn off && off != R.HQE_FN_FLR fn) then resetValue off else rd s off

/-! ### Power states, domains, clocks (R46, R58 to R65, R72 to R74, R509 to R511) -/

/-- STANDBY_REQUEST, LISTEN_REQUEST, ACTIVE_REQUEST of a virtual function: REQ_ERR is set, and neither the request nor the state in force
changes; of function 0 while a change is in progress: the target is stored, and no more happens yet (R62). STANDBY_REQUEST, LISTEN_REQUEST,
ACTIVE_REQUEST, ACTIVE_EXIT_FRAME_END carried out: from Listen with nothing outstanding and no completion unwritten Standby is entered and
its domains are off; from Listen a request for Active raises BUSY and switches BUGLE on, and with it the drivers of coupled phases, or
raises TXF cause UV on them when VDRV is absent; from Active with no frame on the air Listen takes effect with BUGLE and the drivers off;
the last frame's end does the same (R61, R63 to R65). -/
def Obligations.PowerRequestsTakeEffect : Prop :=
  (∀ s : State, Settled s → reach s R.PWR_CTRL = true →
     let refused := fun t : State => OnlyRegs (rewritten s R.PWR_CTRL) t [R.PWR_STATUS] ∧ isSet t F.PWR_STATUS_REQ_ERR = true ∧
       getF t F.PWR_STATUS_STATE = getF s F.PWR_STATUS_STATE
     let stored := fun (code : Nat) (t : State) => OnlyRegs (rewritten s R.PWR_CTRL) t [R.PWR_CTRL] ∧ getF t F.PWR_CTRL_TARGET = code
     (∀ fn : Fin 8, fn ≠ 0 → Completes (.standbyRequest fn) s refused ∧ Completes (.listenRequest fn) s refused ∧
       Completes (.activeRequest fn) s refused) ∧
     (isSet s F.PWR_STATUS_BUSY = true → Completes (.standbyRequest 0) s (stored 2) ∧ Completes (.listenRequest 0) s (stored 3) ∧
       Completes (.activeRequest 0) s (stored 4))) ∧
  (∀ s : State,
     let listen := fun t : State => getF t F.PWR_STATUS_STATE = 3 ∧ isSet t F.PWR_STATUS_BUSY = false ∧ isSet t F.PWR_EVT_STATE_CHG = true ∧
       t.pwr.leaving = false ∧ domainOn t 10 = false ∧ domainOn t 18 = false ∧ domainOn t 19 = false ∧ domainOn t 20 = false
     (reach s R.PWR_CTRL = true → isSet s F.PWR_STATUS_BUSY = false → getF s F.PWR_STATUS_STATE = 3 → s.cmds = [] → s.jobs = [] →
       s.streams = [] → s.players = [] → s.pwr.leaving = false → allWritable s = true → Completes (.standbyRequest 0) s fun t =>
         getF t F.PWR_STATUS_STATE = 2 ∧ isSet t F.PWR_STATUS_BUSY = false ∧ domainOn t 3 = false ∧ domainOn t 9 = false ∧
           domainOn t 2 = domainOn s 2 ∧ domainOn t 14 = domainOn s 14 ∧ t.sessions = [] ∧ t.lanes = [] ∧ t.mains = s.mains) ∧
     (reach s R.PWR_CTRL = true → isSet s F.PWR_STATUS_BUSY = false → getF s F.PWR_STATUS_STATE = 3 →
       Completes (.activeRequest 0) s fun t => getF t F.PWR_CTRL_TARGET = 4 ∧
         (s.pins.vdrv = false → ∀ p < 3, coupled s p = true → (txPh t p).uv = true) ∧
         ((∀ e, 1 ≤ e → e ≤ 20 → isSet s (F.PWR_DOM_PG_FAIL e) = false) → domainOn s 10 = false →
           isSet t (F.PWR_DOM_REQ 10) = true ∧ isSet t F.PWR_STATUS_BUSY = true ∧ getF t F.PWR_STATUS_STATE = 3 ∧
           (s.pins.vdrv = true → ∀ p < 3, coupled s p = true → domainOn s (18 + p) = false → isSet t (F.PWR_DOM_REQ (18 + p)) = true)) ∧
         (isSet s (F.PWR_DOM_PG_FAIL 10) = true → s.pins.vdrv = false →
           (∀ e, 1 ≤ e → e ≤ 20 → isSet s (F.PWR_DOM_REQ e) = true → domainOn s e = true) →
           if cidxOk s then t.pwr.armed = true ∧ isSet t F.PWR_STATUS_BUSY = true ∧ getF t F.PWR_STATUS_STATE = 3
           else isSet t F.PWR_STATUS_BUSY = false ∧ getF t F.PWR_STATUS_STATE = 4)) ∧
     (reach s R.PWR_CTRL = true → isSet s F.PWR_STATUS_BUSY = false → getF s F.PWR_STATUS_STATE = 4 → s.cmds = [] → s.jobs = [] →
       Completes (.listenRequest 0) s listen) ∧
     (reach s R.PWR_CTRL = true → isSet s F.PWR_STATUS_BUSY = false → Settled s →
       let kept := fun (code : Nat) (t : State) => OnlyRegs (rewritten s R.PWR_CTRL) t [R.PWR_CTRL] ∧ getF t F.PWR_CTRL_TARGET = code
       (getF s F.PWR_STATUS_STATE = 2 → Completes (.standbyRequest 0) s (kept 2)) ∧
       (getF s F.PWR_STATUS_STATE = 3 → Completes (.listenRequest 0) s (kept 3)) ∧
       (getF s F.PWR_STATUS_STATE = 4 → Completes (.activeRequest 0) s (kept 4)) ∧
       (getF s F.PWR_STATUS_STATE = 2 → s.boot.xaton = [] → Completes (.listenRequest 0) s fun t => getF t F.PWR_CTRL_TARGET = 3 ∧
         t.mains = s.mains ∧ ((∀ e, 1 ≤ e → e ≤ 20 → isSet s (F.PWR_DOM_PG_FAIL e) = false) → domainOn s 4 = false →
           isSet t F.PWR_STATUS_BUSY = true ∧ getF t F.PWR_STATUS_STATE = 2 ∧
           ∀ d ∈ [4, 16, 12, 13, 5, 6, 7, 8, 9, 11, 15, 3], domainOn s d = false → isSet t (F.PWR_DOM_REQ d) = true)) ∧
       (getF s F.PWR_STATUS_STATE = 4 → (∃ p < 3, onAirPhase s p = true) → Completes (.listenRequest 0) s fun t =>
         t.pwr.leaving = true ∧ isSet t F.PWR_STATUS_BUSY = true ∧ getF t F.PWR_STATUS_STATE = 4 ∧
           ∀ c ∈ s.cmds, c.st = .waiting → c ∉ t.cmds)) ∧
     (∀ ph : Fin 3, Settled s → s.pwr.leaving = false ∨ (∃ p < 3, onAirPhase s p = true) → Completes (.activeExitFrameEnd ph) s fun t => t = s) ∧
     ∀ ph : Fin 3, s.pwr.leaving = true → getF s F.PWR_CTRL_TARGET = 3 → (∀ p < 3, onAirPhase s p = false) →
       Completes (.activeExitFrameEnd ph) s listen)

/-- DOMAIN_POWER_GOOD, DOMAIN_PG_TIMEOUT: both complete for every domain and state. A domain requested, with its parents on, reports power good
and is counted; the last one that a change waits for ends it: Listen takes effect, Active waits for the slot boundary (R62, R63, R65). One
that fails goes off with those under it and PG_FAIL is set; during the start-up it stops the boot with code 0x20, later the boot phase stays
and a driver raises TXF cause PG; neither is tried again while PG_FAIL stands (R58, R59, R74, R215, R509). -/
def Obligations.DomainsRiseAfterTheirParentsOrFail : Prop :=
  ∀ (s : State) (d : Nat), s.pins.inReset = false → 2 ≤ d → d ≤ 20 → d ≠ 17 →
    let others := ∀ e, 1 ≤ e → e ≤ 20 → e ≠ d → isSet s (F.PWR_DOM_REQ e) = true → domainOn s e = true
    let risen := fun t : State => domainOn t d = true ∧ isSet t (F.PWR_DOM_REQ d) = false ∧
      getF t (F.PWR_DOM_ON_CNT d) = satN 0xFFFF (getF s (F.PWR_DOM_ON_CNT d) + 1) ∧ (∀ q ∈ parents d, domainOn t q = true) ∧
      t.mains = s.mains ∧ t.boot.fuses = s.boot.fuses
    let failed := fun t : State => domainOn t d = false ∧ isSet t (F.PWR_DOM_PG_FAIL d) = true ∧ isSet t F.PWR_EVT_PG_FAIL = true ∧
      ∀ e, 1 ≤ e → e ≤ 20 → d ∈ parents e → domainOn t e = false
    (mayRise s d = true → Completes (.domainPowerGood d) s (fun t => t = settle (settlePower (domainUp s d))) ∧
      Completes (.domainPgTimeout d) s fun t => t = settle (failDomain s d 0x20)) ∧
    (mayRise s d = false → Settled s → Completes (.domainPowerGood d) s (fun t => t = s) ∧ Completes (.domainPgTimeout d) s fun t => t = s) ∧
    (mayRise s d = true → (∀ r ∈ s.boot.held, r.domain ≠ d) → (d = 10 → s.boot.xaton = []) →
      (isSet s F.PWR_STATUS_BUSY = false ∨ pwrState s = 0 ∨ ¬ others → Completes (.domainPowerGood d) s fun t =>
        risen t ∧ getF t F.PWR_STATUS_STATE = getF s F.PWR_STATUS_STATE ∧ isSet t F.PWR_STATUS_BUSY = isSet s F.PWR_STATUS_BUSY) ∧
      (isSet s F.PWR_STATUS_BUSY = true → s.pwr.toStandby = false → s.pwr.leaving = false → others →
        (pwrState s = 2 → getF s F.PWR_CTRL_TARGET = 3 → Completes (.domainPowerGood d) s fun t =>
          risen t ∧ getF t F.PWR_STATUS_STATE = 3 ∧ isSet t F.PWR_STATUS_BUSY = false ∧ isSet t F.PWR_EVT_STATE_CHG = true) ∧
        (pwrState s = 3 → cidxOk s = true → Completes (.domainPowerGood d) s fun t =>
          risen t ∧ getF t F.PWR_STATUS_STATE = 3 ∧ isSet t F.PWR_STATUS_BUSY = true ∧ t.pwr.armed = true))) ∧
    (mayRise s d = true → booting s = true → d < 18 → Completes (.domainPgTimeout d) s fun t =>
      failed t ∧ getF t F.GLB_STATUS_BOOT_PHASE = 0xE ∧ getF t F.GLB_STATUS_BOOT_ERR = 0x20 ∧ t.pcie.retry = false) ∧
    (mayRise s d = true → booting s = false → isSet s F.PWR_STATUS_BUSY = false → Completes (.domainPgTimeout d) s fun t =>
      failed t ∧ (18 ≤ d → (txPh t (d - 18)).pg = true) ∧ getF t F.GLB_STATUS_BOOT_PHASE = getF s F.GLB_STATUS_BOOT_PHASE) ∧
    ∀ e, (e = d ∨ d ∈ parents e) → isSet s (F.PWR_DOM_PG_FAIL d) = true → domainOn s e = false → reqDomains s [e] = s

/-- TIMEKEEPING_PLL_LOCK, REF_SOURCE_LOST, REF_RELOCK, X32_STOP: the timebase starts from zero; a lost source is held over and flagged until
it is back; the stopped crystal makes the time invalid (R72 step 3, R511). ISLAND_UNLOCK, ISLAND_RELOCK, ISLAND_RELOCK_TIMEOUT: an island's
lock bit follows its clock; one that does not relock in 1 ms fails its domain, which in the start-up stops the boot with code 0x21 (R509,
R511). WATCHDOG_EXPIRY: commands that wait for the line or use it end with FAULT; the phases mute at the next slot boundary (R27). -/
def Obligations.ClockAndWatchdogEvents : Prop :=
  (∀ s : State,
     (Settled s → s.pins.inReset = false → s.mains.running = false → Completes .timekeepingPllLock s fun t =>
       t.mains = { s.mains with running := true, tb := 0, frac := 0 } ∧ bit (getF t F.CLK_STATUS_LOCK) 10 = true ∧
         SameRegs s t [R.CLK_STATUS]) ∧
     (Settled s → s.pins.inReset = false → Completes .refSourceLost s fun t =>
       OnlyRegs s t [R.CLK_EVT, R.GLB_FAULT_SUM, R.CLK_STATUS] ∧ isSet t F.CLK_EVT_REF_LOST = true ∧
         isSet t F.GLB_FAULT_SUM_REF_LOST = true ∧ isSet t F.CLK_STATUS_REF_OK = false ∧ isSet t F.CLK_STATUS_XTAL_OK = false ∧
         isSet t F.CLK_STATUS_TK_HOLD = true) ∧
     (Settled s → s.pins.inReset = false → isSet s F.CLK_STATUS_TK_HOLD = true → Completes .refRelock s fun t =>
       OnlyRegs s t [R.CLK_STATUS] ∧ isSet t F.CLK_STATUS_TK_HOLD = false ∧
         (getF s F.CLK_STRAP_CLKSEL = 0 → isSet t F.CLK_STATUS_XTAL_OK = true ∧ isSet t F.CLK_STATUS_REF_OK = false) ∧
         (getF s F.CLK_STRAP_CLKSEL = 1 → isSet t F.CLK_STATUS_REF_OK = true ∧ isSet t F.CLK_STATUS_XTAL_OK = false)) ∧
     (Settled s → s.pins.inReset = false → Completes .x32Stop s fun t =>
       isSet t F.CLK_STATUS_X32_OK = false ∧ isSet t F.CLK_EVT_X32_STOP = true ∧ isSet t F.RTC_STATUS_TIME_INVALID = true ∧
         t.rtc = { s.rtc with running := false } ∧ SameRegs s t [R.CLK_STATUS, R.CLK_EVT, R.RTC_STATUS] ∧ t.mains = s.mains)) ∧
  (∀ (s : State) (i : Fin 10), s.pins.inReset = false →
     (Settled s → bit (getF s F.CLK_STATUS_LOCK) i.val = true → Completes (.islandUnlock i) s fun t =>
       OnlyRegs s t [R.CLK_STATUS, R.CLK_EVT, R.GLB_FAULT_SUM] ∧ bit (getF t F.CLK_STATUS_LOCK) i.val = false ∧
         bit (rdN t R.CLK_EVT) i.val = true ∧ isSet t F.GLB_FAULT_SUM_CLK_UNLOCK = true) ∧
     (Settled s → domainOn s (domainOf i.val) = true → Completes (.islandRelock i) s fun t =>
       OnlyRegs s t [R.CLK_STATUS] ∧ bit (getF t F.CLK_STATUS_LOCK) i.val = true) ∧
     (domainOn s (domainOf i.val) = true → bit (getF s F.CLK_STATUS_LOCK) i.val = false → booting s = true →
       Completes (.islandRelockTimeout i) s fun t => getF t F.GLB_STATUS_BOOT_PHASE = 0xE ∧ getF t F.GLB_STATUS_BOOT_ERR = 0x21 ∧
         domainOn t (domainOf i.val) = false ∧ isSet t (F.PWR_DOM_PG_FAIL (domainOf i.val)) = true)) ∧
  (∀ (s : State) (core : Fin 4), domainOn s (if core.val < 2 then 4 else 5) = true → Completes (.watchdogExpiry core) s fun t =>
     t.pwr = { s.pwr with watchdog := true } ∧ isSet t F.GLB_FAULT_SUM_WATCHDOG = true ∧ t.sessions = s.sessions ∧ t.mains = s.mains ∧
       (∀ c ∈ t.cmds, c ∈ s.cmds ∧ c.st ≠ .waiting ∧ c.st ≠ .onLine) ∧
       (Settled s → ∀ c, lineCmds s = [c] → cmdJobs s c.uid = [] → s.players = [] → Ends c St.fault Det.watchdog 0 t fun u => u.cmds = s.cmds))

/-- VDRV_PRESENCE_CHANGE, VISO5_PRESENCE_CHANGE, HVCORE_POWER_GOOD: presence has the hysteresis of R46, the source of HVCORE follows it,
and without VDRV every phase is hard-muted (R46 to R49, R73). -/
def Obligations.HighVoltageSupplies : Prop :=
  ∀ (s : State) (mv : Nat),
    (Completes (.vdrvPresenceChange mv) s fun t =>
      t.pins.vdrv = (if s.pins.vdrv then decide (10500 ≤ mv) else decide (11000 < mv)) ∧ t.pins.viso5 = s.pins.viso5 ∧
        (t.pins.vdrv = false → ∀ p, (hardMute t p).isSome) ∧ t.pins.hvPg = (s.pins.hvPg && (t.pins.vdrv || t.pins.viso5))) ∧
    (Completes (.viso5PresenceChange mv) s fun t =>
      t.pins.viso5 = (if s.pins.viso5 then decide (4400 ≤ mv) else decide (4600 < mv)) ∧ t.pins.vdrv = s.pins.vdrv ∧
        t.pins.hvPg = (s.pins.hvPg && (t.pins.vdrv || t.pins.viso5))) ∧
    (s.pins.hvPg = false → s.pins.vdrv = true ∨ s.pins.viso5 = true → s.pins.inReset = false → Completes .hvcorePowerGood s fun t =>
      t.pins = { s.pins with hvPg := true } ∧ domainOn t 17 = true) ∧
    viewGlobal s R.PWR_SUPPLY = some (fieldsOf [(b2n s.pins.pfwLow, 7), (if s.pins.vdrv then 1 else if s.pins.viso5 then 2 else 0, 4),
      (b2n s.pins.hvPg, 3), (b2n s.pins.viso5, 2), (b2n s.pins.vdrv, 1)])

/-! ### Start-up and fuses (R72, R428 to R444) -/

/-- FUSE_SHADOW_VALID, LINK_TRAINED, DRAM_TRAINED, FIRMWARE_START: steps 4, 5, 7 and 8 of the boot (R72, R79, R341). -/
def Obligations.BootStepsFourToEight : Prop :=
  ∀ s : State,
    (∀ reads, s.pins.inReset = false → s.mains.running = true → s.boot.shadowOk = false → getF s F.GLB_STATUS_BOOT_PHASE = 0 →
      Completes (.fuseShadowValid reads) s fun t => t.boot.shadowOk = true ∧ getF t F.GLB_STATUS_BOOT_PHASE = 1 ∧
        isSet t F.OTP_STATUS_SHADOW_OK = true ∧ t.boot.fuses = s.boot.fuses ∧ t.mains = s.mains ∧
        (∀ w ∈ fuseWords, soundReads (fuseReads s reads w) = true → fuse t w = (fuseReads s reads w).1) ∧
        ((∀ e, 1 ≤ e → e ≤ 20 → isSet s (F.PWR_DOM_PG_FAIL e) = false) →
          ∀ d ∈ [2, 4, 12, 13, 14, 16], domainOn t d = true ∨ isSet t (F.PWR_DOM_REQ d) = true)) ∧
    (∀ speed lanes, Settled s → s.pins.inReset = false → domainOn s 2 = true → 1 ≤ speed → speed ≤ 3 →
      lanes = 1 ∨ lanes = 2 ∨ lanes = 4 → Completes (.linkTrained speed lanes) s fun t =>
        t = { s with pcie := { s.pcie with up := true, speed := speed, lanes := if s.pcie.twoLanes then min lanes 2 else lanes } }) ∧
    (Settled s → s.boot.shadowOk = true → domainOn s 12 = true → domainOn s 13 = true → booting s = true →
      Completes .dramTrained s fun t => t = { s with boot := { s.boot with dramOk := true } }) ∧
    (s.boot.fwOk = true → s.boot.dramOk = true → getF s F.GLB_STATUS_BOOT_PHASE = 3 → Completes .firmwareStart s fun t =>
      getF t F.GLB_STATUS_BOOT_PHASE = 4 ∧ t.boot.running = true ∧ t.pcie.retry = false ∧ t.boot.meas = s.boot.meas)

/-- FIRMWARE_IMAGE_VERIFIED, XATON_APPLY, CONTROL_DOMAINS_ON, LISTEN_REACHED: steps 6, 9, 10 and 11 (R72, R74, R433, R436, R438, R439). -/
def Obligations.BootStepsSixAndNineToEleven : Prop :=
  ∀ (s : State) (image : List Byte),
    (s.pins.inReset = false → domainOn s 4 = true → domainOn s 16 = true → nvsReady s = true →
      getF s F.GLB_STATUS_BOOT_PHASE = 1 ∨ getF s F.GLB_STATUS_BOOT_PHASE = 2 →
      Completes (.firmwareImageVerified image) s fun t =>
        (firmwareFault (withPolicy s) image = none → getF t F.GLB_STATUS_BOOT_PHASE = 3 ∧ t.boot.fwOk = true ∧
          getF t F.ATT_SVN_FW_SVN = leAt image 6 2 % 65536 ∧ isSet t F.ATT_STATUS_COSIGNED = (leAt image 209 1 == 1)) ∧
        ∀ code, firmwareFault (withPolicy s) image = some code →
          getF t F.GLB_STATUS_BOOT_PHASE = 0xE ∧ getF t F.GLB_STATUS_BOOT_ERR = code ∧ 1 ≤ code ∧ code ≤ 6 ∧ t.boot.fwOk = s.boot.fwOk) ∧
    (getF s F.GLB_STATUS_BOOT_PHASE = 4 → s.boot.running = true →
      (∀ code, verifyXaton s image = .error code → Completes (.xatonApply image) s fun t =>
        getF t F.GLB_STATUS_BOOT_PHASE = 0xE ∧ getF t F.GLB_STATUS_BOOT_ERR = code % 256 ∧ t.boot.xaton = s.boot.xaton) ∧
      (verifyXaton s image = .ok none → Completes (.xatonApply image) s fun t =>
        getF t F.GLB_STATUS_BOOT_PHASE = 5 ∧ t.boot.xaton = s.boot.xaton ∧ isSet t F.SPI_F_STATUS_OWN = false) ∧
      (verifyXaton s image = .ok (some []) → Completes (.xatonApply image) s fun t =>
        getF t F.GLB_STATUS_BOOT_PHASE = 5 ∧ isSet t F.ATT_STATUS_XATON_USED = true ∧
          getF t F.ATT_SVN_X_SVN = leAt image 6 2 % 65536 ∧ isSet t F.SPI_F_STATUS_OWN = false) ∧
      (∀ ven id, verifyXaton s image = .ok (some [.subsys ven id]) → Completes (.xatonApply image) s fun t =>
        t.pcie.subVendor = ven ∧ t.pcie.subId = id ∧ t.boot.xaton = [.subsys ven id]) ∧
      ∀ n < 4, ∀ v, committed s n = false → verifyXaton s image = .ok (some [.ref n v]) → Completes (.xatonApply image) s fun t =>
        rd t (R.GLB_CRC_REF n) = v ∧ committed t n = true) ∧
    (getF s F.GLB_STATUS_BOOT_PHASE = 5 → s.boot.held = [] → (∀ d ∈ [1, 2, 4, 12, 13], domainOn s d = true) →
      (∀ d ∈ controlDomains, domainOn s d = !isSet s (F.PWR_DOM_REQ d)) → Completes .controlDomainsOn s fun t =>
        getF t F.GLB_STATUS_BOOT_PHASE = 6 ∧ ∀ d ∈ controlDomains, domainOn t d = true) ∧
    (getF s F.GLB_STATUS_BOOT_PHASE = 6 → getF s F.PWR_CTRL_TARGET = 3 → Completes .listenReached s fun t =>
      getF t F.GLB_STATUS_BOOT_PHASE = 15 ∧ isSet t F.ATT_STATUS_MEAS_FINAL = true ∧ getF t F.PWR_STATUS_STATE = 3 ∧
        (isSet t F.ATT_STATUS_DEBUG_OPEN = true ↔ isSet s F.ATT_STATUS_DEBUG_OPEN = true ∨
          (bit (fuse s 0x03D) 0 = true ∧ isSet s F.ATT_BPOL1_DBG_DIS = false)))

/-- R429: how a fuse word resolves from its three reads and those of its copy. FUSE_PROGRAM, FUSE_PROGRAM_DONE: only the key 0x5A, a word
that may be programmed and the environment start a programming; bits are only ever added (R431). -/
def Obligations.FuseWordsAndProgramming : Prop :=
  (∀ (rdw : Nat → Word × Word × Word) (free : Word) (w : Nat),
     (soundReads (rdw w) = true → resolveFuse rdw free w = ((rdw w).1, 0)) ∧
     (soundReads (rdw w) = false → restrictiveWord w = true → (resolveFuse rdw free w).2 = 2 ∧
       ∀ b < 32, (resolveFuse rdw free w).1.getLsbD b =
         if (rdw w).1.getLsbD b = (rdw w).2.1.getLsbD b ∧ (rdw w).1.getLsbD b = (rdw w).2.2.getLsbD b then (rdw w).1.getLsbD b
         else !(w == 0x03D && b == 0)) ∧
     (∀ c, soundReads (rdw w) = false → copyWord w = some c → soundReads (rdw c) = true → resolveFuse rdw free w = ((rdw c).1, 1)) ∧
     (∀ c, soundReads (rdw w) = false → copyWord w = some c → soundReads (rdw c) = false → (resolveFuse rdw free w).2 = 3)) ∧
  (∀ (s : State) (m1 m0 : Word),
     (Settled s → reach s R.OTP_PGM_CMD = true → s.boot.pgm = none →
       mayProgram s (getF s F.OTP_PGM_IDX_WORD) (rd s R.OTP_PGM_DATA) = true →
       (Completes (.fuseProgram 0x5A true) s fun t =>
         t.boot = { s.boot with pgm := some (getF s F.OTP_PGM_IDX_WORD, rd s R.OTP_PGM_DATA) } ∧ isSet t F.OTP_PGM_STAT_BUSY = true ∧
           SameRegs s t [R.OTP_PGM_STAT]) ∧
       (Completes (.fuseProgram 0x5A false) s fun t => t.boot = s.boot ∧ getF t F.OTP_PGM_STAT_RESULT = 3)) ∧
     (Settled s → reach s R.OTP_PGM_CMD = true → s.boot.pgm = none →
       mayProgram s (getF s F.OTP_PGM_IDX_WORD) (rd s R.OTP_PGM_DATA) = false →
       Completes (.fuseProgram 0x5A true) s fun t => t.boot = s.boot ∧ getF t F.OTP_PGM_STAT_RESULT = 2) ∧
     (∀ key env, Settled s → reach s R.OTP_PGM_CMD = true → key ≠ 0x5A →
       Completes (.fuseProgram key env) s fun t => t = rewritten s R.OTP_PGM_CMD) ∧
     ∀ w data, s.boot.pgm = some (w, data) → Completes (.fuseProgramDone m1 m0) s fun t =>
       t.boot.pgm = none ∧ fgetD t.boot.fuses w 0 = fgetD s.boot.fuses w 0 ||| data ∧
         (∀ v, v ≠ w → fgetD t.boot.fuses v 0 = fgetD s.boot.fuses v 0) ∧ isSet t F.OTP_PGM_STAT_BUSY = false ∧
         (getF t F.OTP_PGM_STAT_RESULT = 0 ↔ m1 &&& data = data ∧ m0 &&& data = data))

/-! ### Barrier lanes, fault windows, configuration integrity (R14 to R17, R44, R45, R75 to R88, R505 to R517) -/

/-- LANE_COMMA_LOCK, LANE_LOCK_TIMEOUT: a lane locks; one that does not is in lasting fault: the first is dropped alone, a second means that
the high-voltage side is lost, every phase is muted with barrier as the reason, and nothing stays on the air (R16, R17, R44).
LANE_INVALID_CHARACTER, LANE_PACKET_CRC_ERROR, while the lane's window is below its threshold, and FIVE_LANE_MAP_CHANGE: the error is
counted and nothing else of the lane changes; the DAC samples of the packet, which for an invalid character are free, go out as zero,
control words again; the loss of a receive lane puts every input to D = 2 with the built-in filter and a cleared template (R15, R16, R45,
R75, R131). -/
def Obligations.BarrierLanesAndErrors : Prop :=
  (∀ (s : State) (l : Fin 6), domainOn s 17 = true → (blane s l.val).lasting = false →
     (Settled s → s.mains.running = true → Completes (.laneCommaLock l) s fun t =>
       t = setBlane s l.val { blane s l.val with locked := true }) ∧
     (s.mains.running = true → (blane s l.val).locked = false → Completes (.laneLockTimeout l) s fun t =>
       (blane t l.val).lasting = true ∧ (∀ k, k ≠ l.val → blane t k = blane s k) ∧ rdN t (R.REL_ITEM 2) = 2 ^ 31 + l.val ∧
         bit (getF t F.GLB_FAULT_SUM_LAST) 2 = true ∧ (lostLanes s = [] → t.rel.hvLost = s.rel.hvLost) ∧
         (lostLanes s ≠ [] → t.rel.hvLost = true ∧ (∀ p, hardMute t p = some Det.barrier) ∧ ∀ j ∈ t.jobs, ∀ c ∈ j.copies, c.st ≠ .onAir))) ∧
  (∀ (s : State) (l : Fin 6) (n : Nat) (ctl : Bool),
     (Settled s → (blane s l.val).locked = true →
       (fgetD s.rel.hist (faultKey 2 l.val) {}).times.length + 1 < (faultCfg s 2).1 →
       (Completes (.laneInvalidCharacter l) s fun t =>
         { t with regs := s.regs, rel := s.rel, blanes := s.blanes, posted := s.posted, freeCtr := s.freeCtr } = s ∧
           { t.rel with hist := s.rel.hist, log := s.rel.log } = s.rel ∧ SameRegs s t [R.REL_TOT 2, R.REL_LOG_STAT] ∧
           rdN t (R.REL_TOT 2) = satN (2 ^ 32 - 1) (rdN s (R.REL_TOT 2) + 1) ∧
           ∃ m ≤ 14, ∃ c : Bool,
             t.posted = s.posted ++ (if 3 ≤ l.val ∧ m ≠ 0 then [.dacZero l.val m] else []) ++ (if c then [.resend l.val 1] else []) ∧
             blane t l.val = { blane s l.val with resend := (blane s l.val).resend + b2n c }) ∧
       (Completes (.lanePacketCrcError l n ctl) s fun t =>
         { t with regs := s.regs, rel := s.rel, blanes := s.blanes, posted := s.posted } = s ∧
           SameRegs s t [R.REL_TOT 2, R.REL_LOG_STAT] ∧ rdN t (R.REL_TOT 2) = satN (2 ^ 32 - 1) (rdN s (R.REL_TOT 2) + 1) ∧
           t.posted = s.posted ++ (if 3 ≤ l.val ∧ n ≠ 0 then [.dacZero l.val n] else []) ++ (if ctl then [.resend l.val 1] else []) ∧
           blane t l.val = { blane s l.val with resend := (blane s l.val).resend + b2n ctl })) ∧
     ((lostLanes s).length = 1 → s.rel.fiveLane = false → Completes .fiveLaneMapChange s fun t =>
       t.rel = { s.rel with fiveLane := true } ∧ isSet t F.GLB_FAULT_SUM_LANE_DEG = true ∧ t.mains = s.mains ∧ t.lanes = s.lanes ∧
         (fiveLaneRx t = true → ∀ i < 4, decim t i = 2 ∧ isSet t (F.RXF_STATUS_ROMF i) = true ∧
           isSet t (F.RXF_STATUS_SWAP_PEND i) = false ∧ (rxIn t i).tmpl = [] ∧ (rxIn t i).line = []) ∧
         (fiveLaneRx t = false → t.rx = s.rx)))

/-- FAULT_EVENT: 2^DIV raw events make one counted event; below N within T it is logged as transient; at N the lasting action is taken
once: history cleared, REL_ITEM, the source's bit of GLB_FAULT_SUM.LAST, and a log entry (R75 to R77, R515 to R517). -/
def Obligations.FaultWindowDecidesTransientOrLasting : Prop :=
  ∀ (s : State) (src : Fin 7) (item : BitVec 24), s.pins.inReset = false → faultItemOk src.val item.toNat = true →
    let cfg := faultCfg s src.val
    let k := faultKey src.val item.toNat
    let h := fgetD s.rel.hist k {}
    let recent := 1 + (h.times.filter fun x => Nat.ble (tbNow s) (x + cfg.2.1 * 10 ^ 6)).length
    (Settled s → h.raw + 1 < 2 ^ cfg.2.2 → Completes (.faultEvent src item) s fun t =>
      fgetD t.rel.hist k {} = { h with raw := h.raw + 1 } ∧ { t with regs := s.regs, rel := { t.rel with hist := s.rel.hist } } = s ∧
        SameRegs s t [R.REL_TOT src.val]) ∧
    (Settled s → 2 ^ cfg.2.2 ≤ h.raw + 1 → recent < cfg.1 → Completes (.faultEvent src item) s fun t =>
      (fgetD t.rel.hist k {}).raw = 0 ∧ (fgetD t.rel.hist k {}).times.length = recent ∧ { t with regs := s.regs, rel := s.rel } = s ∧
        SameRegs s t [R.REL_TOT src.val, R.REL_LOG_STAT] ∧
        (fgetD t.rel.log (getF s F.REL_LOG_STAT_NEXT) []).getD 3 0 = BitVec.ofNat 32 (2 ^ 31 + src.val * 2 ^ 24 + item.toNat)) ∧
    (2 ^ cfg.2.2 ≤ h.raw + 1 → cfg.1 ≤ recent → Completes (.faultEvent src item) s fun t =>
      fgetD t.rel.hist k {} = {} ∧ rdN t (R.REL_ITEM src.val) = 2 ^ 31 + item.toNat ∧ bit (getF t F.GLB_FAULT_SUM_LAST) src.val = true ∧
        (fgetD t.rel.log (getF s F.REL_LOG_STAT_NEXT) []).getD 3 0 = BitVec.ofNat 32 (2 ^ 31 + 2 ^ 30 + src.val * 2 ^ 24 + item.toNat) ∧
        getF t F.REL_LOG_STAT_NEXT = (getF s F.REL_LOG_STAT_NEXT + 1) % 64)

/-- DRAM_UNCORRECTABLE: the page is retired at once while a spare is left, and the command whose data held the word ends; a key record that
it read so is deleted (R78, R417; log entry 132). REL_CONFIG_WRITE, REL_LOG_READ: N = 0 and T = 0 are stored as 1, and a change clears the
source's histories alone; reading word 0 of a log entry snapshots the entry (R76, R77, R516, R517). -/
def Obligations.FaultSettingsAndRetiredPages : Prop :=
  (∀ (s : State) (page : BitVec 24), domainOn s 13 = true →
     (0 < getF s F.REL_DRAM_SPARE_SPARE → Completes (.dramUncorrectable page none) s fun t =>
       t.rel.retired = s.rel.retired ++ [page.toNat] ∧ getF t F.REL_DRAM_SPARE_SPARE = getF s F.REL_DRAM_SPARE_SPARE - 1 ∧
         page.toNat ∉ t.rel.pages ∧ rdN t (R.REL_ITEM 0) = 2 ^ 31 + page.toNat) ∧
     (getF s F.REL_DRAM_SPARE_SPARE = 0 → Completes (.dramUncorrectable page none) s fun t =>
       t.rel.retired = s.rel.retired ∧ isSet t F.GLB_FAULT_SUM_DRAM_SPARE_OUT = true) ∧
     ∀ uid, Completes (.dramUncorrectable page (some uid)) s fun t =>
       (∀ c ∈ t.cmds, c.uid ≠ uid ∧ c ∈ s.cmds) ∧ ((∀ j ∈ s.jobs, j.live = false) → ∀ c ∈ s.cmds, c.uid ≠ uid → c ∈ t.cmds) ∧
         rdN t (R.REL_ITEM 0) = 2 ^ 31 + page.toNat ∧
         (∀ c r, findCmd s uid = some c → keyRead s c = some r → key t r = none) ∧
         ((findCmd s uid).bind (keyRead s) = none → t.sec.keys = s.sec.keys)) ∧
  (∀ (s : State) (src : Fin 7) (v : Word) (e : Fin 64), Settled s →
     let cleared := fun (off val : Nat) (t : State) =>
       { t with regs := s.regs, rel := s.rel, par := s.par } = s ∧ SameRegs s t [off] ∧ rdN t off = val ∧
         (∀ item < 2 ^ 24, fgetD t.rel.hist (faultKey src.val item) {} = {}) ∧
         ∀ k, k / 2 ^ 24 ≠ src.val → fgetD t.rel.hist k {} = fgetD s.rel.hist k {}
     (reach s (R.REL_WIN src.val) = true → Completes (.relConfigWrite src true v) s (cleared (R.REL_WIN src.val) (max 1 v.toNat))) ∧
     (reach s (R.REL_CNT src.val) = true → Completes (.relConfigWrite src false v) s
       (cleared (R.REL_CNT src.val) (max 1 (bits v.toNat 7 0) + 256 * bits v.toNat 9 8))) ∧
     (reach s (R.REL_LOG e.val 0) = true → Completes (.relLogRead e) s fun t =>
       { t with rel := { t.rel with snap := s.rel.snap }, readData := s.readData } = s ∧
         t.readData = (fgetD s.rel.log e.val []).headD 0 ∧ fgetD t.rel.snap e.val [] = fgetD s.rel.log e.val [] ∧
         ∀ k, k ≠ e.val → fgetD t.rel.snap k [] = fgetD s.rel.snap k []))

/-- PARITY_SWEEP, GLB_CFG_PARITY_WRITE: a register that fails puts its block into its safe action, held where its shadow fails too; a
block of the line mutes every phase; the action is left at once when the index is not valid and the copies pass (R80, R81, R163, R514). -/
def Obligations.ParityFailureEntersTheSafeAction : Prop :=
  ∀ (s : State) (o b i : Nat), s.pins.inReset = false → parityOf o = some (b, i) → s.par = {} →
    (cidxOk s = true → Completes (.paritySweep [o] []) s fun t =>
      inSafeAt t b i = true ∧ bit (rdN t R.GLB_CFG_PARITY) b = true ∧ t.par.mainBad = [] ∧
        (mutingBlock b = true → (∀ p, (hardMute t p).isSome) ∧ ∀ j ∈ t.jobs, ∀ c ∈ j.copies, c.st ≠ .onAir)) ∧
    (Completes (.paritySweep [o] [o]) s fun t =>
      (∃ a ∈ t.par.acts, a.block = b ∧ a.inst = i ∧ a.held = true ∧ a.leaving = false) ∧ t.par.mainBad = [o] ∧
        bit (rdN t R.GLB_CFG_PARITY) b = true) ∧
    ∀ (a : SafeAct) (v : Word), reach s R.GLB_CFG_PARITY = true → a.block < 15 → a.leaving = false →
      bit v.toNat a.block = true → bit (rdN s R.GLB_CFG_PARITY) a.block = true →
      let u := { s with par := { acts := [a] } }
      (cidxOk s = true → Completes (.glbCfgParityWrite v) u fun t => t.par.acts = [{ a with leaving := true, held := false }]) ∧
      (cidxOk s = false → Completes (.glbCfgParityWrite v) u fun t =>
        t.par.acts = [] ∧ bit (rdN t R.GLB_CFG_PARITY) a.block = false ∧
          (a.block ≠ 1 → a.block ≠ 3 → ∀ off < 0x8000, off ≠ R.GLB_CFG_PARITY → rd t off = rd s off))

/-- CRC_PASS, GLB_CRC_REF_WRITE, GLB_LOCK_WRITE: a committed set that does not match mutes every phase; two passes that match set OK2;
the first write commits a reference and later ones are refused; lock bits only ever rise (R82 to R86, R506). -/
def Obligations.CoveredSetsAreCheckedAndLocked : Prop :=
  ∀ (s : State) (n : Fin 4) (v : Word),
    let set := fun (x : Nat) => bit x n.val
    (s.pins.inReset = false → Completes (.crcPass n) s fun t =>
      rdN t (R.GLB_CRC_CUR n.val) = setCrc s n.val % 2 ^ 32 ∧
        set (getF t F.GLB_CRC_STAT_MATCH) = (committed s n.val && setCrc s n.val == rdN s (R.GLB_CRC_REF n.val)) ∧
        (committed s n.val = false → t.crc = s.crc) ∧
        (committed s n.val = true → setCrc s n.val ≠ rdN s (R.GLB_CRC_REF n.val) → t.crc.mute = true ∧
          isSet t F.GLB_FAULT_SUM_CFG_CRC = true ∧ set (getF t F.GLB_CRC_STAT_OK2) = false ∧ (∀ p, (hardMute t p).isSome) ∧
          ∀ j ∈ t.jobs, ∀ c ∈ j.copies, c.st ≠ .onAir) ∧
        (committed s n.val = true → setCrc s n.val = rdN s (R.GLB_CRC_REF n.val) → t.crc.mute = s.crc.mute ∧
          everMatched t n.val = true ∧ set (getF t F.GLB_CRC_STAT_OK2) = decide (0 < fgetD s.crc.run n.val 0))) ∧
    (Settled s → reach s (R.GLB_CRC_REF n.val) = true → Completes (.glbCrcRefWrite n v) s fun t =>
      RegsOnly (rewritten s (R.GLB_CRC_REF n.val)) t ∧ committed t n.val = true ∧
        (committed s n.val = false → rd t (R.GLB_CRC_REF n.val) = v ∧ SameRegs s t [R.GLB_CRC_REF n.val, R.GLB_CRC_STAT]) ∧
        (committed s n.val = true → rd t (R.GLB_CRC_REF n.val) = rd s (R.GLB_CRC_REF n.val) ∧
          isSet t F.GLB_FAULT_SUM_LOCK_VIOLATION = true ∧ getF t F.GLB_LOCKV_LOG_OFFSET = R.GLB_CRC_REF n.val)) ∧
    (reach s R.GLB_LOCK = true → Completes (.glbLockWrite v) s fun t =>
      (∀ i < 4, bit (rdN t R.GLB_LOCK) i = (bit (rdN s R.GLB_LOCK) i || bit v.toNat i)) ∧ t.mains = s.mains ∧ t.lanes = s.lanes ∧
        (Settled s → bit v.toNat 1 = false → bit v.toNat 3 = false → OnlyRegs (rewritten s R.GLB_LOCK) t [R.GLB_LOCK]))

/-! ### Accesses to the register map (R6 to R9, R500, R501, R513) -/

/-- REGISTER_WRITE, READ_CLEAR: only whole dwords are accepted; unused offsets take nothing; a locked register keeps its value and the
attempt is logged; a write acts by the access codes of the bits; a read answers the register's word, and one that clears leaves 0 (R6 to R9, R346,
R500, R501). -/
def Obligations.RegisterAccessesFollowTheirCodes : Prop :=
  ∀ (s : State) (fn : Fin 8) (off o : Nat) (v : Word) (be : BitVec 4), Settled s → barOffset fn.val off = some o → fnHere s fn.val = true →
    (be ≠ 15 ∨ o % 4 ≠ 0 → Completes (.registerWrite fn off v be) s fun t =>
      OnlyRegs s t [R.GLB_FAULT_SUM] ∧ isSet t F.GLB_FAULT_SUM_ACC_ERR = true) ∧
    (o % 4 ≠ 0 → Completes (.readClear fn off) s fun t =>
      OnlyRegs { s with readData := t.readData } t [R.GLB_FAULT_SUM] ∧ isSet t F.GLB_FAULT_SUM_ACC_ERR = true) ∧
    (o % 4 = 0 → reach s o = true → o ≠ R.GLB_RESET → o ≠ R.PWR_CTRL → o ≠ R.OTP_PGM_CMD → fn ≠ 0 ∨ o < 0x9000 →
      (regAt o = none → Completes (.registerWrite fn off v 15) s fun t => t = rewritten s o) ∧
      ∀ d, regAt o = some d →
        (lockedReg s d = true → Completes (.registerWrite fn off v 15) s fun t =>
          RegsOnly (if lockedOff s o then s else rewritten s o) t ∧ SameRegs s t [R.GLB_FAULT_SUM, R.GLB_LOCKV_CNT, R.GLB_LOCKV_LOG] ∧
            isSet t F.GLB_FAULT_SUM_LOCK_VIOLATION = true ∧ getF t F.GLB_LOCKV_LOG_OFFSET = o % 2 ^ 16 ∧
            getF t F.GLB_LOCKV_LOG_FUNC = fn.val) ∧
        (lockedReg s d = false → lockedOff s o = false → blockWrite (rewritten s o) d o v = none → Completes (.registerWrite fn off v 15) s fun t =>
          OnlyRegs (rewritten s o) t [o] ∧ ∀ b < 32, (rd t o).getLsbD b =
            (bit d.w1s b && v.getLsbD b || !(bit d.w1c b && v.getLsbD b) && (if bit d.rw b then v.getLsbD b else (rd s o).getLsbD b)))) ∧
    (o % 4 = 0 → reach s o = true → o ∉ [R.MSY_CIDX, R.MSY_TB_LO, R.RTC_SEC_LO, R.CMP_LW 6, R.UART_RXD, R.I2C_RDATA] →
      ¬ (0x1800 ≤ o ∧ o < 0x1900) → ¬ (0x6800 ≤ o ∧ o < 0x7000) → ∀ d, regAt o = some d → Completes (.readClear fn off) s fun t =>
        t.readData = BitVec.ofNat 32 (viewReg s o) ∧ rd t o = (if d.rc then 0 else rd s o) ∧
          OnlyRegs { s with readData := t.readData, freeCtr := t.freeCtr } t [o]) ∧
    ∀ i : Fin 4, o = R.RXF_OVR_CNT i.val → reach s o = true → Completes (.readClear fn off) s fun t =>
      t.readData = rd s o ∧ rd t o = 0 ∧ OnlyRegs { s with readData := t.readData, freeCtr := t.freeCtr } t [o]

/-- R501: an offset at which no register lies reads 0 and takes nothing, without a flag. -/
def Obligations.UnusedOffsetsReadZero : Prop :=
  ∀ (s : State) (fn : Fin 8) (off o : Nat) (v : Word), Settled s → barOffset fn.val off = some o → o % 4 = 0 → regAt o = none →
    fnHere s fn.val = true → fn ≠ 0 ∨ o < 0x9000 →
    (Completes (.readClear fn off) s fun t => t.readData = 0 ∧
      (pwrState s ≠ 2 → bootStopped s = false → t = { s with readData := 0 })) ∧
    (Completes (.registerWrite fn off v 15) s fun t => (∀ o', regAt o' ≠ none → o' ≠ R.GLB_FAULT_SUM → rd t o' = rd s o') ∧
      { t with regs := s.regs, par := s.par, readData := s.readData } = s ∧ (pwrState s ≠ 2 → bootStopped s = false → t.regs = s.regs))

/-- R346: through PF0 BAR0 function 0 reads every window and writes only its own: a write to the window of function 1 to 7 is discarded,
sets HQE_EVT.XWIN and records the offset. -/
def Obligations.CrossWindowWritesAreRefused : Prop :=
  ∀ (s : State) (o : Nat) (v : Word), Settled s → fnHere s 0 = true → o % 4 = 0 → 0x9000 ≤ o → o < 0x10000 → reach s o = true →
    (Completes (.registerWrite 0 o v 15) s fun t => OnlyRegs s t [R.HQE_EVT, R.HQE_XWIN_LOG] ∧ isSet t F.HQE_EVT_XWIN = true ∧
      rdN t R.HQE_XWIN_LOG = o) ∧
    ∀ d, regAt o = some d → d.rc = false → Completes (.readClear 0 o) s fun t =>
      t.readData = BitVec.ofNat 32 (viewReg s o) ∧ t.regs = s.regs

/-! ### Mains sensing, tracker, cycle index, timebase (R89 to R118) -/

/-- COEF_WRITE, COEF_BANK_SELECT, SENSE_TEMPERATURE_UPDATE: a coefficient of the bank not in use is stored, others are refused with
CFG_ERR; a bank change waits for the epoch boundary while the index is valid, and a bank that holds no number is refused; the temperature
moves the phase's zero threshold alone (R92, R93, R95). -/
def Obligations.LinearisationBanks : Prop :=
  ∀ (s : State) (v : Word) (bk : Bool) (ph : Fin 3), Settled s →
    (reach s R.MSY_COEF_DATA = true → Completes (.coefWrite v) s fun t =>
      let b := getF s F.MSY_COEF_IDX_BANK
      let p := getF s F.MSY_COEF_IDX_PHASE
      let i := getF s F.MSY_COEF_IDX_I
      let j := getF s F.MSY_COEF_IDX_J
      { t with regs := s.regs, mains := s.mains, par := s.par } = s ∧
        (b ≠ coefBank s → p < 3 → i < 6 → SameRegs s t [R.MSY_COEF_DATA] ∧ bit t.mains.bankWritten.toNat (2 * p + b) = true ∧
          ∀ b' < 2, ∀ p' < 3, ∀ i' < 6, ∀ j' < 4,
            coefAt t b' p' i' j' = if b' = b ∧ p' = p ∧ i' = i ∧ j' = j then v else coefAt s b' p' i' j') ∧
        (b = coefBank s ∨ p = 3 ∨ 5 < i → t.mains = s.mains ∧ isSet t F.MSY_EVT_CFG_ERR = true)) ∧
    (reach s R.MSY_CTRL = true → Completes (.coefBankSelect bk) s fun t =>
      isSet t F.MSY_CTRL_COEF_BANK = bk ∧ t.mains = s.mains ∧
        (cidxOk s = true → OnlyRegs (rewritten s R.MSY_CTRL) t [R.MSY_CTRL]) ∧
        (cidxOk s = false → coefBank s ≠ b2n bk → bankOk s (b2n bk) = true → coefBank t = b2n bk) ∧
        (cidxOk s = false → coefBank s ≠ b2n bk → bankOk s (b2n bk) = false →
          coefBank t = coefBank s ∧ isSet t F.MSY_EVT_CFG_ERR = true)) ∧
    (s.pins.inReset = true → Completes (.senseTemperatureUpdate ph v) s fun t => t = s) ∧
    (s.pins.inReset = false → Completes (.senseTemperatureUpdate ph v) s fun t =>
      (mph t ph.val).temp = v ∧ (∀ q, q ≠ ph.val → mph t q = mph s q) ∧ SameRegs s t [R.MSY_ZTHR ph.val] ∧
        { t with regs := s.regs, mains := s.mains, freeCtr := s.freeCtr } = s)

/-- R94: after a power-on reset both banks of each phase hold c_1,0 = 600.0 and 0 for every other coefficient; LIN_DEFAULT is 1 while an
enabled phase uses a bank of its own that has not been written since reset. -/
def Obligations.DefaultCoefficients : Prop :=
  (∀ s : State, s.pins.porstLow = false → Completes .porstAssert s fun t => ∀ b < 2, ∀ p < 3, ∀ i < 6, ∀ j < 4,
    (F32.ofWord (coefAt t b p i j)).rat = (if i = 1 ∧ j = 0 then 600 else 0) ∧ bit t.mains.bankWritten.toNat (2 * p + b) = false) ∧
  ∀ s : State, bit (viewReg s R.MSY_STATUS) 7 = true ↔
    ∃ p < 3, snsEn s p = true ∧ bit s.mains.bankWritten.toNat (2 * p + coefBank s) = false

/-- SENSE_CHANNEL_CONFIG, REFERENCE_PHASE_SELECT, LOOP_BANDWIDTH_SELECT, TRACKER_EN_WRITE: under lock the reference channel keeps EN
and MUX; a changed channel drops stage 3 outputs; the reference phase waits for a cycle boundary, the bandwidth too while the
index is valid; stopping the tracker ends the lock and begins a hold-over (R90, R91, R101, R103, R109, R110). -/
def Obligations.SensingAndTrackerSettings : Prop :=
  ∀ (s : State) (v : Word) (ph lbw : BitVec 2), Settled s →
    (reach s R.MSY_SNS_CFG = true → isSet s F.MSY_STATUS_LOCK = false → Completes (.senseChannelConfig v) s fun t =>
      rdN t R.MSY_SNS_CFG = v.toNat % 2 ^ 12 ∧ SameRegs s t [R.MSY_SNS_CFG, R.MSY_EVT] ∧
        ∀ p < 3, (snsEn s p ≠ snsEn t p → (mph t p).skip = if snsScs t p then 0 else 3) ∧
          (snsEn s p = snsEn t p → bits (rdN s R.MSY_SNS_CFG) (4 * p + 3) (4 * p + 2) = bits (rdN t R.MSY_SNS_CFG) (4 * p + 3) (4 * p + 2) →
            mph t p = mph s p)) ∧
    (reach s R.MSY_SNS_CFG = true → isSet s F.MSY_STATUS_LOCK = true → refPhase s < 3 → snsEn s (refPhase s) = true →
      bit v.toNat (4 * refPhase s) = false → Completes (.senseChannelConfig v) s fun t =>
        isSet t F.MSY_EVT_MUX_REFUSED = true ∧ snsEn t (refPhase s) = true ∧
          bits (rdN t R.MSY_SNS_CFG) (4 * refPhase s + 3) (4 * refPhase s + 2) =
            bits (rdN s R.MSY_SNS_CFG) (4 * refPhase s + 3) (4 * refPhase s + 2)) ∧
    (reach s R.MSY_CTRL = true → Completes (.referencePhaseSelect ph) s fun t =>
      t.mains = { s.mains with refPend := some (if ph = 3 then 0 else ph.toNat) } ∧ getF t F.MSY_CTRL_REFPH = ph.toNat ∧
        (ph = 3 → isSet t F.MSY_EVT_CFG_ERR = true) ∧ SameRegs s t (if ph = 3 then [R.MSY_CTRL, R.MSY_EVT] else [R.MSY_CTRL])) ∧
    (reach s R.MSY_CTRL = true → Completes (.loopBandwidthSelect lbw) s fun t =>
      getF t F.MSY_CTRL_LBW = lbw.toNat ∧ SameRegs s t [R.MSY_CTRL] ∧
        t.mains = if cidxOk s then { s.mains with lbwPend := some lbw.toNat } else { s.mains with lbw := lbw.toNat, lbwPend := none }) ∧
    (reach s R.MSY_CTRL = true →
      (Completes (.trackerEnWrite true) s fun t => OnlyRegs (rewritten s R.MSY_CTRL) t [R.MSY_CTRL] ∧ isSet t F.MSY_CTRL_EN = true) ∧
      (Completes (.trackerEnWrite false) s fun t => isSet t F.MSY_CTRL_EN = false ∧ isSet t F.MSY_STATUS_LOCK = false ∧
        cidxOk t = cidxOk s ∧ rd t R.MSY_CIDX = rd s R.MSY_CIDX ∧
        (isSet s F.MSY_STATUS_LOCK = true → isSet t F.MSY_STATUS_HOLD = true ∧ getF t F.MSY_STATUS_HOLD_AGE = 0 ∧
          isSet t F.MSY_EVT_LOMS_CHG = true)))

/-- SENSE_SAMPLE: every eighth stage 4 code of an enabled channel makes one filtered sample, marked invalid when one of the eight was,
each being linearised first;
other channels and all registers but MSY_EVT and Yarrow's stay (R89, R90, R92). -/
def Obligations.EightSenseCodesMakeOneSample : Prop :=
  ∀ (s : State) (ph : Fin 3) (code : BitVec 18) (bad : Bool), Settled s →
    (snsEn s ph.val = false ∨ domainOn s 17 = false → Completes (.senseSample ph code bad) s fun t => t = s) ∧
    (snsEn s ph.val = true → domainOn s 17 = true → Completes (.senseSample ph code bad) s fun t =>
      let x := mph s ph.val
      let y := mph t ph.val
      (∀ q, q ≠ ph.val → mph t q = mph s q) ∧ (∀ off < 0x8000, off / 0x400 ≠ 0xD → off ≠ R.MSY_EVT → rd t off = rd s off) ∧
        y.skip = x.skip - 1 ∧ t.lanes = s.lanes ∧ t.jobs = s.jobs ∧
        (x.lin.length < 7 → y.lin.length = x.lin.length + 1 ∧ y.win = x.win ∧ (bad = true ∨ 0 < x.skip → y.lin.head? = some none) ∧
          (bad = false → x.skip = 0 → y.lin.head? = some (some (linearise s ph.val code.toInt).1))) ∧
        (x.lin.length = 7 → y.lin = [] ∧ y.half = x.half + 1 ∧ y.win.tail = x.win ∧
          (bad = true ∨ 0 < x.skip ∨ none ∈ x.lin → y.win.head? = some none)))

/-- RMS_REFRESH: the root mean square of the window's samples, to one code (its rounding is open: log entry 26), for a phase whose
window is valid (R96). -/
def Obligations.RmsOfAWindow : Prop :=
  ∀ (s : State) (p : Fin 3) (l : List Int), snsEn s p.val = true → l ≠ [] → (∀ v ∈ l, v.natAbs < 2 ^ 17) →
    (mph s p.val).win = l.map some → Completes .rmsRefresh s fun t =>
      let r := bits (rdN t (R.MSY_RMS p.val)) 17 0
      let sum := (l.map fun v => v.natAbs * v.natAbs).sum
      sum < (r + 1) * (r + 1) * l.length ∧ (r - 1) * (r - 1) * l.length ≤ sum ∧ (mph t p.val).win = (l.map some).take (mph s p.val).half

/-- ZERO_CROSSING, HOLDOVER_TX_LIMIT: under lock a crossing too far from its prediction is rejected and counted; sixteen
within 20 µs declare lock and end a hold-over; another phase's crossing is noted; at TX_LIMIT the phases mute and commands that have made
no attempt end (R100, R101, R103, R110, R111). -/
def Obligations.CrossingsLockTheTracker : Prop :=
  ∀ (s : State) (ph : Fin 3) (ts pred : BitVec 64),
    (snsEn s ph.val = true → isSet s F.MSY_CTRL_EN = true → domainOn s 17 = true → inSafe s 0 = false →
      let err := ((ts.toNat : Int) - pred.toNat).natAbs
      (Settled s → isSet s F.MSY_STATUS_LOCK = true → holdPeriod s < 10 * err →
        Completes (.zeroCrossing ph ts pred) s fun t => OnlyRegs s t [R.MSY_REJ_CNT] ∧
          rdN t R.MSY_REJ_CNT = satN (2 ^ 32 - 1) (rdN s R.MSY_REJ_CNT + 1)) ∧
      (ph.val = refPhase s → isSet s F.MSY_STATUS_LOCK = false → s.mains.acquiring = true → err ≤ 20000 → 15 ≤ s.mains.lockRun →
        Completes (.zeroCrossing ph ts pred) s fun t => isSet t F.MSY_STATUS_LOCK = true ∧ isSet t F.MSY_STATUS_HOLD = false ∧
          t.mains.acquiring = false ∧ t.mains.everLocked = true ∧ t.mains.regain = isSet s F.MSY_STATUS_HOLD) ∧
      (ph.val = refPhase s → isSet s F.MSY_STATUS_LOCK = false → s.mains.acquiring = true → 20000 < err →
        Completes (.zeroCrossing ph ts pred) s fun t => isSet t F.MSY_STATUS_LOCK = false ∧ t.mains.lockRun = 0) ∧
      (Settled s → ph.val ≠ refPhase s → 10 * err ≤ holdPeriod s → Completes (.zeroCrossing ph ts pred) s fun t =>
        (mph t ph.val).lastCross = some ts.toNat ∧ SameRegs s t [R.MSY_PHOFS ph.val] ∧ t.mains = { s.mains with ph := t.mains.ph })) ∧
    (Settled s → snsEn s ph.val = false ∨ isSet s F.MSY_CTRL_EN = false ∨ domainOn s 17 = false ∨ inSafe s 0 = true →
      Completes (.zeroCrossing ph ts pred) s fun t => t = s) ∧
    (Settled s → isSet s F.MSY_STATUS_HOLD = false ∨ getF s F.MSY_HOLD_TX_LIMIT = 0xFFFF ∨
      getF s F.MSY_STATUS_HOLD_AGE < getF s F.MSY_HOLD_TX_LIMIT → Completes .holdoverTxLimit s fun t => t = s) ∧
    (isSet s F.MSY_STATUS_HOLD = true → getF s F.MSY_HOLD_TX_LIMIT ≠ 0xFFFF → getF s F.MSY_HOLD_TX_LIMIT ≤ getF s F.MSY_STATUS_HOLD_AGE →
      Completes .holdoverTxLimit s fun t => isSet t F.MSY_STATUS_TXMUTE = true ∧ t.mains = s.mains ∧
        ∀ c ∈ t.cmds, c ∈ s.cmds ∧ ¬ (c.st = .waiting ∧ c.attempts = 0))

/-- CYCLE_BOUNDARY of an idle line (no session, lane or transmission): with a valid index it advances by one, wrapping, and the boundary's
time and frequency are kept, and in hold-over HOLD_AGE advances too; the first boundary after first lock sets the index to the preset epoch,
also where the lock has been lost meanwhile (R104, R106, R107). -/
def Obligations.CycleBoundaryAdvancesTheIndex : Prop :=
  ∀ (s : State) (ts : BitVec 64) (freq : Word),
    (Settled s → s.pins.inReset = true ∨ s.mains.running = false → Completes (.cycleBoundary ts freq) s fun t => t = s) ∧
    (s.pins.inReset = false → s.mains.running = true → s.jobs = [] → s.sessions = [] → s.lanes = [] →
    s.quiets = [] → s.par.acts = [] → s.jir = {} → s.mains.lengthen = 0 → s.mains.refPend = none → domainOn s 6 = false →
    s.pwr.armed = false → s.pwr.toStandby = false →
    (isSet s F.MSY_STATUS_LOCK = false → isSet s F.MSY_STATUS_HOLD = true → cidxOk s = true → Completes (.cycleBoundary ts freq) s fun t =>
      cidxOk t = true ∧ rd t R.MSY_CIDX = rd s R.MSY_CIDX + 1 ∧ t.mains.freq = freq ∧ isSet t F.MSY_STATUS_HOLD = true ∧
        getF t F.MSY_STATUS_HOLD_AGE = satN 0xFFFF (getF s F.MSY_STATUS_HOLD_AGE + 1) ∧ t.mains.tb = s.mains.tb) ∧
    (isSet s F.MSY_STATUS_LOCK = true → s.mains.crossed = true → 45 * 2 ^ 16 ≤ freq.toNat → freq.toNat ≤ 65 * 2 ^ 16 →
    (cidxOk s = true → Completes (.cycleBoundary ts freq) s fun t => cidxOk t = true ∧ rd t R.MSY_CIDX = rd s R.MSY_CIDX + 1 ∧
      t.mains.freq = freq ∧ t.mains.zc = boundaryTime s ts.toNat ∧ t.mains.crossed = false ∧ isSet t F.MSY_STATUS_LOCK = true ∧
        t.mains.tb = s.mains.tb) ∧
    (cidxOk s = false → s.mains.everLocked = true → Completes (.cycleBoundary ts freq) s fun t => cidxOk t = true ∧
      rdN t R.MSY_CIDX = 256 * getF s F.MSY_CIDX_PRESET_PRESET ∧ t.mains.freq = freq)) ∧
    (isSet s F.MSY_STATUS_LOCK = false → cidxOk s = false →
      (s.mains.everLocked = true → Completes (.cycleBoundary ts freq) s fun t => cidxOk t = true ∧
        rdN t R.MSY_CIDX = 256 * getF s F.MSY_CIDX_PRESET_PRESET) ∧
      (s.mains.everLocked = false → Completes (.cycleBoundary ts freq) s fun t => cidxOk t = false ∧ rd t R.MSY_CIDX = rd s R.MSY_CIDX)))

/-- MSY_CIDX_READ: the index, with the time and the frequency of the boundary that began the cycle (R107). TIMEBASE_STEP_NOW,
TIMEBASE_STEP_AT_PPS: a step moves the timebase and what is dated by it, not the elapsed count; the other waits for the next accepted edge
(R116). RATE_ADJUST_WRITE, PPS_MODE_SELECT: the rate is limited to ±200 ppm, stays with a reference on REFIN, and is refused in servo mode 2
and under TLOCK; a mode, also one that was selected before, starts the servo anew (R114, R117, R490; the model's choice, log entry 125).
PPS_EDGE, PPS_LOST: an edge high for less than 1 µs, or not 1 s ± 100 µs after the last, changes nothing; an accepted one is stamped, an
armed step takes place at it and moves the edge's own time, and a servo measures its phase error; the loss of the signal ends the servo's
lock, and it holds its last rate (R116, R117). -/
def Obligations.TimebaseReadsAndSettings : Prop :=
  (∀ s : State, Settled s → reach s R.MSY_CIDX = true → Completes .msyCidxRead s fun t =>
     { t with regs := s.regs, readData := s.readData } = s ∧ t.readData = rd s R.MSY_CIDX ∧ rd t R.MSY_FREQ = s.mains.freq ∧
       rdN t R.MSY_ZCTS_LO = s.mains.zc % 2 ^ 32 ∧ rdN t R.MSY_ZCTS_HI = s.mains.zc / 2 ^ 32 % 2 ^ 32 ∧
       SameRegs s t [R.MSY_ZCTS_LO, R.MSY_ZCTS_HI, R.MSY_FREQ]) ∧
  (∀ s : State, reach s R.MSY_TB_CMD = true →
     (Completes .timebaseStepNow s fun t =>
       t.mains.tb = s.mains.tb + BitVec.ofInt 64 (stepValue s) ∧ t.mains.elapsed = s.mains.elapsed ∧ t.mains.zc = s.mains.zc ∧
         isSet t F.MSY_EVT_TB_STEP = true ∧ t.sessions.map Prod.fst = s.sessions.map Prod.fst ∧ t.lanes = s.lanes ∧
         t.rel.lastLink = s.rel.lastLink.map (stepped (stepValue s)) ∧ rd t R.MSY_CIDX = rd s R.MSY_CIDX) ∧
     (Settled s → Completes .timebaseStepAtPps s fun t =>
       t = { rewritten s R.MSY_TB_CMD with mains := { s.mains with pps := { s.mains.pps with armed := true } } })) ∧
  (∀ (s : State) (v : Word) (mode : BitVec 2), Settled s →
     (reach s R.MSY_TB_ADJ = true → Completes (.rateAdjustWrite v) s fun t =>
       RegsOnly (rewritten s R.MSY_TB_ADJ) t ∧
         (getF s F.MSY_PPS_CTRL_MODE = 2 ∨ isSet s F.JIR_STATUS_TLOCK = true → rd t R.MSY_TB_ADJ = rd s R.MSY_TB_ADJ ∧
           isSet t F.MSY_EVT_CFG_ERR = true ∧ SameRegs s t [R.MSY_EVT]) ∧
         (getF s F.MSY_PPS_CTRL_MODE ≠ 2 → isSet s F.JIR_STATUS_TLOCK = false → SameRegs s t [R.MSY_TB_ADJ] ∧
           (getF s F.CLK_STRAP_CLKSEL = 1 ∨ getF s F.CLK_STRAP_CLKSEL = 2 → t.regs = s.regs) ∧
           (getF s F.CLK_STRAP_CLKSEL = 0 → sext 32 (rdN t R.MSY_TB_ADJ) = max (-adjMax) (min adjMax v.toInt)))) ∧
     (reach s R.MSY_PPS_CTRL = true → Completes (.ppsModeSelect mode) s fun t =>
       getF t F.MSY_PPS_CTRL_MODE = mode.toNat ∧ isSet t F.MSY_STATUS_PPS_LOCK = false ∧ (mode = 3 → isSet t F.MSY_EVT_CFG_ERR = true) ∧
         t.mains = { s.mains with pps := { armed := s.mains.pps.armed } } ∧ SameRegs s t [R.MSY_PPS_CTRL, R.MSY_EVT, R.MSY_STATUS])) ∧
  (∀ (s : State) (ts : BitVec 64) (high : Nat),
     (Settled s → s.pins.inReset = true ∨ high < 1000 ∨ (∃ l, s.mains.pps.last = some l ∧ (ts.toNat < l + 999900000 ∨ l + 1000100000 < ts.toNat)) →
       Completes (.ppsEdge ts high) s fun t => t = s) ∧
     (s.pins.inReset = false → 1000 ≤ high → (∀ l, s.mains.pps.last = some l → l + 999900000 ≤ ts.toNat ∧ ts.toNat ≤ l + 1000100000) → ppsMode s = 0 →
       Completes (.ppsEdge ts high) s fun t => rdN t R.MSY_PPS_TS_LO = ts.toNat % 2 ^ 32 ∧ rdN t R.MSY_PPS_TS_HI = ts.toNat / 2 ^ 32 ∧
         t.mains.pps.armed = false ∧ t.lanes = s.lanes ∧ rd t R.MSY_TB_ADJ = rd s R.MSY_TB_ADJ ∧
         (s.mains.pps.armed = true → t.mains.tb = s.mains.tb + BitVec.ofInt 64 (stepValue s)) ∧
         (s.mains.pps.armed = false → t.mains = { s.mains with pps := { s.mains.pps with last := some ts.toNat } })) ∧
     (s.pins.inReset = false → 1000 ≤ high → (∀ l, s.mains.pps.last = some l → l + 999900000 ≤ ts.toNat ∧ ts.toNat ≤ l + 1000100000) → ppsMode s ≠ 0 →
       Completes (.ppsEdge ts high) s fun t => rdN t R.MSY_PPS_TS_LO = ts.toNat % 2 ^ 32 ∧ rdN t R.MSY_PPS_TS_HI = ts.toNat / 2 ^ 32 ∧
         rdN t R.MSY_PPS_ERR = wrap 32 (ppsError (if s.mains.pps.armed then stepped (stepValue s) ts.toNat else ts.toNat)) ∧
         t.mains.pps.armed = false) ∧
     (Settled s → isSet s F.MSY_STATUS_PPS_LOCK = false → Completes .ppsLost s fun t => t = s) ∧
     (Settled s → isSet s F.MSY_STATUS_PPS_LOCK = true → Completes .ppsLost s fun t =>
       OnlyRegs { s with mains := { s.mains with pps := { s.mains.pps with held := true } } } t [R.MSY_STATUS, R.MSY_EVT] ∧
       isSet t F.MSY_STATUS_PPS_LOCK = false ∧ isSet t F.MSY_EVT_PPS_LOST = true))

/-- R115: a read of MSY_TB_LO snapshots MSY_TB_HI, and a later read of MSY_TB_HI returns the snapshot. -/
def Obligations.TimebaseReadSnapshotsTheHighWord : Prop :=
  (∀ s : State, Settled s → reach s R.MSY_TB_LO = true → Completes .timebaseRead s fun t =>
    { t with regs := s.regs, readData := s.readData } = s ∧ SameRegs s t [R.MSY_TB_LO, R.MSY_TB_HI] ∧
      t.readData = s.mains.tb.extractLsb' 0 32 ∧ rd t R.MSY_TB_HI = s.mains.tb.extractLsb' 32 32) ∧
  ∀ s : State, Settled s → fnHere s 0 = true → reach s R.MSY_TB_HI = true →
    (Completes (.readClear 0 R.MSY_TB_LO) s fun t => Completes .timebaseRead s fun u => t = u) ∧
    Completes (.readClear 0 R.MSY_TB_HI) s fun t => t.readData = rd s R.MSY_TB_HI ∧ t.regs = s.regs

/-! ### Receive chain and Campion (R119 to R168) -/

/-- INPUT_ENABLE, GAIN_WRITE, FIR_COEF_WRITE, FIR_BANK_SWAP: an enabled input settles for ceil(N / D) outputs with a cleared delay line
and template; a gain and a swap wait for their boundary while the index is valid; a bank in use is not written (R121, R122, R124, R129,
R130). -/
def Obligations.InputSettings : Prop :=
  ∀ (s : State) (k : Fin 4) (v : Word), Settled s →
    let i := k.val
    let x := rxIn s i
    (reach s (R.RXF_CTRL i) = true →
      (isSet s (F.RXF_CTRL_EN i) = false → Completes (.inputEnable k true) s fun t =>
        InputOnly s t i [R.RXF_CTRL i, R.RXF_STATUS i, R.TSL_EVT i] ∧ isSet t (F.RXF_CTRL_EN i) = true ∧ (rxIn t i).line = [] ∧
          (rxIn t i).tmpl = [] ∧ (rxIn t i).settle = cdiv (firTaps s i) (decim s i) ∧ (rxIn t i).gain = x.gain) ∧
      (isSet s (F.RXF_CTRL_EN i) = true → x.los = false → Completes (.inputEnable k false) s fun t =>
        InputOnly s t i [R.RXF_CTRL i, R.RXF_STATUS i] ∧ isSet t (F.RXF_CTRL_EN i) = false ∧ isSet t (F.RXF_STATUS_PWR i) = false ∧
          (rxIn t i).line = [] ∧ (rxIn t i).tmpl = x.tmpl) ∧
      (isSet s (F.RXF_CTRL_EN i) = true → Completes (.inputEnable k false) s fun t =>
        isSet t (F.RXF_CTRL_EN i) = false ∧ (rxIn t i).line = [] ∧ (rxIn t i).los = false) ∧
      ∀ en, isSet s (F.RXF_CTRL_EN i) = en → Completes (.inputEnable k en) s fun t => t = rewritten s (R.RXF_CTRL i)) ∧
    (reach s (R.RXF_GAIN i) = true → Completes (.gainWrite k v) s fun t =>
      let g := v.toNat % 8
      (isSet s (F.RXF_CTRL_AGC i) = true ∨ x.gainWhy = none → InputOnly s t i [R.RXF_GAIN i, R.RXF_EVT i]) ∧
        getF t (F.RXF_GAIN_MAX i) = v.toNat / 16 % 8 ∧
        (isSet s (F.RXF_CTRL_AGC i) = true → t.rx = s.rx ∧ getF t (F.RXF_GAIN_GAIN i) = getF s (F.RXF_GAIN_GAIN i) ∧
          isSet t (F.RXF_EVT_CFG_ERR i) = true) ∧
        (isSet s (F.RXF_CTRL_AGC i) = false → getF t (F.RXF_GAIN_GAIN i) = g ∧ (4 < g → isSet t (F.RXF_EVT_CFG_ERR i) = true) ∧
          (cidxOk s = true → rxIn t i = { x with gainPend := some (min 4 g), gainWhy := none }) ∧
          (cidxOk s = false → (rxIn t i).gain = min 4 g ∧ (rxIn t i).gainPend = none ∧
            (x.gain ≠ min 4 g → isSet t (F.RXF_EVT_GAIN_CHG i) = true)))) ∧
    (reach s (R.RXF_COEF_DATA i) = true → Completes (.firCoefWrite k v) s fun t =>
      let b := getF s (F.RXF_COEF_IDX_BANK i)
      let n := getF s (F.RXF_COEF_IDX_TAP i)
      (firBusy s i b = false → n < 384 → InputOnly s t i [R.RXF_COEF_IDX i] ∧ getF t (F.RXF_COEF_IDX_TAP i) = n + 1 ∧
        getF t (F.RXF_COEF_IDX_BANK i) = b ∧
        ∀ a, fgetD (rxIn t i).coef a 0 = if a = b * 512 + n then v &&& 0x3_FFFF#32 else fgetD x.coef a 0) ∧
      (firBusy s i b = true ∨ 384 ≤ n → InputOnly s t i [R.RXF_EVT i] ∧ t.rx = s.rx ∧ isSet t (F.RXF_EVT_CFG_ERR i) = true)) ∧
    (reach s (R.RXF_FIR_SWAP i) = true →
      (bit v.toNat 0 = false → Completes (.firBankSwap k v) s fun t => t = rewritten s (R.RXF_FIR_SWAP i)) ∧
      (bit v.toNat 0 = true → Completes (.firBankSwap k v) s fun t =>
        let b := v.toNat / 2 % 2
        let n := getF s (F.RXF_FIR_CFG_NTAP4 i b)
        let refused := isSet s (F.RXF_STATUS_SWAP_PEND i) = true ∨
          (isSet s (F.RXF_STATUS_ROMF i) = false ∧ getF s (F.RXF_STATUS_ACT_BANK i) = b) ∨ n = 0 ∨ 96 < n ∨
          isSet s (F.RXF_FIR_CFG_DEC2 i b) ≠ isSet s (F.RXF_STATUS_DEC2 i)
        InputOnly s t i [R.RXF_STATUS i, R.RXF_EVT i, R.TSL_EVT i] ∧
          (refused → t.rx = s.rx ∧ rd t (R.RXF_STATUS i) = rd s (R.RXF_STATUS i) ∧ isSet t (F.RXF_EVT_CFG_ERR i) = true) ∧
          (¬ refused → cidxOk s = true → isSet t (F.RXF_STATUS_SWAP_PEND i) = true ∧ (rxIn t i).swapBank = b ∧
            isSet t (F.RXF_STATUS_ROMF i) = isSet s (F.RXF_STATUS_ROMF i) ∧
            getF t (F.RXF_STATUS_ACT_BANK i) = getF s (F.RXF_STATUS_ACT_BANK i) ∧ (rxIn t i).tmpl = x.tmpl) ∧
          (¬ refused → cidxOk s = false → isSet t (F.RXF_STATUS_SWAP_PEND i) = false ∧ isSet t (F.RXF_STATUS_ROMF i) = false ∧
            getF t (F.RXF_STATUS_ACT_BANK i) = b ∧ isSet t (F.RXF_EVT_SWAP_DONE i) = true ∧
            (rxIn t i).tmpl = if bit v.toNat 2 then x.tmpl else [])))

/-- CONVERTER_SAMPLE, RX_WORKING_SAMPLE, BLANKER_SEED_DONE, BLANK_MAXRUN, TEMPLATE_READ, TEMPLATE_WRITE: how samples are marked, that without
the high-voltage side none crosses and only the raw tap hears of it, the FIR's sum rounded and limited, the blanker's seed and the end of a long run, and the template's window (R119, R121, R124, R125, R127,
R136, R137, R139, R141). -/
def Obligations.SamplesThroughAnInput : Prop :=
  ∀ (s : State) (k : Fin 4), Settled s →
    let i := k.val
    let x := rxIn s i
    (∀ (code : BitVec 18) (ovr erased : Bool), isSet s (F.RXF_CTRL_EN i) = true → s.rel.hvLost = false → domainOn s 6 = true →
      domainOn s 17 = true → Completes (.converterSample k code ovr erased) s fun t =>
        let mark := if erased || inSafeAt s 1 i then 3 else if ovr || x.warm != 0 then 2 else 0
        (s.streams = [] → InputOnly s t i [R.RXF_STATUS i, R.RXF_PEAK i, R.RXF_OVR_CNT i, R.RXF_EVT i]) ∧ (∀ q, q ≠ i → rxIn t q = rxIn s q) ∧
          (rxIn t i).line.head? = some (if mark = 0 then code.toInt else 0, mark, x.gain) ∧ (rxIn t i).phase = x.phase + 1 ∧
          (rxIn t i).warm = x.warm - 1 ∧
          rdN t (R.RXF_PEAK i) = (if erased then rdN s (R.RXF_PEAK i) else max (rdN s (R.RXF_PEAK i)) code.toInt.natAbs) ∧
          (ovr = true → erased = false → isSet t (F.RXF_EVT_OVR i) = true ∧
            rdN t (R.RXF_OVR_CNT i) = satN (2 ^ 32 - 1) (rdN s (R.RXF_OVR_CNT i) + 1))) ∧
    (isSet s (F.RXF_CTRL_EN i) = false ∨ domainOn s 6 = false →
      ∀ (code : BitVec 18) (ovr erased : Bool), Completes (.converterSample k code ovr erased) s fun t => t = s) ∧
    (s.rel.hvLost = true ∨ domainOn s 17 = false → ∀ (code : BitVec 18) (ovr erased : Bool),
      Completes (.converterSample k code ovr erased) s fun t => t.rx = s.rx ∧ CaptureOnly s t ∧ (s.streams = [] → t = s)) ∧
    (∀ (w : BitVec 31) (ts : BitVec 64) (bad : List Nat), domainOn s 6 = false ∨ phaseP ≤ w.toNat ∨
      (isSet s (F.RXF_CTRL_EN i) = true ∧ s.rel.hvLost = false ∧ x.phase < decim s i) → Completes (.rxWorkingSample k w ts bad) s fun t => t = s) ∧
    (∀ (w : BitVec 31) (ts : BitVec 64) (bad : List Nat), domainOn s 6 = true → w.toNat < phaseP →
      (isSet s (F.RXF_CTRL_EN i) = true → s.rel.hvLost = false → decim s i ≤ x.phase) →
      Completes (.rxWorkingSample k w ts bad) s fun t =>
        (∀ q, q ≠ i → rxIn t q = rxIn s q) ∧ (rxIn t i).phase = 0 ∧ (rxIn t i).settle = x.settle - 1 ∧
          (rxIn t i).cycAll = x.cycAll + 1 ∧
          (rxIn t i).dly.length = (if x.dly.length < 32 then x.dly.length + 1 else x.dly.length) ∧
          (isSet s (F.RXF_CTRL_EN i) = false → isSet s (F.RXF_CTRL_INJ_EN i) = false →
            ((rxIn t i).dly.head?.map fun d => (d.val, d.mark)) = some (0, 3)) ∧
          (isSet s (F.RXF_CTRL_EN i) = true → isSet s (F.RXF_CTRL_INJ_EN i) = false → isSet s (F.RXF_CTRL_BLANK_EN i) = false →
            isSet s (F.TSL_CFG_EN i) = false → isSet s (F.RXF_STATUS_SWAP_PEND i) = false → s.rel.hvLost = false → s.par.acts = [] →
            x.settle = 0 → (∀ e ∈ x.line.take (firTaps s i), e.2.1 = 0 ∧ e.2.2 = x.gain) →
            let sum := ((x.line.take (firTaps s i)).zipIdx.map fun (e, n) => firCoef s i n * e.1).sum
            let y := (sum + 2 ^ (firShift s i - 1)) / 2 ^ firShift s i
            ((rxIn t i).dly.head?.map fun d => (d.val, d.mark)) = some (if y.natAbs ≤ 131071 then (y, 0) else (0, 2)) ∧
              rdN t (R.RXF_SAT_CNT i) =
                satN (2 ^ 32 - 1) (rdN s (R.RXF_SAT_CNT i) + if y.natAbs ≤ 131071 then 0 else 1))) ∧
    (x.seeded = true ∨ x.seed ≠ 0 → Completes (.blankerSeedDone k) s fun t => t = s) ∧
    (getF s (F.RXF_BLK_MAXRUN_MAXRUN i) = 0 ∨ x.run < getF s (F.RXF_BLK_MAXRUN_MAXRUN i) → Completes (.blankMaxrun k) s fun t => t = s) ∧
    (x.seeded = false → x.seed = 0 → Completes (.blankerSeedDone k) s fun t => InputOnly s t i [] ∧
      x.seedSum ≤ 256 * (rxIn t i).m + 255 ∧ 256 * (rxIn t i).m ≤ x.seedSum + 255 ∧
        rxIn t i = { x with seeded := true, m := (rxIn t i).m }) ∧
    (getF s (F.RXF_BLK_MAXRUN_MAXRUN i) ≠ 0 → getF s (F.RXF_BLK_MAXRUN_MAXRUN i) ≤ x.run → Completes (.blankMaxrun k) s fun t =>
      InputOnly s t i [R.RXF_EVT i] ∧ isSet t (F.RXF_EVT_BLANK_SAT i) = true ∧ (rxIn t i).run = 0 ∧ (rxIn t i).post = 0 ∧
        (rxIn t i).seeded = false ∧ (rxIn t i).seed = 256 ∧ (rxIn t i).dly = x.dly) ∧
    (reach s (R.TSL_TPL_DATA i) = true →
      let b := rdN s (R.TSL_TPL_IDX i) % 2 ^ 15
      (∀ bad : Bool, Completes (.templateRead k bad) s fun t =>
        rdN t (R.TSL_TPL_IDX i) = (rdN s (R.TSL_TPL_IDX i) + 1) % 2 ^ 15 ∧
          (bad = false → { t with regs := s.regs, readData := s.readData } = s ∧ SameRegs s t [R.TSL_TPL_IDX i] ∧
            t.readData = if b < 24576 / 2 ^ x.res then BitVec.ofNat 32 ((binAt x b).2 * 2 ^ 24 + wrap 24 (binAt x b).1) else 0) ∧
          (bad = true → t.readData = 0 ∧ binAt (rxIn t i) b = (0, 0) ∧ bit (rdN t (R.TSL_EVT i)) 3 = true ∧
            rdN t (R.TSL_PERR_CNT i) = satN (2 ^ 32 - 1) (rdN s (R.TSL_PERR_CNT i) + 1))) ∧
      (∀ v : Word, Completes (.templateWrite k v) s fun t =>
        (isSet s (F.TSL_CFG_FREEZE i) = true → b < 24576 / 2 ^ x.res → InputOnly s t i [R.TSL_TPL_IDX i] ∧
          rdN t (R.TSL_TPL_IDX i) = (rdN s (R.TSL_TPL_IDX i) + 1) % 2 ^ 15 ∧
          (∀ a, binAt (rxIn t i) a = if a = b then (sext 24 v.toNat, bits v.toNat 27 24) else binAt x a)) ∧
        (isSet s (F.TSL_CFG_FREEZE i) = false ∨ 24576 / 2 ^ x.res ≤ b → InputOnly s t i [R.TSL_EVT i, R.TSL_TPL_IDX i] ∧ t.rx = s.rx ∧
          rdN t (R.TSL_TPL_IDX i) = (rdN s (R.TSL_TPL_IDX i) + 1) % 2 ^ 15 ∧ bit (rdN t (R.TSL_EVT i)) 1 = true)))

/-- TONE_PAIR_WRITE, TONE_PAIR_SWAP: a pair is stored in a bank not in use; a bank is checked whole, its lowest failing pair is named, and
the change waits for the epoch boundary while the index is valid (R148, R149). LANE_WINDOW_SELECT, LANE_STATUS_READ, STATIC_LANE_GO,
LANE_RELEASE, LANE_CONFIG_WRITE: the lane window shows a snapshot; only a static lane that is OFF starts; the configuration of a lane
changes only while it is OFF, and the scheduler's lanes refuse all but a change of owner (R162, R168). -/
def Obligations.TonePairsAndLaneWindow : Prop :=
  (∀ (s : State) (v : Word), Settled s →
     (reach s R.CMP_TP_DATA = true → Completes (.tonePairWrite v) s fun t =>
       let b := getF s F.CMP_TP_IDX_BANK
       let p := getF s F.CMP_TP_IDX_PAIR
       { t with regs := s.regs, tones := s.tones, par := s.par } = s ∧
         (toneBusy s b = false → SameRegs s t [R.CMP_TP_IDX] ∧ getF t F.CMP_TP_IDX_PAIR = (p + 1) % 256 ∧ getF t F.CMP_TP_IDX_BANK = b ∧
           ∀ a, fgetD t.tones a 0 = if a = b * 256 + p then v &&& 0x81FF_FFFF#32 else fgetD s.tones a 0) ∧
         (toneBusy s b = true → SameRegs s t [R.CMP_EVT] ∧ t.tones = s.tones ∧ isSet t F.CMP_EVT_CFG_ERR = true)) ∧
     (reach s R.CMP_TP_SWAP = true →
       (bit v.toNat 0 = false → Completes (.tonePairSwap v) s fun t => t = rewritten s R.CMP_TP_SWAP) ∧
       (bit v.toNat 0 = true → Completes (.tonePairSwap v) s fun t =>
         let b := v.toNat / 2 % 2
         let flim := getF s (F.CMP_TP_CFG_FLIM b)
         let refused := isSet s F.CMP_TP_STATUS_SWAP_PEND = true ∨
           (isSet s F.JIR_STATUS_TLOCK = true ∧ isSet s F.JIR_CTRL_MASTER = false) ∨ (noTones s = false ∧ toneBank s = b) ∨
           flim < 180 ∨ 260 < flim
         { t with regs := s.regs, toneSwap := s.toneSwap, par := s.par, jir := s.jir } = s ∧ SameRegs s t [R.CMP_TP_STATUS, R.CMP_EVT] ∧
           (refused → t.toneSwap = s.toneSwap ∧ rd t R.CMP_TP_STATUS = rd s R.CMP_TP_STATUS ∧ isSet t F.CMP_EVT_CFG_ERR = true) ∧
           (∀ p < 256, ¬ refused → toneBad flim (tone s b p) = true → (∀ q < p, toneBad flim (tone s b q) = false) →
             t.toneSwap = s.toneSwap ∧ isSet t F.CMP_TP_STATUS_BAD = true ∧ getF t F.CMP_TP_STATUS_BAD_PAIR = p ∧
               isSet t F.CMP_EVT_CFG_ERR = true ∧ noTones t = noTones s ∧ toneBank t = toneBank s) ∧
           (¬ refused → (∀ p < 256, toneBad flim (tone s b p) = false) → isSet t F.CMP_TP_STATUS_BAD = false ∧ t.toneSwap = b ∧
             (cidxOk s = true → isSet t F.CMP_TP_STATUS_SWAP_PEND = true ∧ noTones t = noTones s ∧ toneBank t = toneBank s) ∧
             (cidxOk s = false → isSet t F.CMP_TP_STATUS_SWAP_PEND = false ∧ noTones t = false ∧ toneBank t = b))))) ∧
  (∀ (s : State) (v : Word), Settled s →
     let l := winLane s
     let x := lane s l
     (reach s R.CMP_WIN_IDX = true → Completes (.laneWindowSelect v) s fun t =>
       let y := lane s (v.toNat % 256)
       winLane t = v.toNat % 256 ∧ OnlyRegs (rewritten s R.CMP_WIN_IDX) t [R.CMP_WIN_IDX, R.CMP_LW 6, R.CMP_LW 7, R.CMP_LW 8, R.CMP_LW 9] ∧
         rd t (R.CMP_LW 6) = BitVec.ofNat 32 (lw6 y (inSafeAt s 3 (v.toNat % 256))) ∧ rd t (R.CMP_LW 7) = BitVec.ofNat 32 y.ofsEst ∧
         (∀ i < 3, bits (rdN t (R.CMP_LW 8)) (8 * i + 7) (8 * i) = satN 255 (snrQuarterDb (sRatio y i).rat)) ∧
         rdN t (R.CMP_LW 9) = satN (2 ^ 32 - 1) y.delivered) ∧
     (reach s (R.CMP_LW 6) = true → Completes .laneStatusRead s fun t =>
       t.readData = BitVec.ofNat 32 (lw6 x (inSafeAt s 3 l)) ∧ { t with regs := s.regs, readData := s.readData } = s ∧
         SameRegs s t [R.CMP_LW 6, R.CMP_LW 7, R.CMP_LW 8, R.CMP_LW 9]) ∧
     (reach s (R.CMP_LW 5) = true →
       (x.own = 2 → x.idle = true → startOk s x = true → Completes .staticLaneGo s fun t => LaneOnly s t l [] ∧
         lane t l = { x with apply := some (cidxNow s, 0), mark := Tone.mark (activeTone s x.pair), space := Tone.space (activeTone s x.pair) }) ∧
       (x.own ≠ 2 ∨ x.idle = false ∨ startOk s x = false → Completes .staticLaneGo s fun t => LaneOnly s t l [R.CMP_EVT] ∧
         t.lanes = s.lanes ∧ isSet t F.CMP_EVT_CFG_ERR = true) ∧
       (x.own = 1 → Completes .laneRelease s fun t => LaneOnly s t l [R.CMP_EVT] ∧ t.lanes = s.lanes ∧ isSet t F.CMP_EVT_CFG_ERR = true) ∧
       (x.own ≠ 1 → x.idle = true → Completes .laneRelease s fun t => t = rewritten s (R.CMP_LW 5)) ∧
       (x.own ≠ 1 → x.idle = false → Completes .laneRelease s fun t => (lane t l).st = .off ∧ (lane t l).apply = none ∧
         (lane t l).rx = none ∧ ∀ q, q ≠ l → lane t q = lane s q)) ∧
     (∀ w : Fin 5, reach s (R.CMP_LW w.val) = true →
       (x.own ≠ 1 → x.idle = true → Completes (.laneConfigWrite w v) s fun t =>
         (let y := x.withWord w.val v
          { lane t l with secLos := x.secLos } = if y.own = 1 then { y with cfg := y.loaded } else y) ∧
         (∀ q, q ≠ l → lane t q = lane s q) ∧ (w.val ≠ 0 → { t with lanes := s.lanes, par := s.par } = s)) ∧
       (x.own ≠ 1 → x.idle = false → Completes (.laneConfigWrite w v) s fun t => LaneOnly s t l [R.CMP_EVT] ∧ t.lanes = s.lanes ∧
         isSet t F.CMP_EVT_CFG_ERR = true) ∧
       (x.own = 1 → w.val ≠ 0 ∨ bits v.toNat 31 30 = 1 → Completes (.laneConfigWrite w v) s fun t => LaneOnly s t l [R.CMP_EVT] ∧
         t.lanes = s.lanes ∧ isSet t F.CMP_EVT_CFG_ERR = true) ∧
       (x.own = 1 → w.val = 0 → ownOf v ≠ 1 → Completes (.laneConfigWrite w v) s fun t => (∀ q, q ≠ l → lane t q = lane s q) ∧
         (x.idle = false ∨ x.use.isSome = true → lane t l = { x with withdraw := some (ownOf v) }) ∧
         (x.idle = true → x.use = none → (lane t l).own = ownOf v ∧ (lane t l).st = .off ∧ (lane t l).withdraw = none))))

/-- LANE_APPLY_POINT, LANE_SYMBOL_END, SEARCH_WINDOW_END, LOF_TIMEOUT: a waiting lane enters SEARCH at its loaded offset; each symbol is
judged once, its decision delivered or, at a full decoder input, dropped and counted; a detection begins TRACK with the framer in HUNT; a search that ends without one releases the lane; OOF_T symbols without SYNC
raise LOF (R156 to R162, R165, R166, R230). -/
def Obligations.LaneStates : Prop :=
  ∀ (s : State) (n : Fin 256),
    let l := n.val
    let x := lane s l
    (Settled s → x.apply = none ∨ x.st ≠ .off → Completes (.laneApplyPoint n) s fun t => t = s) ∧
    (Settled s → domainOn s 8 = false ∨ x.st = .off ∨ x.ended = none → Completes (.laneSymbolEnd n) s fun t => t = s) ∧
    (Settled s → x.st ≠ .search ∨ x.safe = true ∨ x.sw = 0 ∨ x.periods < x.sw → Completes (.searchWindowEnd n) s fun t => t = s) ∧
    (Settled s → x.st ≠ .track ∨ x.cont = false ∨ x.fst = .sync ∨ x.oof < 64 * max 1 (getF s F.LFR_FRM_CFG_OOF_T) →
      Completes (.lofTimeout n) s fun t => t = s) ∧
    (Settled s → x.apply ≠ none → x.st = .off → inSafeAt s 3 l = false → isSet s F.CMP_CTRL_EN = true → domainOn s 8 = true →
      x.rx = none → Completes (.laneApplyPoint n) s fun t =>
        { t with lanes := s.lanes, pm := s.pm } = s ∧ (∀ q, q ≠ l → lane t q = lane s q) ∧ (lane t l).st = .search ∧ (lane t l).apply = none ∧
        (lane t l).ofsAct = x.ofsCfg ∧ (lane t l).slots = [{}, {}, {}] ∧ (lane t l).nHat = [x.w4, x.w4, x.w4] ∧
        (lane t l).fst = .idle ∧ (lane t l).periods = 0) ∧
    (x.apply ≠ none → x.st = .off → inSafeAt s 3 l = true ∨ isSet s F.CMP_CTRL_EN = false ∨ domainOn s 8 = false →
      Completes (.laneApplyPoint n) s fun t => (lane t l).st = .off ∧ (lane t l).apply = none) ∧
    (domainOn s 8 = true → x.ended.isSome = true →
      (x.st ≠ .off → Completes (.laneSymbolEnd n) s fun t => (lane t l).ended = none) ∧
      (Settled s → x.st = .search → x.safe = true → Completes (.laneSymbolEnd n) s fun t => LaneOnly s t l [] ∧ lane t l = x.judged) ∧
      (Settled s → x.st = .search → x.safe = false → (searchPeriod s x).2 = none → Completes (.laneSymbolEnd n) s fun t =>
        LaneOnly s t l [] ∧ lane t l = (searchPeriod s x).1.judged ∧ (lane t l).periods = x.periods + 1 ∧ (lane t l).st = .search) ∧
      (x.st = .search → x.safe = false → (searchPeriod s x).2.isSome = true → Completes (.laneSymbolEnd n) s fun t =>
        (lane t l).st = .track ∧ (lane t l).fst = .hunt ∧ (lane t l).lol = false ∧ isSet t F.CMP_EVT_DET = true ∧
          rdN t R.CMP_DET_CNT = satN (2 ^ 32 - 1) (rdN s R.CMP_DET_CNT + 1)) ∧
      (∀ lbl, Settled s → x.st = .track → x.ended = some lbl → isSet s F.LFR_CTRL_EN = false → (judgeSymbol s x lbl).2.2 = false →
        Completes (.laneSymbolEnd n) s fun t => (lane t l).st = .track ∧ (∀ q, q ≠ l → lane t q = lane s q) ∧
          (lane t l).secDec = x.secDec + 1 ∧ (lane t l).delivered = x.delivered + b2n (!decoderFull s) ∧
          (lane t l).record = (if decoderFull s then x.record else (judgeSymbol s x lbl).1.word l) ∧
          rdN t R.CMP_DROP_CNT = satN (2 ^ 32 - 1) (rdN s R.CMP_DROP_CNT + b2n (decoderFull s)))) ∧
    (x.st = .search → x.safe = false → x.sw ≠ 0 → x.sw ≤ x.periods → x.own = 2 ∨ x.use = none →
      Completes (.searchWindowEnd n) s fun t => (lane t l).st = .off ∧ (∀ q, q ≠ l → lane t q = lane s q) ∧
        (x.own = 2 → isSet t F.CMP_EVT_DROP = true)) ∧
    (x.st = .search → x.safe = false → x.sw ≠ 0 → x.sw ≤ x.periods → Completes (.searchWindowEnd n) s fun t => (lane t l).st = .off) ∧
    (x.st = .track → x.cont = true → x.fst ≠ .sync → 64 * max 1 (getF s F.LFR_FRM_CFG_OOF_T) ≤ x.oof →
      Completes (.lofTimeout n) s fun t => (lane t l).lof = true ∧ (∀ q, q ≠ l → lane t q = lane s q) ∧
        (x.lof = false → isSet t F.LFR_EVT_DEF_CHG = true))

/-! ### Decoder, transmitter, performance data (R175 to R245, R404 to R412) -/

/-- HEADER_DECODED, BODY_DECODED of a reception alone on its lane: a header that passes puts the lane in SYNC, or with its body in releases it,
and dates the node; one that fails is counted and the lane hunts. A body goes to the cipher engine or is routed when its CRC-32 matches
and its route extension is sound; an ERRORED one of a session is retained, and a retransmission is added to what was kept (R175, R181,
R186, R220, R228, R283). -/
def Obligations.HeaderAndBodyDecode : Prop :=
  ∀ (s : State) (n : Fin 256), Settled s → domainOn s 9 = true → isSet s F.COD_CTRL_EN = true →
    let l := n.val
    let x := lane s l
    (∀ f : RxFrame, s.recs = [] → x.rx = some f → f.h = none → f.tried = false → f.full = true → x.use = none →
      let h := hdrOf f.mode [f]
      (hdrPasses h = true → Completes (.headerDecoded n) s fun t => (∀ q, q ≠ l → lane t q = lane s q) ∧
        fget t.heard (Hdr.src h) = some (f.cidx, f.ofs) ∧ rdN t R.COD_HDR_FAIL_CNT = rdN s R.COD_HDR_FAIL_CNT ∧
        (f.body.length < bodyLen f.mode (Hdr.len h) → (lane t l).rx = some (f.passed h) ∧ t.recs = [] ∧
          (x.cont = false → lane t l = { x with rx := some (f.passed h), fst := .sync })) ∧
        (bodyLen f.mode (Hdr.len h) ≤ f.body.length → (lane t l).rx = none ∧ ∃ r, t.recs = [r] ∧ r.lane = l ∧ r.rx = f.passed h)) ∧
      (hdrPasses h = false → Completes (.headerDecoded n) s fun t => (lane t l).rx = none ∧ (x.cont = false → (lane t l).fst = .hunt) ∧
        (lane t l).secBad = x.secBad + 1 ∧ t.heard = s.heard ∧ isSet t F.COD_EVT_HDR_FAIL = true ∧
          rdN t R.COD_HDR_FAIL_CNT = satN (2 ^ 32 - 1) (rdN s R.COD_HDR_FAIL_CNT + 1))) ∧
    (∀ (r : Recep) (h : Nat), s.recs = [r] → r.lane = l → r.use = none → r.rx.h = some h → r.rx.contrib = true →
      let acc := accSum (bodyLen r.rx.mode (Hdr.len h)) [r.rx.body.map (·.u)]
      let d := decodeBody r.rx.mode (Hdr.len h) acc
      let kept := isSet s F.COD_CTRL_RET_EN = true ∧ r.rx.mode ≠ 0 ∧ Hdr.len h ≠ 0 ∧ Hdr.rtx h = true ∧ ∃ e ∈ s.retain, sameEntry h e = true
      let safe := inSafe s 4 = false ∧ inSafe s 5 = false
      (Hdr.label h = Lbl.filler → Completes (.bodyDecoded n) s fun t => t.recs = [] ∧ t.frames = s.frames ∧
        rdN t R.LFR_FILLER_CNT = satN (2 ^ 32 - 1) (rdN s R.LFR_FILLER_CNT + 1)) ∧
      (Hdr.label h ≠ Lbl.filler → ¬kept → d.2.2 = true → safe →
        (badExt h d.1 = true → Completes (.bodyDecoded n) s fun t => t.recs = [] ∧ t.frames = s.frames ∧
          rdN t R.VET_RTE_DROP_CNT = satN (2 ^ 32 - 1) (rdN s R.VET_RTE_DROP_CNT + 1)) ∧
        (badExt h d.1 = false → Hdr.enc h = true → Completes (.bodyDecoded n) s fun t => t.recs = [] ∧ t.nextFid = s.nextFid + 1 ∧
          (∀ k, k ≠ s.nextFid → fget t.frames k = fget s.frames k) ∧
          ∃ f, fget t.frames s.nextFid = some f ∧ f.h = h ∧ f.payload = d.1 ∧ f.outcome < 2 ∧ f.lane = l ∧ f.ts = r.rx.ts ∧
            f.cidx = r.rx.cidx ∧ f.ctr = none) ∧
        (badExt h d.1 = false → Hdr.enc h = false → Completes (.bodyDecoded n) s fun t => t.recs = [] ∧ t.frames = s.frames ∧
          t.nextFid = s.nextFid)) ∧
      (Hdr.label h ≠ Lbl.filler → ¬kept → d.2.2 = false → Completes (.bodyDecoded n) s fun t =>
        t.recs = [] ∧ t.frames = s.frames ∧ t.nextFid = s.nextFid ∧
        ∀ y, sess s (Hdr.src h) = some y → y.state = 0 → isSet s F.COD_CTRL_RET_EN = true → r.rx.mode ≠ 0 → retQuota s y.fn ≠ 0 →
          ∃ e ∈ t.retain, e.node = Hdr.src h ∧ e.key = retKey h ∧ e.acc = acc ∧ e.count = 1) ∧
      (∀ e, Hdr.label h ≠ Lbl.filler → kept → s.retain.find? (sameEntry h) = some e → combinable s e.acc acc = true →
        let sum := decodeBody r.rx.mode (Hdr.len h) (accAdd e.acc acc)
        (sum.2.2 = true → Completes (.bodyDecoded n) s fun t => t.recs = [] ∧ (∀ k ∈ t.retain, sameEntry h k = false) ∧
          (safe → badExt h sum.1 = false → Hdr.enc h = true →
            ∃ f, fget t.frames s.nextFid = some f ∧ f.payload = sum.1 ∧ f.outcome = 2)) ∧
        (sum.2.2 = false → e.count + 1 < max 2 (min 8 (getF s F.COD_RET_CFG_RET_MAX)) → Completes (.bodyDecoded n) s fun t =>
          t.recs = [] ∧ t.frames = s.frames ∧ ∃ k ∈ t.retain, k.key = e.key ∧ k.acc = accAdd e.acc acc ∧ k.count = e.count + 1)))

/-- FRAME_DECRYPT, HWM_COMMIT_DONE: a frame for another address, without a key, or already seen in a flood ends with nothing delivered;
one that authenticates ends or waits for its mark; one that does not, or whose counter is not fresh, is counted as such; a committed
mark lets its frame go on, a failed one ends the command of the frame it kept back, or discards the frame (R292, R404, R407, R409,
R410, R412). -/
def Obligations.FramesAreCheckedBeforeDelivery : Prop :=
  ∀ s : State, Settled s →
    (∀ (fid arg : Nat) (ctl : Fin 3) (f : DecFrame), fget s.frames fid = some f → f.ctr = none → f.job = none →
      (∀ e ∈ s.frames, e.1 < fid → frameKey s e.2 ≠ frameKey s f) →
      ((floodGate s f).1 = true → Completes (.frameDecrypt fid ctl arg) s fun t => fget t.frames fid = none ∧ t.sec = s.sec) ∧
      (flooded s f.h = false →
        (engineOn s = true → Hdr.dst f.h ≠ 0x3FFFF → Hdr.dst f.h ≠ rootAddr s → Completes (.frameDecrypt fid ctl arg) s fun t =>
          fget t.frames fid = none ∧ t.sec = s.sec ∧ rdN t R.SEC_NOKEY_CNT = rdN s R.SEC_NOKEY_CNT) ∧
        (engineOn s = false → Completes (.frameDecrypt fid ctl arg) s fun t =>
          fget t.frames fid = none ∧ isSet t F.SEC_EVT_NOKEY = true ∧
            rdN t R.SEC_NOKEY_CNT = satN (2 ^ 32 - 1) (rdN s R.SEC_NOKEY_CNT + 1)) ∧
        (∀ k, Hdr.dst f.h = rootAddr s → Hdr.dst f.h ≠ 0x3FFFF → engineOn s = true → keyBar s (nodeRef f.src) Use.payload = none →
          key s (nodeRef f.src) = some k →
          let n := f.payload.length - extLen f.h f.payload
          let failed := fun t : State => fget t.frames fid = none ∧ rxCtr t f.src = rxCtr s f.src ∧
            rdN t R.SEC_AUTHFAIL_CNT = satN (2 ^ 32 - 1) (rdN s R.SEC_AUTHFAIL_CNT + 1)
          (n < tagBytes k.tlen → Completes (.frameDecrypt fid ctl arg) s failed) ∧
          (tagBytes k.tlen ≤ n →
            (∀ c, counterOf (rxCtr s f.src).h (Hdr.seq f.h) = some c → (rxCtr s f.src).fresh c = true →
              ((openFrame f k false c).2 = true → Completes (.frameDecrypt fid ctl arg) s fun t =>
                rdN t R.SEC_AUTHFAIL_CNT = rdN s R.SEC_AUTHFAIL_CNT ∧ (fget t.frames fid = none ∨
                  ∃ g, fget t.frames fid = some g ∧ g.ctr = some c ∧ g.plain = (openFrame f k false c).1 ∧ g.h = f.h)) ∧
              ((openFrame f k false c).2 = false → Completes (.frameDecrypt fid ctl arg) s failed)) ∧
            ((counterOf (rxCtr s f.src).h (Hdr.seq f.h)).any (rxCtr s f.src).fresh = false →
              Completes (.frameDecrypt fid ctl arg) s fun t => fget t.frames fid = none ∧ rxCtr t f.src = rxCtr s f.src ∧
                isSet t F.SEC_EVT_REPLAY = true ∧ rdN t R.SEC_REPLAY_CNT = satN (2 ^ 32 - 1) (rdN s R.SEC_REPLAY_CNT + 1)))))) ∧
    (∀ (id : Nat) (w : HwmWait), fget s.nvs.waits id = some w →
      (w.frame = none → w.outcome = some true → Completes (.hwmCommitDone id) s fun t => fget t.nvs.waits id = none ∧
        { t with nvs := s.nvs } = s ∧ { t.nvs with waits := s.nvs.waits } = s.nvs) ∧
      (∀ (k : Nat × Nat) (j : Job) (uid : Nat) (c : Cmd), w.frame = none → w.outcome = some false → w.tx = some k → w.job = some j.id →
        w.cmd = some uid → j ∈ s.jobs → (∀ i ∈ s.jobs, i.id = j.id ∨ i.kind = .command uid → i = j) → j.ended = false → j.begun = false →
        j.kind = .command uid → findCmd s uid = some c → Completes (.hwmCommitDone id) s fun t => fget t.nvs.waits id = none ∧
          isSet t F.SEC_EVT_HWM_FAIL = true ∧ (∀ d ∈ t.cmds, d.uid ≠ uid) ∧ ∀ i ∈ t.jobs, i.id = j.id → i.ended = true) ∧
      (∀ (fid c : Nat) (f : DecFrame), w.job = none → w.tx = none → w.frame = some fid → fget s.frames fid = some f → f.ctr = some c →
        (w.outcome = some true → Completes (.hwmCommitDone id) s fun t => fget t.nvs.waits id = none ∧ fget t.frames fid = none ∧
          (f.brx = none → rxCtr t f.src = (rxCtr s f.src).accept c) ∧ ∀ n, f.brx = some n → bsrc t n = (bsrc s n).accept c) ∧
        (w.outcome = some false → Completes (.hwmCommitDone id) s fun t => fget t.nvs.waits id = none ∧ fget t.frames fid = none ∧
          rxCtr t f.src = rxCtr s f.src ∧ isSet t F.SEC_EVT_HWM_FAIL = true ∧
            rdN t R.SEC_NOKEY_CNT = satN (2 ^ 32 - 1) (rdN s R.SEC_NOKEY_CNT + 1))))

/-- RETENTION_EXPIRY, MODE_ANNOUNCE_EXHAUSTED, SUPERVISION_FALLBACK: entries of a node and SEQ past their age leave the store, an
announcement sent eight times is given up, and a session silent for half its timeout falls back to its most robust mode (R187, R192, R193).
SUPERVISION_EXPIRY, ROUTED_REPLY_TIMEOUT: at its supervision timeout a session is lost, counted, and the commands for its node end but for
those amid an attempt, a closing one being freed with the last; a routed exchange without reply is repeated while a repeat is left and the
device stays Active, and ends after that (R252, R259, R264, R286). -/
def Obligations.NodeAndModeTimeouts : Prop :=
  (∀ (s : State) (a : BitVec 18),
     (∀ q : BitVec 12, Settled s → Completes (.retentionExpiry a q) s fun t =>
       let old := fun (r : Retain) => r.node = a.toNat ∧ r.key.getD 2 0 = q.toNat ∧
         max 1 (getF s F.COD_RET_CFG_RET_CYC) ≤ cycSub (cidxNow s) r.cidx
       { t with regs := s.regs, retain := s.retain } = s ∧ SameRegs s t [R.COD_RET_EXPIRE_CNT] ∧
         (∀ r, r ∈ t.retain ↔ r ∈ s.retain ∧ ¬ old r) ∧
         rdN t R.COD_RET_EXPIRE_CNT = satN (2 ^ 32 - 1) (rdN s R.COD_RET_EXPIRE_CNT + (s.retain.length - t.retain.length))) ∧
     (∀ x, sess s a.toNat = some x → x.node = a.toNat →
       (∀ m n, x.pend = some (m, n) → 8 ≤ n → Completes (.modeAnnounceExhausted a) s fun t =>
         sess t a.toNat = some { x with pend := none } ∧ t.cmds = s.cmds ∧ (∀ b, b ≠ a.toNat → sess t b = sess s b) ∧ t.jobs.length = s.jobs.length) ∧
       (∀ m, x.fallback = false → x.tAuth + x.supvT * 10 ^ 8 / 2 < tbNow s → s.pwr.watchdog = false → robustest x = some m →
         Completes (.supervisionFallback a) s fun t => sess t a.toNat =
           some { x with fallback := true, mode := m, pend := none, effect := none, sinceChg := 0, chgCidx := cidxNow s } ∧
             ∀ b, b ≠ a.toNat → sess t b = sess s b))) ∧
  (∀ s : State, Settled s →
     (∀ a : BitVec 18, sess s a.toNat = none ∨ domainOn s 9 = false → Completes (.supervisionExpiry a) s fun t => t = s) ∧
     (∀ uid : Nat, (∀ c, findCmd s uid = some c → c.st ≠ .onLine) ∨
       (∀ j ∈ cmdJobs s uid, j.ended = true → ∀ d, j.deadline = some d → ahead d (cidxNow s) = true) →
       Completes (.routedReplyTimeout uid) s fun t => t = s) ∧
     (∀ (a : BitVec 18) (x : Session), sess s a.toNat = some x → x.node = a.toNat → domainOn s 9 = true →
       let under := fun (c : Cmd) => (cmdJobs s c.uid).any fun j => j.begun && j.live
       (x.supv = true ∨ x.state = 1 ∨ tbNow s < x.tAuth + x.supvT * 10 ^ 8 → Completes (.supervisionExpiry a) s fun t => t = s) ∧
       (x.supv = false → x.state ≠ 1 → x.tAuth + x.supvT * 10 ^ 8 ≤ tbNow s → Completes (.supervisionExpiry a) s fun t =>
         (x.state ≠ 2 → ∃ y, sess t a.toNat = some y ∧ y.supv = true ∧ y.state = (if x.state = 0 then 1 else x.state)) ∧
           (x.state = 2 → liveJobs s a.toNat = [] → nodeCmds s a.toNat ≠ [] → (∀ c ∈ nodeCmds s a.toNat, under c = false ∧ c.route = []) →
             sess t a.toNat = none) ∧
           rdN t R.MAC_SUPV_CNT = satN (2 ^ 32 - 1) (rdN s R.MAC_SUPV_CNT + 1) ∧ isSet t F.MAC_EVT_SUPV_CHG = true ∧
           (∀ r ∈ t.retain, r ∈ s.retain ∧ r.node ≠ a.toNat) ∧ t.mesh.dirty = true ∧ t.mains = s.mains ∧
           (∀ c ∈ t.cmds, c ∈ s.cmds ∧ (c ∈ nodeCmds s a.toNat → under c = true)) ∧
           ∀ c ∈ nodeCmds s a.toNat, under c = true → (∀ d ∈ s.cmds, d.uid = c.uid → d = c) → c ∈ t.cmds)) ∧
     ∀ (uid : Nat) (c : Cmd) (j : Job), findCmd s uid = some c → c.st = .onLine →
       (cmdJobs s uid).find? (fun j => j.ended && (j.deadline.any fun d => !ahead d (cidxNow s))) = some j →
       Completes (.routedReplyTimeout uid) s fun t => (findJob t j.id).map (·.deadline) = some none ∧ t.mains = s.mains ∧
         (c.attempts < 1 + retryOf s (carrier c) → pwrState s = 4 → s.pwr.leaving = false →
           (c.route = [] → ∀ x, sess s (D.res c) = some x → x.supv = false) → (∀ x, sess s (carrier c) = some x → x.state ≠ 2) → (findCmd t uid).map (·.st) = some .waiting) ∧
         (retryOf s (carrier c) < c.attempts → ∀ d ∈ t.cmds, d.uid ≠ uid ∧ d ∈ s.cmds))

/-- FRAME_TRANSMIT_START, CARRIER_SENSE_CHECK, FRAME_TRANSMIT_END: a frame is built, numbered and encrypted as it begins; a robust one begins
with the copies whose phases may transmit while they are half of them, and is refused otherwise where TXF mutes one; of a frame of one copy:
once carrier sensing has let it, its symbols begin on its channel at the amplitude of the level in effect, unless the cycle is void or its phase
muted by TXF; a busy band withdraws it, or of a beacon leaves its copy out, and at its last symbol the copy is done (R182, R197, R200, R217,
R227, R249, R273). -/
def Obligations.FramesOnTheLine : Prop :=
  (∀ (s : State) (id n : Nat), Settled s → findJob s id = none → Completes (.frameTransmitStart id) s (fun t => t = s) ∧
    Completes (.carrierSenseCheck id n) s (fun t => t = s) ∧ Completes (.frameTransmitEnd id) s fun t => t = s) ∧
  (∀ (s : State) (id : Nat) (j : Job), Settled s → findJob s id = some j →
    (j.ended = true ∨ (∀ c ∈ j.copies, c.st ≠ .planned) ∨ slotAhead s j.slot (slotNow s) = true ∨ unsensed s j = true →
      Completes (.frameTransmitStart id) s fun t => t = s) ∧
    ((∀ c ∈ j.copies, c.st ≠ .onAir) → Completes (.frameTransmitEnd id) s fun t => t = s) ∧
    (∀ n, j.ended = true ∨ j.copies.length ≤ n ∨ j.sensed.contains n = true → Completes (.carrierSenseCheck id n) s fun t => t = s) ∧
    (∀ (n : Nat) (c : Copy), (∀ i ∈ s.jobs, i.id = id → i = j) → j.ended = false → j.begun = false → j.copies[n]? = some c → nextCopies j c = true →
      n ∉ j.sensed → copyBusy s j c = true → j.each = true → (∃ d ∈ j.copies, d.st = .planned ∧ d ≠ c) → Completes (.carrierSenseCheck id n) s fun t =>
        rdN t R.MAC_CS_BUSY_CNT = satN (2 ^ 32 - 1) (rdN s R.MAC_CS_BUSY_CNT + 1) ∧
        (findJob t id).map (·.copies) = some (j.copies.map fun d => if d = c then { d with st := .silent } else d)) ∧
    ∀ uid d, (∀ i ∈ s.jobs, i.id = id → i = j) → j.ended = false → j.kind = .command uid → findCmd s uid = some d → 1 < j.copies.length →
      (∀ c ∈ j.copies, c.st = .planned ∧ c.ch.ph < 3) → slotAhead s j.slot (slotNow s) = false → unsensed s j = false →
      s.mains.voidNow = false →
      let free := j.copies.filter fun c => !phaseMuted s c.ch.ph
      (makeBar s j = none → j.copies.length ≤ 2 * free.length → Completes (.frameTransmitStart id) s fun t => ∃ k, findJob t id = some k ∧
        k.copies.length = j.copies.length ∧ ∀ (i : Nat) (c : Copy), j.copies[i]? = some c → ∃ e : Copy, k.copies[i]? = some e ∧ e.ch = c.ch ∧
          e.st = if nextCopies j c then (if phaseMuted s c.ch.ph then .silent else .onAir) else .planned) ∧
      (2 * free.length < j.copies.length → (∃ c ∈ j.copies, phaseMuted s c.ch.ph = true ∧ txfMuted s c.ch.ph = true) →
        Completes (.frameTransmitStart id) s fun t => ∀ e ∈ t.cmds, e.uid ≠ uid)) ∧
  ∀ (s : State) (id : Nat) (j : Job) (c : Copy), Settled s → findJob s id = some j → (∀ i ∈ s.jobs, i.id = id → i = j) →
    j.ended = false → (∀ uid p, j.kind ≠ .player uid p) → j.copies = [c] →
    (c.st = .planned → slotAhead s j.slot (slotNow s) = false → unsensed s j = false →
      (s.mains.voidNow = false → makeBar s j = none → phaseMuted s c.ch.ph = false → c.ch.ph < 3 → c.pre = false →
        Completes (.frameTransmitStart id) s fun t => ∃ k, findJob (makeFrames s j) id = some k ∧
          let bits := frameSymbols s j.mode k.h k.body
          (j.making = .none → k = j) ∧
          (∃ start, Output.line id 0 c.ch.ph c.ch.pair (ampTarget s c.ch.ph) start (mOf j.m) j.ofs bits ∈ t.posted) ∧
          (∃ g : Signal, (findJob t id).map (·.copies) = some [{ c with st := .onAir, sig := some g }] ∧ g.bits = bits) ∧
          (txPh t c.ch.ph).onSince.isSome = true ∧ t.cmds.map (·.uid) = s.cmds.map (·.uid)) ∧
      (s.mains.voidNow = true → ∀ uid d, j.kind = .command uid → findCmd s uid = some d → sess s j.node = none →
        Completes (.frameTransmitStart id) s fun t => t.posted = s.posted ∧ (findCmd t uid).map (·.st) = some .waiting ∧
          (findJob t id).map (·.copies) = some [{ c with st := .withdrawn }]) ∧
      (s.mains.voidNow = false → phaseMuted s c.ch.ph = true → txfMuted s c.ch.ph = true →
        ∀ uid d, j.kind = .command uid → findCmd s uid = some d → Completes (.frameTransmitStart id) s fun t =>
          (∀ e ∈ t.cmds, e.uid ≠ uid) ∧ (findJob t id).map (·.copies) = some [{ c with st := .withdrawn }])) ∧
    (c.st = .planned → 0 ∉ j.sensed →
      (copyBusy s j c = false → Completes (.carrierSenseCheck id 0) s fun t => { t with jobs := s.jobs } = s ∧
        (∀ q, q ≠ id → findJob t q = findJob s q) ∧ findJob t id = some { j with sensed := 0 :: j.sensed }) ∧
      (copyBusy s j c = true → Completes (.carrierSenseCheck id 0) s fun t =>
        rdN t R.MAC_CS_BUSY_CNT = satN (2 ^ 32 - 1) (rdN s R.MAC_CS_BUSY_CNT + 1) ∧
          (findJob t id).map (·.copies) = some [{ c with st := .withdrawn }])) ∧
    (c.st = .onAir → Completes (.frameTransmitEnd id) s fun t => Output.lineEnd id 0 false ∈ t.posted ∧
      ∃ g, (findJob t id).map (·.copies) = some [{ c with st := .done, sig := g }] ∧ (contChan s c.ch = false → g = c.sig))

/-- LEVEL_WRITE, IMPEDANCE_UPDATE, IMPEDANCE_SELECT, OVERCURRENT_EXCEED: written levels, the estimate that moves by an eighth at a symbol sent
whole whose correlated current is at least 5 mA rms, and the 6 dB cut at the first overcurrent of a cycle (R202, R203, R207, R208, R212). -/
def Obligations.LevelsAndImpedance : Prop :=
  ∀ (s : State) (ph : Fin 3) (v : Word), Settled s →
    let p := ph.val
    (reach s (R.TXS_LVL_MAX p) = true → Completes (.levelWrite ph true v) s fun t =>
      OnlyRegs (rewritten s (R.TXS_LVL_MAX p)) t [R.TXS_LVL_MAX p] ∧ rdN t (R.TXS_LVL_MAX p) = v.toNat % 1024) ∧
    (reach s (R.TXS_LVL p) = true → Completes (.levelWrite ph false v) s fun t =>
      let a := v.toNat % 1024
      let n := v.toNat / 2 ^ 16 % 64
      let old := getF s (F.TXS_LVL_ATT p)
      let new := isSet s F.TXS_CTRL_ALC = false ∧ a ≠ old
      (¬new ∨ (txPh s p).attPend = none → { t with regs := s.regs, tx := s.tx } = rewritten s (R.TXS_LVL p) ∧
          SameRegs s t [R.TXS_LVL p, R.TXS_EVT]) ∧
        (∀ q, q ≠ p → txPh t q = txPh s q) ∧ (new → txPh t p = { txPh s p with extra := 0, attPend := none }) ∧ (¬new → t.tx = s.tx) ∧
        getF t (F.TXS_LVL_NCAP p) = n ∧ getF t (F.TXS_LVL_ATT p) = (if isSet s F.TXS_CTRL_ALC then old else a) ∧
        ((isSet s F.TXS_CTRL_ALC = true ∧ a ≠ old) ∨ 240 < a ∨ n = 0 ∨ 32 < n → isSet t F.TXS_EVT_CFG_ERR = true)) ∧
    (∀ (pair : Byte) (sp valid : Bool) (volt cur : List Int) (job k : Nat),
      (symbolTone s job ⟨pair.toNat, p⟩ sp k cur.length = none → Completes (.impedanceUpdate ph pair sp volt cur job k valid) s fun t => t = s) ∧
      ∀ tone, symbolTone s job ⟨pair.toNat, p⟩ sp k cur.length = some tone →
        let (vr, vi) := correlate (tone * 2 ^ 20) volt 0
        let (ir, ii) := correlate (tone * 2 ^ 20) cur 0
        let on := valid = true ∧ domainOn s (18 + p) = true ∧ volt.length = cur.length ∧
          25000000 * ((cur.length * 131071) ^ 2 : Nat) ≤ 2 * (ir * ir + ii * ii)
        (¬on → Completes (.impedanceUpdate ph pair sp volt cur job k valid) s fun t => t = s) ∧
        (on → Completes (.impedanceUpdate ph pair sp volt cur job k valid) s fun t =>
          let zr : Rat := ((vr * ir + vi * ii : Int) : Rat) / ((ir * ir + ii * ii : Int) : Rat)
          let zi : Rat := ((vi * ir - vr * ii : Int) : Rat) / ((ir * ir + ii * ii : Int) : Rat)
          let e := 2 * pair.toNat + b2n sp
          { t with tx := s.tx } = s ∧ (∀ q, q ≠ p → txPh t q = txPh s q) ∧ (∀ f, f ≠ e → fget (txPh t p).z f = fget (txPh s p).z f) ∧
            (fget (txPh s p).z e = none → fget (txPh t p).z e = some (zr, zi, cidxNow s)) ∧
            ∀ a b n, fget (txPh s p).z e = some (a, b, n) → fget (txPh t p).z e = some (a + (zr - a) / 8, b + (zi - b) / 8, cidxNow s))) ∧
    (reach s R.TXS_Z_IDX = true → Completes (.impedanceSelect v) s fun t =>
      let e := fget (txPh s (v.toNat / 2 ^ 8 % 4)).z (v.toNat % 2 ^ 8 * 2 + v.toNat / 2 ^ 10 % 2)
      { t with regs := s.regs, par := s.par, freeCtr := s.freeCtr } = s ∧ SameRegs s t [R.TXS_Z_IDX, R.TXS_Z_DATA, R.TXS_Z_AGE] ∧
        rdN t R.TXS_Z_IDX = v.toNat % 2 ^ 11 ∧ (e = none → rdN t R.TXS_Z_DATA = 0 ∧ rdN t R.TXS_Z_AGE = 0) ∧
        ∀ a b n, e = some (a, b, n) → bit (rdN t R.TXS_Z_DATA) 31 = true ∧ rd t R.TXS_Z_AGE = BitVec.ofNat 32 n) ∧
    (∀ mA : Nat,
      let on := (txPh s p).cut6 = false ∧ 50 * max 10 (min 40 (getF s (F.TXS_ILIM_ILIM p))) < mA ∧ domainOn s (18 + p) = true
      (¬on → Completes (.overcurrentExceed ph mA) s fun t => t = s) ∧
      (on → Completes (.overcurrentExceed ph mA) s fun t => (txPh t p).cut6 = true ∧
        rdN t (R.TXS_OC_CNT p) = satN (2 ^ 32 - 1) (rdN s (R.TXS_OC_CNT p) + 1) ∧ ∀ q, q ≠ p → txPh t q = txPh s q))

/-- DRIVER_TEMP_WARN, THERMAL_SHUTDOWN, THERMAL_CLEAR, VDRV_LOW, VDRV_LOW_CLEAR, OC_AUTO_RETRY, RETRY_RELOAD, TXF_CLEAR: at 140 °C a phase is
hard-muted with THERM until it has cooled, and resumes at the next slot boundary; VDRV low takes 2 dB off every phase at once; an
overcurrent is retried at an epoch boundary, 6 dB down, while retries are left, and CLR clears OC and PG and reloads them (R208, R211,
R213 to R216). -/
def Obligations.DriverProtection : Prop :=
  ∀ (s : State) (ph : Fin 3),
    (s.pins.inReset = true → Settled s → ∀ temp : BitVec 16, Completes (.driverTempWarn ph temp) s (fun t => t = s) ∧
      Completes (.thermalShutdown ph temp) s (fun t => t = s) ∧ Completes (.thermalClear ph temp) s fun t => t = s) ∧
    (s.pins.inReset = false →
    let p := ph.val
    let start := fun (extra : Nat) => min 240 ((if isSet s F.TXS_CTRL_ALC then getF s F.TXS_ALC_CFG_ATT_START
      else (txPh s p).att - (txPh s p).extra) + extra)
    let vdrv := fun (low : Bool) (t : State) => t.pins = { s.pins with vdrvLow := low } ∧ t.jobs = s.jobs ∧ t.cmds = s.cmds ∧
      SameRegs s t ([R.TXS_EVT, R.YAR_EVT, R.YAR_PGAP_CNT] ++ (List.range 3).flatMap fun q => [R.TXS_LIM_CNT q, R.TXS_CLIP_CNT q]) ∧
      ∀ q < 3, (txPh t q).att = (txPh s q).att ∧ (txPh t q).amp = ampWord (levelOf s q - if low then 8 else 0)
    (∀ temp : BitVec 16,
      (Settled s → Completes (.driverTempWarn ph temp) s fun t => { t with regs := s.regs, tx := s.tx } = s ∧
        SameRegs s t [R.TXS_TEMP p, R.TXS_EVT] ∧ rdN t (R.TXS_TEMP p) = temp.toNat ∧ (∀ q, q ≠ p → txPh t q = txPh s q) ∧
          (txPh t p).hot = decide (twQuarter s ≤ temp.toInt) ∧ (twQuarter s ≤ temp.toInt → isSet t F.TXS_EVT_THERM_WARN = true)) ∧
      (560 ≤ temp.toInt → Completes (.thermalShutdown ph temp) s fun t => (txPh t p).therm = true ∧ (hardMute t p).isSome = true ∧
        (∀ j ∈ t.jobs, ∀ c ∈ j.copies, c.ch.ph = p → c.st ≠ .onAir) ∧ (txPh t p).onSince = none) ∧
      (temp.toInt < 560 → Completes (.thermalShutdown ph temp) s fun t => (txPh t p).therm = (txPh s p).therm ∧
        rdN t (R.TXS_TEMP p) = temp.toNat) ∧
      ((txPh s p).therm = true → temp.toInt < twQuarter s → Completes (.thermalClear ph temp) s fun t =>
        (txPh t p).therm = false ∧ fget t.pwr.resume p = some .slot ∧ phaseMuted t p = true ∧ (txPh t p).att = start 0) ∧
      ((txPh s p).therm = true → twQuarter s ≤ temp.toInt → Completes (.thermalClear ph temp) s fun t => (txPh t p).therm = true)) ∧
    (Settled s → Completes .vdrvLow s fun t => vdrv true t ∧ isSet t F.TXS_EVT_VDRV_LOW = true) ∧
    (Settled s → Completes .vdrvLowClear s fun t => vdrv false t ∧ rd t R.TXS_EVT = rd s R.TXS_EVT) ∧
    (∀ a, (txPh s p).oc = true → (txPh s p).ocAt = some a → a + retryNs s ≤ s.mains.elapsed → 0 < getF s (F.TXS_TXF_RETRY_LEFT p) →
      cidxOk s = true → cidxNow s % 256 = 0 → Completes (.ocAutoRetry ph) s fun t => (txPh t p).oc = false ∧ isSet t F.TXS_EVT_REC = true ∧
        getF t (F.TXS_TXF_RETRY_LEFT p) = getF s (F.TXS_TXF_RETRY_LEFT p) - 1 ∧ (txPh t p).att = start 24) ∧
    (Settled s → getF s (F.TXS_TXF_RETRY_LEFT p) = 0 ∨ (txPh s p).oc = false ∨ cidxOk s = false ∨ cidxNow s % 256 ≠ 0 ∨
      (∀ a, (txPh s p).ocAt = some a → s.mains.elapsed < a + retryNs s) → Completes (.ocAutoRetry ph) s fun t => t = s) ∧
    (Settled s → (txPh s p).oc = true ∨ (txPh (txAccount s p) p).txTime < 3600 * 10 ^ 9 → Completes (.retryReload ph) s fun t => t.regs = s.regs) ∧
    ((txPh s p).oc = false → 3600 * 10 ^ 9 ≤ (txPh (txAccount s p) p).txTime → Completes (.retryReload ph) s fun t =>
      getF t (F.TXS_TXF_RETRY_LEFT p) = getF s F.TXS_REC_CFG_RETRY ∧ (txPh t p).txTime = 0 ∧ (txPh t p).oc = false) ∧
    (∀ v : Word, reach s (R.TXS_TXF p) = true →
      (Settled s → bit v.toNat 8 = false → Completes (.txfClear ph v) s fun t => t = rewritten s (R.TXS_TXF p)) ∧
      (bit v.toNat 8 = true → (txPh s p).oc = true ∨ (txPh s p).pg = true → Completes (.txfClear ph v) s fun t =>
        (txPh t p).oc = false ∧ (txPh t p).pg = false ∧ (txPh t p).therm = (txPh s p).therm ∧ (txPh t p).att = start 0 ∧
          getF t (F.TXS_TXF_RETRY_LEFT p) = getF s F.TXS_REC_CFG_RETRY ∧ fget t.pwr.resume p = some .epoch) ∧
      (Settled s → bit v.toNat 8 = true → (txPh s p).oc = false → (txPh s p).pg = false →
        (txf s p = true → Completes (.txfClear ph v) s fun t => OnlyRegs (rewritten s (R.TXS_TXF p)) t [R.TXS_EVT] ∧
          isSet t F.TXS_EVT_CFG_ERR = true) ∧
        (txf s p = false → Completes (.txfClear ph v) s fun t => OnlyRegs (rewritten s (R.TXS_TXF p)) t [R.TXS_TXF p] ∧
          getF t (F.TXS_TXF_RETRY_LEFT p) = getF s F.TXS_REC_CFG_RETRY))))

/-- PM_SECOND, BIN_FINAL, LABEL_ROUTE_WRITE, LANE_FRAMING_CONFIG: a second of the clock ends and its counts begin anew, an active lane's open
bin has one second more; a bin becomes final 10 s after its end; reserved labels and lanes that are not static and OFF take no settings (R224, R236,
R238, R245, R460). -/
def Obligations.PerformanceAndFramingSettings : Prop :=
  ∀ s : State,
    (Settled s → s.rtc.running = false → Completes .pmSecond s fun t => t = s) ∧
    (Settled s → ∀ obj day, fget s.pm obj = none → Completes (.binFinal obj day) s fun t => t = s) ∧
    (s.rtc.running = true → Completes .pmSecond s fun t =>
      t.rtc = { s.rtc with sec := (s.rtc.sec + 1) % 2 ^ 48, sub := 0, acc := 0 } ∧ t.secSeen = [] ∧
        (∀ e ∈ t.lanes, e.2.secFrames = 0 ∧ e.2.secBad = 0 ∧ e.2.secDec = 0 ∧ e.2.secErased = 0) ∧
        (pmOn s = false → t.pm.map Prod.fst = s.pm.map Prod.fst) ∧
        ∀ l x p, pmOn s = true → s.lanes = [(l, x)] → s.sessions = [] → x.secActive = true → fget s.pm l = some p →
          p.q.id = quarterId t → ∃ q, fget t.pm l = some q ∧ q.q.elapsed = p.q.elapsed + 1 ∧ q.q.id = p.q.id) ∧
    (∀ obj p, fget s.pm obj = some p →
      Settled s → (Completes (.binFinal obj false) s fun t => { t with pm := s.pm } = s ∧ (∀ k, k ≠ obj → fget t.pm k = fget s.pm k) ∧
        fget t.pm obj = some { p with qh := p.qh.map fun b =>
          if b.final = false ∧ b.endAt + 10 ^ 10 ≤ s.mains.elapsed then { b with final := true } else b }) ∧
      (Completes (.binFinal obj true) s fun t => (∀ k, k ≠ obj → fget t.pm k = fget s.pm k) ∧
        fget t.pm obj = some { p with dh := p.dh.map fun b =>
          if b.final = false ∧ b.endAt + 10 ^ 10 ≤ s.mains.elapsed then { b with final := true } else b })) ∧
    (∀ (l : BitVec 6) (v : Word), Settled s → reach s (R.LFR_LBL l.toNat) = true → Completes (.labelRouteWrite l v) s fun t =>
      OnlyRegs (rewritten s (R.LFR_LBL l.toNat)) t [R.LFR_LBL l.toNat, R.LFR_EVT] ∧
        (Lbl.fixed l.toNat = true → rd t (R.LFR_LBL l.toNat) = rd s (R.LFR_LBL l.toNat) ∧ isSet t F.LFR_EVT_CFG_ERR = true) ∧
        (Lbl.fixed l.toNat = false → rd t (R.LFR_LBL l.toNat) = v &&& 0x137#32 ∧
          (l.toNat < 5 → v.toNat / 16 % 4 = 0 ∨ v.toNat / 16 % 4 = 3 → isSet t F.LFR_EVT_CFG_ERR = true))) ∧
    (∀ v : Word, Settled s → reach s R.LFR_LANE_CFG = true → Completes (.laneFramingConfig v) s fun t =>
      let l := getF s F.LFR_LANE_IDX_LANE
      let x := lane s l
      LaneOnly s t l [R.LFR_EVT] ∧
        (x.own = 2 → x.idle = true → lane t l = { x with cfg := v &&& 0xFF1#32 } ∧
          (v.toNat / 16 % 16 = 0 → isSet t F.LFR_EVT_CFG_ERR = true)) ∧
        (x.own ≠ 2 ∨ x.idle = false → t.lanes = s.lanes ∧ isSet t F.LFR_EVT_CFG_ERR = true))

/-! ### Sorrel and Vetch (R246 to R304) -/

/-- SLOT_COMMIT, DEADLINE_EXPIRY, SLOT_SIZE_WRITE, QA_INDEX_SELECT: at a slot boundary the next slot is planned, once; with nothing to
send, without an address of its own or after the firmware watchdog it opens contention lanes alone; a command whose deadline passes before its first attempt ends by the cause of its last deferral;
SLOT_C changes only while Sorrel is off and no session is open; the agreement window (R246 to R248, R260, R265, R276). -/
def Obligations.SlotPlansAndDeadlines : Prop :=
  ∀ s : State, Settled s →
    (let slot := (slotNow s + 1) % slotCount s
     cidxOk s = true → cidxNow s % slotC s = 0 → isSet s F.MAC_CTRL_EN = true → domainOn s 9 = true → inSafe s 7 = false →
      (s.sor.committed = some slot → Completes .slotCommit s fun t => t = s) ∧
      (s.sor.committed ≠ some slot → s.pwr.watchdog = true ∨ rootSet s = false ∨
          (s.cmds = [] ∧ s.sessions = [] ∧ s.mesh.floods = [] ∧ isSet s F.MAC_BCN_CFG_EN = false) →
        Completes .slotCommit s fun t => t.sor.committed = some slot ∧ t.cmds = s.cmds ∧ t.sessions = s.sessions ∧ t.posted = s.posted ∧
          t.mains = s.mains ∧ SameRegs s t [R.MAC_CONT_SHORT_CNT, R.MAC_EVT, R.CMP_EVT] ∧ (∀ j ∈ t.jobs, j ∈ s.jobs) ∧
          (contPer s slot = none → t.lanes = s.lanes ∧ t.regs = s.regs))) ∧
    (cidxOk s = false ∨ cidxNow s % slotC s ≠ 0 ∨ isSet s F.MAC_CTRL_EN = false ∨ domainOn s 9 = false ∨ inSafe s 7 = true →
      Completes .slotCommit s fun t => t = s) ∧
    (∀ uid, (∀ c, findCmd s uid = some c → c.st ≠ .waiting ∨ c.attempts ≠ 0) → Completes (.deadlineExpiry uid) s fun t => t = s) ∧
    (∀ uid c, findCmd s uid = some c → c.st = .waiting → c.attempts = 0 →
      (ahead c.deadline (cidxNow s) = true → Completes (.deadlineExpiry uid) s fun t => t = s) ∧
      (ahead c.deadline (cidxNow s) = false → Completes (.deadlineExpiry uid) s fun t => HostOnly s t ∧
        Ends c (if c.cause = .budget then St.budget else St.reservation) 0 0 t fun u => { u with players := s.players } = s)) ∧
    (∀ v : Word, reach s R.MAC_SLOT_CFG = true →
      let allowed := v.toNat % 4 = getF s F.MAC_SLOT_CFG_SLOT_C ∨ (isSet s F.MAC_CTRL_EN = false ∧ s.sessions = [])
      (allowed → Completes (.slotSizeWrite v) s fun t => rd t R.MAC_SLOT_CFG = v &&& 0xFFFF0003#32 ∧ t.mains = s.mains ∧
        t.sessions = s.sessions ∧ t.cmds = s.cmds ∧ t.jobs = s.jobs ∧ t.sor = s.sor) ∧
      (¬ allowed → Completes (.slotSizeWrite v) s fun t => OnlyRegs (rewritten s R.MAC_SLOT_CFG) t [R.MAC_EVT] ∧
        isSet t F.MAC_EVT_CFG_ERR = true)) ∧
    ∀ v : Word, reach s R.MAC_QA_IDX = true → Completes (.qaIndexSelect v) s fun t =>
      OnlyRegs (rewritten s R.MAC_QA_IDX) t [R.MAC_QA_IDX, R.MAC_QA_STAT, R.MAC_QA_C, R.MAC_QA_DUR] ∧ rdN t R.MAC_QA_IDX = v.toNat % 8 ∧
        ((∀ q, quiet s (v.toNat % 8) = some q → q.state = 0 ∨ 3 < q.state) → rd t R.MAC_QA_STAT = 0 ∧ rd t R.MAC_QA_C = 0 ∧ rd t R.MAC_QA_DUR = 0) ∧
        ∀ q, quiet s (v.toNat % 8) = some q → q.state = 1 ∨ q.state = 2 ∨ q.state = 3 →
          rdN t R.MAC_QA_STAT / 2 ^ 24 = q.state ∧ rd t R.MAC_QA_C = BitVec.ofNat 32 q.c ∧ rd t R.MAC_QA_DUR = BitVec.ofNat 32 q.dur

/-- ROUTE_COMPUTE_DONE, REPAIR_HOLD_EXPIRY, NEIGHBOUR_AGE_EXPIRY, LEARNED_ENTRY_AGE_EXPIRY, VET_ROOT_WRITE: a node takes the relays of its
least label, one with an active session none, and a pinned route its cost of now; marks and measures lapse at their ages; the root address is fixed while Sorrel runs (R277, R281, R284, R287, R289, R294,
R301, R303). -/
def Obligations.RoutesAndDirectoryAges : Prop :=
  ∀ s : State, Settled s →
    (s.mesh.dirty = false ∨ domainOn s 9 = false ∨ s.pwr.watchdog = true → Completes .routeComputeDone s fun t => t = s) ∧
    (s.mesh.dirty = true → domainOn s 9 = true → s.pwr.watchdog = false →
      (s.mesh.method = true → Completes .routeComputeDone s fun t => t = { s with mesh := { s.mesh with dirty := false } }) ∧
      ∀ q r, s.mesh.method = false → dirAll s = q ++ [r] → (∀ d ∈ q, d.pin = true ∨ active s d.addr = true) →
        Completes .routeComputeDone s fun t => t.mesh.dirty = false ∧
        t.mesh.links = s.mesh.links ∧ t.sessions = s.sessions ∧ t.jobs = s.jobs ∧ t.cmds = s.cmds ∧
        (∀ a, (∀ d ∈ dirAll s, d.addr ≠ a) → fget t.mesh.routes a = fget s.mesh.routes a) ∧
        (r.pin = true → (∀ d ∈ q, d.addr ≠ r.addr) → fget t.mesh.routes r.addr =
          (fget s.mesh.routes r.addr).map fun x => { x with cost := pathCost s (pathOf s r.addr x.relays) }) ∧
        (r.pin = false → active s r.addr = true → fget t.mesh.routes r.addr = none) ∧
        ∀ c p, r.pin = false → active s r.addr = false → fget s.mesh.routes r.addr = none →
          fget ((labels s).getD (hopLimit s r - 1) []) r.addr = some (c, p) →
            fget t.mesh.routes r.addr = some { relays := p.dropLast, cost := c } ∧ isSet t F.VET_EVT_ROUTE_CHG = true) ∧
    (∀ a b : BitVec 18,
      let due := fun (x : Link) => x.failed.any fun e => Nat.blt (epochAge s e) (2 ^ 23)
      let mine := fun (k : Nat) => k = linkKey a.toNat b.toNat ∨ k = linkKey b.toNat a.toNat
      ((∃ k x, mine k ∧ fget s.mesh.links k = some x ∧ due x = true) → Completes (.repairHoldExpiry a b) s fun t =>
        t = { s with mesh := t.mesh } ∧ { t.mesh with links := s.mesh.links, dirty := s.mesh.dirty } = s.mesh ∧ t.mesh.dirty = true ∧
          ∀ k, fget t.mesh.links k = (fget s.mesh.links k).map fun x => if mine k ∧ due x = true then { x with failed := none } else x) ∧
      ((∀ k x, mine k → fget s.mesh.links k = some x → due x = false) → Completes (.repairHoldExpiry a b) s fun t => t = s)) ∧
    (∀ (a b : BitVec 18) (x : Link), link s a.toNat b.toNat = some x →
      (epochAge s x.epoch < ageMax s → Completes (.neighbourAgeExpiry a b) s fun t => t = s) ∧
      (ageMax s ≤ epochAge s x.epoch → Completes (.neighbourAgeExpiry a b) s fun t => { t with regs := s.regs, mesh := s.mesh } = s ∧
        SameRegs s t [R.VET_REPAIR_CNT, R.VET_EVT] ∧ t.mesh.dirty = true ∧
        rdN t R.VET_REPAIR_CNT = satN (2 ^ 32 - 1) (rdN s R.VET_REPAIR_CNT + 1) ∧
        ∀ k, fget t.mesh.links k = if k = linkKey a.toNat b.toNat then none else fget s.mesh.links k)) ∧
    (∀ (a : BitVec 18) (r : DirRec) (p : Nat), dirFind s a.toNat = some r → dirPlace s a.toNat = some p → s.mesh.stash = [] →
      (r.learned = true → ageMax s ≤ epochAge s r.epoch → sess s a.toNat = none →
        (∀ e ∈ s.mesh.routes, a.toNat ∉ e.2.relays) → (∀ d ∈ dirAll s, d.pin = true → a.toNat ∉ d.relays) →
        Completes (.learnedEntryAgeExpiry a) s fun t => t = { s with mesh := t.mesh } ∧ t.mesh.dirty = true ∧
          fget t.mesh.routes a.toNat = none ∧ (∀ q, fget t.mesh.tables q = if q = p then none else fget s.mesh.tables q) ∧
          t.mesh.links = s.mesh.links ∧ t.mesh.stash = []) ∧
      (r.learned = false ∨ epochAge s r.epoch < ageMax s ∨ (sess s a.toNat).isSome = true →
        Completes (.learnedEntryAgeExpiry a) s fun t => t = s)) ∧
    ∀ v : Word, reach s R.VET_ROOT = true →
      (isSet s F.MAC_CTRL_EN = true → Completes (.vetRootWrite v) s fun t => OnlyRegs (rewritten s R.VET_ROOT) t [R.VET_EVT] ∧
        isSet t F.VET_EVT_CFG_ERR = true) ∧
      (isSet s F.MAC_CTRL_EN = false → Completes (.vetRootWrite v) s fun t =>
        { t with regs := s.regs, mesh := s.mesh, par := s.par } = s ∧ SameRegs s t [R.VET_ROOT] ∧ rdN t R.VET_ROOT = v.toNat % 2 ^ 18 ∧
          t.mesh = { s.mesh with dirty := true })

/-! ### Yarrow (R305 to R340) -/

/-- REGION_WRITE, REGION_CLEAR_DONE, CAPTURE_ITEM, CHUNK_TIMEOUT, CAPTURE_ENGINE_DISABLE, STREAM_INDEX_SELECT: sizes are taken only while
Yarrow is idle and clear both regions; an armed stream keeps its newest PRE + LAG items, the samples or records of its tap that wait, or erasure codes at a tap
that delivers none; a chunk CHUNK_T after its first word is written, or, without
room, is lost or ends the stream by its mode; disabling ends every stream (R305, R306, R316, R307, R320, R323, R327, R329,
R340, R395). -/
def Obligations.CaptureStreams : Prop :=
  ∀ s : State, Settled s →
    (∀ v : Word, reach s R.YAR_REGION = true →
      let cap := v.toNat % 128
      let pat := v.toNat / 2 ^ 8 % 128
      let good := cap ≤ 96 ∧ pat ≤ 32 ∧ cap + pat ≤ 112 ∧ (∀ e ∈ s.streams, e.2.st = .idle) ∧ ∀ e ∈ s.players, e.2.st = .idle
      (¬ good → Completes (.regionWrite v) s fun t => OnlyRegs (rewritten s R.YAR_REGION) t [R.YAR_EVT] ∧
        isSet t F.YAR_EVT_CFG_ERR = true) ∧
      (good → Completes (.regionWrite v) s fun t => t.dram = [] ∧ rdN t R.YAR_REGION = pat * 256 + cap ∧
        isSet t F.YAR_STATUS_REGION_OK = false ∧ t.streams = s.streams ∧ t.players = s.players ∧ t.cmds = s.cmds ∧ t.mains = s.mains)) ∧
    (Completes .regionClearDone s fun t => OnlyRegs s t [R.YAR_STATUS] ∧ isSet t F.YAR_STATUS_REGION_OK = true) ∧
    (∀ (i : Fin 16) (time : BitVec 64) (cidx : Word) (phase : BitVec 31) (vals : List Nat),
      let x := stream s i.val
      let sample := sampleTap (Prog.tap x.prog)
      let silent := sample = true ∧ ∀ q ∈ Prog.inputs x.prog, tapOn s (Prog.tap x.prog) q = false
      let arrives := fun (it : Item) (rest : List Item) =>
        (∃ f, x.feed = f :: rest ∧ it = if sample then f else { f with phase := phase.toNat, vals := maskItem s x f.vals }) ∨
        (x.feed = [] ∧ rest = [] ∧ silent ∧ it = {
          time := time.toNat, cidx := cidx.toNat, phase := phase.toNat
          vals := (Prog.inputs x.prog).map fun _ => 0x20000, hold := isSet s F.MSY_STATUS_HOLD })
      (x.feed = [] → ¬silent ∨ x.st = .idle → Completes (.captureItem i time cidx phase vals) s fun t => t = s) ∧
      (∀ it rest, arrives it rest → (∀ e ∈ s.streams, e.2.exports = []) → x.startEv = none → x.stopEv = none → x.stopIt = none → x.cidx0 = none → x.cidx1 = none →
        (x.st = .armed → x.startIt = none → Completes (.captureItem i time cidx phase vals) s fun t =>
          let n := x.items.length + 1 - (Prog.pre x.prog + Prog.lag x.prog)
          t = { s with streams := t.streams } ∧ (∀ q, q ≠ i.val → stream t q = stream s q) ∧
            stream t i.val = { x with feed := rest, items := (x.items ++ [it]).drop n, first := x.first + n, released := (stream t i.val).released }) ∧
        (∀ k, x.st = .capturing → x.startIt = some k → x.items = [] → Prog.lag x.prog = 0 → x.segFrom ≤ x.first →
          chunkWords x.prog (x.chunk ++ [it]) ≤ 2046 → Completes (.captureItem i time cidx phase vals) s fun t =>
            t = { s with streams := t.streams } ∧ (∀ q, q ≠ i.val → stream t q = stream s q) ∧
              (stream t i.val).chunk = x.chunk ++ [it] ∧ (stream t i.val).feed = rest ∧ (stream t i.val).items = [] ∧ (stream t i.val).first = x.first + 1 ∧
              (stream t i.val).st = .capturing))) ∧
    (∀ i : Fin 16,
      let x := stream s i.val
      let room := chunkRoom s x
      (x.chunk = [] ∨ s.mains.elapsed < x.chunkAt + 1000 * Prog.chunkT x.prog → Completes (.chunkTimeout i) s fun t => t = s) ∧
      (x.gap = 0 → x.owed = [] → x.chunkAt + 1000 * Prog.chunkT x.prog ≤ s.mains.elapsed →
      (x.chunk ≠ [] → room = true → Completes (.chunkTimeout i) s fun t => CaptureOnly s t ∧ t.cmds = s.cmds ∧
        (∀ q, q ≠ i.val → stream t q = stream s q) ∧ (stream t i.val).chunk = [] ∧ (stream t i.val).opened = true ∧
          (stream t i.val).count = x.count + x.chunk.length ∧ (stream t i.val).cseq = x.cseq + 1) ∧
      (x.chunk ≠ [] → room = false → Prog.mode x.prog = 2 → Completes (.chunkTimeout i) s fun t => CaptureOnly s t ∧
        rdN t R.YAR_LOST_CNT = satN (2 ^ 32 - 1) (rdN s R.YAR_LOST_CNT + x.chunk.length) ∧ isSet t F.YAR_EVT_LOSS = true ∧
          (stream t i.val).chunk = [] ∧ (stream t i.val).gap = x.chunk.length ∧ t.dram = s.dram) ∧
      (x.chunk ≠ [] → room = false → Prog.mode x.prog = 0 → x.st ≠ .idle → Completes (.chunkTimeout i) s fun t => CaptureOnly s t ∧
        (stream t i.val).st = .idle ∧ isSet t F.YAR_EVT_FULL = true ∧ ∀ c ∈ t.cmds, c.uid ≠ x.uid))) ∧
    (reach s R.YAR_CTRL = true → Completes .captureEngineDisable s fun t => CaptureOnly (rewritten s R.YAR_CTRL) t ∧
      isSet t F.YAR_CTRL_CAP_EN = false ∧ isSet t F.YAR_CTRL_PLAY_EN = isSet s F.YAR_CTRL_PLAY_EN ∧
        (∀ i < 16, (stream t i).st = .idle) ∧ ∀ i < 16, (stream s i).st ≠ .idle → ∀ c ∈ t.cmds, c.uid ≠ (stream s i).uid) ∧
    ∀ v : Word, reach s R.YAR_STRM_IDX = true → Completes (.streamIndexSelect v) s fun t =>
      OnlyRegs (rewritten s R.YAR_STRM_IDX) t [R.YAR_STRM_IDX, R.YAR_STRM_STAT, R.YAR_STRM_OLD, R.YAR_STRM_NEW, R.YAR_STRM_LOST,
        R.YAR_STRM_SEG] ∧ rdN t R.YAR_STRM_IDX = v.toNat % 16 ∧ rd t R.YAR_STRM_LOST = BitVec.ofNat 32 (stream s (v.toNat % 16)).lost ∧
        rd t R.YAR_STRM_SEG = BitVec.ofNat 32 (stream s (v.toNat % 16)).segs

/-- PLAYER_ENTRY_END, PLAYER_ALIGN_RESUME, PLAYER_START_CYCLE, PLAYBACK_ENGINE_DISABLE, PLAYER_INDEX_SELECT: a list runs on from entry to
entry and back over its REPEATs, ALIGN waits for a cycle boundary, END completes the start command, a transmit player begins only on a
phase that may transmit; a list word that cannot be corrected stops the player; disabling stops every player (R311, R334, R336, R337, R340). -/
def Obligations.PatternPlayers : Prop :=
  ∀ (s : State) (k : Fin 7), Settled s → (∀ e ∈ s.players, e.2.reads = []) →
    let p := k.val
    let x := player s p
    let plays := fun (e : Nat) => Ent.type e = 1 ∨ Ent.type e = 2
    let clean := fun (w : Nat) => ∃ d, readStored (fgetD s.dram (patBase + w) 0) = some (d, false)
    let sound := fun (w : Nat) => clean w ∧ (Ent.type (patWord s w) = 1 →
      ∀ i < cdiv (Ent.count (patWord s w)) (itemsPerWord p), clean (Ent.addr (patWord s w) + i))
    let only := fun (t : State) => t = { s with players := t.players, tx := t.tx, regs := t.regs } ∧ (3 ≤ p → t.tx = s.tx ∧ t.regs = s.regs) ∧
      SameRegs s t [R.YAR_EVT, R.YAR_PGAP_CNT, R.TXS_LIM_CNT p, R.TXS_CLIP_CNT p] ∧ ∀ q, q ≠ p → player t q = player s q
    (x.st ≠ .playing → Completes (.playerEntryEnd k) s fun t => t = s) ∧
    (x.st = .playing → sound (x.list + x.entry) → patBad s (x.list + (x.entry + 1)) = true → Completes (.playerEntryEnd k) s fun t =>
      (player t p).st = .idle ∧ ∀ c ∈ t.cmds, c.uid ≠ x.uid) ∧
    (x.st = .playing → x.align = false → sound (x.list + x.entry) → sound (x.list + (x.entry + 1)) →
      let e0 := patWord s (x.list + x.entry)
      let e1 := patWord s (x.list + (x.entry + 1))
      let total := x.played + (entryItems e0 - (x.pass * Ent.count e0 + x.item))
      (plays e1 → Ent.align e1 = false → Completes (.playerEntryEnd k) s fun t => only t ∧
        player t p = { x with
          entry := x.entry + 1, pass := 0, item := 0, played := total, last := lastPair s e0 x.last
          since := x.since + entryItems e0, items := entryItems e1, fetched := (player t p).fetched }) ∧
      (Ent.align e1 = true → Completes (.playerEntryEnd k) s fun t => only t ∧ (player t p).st = .waiting ∧ (player t p).align = true ∧
          (player t p).entry = x.entry + 1 ∧ (player t p).played = total) ∧
      (Ent.type e1 = 3 → Ent.align e1 = false →
        let n := fgetD x.cnt (x.entry + 1) 0
        let back := Ent.reps e1 = 0xFFFF ∨ n < Ent.reps e1
        let next := if back then Ent.target e1 else x.entry + 2
        plays (patWord s (x.list + next)) → Ent.align (patWord s (x.list + next)) = false → sound (x.list + next) →
          Completes (.playerEntryEnd k) s fun t => only t ∧ (player t p).st = .playing ∧ (player t p).entry = next ∧
            fgetD (player t p).cnt (x.entry + 1) 0 = (if back then n + 1 else 0) ∧ (player t p).played = total) ∧
      (Ent.type e1 = 0 → Ent.align e1 = false → Completes (.playerEntryEnd k) s fun t =>
        (player t p).st = (if Ent.pass e1 ∧ 3 ≤ p then .passing else .idle) ∧ (player t p).played = total ∧
          (∀ q, q ≠ p → player t q = player s q) ∧
          (∀ off < 0x8000, off ∉ [R.YAR_EVT, R.YAR_PGAP_CNT, R.TXS_LIM_CNT p, R.TXS_CLIP_CNT p] → rd t off = rd s off) ∧
          ∀ c ∈ t.cmds, c ∈ s.cmds ∧ c.uid ≠ x.uid)) ∧
    (x.st = .waiting → x.align = true → plays (patWord s (x.list + x.entry)) → sound (x.list + x.entry) →
      Completes (.playerAlignResume k) s fun t => only t ∧
        player t p = { x with
          st := .playing, align := false, pass := 0, item := 0, since := dacNow s, items := entryItems (patWord s (x.list + x.entry))
          fetched := (player t p).fetched }) ∧
    (x.st ≠ .waiting ∨ x.align = false → Completes (.playerAlignResume k) s fun t => t = s) ∧
    (x.st ≠ .waiting ∨ x.align = true → Completes (.playerStartCycle k) s fun t => t = s) ∧
    (x.st = .waiting → x.align = false → plays (patWord s (x.list + 0)) → sound (x.list + 0) →
      let started := fun (t : State) => { x with
        st := .playing, entry := 0, cnt := [], pass := 0, item := 0, played := 0, align := false, startAt := none, since := dacNow s
        items := entryItems (patWord s (x.list + 0)), fetched := (player t p).fetched }
      (3 ≤ p → ahead (x.startAt.getD 0) (cidxNow s) = true → Completes (.playerStartCycle k) s fun t => t = s) ∧
      (3 ≤ p → ahead (x.startAt.getD 0) (cidxNow s) = false → Completes (.playerStartCycle k) s fun t => only t ∧ player t p = started t) ∧
      ∀ j c, p < 3 → s.jobs.find? (fun j => j.kind == .player x.uid p && !j.ended) = some j → (∀ i ∈ s.jobs, i.id = j.id → i = j) →
        j.copies = [c] → c.ch.ph = p → c.st = .planned → slotAhead s j.slot (slotNow s) = false → unsensed s j = false →
        s.mains.voidNow = false → makeBar s j = none → phaseMuted s p = false →
          Completes (.playerStartCycle k) s fun t => player t p = started t ∧ t.cmds = s.cmds ∧
            SameRegs s t [R.YAR_EVT, R.YAR_PGAP_CNT, R.TXS_LIM_CNT p, R.TXS_CLIP_CNT p] ∧
            (findJob t j.id).map (·.copies) = some [{ c with st := .onAir }] ∧ (txPh t p).onSince.isSome = true) ∧
    (reach s R.YAR_CTRL = true → Completes .playbackEngineDisable s fun t => isSet t F.YAR_CTRL_PLAY_EN = false ∧
      isSet t F.YAR_CTRL_CAP_EN = isSet s F.YAR_CTRL_CAP_EN ∧ t.streams = s.streams ∧ (∀ q < 7, (player t q).st = .idle) ∧
        ∀ q < 7, (player s q).st ≠ .idle → ∀ c ∈ t.cmds, c ∈ s.cmds ∧ c.uid ≠ (player s q).uid) ∧
    ∀ v : Word, reach s R.YAR_PLAY_IDX = true → Completes (.playerIndexSelect v) s fun t =>
      let i := if v.toNat % 8 = 7 then 0 else v.toNat % 8
      OnlyRegs (rewritten s R.YAR_PLAY_IDX) t [R.YAR_PLAY_IDX, R.YAR_PLAY_STAT, R.YAR_PLAY_POS, R.YAR_EVT] ∧ rdN t R.YAR_PLAY_IDX = i ∧
        rd t R.YAR_PLAY_POS = BitVec.ofNat 32 (playedNow s i (player s i)) ∧ rdN t R.YAR_PLAY_STAT / 2 ^ 24 = (player s i).st.num ∧ (v.toNat % 8 = 7 → isSet t F.YAR_EVT_CFG_ERR = true)

/-! ### Speedwell (R341 to R375) -/

/-- SQ_DOORBELL, HEAD_DOORBELL, RING_ENABLE, RING_DISABLE, SQ_DRAINED: a doorbell that does not count sets DB_IGN alone, one out of range
puts its ring in ERROR, which drops what waits for it in a bank, another moves its tail or head; a ring enabled starts at index 0 with phase 1; a submission ring drains, a
completion ring in use stays (R348 to R352). -/
def Obligations.DoorbellsAndRingStates : Prop :=
  ∀ (s : State) (fn : Fin 8), Settled s →
    let n := fn.val
    let sets := fun (r : Nat) (x : Ring) (t : State) => ring t n r = x ∧ ∀ g q, q < 64 → g ≠ n ∨ q ≠ r → ring t g q = ring s g q
    let vectors := fun (a t : State) => { t with regs := a.regs, rings := a.rings, posted := a.posted, pcie := a.pcie } = a ∧
      { t.pcie with pba := a.pcie.pba } = a.pcie
    let failed := fun (r : Nat) (t : State) => (ring t n r).st = .error ∧ (ring t n r).err = 1 ∧ t.cmds = s.cmds ∧ t.mains = s.mains ∧
      bit (rdN t R.HQE_EVT) n = true ∧ bit (rdN t (R.HQE_FN_EVT n)) 1 = true ∧ (32 ≤ r → ∀ b ∈ bank t n (ringClass r), b.ring ≠ r) ∧
      (r < 32 → sets r { ring s n r with st := .error, err := 1 } t ∧ vectors s t ∧ SameRegs s t [R.HQE_EVT, R.HQE_FN_EVT n])
    let ignored := fun (t : State) => OnlyRegs s t [R.HQE_FN_EVT n] ∧ bit (rdN t (R.HQE_FN_EVT n)) 2 = true
    let counts := fun (r : Nat) (whole : Bool) => whole = true ∧ isSet s (F.HQE_FN_CTRL_EN n) = true ∧ (ring s n r).st = .enabled
    (doorOpen s n = false → ∀ (v : Word) (whole : Bool), (∀ sq : Fin 16, Completes (.sqDoorbell fn sq v whole) s fun t => t = s) ∧
      ∀ r : Fin 45, Completes (.headDoorbell fn r v whole) s fun t => t = s) ∧
    (doorOpen s n = true → ∀ (v : Word) (whole : Bool),
      let w := v.toNat % 2 ^ 16
      (∀ sq : Fin 16,
        let x := ring s n sq.val
        let size := ringSize s n sq.val
        let i := x.index % size
        let good := w < size ∧ (x.host + size - i) % size ≤ (w + size - i) % size
        (¬ counts sq.val whole → Completes (.sqDoorbell fn sq v whole) s ignored) ∧
        (counts sq.val whole → ¬ good → Completes (.sqDoorbell fn sq v whole) s (failed sq.val)) ∧
        (counts sq.val whole → good → Completes (.sqDoorbell fn sq v whole) s fun t =>
          t = { s with rings := t.rings } ∧ sets sq.val { x with host := w } t)) ∧
      ∀ r : Fin 45, 16 ≤ r.val →
        let x := ring s n r.val
        let size := ringSize s n r.val
        let good := w < size ∧ (w + size - x.host % size) % size ≤ ringFill s n r.val
        (¬ counts r.val whole → Completes (.headDoorbell fn r v whole) s ignored) ∧
        (counts r.val whole → ¬ good → Completes (.headDoorbell fn r v whole) s (failed r.val)) ∧
        (counts r.val whole → good → Completes (.headDoorbell fn r v whole) s fun t => (ring t n r.val).host = w) ∧
        (counts r.val whole → good → (s.held = [] ∧ s.kqOwners = [] ∧ s.streams = []) ∨ (32 ≤ r.val ∧ r.val < 40) ∨ r.val = 44 →
          Completes (.headDoorbell fn r v whole) s fun t => vectors s t ∧ t.regs = s.regs ∧ sets r.val { x with host := w } t)) ∧
    (fnHere s n = true → ∀ (r : Fin 45) (v : Word), reach s (R.HQE_RCFG n r.val) = true →
      let x := ring s n r.val
      let off := R.HQE_RCFG n r.val
      let size := bits v.toNat 24 21
      let kq := 40 ≤ r.val ∧ r.val < 44
      let en := isSet s (F.HQE_RCFG_EN n r.val)
      let refused := fun (t : State) => vectors (rewritten s off) t ∧ SameRegs s t [R.HQE_FN_EVT n] ∧ t.rings = s.rings ∧
        bit (rdN t (R.HQE_FN_EVT n)) 0 = true
      let stored := fun (y : Ring) (t : State) => t = { rewritten s off with regs := t.regs, rings := t.rings, banks := t.banks } ∧
        SameRegs s t [off] ∧ rd t off = v &&& 0xDFFF_FFFF#32 ∧ sets r.val y t ∧ ∀ c, bank t n c = bank s n c
      let taken := size ≤ 10 ∧ (en = true → size = getF s (F.HQE_RCFG_SIZE n r.val) ∧
        (r.val < 16 → bits v.toNat 28 25 = getF s (F.HQE_RCFG_CQ n r.val)))
      let small := n = 0 ∨ bits v.toNat 20 16 ≤ 7
      (¬ taken → (bit v.toNat 31 = true → Completes (.ringEnable fn r v) s refused) ∧
        (bit v.toNat 31 = false → Completes (.ringDisable fn r v) s refused)) ∧
      (bit v.toNat 31 = true → taken →
        (en = true → small → Completes (.ringEnable fn r v) s (stored x)) ∧
        (en = false → kq → hasGrant s n = false → small → Completes (.ringEnable fn r v) s refused) ∧
        (en = false → ¬ kq ∨ hasGrant s n = true →
          Completes (.ringEnable fn r v) s fun t => (ring t n r.val).st = .enabled ∧ rd t off = v &&& 0xDFFF_FFFF#32 ∧
            (¬ small → bit (rdN t (R.HQE_FN_EVT n)) 0 = true)) ∧
        (en = false → ¬ kq ∨ hasGrant s n = true → small → (16 ≤ r.val → r.val < 32 → s.held = []) →
          Completes (.ringEnable fn r v) s (stored { st := .enabled, phase := true, lost := x.lost }))) ∧
      (bit v.toNat 31 = false → taken →
        (en = false → small → Completes (.ringDisable fn r v) s (stored x)) ∧
        (en = true →
          (r.val < 16 → small → Completes (.ringDisable fn r v) s (stored { x with st := .draining })) ∧
          (16 ≤ r.val → r.val < 32 → cqBusy s n (r.val - 16) = true → small → Completes (.ringDisable fn r v) s refused) ∧
          (16 ≤ r.val → r.val < 32 → cqBusy s n (r.val - 16) = false → small →
            Completes (.ringDisable fn r v) s (stored { x with st := .disabled })) ∧
          (32 ≤ r.val → Completes (.ringDisable fn r v) s fun t => (ring t n r.val).st = .disabled ∧ rd t off = v &&& 0xDFFF_FFFF#32 ∧
            (∀ b ∈ bank t n (ringClass r.val), b.ring ≠ r.val) ∧ (¬ small → bit (rdN t (R.HQE_FN_EVT n)) 0 = true)) ∧
          (32 ≤ r.val → small → ¬ kq ∨ s.kqOwners = [] → (∀ b ∈ bank s n (ringClass r.val), b.ring ≠ r.val) →
            Completes (.ringDisable fn r v) s (stored { x with st := .disabled }))))) ∧
    ∀ sq : Fin 16,
      let still := s.cmds.any (fun c => c.fn == n && c.sq == sq.val) = true ∨ sqUnwritten s n sq.val = true
      ((ring s n sq.val).st = .draining → ¬ still → Completes (.sqDrained fn sq) s fun t =>
        t = { s with rings := t.rings } ∧ sets sq.val { ring s n sq.val with st := .disabled } t) ∧
      ((ring s n sq.val).st ≠ .draining ∨ still → Completes (.sqDrained fn sq) s fun t => t = s)

/-- DESCRIPTOR_FETCH, COMPLETION_TIMEOUT, BANK_STALE, MSIX_UNMASK: the descriptor whose turn it is, fetched, is checked, then waits for its own row or ends;
a failed host read is counted, and ends its command or puts the ring in ERROR; a stale bank is written out; pending interrupts that are
no longer masked are sent (R353 to R355, R367, R370, R371, R373). -/
def Obligations.FetchesBanksAndInterrupts : Prop :=
  ∀ (s : State) (fn : Fin 8) (sq : Fin 16), Settled s →
    let n := fn.val
    let x := ring s n sq.val
    let failed := fun (t : State) => ring t n sq.val = { x with st := .error, err := 2 } ∧ t.cmds = s.cmds ∧ t.mains = s.mains ∧
      SameRegs s t [R.HQE_DMA_ERR_CNT, R.HQE_EVT, R.HQE_FN_EVT n] ∧ bit (rdN t (R.HQE_FN_EVT n)) 3 = true ∧
      rdN t R.HQE_DMA_ERR_CNT = satN (2 ^ 32 - 1) (rdN s R.HQE_DMA_ERR_CNT + 1) ∧ bit (rdN t (R.HQE_FN_EVT n)) 1 = true
    (nextFetch s = some (n, sq.val) → ∀ desc : List Byte,
      let c : Cmd := { uid := s.nextUid, fn := n, sq := sq.val, cq := getF s (F.HQE_RCFG_CQ n sq.val), desc := slice desc 0 32,
                       fetchTb := tbNow s, fetchCidx := cidxNow s, tenBad := s.crc.tenBad }
      let u := { setRing (visited s n sq.val) n sq.val { x with index := (x.index + 1) % ringSize s n sq.val } with
                 cmds := s.cmds ++ [c], nextUid := s.nextUid + 1 }
      Completes (.descriptorFetch fn sq desc true) s failed ∧ Completes (.completionTimeout fn sq none) s failed ∧
      (∀ off, descBad c = some off → Completes (.descriptorFetch fn sq desc false) s fun t => t = complete u c St.malformed off 0) ∧
      (descBad c = none → startable u c = false ∨ cmdBar u c = none → Completes (.descriptorFetch fn sq desc false) s fun t => t = u) ∧
      ∀ st d, descBad c = none → startable u c = true → cmdBar u c = some (st, d) →
        Completes (.descriptorFetch fn sq desc false) s fun t => t = complete u c st d 0) ∧
    (nextFetch s ≠ some (n, sq.val) → (∀ (desc : List Byte) (err : Bool), Completes (.descriptorFetch fn sq desc err) s fun t => t = s) ∧
      Completes (.completionTimeout fn sq none) s fun t => t = s) ∧
    (∀ (k : Nat) (c : Cmd), findCmd s k = some c → c.fn ≠ n ∨ startable s c = false ∨ readsBuf c = false →
      Completes (.completionTimeout fn sq (some k)) s fun t => t = s) ∧
    (∀ (k : Nat) (c : Cmd), findCmd s k = some c → c.fn = n → startable s c = true → readsBuf c = true →
      Completes (.completionTimeout fn sq (some k)) s fun t => HostOnly s { t with regs := s.regs } ∧ (∀ d ∈ t.cmds, d ∈ s.cmds ∧ d.uid ≠ k) ∧
        rdN t R.HQE_DMA_ERR_CNT = satN (2 ^ 32 - 1) (rdN s R.HQE_DMA_ERR_CNT + 1) ∧
        Ends c St.fault Det.dma 0 t fun u => u.cmds = s.cmds ∧ u.rings = s.rings ∧ u.banks = s.banks ∧
          SameRegs s u [R.HQE_DMA_ERR_CNT, R.HQE_FN_EVT n]) ∧
    (∀ cls : Fin 4, (bankDue s n cls.val = false → Completes (.bankStale fn cls) s fun t => t = s) ∧
      (bankDue s n cls.val = true → Completes (.bankStale fn cls) s fun t => RingOnly n s t ∧ bank t n cls.val = [] ∧
        (cls.val = 0 → bank t n 1 = [] ∧ bank t n 3 = []))) ∧
    (fnHere s n = false ∨ cfgOpen s = false → ∀ (what : Fin 3) (vec : BitVec 5), Completes (.msixUnmask fn what vec) s fun t => t = s) ∧
    (fnHere s n = true → cfgOpen s = true → ∀ (what : Fin 3) (vec : BitVec 5), Completes (.msixUnmask fn what vec) s fun t =>
      { t with pcie := s.pcie, posted := s.posted } = s ∧ (what = 0 → bit t.pcie.msixEn.toNat n = true) ∧
        (what = 1 → bit t.pcie.fnMask.toNat n = false) ∧ (what = 2 → bit (fgetD t.pcie.vecMask n 0xFFFF_FFFF).toNat vec.toNat = false) ∧
        ∀ v < 32, vectorOpen t n v = true → bit (fgetD t.pcie.pba n 0).toNat v = false ∧
          (bit (fgetD s.pcie.pba n 0).toNat v = true → msixMessage s n v ∈ t.posted))

/-! ### Ring commands: traffic, sessions, agreements, directory, performance data (R353 to R361, R239, R268, R296 to R300) -/

/-- NOP, SEND, POLL, FLOOD, RELAY: a transmit command for which nothing refuses it waits for the line with its payload, label and deadline,
and changes nothing else; one for a node whose session is lost ends with NODE_LOST, for a node with no session and no record with
REFUSED_STATE, one over relays of another function with REFUSED_PARTITION; a command for which its table, its domain or the watchdog bars a start ends so (R60, R260, R356, R360, R361, R379,
R383). -/
def Obligations.TransmitCommandsWait : Prop :=
  ∀ (s : State) (uid : Nat) (c : Cmd) (buf : List Byte), Settled s → findCmd s uid = some c → startable s c = true →
    let d := slice buf 0 (D.len c)
    let label := D.at c 24 1
    let dl := deadlineOf s c
    let waits := fun (l : Nat) (e : Bool) (x p : List Byte) (t : State) => { t with cmds := s.cmds } = s ∧
      findCmd t uid = some { c with st := .waiting, deadline := dl, payload := p, label := l, enc := e, ext := x } ∧
      ∀ v, v ≠ uid → findCmd t v = findCmd s v
    (∀ st n, cmdBar s c = some (st, n) → ∀ e ∈ [(0x01, Instr.nop uid), (0x10, .send uid buf), (0x11, .poll uid buf), (0x12, .flood uid buf),
      (0x13, .relay uid buf)], D.op c = e.1 → Completes e.2 s fun t => t = complete s c st n 0) ∧
    (cmdBar s c = none →
      (D.op c = 0x01 → Completes (.nop uid) s fun t => t = complete s c St.done 0 0) ∧
      (∀ (poll : Bool), D.op c = (if poll then 0x11 else 0x10) → 1 ≤ D.res c → D.res c < 0x3FFFF → ownerOf s (D.res c) = c.fn →
        Lbl.reserved label = false → label ≠ Lbl.filler →
        let node := D.res c
        let enc := bit (D.at c 25 1) 0
        let rte := bit (D.at c 25 1) 1
        let i : Instr := if poll then .poll uid buf else .send uid buf
        let req := fun (x p : List Byte) => ({ dst := node, label := label, plain := p, enc := enc, ext := x } : Req)
        let onSession := fun (x : Session) (e p kept : List Byte) => c.ext = [] → (req e p).len s node ≤ 508 →
          (enc = true → keyBar s (nodeRef node) Use.payload = none) → x.kind = true ∨ keyBar s x.hopKey Use.hop = none →
          ahead dl (cidxNow s) = true → ahead dl (slotCycle s (firstEvent s x (openSlot s))) = true →
          neverSent s x (firstEvent s x (openSlot s)) dl ((req e p).len s node) poll = false →
          (quietOf s x.group (cidxNow s) = none → Completes i s (waits label enc kept p)) ∧
          ((quietOf s x.group (cidxNow s)).isSome = true → Completes i s fun t =>
            (findCmd t uid).map (·.st) = some .waiting ∧ (findCmd t uid).map (·.deferred) = some true)
        enc = true ∨ c.fn = 0 → rte = false ∨ s.mesh.method = true →
        (rte = false → s.mesh.method = true → (sess s node).isSome = true) → (poll = true → ∃ q < 8, (ring s c.fn (32 + q)).st = .enabled) →
        (∀ e, lineFault s = some e → Completes i s fun t => t = complete s c St.fault e 0) ∧
        (∀ e, lineFault s = none → txRefusal s = some e → Completes i s fun t => t = complete s c St.state e 0) ∧
        (lineFault s = none → txRefusal s = none → (∀ e, dirFind s node = some e → e.dev = jirPos s) →
          (sess s node = none → rte = false → dirFind s node = none → Completes i s fun t => t = complete s c St.state 0x25 0) ∧
          (∀ x, rte = false → sess s node = some x →
            (x.state = 1 → Completes i s fun t => t = complete s c St.nodeLost 0 0) ∧ (x.state = 0 → onSession x [] d [])) ∧
          (∀ x rel, rte = false → sess s node = none → (dirFind s node).isSome = true → isSet s F.VET_CTRL_EN = true → routeOf s node = some rel →
            active s (rel.headD 0) = true → sess s (rel.headD 0) = some x → onSession x (extOf rel) d []) ∧
          (rte = true → (hostExt s node d).2 = true → relaysOwned s c.fn (hostRelays d) = false →
            Completes i s fun t => t = complete s c St.partition 0 0) ∧
          ∀ x, rte = true → (hostExt s node d).2 = true → relaysOwned s c.fn (hostRelays d) = true → isSet s F.VET_CTRL_EN = true →
            sess s (beNat (slice d 1 3)) = some x → onSession x (d.take (hostExt s node d).1) (d.drop (hostExt s node d).1) (d.take (hostExt s node d).1))) ∧
      (c.fn = 0 → lineFault s = none → txRefusal s = none → c.ext = [] → ahead dl (cidxNow s) = true →
        ahead dl (slotCycle s (openSlot s)) = true →
        let ps := (List.range 3).filter fun p => bit (getF s F.MAC_BCN_CFG_PH) p
        let pair := getF s F.MAC_BCN_CFG_PAIR
        let ns := (frameLen s (getF s F.MAC_BCN_CFG_MODE) d.length + 1) * symbolOf (bcnM s)
        ps ≠ [] → tonesAllowed s (pairTones s pair) = true → ps.all (forbidden s) = false →
        neverAdmits s (ps.map fun p => (⟨pair, p⟩, slotTime s (openSlot s) 0, slotTime s (openSlot s) ns)) = false →
        (D.op c = 0x12 → D.res c = 0x3FFFF → Lbl.reserved label = false → label ≠ Lbl.filler →
          Completes (.flood uid buf) s (waits label false [] d)) ∧
        (D.op c = 0x13 → s.mesh.method = true → Completes (.relay uid buf) s (waits label (bit (D.at c 25 1) 6) [] d))))

/-- SESSION_OPEN, SESSION_MODIFY, SESSION_CLOSE, SESSION_QUERY, QA_COMMIT, QA_WITHDRAW: what each leaves when nothing refuses it, with its
completion (R250 to R253, R268, R270, R357 to R359). -/
def Obligations.SessionAndAgreementCommands : Prop :=
  ∀ (s : State) (uid : Nat) (c : Cmd) (buf : List Byte), Settled s →
    let n := D.res c
    let b := slice buf 0 64
    (Ready s uid 0x20 c → 1 ≤ n → n < 0x3FFFF → blockOk s b = true → Blk.fn b = c.fn ∨ c.fn = 0 → ownerOf s n = Blk.fn b →
      blockShared s b = true → cidxOk s = true → sess s n = none → s.sessions.length < 65536 →
      tableInForce s = false ∨ (s.sessions.filter fun e => e.2.fn == Blk.fn b).length < getF s (F.TEN_SESS_SESS_MAX (Blk.fn b)) →
      Completes (.sessionOpen uid buf) s fun t => Ends c St.done 0 0 t fun u =>
        ∃ x, sess u n = some x ∧ x.node = n ∧ x.fn = Blk.fn b ∧ x.kind = Blk.kind b ∧ x.m = Blk.m b ∧ x.mode = Blk.mode b ∧
          x.map = Blk.map b ∧ x.allow = Blk.map b ∧ x.state = 0 ∧ x.hopKey = leAt b 4 2 ∧ x.supvT = leAt b 8 4 ∧ x.tAuth = tbNow s ∧ x.cAuth = cidxNow s ∧
          (∀ a, a ≠ n → sess u a = sess s a) ∧ u.regs = s.regs ∧ u.jobs = s.jobs ∧ u.mesh = { s.mesh with dirty := true }) ∧
    (∀ x, Ready s uid 0x21 c → ownerOf s n = c.fn ∨ c.fn = 0 → sess s n = some x → x.node = n →
      let mask := D.at c 24 8
      let (pm, pb) := x.modify.getD (0, blockOf x)
      let y := maskBytes mask b (maskBytes pm pb (blockOf x))
      [22, 23, 56, 57, 58, 59, 60, 61, 62, 63].any (bit mask) = false → Blk.kind y = x.kind → Blk.m y = x.m →
      (bit mask 3 = true → Blk.fn y = x.fn) → blockShared s y = true →
      blockOk s (if bit mask 1 then y
        else y.set 1 (BitVec.ofNat 8 (Blk.modeSet y + 16 * ((List.range 4).find? (bit (Blk.modeSet y))).getD 0))) = true →
      Completes (.sessionModify uid buf) s fun t => Ends c St.done 0 0 t fun u => { u with sessions := s.sessions } = s ∧
        sess u n = some { x with modify := some (Nat.lor pm mask, y) } ∧ ∀ a, a ≠ n → sess u a = sess s a) ∧
    (∀ x, Ready s uid 0x22 c → ownerOf s n = c.fn ∨ c.fn = 0 → sess s n = some x → x.node = n →
      Completes (.sessionClose uid) s fun t => (Ends c St.done 0 0 t fun u => (∀ y, sess u n = some y → y.state = 2) ∧
          (s.jobs = [] → (∀ d ∈ nodeCmds s n, d.attempts = 0) → sess u n = none)) ∧ (∀ a, a ≠ n → sess t a = sess s a) ∧
        t.mains = s.mains ∧ ∀ d ∈ t.cmds, d ∈ s.cmds ∧ d.uid ≠ uid ∧ ¬ (d ∈ nodeCmds s n ∧ d.attempts = 0 ∧ unstarted s d = true)) ∧
    (∀ x, Ready s uid 0x23 c → ownerOf s n = c.fn → sess s n = some x → Completes (.sessionQuery uid) s fun t =>
      (x.snap ≠ [] → cidxOk s = true → t = complete (post s (.hostWrite c.fn (D.buf c) x.snap)) c St.done 0 64) ∧
      (x.snap = [] ∨ cidxOk s = false → ∃ data : List Byte, data.length = 64 ∧ leAt data 4 4 = x.anchor % 2 ^ 32 ∧
        leAt data 16 8 = x.tAuth % 2 ^ 64 ∧ t = complete (post s (.hostWrite c.fn (D.buf c) data)) c St.done 0 64)) ∧
    (let cy := D.at c 24 4
     let dur := D.at c 28 3
     let win := D.at c 31 1
     ∀ i, Ready s uid 0x24 c → c.fn = 0 → 1 ≤ n → n ≤ 255 → cy % slotC s = 0 → dur % slotC s = 0 → 2 ^ win * slotC s ≤ dur → win ≤ 12 →
      getF s F.MAC_SLOT_CFG_QA_LEAD ≤ cycSub cy (cidxNow s) → cycSub cy (cidxNow s) < 2 ^ 31 → i < 8 → quiet s i = none →
      (∀ j < i, (quiet s j).isSome = true) →
      (∀ e ∈ s.quiets, e.2.group = n → e.2.stands = true → periodsMeet cy dur e.2.c e.2.dur = false) →
      Completes (.qaCommit uid) s fun t => Ends c St.done 0 i t fun u => { u with quiets := s.quiets } = s ∧
        quiet u i = some { state := 1, group := n, c := cy, dur := dur, win := win } ∧ ∀ j, j ≠ i → quiet u j = quiet s j) ∧
    (Ready s uid 0x25 c → c.fn = 0 → n ≤ 7 →
      (quiet s n = none → Completes (.qaWithdraw uid) s fun t => t = complete s c St.done 0 0) ∧
      (∀ q, quiet s n = some q → q.state ≠ 1 → q.state ≠ 2 → Completes (.qaWithdraw uid) s fun t => t.quiets = s.quiets ∧
        ∀ d ∈ t.cmds, d ∈ s.cmds ∧ d.uid ≠ uid) ∧
      ∀ q, quiet s n = some q → q.state = 1 ∨ q.state = 2 →
        ((∀ z, q.cz = some z → c.fetchTb < z) → Completes (.qaWithdraw uid) s fun t => (quiet t n).map (·.state) = some 4 ∧
          isSet t F.MAC_EVT_QA_CANCEL = true ∧ (∀ d ∈ t.cmds, d ∈ s.cmds ∧ d.uid ≠ uid) ∧ ∀ j, j ≠ n → quiet t j = quiet s j) ∧
        ∀ z, q.cz = some z → z ≤ c.fetchTb → Completes (.qaWithdraw uid) s fun t => (quiet t n).map (·.state) = some 3 ∧
          (quiet t n).bind (·.endAt) = some ((q.c + min q.dur (cycSub (nextWindow s q true + 2 ^ q.win * slotC s) q.c)) % 2 ^ 32) ∧ (∀ d ∈ t.cmds, d ∈ s.cmds ∧ d.uid ≠ uid) ∧ ∀ j, j ≠ n → quiet t j = quiet s j)

/-- DIR_READ, DIR_WRITE, DIR_DELETE, PM_READ: a record is read as 32 bytes; a new one takes a free place of its buckets, what a host writes of its
policy waits for the next epoch boundary, and may pin relays of the address's owner alone; a deleted record leaves its place; as many performance records as there are, are asked for and fit are written to the buffer (R25, R239, R287, R296, R299, R300,
R383). -/
def Obligations.DirectoryAndPerformanceCommands : Prop :=
  ∀ (s : State) (uid : Nat) (c : Cmd), Settled s →
    let a := D.res c
    (∀ r, Ready s uid 0x30 c → ownerOf s a = c.fn ∨ c.fn = 0 →
      (dirFind s a = some r → Completes (.dirRead uid) s fun t => ∃ data : List Byte, data.length = 32 ∧ leAt data 0 4 % 2 ^ 18 = r.addr % 2 ^ 18 ∧
        leAt data 4 2 = r.cost % 2 ^ 16 ∧ t = complete (post s (.hostWrite c.fn (D.buf c) data)) c St.done 0 32) ∧
      (dirFind s a = none → Completes (.dirRead uid) s fun t => Ends c St.done 0 32 t fun u =>
        { u with posted := s.posted, freeCtr := s.freeCtr } = s)) ∧
    (∀ (buf : List Byte) (p : Nat), Ready s uid 0x31 c → 1 ≤ a → a < 0x3FFFF → ownerOf s a = c.fn ∨ c.fn = 0 →
      let b := slice buf 0 32
      let pin := bit (leAt b 0 4) 23
      let hm := leAt b 6 1 / 16
      let rel := (List.range (leAt b 6 1 % 8)).map fun i => leAt b (7 + 3 * i) 3
      let made := fun (o : DirRec) => { o with rly := bit (leAt b 0 4) 22, learned := false, policy := some (pin, hm, rel) }
      let foreign := pin = true ∧ relaysOwned s (ownerOf s a) rel = false
      recOk a b = true → (pin = true → relaysOk s a (if hm = 0 then hMax s else min (hMax s) hm) rel = true) →
      (foreign → Completes (.dirWrite uid buf) s fun t => Ends c St.partition 0 0 t fun u => u.mesh = s.mesh) ∧
      (dirFind s a = none → freePlace s (homes s a) = some p → ¬foreign → Completes (.dirWrite uid buf) s fun t => Ends c St.done 0 0 t fun u =>
        { u with mesh := s.mesh } = s ∧ u.mesh = { s.mesh with tables := u.mesh.tables, dirty := true } ∧
        ∀ q, fget u.mesh.tables q = if q = p then some (made { addr := a, epoch := epochNow s, dev := jirPos s }) else fget s.mesh.tables q) ∧
      (∀ o, dirFind s a = some o → o.addr = a → dirPlace s a = some p → ¬foreign → Completes (.dirWrite uid buf) s fun t => Ends c St.done 0 0 t fun u =>
        { u with mesh := s.mesh } = s ∧ u.mesh = { s.mesh with tables := u.mesh.tables, dirty := true } ∧
        ∀ q, fget u.mesh.tables q = if q = p then some (made o) else fget s.mesh.tables q)) ∧
    (∀ p, Ready s uid 0x32 c → ownerOf s a = c.fn ∨ c.fn = 0 →
      ((sess s a).isSome = true → Completes (.dirDelete uid) s fun t => t = complete s c St.state 0x31 0) ∧
      (sess s a = none → dirPlace s a = some p → s.mesh.stash = [] → Completes (.dirDelete uid) s fun t => Ends c St.done 0 0 t fun u =>
        u = { s with mesh := u.mesh } ∧ fget u.mesh.routes a = none ∧ u.mesh.dirty = true ∧
          ∀ q, fget u.mesh.tables q = if q = p then none else fget s.mesh.tables q)) ∧
    (Ready s uid 0x38 c → c.fn = 0 ∨ (bit a 31 = false ∧ ownerOf s a = c.fn) →
      let n := D.at c 26 1
      let l := (pmRecords s a (D.at c 24 1) (D.at c 25 1)).take (min n (D.len c / 64))
      Completes (.pmRead uid) s fun t => Ends c (if l.length < n then St.donePartial else St.done) 0 (64 * l.length) t fun u =>
        (l = [] → u = s) ∧ (l ≠ [] → u = post s (.hostWrite c.fn (D.buf c) l.flatten)))

/-! ### Ring commands: capture, patterns, keys, ciphers (R311 to R340, R398 to R427, R441) -/

/-- CAP_ARM, CAP_END, CAP_TRIGGER, CAP_READ, PAT_LOAD, PLAY_START, PLAY_STOP: what each leaves when nothing refuses it: the lowest idle stream
is armed, an ended one is idle, a matching trigger is its start event, words are read, corrected or found
uncorrectable, and stored in host form, a player that is idle waits for its
cycle or its slot, a stopped one is idle (R306, R311, R318 to R324, R327, R333, R335 to R338, R385). -/
def Obligations.CaptureAndPatternCommands : Prop :=
  ∀ (s : State) (uid : Nat) (c : Cmd) (buf : List Byte), Settled s →
    let r := D.res c
    let x := stream s r
    let regionOk := isSet s F.YAR_STATUS_REGION_OK = true
    let quiet := ∀ e ∈ s.streams, e.2.exports = []
    let streamOnly := fun (i : Nat) (u : State) => { u with streams := s.streams } = s ∧ ∀ q, q ≠ i → stream u q = stream s q
    (let p := slice buf 0 64
     ∀ i, Ready s uid 0x40 c → hasGrant s c.fn = true → progOk p = true → progPermitted s c.fn p = true →
      (ring s c.fn (40 + Prog.ring p)).st = .enabled → regionOk → getF s F.YAR_REGION_CAP ≠ 0 → isSet s F.YAR_CTRL_CAP_EN = true →
      inSafe s 10 = false → i < 16 → (stream s i).st = .idle → (stream s i).owed = [] →
      (∀ j < i, (stream s j).st ≠ .idle) → quiet → (leAt (Prog.start p) 0 1 = 1 → Trg.exported (Prog.start p) = false) →
      let armed : Stream := { st := .armed, fn := c.fn, uid := uid, prog := p, rearm := Prog.rearm p,
                              cidx0 := cidxFirst (Prog.start p) (cidxNow s), cidx1 := cidxFirst (Prog.stop p) (cidxNow s) }
      Completes (.capArm uid buf) s fun t => findCmd t uid = some { c with st := .engine } ∧ t.posted = s.posted ∧ t.regs = s.regs ∧
        (∀ q, q ≠ i → stream t q = stream s q) ∧
        (leAt (Prog.start p) 0 1 ≠ 1 → stream t i = armed) ∧
        (leAt (Prog.start p) 0 1 = 1 → stream t i = { armed with st := .capturing, startEv := some (tbNow s) })) ∧
    (Ready s uid 0x41 c → hasGrant s c.fn = true → r < 16 →
      (x.st = .idle → Completes (.capEnd uid) s fun t => t = complete s c St.done 0 0) ∧
      (x.st ≠ .idle → x.fn = c.fn → Completes (.capEnd uid) s fun t => Ends c St.done 0 0 t fun u => CaptureOnly s u ∧
        (stream u r).st = .idle ∧ ∀ d ∈ u.cmds, d.uid ≠ x.uid)) ∧
    (Ready s uid 0x42 c → hasGrant s c.fn = true → r < 16 → x.st = .armed → x.fn = c.fn → quiet →
      let hit := Trg.src (Prog.start x.prog) = 8 ∧ leAt (Prog.start x.prog) 4 2 = D.at c 24 2
      (¬ hit → Completes (.capTrigger uid) s fun t => t = complete s c St.done 0 0) ∧
      (hit → Trg.exported (Prog.start x.prog) = false → x.items = [] → x.released = none → x.startIt = none → x.stopIt = none →
        x.stopEv = none → Completes (.capTrigger uid) s fun t => Ends c St.done 0 0 t fun u => streamOnly r u ∧
          stream u r = { x with st := .capturing, startEv := some c.fetchTb, thr1 := 0 })) ∧
    (let w := D.at c 24 8
     let n := D.len c / 16
     let sh := capShare s c.fn
     let k := min n (sh.1 + sh.2 - w)
     Ready s uid 0x43 c → hasGrant s c.fn = true → sh.1 ≤ w → w < sh.1 + sh.2 → regionOk → getF s F.YAR_REGION_CAP ≠ 0 →
      ((∀ j < k, bchSyndrome (fgetD s.dram (w + j) 0) = 0) → Completes (.capRead uid) s fun t => ∃ data : List Byte, data.length = 16 * k ∧
        (∀ j < k, leAt data (16 * j) 16 = wordPayload (fgetD s.dram (w + j) 0)) ∧
        t = complete (post s (.hostWrite c.fn (D.buf c) data)) c (if k = n then St.done else St.donePartial) 0 (16 * k)) ∧
      (∀ d, k = 1 → n = 1 → readStored (fgetD s.dram w 0) = some (d, true) → Completes (.capRead uid) s fun t =>
        Output.hostWrite c.fn (D.buf c) (toLE 16 (d + 2 ^ 126)) ∈ t.posted ∧ ∀ e ∈ t.cmds, e.uid ≠ uid) ∧
      (0 < k → readStored (fgetD s.dram w 0) = none → Completes (.capRead uid) s fun t => Ends c St.fault Det.dram 0 t fun u =>
        isSet u F.YAR_EVT_UNCORR = true ∧ Output.hostWrite c.fn (D.buf c) [] ∈ u.posted)) ∧
    (let n := D.len c / 16
     let w := D.at c 24 8
     Ready s uid 0x44 c → c.fn = 0 → inShare (patShare s 0) w n = true → regionOk → getF s F.YAR_REGION_PAT ≠ 0 →
      Completes (.patLoad uid buf) s fun t => Ends c St.done 0 (16 * n) t fun u => { u with dram := s.dram } = s ∧
        (∀ j < n, patWord u (w + j) = leAt buf (16 * j) 16 % 2 ^ 126) ∧
        ∀ a, a < patBase + w ∨ patBase + w + n ≤ a → fgetD u.dram a 0 = fgetD s.dram a 0) ∧
    (let base := D.at c 24 4
     let list := checkList s (patShare s 0) r base 65536 0 0 false
     Ready s uid 0x45 c → c.fn = 0 → r < 7 → 3 ≤ r ∨ D.at c 28 4 = 0 → getF s F.YAR_REGION_PAT ≠ 0 →
      (list = 3 → Completes (.playStart uid) s fun t => Ends c St.fault Det.dram 0 t fun u => isSet u F.YAR_EVT_UNCORR = true) ∧
      (list = 0 → (player s r).st ≠ .idle → Completes (.playStart uid) s fun t => t = complete s c St.state 0x2D 0) ∧
      (list = 0 → (player s r).st = .idle → isSet s F.YAR_CTRL_PLAY_EN = true → regionOk → inSafe s 10 = false →
      let starts := fun (at_ : Option Nat) (t : State) => { t with cmds := s.cmds, players := s.players } = s ∧
        player t r = { st := .waiting, uid := uid, list := base, startAt := at_ } ∧ ∀ q, q ≠ r → player t q = player s q
      (3 ≤ r → Completes (.playStart uid) s fun t => starts (some (D.at c 28 4)) t ∧ findCmd t uid = some { c with st := .engine }) ∧
      (r < 3 → D.at c 28 4 = 0 → lineFault s = none → txRefusal s = none → getF s (F.TXS_REG_MAX_LVL r) ≠ 0 →
        getF s (F.TXS_PAT_PEAK_PEAK r) ≠ 0 → anyBand s = true → ahead (deadlineOf s c) (cidxNow s) = true →
        ahead (deadlineOf s c) (slotCycle s (openSlot s)) = true →
        let t0 := slotTime s (openSlot s) 0
        (∀ n < 8, isSet s (F.MAC_BAND_RANGE_EN n) = true → bandAdmits { s with bands := {} } n false [(r, t0, t0 + playNs s base)] = true) →
        Completes (.playStart uid) s fun t => starts none t ∧
          findCmd t uid = some { c with st := .waiting, deadline := deadlineOf s c }))) ∧
    (Ready s uid 0x46 c → c.fn = 0 → r < 7 → Completes (.playStop uid) s fun t => Ends c St.done 0 0 t fun u =>
      (player u r).st = .idle ∧ (∀ q, q ≠ r → player u q = player s q) ∧
        ∀ d ∈ u.cmds, d ∈ s.cmds ∧ ((player s r).st ≠ .idle → d.uid ≠ (player s r).uid))

/-- KEY_LOAD of plain or wrapped material, KEY_DELETE, BROADCAST_SOURCE_WRITE: a volatile key is in the store with a new generation when its
command ends; a persistent one, one over a persistent one, and a node's new key, wait for the store; one that function 0 deletes is gone; a broadcast source opens anew when it
moves, is enabled or OPEN is written (R392, R405, R411, R413 to R417). CCM_ENCRYPT, CCM_DECRYPT of each kind of part, CTX_SAVE, CTX_RESTORE:
text and tag, AUTH_FAIL on a wrong tag, contexts that go on from part to part and move whole (R412, R419 to R421). A KEY_LOAD with GEN,
ECDSA_SIGN, ECDSA_VERIFY, ECDH, QUOTE queue for the one engine, a record that fails its unwrapping is deleted, and PK_OPERATION_DONE ends what it runs (R422 to R424, R441). -/
def Obligations.KeysCiphersAndSignatures : Prop :=
  ∀ (s : State) (uid : Nat) (c : Cmd) (buf : List Byte), Settled s →
    let r := D.res c
    let i := D.at c 26 2
    let w := D.at c 24 2
    let b := slice buf 0 64
    let queued := fun (op : Nat) (data : List Byte) (t : State) =>
      let o : PkOp := { uid := uid, fn := c.fn, op := op, buf := data, scalar := slotScalar s r
                        slot := if op = 0 ∨ op = 2 then some r else none }
      findCmd t uid = some { c with st := .engine } ∧ t.sec.keys = s.sec.keys ∧ t.posted = s.posted ∧
        (s.sec.pkRun.isSome = true → t.sec.pkRun = s.sec.pkRun ∧ t.sec.pkq = s.sec.pkq ++ [o]) ∧
        (s.sec.pkRun = none → s.sec.pkq = [] → c.fn < 8 → t.sec.pkq = [] ∧ t.sec.pkLast = c.fn ∧
          ∃ body, t.sec.pkRun = some { o with body := body })
    (∀ (n : Fin 16) (v : Word), reach s (R.SEC_BSRC n.val) = true → Completes (.broadcastSourceWrite n v) s fun t =>
      let opens := v.toNat % 2 ^ 18 ≠ bits (rdN s (R.SEC_BSRC n.val)) 17 0 ∨ bit v.toNat 30 = true ∨
        (bit v.toNat 31 = true ∧ bit (rdN s (R.SEC_BSRC n.val)) 31 = false)
      rdN t (R.SEC_BSRC n.val) = b2n (bit v.toNat 31) * 2 ^ 31 + v.toNat % 2 ^ 18 ∧ (opens → bsrc t n.val = { opened := true }) ∧
        (¬ opens → t.sec = s.sec) ∧ ∀ m, m ≠ n.val → bsrc t m = bsrc s m) ∧
    (inSafe s 12 = false → isSet s F.SEC_CTRL_EN = true →
      (let wrapped := bit (D.at c 26 1) 0
       let fl := leAt b 3 1
       let n := if leAt b 0 1 = 1 then 16 else 32
       Ready s uid 0x50 c → refOk r = true → ownsRef s c.fn r = true →
        (wrapped = true → w ≤ 16383 ∧ ownsKey s c.fn w = true ∧ keyBar s w Use.kek = none) → recordBad s r wrapped b = false →
        (bit fl 1 = true → isSet s F.SEC_KPOL_NEWKEY_EN = true) → ctxNames s r = false →
        (bit fl 2 = true → pkBehind s c = false → Completes (.keyLoad uid buf) s (queued 3 b)) ∧
        ∀ m, bit fl 2 = false → writesLeft s uid = false →
          (if wrapped then (key s w).bind fun k => kwUnwrap k.material (slice b 8 (n + 8)) else some (slice b 8 n)) = some m →
          let k := recKey c b m
          let covers := (key s r).any (·.persist) = true
          (k.persist = false → bit fl 1 = false → ¬covers → Completes (.keyLoad uid buf) s fun t => Ends c St.done 0 0 t fun u =>
            key u r = some { k with gen := s.sec.gen + 1, under := s.sec.storeKey } ∧ u.sec.gen = s.sec.gen + 1 ∧ ∀ q, q ≠ r → key u q = key s q) ∧
          (k.persist = true ∨ covers ∨ (bit fl 1 = true ∧ bit r 31 = true) → Completes (.keyLoad uid buf) s fun t =>
            (findCmd t uid).map (·.st) = some .engine ∧ ∀ q, key t q = key s q)) ∧
      (Ready s uid 0x51 c → refOk r = true → c.fn ≠ 0 → Completes (.keyDelete uid) s fun t => t = complete s c St.partition 0 0) ∧
      (∀ k, Ready s uid 0x51 c → refOk r = true → c.fn = 0 → key s r = some k → ctxNames s r = false →
        (k.persist = false → Completes (.keyDelete uid) s fun t => Ends c St.done 0 0 t fun u => key u r = none ∧
          u.sec.txCtr = s.sec.txCtr ∧ u.sec.rxCtr = s.sec.rxCtr ∧ ∀ q, q ≠ r → key u q = key s q) ∧
        (k.persist = true → Completes (.keyDelete uid) s fun t => key t r = none ∧ (findCmd t uid).map (·.st) = some .engine)) ∧
      (∀ (x : Ctx) (k : Key) (start : Nat) (data : List Byte), ctxBehind s c i = false → i / 8 = c.fn → i ≤ 63 →
        let fl := D.at c 24 1
        let d := slice buf 0 (D.len c)
        let ks := roundKeys k.material
        (bit fl 0 = true ∧ refOk r = true ∧ ownsRef s c.fn r = true ∧ 13 ≤ D.len c ∧ keyBar s r Use.hostCcm = none ∧ key s r = some k ∧
            sram s i = none ∧ x = newCtx r k (d.take 13) (D.at c 28 2) (D.at c 30 2) ∧ start = 13 ∧ data = d.drop 13) ∨
          (bit fl 0 = false ∧ sram s i = some x ∧ key s x.ref = some k ∧ k.gen = x.gen ∧ start = 0 ∧ data = d) →
        let text := fun (l : List Byte) => xorBytes l (ccmKeystream ks x.nonce x.pos l.length)
        let wrote := fun (l : List Byte) => if l = [] then [] else [Output.hostWrite c.fn (D.buf c + start) l]
        let on := fun (l : List Byte) => { x.mix ks l with msgLeft := x.msgLeft - l.length, pos := x.pos + l.length }
        let rest := fun (u : State) => SameRegs s u [R.SEC_CACHE_MISS_CNT] ∧ u.sec.keys = s.sec.keys
        let keeps := fun (y : Ctx) (l : List Output) (t : State) => ∃ len, Ends c St.done 0 len t fun u =>
          sram u i = some y ∧ rest u ∧ u.posted = s.posted ++ l
        (bit fl 2 = true → bit fl 1 = false → data.length ≤ x.adLeft →
          let y : Ctx := { x.mix ks data with adLeft := x.adLeft - data.length }
          let z : Ctx := if y.adLeft = 0 then y.pad ks else y
          (Ready s uid 0x52 c → Completes (.ccmEncrypt uid buf) s (keeps z [])) ∧ (Ready s uid 0x53 c → Completes (.ccmDecrypt uid buf) s (keeps z []))) ∧
        (bit fl 2 = false → x.adLeft = 0 →
          (bit fl 1 = false → data.length ≤ x.msgLeft →
            (Ready s uid 0x52 c → Completes (.ccmEncrypt uid buf) s (keeps (on data) (wrote (text data)))) ∧
            (Ready s uid 0x53 c → Completes (.ccmDecrypt uid buf) s (keeps (on (text data)) (wrote (text data))))) ∧
          (bit fl 1 = true → data.length = x.msgLeft → Ready s uid 0x52 c → Completes (.ccmEncrypt uid buf) s fun t =>
            ∃ len, Ends c St.done 0 len t fun u => sram u i = none ∧ rest u ∧ u.posted = s.posted ++ wrote (text data) ++
              [.hostWrite c.fn (D.buf c + start + data.length) ((x.mix ks data).tag ks)]) ∧
          (bit fl 1 = true → data.length = x.msgLeft + x.tlen → Ready s uid 0x53 c → Completes (.ccmDecrypt uid buf) s fun t =>
            let out := text (data.take x.msgLeft)
            let right := data.drop x.msgLeft = (x.mix ks out).tag ks
            sram t i = none ∧ t.sec.keys = s.sec.keys ∧
              (right → ∃ len, Ends c St.done 0 len t fun u => rest u ∧ u.posted = s.posted ++ wrote out) ∧
              (¬ right → ∃ len, Ends c St.authFail 0 len t fun u => isSet u F.SEC_EVT_AUTH_FAIL = true ∧
                rdN u R.SEC_AUTHFAIL_CNT = satN (2 ^ 32 - 1) (rdN s R.SEC_AUTHFAIL_CNT + 1))))) ∧
      (∀ x, ctxBehind s c i = false → i / 8 = c.fn → i ≤ 63 → bit (D.at c 24 1) 0 = false → sram s i = some x →
        (key s x.ref).any (fun k => k.gen == x.gen) = false →
        (Ready s uid 0x52 c → Completes (.ccmEncrypt uid buf) s fun t => t = complete s c St.state 0x3B 0) ∧
        (Ready s uid 0x53 c → Completes (.ccmDecrypt uid buf) s fun t => t = complete s c St.state 0x3B 0)) ∧
      (ctxBehind s c r = false → wrappedBehind s c w = false → r ≤ 63 → r / 8 = c.fn → w ≤ 4095 → w / 512 = c.fn →
        (∀ x, Ready s uid 0x54 c → sram s r = some x → Completes (.ctxSave uid) s fun t => ∃ len, Ends c St.done 0 len t fun u =>
          sram u r = none ∧ fget u.sec.wrapped w = some x ∧ (∀ j, j ≠ r → sram u j = sram s j) ∧ u.regs = s.regs) ∧
        ∀ x k, Ready s uid 0x55 c → fget s.sec.wrapped w = some x → sram s r = none → key s x.ref = some k → k.gen = x.gen →
          Completes (.ctxRestore uid) s fun t => ∃ len, Ends c St.done 0 len t fun u => sram u r = some x ∧
            fget u.sec.wrapped w = none ∧ (∀ j, j ≠ r → sram u j = sram s j) ∧ u.regs = s.regs) ∧
      (pkBehind s c = false →
       (Ready s uid 0x58 c → refOk r = true → bit r 31 = false → ownsKey s c.fn r = true →
         (keyBar s r Use.sign = none → Completes (.ecdsaSign uid buf) s (queued 0 (slice buf 0 (D.len c)))) ∧
         (recordFails s r = true → Completes (.ecdsaSign uid buf) s fun t => Ends c St.fault Det.dram 0 t fun u => key u r = none)) ∧
       (Ready s uid 0x59 c → 128 ≤ D.len c → Completes (.ecdsaVerify uid buf) s (queued 1 (slice buf 0 (D.len c)))) ∧
       (let out := bit (D.at c 26 1) 0
        let use := (List.range 7).findIdx fun j => D.at c 27 1 == 2 ^ j
        Ready s uid 0x5A c → refOk r = true → bit r 31 = false → ownsKey s c.fn r = true → keyBar s r Use.ecdh = none →
         (out = true → isSet s F.SEC_KPOL_ECDH_EXPORT = true) →
         (out = false → useOk false 2 use = true ∧ w ≤ 16383 ∧ ownsKey s c.fn w = true ∧ ctxNames s w = false) →
         Completes (.ecdh uid buf) s (queued 2 b)) ∧
       (Ready s uid 0x60 c → isSet s F.ATT_STATUS_MEAS_FINAL = true → isSet s F.ATT_STATUS_AK_INVALID = false →
         Completes (.quote uid buf) s (queued 4 (slice buf 0 32))))) ∧
    (s.sec.pkRun = none → Completes .pkOperationDone s fun t => t = s) ∧
    ∀ o, s.sec.pkRun = some o → s.sec.pkq = [] → findCmd s o.uid = some c → c.uid = o.uid →
      (o.op ≠ 3 → Completes .pkOperationDone s fun t => t.sec.pkRun = none ∧ t.sec.pkq = [] ∧ ∀ d ∈ t.cmds, d ∈ s.cmds ∧ d.uid ≠ o.uid) ∧
      (o.op = 1 → Completes .pkOperationDone s fun t => Ends c St.done 0 4 t fun u =>
        u = post { s with sec := { s.sec with pkRun := none } } (.hostWrite c.fn (D.buf c) (toLE 4 (doVerify o.buf)))) ∧
      (o.op = 2 → bit (D.at c 26 1) 0 = true → Completes .pkOperationDone s fun t => Ends c St.done 0 36 t fun u =>
        let z := doEcdh o.scalar o.buf
        u = post { s with sec := { s.sec with pkRun := none } } (.hostWrite c.fn (D.buf c) (toLE 4 z.1 ++ slice z.2 0 32))) ∧
      (o.op = 3 → bit (leAt o.buf 3 1) 0 = false → bit (leAt o.buf 3 1) 1 = false → ctxNames s r = false → writesLeft s o.uid = false →
        (key s r).any (·.persist) = false → Completes .pkOperationDone s fun t =>
        t.sec.pkRun = none ∧ (∀ d ∈ t.cmds, d ∈ s.cmds ∧ d.uid ≠ o.uid) ∧
          ∃ d, 1 ≤ d ∧ d < p256N ∧ key t r = some { recKey c o.buf (toBE 32 d) with gen := s.sec.gen + 1, under := s.sec.storeKey }) ∧
      (o.op = 0 → Completes .pkOperationDone s fun t => Ends c St.done 0 68 t fun u => ∃ data : List Byte, data.length = 68 ∧
        u.posted = s.posted ++ [.hostWrite c.fn (D.buf c) data] ∧ u.sec = { s.sec with pkRun := none } ∧ u.regs = s.regs)

/-! ### The store and the real-time clock (R447 to R466) -/

/-- NVS_WRITE_DONE, NVS_SCAN_DONE, NVS_ROTATION_REWRITE, NVS_ALLOWANCE_RESUME: a verified row reads back as written and nothing else
changes, a failed one is tried again elsewhere, a read-only bank takes nothing; READY after the scan; after 4,096 writes a live row is
rewritten; a write that may start, starts (R450 to R455). RTC_SNAPSHOT_READ, RTC_COMMIT, RTC_COMMIT_APPLY, AON_SOURCE_CHANGE, TAMPER_OPEN:
one count in all fields, a commit that waits for the second, the source with its hysteresis, the first opening of a loop (R460 to R466). -/
def Obligations.StoreAndClock : Prop :=
  ∀ s : State, Settled s →
    (runningWrite s = none → ∀ ok, Completes (.nvsWriteDone ok) s fun t => t = s) ∧
    (∀ i w b l, runningWrite s = some (i, w) → w.copies = [(b, l)] → w.client = .none →
      let others := fun (t : State) => ∀ b' l', b' ≠ b → readRow t b' l' = readRow s b' l'
      ((nbank s b).ro = false → Completes (.nvsWriteDone true) s fun t =>
        readRow t b l = slice (mergeRow s b l w.off w.data) 0 64 ∧ others t ∧ t.nvs.queue.length + 1 = s.nvs.queue.length ∧
          rdN t R.NVS_WR_CNT = satN (2 ^ 32 - 1) (rdN s R.NVS_WR_CNT + 1) ∧ SameRegs s t [R.NVS_WR_CNT, R.NVS_WAIT_CNT]) ∧
      ((nbank s b).ro = false → Completes (.nvsWriteDone false) s fun t => readRow t b l = readRow s b l ∧ others t ∧
        t.nvs.queue = s.nvs.queue ∧ (nbank t b).ptr = (freeIdx (nbank s b) (nbank s b).ptr + 1) % 128) ∧
      ((nbank s b).ro = true → ∀ ok, Completes (.nvsWriteDone ok) s fun t => readRow t b l = readRow s b l ∧ others t ∧
        t.nvs.queue.length + 1 = s.nvs.queue.length ∧ SameRegs s t [R.NVS_WAIT_CNT])) ∧
    (domainOn s 14 = true → isSet s F.NVS_STATUS_READY = false → Completes .nvsScanDone s fun t => isSet t F.NVS_STATUS_READY = true ∧
      (∀ b l, readRow t b l = readRow s b l) ∧ (∀ b, ∀ e ∈ (nbank t b).rows, ∀ d ∈ (nbank t b).rows, e.2.lidx = d.2.lidx → e.1 = d.1) ∧
      (getF s F.GLB_STATUS_BOOT_PHASE = 1 → domainOn s 4 = true → getF t F.GLB_STATUS_BOOT_PHASE = 2) ∧
      (getF s F.GLB_STATUS_BOOT_PHASE ≠ 1 ∨ domainOn s 4 = false → t.nvs.queue.length = s.nvs.queue.length ∧
        SameRegs s t [R.NVS_STATUS, R.NVS_WAIT_CNT])) ∧
    (∀ b : Fin 2048,
      ((nbank s b.val).writes < 4096 → Completes (.nvsRotationRewrite b) s fun t => t = s) ∧
      (4096 ≤ (nbank s b.val).writes → Completes (.nvsRotationRewrite b) s fun t =>
        (nbank t b.val).writes = (nbank s b.val).writes - 4096 ∧ (nbank t b.val).rows = (nbank s b.val).rows ∧
          t.nvs.queue.length = s.nvs.queue.length + (if (scanBank (nbank s b.val)).rows = [] then 0 else 1)) ∧
      Completes (.nvsAllowanceResume b) s fun t => (s.nvs.queue.any (·.started) = true → t = s) ∧
        t.nvs.queue.length = s.nvs.queue.length ∧ (s.nvs.queue.any (mayStart s) = true → t.nvs.queue.any (·.started) = true) ∧
        ∀ b l, readRow t b l = readRow s b l) ∧
    (reach s R.RTC_SEC_LO = true → Completes .rtcSnapshotRead s fun t => { t with regs := s.regs, readData := s.readData } = s ∧
      SameRegs s t [R.RTC_SEC_LO, R.RTC_SEC_HI, R.RTC_SUB, R.RTC_DAY, R.RTC_SOD] ∧ t.readData = BitVec.ofNat 32 s.rtc.sec ∧
      rd t R.RTC_SEC_LO = t.readData ∧ rdN t R.RTC_SEC_HI = s.rtc.sec / 2 ^ 32 % 2 ^ 16 ∧ rd t R.RTC_SUB = BitVec.ofNat 32 s.rtc.sub ∧
      rdN t R.RTC_DAY = s.rtc.sec / 86400 % 2 ^ 21 ∧ rdN t R.RTC_SOD = s.rtc.sec % 86400) ∧
    (reach s R.RTC_COMMIT = true →
      let refused := fun (t : State) => OnlyRegs (rewritten s R.RTC_COMMIT) t [R.RTC_EVT] ∧ isSet t F.RTC_EVT_CFG_ERR = true
      (∀ go, isSet s F.RTC_STATUS_COMMIT_PEND = true → Completes (.rtcCommit go) s refused) ∧
      (isSet s F.RTC_STATUS_COMMIT_PEND = false → Completes (.rtcCommit false) s (fun t => t = rewritten s R.RTC_COMMIT) ∧
        (181193932800 ≤ rtcShadow s → Completes (.rtcCommit true) s refused) ∧
        (rtcShadow s < 181193932800 → Completes (.rtcCommit true) s fun t =>
          OnlyRegs (rewritten s R.RTC_COMMIT) t [R.RTC_STATUS] ∧ isSet t F.RTC_STATUS_COMMIT_PEND = true))) ∧
    (isSet s F.RTC_STATUS_COMMIT_PEND = true → Completes .rtcCommitApply s fun t =>
      t.rtc = { s.rtc with sec := rtcShadow s, sub := 0, acc := 0, running := true } ∧ isSet t F.RTC_STATUS_COMMIT_PEND = false ∧
        isSet t F.RTC_STATUS_TIME_INVALID = false ∧ SameRegs s t [R.RTC_STATUS] ∧
        { t with regs := s.regs, rtc := s.rtc, pm := s.pm } = s) ∧
    (isSet s F.RTC_STATUS_COMMIT_PEND = false → Completes .rtcCommitApply s fun t => t = s) ∧
    (∀ vio33 vbat : Nat, s.pins.inReset = false → Completes (.aonSourceChange vio33 vbat) s fun t =>
      let src := getF s F.RTC_STATUS_SRC
      let new := getF t F.RTC_STATUS_SRC
      t.pins = { s.pins with vio33 := if s.pins.vio33 then decide (2850 ≤ vio33) else decide (2950 < vio33) } ∧
        { t with regs := s.regs, pins := s.pins } = s ∧ SameRegs s t [R.RTC_STATUS, R.RTC_EVT] ∧
        (t.pins.vio33 = true → new = 0) ∧ (t.pins.vio33 = false → src = 0 → (new = 1 ↔ vio33 + 50 ≤ vbat) ∧ (new = 0 ↔ vbat < vio33 + 50)) ∧
        (t.pins.vio33 = false → src ≠ 0 → (new = 0 ↔ vbat + 50 ≤ vio33)) ∧ (new ≠ src → isSet t F.RTC_EVT_SRC_CHG = true)) ∧
    (∀ vio33 vbat : Nat, s.pins.inReset = true → Completes (.aonSourceChange vio33 vbat) s fun t =>
      { t with regs := s.regs, pins := s.pins } = s ∧ SameRegs s t [R.RTC_STATUS, R.RTC_EVT, R.PWR_STATUS] ∧
        getF t F.PWR_STATUS_STATE = if t.pins.vio33 then 0 else getF t F.RTC_STATUS_SRC) ∧
    ∀ loop : Fin 2,
      (bit (rdN s R.RTC_TAMP_CFG) loop.val = false → Completes (.tamperOpen loop) s fun t => t = s) ∧
      (bit (rdN s R.RTC_TAMP_CFG) loop.val = true → Completes (.tamperOpen loop) s fun t =>
        OnlyRegs s t [R.RTC_EVT, R.RTC_TAMP_TS loop.val, R.GLB_FAULT_SUM] ∧ bit (rdN t R.RTC_EVT) (2 + loop.val) = true ∧
          isSet t F.GLB_FAULT_SUM_TAMPER = true ∧
          rd t (R.RTC_TAMP_TS loop.val) = if bit (rdN s R.RTC_EVT) (2 + loop.val) then rd s (R.RTC_TAMP_TS loop.val) else BitVec.ofNat 32 s.rtc.sec)

/-! ### Ports (R468 to R486) -/

/-- UART_CHARACTER_RECEIVED, UART_CHARACTER_SENT, UART_TXD_WRITE, UART_RXD_READ, UART_RESUME, UART_FLUSH_RX, UART_FLUSH_TX; I2C_GO,
I2C_TRANSACTION_DONE, I2C_SCL_TIMEOUT, I2C_DISABLE, I2C_BUS_CLEAR, I2C_WDATA_WRITE, I2C_RDATA_READ; SPI_FLASH_GO, SPI_FLASH_DONE,
SPI_TARGET_READ, SPI_TARGET_WRITE, SPI_HOST_POST: what enters and leaves the FIFOs and buffers of the ports, and the flags raised
(R470 to R486). -/
def Obligations.PortOperations : Prop :=
  ∀ s : State, Settled s →
    let u := s.uart
    let on := domainOn s 16
    let uartOnly := fun (a t : State) (v : Uart) => { t with uart := a.uart } = a ∧ t.uart = v
    let next := fun (v : Uart) => if v.xoff || v.coll || !isSet s F.UART_CFG_EN then v else match v.ahead, v.tx with
      | c :: l, _ => { v with cur := some c, ahead := l }
      | [], c :: l => { v with cur := some c, tx := l }
      | [], [] => v
    let nine := isSet s F.UART_CFG_NINE
    let flow := isSet s F.UART_CFG_FLOW
    let par := getF s F.UART_CFG_PAR
    let plain := nine = false ∧ flow = false ∧ par = 0 ∧ isSet s F.UART_CFG_BITS8 = true ∧ u.rx.length < 64
    (∀ (data : BitVec 9) (parity stop : Bool),
      let d := data.toNat % 2 ^ (if isSet s F.UART_CFG_BITS8 then 8 else 7) + (if nine then 256 * (data.toNat / 256 % 2) else 0)
      let odd := (ones9 d + b2n parity) % 2 == 1
      let brk := d == 0 && (!(par == 1 || par == 2) || !parity) && !stop
      let pe := !brk && ((par == 1 && odd) || (par == 2 && !odd))
      let addr := nine && bit d 8
      let ctl := flow && stop && !pe && !addr && (d == 0x13 || d == 0x11)
      let mask := getF s F.UART_ADDR_AMASK
      let muted := if addr && isSet s F.UART_CFG_MUTE then Nat.land d mask != Nat.land (getF s F.UART_ADDR_ADDR) mask else u.muted
      let lost := nine && isSet s F.UART_CFG_MUTE && muted
      let e := d + 2 ^ 11 * b2n pe + 2 ^ 12 * b2n (!stop) + 2 ^ 13 * b2n brk + 2 ^ 15 + 2 ^ 14 * b2n u.lostSince
      ((on && isSet s F.UART_CFG_EN) = false → Completes (.uartCharacterReceived data parity stop) s fun t => t = s) ∧
      ((on && isSet s F.UART_CFG_EN) = true → Completes (.uartCharacterReceived data parity stop) s fun t =>
        { t with regs := s.regs, uart := s.uart } = s ∧ SameRegs s t [R.UART_EVT] ∧ (stop = false → isSet t F.UART_EVT_FE = true) ∧
          (stop = true → u.rx.length < 64 → t.regs = s.regs) ∧
          (flow = false → t.uart.tx = u.tx ∧ t.uart.cur = u.cur ∧ t.uart.ahead = u.ahead ∧ t.uart.xoff = u.xoff) ∧
          (ctl = true → t.uart.rx = u.rx ∧ t.uart.xoff = (d == 0x13)) ∧
          (ctl = false → t.uart.muted = muted ∧
            (lost = true → t.uart.rx = u.rx ∧ t.uart.lostSince = u.lostSince) ∧
            (lost = false → u.rx.length < 64 → t.uart.rx = u.rx ++ [e] ∧ t.uart.lostSince = false ∧ (flow = true → t.uart.sentXoff =
              if u.sentXoff then decide (getF s F.UART_FLOW_RX_LO < u.rx.length + 1) else decide (getF s F.UART_FLOW_RX_HI ≤ u.rx.length + 1))) ∧
            (lost = false → 64 ≤ u.rx.length → t.uart.rx = u.rx ∧ t.uart.lostSince = true ∧ isSet t F.UART_EVT_OVR = true)))) ∧
    (∀ (col : Bool) (data : BitVec 9) (parity stop : Bool),
      (on = false ∨ u.cur = none → Completes (.uartCharacterSent col data parity stop) s fun t => t = s) ∧
      ∀ c, on = true → u.cur = some c →
        let sent := fun (t : State) => { t with regs := s.regs, uart := s.uart, posted := s.posted } = s ∧ t.posted = s.posted ++ [.uart (uartFrame s c) (uartBit s)]
        (isSet s F.UART_CFG_HDX = false ∨ (col = false ∧ isSet s F.UART_CFG_ECHO = false) →
          Completes (.uartCharacterSent col data parity stop) s fun t => sent t ∧ t.regs = s.regs ∧ t.uart = next { u with cur := none }) ∧
        (isSet s F.UART_CFG_HDX = true → isSet s F.UART_CFG_ECHO = true → col = false → plain →
          Completes (.uartCharacterSent col data parity stop) s fun t => sent t ∧ t.regs = s.regs ∧
            t.uart = next { u with cur := none, rx := u.rx ++ [c % 256 + 2 ^ 15 + 2 ^ 14 * b2n u.lostSince], lostSince := false }) ∧
        (isSet s F.UART_CFG_HDX = true → col = true → Completes (.uartCharacterSent col data parity stop) s fun t =>
          { t with regs := s.regs, uart := s.uart } = s ∧ SameRegs s t [R.UART_EVT] ∧ isSet t F.UART_EVT_COLL = true ∧ t.uart.coll = true ∧ t.uart.tx = u.tx ∧ t.uart.cur = none ∧
            (stop = true → plain → t.uart.rx = u.rx ++ [data.toNat % 256 + 2 ^ 10 + 2 ^ 15 + 2 ^ 14 * b2n u.lostSince]))) ∧
    (reach s R.UART_TXD = true → ∀ v : Word,
      let a := rewritten s R.UART_TXD
      (64 ≤ u.tx.length → Completes (.uartTxdWrite v) s fun t => t = a) ∧
      (u.tx.length < 64 → u.cur.isSome = true → Completes (.uartTxdWrite v) s fun t =>
        uartOnly a t { u with tx := u.tx ++ [v.toNat % 512] }) ∧
      (u.tx.length < 64 → u.cur = none → Completes (.uartTxdWrite v) s fun t => uartOnly a t (next { u with tx := u.tx ++ [v.toNat % 512] }))) ∧
    (reach s R.UART_RXD = true →
      (u.rx = [] → Completes .uartRxdRead s fun t => t = { s with readData := 0 }) ∧
      ∀ e r, u.rx = e :: r → Completes .uartRxdRead s fun t => { t with uart := s.uart, readData := s.readData } = s ∧ t.uart.rx = r ∧
        t.readData = BitVec.ofNat 32 e ∧ (flow = false → t.uart = { u with rx := r }) ∧
        (flow = true → u.sentXoff = true → t.uart.sentXoff = decide (getF s F.UART_FLOW_RX_LO < r.length))) ∧
    (reach s R.UART_CTRL = true →
      let a := rewritten s R.UART_CTRL
      (Completes .uartResume s fun t => uartOnly a t (if u.cur = none then next { u with coll := false, xoff := false } else
        { u with coll := false, xoff := false })) ∧
      (Completes .uartFlushRx s fun t => { t with uart := a.uart } = a ∧ t.uart.rx = [] ∧ (flow = false → t.uart = { u with rx := [] }) ∧
        (flow = true → u.sentXoff = true → t.uart.sentXoff = false)) ∧
      Completes .uartFlushTx s fun t => uartOnly a t { u with tx := [] }) ∧
    (∀ v : Word, reach s R.I2C_CMD = true → bit v.toNat 31 = false → Completes (.i2cGo v) s fun t => t = rewritten s R.I2C_CMD) ∧
    (∀ v : Word, reach s R.I2C_CMD = true → bit v.toNat 31 = true →
      let a := rewritten s R.I2C_CMD
      let good := s.i2c.busy = none ∧ isSet s F.I2C_CFG_EN = true ∧ Cmd.wlen v ≤ 32 ∧ Cmd.rlen v ≤ 32 ∧ Cmd.wlen v ≤ s.i2c.wr.length ∧
        s.i2c.rd.length + Cmd.rlen v ≤ 32
      (¬ good → Completes (.i2cGo v) s fun t => OnlyRegs a t [R.I2C_EVT] ∧ isSet t F.I2C_EVT_CFG_ERR = true) ∧
      (good → isSet s F.I2C_STATUS_BUS_STUCK = true → Completes (.i2cGo v) s fun t => OnlyRegs a t [R.I2C_STATUS, R.I2C_EVT] ∧
        getF t F.I2C_STATUS_RESULT = 5 ∧ isSet t F.I2C_EVT_DONE = true) ∧
      (good → isSet s F.I2C_STATUS_BUS_STUCK = false → Completes (.i2cGo v) s fun t => SameRegs s t [R.I2C_STATUS] ∧
        t.posted = s.posted ++ [.i2c (v.toNat % 128) (s.i2c.wr.take (Cmd.wlen v)) (Cmd.rlen v)] ∧ t.i2c = { s.i2c with busy := some v } ∧
          isSet t F.I2C_STATUS_BUSY = true)) ∧
    (∀ (v : Word) (recv : List Byte) (sent : Nat), s.i2c.busy = some v →
      let ended := fun (a : State) (code : Nat) (recv : List Byte) (t : State) =>
        { t with regs := a.regs, i2c := a.i2c } = a ∧ (∀ off < 0x8000, off ≠ R.I2C_STATUS → off ≠ R.I2C_EVT → off ≠ R.I2C_CFG →
          rd t off = rd a off) ∧ getF t F.I2C_STATUS_RESULT = code ∧ isSet t F.I2C_STATUS_BUSY = false ∧
          isSet t F.I2C_EVT_DONE = true ∧ t.i2c = { wr := s.i2c.wr.drop (Cmd.wlen v), rd := s.i2c.rd ++ recv.take (Cmd.rlen v), busy := none }
      (on = true → (∀ result : Fin 8, Completes (.i2cTransactionDone result sent recv) s (ended s result.val recv)) ∧
        Completes (.i2cSclTimeout sent recv) s (ended s 4 recv)) ∧
      ∀ d : Word, reach s R.I2C_CFG = true → bit d.toNat 0 = false → Completes (.i2cDisable d) s fun t =>
        ended (rewritten s R.I2C_CFG) 6 [] t ∧ isSet t F.I2C_CFG_EN = false) ∧
    (on = false ∨ s.i2c.busy = none → ∀ (result : Fin 8) (sent : Nat) (recv : List Byte),
      Completes (.i2cTransactionDone result sent recv) s (fun t => t = s) ∧ Completes (.i2cSclTimeout sent recv) s fun t => t = s) ∧
    ((on && isSet s F.I2C_CFG_EN) = false → ∀ n, Completes (.i2cBusClear n) s fun t => t = s) ∧
    (on = true → isSet s F.I2C_CFG_EN = true → (∀ n, 9 < n → Completes (.i2cBusClear (some n)) s fun t => t = s) ∧
      (∀ n, n ≤ 9 → Completes (.i2cBusClear (some n)) s fun t => SameRegs s t [R.I2C_STATUS] ∧ isSet t F.I2C_STATUS_BUS_STUCK = false ∧
        { t with regs := s.regs, posted := s.posted } = s ∧ t.posted = s.posted ++ [.i2cClear n (n != 0)]) ∧
      Completes (.i2cBusClear none) s fun t => SameRegs s t [R.I2C_STATUS, R.I2C_EVT] ∧ { t with regs := s.regs, posted := s.posted } = s ∧
        t.posted = s.posted ++ [.i2cClear 9 false] ∧ isSet t F.I2C_STATUS_BUS_STUCK = true ∧
        isSet t F.I2C_EVT_STUCK = true) ∧
    (reach s R.I2C_WDATA = true → ∀ v : Word,
      (s.i2c.wr.length < 32 → Completes (.i2cWdataWrite v) s fun t =>
        t = { rewritten s R.I2C_WDATA with i2c := { s.i2c with wr := s.i2c.wr ++ [BitVec.ofNat 8 v.toNat] } }) ∧
      (32 ≤ s.i2c.wr.length → Completes (.i2cWdataWrite v) s fun t => OnlyRegs (rewritten s R.I2C_WDATA) t [R.I2C_EVT] ∧
        isSet t F.I2C_EVT_CFG_ERR = true)) ∧
    (reach s R.I2C_RDATA = true → (s.i2c.rd = [] → Completes .i2cRdataRead s fun t => t = { s with readData := 0 }) ∧
      ∀ b r, s.i2c.rd = b :: r → Completes .i2cRdataRead s fun t =>
        t = { s with i2c := { s.i2c with rd := r }, readData := BitVec.ofNat 32 (256 + b.toNat) }) ∧
    (∀ v : Word, reach s R.SPI_F_CMD = true → bit v.toNat 31 = false → Completes (.spiFlashGo v) s fun t => t = rewritten s R.SPI_F_CMD) ∧
    (∀ v : Word, reach s R.SPI_F_CMD = true → bit v.toNat 31 = true →
      let a := rewritten s R.SPI_F_CMD
      let op := v.toNat % 256
      let len := bits v.toNat 24 16
      let good := isSet s F.SPI_F_STATUS_OWN = false ∧ s.spi.busy = none ∧ flashOk s op len = true
      (¬ good → Completes (.spiFlashGo v) s fun t => OnlyRegs a t [R.SPI_EVT] ∧ isSet t F.SPI_EVT_CFG_ERR = true) ∧
      (good → Completes (.spiFlashGo v) s fun t => SameRegs s t [R.SPI_F_STATUS] ∧ t.spi = { s.spi with busy := some v } ∧
        isSet t F.SPI_F_STATUS_BUSY = true ∧
          t.posted = s.posted ++ [.flash op (getF s F.SPI_F_ADDR_ADDR) len (if op = 0x02 then flashBuf s len else [])])) ∧
    (on = false ∨ s.spi.busy = none → ∀ (data : List Byte) (err : Bool), Completes (.spiFlashDone data err) s fun t => t = s) ∧
    (∀ (v : Word) (data : List Byte) (err : Bool), on = true → s.spi.busy = some v → Completes (.spiFlashDone data err) s fun t =>
      (∀ off < 0x8000, (∀ i < 64, off ≠ R.SPI_F_BUF i) → off ≠ R.SPI_F_STATUS → off ≠ R.SPI_EVT → rd t off = rd s off) ∧
      { t with regs := s.regs, spi := s.spi } = s ∧ t.spi = { s.spi with busy := none } ∧ isSet t F.SPI_F_STATUS_BUSY = false ∧
        isSet t F.SPI_F_STATUS_ERR = err ∧ isSet t F.SPI_EVT_F_DONE = true ∧
        (v.toNat % 256 = 0x03 ∨ v.toNat % 256 = 0x6B → ∀ i < 64, 4 * i + 4 ≤ min data.length (bits v.toNat 24 16) →
          rdN t (R.SPI_F_BUF i) = leAt data (4 * i) 4) ∧
        (v.toNat % 256 = 0x05 → ∀ b l, data = b :: l → rdN t (R.SPI_F_BUF 0) % 256 = b.toNat)) ∧
    (on = false → (∀ off words, Completes (.spiTargetRead off words) s fun t => t = s) ∧
      ∀ op off edges words, Completes (.spiTargetWrite op off edges words) s fun t => t = s) ∧
    (∀ off, Completes (.spiTargetRead off 0) s fun t => t = s) ∧
    (on = true → (∀ off edges words, Completes (.spiTargetWrite 0x0B off edges words) s fun t => t = s) ∧
      (s.pins.inReset = false → ∀ (off : BitVec 16) (words : Nat), 1 ≤ words → Completes (.spiTargetRead off words) s fun t => t.regs = s.regs ∧
        (∃ st data, t.posted = s.posted ++ [.spiOut st data] ∧ bit st 0 = s.spi.frameErr ∧ bit st 1 = s.spi.h2b ∧
          bit st 2 = decide (getF s F.GLB_STATUS_BOOT_PHASE = 15) ∧ data.length = min words 16 ∧
          ∀ i < min words 16, off.toNat / 4 * 4 + 4 * i < 0x8000 →
            data[i]? = some (if reach s (off.toNat / 4 * 4 + 4 * i) then BitVec.ofNat 32 (viewReg s (off.toNat / 4 * 4 + 4 * i)) else 0)) ∧
        t.spi = { s.spi with h2b := s.spi.h2b && (List.range (min words 16)).all fun i => off.toNat / 4 * 4 + 4 * i != R.SPI_T_H2B 7 }) ∧
      (∀ (off : BitVec 16) (words : List Word) (edges : Nat),
        let o := off.toNat / 4 * 4
        let good := 1 ≤ words.length ∧ words.length ≤ 16 ∧ edges = 24 + 32 * words.length ∧
          ∀ i < words.length, targetMayWrite (o + 4 * i) = true
        (good → Completes (.spiTargetWrite 0x02 off edges words) s fun t => { t with regs := s.regs, spi := s.spi } = s ∧
          t.spi.frameErr = false ∧ (o ≤ 0x5C5C → 0x5C5C < o + 4 * words.length → isSet t F.SPI_EVT_B2H = true) ∧
          (∀ x < 0x8000, (∀ i < words.length, x ≠ o + 4 * i) → x ≠ R.SPI_EVT → rd t x = rd s x) ∧
          ((∃ i w, o + 4 * i = R.SPI_T_CTRL ∧ words[i]? = some w ∧ bit w.toNat 0 = true) → t.spi.h2b = true) ∧
          ∀ i < words.length, o + 4 * i ≠ R.SPI_T_CTRL → words[i]? = some (rd t (o + 4 * i))) ∧
        (¬ good → Completes (.spiTargetWrite 0x02 off edges words) s fun t => t.spi = { s.spi with frameErr := true } ∧
          SameRegs s t [R.SPI_T_FERR_CNT, R.SPI_EVT] ∧ isSet t F.SPI_EVT_FRAME_ERR = true ∧
            rdN t R.SPI_T_FERR_CNT = satN (2 ^ 32 - 1) (rdN s R.SPI_T_FERR_CNT + 1))) ∧
      ∀ (opcode : Byte) (off : BitVec 16) (edges : Nat) (words : List Word), opcode ≠ 0x02 → opcode ≠ 0x0B →
        Completes (.spiTargetWrite opcode off edges words) s fun t => t.spi = { s.spi with frameErr := true } ∧ SameRegs s t [R.SPI_EVT] ∧
          isSet t F.SPI_EVT_FRAME_ERR = true) ∧
    (reach s R.SPI_T_CTRL = true → Completes .spiHostPost s fun t => t = { rewritten s R.SPI_T_CTRL with spi := { s.spi with h2b := true } })

/-! ### Jiroth (R487 to R496) -/

/-- JIROTH_LANE_LOCK, JIROTH_SEGMENT_FAIL, JIROTH_RETRAIN, JIROTH_ENUM, JIROTH_TIMING, JIROTH_TIMING_LOST, JIROTH_BOUNDARY, JIROTH_EVENT,
JIROTH_ROUTE, JIROTH_BREAK, JIROTH_PACKET_CRC_ERROR: the segment's service, positions on the ring, what a packet leaves, and that every
packet of another device goes on (R487 to R496). -/
def Obligations.JirothRing : Prop :=
  ∀ s : State, Settled s →
    let status := fun (t : State) => SameRegs s t [R.JIR_STATUS]
    let outOfService := fun (t : State) => isSet t F.JIR_STATUS_SEG_IN_OK = false ∧ getF t F.JIR_STATUS_LANE_LOCK = 0
    let passesOn := fun (p : Output) (t : State) => ∃ l, t.posted = l ++ [p]
    let cdly := bits (rdN s R.JIR_CDLY) 15 0
    (jirOn s = true → s.jir.failed = false → ∀ l : Fin 2, Completes (.jirothLaneLock l) s fun t => status t ∧
      { t with regs := s.regs, posted := s.posted, rel := s.rel } = s ∧ bit (getF t F.JIR_STATUS_LANE_LOCK) l.val = true ∧
        (getF t F.JIR_STATUS_LANE_LOCK = 3 → isSet t F.JIR_STATUS_SEG_IN_OK = true) ∧
        (isSet s F.JIR_STATUS_SEG_IN_OK = false → isSet t F.JIR_STATUS_SEG_IN_OK = true →
          fgetD t.rel.hist (faultKey 5 0) {} = {} ∧ fgetD t.rel.hist (faultKey 5 1) {} = {} ∧
          if jirMaster s then jirPos t = 0 ∧ t.posted = s.posted ++ [.jiroth 1 0 (some (10 * tbNow s)) [0]] else t.posted = s.posted) ∧
        (getF t F.JIR_STATUS_LANE_LOCK ≠ 3 ∨ isSet s F.JIR_STATUS_SEG_IN_OK = true →
          isSet t F.JIR_STATUS_SEG_IN_OK = isSet s F.JIR_STATUS_SEG_IN_OK ∧ t.posted = s.posted ∧ t.rel = s.rel)) ∧
    (jirOn s = false ∨ s.jir.failed = true → ∀ l : Fin 2, Completes (.jirothLaneLock l) s fun t => t = s) ∧
    (jirOn s = false → Completes .jirothSegmentFail s fun t => t = s) ∧
    (jirOn s = true → Completes .jirothSegmentFail s fun t => outOfService t ∧ t.jir = { s.jir with failed := true } ∧
      isSet t F.JIR_EVT_SEG_FAIL = true ∧ SameRegs s t [R.JIR_STATUS, R.JIR_EVT] ∧
        t.posted = s.posted ++ [.jiroth 6 (jirPos s) (some (10 * tbNow s)) [jirPos s]]) ∧
    (reach s R.JIR_CMD = true → Completes .jirothRetrain s fun t => outOfService t ∧ t.jir = { s.jir with failed := false } ∧ status t ∧
      t.posted = s.posted) ∧
    (Completes .jirothTimingLost s fun t => isSet t F.JIR_STATUS_TLOCK = false ∧ t.jir = { s.jir with good := 0 } ∧ status t ∧
      t.posted = s.posted ∧ rd t R.MSY_TB_ADJ = rd s R.MSY_TB_ADJ) ∧
    (jirRx s = true →
      (∀ src counter, (jirMaster s = true → Completes (.jirothEnum src counter) s fun t => OnlyRegs s t [R.JIR_STATUS] ∧
          getF t F.JIR_STATUS_NDEV = (counter + 1) % 16 ∧ isSet t F.JIR_STATUS_OVERSIZE = decide (16 < counter + 1)) ∧
        (jirMaster s = false → Completes (.jirothEnum src counter) s fun t => status t ∧ jirPos t = (counter + 1) % 16 ∧
          t.posted = s.posted ++ [.jiroth 1 src none [counter + 1]] ∧ { t with regs := s.regs, posted := s.posted, jir := s.jir } = s)) ∧
      (∀ (src : Nat) (cidx : Word) (zcts : BitVec 64) (slotC : BitVec 2) (dep arr resid : Nat) (swap : Option (Word × Word)),
        let on := Output.jiroth 2 src (some (dep + cdly + 1600 + resid)) ([cidx.toNat, zcts.toNat, slotC.toNat] ++
          (match swap with | some (e, c) => [e.toNat, c.toNat] | none => []))
        let err : Int := (dep : Int) + cdly + 1600 - arr
        (jirMaster s = true → src ≠ jirPos s → Completes (.jirothTiming src cidx zcts slotC dep arr resid swap) s fun t =>
          { t with regs := s.regs, posted := s.posted } = s ∧ SameRegs s t [R.JIR_EVT] ∧ isSet t F.JIR_EVT_MASTER_CONFLICT = true ∧
            t.posted = s.posted ++ [on]) ∧
        (jirMaster s = true → src = jirPos s → Completes (.jirothTiming src cidx zcts slotC dep arr resid swap) s fun t =>
          OnlyRegs s t [R.JIR_LOOP, R.JIR_STATUS] ∧ rd t R.JIR_LOOP = BitVec.ofNat 32 (arr - s.jir.depart) ∧
            isSet t F.JIR_STATUS_LOOP_ERR = decide (200 < err.natAbs)) ∧
        (jirMaster s = false → src ≠ 0 ∨ s.jir.twoMasters = true → Completes (.jirothTiming src cidx zcts slotC dep arr resid swap) s fun t =>
          t = { s with jir := { s.jir with twoMasters := true }, posted := s.posted ++ [on] }) ∧
        (jirMaster s = false → s.jir.twoMasters = false → src = 0 →
          Completes (.jirothTiming src cidx zcts slotC dep arr resid swap) s fun t => t.jir.timing = some (cidx.toNat, zcts.toNat) ∧
            passesOn on t ∧ sext 32 (rdN t R.JIR_TB_ERR) = sext 32 (wrap 32 err) ∧
            t.jir.swap = (match swap with | some (e, c) => some (e.toNat, c.toNat) | none => s.jir.swap) ∧
            t.jir.good = (if err.natAbs ≤ 1000 then min 8 (s.jir.good + 1) else 0) ∧ (8 ≤ t.jir.good → isSet t F.JIR_STATUS_TLOCK = true) ∧
            (getF s F.CLK_STRAP_CLKSEL = 1 ∨ getF s F.CLK_STRAP_CLKSEL = 2 → rd t R.MSY_TB_ADJ = rd s R.MSY_TB_ADJ) ∧
            isSet t F.JIR_STATUS_SLOT_MISMATCH = decide (slotC.toNat ≠ getF s F.MAC_SLOT_CFG_SLOT_C))) ∧
      (∀ src cidx zcts, src ≠ jirPos s → Completes (.jirothBoundary src cidx zcts) s fun t =>
        t.jir = { s.jir with bound := some (cidx.toNat, zcts.toNat, s.mains.elapsed) } ∧ t.mains = s.mains ∧
          passesOn (.jiroth 3 src none [cidx.toNat, zcts.toNat]) t ∧
          (src ≠ 0 → t.regs = s.regs ∧ t.cmds = s.cmds) ∧
          (src = 0 → jirMaster s = false → s.jir.twoMasters = false → cidxOk s = true → cidxNow s ≠ cidx.toNat →
            4 * ((zcts.toNat : Int) - s.mains.zc).natAbs < holdPeriod s → isSet t F.JIR_STATUS_CIDX_CONFLICT = true)) ∧
      (∀ src num time, src ≠ jirPos s → Completes (.jirothEvent src num time) s fun t =>
        CaptureOnly s t ∧ passesOn (.jiroth 4 src none [num.val, time.toNat]) t ∧
          ((∀ i < 16, (stream s i).st = .idle) → (∀ e ∈ s.streams, e.2.exports = []) → { t with posted := s.posted } = s ∧
            t.posted = s.posted ++ [.jiroth 4 src none [num.val, time.toNat]])) ∧
      (∀ src, src ≠ jirPos s →
        (∀ rcv snd snr er rt, isSet s F.VET_CTRL_EN = false → Completes (.jirothRoute src [] [(rcv, snd, snr, er, rt)]) s fun t =>
          t = { s with posted := s.posted ++ [.jiroth 5 src none [rcv, snd, wrap 8 snr, er, rt]] }) ∧
        (∀ rcv snd snr er rt, rcv < 2 ^ 18 → isSet s F.VET_CTRL_EN = true → Completes (.jirothRoute src [] [(rcv, snd, snr, er, rt)]) s fun t =>
          { t with mesh := s.mesh, regs := s.regs, posted := s.posted } = s ∧ SameRegs s t [R.VET_DIR_REFUSE_CNT, R.VET_EVT] ∧
          t.posted = s.posted ++ [.jiroth 5 src none [rcv, snd, wrap 8 snr, er, rt]] ∧
          t.mesh.dirty = true ∧ ((link t snd rcv).map fun x => (x.rep, x.epoch)) = some (some (snr, er, rt), epochNow s) ∧
            (∀ k, k % 2 ^ 18 ≠ rcv → fget t.mesh.links k = fget s.mesh.links k) ∧ t.mesh.routes = s.mesh.routes) ∧
        ∀ n c, c < 0xFFFF → Completes (.jirothRoute src [(n, c)] []) s fun t => { t with mesh := s.mesh, posted := s.posted } = s ∧
          t.posted = s.posted ++ [.jiroth 5 src none [n, c]] ∧ (src, c) ∈ fgetD t.mesh.others n [] ∧
          (∀ e ∈ fgetD t.mesh.others n [], e.1 = src → e.2 = c) ∧ t.mesh.links = s.mesh.links ∧ t.mesh.routes = s.mesh.routes) ∧
      (∀ pos, pos ≠ jirPos s → Completes (.jirothBreak pos) s fun t => SameRegs s t [R.JIR_EVT] ∧ isSet t F.JIR_EVT_BREAK = true ∧
        t.posted = s.posted ++ [.jiroth 6 pos none [pos]] ∧ t.jir = s.jir) ∧
      (∀ cidx zcts num time costs reports, Completes (.jirothBoundary (jirPos s) cidx zcts) s (fun t => t = s) ∧
        Completes (.jirothEvent (jirPos s) num time) s (fun t => t = s) ∧ Completes (.jirothBreak (jirPos s)) s (fun t => t = s) ∧
          Completes (.jirothRoute (jirPos s) costs reports) s fun t => t = s) ∧
      ∀ l : Fin 2, Completes (.jirothPacketCrcError l) s fun t =>
        rdN t (R.JIR_CRC_CNT l.val) = satN (2 ^ 32 - 1) (rdN s (R.JIR_CRC_CNT l.val) + 1) ∧ t.mains = s.mains ∧ (t.jir = s.jir ∨ t.jir = { s.jir with failed := true }) ∧
          rdN t (R.REL_TOT 5) = satN (2 ^ 32 - 1) (rdN s (R.REL_TOT 5) + 1)) ∧
    (jirRx s = false → ∀ (src counter pos : Nat) (l : Fin 2) (cidx : Word) (zcts : BitVec 64) (num : Fin 16),
      Completes (.jirothEnum src counter) s (fun t => t = s) ∧ Completes (.jirothBreak pos) s (fun t => t = s) ∧
        Completes (.jirothBoundary src cidx zcts) s (fun t => t = s) ∧ Completes (.jirothEvent src num zcts) s (fun t => t = s) ∧
        Completes (.jirothPacketCrcError l) s fun t => t = s)
end

