-- ==== Sys2Proof/Laws/State.lean ====
section
/-! SUPPORT. What each named operation leaves as it was: one lemma per field and operation, true by unfolding. -/

namespace Sys2Proof.Machine

variable (s : State)

@[simp] theorem wr_pins (o : Nat) (v : Word) : (wr s o v).pins = s.pins := rfl
@[simp] theorem wr_pwr (o : Nat) (v : Word) : (wr s o v).pwr = s.pwr := rfl
@[simp] theorem wr_pcie (o : Nat) (v : Word) : (wr s o v).pcie = s.pcie := rfl
@[simp] theorem wr_boot (o : Nat) (v : Word) : (wr s o v).boot = s.boot := rfl
@[simp] theorem wr_blanes (o : Nat) (v : Word) : (wr s o v).blanes = s.blanes := rfl
@[simp] theorem wr_rel (o : Nat) (v : Word) : (wr s o v).rel = s.rel := rfl
@[simp] theorem wr_par (o : Nat) (v : Word) : (wr s o v).par = s.par := rfl
@[simp] theorem wr_crc (o : Nat) (v : Word) : (wr s o v).crc = s.crc := rfl
@[simp] theorem wr_mains (o : Nat) (v : Word) : (wr s o v).mains = s.mains := rfl
@[simp] theorem wr_rx (o : Nat) (v : Word) : (wr s o v).rx = s.rx := rfl
@[simp] theorem wr_tones (o : Nat) (v : Word) : (wr s o v).tones = s.tones := rfl
@[simp] theorem wr_toneSwap (o : Nat) (v : Word) : (wr s o v).toneSwap = s.toneSwap := rfl
@[simp] theorem wr_lanes (o : Nat) (v : Word) : (wr s o v).lanes = s.lanes := rfl
@[simp] theorem wr_recs (o : Nat) (v : Word) : (wr s o v).recs = s.recs := rfl
@[simp] theorem wr_msel (o : Nat) (v : Word) : (wr s o v).msel = s.msel := rfl
@[simp] theorem wr_frames (o : Nat) (v : Word) : (wr s o v).frames = s.frames := rfl
@[simp] theorem wr_retain (o : Nat) (v : Word) : (wr s o v).retain = s.retain := rfl
@[simp] theorem wr_heard (o : Nat) (v : Word) : (wr s o v).heard = s.heard := rfl
@[simp] theorem wr_tx (o : Nat) (v : Word) : (wr s o v).tx = s.tx := rfl
@[simp] theorem wr_jobs (o : Nat) (v : Word) : (wr s o v).jobs = s.jobs := rfl
@[simp] theorem wr_sessions (o : Nat) (v : Word) : (wr s o v).sessions = s.sessions := rfl
@[simp] theorem wr_quiets (o : Nat) (v : Word) : (wr s o v).quiets = s.quiets := rfl
@[simp] theorem wr_bands (o : Nat) (v : Word) : (wr s o v).bands = s.bands := rfl
@[simp] theorem wr_air (o : Nat) (v : Word) : (wr s o v).air = s.air := rfl
@[simp] theorem wr_sor (o : Nat) (v : Word) : (wr s o v).sor = s.sor := rfl
@[simp] theorem wr_lomsOnset (o : Nat) (v : Word) : (wr s o v).lomsOnset = s.lomsOnset := rfl
@[simp] theorem wr_pm (o : Nat) (v : Word) : (wr s o v).pm = s.pm := rfl
@[simp] theorem wr_secSeen (o : Nat) (v : Word) : (wr s o v).secSeen = s.secSeen := rfl
@[simp] theorem wr_mesh (o : Nat) (v : Word) : (wr s o v).mesh = s.mesh := rfl
@[simp] theorem wr_dram (o : Nat) (v : Word) : (wr s o v).dram = s.dram := rfl
@[simp] theorem wr_streams (o : Nat) (v : Word) : (wr s o v).streams = s.streams := rfl
@[simp] theorem wr_kqOwners (o : Nat) (v : Word) : (wr s o v).kqOwners = s.kqOwners := rfl
@[simp] theorem wr_players (o : Nat) (v : Word) : (wr s o v).players = s.players := rfl
@[simp] theorem wr_rings (o : Nat) (v : Word) : (wr s o v).rings = s.rings := rfl
@[simp] theorem wr_banks (o : Nat) (v : Word) : (wr s o v).banks = s.banks := rfl
@[simp] theorem wr_held (o : Nat) (v : Word) : (wr s o v).held = s.held := rfl
@[simp] theorem wr_cmds (o : Nat) (v : Word) : (wr s o v).cmds = s.cmds := rfl
@[simp] theorem wr_sec (o : Nat) (v : Word) : (wr s o v).sec = s.sec := rfl
@[simp] theorem wr_nvs (o : Nat) (v : Word) : (wr s o v).nvs = s.nvs := rfl
@[simp] theorem wr_rtc (o : Nat) (v : Word) : (wr s o v).rtc = s.rtc := rfl
@[simp] theorem wr_uart (o : Nat) (v : Word) : (wr s o v).uart = s.uart := rfl
@[simp] theorem wr_i2c (o : Nat) (v : Word) : (wr s o v).i2c = s.i2c := rfl
@[simp] theorem wr_spi (o : Nat) (v : Word) : (wr s o v).spi = s.spi := rfl
@[simp] theorem wr_jir (o : Nat) (v : Word) : (wr s o v).jir = s.jir := rfl
@[simp] theorem wr_readData (o : Nat) (v : Word) : (wr s o v).readData = s.readData := rfl
@[simp] theorem wr_posted (o : Nat) (v : Word) : (wr s o v).posted = s.posted := rfl
@[simp] theorem wr_nextUid (o : Nat) (v : Word) : (wr s o v).nextUid = s.nextUid := rfl
@[simp] theorem wr_nextJob (o : Nat) (v : Word) : (wr s o v).nextJob = s.nextJob := rfl
@[simp] theorem wr_nextFid (o : Nat) (v : Word) : (wr s o v).nextFid = s.nextFid := rfl
@[simp] theorem wr_freeCtr (o : Nat) (v : Word) : (wr s o v).freeCtr = s.freeCtr := rfl
@[simp] theorem wr_pending (o : Nat) (v : Word) : (wr s o v).pending = s.pending := rfl

@[simp] theorem wrN_pins (o v : Nat) : (wrN s o v).pins = s.pins := rfl
@[simp] theorem wrN_pwr (o v : Nat) : (wrN s o v).pwr = s.pwr := rfl
@[simp] theorem wrN_pcie (o v : Nat) : (wrN s o v).pcie = s.pcie := rfl
@[simp] theorem wrN_boot (o v : Nat) : (wrN s o v).boot = s.boot := rfl
@[simp] theorem wrN_blanes (o v : Nat) : (wrN s o v).blanes = s.blanes := rfl
@[simp] theorem wrN_rel (o v : Nat) : (wrN s o v).rel = s.rel := rfl
@[simp] theorem wrN_par (o v : Nat) : (wrN s o v).par = s.par := rfl
@[simp] theorem wrN_crc (o v : Nat) : (wrN s o v).crc = s.crc := rfl
@[simp] theorem wrN_mains (o v : Nat) : (wrN s o v).mains = s.mains := rfl
@[simp] theorem wrN_rx (o v : Nat) : (wrN s o v).rx = s.rx := rfl
@[simp] theorem wrN_tones (o v : Nat) : (wrN s o v).tones = s.tones := rfl
@[simp] theorem wrN_toneSwap (o v : Nat) : (wrN s o v).toneSwap = s.toneSwap := rfl
@[simp] theorem wrN_lanes (o v : Nat) : (wrN s o v).lanes = s.lanes := rfl
@[simp] theorem wrN_recs (o v : Nat) : (wrN s o v).recs = s.recs := rfl
@[simp] theorem wrN_msel (o v : Nat) : (wrN s o v).msel = s.msel := rfl
@[simp] theorem wrN_frames (o v : Nat) : (wrN s o v).frames = s.frames := rfl
@[simp] theorem wrN_retain (o v : Nat) : (wrN s o v).retain = s.retain := rfl
@[simp] theorem wrN_heard (o v : Nat) : (wrN s o v).heard = s.heard := rfl
@[simp] theorem wrN_tx (o v : Nat) : (wrN s o v).tx = s.tx := rfl
@[simp] theorem wrN_jobs (o v : Nat) : (wrN s o v).jobs = s.jobs := rfl
@[simp] theorem wrN_sessions (o v : Nat) : (wrN s o v).sessions = s.sessions := rfl
@[simp] theorem wrN_quiets (o v : Nat) : (wrN s o v).quiets = s.quiets := rfl
@[simp] theorem wrN_bands (o v : Nat) : (wrN s o v).bands = s.bands := rfl
@[simp] theorem wrN_air (o v : Nat) : (wrN s o v).air = s.air := rfl
@[simp] theorem wrN_sor (o v : Nat) : (wrN s o v).sor = s.sor := rfl
@[simp] theorem wrN_lomsOnset (o v : Nat) : (wrN s o v).lomsOnset = s.lomsOnset := rfl
@[simp] theorem wrN_pm (o v : Nat) : (wrN s o v).pm = s.pm := rfl
@[simp] theorem wrN_secSeen (o v : Nat) : (wrN s o v).secSeen = s.secSeen := rfl
@[simp] theorem wrN_mesh (o v : Nat) : (wrN s o v).mesh = s.mesh := rfl
@[simp] theorem wrN_dram (o v : Nat) : (wrN s o v).dram = s.dram := rfl
@[simp] theorem wrN_streams (o v : Nat) : (wrN s o v).streams = s.streams := rfl
@[simp] theorem wrN_kqOwners (o v : Nat) : (wrN s o v).kqOwners = s.kqOwners := rfl
@[simp] theorem wrN_players (o v : Nat) : (wrN s o v).players = s.players := rfl
@[simp] theorem wrN_rings (o v : Nat) : (wrN s o v).rings = s.rings := rfl
@[simp] theorem wrN_banks (o v : Nat) : (wrN s o v).banks = s.banks := rfl
@[simp] theorem wrN_held (o v : Nat) : (wrN s o v).held = s.held := rfl
@[simp] theorem wrN_cmds (o v : Nat) : (wrN s o v).cmds = s.cmds := rfl
@[simp] theorem wrN_sec (o v : Nat) : (wrN s o v).sec = s.sec := rfl
@[simp] theorem wrN_nvs (o v : Nat) : (wrN s o v).nvs = s.nvs := rfl
@[simp] theorem wrN_rtc (o v : Nat) : (wrN s o v).rtc = s.rtc := rfl
@[simp] theorem wrN_uart (o v : Nat) : (wrN s o v).uart = s.uart := rfl
@[simp] theorem wrN_i2c (o v : Nat) : (wrN s o v).i2c = s.i2c := rfl
@[simp] theorem wrN_spi (o v : Nat) : (wrN s o v).spi = s.spi := rfl
@[simp] theorem wrN_jir (o v : Nat) : (wrN s o v).jir = s.jir := rfl
@[simp] theorem wrN_readData (o v : Nat) : (wrN s o v).readData = s.readData := rfl
@[simp] theorem wrN_posted (o v : Nat) : (wrN s o v).posted = s.posted := rfl
@[simp] theorem wrN_nextUid (o v : Nat) : (wrN s o v).nextUid = s.nextUid := rfl
@[simp] theorem wrN_nextJob (o v : Nat) : (wrN s o v).nextJob = s.nextJob := rfl
@[simp] theorem wrN_nextFid (o v : Nat) : (wrN s o v).nextFid = s.nextFid := rfl
@[simp] theorem wrN_freeCtr (o v : Nat) : (wrN s o v).freeCtr = s.freeCtr := rfl
@[simp] theorem wrN_pending (o v : Nat) : (wrN s o v).pending = s.pending := rfl

@[simp] theorem setF_pins (f : Fld) (v : Nat) : (setF s f v).pins = s.pins := rfl
@[simp] theorem setF_pwr (f : Fld) (v : Nat) : (setF s f v).pwr = s.pwr := rfl
@[simp] theorem setF_pcie (f : Fld) (v : Nat) : (setF s f v).pcie = s.pcie := rfl
@[simp] theorem setF_boot (f : Fld) (v : Nat) : (setF s f v).boot = s.boot := rfl
@[simp] theorem setF_blanes (f : Fld) (v : Nat) : (setF s f v).blanes = s.blanes := rfl
@[simp] theorem setF_rel (f : Fld) (v : Nat) : (setF s f v).rel = s.rel := rfl
@[simp] theorem setF_par (f : Fld) (v : Nat) : (setF s f v).par = s.par := rfl
@[simp] theorem setF_crc (f : Fld) (v : Nat) : (setF s f v).crc = s.crc := rfl
@[simp] theorem setF_mains (f : Fld) (v : Nat) : (setF s f v).mains = s.mains := rfl
@[simp] theorem setF_rx (f : Fld) (v : Nat) : (setF s f v).rx = s.rx := rfl
@[simp] theorem setF_tones (f : Fld) (v : Nat) : (setF s f v).tones = s.tones := rfl
@[simp] theorem setF_toneSwap (f : Fld) (v : Nat) : (setF s f v).toneSwap = s.toneSwap := rfl
@[simp] theorem setF_lanes (f : Fld) (v : Nat) : (setF s f v).lanes = s.lanes := rfl
@[simp] theorem setF_recs (f : Fld) (v : Nat) : (setF s f v).recs = s.recs := rfl
@[simp] theorem setF_msel (f : Fld) (v : Nat) : (setF s f v).msel = s.msel := rfl
@[simp] theorem setF_frames (f : Fld) (v : Nat) : (setF s f v).frames = s.frames := rfl
@[simp] theorem setF_retain (f : Fld) (v : Nat) : (setF s f v).retain = s.retain := rfl
@[simp] theorem setF_heard (f : Fld) (v : Nat) : (setF s f v).heard = s.heard := rfl
@[simp] theorem setF_tx (f : Fld) (v : Nat) : (setF s f v).tx = s.tx := rfl
@[simp] theorem setF_jobs (f : Fld) (v : Nat) : (setF s f v).jobs = s.jobs := rfl
@[simp] theorem setF_sessions (f : Fld) (v : Nat) : (setF s f v).sessions = s.sessions := rfl
@[simp] theorem setF_quiets (f : Fld) (v : Nat) : (setF s f v).quiets = s.quiets := rfl
@[simp] theorem setF_bands (f : Fld) (v : Nat) : (setF s f v).bands = s.bands := rfl
@[simp] theorem setF_air (f : Fld) (v : Nat) : (setF s f v).air = s.air := rfl
@[simp] theorem setF_sor (f : Fld) (v : Nat) : (setF s f v).sor = s.sor := rfl
@[simp] theorem setF_lomsOnset (f : Fld) (v : Nat) : (setF s f v).lomsOnset = s.lomsOnset := rfl
@[simp] theorem setF_pm (f : Fld) (v : Nat) : (setF s f v).pm = s.pm := rfl
@[simp] theorem setF_secSeen (f : Fld) (v : Nat) : (setF s f v).secSeen = s.secSeen := rfl
@[simp] theorem setF_mesh (f : Fld) (v : Nat) : (setF s f v).mesh = s.mesh := rfl
@[simp] theorem setF_dram (f : Fld) (v : Nat) : (setF s f v).dram = s.dram := rfl
@[simp] theorem setF_streams (f : Fld) (v : Nat) : (setF s f v).streams = s.streams := rfl
@[simp] theorem setF_kqOwners (f : Fld) (v : Nat) : (setF s f v).kqOwners = s.kqOwners := rfl
@[simp] theorem setF_players (f : Fld) (v : Nat) : (setF s f v).players = s.players := rfl
@[simp] theorem setF_rings (f : Fld) (v : Nat) : (setF s f v).rings = s.rings := rfl
@[simp] theorem setF_banks (f : Fld) (v : Nat) : (setF s f v).banks = s.banks := rfl
@[simp] theorem setF_held (f : Fld) (v : Nat) : (setF s f v).held = s.held := rfl
@[simp] theorem setF_cmds (f : Fld) (v : Nat) : (setF s f v).cmds = s.cmds := rfl
@[simp] theorem setF_sec (f : Fld) (v : Nat) : (setF s f v).sec = s.sec := rfl
@[simp] theorem setF_nvs (f : Fld) (v : Nat) : (setF s f v).nvs = s.nvs := rfl
@[simp] theorem setF_rtc (f : Fld) (v : Nat) : (setF s f v).rtc = s.rtc := rfl
@[simp] theorem setF_uart (f : Fld) (v : Nat) : (setF s f v).uart = s.uart := rfl
@[simp] theorem setF_i2c (f : Fld) (v : Nat) : (setF s f v).i2c = s.i2c := rfl
@[simp] theorem setF_spi (f : Fld) (v : Nat) : (setF s f v).spi = s.spi := rfl
@[simp] theorem setF_jir (f : Fld) (v : Nat) : (setF s f v).jir = s.jir := rfl
@[simp] theorem setF_readData (f : Fld) (v : Nat) : (setF s f v).readData = s.readData := rfl
@[simp] theorem setF_posted (f : Fld) (v : Nat) : (setF s f v).posted = s.posted := rfl
@[simp] theorem setF_nextUid (f : Fld) (v : Nat) : (setF s f v).nextUid = s.nextUid := rfl
@[simp] theorem setF_nextJob (f : Fld) (v : Nat) : (setF s f v).nextJob = s.nextJob := rfl
@[simp] theorem setF_nextFid (f : Fld) (v : Nat) : (setF s f v).nextFid = s.nextFid := rfl
@[simp] theorem setF_freeCtr (f : Fld) (v : Nat) : (setF s f v).freeCtr = s.freeCtr := rfl
@[simp] theorem setF_pending (f : Fld) (v : Nat) : (setF s f v).pending = s.pending := rfl

@[simp] theorem raise_pins (f : Fld) : (raise s f).pins = s.pins := rfl
@[simp] theorem raise_pwr (f : Fld) : (raise s f).pwr = s.pwr := rfl
@[simp] theorem raise_pcie (f : Fld) : (raise s f).pcie = s.pcie := rfl
@[simp] theorem raise_boot (f : Fld) : (raise s f).boot = s.boot := rfl
@[simp] theorem raise_blanes (f : Fld) : (raise s f).blanes = s.blanes := rfl
@[simp] theorem raise_rel (f : Fld) : (raise s f).rel = s.rel := rfl
@[simp] theorem raise_par (f : Fld) : (raise s f).par = s.par := rfl
@[simp] theorem raise_crc (f : Fld) : (raise s f).crc = s.crc := rfl
@[simp] theorem raise_mains (f : Fld) : (raise s f).mains = s.mains := rfl
@[simp] theorem raise_rx (f : Fld) : (raise s f).rx = s.rx := rfl
@[simp] theorem raise_tones (f : Fld) : (raise s f).tones = s.tones := rfl
@[simp] theorem raise_toneSwap (f : Fld) : (raise s f).toneSwap = s.toneSwap := rfl
@[simp] theorem raise_lanes (f : Fld) : (raise s f).lanes = s.lanes := rfl
@[simp] theorem raise_recs (f : Fld) : (raise s f).recs = s.recs := rfl
@[simp] theorem raise_msel (f : Fld) : (raise s f).msel = s.msel := rfl
@[simp] theorem raise_frames (f : Fld) : (raise s f).frames = s.frames := rfl
@[simp] theorem raise_retain (f : Fld) : (raise s f).retain = s.retain := rfl
@[simp] theorem raise_heard (f : Fld) : (raise s f).heard = s.heard := rfl
@[simp] theorem raise_tx (f : Fld) : (raise s f).tx = s.tx := rfl
@[simp] theorem raise_jobs (f : Fld) : (raise s f).jobs = s.jobs := rfl
@[simp] theorem raise_sessions (f : Fld) : (raise s f).sessions = s.sessions := rfl
@[simp] theorem raise_quiets (f : Fld) : (raise s f).quiets = s.quiets := rfl
@[simp] theorem raise_bands (f : Fld) : (raise s f).bands = s.bands := rfl
@[simp] theorem raise_air (f : Fld) : (raise s f).air = s.air := rfl
@[simp] theorem raise_sor (f : Fld) : (raise s f).sor = s.sor := rfl
@[simp] theorem raise_lomsOnset (f : Fld) : (raise s f).lomsOnset = s.lomsOnset := rfl
@[simp] theorem raise_pm (f : Fld) : (raise s f).pm = s.pm := rfl
@[simp] theorem raise_secSeen (f : Fld) : (raise s f).secSeen = s.secSeen := rfl
@[simp] theorem raise_mesh (f : Fld) : (raise s f).mesh = s.mesh := rfl
@[simp] theorem raise_dram (f : Fld) : (raise s f).dram = s.dram := rfl
@[simp] theorem raise_streams (f : Fld) : (raise s f).streams = s.streams := rfl
@[simp] theorem raise_kqOwners (f : Fld) : (raise s f).kqOwners = s.kqOwners := rfl
@[simp] theorem raise_players (f : Fld) : (raise s f).players = s.players := rfl
@[simp] theorem raise_rings (f : Fld) : (raise s f).rings = s.rings := rfl
@[simp] theorem raise_banks (f : Fld) : (raise s f).banks = s.banks := rfl
@[simp] theorem raise_held (f : Fld) : (raise s f).held = s.held := rfl
@[simp] theorem raise_cmds (f : Fld) : (raise s f).cmds = s.cmds := rfl
@[simp] theorem raise_sec (f : Fld) : (raise s f).sec = s.sec := rfl
@[simp] theorem raise_nvs (f : Fld) : (raise s f).nvs = s.nvs := rfl
@[simp] theorem raise_rtc (f : Fld) : (raise s f).rtc = s.rtc := rfl
@[simp] theorem raise_uart (f : Fld) : (raise s f).uart = s.uart := rfl
@[simp] theorem raise_i2c (f : Fld) : (raise s f).i2c = s.i2c := rfl
@[simp] theorem raise_spi (f : Fld) : (raise s f).spi = s.spi := rfl
@[simp] theorem raise_jir (f : Fld) : (raise s f).jir = s.jir := rfl
@[simp] theorem raise_readData (f : Fld) : (raise s f).readData = s.readData := rfl
@[simp] theorem raise_posted (f : Fld) : (raise s f).posted = s.posted := rfl
@[simp] theorem raise_nextUid (f : Fld) : (raise s f).nextUid = s.nextUid := rfl
@[simp] theorem raise_nextJob (f : Fld) : (raise s f).nextJob = s.nextJob := rfl
@[simp] theorem raise_nextFid (f : Fld) : (raise s f).nextFid = s.nextFid := rfl
@[simp] theorem raise_freeCtr (f : Fld) : (raise s f).freeCtr = s.freeCtr := rfl
@[simp] theorem raise_pending (f : Fld) : (raise s f).pending = s.pending := rfl

@[simp] theorem setB_pins (f : Fld) (b : Bool) : (setB s f b).pins = s.pins := rfl
@[simp] theorem setB_pwr (f : Fld) (b : Bool) : (setB s f b).pwr = s.pwr := rfl
@[simp] theorem setB_pcie (f : Fld) (b : Bool) : (setB s f b).pcie = s.pcie := rfl
@[simp] theorem setB_boot (f : Fld) (b : Bool) : (setB s f b).boot = s.boot := rfl
@[simp] theorem setB_blanes (f : Fld) (b : Bool) : (setB s f b).blanes = s.blanes := rfl
@[simp] theorem setB_rel (f : Fld) (b : Bool) : (setB s f b).rel = s.rel := rfl
@[simp] theorem setB_par (f : Fld) (b : Bool) : (setB s f b).par = s.par := rfl
@[simp] theorem setB_crc (f : Fld) (b : Bool) : (setB s f b).crc = s.crc := rfl
@[simp] theorem setB_mains (f : Fld) (b : Bool) : (setB s f b).mains = s.mains := rfl
@[simp] theorem setB_rx (f : Fld) (b : Bool) : (setB s f b).rx = s.rx := rfl
@[simp] theorem setB_tones (f : Fld) (b : Bool) : (setB s f b).tones = s.tones := rfl
@[simp] theorem setB_toneSwap (f : Fld) (b : Bool) : (setB s f b).toneSwap = s.toneSwap := rfl
@[simp] theorem setB_lanes (f : Fld) (b : Bool) : (setB s f b).lanes = s.lanes := rfl
@[simp] theorem setB_recs (f : Fld) (b : Bool) : (setB s f b).recs = s.recs := rfl
@[simp] theorem setB_msel (f : Fld) (b : Bool) : (setB s f b).msel = s.msel := rfl
@[simp] theorem setB_frames (f : Fld) (b : Bool) : (setB s f b).frames = s.frames := rfl
@[simp] theorem setB_retain (f : Fld) (b : Bool) : (setB s f b).retain = s.retain := rfl
@[simp] theorem setB_heard (f : Fld) (b : Bool) : (setB s f b).heard = s.heard := rfl
@[simp] theorem setB_tx (f : Fld) (b : Bool) : (setB s f b).tx = s.tx := rfl
@[simp] theorem setB_jobs (f : Fld) (b : Bool) : (setB s f b).jobs = s.jobs := rfl
@[simp] theorem setB_sessions (f : Fld) (b : Bool) : (setB s f b).sessions = s.sessions := rfl
@[simp] theorem setB_quiets (f : Fld) (b : Bool) : (setB s f b).quiets = s.quiets := rfl
@[simp] theorem setB_bands (f : Fld) (b : Bool) : (setB s f b).bands = s.bands := rfl
@[simp] theorem setB_air (f : Fld) (b : Bool) : (setB s f b).air = s.air := rfl
@[simp] theorem setB_sor (f : Fld) (b : Bool) : (setB s f b).sor = s.sor := rfl
@[simp] theorem setB_lomsOnset (f : Fld) (b : Bool) : (setB s f b).lomsOnset = s.lomsOnset := rfl
@[simp] theorem setB_pm (f : Fld) (b : Bool) : (setB s f b).pm = s.pm := rfl
@[simp] theorem setB_secSeen (f : Fld) (b : Bool) : (setB s f b).secSeen = s.secSeen := rfl
@[simp] theorem setB_mesh (f : Fld) (b : Bool) : (setB s f b).mesh = s.mesh := rfl
@[simp] theorem setB_dram (f : Fld) (b : Bool) : (setB s f b).dram = s.dram := rfl
@[simp] theorem setB_streams (f : Fld) (b : Bool) : (setB s f b).streams = s.streams := rfl
@[simp] theorem setB_kqOwners (f : Fld) (b : Bool) : (setB s f b).kqOwners = s.kqOwners := rfl
@[simp] theorem setB_players (f : Fld) (b : Bool) : (setB s f b).players = s.players := rfl
@[simp] theorem setB_rings (f : Fld) (b : Bool) : (setB s f b).rings = s.rings := rfl
@[simp] theorem setB_banks (f : Fld) (b : Bool) : (setB s f b).banks = s.banks := rfl
@[simp] theorem setB_held (f : Fld) (b : Bool) : (setB s f b).held = s.held := rfl
@[simp] theorem setB_cmds (f : Fld) (b : Bool) : (setB s f b).cmds = s.cmds := rfl
@[simp] theorem setB_sec (f : Fld) (b : Bool) : (setB s f b).sec = s.sec := rfl
@[simp] theorem setB_nvs (f : Fld) (b : Bool) : (setB s f b).nvs = s.nvs := rfl
@[simp] theorem setB_rtc (f : Fld) (b : Bool) : (setB s f b).rtc = s.rtc := rfl
@[simp] theorem setB_uart (f : Fld) (b : Bool) : (setB s f b).uart = s.uart := rfl
@[simp] theorem setB_i2c (f : Fld) (b : Bool) : (setB s f b).i2c = s.i2c := rfl
@[simp] theorem setB_spi (f : Fld) (b : Bool) : (setB s f b).spi = s.spi := rfl
@[simp] theorem setB_jir (f : Fld) (b : Bool) : (setB s f b).jir = s.jir := rfl
@[simp] theorem setB_readData (f : Fld) (b : Bool) : (setB s f b).readData = s.readData := rfl
@[simp] theorem setB_posted (f : Fld) (b : Bool) : (setB s f b).posted = s.posted := rfl
@[simp] theorem setB_nextUid (f : Fld) (b : Bool) : (setB s f b).nextUid = s.nextUid := rfl
@[simp] theorem setB_nextJob (f : Fld) (b : Bool) : (setB s f b).nextJob = s.nextJob := rfl
@[simp] theorem setB_nextFid (f : Fld) (b : Bool) : (setB s f b).nextFid = s.nextFid := rfl
@[simp] theorem setB_freeCtr (f : Fld) (b : Bool) : (setB s f b).freeCtr = s.freeCtr := rfl
@[simp] theorem setB_pending (f : Fld) (b : Bool) : (setB s f b).pending = s.pending := rfl

@[simp] theorem raiseBit_pins (o i : Nat) : (raiseBit s o i).pins = s.pins := rfl
@[simp] theorem raiseBit_pwr (o i : Nat) : (raiseBit s o i).pwr = s.pwr := rfl
@[simp] theorem raiseBit_pcie (o i : Nat) : (raiseBit s o i).pcie = s.pcie := rfl
@[simp] theorem raiseBit_boot (o i : Nat) : (raiseBit s o i).boot = s.boot := rfl
@[simp] theorem raiseBit_blanes (o i : Nat) : (raiseBit s o i).blanes = s.blanes := rfl
@[simp] theorem raiseBit_rel (o i : Nat) : (raiseBit s o i).rel = s.rel := rfl
@[simp] theorem raiseBit_par (o i : Nat) : (raiseBit s o i).par = s.par := rfl
@[simp] theorem raiseBit_crc (o i : Nat) : (raiseBit s o i).crc = s.crc := rfl
@[simp] theorem raiseBit_mains (o i : Nat) : (raiseBit s o i).mains = s.mains := rfl
@[simp] theorem raiseBit_rx (o i : Nat) : (raiseBit s o i).rx = s.rx := rfl
@[simp] theorem raiseBit_tones (o i : Nat) : (raiseBit s o i).tones = s.tones := rfl
@[simp] theorem raiseBit_toneSwap (o i : Nat) : (raiseBit s o i).toneSwap = s.toneSwap := rfl
@[simp] theorem raiseBit_lanes (o i : Nat) : (raiseBit s o i).lanes = s.lanes := rfl
@[simp] theorem raiseBit_recs (o i : Nat) : (raiseBit s o i).recs = s.recs := rfl
@[simp] theorem raiseBit_msel (o i : Nat) : (raiseBit s o i).msel = s.msel := rfl
@[simp] theorem raiseBit_frames (o i : Nat) : (raiseBit s o i).frames = s.frames := rfl
@[simp] theorem raiseBit_retain (o i : Nat) : (raiseBit s o i).retain = s.retain := rfl
@[simp] theorem raiseBit_heard (o i : Nat) : (raiseBit s o i).heard = s.heard := rfl
@[simp] theorem raiseBit_tx (o i : Nat) : (raiseBit s o i).tx = s.tx := rfl
@[simp] theorem raiseBit_jobs (o i : Nat) : (raiseBit s o i).jobs = s.jobs := rfl
@[simp] theorem raiseBit_sessions (o i : Nat) : (raiseBit s o i).sessions = s.sessions := rfl
@[simp] theorem raiseBit_quiets (o i : Nat) : (raiseBit s o i).quiets = s.quiets := rfl
@[simp] theorem raiseBit_bands (o i : Nat) : (raiseBit s o i).bands = s.bands := rfl
@[simp] theorem raiseBit_air (o i : Nat) : (raiseBit s o i).air = s.air := rfl
@[simp] theorem raiseBit_sor (o i : Nat) : (raiseBit s o i).sor = s.sor := rfl
@[simp] theorem raiseBit_lomsOnset (o i : Nat) : (raiseBit s o i).lomsOnset = s.lomsOnset := rfl
@[simp] theorem raiseBit_pm (o i : Nat) : (raiseBit s o i).pm = s.pm := rfl
@[simp] theorem raiseBit_secSeen (o i : Nat) : (raiseBit s o i).secSeen = s.secSeen := rfl
@[simp] theorem raiseBit_mesh (o i : Nat) : (raiseBit s o i).mesh = s.mesh := rfl
@[simp] theorem raiseBit_dram (o i : Nat) : (raiseBit s o i).dram = s.dram := rfl
@[simp] theorem raiseBit_streams (o i : Nat) : (raiseBit s o i).streams = s.streams := rfl
@[simp] theorem raiseBit_kqOwners (o i : Nat) : (raiseBit s o i).kqOwners = s.kqOwners := rfl
@[simp] theorem raiseBit_players (o i : Nat) : (raiseBit s o i).players = s.players := rfl
@[simp] theorem raiseBit_rings (o i : Nat) : (raiseBit s o i).rings = s.rings := rfl
@[simp] theorem raiseBit_banks (o i : Nat) : (raiseBit s o i).banks = s.banks := rfl
@[simp] theorem raiseBit_held (o i : Nat) : (raiseBit s o i).held = s.held := rfl
@[simp] theorem raiseBit_cmds (o i : Nat) : (raiseBit s o i).cmds = s.cmds := rfl
@[simp] theorem raiseBit_sec (o i : Nat) : (raiseBit s o i).sec = s.sec := rfl
@[simp] theorem raiseBit_nvs (o i : Nat) : (raiseBit s o i).nvs = s.nvs := rfl
@[simp] theorem raiseBit_rtc (o i : Nat) : (raiseBit s o i).rtc = s.rtc := rfl
@[simp] theorem raiseBit_uart (o i : Nat) : (raiseBit s o i).uart = s.uart := rfl
@[simp] theorem raiseBit_i2c (o i : Nat) : (raiseBit s o i).i2c = s.i2c := rfl
@[simp] theorem raiseBit_spi (o i : Nat) : (raiseBit s o i).spi = s.spi := rfl
@[simp] theorem raiseBit_jir (o i : Nat) : (raiseBit s o i).jir = s.jir := rfl
@[simp] theorem raiseBit_readData (o i : Nat) : (raiseBit s o i).readData = s.readData := rfl
@[simp] theorem raiseBit_posted (o i : Nat) : (raiseBit s o i).posted = s.posted := rfl
@[simp] theorem raiseBit_nextUid (o i : Nat) : (raiseBit s o i).nextUid = s.nextUid := rfl
@[simp] theorem raiseBit_nextJob (o i : Nat) : (raiseBit s o i).nextJob = s.nextJob := rfl
@[simp] theorem raiseBit_nextFid (o i : Nat) : (raiseBit s o i).nextFid = s.nextFid := rfl
@[simp] theorem raiseBit_freeCtr (o i : Nat) : (raiseBit s o i).freeCtr = s.freeCtr := rfl
@[simp] theorem raiseBit_pending (o i : Nat) : (raiseBit s o i).pending = s.pending := rfl

@[simp] theorem bump_pins (o n : Nat) : (bump s o n).pins = s.pins := rfl
@[simp] theorem bump_pwr (o n : Nat) : (bump s o n).pwr = s.pwr := rfl
@[simp] theorem bump_pcie (o n : Nat) : (bump s o n).pcie = s.pcie := rfl
@[simp] theorem bump_boot (o n : Nat) : (bump s o n).boot = s.boot := rfl
@[simp] theorem bump_blanes (o n : Nat) : (bump s o n).blanes = s.blanes := rfl
@[simp] theorem bump_rel (o n : Nat) : (bump s o n).rel = s.rel := rfl
@[simp] theorem bump_par (o n : Nat) : (bump s o n).par = s.par := rfl
@[simp] theorem bump_crc (o n : Nat) : (bump s o n).crc = s.crc := rfl
@[simp] theorem bump_mains (o n : Nat) : (bump s o n).mains = s.mains := rfl
@[simp] theorem bump_rx (o n : Nat) : (bump s o n).rx = s.rx := rfl
@[simp] theorem bump_tones (o n : Nat) : (bump s o n).tones = s.tones := rfl
@[simp] theorem bump_toneSwap (o n : Nat) : (bump s o n).toneSwap = s.toneSwap := rfl
@[simp] theorem bump_lanes (o n : Nat) : (bump s o n).lanes = s.lanes := rfl
@[simp] theorem bump_recs (o n : Nat) : (bump s o n).recs = s.recs := rfl
@[simp] theorem bump_msel (o n : Nat) : (bump s o n).msel = s.msel := rfl
@[simp] theorem bump_frames (o n : Nat) : (bump s o n).frames = s.frames := rfl
@[simp] theorem bump_retain (o n : Nat) : (bump s o n).retain = s.retain := rfl
@[simp] theorem bump_heard (o n : Nat) : (bump s o n).heard = s.heard := rfl
@[simp] theorem bump_tx (o n : Nat) : (bump s o n).tx = s.tx := rfl
@[simp] theorem bump_jobs (o n : Nat) : (bump s o n).jobs = s.jobs := rfl
@[simp] theorem bump_sessions (o n : Nat) : (bump s o n).sessions = s.sessions := rfl
@[simp] theorem bump_quiets (o n : Nat) : (bump s o n).quiets = s.quiets := rfl
@[simp] theorem bump_bands (o n : Nat) : (bump s o n).bands = s.bands := rfl
@[simp] theorem bump_air (o n : Nat) : (bump s o n).air = s.air := rfl
@[simp] theorem bump_sor (o n : Nat) : (bump s o n).sor = s.sor := rfl
@[simp] theorem bump_lomsOnset (o n : Nat) : (bump s o n).lomsOnset = s.lomsOnset := rfl
@[simp] theorem bump_pm (o n : Nat) : (bump s o n).pm = s.pm := rfl
@[simp] theorem bump_secSeen (o n : Nat) : (bump s o n).secSeen = s.secSeen := rfl
@[simp] theorem bump_mesh (o n : Nat) : (bump s o n).mesh = s.mesh := rfl
@[simp] theorem bump_dram (o n : Nat) : (bump s o n).dram = s.dram := rfl
@[simp] theorem bump_streams (o n : Nat) : (bump s o n).streams = s.streams := rfl
@[simp] theorem bump_kqOwners (o n : Nat) : (bump s o n).kqOwners = s.kqOwners := rfl
@[simp] theorem bump_players (o n : Nat) : (bump s o n).players = s.players := rfl
@[simp] theorem bump_rings (o n : Nat) : (bump s o n).rings = s.rings := rfl
@[simp] theorem bump_banks (o n : Nat) : (bump s o n).banks = s.banks := rfl
@[simp] theorem bump_held (o n : Nat) : (bump s o n).held = s.held := rfl
@[simp] theorem bump_cmds (o n : Nat) : (bump s o n).cmds = s.cmds := rfl
@[simp] theorem bump_sec (o n : Nat) : (bump s o n).sec = s.sec := rfl
@[simp] theorem bump_nvs (o n : Nat) : (bump s o n).nvs = s.nvs := rfl
@[simp] theorem bump_rtc (o n : Nat) : (bump s o n).rtc = s.rtc := rfl
@[simp] theorem bump_uart (o n : Nat) : (bump s o n).uart = s.uart := rfl
@[simp] theorem bump_i2c (o n : Nat) : (bump s o n).i2c = s.i2c := rfl
@[simp] theorem bump_spi (o n : Nat) : (bump s o n).spi = s.spi := rfl
@[simp] theorem bump_jir (o n : Nat) : (bump s o n).jir = s.jir := rfl
@[simp] theorem bump_readData (o n : Nat) : (bump s o n).readData = s.readData := rfl
@[simp] theorem bump_posted (o n : Nat) : (bump s o n).posted = s.posted := rfl
@[simp] theorem bump_nextUid (o n : Nat) : (bump s o n).nextUid = s.nextUid := rfl
@[simp] theorem bump_nextJob (o n : Nat) : (bump s o n).nextJob = s.nextJob := rfl
@[simp] theorem bump_nextFid (o n : Nat) : (bump s o n).nextFid = s.nextFid := rfl
@[simp] theorem bump_freeCtr (o n : Nat) : (bump s o n).freeCtr = s.freeCtr := rfl
@[simp] theorem bump_pending (o n : Nat) : (bump s o n).pending = s.pending := rfl

@[simp] theorem bumpF_pins (f : Fld) (n : Nat) : (bumpF s f n).pins = s.pins := rfl
@[simp] theorem bumpF_pwr (f : Fld) (n : Nat) : (bumpF s f n).pwr = s.pwr := rfl
@[simp] theorem bumpF_pcie (f : Fld) (n : Nat) : (bumpF s f n).pcie = s.pcie := rfl
@[simp] theorem bumpF_boot (f : Fld) (n : Nat) : (bumpF s f n).boot = s.boot := rfl
@[simp] theorem bumpF_blanes (f : Fld) (n : Nat) : (bumpF s f n).blanes = s.blanes := rfl
@[simp] theorem bumpF_rel (f : Fld) (n : Nat) : (bumpF s f n).rel = s.rel := rfl
@[simp] theorem bumpF_par (f : Fld) (n : Nat) : (bumpF s f n).par = s.par := rfl
@[simp] theorem bumpF_crc (f : Fld) (n : Nat) : (bumpF s f n).crc = s.crc := rfl
@[simp] theorem bumpF_mains (f : Fld) (n : Nat) : (bumpF s f n).mains = s.mains := rfl
@[simp] theorem bumpF_rx (f : Fld) (n : Nat) : (bumpF s f n).rx = s.rx := rfl
@[simp] theorem bumpF_tones (f : Fld) (n : Nat) : (bumpF s f n).tones = s.tones := rfl
@[simp] theorem bumpF_toneSwap (f : Fld) (n : Nat) : (bumpF s f n).toneSwap = s.toneSwap := rfl
@[simp] theorem bumpF_lanes (f : Fld) (n : Nat) : (bumpF s f n).lanes = s.lanes := rfl
@[simp] theorem bumpF_recs (f : Fld) (n : Nat) : (bumpF s f n).recs = s.recs := rfl
@[simp] theorem bumpF_msel (f : Fld) (n : Nat) : (bumpF s f n).msel = s.msel := rfl
@[simp] theorem bumpF_frames (f : Fld) (n : Nat) : (bumpF s f n).frames = s.frames := rfl
@[simp] theorem bumpF_retain (f : Fld) (n : Nat) : (bumpF s f n).retain = s.retain := rfl
@[simp] theorem bumpF_heard (f : Fld) (n : Nat) : (bumpF s f n).heard = s.heard := rfl
@[simp] theorem bumpF_tx (f : Fld) (n : Nat) : (bumpF s f n).tx = s.tx := rfl
@[simp] theorem bumpF_jobs (f : Fld) (n : Nat) : (bumpF s f n).jobs = s.jobs := rfl
@[simp] theorem bumpF_sessions (f : Fld) (n : Nat) : (bumpF s f n).sessions = s.sessions := rfl
@[simp] theorem bumpF_quiets (f : Fld) (n : Nat) : (bumpF s f n).quiets = s.quiets := rfl
@[simp] theorem bumpF_bands (f : Fld) (n : Nat) : (bumpF s f n).bands = s.bands := rfl
@[simp] theorem bumpF_air (f : Fld) (n : Nat) : (bumpF s f n).air = s.air := rfl
@[simp] theorem bumpF_sor (f : Fld) (n : Nat) : (bumpF s f n).sor = s.sor := rfl
@[simp] theorem bumpF_lomsOnset (f : Fld) (n : Nat) : (bumpF s f n).lomsOnset = s.lomsOnset := rfl
@[simp] theorem bumpF_pm (f : Fld) (n : Nat) : (bumpF s f n).pm = s.pm := rfl
@[simp] theorem bumpF_secSeen (f : Fld) (n : Nat) : (bumpF s f n).secSeen = s.secSeen := rfl
@[simp] theorem bumpF_mesh (f : Fld) (n : Nat) : (bumpF s f n).mesh = s.mesh := rfl
@[simp] theorem bumpF_dram (f : Fld) (n : Nat) : (bumpF s f n).dram = s.dram := rfl
@[simp] theorem bumpF_streams (f : Fld) (n : Nat) : (bumpF s f n).streams = s.streams := rfl
@[simp] theorem bumpF_kqOwners (f : Fld) (n : Nat) : (bumpF s f n).kqOwners = s.kqOwners := rfl
@[simp] theorem bumpF_players (f : Fld) (n : Nat) : (bumpF s f n).players = s.players := rfl
@[simp] theorem bumpF_rings (f : Fld) (n : Nat) : (bumpF s f n).rings = s.rings := rfl
@[simp] theorem bumpF_banks (f : Fld) (n : Nat) : (bumpF s f n).banks = s.banks := rfl
@[simp] theorem bumpF_held (f : Fld) (n : Nat) : (bumpF s f n).held = s.held := rfl
@[simp] theorem bumpF_cmds (f : Fld) (n : Nat) : (bumpF s f n).cmds = s.cmds := rfl
@[simp] theorem bumpF_sec (f : Fld) (n : Nat) : (bumpF s f n).sec = s.sec := rfl
@[simp] theorem bumpF_nvs (f : Fld) (n : Nat) : (bumpF s f n).nvs = s.nvs := rfl
@[simp] theorem bumpF_rtc (f : Fld) (n : Nat) : (bumpF s f n).rtc = s.rtc := rfl
@[simp] theorem bumpF_uart (f : Fld) (n : Nat) : (bumpF s f n).uart = s.uart := rfl
@[simp] theorem bumpF_i2c (f : Fld) (n : Nat) : (bumpF s f n).i2c = s.i2c := rfl
@[simp] theorem bumpF_spi (f : Fld) (n : Nat) : (bumpF s f n).spi = s.spi := rfl
@[simp] theorem bumpF_jir (f : Fld) (n : Nat) : (bumpF s f n).jir = s.jir := rfl
@[simp] theorem bumpF_readData (f : Fld) (n : Nat) : (bumpF s f n).readData = s.readData := rfl
@[simp] theorem bumpF_posted (f : Fld) (n : Nat) : (bumpF s f n).posted = s.posted := rfl
@[simp] theorem bumpF_nextUid (f : Fld) (n : Nat) : (bumpF s f n).nextUid = s.nextUid := rfl
@[simp] theorem bumpF_nextJob (f : Fld) (n : Nat) : (bumpF s f n).nextJob = s.nextJob := rfl
@[simp] theorem bumpF_nextFid (f : Fld) (n : Nat) : (bumpF s f n).nextFid = s.nextFid := rfl
@[simp] theorem bumpF_freeCtr (f : Fld) (n : Nat) : (bumpF s f n).freeCtr = s.freeCtr := rfl
@[simp] theorem bumpF_pending (f : Fld) (n : Nat) : (bumpF s f n).pending = s.pending := rfl

@[simp] theorem resetRegs_pins (p : Nat → Bool) : (resetRegs s p).pins = s.pins := rfl
@[simp] theorem resetRegs_pwr (p : Nat → Bool) : (resetRegs s p).pwr = s.pwr := rfl
@[simp] theorem resetRegs_pcie (p : Nat → Bool) : (resetRegs s p).pcie = s.pcie := rfl
@[simp] theorem resetRegs_boot (p : Nat → Bool) : (resetRegs s p).boot = s.boot := rfl
@[simp] theorem resetRegs_blanes (p : Nat → Bool) : (resetRegs s p).blanes = s.blanes := rfl
@[simp] theorem resetRegs_rel (p : Nat → Bool) : (resetRegs s p).rel = s.rel := rfl
@[simp] theorem resetRegs_par (p : Nat → Bool) : (resetRegs s p).par = s.par := rfl
@[simp] theorem resetRegs_crc (p : Nat → Bool) : (resetRegs s p).crc = s.crc := rfl
@[simp] theorem resetRegs_mains (p : Nat → Bool) : (resetRegs s p).mains = s.mains := rfl
@[simp] theorem resetRegs_rx (p : Nat → Bool) : (resetRegs s p).rx = s.rx := rfl
@[simp] theorem resetRegs_tones (p : Nat → Bool) : (resetRegs s p).tones = s.tones := rfl
@[simp] theorem resetRegs_toneSwap (p : Nat → Bool) : (resetRegs s p).toneSwap = s.toneSwap := rfl
@[simp] theorem resetRegs_lanes (p : Nat → Bool) : (resetRegs s p).lanes = s.lanes := rfl
@[simp] theorem resetRegs_recs (p : Nat → Bool) : (resetRegs s p).recs = s.recs := rfl
@[simp] theorem resetRegs_msel (p : Nat → Bool) : (resetRegs s p).msel = s.msel := rfl
@[simp] theorem resetRegs_frames (p : Nat → Bool) : (resetRegs s p).frames = s.frames := rfl
@[simp] theorem resetRegs_retain (p : Nat → Bool) : (resetRegs s p).retain = s.retain := rfl
@[simp] theorem resetRegs_heard (p : Nat → Bool) : (resetRegs s p).heard = s.heard := rfl
@[simp] theorem resetRegs_tx (p : Nat → Bool) : (resetRegs s p).tx = s.tx := rfl
@[simp] theorem resetRegs_jobs (p : Nat → Bool) : (resetRegs s p).jobs = s.jobs := rfl
@[simp] theorem resetRegs_sessions (p : Nat → Bool) : (resetRegs s p).sessions = s.sessions := rfl
@[simp] theorem resetRegs_quiets (p : Nat → Bool) : (resetRegs s p).quiets = s.quiets := rfl
@[simp] theorem resetRegs_bands (p : Nat → Bool) : (resetRegs s p).bands = s.bands := rfl
@[simp] theorem resetRegs_air (p : Nat → Bool) : (resetRegs s p).air = s.air := rfl
@[simp] theorem resetRegs_sor (p : Nat → Bool) : (resetRegs s p).sor = s.sor := rfl
@[simp] theorem resetRegs_lomsOnset (p : Nat → Bool) : (resetRegs s p).lomsOnset = s.lomsOnset := rfl
@[simp] theorem resetRegs_pm (p : Nat → Bool) : (resetRegs s p).pm = s.pm := rfl
@[simp] theorem resetRegs_secSeen (p : Nat → Bool) : (resetRegs s p).secSeen = s.secSeen := rfl
@[simp] theorem resetRegs_mesh (p : Nat → Bool) : (resetRegs s p).mesh = s.mesh := rfl
@[simp] theorem resetRegs_dram (p : Nat → Bool) : (resetRegs s p).dram = s.dram := rfl
@[simp] theorem resetRegs_streams (p : Nat → Bool) : (resetRegs s p).streams = s.streams := rfl
@[simp] theorem resetRegs_kqOwners (p : Nat → Bool) : (resetRegs s p).kqOwners = s.kqOwners := rfl
@[simp] theorem resetRegs_players (p : Nat → Bool) : (resetRegs s p).players = s.players := rfl
@[simp] theorem resetRegs_rings (p : Nat → Bool) : (resetRegs s p).rings = s.rings := rfl
@[simp] theorem resetRegs_banks (p : Nat → Bool) : (resetRegs s p).banks = s.banks := rfl
@[simp] theorem resetRegs_held (p : Nat → Bool) : (resetRegs s p).held = s.held := rfl
@[simp] theorem resetRegs_cmds (p : Nat → Bool) : (resetRegs s p).cmds = s.cmds := rfl
@[simp] theorem resetRegs_sec (p : Nat → Bool) : (resetRegs s p).sec = s.sec := rfl
@[simp] theorem resetRegs_nvs (p : Nat → Bool) : (resetRegs s p).nvs = s.nvs := rfl
@[simp] theorem resetRegs_rtc (p : Nat → Bool) : (resetRegs s p).rtc = s.rtc := rfl
@[simp] theorem resetRegs_uart (p : Nat → Bool) : (resetRegs s p).uart = s.uart := rfl
@[simp] theorem resetRegs_i2c (p : Nat → Bool) : (resetRegs s p).i2c = s.i2c := rfl
@[simp] theorem resetRegs_spi (p : Nat → Bool) : (resetRegs s p).spi = s.spi := rfl
@[simp] theorem resetRegs_jir (p : Nat → Bool) : (resetRegs s p).jir = s.jir := rfl
@[simp] theorem resetRegs_readData (p : Nat → Bool) : (resetRegs s p).readData = s.readData := rfl
@[simp] theorem resetRegs_posted (p : Nat → Bool) : (resetRegs s p).posted = s.posted := rfl
@[simp] theorem resetRegs_nextUid (p : Nat → Bool) : (resetRegs s p).nextUid = s.nextUid := rfl
@[simp] theorem resetRegs_nextJob (p : Nat → Bool) : (resetRegs s p).nextJob = s.nextJob := rfl
@[simp] theorem resetRegs_nextFid (p : Nat → Bool) : (resetRegs s p).nextFid = s.nextFid := rfl
@[simp] theorem resetRegs_freeCtr (p : Nat → Bool) : (resetRegs s p).freeCtr = s.freeCtr := rfl
@[simp] theorem resetRegs_pending (p : Nat → Bool) : (resetRegs s p).pending = s.pending := rfl

@[simp] theorem usedFree_regs : (usedFree s).regs = s.regs := rfl
@[simp] theorem usedFree_pins : (usedFree s).pins = s.pins := rfl
@[simp] theorem usedFree_pwr : (usedFree s).pwr = s.pwr := rfl
@[simp] theorem usedFree_pcie : (usedFree s).pcie = s.pcie := rfl
@[simp] theorem usedFree_boot : (usedFree s).boot = s.boot := rfl
@[simp] theorem usedFree_blanes : (usedFree s).blanes = s.blanes := rfl
@[simp] theorem usedFree_rel : (usedFree s).rel = s.rel := rfl
@[simp] theorem usedFree_par : (usedFree s).par = s.par := rfl
@[simp] theorem usedFree_crc : (usedFree s).crc = s.crc := rfl
@[simp] theorem usedFree_mains : (usedFree s).mains = s.mains := rfl
@[simp] theorem usedFree_rx : (usedFree s).rx = s.rx := rfl
@[simp] theorem usedFree_tones : (usedFree s).tones = s.tones := rfl
@[simp] theorem usedFree_toneSwap : (usedFree s).toneSwap = s.toneSwap := rfl
@[simp] theorem usedFree_lanes : (usedFree s).lanes = s.lanes := rfl
@[simp] theorem usedFree_recs : (usedFree s).recs = s.recs := rfl
@[simp] theorem usedFree_msel : (usedFree s).msel = s.msel := rfl
@[simp] theorem usedFree_frames : (usedFree s).frames = s.frames := rfl
@[simp] theorem usedFree_retain : (usedFree s).retain = s.retain := rfl
@[simp] theorem usedFree_heard : (usedFree s).heard = s.heard := rfl
@[simp] theorem usedFree_tx : (usedFree s).tx = s.tx := rfl
@[simp] theorem usedFree_jobs : (usedFree s).jobs = s.jobs := rfl
@[simp] theorem usedFree_sessions : (usedFree s).sessions = s.sessions := rfl
@[simp] theorem usedFree_quiets : (usedFree s).quiets = s.quiets := rfl
@[simp] theorem usedFree_bands : (usedFree s).bands = s.bands := rfl
@[simp] theorem usedFree_air : (usedFree s).air = s.air := rfl
@[simp] theorem usedFree_sor : (usedFree s).sor = s.sor := rfl
@[simp] theorem usedFree_lomsOnset : (usedFree s).lomsOnset = s.lomsOnset := rfl
@[simp] theorem usedFree_pm : (usedFree s).pm = s.pm := rfl
@[simp] theorem usedFree_secSeen : (usedFree s).secSeen = s.secSeen := rfl
@[simp] theorem usedFree_mesh : (usedFree s).mesh = s.mesh := rfl
@[simp] theorem usedFree_dram : (usedFree s).dram = s.dram := rfl
@[simp] theorem usedFree_streams : (usedFree s).streams = s.streams := rfl
@[simp] theorem usedFree_kqOwners : (usedFree s).kqOwners = s.kqOwners := rfl
@[simp] theorem usedFree_players : (usedFree s).players = s.players := rfl
@[simp] theorem usedFree_rings : (usedFree s).rings = s.rings := rfl
@[simp] theorem usedFree_banks : (usedFree s).banks = s.banks := rfl
@[simp] theorem usedFree_held : (usedFree s).held = s.held := rfl
@[simp] theorem usedFree_cmds : (usedFree s).cmds = s.cmds := rfl
@[simp] theorem usedFree_sec : (usedFree s).sec = s.sec := rfl
@[simp] theorem usedFree_nvs : (usedFree s).nvs = s.nvs := rfl
@[simp] theorem usedFree_rtc : (usedFree s).rtc = s.rtc := rfl
@[simp] theorem usedFree_uart : (usedFree s).uart = s.uart := rfl
@[simp] theorem usedFree_i2c : (usedFree s).i2c = s.i2c := rfl
@[simp] theorem usedFree_spi : (usedFree s).spi = s.spi := rfl
@[simp] theorem usedFree_jir : (usedFree s).jir = s.jir := rfl
@[simp] theorem usedFree_readData : (usedFree s).readData = s.readData := rfl
@[simp] theorem usedFree_posted : (usedFree s).posted = s.posted := rfl
@[simp] theorem usedFree_nextUid : (usedFree s).nextUid = s.nextUid := rfl
@[simp] theorem usedFree_nextJob : (usedFree s).nextJob = s.nextJob := rfl
@[simp] theorem usedFree_nextFid : (usedFree s).nextFid = s.nextFid := rfl
@[simp] theorem usedFree_pending : (usedFree s).pending = s.pending := rfl

@[simp] theorem post_regs (o : Output) : (post s o).regs = s.regs := rfl
@[simp] theorem post_pins (o : Output) : (post s o).pins = s.pins := rfl
@[simp] theorem post_pwr (o : Output) : (post s o).pwr = s.pwr := rfl
@[simp] theorem post_pcie (o : Output) : (post s o).pcie = s.pcie := rfl
@[simp] theorem post_boot (o : Output) : (post s o).boot = s.boot := rfl
@[simp] theorem post_blanes (o : Output) : (post s o).blanes = s.blanes := rfl
@[simp] theorem post_rel (o : Output) : (post s o).rel = s.rel := rfl
@[simp] theorem post_par (o : Output) : (post s o).par = s.par := rfl
@[simp] theorem post_crc (o : Output) : (post s o).crc = s.crc := rfl
@[simp] theorem post_mains (o : Output) : (post s o).mains = s.mains := rfl
@[simp] theorem post_rx (o : Output) : (post s o).rx = s.rx := rfl
@[simp] theorem post_tones (o : Output) : (post s o).tones = s.tones := rfl
@[simp] theorem post_toneSwap (o : Output) : (post s o).toneSwap = s.toneSwap := rfl
@[simp] theorem post_lanes (o : Output) : (post s o).lanes = s.lanes := rfl
@[simp] theorem post_recs (o : Output) : (post s o).recs = s.recs := rfl
@[simp] theorem post_msel (o : Output) : (post s o).msel = s.msel := rfl
@[simp] theorem post_frames (o : Output) : (post s o).frames = s.frames := rfl
@[simp] theorem post_retain (o : Output) : (post s o).retain = s.retain := rfl
@[simp] theorem post_heard (o : Output) : (post s o).heard = s.heard := rfl
@[simp] theorem post_tx (o : Output) : (post s o).tx = s.tx := rfl
@[simp] theorem post_jobs (o : Output) : (post s o).jobs = s.jobs := rfl
@[simp] theorem post_sessions (o : Output) : (post s o).sessions = s.sessions := rfl
@[simp] theorem post_quiets (o : Output) : (post s o).quiets = s.quiets := rfl
@[simp] theorem post_bands (o : Output) : (post s o).bands = s.bands := rfl
@[simp] theorem post_air (o : Output) : (post s o).air = s.air := rfl
@[simp] theorem post_sor (o : Output) : (post s o).sor = s.sor := rfl
@[simp] theorem post_lomsOnset (o : Output) : (post s o).lomsOnset = s.lomsOnset := rfl
@[simp] theorem post_pm (o : Output) : (post s o).pm = s.pm := rfl
@[simp] theorem post_secSeen (o : Output) : (post s o).secSeen = s.secSeen := rfl
@[simp] theorem post_mesh (o : Output) : (post s o).mesh = s.mesh := rfl
@[simp] theorem post_dram (o : Output) : (post s o).dram = s.dram := rfl
@[simp] theorem post_streams (o : Output) : (post s o).streams = s.streams := rfl
@[simp] theorem post_kqOwners (o : Output) : (post s o).kqOwners = s.kqOwners := rfl
@[simp] theorem post_players (o : Output) : (post s o).players = s.players := rfl
@[simp] theorem post_rings (o : Output) : (post s o).rings = s.rings := rfl
@[simp] theorem post_banks (o : Output) : (post s o).banks = s.banks := rfl
@[simp] theorem post_held (o : Output) : (post s o).held = s.held := rfl
@[simp] theorem post_cmds (o : Output) : (post s o).cmds = s.cmds := rfl
@[simp] theorem post_sec (o : Output) : (post s o).sec = s.sec := rfl
@[simp] theorem post_nvs (o : Output) : (post s o).nvs = s.nvs := rfl
@[simp] theorem post_rtc (o : Output) : (post s o).rtc = s.rtc := rfl
@[simp] theorem post_uart (o : Output) : (post s o).uart = s.uart := rfl
@[simp] theorem post_i2c (o : Output) : (post s o).i2c = s.i2c := rfl
@[simp] theorem post_spi (o : Output) : (post s o).spi = s.spi := rfl
@[simp] theorem post_jir (o : Output) : (post s o).jir = s.jir := rfl
@[simp] theorem post_readData (o : Output) : (post s o).readData = s.readData := rfl
@[simp] theorem post_nextUid (o : Output) : (post s o).nextUid = s.nextUid := rfl
@[simp] theorem post_nextJob (o : Output) : (post s o).nextJob = s.nextJob := rfl
@[simp] theorem post_nextFid (o : Output) : (post s o).nextFid = s.nextFid := rfl
@[simp] theorem post_freeCtr (o : Output) : (post s o).freeCtr = s.freeCtr := rfl
@[simp] theorem post_pending (o : Output) : (post s o).pending = s.pending := rfl

@[simp] theorem setRing_regs (fn r : Nat) (x : Ring) : (setRing s fn r x).regs = s.regs := rfl
@[simp] theorem setRing_pins (fn r : Nat) (x : Ring) : (setRing s fn r x).pins = s.pins := rfl
@[simp] theorem setRing_pwr (fn r : Nat) (x : Ring) : (setRing s fn r x).pwr = s.pwr := rfl
@[simp] theorem setRing_pcie (fn r : Nat) (x : Ring) : (setRing s fn r x).pcie = s.pcie := rfl
@[simp] theorem setRing_boot (fn r : Nat) (x : Ring) : (setRing s fn r x).boot = s.boot := rfl
@[simp] theorem setRing_blanes (fn r : Nat) (x : Ring) : (setRing s fn r x).blanes = s.blanes := rfl
@[simp] theorem setRing_rel (fn r : Nat) (x : Ring) : (setRing s fn r x).rel = s.rel := rfl
@[simp] theorem setRing_par (fn r : Nat) (x : Ring) : (setRing s fn r x).par = s.par := rfl
@[simp] theorem setRing_crc (fn r : Nat) (x : Ring) : (setRing s fn r x).crc = s.crc := rfl
@[simp] theorem setRing_mains (fn r : Nat) (x : Ring) : (setRing s fn r x).mains = s.mains := rfl
@[simp] theorem setRing_rx (fn r : Nat) (x : Ring) : (setRing s fn r x).rx = s.rx := rfl
@[simp] theorem setRing_tones (fn r : Nat) (x : Ring) : (setRing s fn r x).tones = s.tones := rfl
@[simp] theorem setRing_toneSwap (fn r : Nat) (x : Ring) : (setRing s fn r x).toneSwap = s.toneSwap := rfl
@[simp] theorem setRing_lanes (fn r : Nat) (x : Ring) : (setRing s fn r x).lanes = s.lanes := rfl
@[simp] theorem setRing_recs (fn r : Nat) (x : Ring) : (setRing s fn r x).recs = s.recs := rfl
@[simp] theorem setRing_msel (fn r : Nat) (x : Ring) : (setRing s fn r x).msel = s.msel := rfl
@[simp] theorem setRing_frames (fn r : Nat) (x : Ring) : (setRing s fn r x).frames = s.frames := rfl
@[simp] theorem setRing_retain (fn r : Nat) (x : Ring) : (setRing s fn r x).retain = s.retain := rfl
@[simp] theorem setRing_heard (fn r : Nat) (x : Ring) : (setRing s fn r x).heard = s.heard := rfl
@[simp] theorem setRing_tx (fn r : Nat) (x : Ring) : (setRing s fn r x).tx = s.tx := rfl
@[simp] theorem setRing_jobs (fn r : Nat) (x : Ring) : (setRing s fn r x).jobs = s.jobs := rfl
@[simp] theorem setRing_sessions (fn r : Nat) (x : Ring) : (setRing s fn r x).sessions = s.sessions := rfl
@[simp] theorem setRing_quiets (fn r : Nat) (x : Ring) : (setRing s fn r x).quiets = s.quiets := rfl
@[simp] theorem setRing_bands (fn r : Nat) (x : Ring) : (setRing s fn r x).bands = s.bands := rfl
@[simp] theorem setRing_air (fn r : Nat) (x : Ring) : (setRing s fn r x).air = s.air := rfl
@[simp] theorem setRing_sor (fn r : Nat) (x : Ring) : (setRing s fn r x).sor = s.sor := rfl
@[simp] theorem setRing_lomsOnset (fn r : Nat) (x : Ring) : (setRing s fn r x).lomsOnset = s.lomsOnset := rfl
@[simp] theorem setRing_pm (fn r : Nat) (x : Ring) : (setRing s fn r x).pm = s.pm := rfl
@[simp] theorem setRing_secSeen (fn r : Nat) (x : Ring) : (setRing s fn r x).secSeen = s.secSeen := rfl
@[simp] theorem setRing_mesh (fn r : Nat) (x : Ring) : (setRing s fn r x).mesh = s.mesh := rfl
@[simp] theorem setRing_dram (fn r : Nat) (x : Ring) : (setRing s fn r x).dram = s.dram := rfl
@[simp] theorem setRing_streams (fn r : Nat) (x : Ring) : (setRing s fn r x).streams = s.streams := rfl
@[simp] theorem setRing_kqOwners (fn r : Nat) (x : Ring) : (setRing s fn r x).kqOwners = s.kqOwners := rfl
@[simp] theorem setRing_players (fn r : Nat) (x : Ring) : (setRing s fn r x).players = s.players := rfl
@[simp] theorem setRing_banks (fn r : Nat) (x : Ring) : (setRing s fn r x).banks = s.banks := rfl
@[simp] theorem setRing_held (fn r : Nat) (x : Ring) : (setRing s fn r x).held = s.held := rfl
@[simp] theorem setRing_cmds (fn r : Nat) (x : Ring) : (setRing s fn r x).cmds = s.cmds := rfl
@[simp] theorem setRing_sec (fn r : Nat) (x : Ring) : (setRing s fn r x).sec = s.sec := rfl
@[simp] theorem setRing_nvs (fn r : Nat) (x : Ring) : (setRing s fn r x).nvs = s.nvs := rfl
@[simp] theorem setRing_rtc (fn r : Nat) (x : Ring) : (setRing s fn r x).rtc = s.rtc := rfl
@[simp] theorem setRing_uart (fn r : Nat) (x : Ring) : (setRing s fn r x).uart = s.uart := rfl
@[simp] theorem setRing_i2c (fn r : Nat) (x : Ring) : (setRing s fn r x).i2c = s.i2c := rfl
@[simp] theorem setRing_spi (fn r : Nat) (x : Ring) : (setRing s fn r x).spi = s.spi := rfl
@[simp] theorem setRing_jir (fn r : Nat) (x : Ring) : (setRing s fn r x).jir = s.jir := rfl
@[simp] theorem setRing_readData (fn r : Nat) (x : Ring) : (setRing s fn r x).readData = s.readData := rfl
@[simp] theorem setRing_posted (fn r : Nat) (x : Ring) : (setRing s fn r x).posted = s.posted := rfl
@[simp] theorem setRing_nextUid (fn r : Nat) (x : Ring) : (setRing s fn r x).nextUid = s.nextUid := rfl
@[simp] theorem setRing_nextJob (fn r : Nat) (x : Ring) : (setRing s fn r x).nextJob = s.nextJob := rfl
@[simp] theorem setRing_nextFid (fn r : Nat) (x : Ring) : (setRing s fn r x).nextFid = s.nextFid := rfl
@[simp] theorem setRing_freeCtr (fn r : Nat) (x : Ring) : (setRing s fn r x).freeCtr = s.freeCtr := rfl
@[simp] theorem setRing_pending (fn r : Nat) (x : Ring) : (setRing s fn r x).pending = s.pending := rfl

@[simp] theorem setBank_regs (fn c : Nat) (l : List BankRec) : (setBank s fn c l).regs = s.regs := rfl
@[simp] theorem setBank_pins (fn c : Nat) (l : List BankRec) : (setBank s fn c l).pins = s.pins := rfl
@[simp] theorem setBank_pwr (fn c : Nat) (l : List BankRec) : (setBank s fn c l).pwr = s.pwr := rfl
@[simp] theorem setBank_pcie (fn c : Nat) (l : List BankRec) : (setBank s fn c l).pcie = s.pcie := rfl
@[simp] theorem setBank_boot (fn c : Nat) (l : List BankRec) : (setBank s fn c l).boot = s.boot := rfl
@[simp] theorem setBank_blanes (fn c : Nat) (l : List BankRec) : (setBank s fn c l).blanes = s.blanes := rfl
@[simp] theorem setBank_rel (fn c : Nat) (l : List BankRec) : (setBank s fn c l).rel = s.rel := rfl
@[simp] theorem setBank_par (fn c : Nat) (l : List BankRec) : (setBank s fn c l).par = s.par := rfl
@[simp] theorem setBank_crc (fn c : Nat) (l : List BankRec) : (setBank s fn c l).crc = s.crc := rfl
@[simp] theorem setBank_mains (fn c : Nat) (l : List BankRec) : (setBank s fn c l).mains = s.mains := rfl
@[simp] theorem setBank_rx (fn c : Nat) (l : List BankRec) : (setBank s fn c l).rx = s.rx := rfl
@[simp] theorem setBank_tones (fn c : Nat) (l : List BankRec) : (setBank s fn c l).tones = s.tones := rfl
@[simp] theorem setBank_toneSwap (fn c : Nat) (l : List BankRec) : (setBank s fn c l).toneSwap = s.toneSwap := rfl
@[simp] theorem setBank_lanes (fn c : Nat) (l : List BankRec) : (setBank s fn c l).lanes = s.lanes := rfl
@[simp] theorem setBank_recs (fn c : Nat) (l : List BankRec) : (setBank s fn c l).recs = s.recs := rfl
@[simp] theorem setBank_msel (fn c : Nat) (l : List BankRec) : (setBank s fn c l).msel = s.msel := rfl
@[simp] theorem setBank_frames (fn c : Nat) (l : List BankRec) : (setBank s fn c l).frames = s.frames := rfl
@[simp] theorem setBank_retain (fn c : Nat) (l : List BankRec) : (setBank s fn c l).retain = s.retain := rfl
@[simp] theorem setBank_heard (fn c : Nat) (l : List BankRec) : (setBank s fn c l).heard = s.heard := rfl
@[simp] theorem setBank_tx (fn c : Nat) (l : List BankRec) : (setBank s fn c l).tx = s.tx := rfl
@[simp] theorem setBank_jobs (fn c : Nat) (l : List BankRec) : (setBank s fn c l).jobs = s.jobs := rfl
@[simp] theorem setBank_sessions (fn c : Nat) (l : List BankRec) : (setBank s fn c l).sessions = s.sessions := rfl
@[simp] theorem setBank_quiets (fn c : Nat) (l : List BankRec) : (setBank s fn c l).quiets = s.quiets := rfl
@[simp] theorem setBank_bands (fn c : Nat) (l : List BankRec) : (setBank s fn c l).bands = s.bands := rfl
@[simp] theorem setBank_air (fn c : Nat) (l : List BankRec) : (setBank s fn c l).air = s.air := rfl
@[simp] theorem setBank_sor (fn c : Nat) (l : List BankRec) : (setBank s fn c l).sor = s.sor := rfl
@[simp] theorem setBank_lomsOnset (fn c : Nat) (l : List BankRec) : (setBank s fn c l).lomsOnset = s.lomsOnset := rfl
@[simp] theorem setBank_pm (fn c : Nat) (l : List BankRec) : (setBank s fn c l).pm = s.pm := rfl
@[simp] theorem setBank_secSeen (fn c : Nat) (l : List BankRec) : (setBank s fn c l).secSeen = s.secSeen := rfl
@[simp] theorem setBank_mesh (fn c : Nat) (l : List BankRec) : (setBank s fn c l).mesh = s.mesh := rfl
@[simp] theorem setBank_dram (fn c : Nat) (l : List BankRec) : (setBank s fn c l).dram = s.dram := rfl
@[simp] theorem setBank_streams (fn c : Nat) (l : List BankRec) : (setBank s fn c l).streams = s.streams := rfl
@[simp] theorem setBank_kqOwners (fn c : Nat) (l : List BankRec) : (setBank s fn c l).kqOwners = s.kqOwners := rfl
@[simp] theorem setBank_players (fn c : Nat) (l : List BankRec) : (setBank s fn c l).players = s.players := rfl
@[simp] theorem setBank_rings (fn c : Nat) (l : List BankRec) : (setBank s fn c l).rings = s.rings := rfl
@[simp] theorem setBank_held (fn c : Nat) (l : List BankRec) : (setBank s fn c l).held = s.held := rfl
@[simp] theorem setBank_cmds (fn c : Nat) (l : List BankRec) : (setBank s fn c l).cmds = s.cmds := rfl
@[simp] theorem setBank_sec (fn c : Nat) (l : List BankRec) : (setBank s fn c l).sec = s.sec := rfl
@[simp] theorem setBank_nvs (fn c : Nat) (l : List BankRec) : (setBank s fn c l).nvs = s.nvs := rfl
@[simp] theorem setBank_rtc (fn c : Nat) (l : List BankRec) : (setBank s fn c l).rtc = s.rtc := rfl
@[simp] theorem setBank_uart (fn c : Nat) (l : List BankRec) : (setBank s fn c l).uart = s.uart := rfl
@[simp] theorem setBank_i2c (fn c : Nat) (l : List BankRec) : (setBank s fn c l).i2c = s.i2c := rfl
@[simp] theorem setBank_spi (fn c : Nat) (l : List BankRec) : (setBank s fn c l).spi = s.spi := rfl
@[simp] theorem setBank_jir (fn c : Nat) (l : List BankRec) : (setBank s fn c l).jir = s.jir := rfl
@[simp] theorem setBank_readData (fn c : Nat) (l : List BankRec) : (setBank s fn c l).readData = s.readData := rfl
@[simp] theorem setBank_posted (fn c : Nat) (l : List BankRec) : (setBank s fn c l).posted = s.posted := rfl
@[simp] theorem setBank_nextUid (fn c : Nat) (l : List BankRec) : (setBank s fn c l).nextUid = s.nextUid := rfl
@[simp] theorem setBank_nextJob (fn c : Nat) (l : List BankRec) : (setBank s fn c l).nextJob = s.nextJob := rfl
@[simp] theorem setBank_nextFid (fn c : Nat) (l : List BankRec) : (setBank s fn c l).nextFid = s.nextFid := rfl
@[simp] theorem setBank_freeCtr (fn c : Nat) (l : List BankRec) : (setBank s fn c l).freeCtr = s.freeCtr := rfl
@[simp] theorem setBank_pending (fn c : Nat) (l : List BankRec) : (setBank s fn c l).pending = s.pending := rfl

@[simp] theorem setTx_regs (p : Nat) (t : TxPh) : (setTx s p t).regs = s.regs := rfl
@[simp] theorem setTx_pins (p : Nat) (t : TxPh) : (setTx s p t).pins = s.pins := rfl
@[simp] theorem setTx_pwr (p : Nat) (t : TxPh) : (setTx s p t).pwr = s.pwr := rfl
@[simp] theorem setTx_pcie (p : Nat) (t : TxPh) : (setTx s p t).pcie = s.pcie := rfl
@[simp] theorem setTx_boot (p : Nat) (t : TxPh) : (setTx s p t).boot = s.boot := rfl
@[simp] theorem setTx_blanes (p : Nat) (t : TxPh) : (setTx s p t).blanes = s.blanes := rfl
@[simp] theorem setTx_rel (p : Nat) (t : TxPh) : (setTx s p t).rel = s.rel := rfl
@[simp] theorem setTx_par (p : Nat) (t : TxPh) : (setTx s p t).par = s.par := rfl
@[simp] theorem setTx_crc (p : Nat) (t : TxPh) : (setTx s p t).crc = s.crc := rfl
@[simp] theorem setTx_mains (p : Nat) (t : TxPh) : (setTx s p t).mains = s.mains := rfl
@[simp] theorem setTx_rx (p : Nat) (t : TxPh) : (setTx s p t).rx = s.rx := rfl
@[simp] theorem setTx_tones (p : Nat) (t : TxPh) : (setTx s p t).tones = s.tones := rfl
@[simp] theorem setTx_toneSwap (p : Nat) (t : TxPh) : (setTx s p t).toneSwap = s.toneSwap := rfl
@[simp] theorem setTx_lanes (p : Nat) (t : TxPh) : (setTx s p t).lanes = s.lanes := rfl
@[simp] theorem setTx_recs (p : Nat) (t : TxPh) : (setTx s p t).recs = s.recs := rfl
@[simp] theorem setTx_msel (p : Nat) (t : TxPh) : (setTx s p t).msel = s.msel := rfl
@[simp] theorem setTx_frames (p : Nat) (t : TxPh) : (setTx s p t).frames = s.frames := rfl
@[simp] theorem setTx_retain (p : Nat) (t : TxPh) : (setTx s p t).retain = s.retain := rfl
@[simp] theorem setTx_heard (p : Nat) (t : TxPh) : (setTx s p t).heard = s.heard := rfl
@[simp] theorem setTx_jobs (p : Nat) (t : TxPh) : (setTx s p t).jobs = s.jobs := rfl
@[simp] theorem setTx_sessions (p : Nat) (t : TxPh) : (setTx s p t).sessions = s.sessions := rfl
@[simp] theorem setTx_quiets (p : Nat) (t : TxPh) : (setTx s p t).quiets = s.quiets := rfl
@[simp] theorem setTx_bands (p : Nat) (t : TxPh) : (setTx s p t).bands = s.bands := rfl
@[simp] theorem setTx_air (p : Nat) (t : TxPh) : (setTx s p t).air = s.air := rfl
@[simp] theorem setTx_sor (p : Nat) (t : TxPh) : (setTx s p t).sor = s.sor := rfl
@[simp] theorem setTx_lomsOnset (p : Nat) (t : TxPh) : (setTx s p t).lomsOnset = s.lomsOnset := rfl
@[simp] theorem setTx_pm (p : Nat) (t : TxPh) : (setTx s p t).pm = s.pm := rfl
@[simp] theorem setTx_secSeen (p : Nat) (t : TxPh) : (setTx s p t).secSeen = s.secSeen := rfl
@[simp] theorem setTx_mesh (p : Nat) (t : TxPh) : (setTx s p t).mesh = s.mesh := rfl
@[simp] theorem setTx_dram (p : Nat) (t : TxPh) : (setTx s p t).dram = s.dram := rfl
@[simp] theorem setTx_streams (p : Nat) (t : TxPh) : (setTx s p t).streams = s.streams := rfl
@[simp] theorem setTx_kqOwners (p : Nat) (t : TxPh) : (setTx s p t).kqOwners = s.kqOwners := rfl
@[simp] theorem setTx_players (p : Nat) (t : TxPh) : (setTx s p t).players = s.players := rfl
@[simp] theorem setTx_rings (p : Nat) (t : TxPh) : (setTx s p t).rings = s.rings := rfl
@[simp] theorem setTx_banks (p : Nat) (t : TxPh) : (setTx s p t).banks = s.banks := rfl
@[simp] theorem setTx_held (p : Nat) (t : TxPh) : (setTx s p t).held = s.held := rfl
@[simp] theorem setTx_cmds (p : Nat) (t : TxPh) : (setTx s p t).cmds = s.cmds := rfl
@[simp] theorem setTx_sec (p : Nat) (t : TxPh) : (setTx s p t).sec = s.sec := rfl
@[simp] theorem setTx_nvs (p : Nat) (t : TxPh) : (setTx s p t).nvs = s.nvs := rfl
@[simp] theorem setTx_rtc (p : Nat) (t : TxPh) : (setTx s p t).rtc = s.rtc := rfl
@[simp] theorem setTx_uart (p : Nat) (t : TxPh) : (setTx s p t).uart = s.uart := rfl
@[simp] theorem setTx_i2c (p : Nat) (t : TxPh) : (setTx s p t).i2c = s.i2c := rfl
@[simp] theorem setTx_spi (p : Nat) (t : TxPh) : (setTx s p t).spi = s.spi := rfl
@[simp] theorem setTx_jir (p : Nat) (t : TxPh) : (setTx s p t).jir = s.jir := rfl
@[simp] theorem setTx_readData (p : Nat) (t : TxPh) : (setTx s p t).readData = s.readData := rfl
@[simp] theorem setTx_posted (p : Nat) (t : TxPh) : (setTx s p t).posted = s.posted := rfl
@[simp] theorem setTx_nextUid (p : Nat) (t : TxPh) : (setTx s p t).nextUid = s.nextUid := rfl
@[simp] theorem setTx_nextJob (p : Nat) (t : TxPh) : (setTx s p t).nextJob = s.nextJob := rfl
@[simp] theorem setTx_nextFid (p : Nat) (t : TxPh) : (setTx s p t).nextFid = s.nextFid := rfl
@[simp] theorem setTx_freeCtr (p : Nat) (t : TxPh) : (setTx s p t).freeCtr = s.freeCtr := rfl
@[simp] theorem setTx_pending (p : Nat) (t : TxPh) : (setTx s p t).pending = s.pending := rfl

@[simp] theorem rewritten_regs (o : Nat) : (rewritten s o).regs = s.regs := rfl
@[simp] theorem rewritten_pins (o : Nat) : (rewritten s o).pins = s.pins := rfl
@[simp] theorem rewritten_pwr (o : Nat) : (rewritten s o).pwr = s.pwr := rfl
@[simp] theorem rewritten_pcie (o : Nat) : (rewritten s o).pcie = s.pcie := rfl
@[simp] theorem rewritten_boot (o : Nat) : (rewritten s o).boot = s.boot := rfl
@[simp] theorem rewritten_blanes (o : Nat) : (rewritten s o).blanes = s.blanes := rfl
@[simp] theorem rewritten_rel (o : Nat) : (rewritten s o).rel = s.rel := rfl
@[simp] theorem rewritten_crc (o : Nat) : (rewritten s o).crc = s.crc := rfl
@[simp] theorem rewritten_mains (o : Nat) : (rewritten s o).mains = s.mains := rfl
@[simp] theorem rewritten_rx (o : Nat) : (rewritten s o).rx = s.rx := rfl
@[simp] theorem rewritten_tones (o : Nat) : (rewritten s o).tones = s.tones := rfl
@[simp] theorem rewritten_toneSwap (o : Nat) : (rewritten s o).toneSwap = s.toneSwap := rfl
@[simp] theorem rewritten_lanes (o : Nat) : (rewritten s o).lanes = s.lanes := rfl
@[simp] theorem rewritten_recs (o : Nat) : (rewritten s o).recs = s.recs := rfl
@[simp] theorem rewritten_msel (o : Nat) : (rewritten s o).msel = s.msel := rfl
@[simp] theorem rewritten_frames (o : Nat) : (rewritten s o).frames = s.frames := rfl
@[simp] theorem rewritten_retain (o : Nat) : (rewritten s o).retain = s.retain := rfl
@[simp] theorem rewritten_heard (o : Nat) : (rewritten s o).heard = s.heard := rfl
@[simp] theorem rewritten_tx (o : Nat) : (rewritten s o).tx = s.tx := rfl
@[simp] theorem rewritten_jobs (o : Nat) : (rewritten s o).jobs = s.jobs := rfl
@[simp] theorem rewritten_sessions (o : Nat) : (rewritten s o).sessions = s.sessions := rfl
@[simp] theorem rewritten_quiets (o : Nat) : (rewritten s o).quiets = s.quiets := rfl
@[simp] theorem rewritten_bands (o : Nat) : (rewritten s o).bands = s.bands := rfl
@[simp] theorem rewritten_air (o : Nat) : (rewritten s o).air = s.air := rfl
@[simp] theorem rewritten_sor (o : Nat) : (rewritten s o).sor = s.sor := rfl
@[simp] theorem rewritten_lomsOnset (o : Nat) : (rewritten s o).lomsOnset = s.lomsOnset := rfl
@[simp] theorem rewritten_pm (o : Nat) : (rewritten s o).pm = s.pm := rfl
@[simp] theorem rewritten_secSeen (o : Nat) : (rewritten s o).secSeen = s.secSeen := rfl
@[simp] theorem rewritten_mesh (o : Nat) : (rewritten s o).mesh = s.mesh := rfl
@[simp] theorem rewritten_dram (o : Nat) : (rewritten s o).dram = s.dram := rfl
@[simp] theorem rewritten_streams (o : Nat) : (rewritten s o).streams = s.streams := rfl
@[simp] theorem rewritten_kqOwners (o : Nat) : (rewritten s o).kqOwners = s.kqOwners := rfl
@[simp] theorem rewritten_players (o : Nat) : (rewritten s o).players = s.players := rfl
@[simp] theorem rewritten_rings (o : Nat) : (rewritten s o).rings = s.rings := rfl
@[simp] theorem rewritten_banks (o : Nat) : (rewritten s o).banks = s.banks := rfl
@[simp] theorem rewritten_held (o : Nat) : (rewritten s o).held = s.held := rfl
@[simp] theorem rewritten_cmds (o : Nat) : (rewritten s o).cmds = s.cmds := rfl
@[simp] theorem rewritten_sec (o : Nat) : (rewritten s o).sec = s.sec := rfl
@[simp] theorem rewritten_nvs (o : Nat) : (rewritten s o).nvs = s.nvs := rfl
@[simp] theorem rewritten_rtc (o : Nat) : (rewritten s o).rtc = s.rtc := rfl
@[simp] theorem rewritten_uart (o : Nat) : (rewritten s o).uart = s.uart := rfl
@[simp] theorem rewritten_i2c (o : Nat) : (rewritten s o).i2c = s.i2c := rfl
@[simp] theorem rewritten_spi (o : Nat) : (rewritten s o).spi = s.spi := rfl
@[simp] theorem rewritten_jir (o : Nat) : (rewritten s o).jir = s.jir := rfl
@[simp] theorem rewritten_readData (o : Nat) : (rewritten s o).readData = s.readData := rfl
@[simp] theorem rewritten_posted (o : Nat) : (rewritten s o).posted = s.posted := rfl
@[simp] theorem rewritten_nextUid (o : Nat) : (rewritten s o).nextUid = s.nextUid := rfl
@[simp] theorem rewritten_nextJob (o : Nat) : (rewritten s o).nextJob = s.nextJob := rfl
@[simp] theorem rewritten_nextFid (o : Nat) : (rewritten s o).nextFid = s.nextFid := rfl
@[simp] theorem rewritten_freeCtr (o : Nat) : (rewritten s o).freeCtr = s.freeCtr := rfl
@[simp] theorem rewritten_pending (o : Nat) : (rewritten s o).pending = s.pending := rfl

@[simp] theorem endCmd_regs (u : Nat) : (endCmd s u).regs = s.regs := rfl
@[simp] theorem endCmd_pins (u : Nat) : (endCmd s u).pins = s.pins := rfl
@[simp] theorem endCmd_pwr (u : Nat) : (endCmd s u).pwr = s.pwr := rfl
@[simp] theorem endCmd_pcie (u : Nat) : (endCmd s u).pcie = s.pcie := rfl
@[simp] theorem endCmd_boot (u : Nat) : (endCmd s u).boot = s.boot := rfl
@[simp] theorem endCmd_blanes (u : Nat) : (endCmd s u).blanes = s.blanes := rfl
@[simp] theorem endCmd_rel (u : Nat) : (endCmd s u).rel = s.rel := rfl
@[simp] theorem endCmd_par (u : Nat) : (endCmd s u).par = s.par := rfl
@[simp] theorem endCmd_crc (u : Nat) : (endCmd s u).crc = s.crc := rfl
@[simp] theorem endCmd_mains (u : Nat) : (endCmd s u).mains = s.mains := rfl
@[simp] theorem endCmd_rx (u : Nat) : (endCmd s u).rx = s.rx := rfl
@[simp] theorem endCmd_tones (u : Nat) : (endCmd s u).tones = s.tones := rfl
@[simp] theorem endCmd_toneSwap (u : Nat) : (endCmd s u).toneSwap = s.toneSwap := rfl
@[simp] theorem endCmd_lanes (u : Nat) : (endCmd s u).lanes = s.lanes := rfl
@[simp] theorem endCmd_recs (u : Nat) : (endCmd s u).recs = s.recs := rfl
@[simp] theorem endCmd_msel (u : Nat) : (endCmd s u).msel = s.msel := rfl
@[simp] theorem endCmd_frames (u : Nat) : (endCmd s u).frames = s.frames := rfl
@[simp] theorem endCmd_retain (u : Nat) : (endCmd s u).retain = s.retain := rfl
@[simp] theorem endCmd_heard (u : Nat) : (endCmd s u).heard = s.heard := rfl
@[simp] theorem endCmd_tx (u : Nat) : (endCmd s u).tx = s.tx := rfl
@[simp] theorem endCmd_jobs (u : Nat) : (endCmd s u).jobs = s.jobs := rfl
@[simp] theorem endCmd_sessions (u : Nat) : (endCmd s u).sessions = s.sessions := rfl
@[simp] theorem endCmd_quiets (u : Nat) : (endCmd s u).quiets = s.quiets := rfl
@[simp] theorem endCmd_bands (u : Nat) : (endCmd s u).bands = s.bands := rfl
@[simp] theorem endCmd_air (u : Nat) : (endCmd s u).air = s.air := rfl
@[simp] theorem endCmd_sor (u : Nat) : (endCmd s u).sor = s.sor := rfl
@[simp] theorem endCmd_lomsOnset (u : Nat) : (endCmd s u).lomsOnset = s.lomsOnset := rfl
@[simp] theorem endCmd_pm (u : Nat) : (endCmd s u).pm = s.pm := rfl
@[simp] theorem endCmd_secSeen (u : Nat) : (endCmd s u).secSeen = s.secSeen := rfl
@[simp] theorem endCmd_mesh (u : Nat) : (endCmd s u).mesh = s.mesh := rfl
@[simp] theorem endCmd_dram (u : Nat) : (endCmd s u).dram = s.dram := rfl
@[simp] theorem endCmd_streams (u : Nat) : (endCmd s u).streams = s.streams := rfl
@[simp] theorem endCmd_kqOwners (u : Nat) : (endCmd s u).kqOwners = s.kqOwners := rfl
@[simp] theorem endCmd_players (u : Nat) : (endCmd s u).players = s.players := rfl
@[simp] theorem endCmd_rings (u : Nat) : (endCmd s u).rings = s.rings := rfl
@[simp] theorem endCmd_banks (u : Nat) : (endCmd s u).banks = s.banks := rfl
@[simp] theorem endCmd_held (u : Nat) : (endCmd s u).held = s.held := rfl
@[simp] theorem endCmd_sec (u : Nat) : (endCmd s u).sec = s.sec := rfl
@[simp] theorem endCmd_nvs (u : Nat) : (endCmd s u).nvs = s.nvs := rfl
@[simp] theorem endCmd_rtc (u : Nat) : (endCmd s u).rtc = s.rtc := rfl
@[simp] theorem endCmd_uart (u : Nat) : (endCmd s u).uart = s.uart := rfl
@[simp] theorem endCmd_i2c (u : Nat) : (endCmd s u).i2c = s.i2c := rfl
@[simp] theorem endCmd_spi (u : Nat) : (endCmd s u).spi = s.spi := rfl
@[simp] theorem endCmd_jir (u : Nat) : (endCmd s u).jir = s.jir := rfl
@[simp] theorem endCmd_readData (u : Nat) : (endCmd s u).readData = s.readData := rfl
@[simp] theorem endCmd_posted (u : Nat) : (endCmd s u).posted = s.posted := rfl
@[simp] theorem endCmd_nextUid (u : Nat) : (endCmd s u).nextUid = s.nextUid := rfl
@[simp] theorem endCmd_nextJob (u : Nat) : (endCmd s u).nextJob = s.nextJob := rfl
@[simp] theorem endCmd_nextFid (u : Nat) : (endCmd s u).nextFid = s.nextFid := rfl
@[simp] theorem endCmd_freeCtr (u : Nat) : (endCmd s u).freeCtr = s.freeCtr := rfl
@[simp] theorem endCmd_pending (u : Nat) : (endCmd s u).pending = s.pending := rfl

@[simp] theorem updCmd_regs (u : Nat) (f : Cmd → Cmd) : (updCmd s u f).regs = s.regs := rfl
@[simp] theorem updCmd_pins (u : Nat) (f : Cmd → Cmd) : (updCmd s u f).pins = s.pins := rfl
@[simp] theorem updCmd_pwr (u : Nat) (f : Cmd → Cmd) : (updCmd s u f).pwr = s.pwr := rfl
@[simp] theorem updCmd_pcie (u : Nat) (f : Cmd → Cmd) : (updCmd s u f).pcie = s.pcie := rfl
@[simp] theorem updCmd_boot (u : Nat) (f : Cmd → Cmd) : (updCmd s u f).boot = s.boot := rfl
@[simp] theorem updCmd_blanes (u : Nat) (f : Cmd → Cmd) : (updCmd s u f).blanes = s.blanes := rfl
@[simp] theorem updCmd_rel (u : Nat) (f : Cmd → Cmd) : (updCmd s u f).rel = s.rel := rfl
@[simp] theorem updCmd_par (u : Nat) (f : Cmd → Cmd) : (updCmd s u f).par = s.par := rfl
@[simp] theorem updCmd_crc (u : Nat) (f : Cmd → Cmd) : (updCmd s u f).crc = s.crc := rfl
@[simp] theorem updCmd_mains (u : Nat) (f : Cmd → Cmd) : (updCmd s u f).mains = s.mains := rfl
@[simp] theorem updCmd_rx (u : Nat) (f : Cmd → Cmd) : (updCmd s u f).rx = s.rx := rfl
@[simp] theorem updCmd_tones (u : Nat) (f : Cmd → Cmd) : (updCmd s u f).tones = s.tones := rfl
@[simp] theorem updCmd_toneSwap (u : Nat) (f : Cmd → Cmd) : (updCmd s u f).toneSwap = s.toneSwap := rfl
@[simp] theorem updCmd_lanes (u : Nat) (f : Cmd → Cmd) : (updCmd s u f).lanes = s.lanes := rfl
@[simp] theorem updCmd_recs (u : Nat) (f : Cmd → Cmd) : (updCmd s u f).recs = s.recs := rfl
@[simp] theorem updCmd_msel (u : Nat) (f : Cmd → Cmd) : (updCmd s u f).msel = s.msel := rfl
@[simp] theorem updCmd_frames (u : Nat) (f : Cmd → Cmd) : (updCmd s u f).frames = s.frames := rfl
@[simp] theorem updCmd_retain (u : Nat) (f : Cmd → Cmd) : (updCmd s u f).retain = s.retain := rfl
@[simp] theorem updCmd_heard (u : Nat) (f : Cmd → Cmd) : (updCmd s u f).heard = s.heard := rfl
@[simp] theorem updCmd_tx (u : Nat) (f : Cmd → Cmd) : (updCmd s u f).tx = s.tx := rfl
@[simp] theorem updCmd_jobs (u : Nat) (f : Cmd → Cmd) : (updCmd s u f).jobs = s.jobs := rfl
@[simp] theorem updCmd_sessions (u : Nat) (f : Cmd → Cmd) : (updCmd s u f).sessions = s.sessions := rfl
@[simp] theorem updCmd_quiets (u : Nat) (f : Cmd → Cmd) : (updCmd s u f).quiets = s.quiets := rfl
@[simp] theorem updCmd_bands (u : Nat) (f : Cmd → Cmd) : (updCmd s u f).bands = s.bands := rfl
@[simp] theorem updCmd_air (u : Nat) (f : Cmd → Cmd) : (updCmd s u f).air = s.air := rfl
@[simp] theorem updCmd_sor (u : Nat) (f : Cmd → Cmd) : (updCmd s u f).sor = s.sor := rfl
@[simp] theorem updCmd_lomsOnset (u : Nat) (f : Cmd → Cmd) : (updCmd s u f).lomsOnset = s.lomsOnset := rfl
@[simp] theorem updCmd_pm (u : Nat) (f : Cmd → Cmd) : (updCmd s u f).pm = s.pm := rfl
@[simp] theorem updCmd_secSeen (u : Nat) (f : Cmd → Cmd) : (updCmd s u f).secSeen = s.secSeen := rfl
@[simp] theorem updCmd_mesh (u : Nat) (f : Cmd → Cmd) : (updCmd s u f).mesh = s.mesh := rfl
@[simp] theorem updCmd_dram (u : Nat) (f : Cmd → Cmd) : (updCmd s u f).dram = s.dram := rfl
@[simp] theorem updCmd_streams (u : Nat) (f : Cmd → Cmd) : (updCmd s u f).streams = s.streams := rfl
@[simp] theorem updCmd_kqOwners (u : Nat) (f : Cmd → Cmd) : (updCmd s u f).kqOwners = s.kqOwners := rfl
@[simp] theorem updCmd_players (u : Nat) (f : Cmd → Cmd) : (updCmd s u f).players = s.players := rfl
@[simp] theorem updCmd_rings (u : Nat) (f : Cmd → Cmd) : (updCmd s u f).rings = s.rings := rfl
@[simp] theorem updCmd_banks (u : Nat) (f : Cmd → Cmd) : (updCmd s u f).banks = s.banks := rfl
@[simp] theorem updCmd_held (u : Nat) (f : Cmd → Cmd) : (updCmd s u f).held = s.held := rfl
@[simp] theorem updCmd_sec (u : Nat) (f : Cmd → Cmd) : (updCmd s u f).sec = s.sec := rfl
@[simp] theorem updCmd_nvs (u : Nat) (f : Cmd → Cmd) : (updCmd s u f).nvs = s.nvs := rfl
@[simp] theorem updCmd_rtc (u : Nat) (f : Cmd → Cmd) : (updCmd s u f).rtc = s.rtc := rfl
@[simp] theorem updCmd_uart (u : Nat) (f : Cmd → Cmd) : (updCmd s u f).uart = s.uart := rfl
@[simp] theorem updCmd_i2c (u : Nat) (f : Cmd → Cmd) : (updCmd s u f).i2c = s.i2c := rfl
@[simp] theorem updCmd_spi (u : Nat) (f : Cmd → Cmd) : (updCmd s u f).spi = s.spi := rfl
@[simp] theorem updCmd_jir (u : Nat) (f : Cmd → Cmd) : (updCmd s u f).jir = s.jir := rfl
@[simp] theorem updCmd_readData (u : Nat) (f : Cmd → Cmd) : (updCmd s u f).readData = s.readData := rfl
@[simp] theorem updCmd_posted (u : Nat) (f : Cmd → Cmd) : (updCmd s u f).posted = s.posted := rfl
@[simp] theorem updCmd_nextUid (u : Nat) (f : Cmd → Cmd) : (updCmd s u f).nextUid = s.nextUid := rfl
@[simp] theorem updCmd_nextJob (u : Nat) (f : Cmd → Cmd) : (updCmd s u f).nextJob = s.nextJob := rfl
@[simp] theorem updCmd_nextFid (u : Nat) (f : Cmd → Cmd) : (updCmd s u f).nextFid = s.nextFid := rfl
@[simp] theorem updCmd_freeCtr (u : Nat) (f : Cmd → Cmd) : (updCmd s u f).freeCtr = s.freeCtr := rfl
@[simp] theorem updCmd_pending (u : Nat) (f : Cmd → Cmd) : (updCmd s u f).pending = s.pending := rfl

@[simp] theorem setMph_regs (p : Nat) (x : MPhase) : (setMph s p x).regs = s.regs := rfl
@[simp] theorem setMph_pins (p : Nat) (x : MPhase) : (setMph s p x).pins = s.pins := rfl
@[simp] theorem setMph_pwr (p : Nat) (x : MPhase) : (setMph s p x).pwr = s.pwr := rfl
@[simp] theorem setMph_pcie (p : Nat) (x : MPhase) : (setMph s p x).pcie = s.pcie := rfl
@[simp] theorem setMph_boot (p : Nat) (x : MPhase) : (setMph s p x).boot = s.boot := rfl
@[simp] theorem setMph_blanes (p : Nat) (x : MPhase) : (setMph s p x).blanes = s.blanes := rfl
@[simp] theorem setMph_rel (p : Nat) (x : MPhase) : (setMph s p x).rel = s.rel := rfl
@[simp] theorem setMph_par (p : Nat) (x : MPhase) : (setMph s p x).par = s.par := rfl
@[simp] theorem setMph_crc (p : Nat) (x : MPhase) : (setMph s p x).crc = s.crc := rfl
@[simp] theorem setMph_rx (p : Nat) (x : MPhase) : (setMph s p x).rx = s.rx := rfl
@[simp] theorem setMph_tones (p : Nat) (x : MPhase) : (setMph s p x).tones = s.tones := rfl
@[simp] theorem setMph_toneSwap (p : Nat) (x : MPhase) : (setMph s p x).toneSwap = s.toneSwap := rfl
@[simp] theorem setMph_lanes (p : Nat) (x : MPhase) : (setMph s p x).lanes = s.lanes := rfl
@[simp] theorem setMph_recs (p : Nat) (x : MPhase) : (setMph s p x).recs = s.recs := rfl
@[simp] theorem setMph_msel (p : Nat) (x : MPhase) : (setMph s p x).msel = s.msel := rfl
@[simp] theorem setMph_frames (p : Nat) (x : MPhase) : (setMph s p x).frames = s.frames := rfl
@[simp] theorem setMph_retain (p : Nat) (x : MPhase) : (setMph s p x).retain = s.retain := rfl
@[simp] theorem setMph_heard (p : Nat) (x : MPhase) : (setMph s p x).heard = s.heard := rfl
@[simp] theorem setMph_tx (p : Nat) (x : MPhase) : (setMph s p x).tx = s.tx := rfl
@[simp] theorem setMph_jobs (p : Nat) (x : MPhase) : (setMph s p x).jobs = s.jobs := rfl
@[simp] theorem setMph_sessions (p : Nat) (x : MPhase) : (setMph s p x).sessions = s.sessions := rfl
@[simp] theorem setMph_quiets (p : Nat) (x : MPhase) : (setMph s p x).quiets = s.quiets := rfl
@[simp] theorem setMph_bands (p : Nat) (x : MPhase) : (setMph s p x).bands = s.bands := rfl
@[simp] theorem setMph_air (p : Nat) (x : MPhase) : (setMph s p x).air = s.air := rfl
@[simp] theorem setMph_sor (p : Nat) (x : MPhase) : (setMph s p x).sor = s.sor := rfl
@[simp] theorem setMph_lomsOnset (p : Nat) (x : MPhase) : (setMph s p x).lomsOnset = s.lomsOnset := rfl
@[simp] theorem setMph_pm (p : Nat) (x : MPhase) : (setMph s p x).pm = s.pm := rfl
@[simp] theorem setMph_secSeen (p : Nat) (x : MPhase) : (setMph s p x).secSeen = s.secSeen := rfl
@[simp] theorem setMph_mesh (p : Nat) (x : MPhase) : (setMph s p x).mesh = s.mesh := rfl
@[simp] theorem setMph_dram (p : Nat) (x : MPhase) : (setMph s p x).dram = s.dram := rfl
@[simp] theorem setMph_streams (p : Nat) (x : MPhase) : (setMph s p x).streams = s.streams := rfl
@[simp] theorem setMph_kqOwners (p : Nat) (x : MPhase) : (setMph s p x).kqOwners = s.kqOwners := rfl
@[simp] theorem setMph_players (p : Nat) (x : MPhase) : (setMph s p x).players = s.players := rfl
@[simp] theorem setMph_rings (p : Nat) (x : MPhase) : (setMph s p x).rings = s.rings := rfl
@[simp] theorem setMph_banks (p : Nat) (x : MPhase) : (setMph s p x).banks = s.banks := rfl
@[simp] theorem setMph_held (p : Nat) (x : MPhase) : (setMph s p x).held = s.held := rfl
@[simp] theorem setMph_cmds (p : Nat) (x : MPhase) : (setMph s p x).cmds = s.cmds := rfl
@[simp] theorem setMph_sec (p : Nat) (x : MPhase) : (setMph s p x).sec = s.sec := rfl
@[simp] theorem setMph_nvs (p : Nat) (x : MPhase) : (setMph s p x).nvs = s.nvs := rfl
@[simp] theorem setMph_rtc (p : Nat) (x : MPhase) : (setMph s p x).rtc = s.rtc := rfl
@[simp] theorem setMph_uart (p : Nat) (x : MPhase) : (setMph s p x).uart = s.uart := rfl
@[simp] theorem setMph_i2c (p : Nat) (x : MPhase) : (setMph s p x).i2c = s.i2c := rfl
@[simp] theorem setMph_spi (p : Nat) (x : MPhase) : (setMph s p x).spi = s.spi := rfl
@[simp] theorem setMph_jir (p : Nat) (x : MPhase) : (setMph s p x).jir = s.jir := rfl
@[simp] theorem setMph_readData (p : Nat) (x : MPhase) : (setMph s p x).readData = s.readData := rfl
@[simp] theorem setMph_posted (p : Nat) (x : MPhase) : (setMph s p x).posted = s.posted := rfl
@[simp] theorem setMph_nextUid (p : Nat) (x : MPhase) : (setMph s p x).nextUid = s.nextUid := rfl
@[simp] theorem setMph_nextJob (p : Nat) (x : MPhase) : (setMph s p x).nextJob = s.nextJob := rfl
@[simp] theorem setMph_nextFid (p : Nat) (x : MPhase) : (setMph s p x).nextFid = s.nextFid := rfl
@[simp] theorem setMph_freeCtr (p : Nat) (x : MPhase) : (setMph s p x).freeCtr = s.freeCtr := rfl
@[simp] theorem setMph_pending (p : Nat) (x : MPhase) : (setMph s p x).pending = s.pending := rfl

@[simp] theorem updMains_regs (f : Mains → Mains) : (updMains s f).regs = s.regs := rfl
@[simp] theorem updMains_pins (f : Mains → Mains) : (updMains s f).pins = s.pins := rfl
@[simp] theorem updMains_pwr (f : Mains → Mains) : (updMains s f).pwr = s.pwr := rfl
@[simp] theorem updMains_pcie (f : Mains → Mains) : (updMains s f).pcie = s.pcie := rfl
@[simp] theorem updMains_boot (f : Mains → Mains) : (updMains s f).boot = s.boot := rfl
@[simp] theorem updMains_blanes (f : Mains → Mains) : (updMains s f).blanes = s.blanes := rfl
@[simp] theorem updMains_rel (f : Mains → Mains) : (updMains s f).rel = s.rel := rfl
@[simp] theorem updMains_par (f : Mains → Mains) : (updMains s f).par = s.par := rfl
@[simp] theorem updMains_crc (f : Mains → Mains) : (updMains s f).crc = s.crc := rfl
@[simp] theorem updMains_rx (f : Mains → Mains) : (updMains s f).rx = s.rx := rfl
@[simp] theorem updMains_tones (f : Mains → Mains) : (updMains s f).tones = s.tones := rfl
@[simp] theorem updMains_toneSwap (f : Mains → Mains) : (updMains s f).toneSwap = s.toneSwap := rfl
@[simp] theorem updMains_lanes (f : Mains → Mains) : (updMains s f).lanes = s.lanes := rfl
@[simp] theorem updMains_recs (f : Mains → Mains) : (updMains s f).recs = s.recs := rfl
@[simp] theorem updMains_msel (f : Mains → Mains) : (updMains s f).msel = s.msel := rfl
@[simp] theorem updMains_frames (f : Mains → Mains) : (updMains s f).frames = s.frames := rfl
@[simp] theorem updMains_retain (f : Mains → Mains) : (updMains s f).retain = s.retain := rfl
@[simp] theorem updMains_heard (f : Mains → Mains) : (updMains s f).heard = s.heard := rfl
@[simp] theorem updMains_tx (f : Mains → Mains) : (updMains s f).tx = s.tx := rfl
@[simp] theorem updMains_jobs (f : Mains → Mains) : (updMains s f).jobs = s.jobs := rfl
@[simp] theorem updMains_sessions (f : Mains → Mains) : (updMains s f).sessions = s.sessions := rfl
@[simp] theorem updMains_quiets (f : Mains → Mains) : (updMains s f).quiets = s.quiets := rfl
@[simp] theorem updMains_bands (f : Mains → Mains) : (updMains s f).bands = s.bands := rfl
@[simp] theorem updMains_air (f : Mains → Mains) : (updMains s f).air = s.air := rfl
@[simp] theorem updMains_sor (f : Mains → Mains) : (updMains s f).sor = s.sor := rfl
@[simp] theorem updMains_lomsOnset (f : Mains → Mains) : (updMains s f).lomsOnset = s.lomsOnset := rfl
@[simp] theorem updMains_pm (f : Mains → Mains) : (updMains s f).pm = s.pm := rfl
@[simp] theorem updMains_secSeen (f : Mains → Mains) : (updMains s f).secSeen = s.secSeen := rfl
@[simp] theorem updMains_mesh (f : Mains → Mains) : (updMains s f).mesh = s.mesh := rfl
@[simp] theorem updMains_dram (f : Mains → Mains) : (updMains s f).dram = s.dram := rfl
@[simp] theorem updMains_streams (f : Mains → Mains) : (updMains s f).streams = s.streams := rfl
@[simp] theorem updMains_kqOwners (f : Mains → Mains) : (updMains s f).kqOwners = s.kqOwners := rfl
@[simp] theorem updMains_players (f : Mains → Mains) : (updMains s f).players = s.players := rfl
@[simp] theorem updMains_rings (f : Mains → Mains) : (updMains s f).rings = s.rings := rfl
@[simp] theorem updMains_banks (f : Mains → Mains) : (updMains s f).banks = s.banks := rfl
@[simp] theorem updMains_held (f : Mains → Mains) : (updMains s f).held = s.held := rfl
@[simp] theorem updMains_cmds (f : Mains → Mains) : (updMains s f).cmds = s.cmds := rfl
@[simp] theorem updMains_sec (f : Mains → Mains) : (updMains s f).sec = s.sec := rfl
@[simp] theorem updMains_nvs (f : Mains → Mains) : (updMains s f).nvs = s.nvs := rfl
@[simp] theorem updMains_rtc (f : Mains → Mains) : (updMains s f).rtc = s.rtc := rfl
@[simp] theorem updMains_uart (f : Mains → Mains) : (updMains s f).uart = s.uart := rfl
@[simp] theorem updMains_i2c (f : Mains → Mains) : (updMains s f).i2c = s.i2c := rfl
@[simp] theorem updMains_spi (f : Mains → Mains) : (updMains s f).spi = s.spi := rfl
@[simp] theorem updMains_jir (f : Mains → Mains) : (updMains s f).jir = s.jir := rfl
@[simp] theorem updMains_readData (f : Mains → Mains) : (updMains s f).readData = s.readData := rfl
@[simp] theorem updMains_posted (f : Mains → Mains) : (updMains s f).posted = s.posted := rfl
@[simp] theorem updMains_nextUid (f : Mains → Mains) : (updMains s f).nextUid = s.nextUid := rfl
@[simp] theorem updMains_nextJob (f : Mains → Mains) : (updMains s f).nextJob = s.nextJob := rfl
@[simp] theorem updMains_nextFid (f : Mains → Mains) : (updMains s f).nextFid = s.nextFid := rfl
@[simp] theorem updMains_freeCtr (f : Mains → Mains) : (updMains s f).freeCtr = s.freeCtr := rfl
@[simp] theorem updMains_pending (f : Mains → Mains) : (updMains s f).pending = s.pending := rfl

@[simp] theorem setRx_regs (i : Nat) (x : RxIn) : (setRx s i x).regs = s.regs := rfl
@[simp] theorem setRx_pins (i : Nat) (x : RxIn) : (setRx s i x).pins = s.pins := rfl
@[simp] theorem setRx_pwr (i : Nat) (x : RxIn) : (setRx s i x).pwr = s.pwr := rfl
@[simp] theorem setRx_pcie (i : Nat) (x : RxIn) : (setRx s i x).pcie = s.pcie := rfl
@[simp] theorem setRx_boot (i : Nat) (x : RxIn) : (setRx s i x).boot = s.boot := rfl
@[simp] theorem setRx_blanes (i : Nat) (x : RxIn) : (setRx s i x).blanes = s.blanes := rfl
@[simp] theorem setRx_rel (i : Nat) (x : RxIn) : (setRx s i x).rel = s.rel := rfl
@[simp] theorem setRx_par (i : Nat) (x : RxIn) : (setRx s i x).par = s.par := rfl
@[simp] theorem setRx_crc (i : Nat) (x : RxIn) : (setRx s i x).crc = s.crc := rfl
@[simp] theorem setRx_mains (i : Nat) (x : RxIn) : (setRx s i x).mains = s.mains := rfl
@[simp] theorem setRx_tones (i : Nat) (x : RxIn) : (setRx s i x).tones = s.tones := rfl
@[simp] theorem setRx_toneSwap (i : Nat) (x : RxIn) : (setRx s i x).toneSwap = s.toneSwap := rfl
@[simp] theorem setRx_lanes (i : Nat) (x : RxIn) : (setRx s i x).lanes = s.lanes := rfl
@[simp] theorem setRx_recs (i : Nat) (x : RxIn) : (setRx s i x).recs = s.recs := rfl
@[simp] theorem setRx_msel (i : Nat) (x : RxIn) : (setRx s i x).msel = s.msel := rfl
@[simp] theorem setRx_frames (i : Nat) (x : RxIn) : (setRx s i x).frames = s.frames := rfl
@[simp] theorem setRx_retain (i : Nat) (x : RxIn) : (setRx s i x).retain = s.retain := rfl
@[simp] theorem setRx_heard (i : Nat) (x : RxIn) : (setRx s i x).heard = s.heard := rfl
@[simp] theorem setRx_tx (i : Nat) (x : RxIn) : (setRx s i x).tx = s.tx := rfl
@[simp] theorem setRx_jobs (i : Nat) (x : RxIn) : (setRx s i x).jobs = s.jobs := rfl
@[simp] theorem setRx_sessions (i : Nat) (x : RxIn) : (setRx s i x).sessions = s.sessions := rfl
@[simp] theorem setRx_quiets (i : Nat) (x : RxIn) : (setRx s i x).quiets = s.quiets := rfl
@[simp] theorem setRx_bands (i : Nat) (x : RxIn) : (setRx s i x).bands = s.bands := rfl
@[simp] theorem setRx_air (i : Nat) (x : RxIn) : (setRx s i x).air = s.air := rfl
@[simp] theorem setRx_sor (i : Nat) (x : RxIn) : (setRx s i x).sor = s.sor := rfl
@[simp] theorem setRx_lomsOnset (i : Nat) (x : RxIn) : (setRx s i x).lomsOnset = s.lomsOnset := rfl
@[simp] theorem setRx_pm (i : Nat) (x : RxIn) : (setRx s i x).pm = s.pm := rfl
@[simp] theorem setRx_secSeen (i : Nat) (x : RxIn) : (setRx s i x).secSeen = s.secSeen := rfl
@[simp] theorem setRx_mesh (i : Nat) (x : RxIn) : (setRx s i x).mesh = s.mesh := rfl
@[simp] theorem setRx_dram (i : Nat) (x : RxIn) : (setRx s i x).dram = s.dram := rfl
@[simp] theorem setRx_streams (i : Nat) (x : RxIn) : (setRx s i x).streams = s.streams := rfl
@[simp] theorem setRx_kqOwners (i : Nat) (x : RxIn) : (setRx s i x).kqOwners = s.kqOwners := rfl
@[simp] theorem setRx_players (i : Nat) (x : RxIn) : (setRx s i x).players = s.players := rfl
@[simp] theorem setRx_rings (i : Nat) (x : RxIn) : (setRx s i x).rings = s.rings := rfl
@[simp] theorem setRx_banks (i : Nat) (x : RxIn) : (setRx s i x).banks = s.banks := rfl
@[simp] theorem setRx_held (i : Nat) (x : RxIn) : (setRx s i x).held = s.held := rfl
@[simp] theorem setRx_cmds (i : Nat) (x : RxIn) : (setRx s i x).cmds = s.cmds := rfl
@[simp] theorem setRx_sec (i : Nat) (x : RxIn) : (setRx s i x).sec = s.sec := rfl
@[simp] theorem setRx_nvs (i : Nat) (x : RxIn) : (setRx s i x).nvs = s.nvs := rfl
@[simp] theorem setRx_rtc (i : Nat) (x : RxIn) : (setRx s i x).rtc = s.rtc := rfl
@[simp] theorem setRx_uart (i : Nat) (x : RxIn) : (setRx s i x).uart = s.uart := rfl
@[simp] theorem setRx_i2c (i : Nat) (x : RxIn) : (setRx s i x).i2c = s.i2c := rfl
@[simp] theorem setRx_spi (i : Nat) (x : RxIn) : (setRx s i x).spi = s.spi := rfl
@[simp] theorem setRx_jir (i : Nat) (x : RxIn) : (setRx s i x).jir = s.jir := rfl
@[simp] theorem setRx_readData (i : Nat) (x : RxIn) : (setRx s i x).readData = s.readData := rfl
@[simp] theorem setRx_posted (i : Nat) (x : RxIn) : (setRx s i x).posted = s.posted := rfl
@[simp] theorem setRx_nextUid (i : Nat) (x : RxIn) : (setRx s i x).nextUid = s.nextUid := rfl
@[simp] theorem setRx_nextJob (i : Nat) (x : RxIn) : (setRx s i x).nextJob = s.nextJob := rfl
@[simp] theorem setRx_nextFid (i : Nat) (x : RxIn) : (setRx s i x).nextFid = s.nextFid := rfl
@[simp] theorem setRx_freeCtr (i : Nat) (x : RxIn) : (setRx s i x).freeCtr = s.freeCtr := rfl
@[simp] theorem setRx_pending (i : Nat) (x : RxIn) : (setRx s i x).pending = s.pending := rfl

@[simp] theorem updRx_regs (i : Nat) (f : RxIn → RxIn) : (updRx s i f).regs = s.regs := rfl
@[simp] theorem updRx_pins (i : Nat) (f : RxIn → RxIn) : (updRx s i f).pins = s.pins := rfl
@[simp] theorem updRx_pwr (i : Nat) (f : RxIn → RxIn) : (updRx s i f).pwr = s.pwr := rfl
@[simp] theorem updRx_pcie (i : Nat) (f : RxIn → RxIn) : (updRx s i f).pcie = s.pcie := rfl
@[simp] theorem updRx_boot (i : Nat) (f : RxIn → RxIn) : (updRx s i f).boot = s.boot := rfl
@[simp] theorem updRx_blanes (i : Nat) (f : RxIn → RxIn) : (updRx s i f).blanes = s.blanes := rfl
@[simp] theorem updRx_rel (i : Nat) (f : RxIn → RxIn) : (updRx s i f).rel = s.rel := rfl
@[simp] theorem updRx_par (i : Nat) (f : RxIn → RxIn) : (updRx s i f).par = s.par := rfl
@[simp] theorem updRx_crc (i : Nat) (f : RxIn → RxIn) : (updRx s i f).crc = s.crc := rfl
@[simp] theorem updRx_mains (i : Nat) (f : RxIn → RxIn) : (updRx s i f).mains = s.mains := rfl
@[simp] theorem updRx_tones (i : Nat) (f : RxIn → RxIn) : (updRx s i f).tones = s.tones := rfl
@[simp] theorem updRx_toneSwap (i : Nat) (f : RxIn → RxIn) : (updRx s i f).toneSwap = s.toneSwap := rfl
@[simp] theorem updRx_lanes (i : Nat) (f : RxIn → RxIn) : (updRx s i f).lanes = s.lanes := rfl
@[simp] theorem updRx_recs (i : Nat) (f : RxIn → RxIn) : (updRx s i f).recs = s.recs := rfl
@[simp] theorem updRx_msel (i : Nat) (f : RxIn → RxIn) : (updRx s i f).msel = s.msel := rfl
@[simp] theorem updRx_frames (i : Nat) (f : RxIn → RxIn) : (updRx s i f).frames = s.frames := rfl
@[simp] theorem updRx_retain (i : Nat) (f : RxIn → RxIn) : (updRx s i f).retain = s.retain := rfl
@[simp] theorem updRx_heard (i : Nat) (f : RxIn → RxIn) : (updRx s i f).heard = s.heard := rfl
@[simp] theorem updRx_tx (i : Nat) (f : RxIn → RxIn) : (updRx s i f).tx = s.tx := rfl
@[simp] theorem updRx_jobs (i : Nat) (f : RxIn → RxIn) : (updRx s i f).jobs = s.jobs := rfl
@[simp] theorem updRx_sessions (i : Nat) (f : RxIn → RxIn) : (updRx s i f).sessions = s.sessions := rfl
@[simp] theorem updRx_quiets (i : Nat) (f : RxIn → RxIn) : (updRx s i f).quiets = s.quiets := rfl
@[simp] theorem updRx_bands (i : Nat) (f : RxIn → RxIn) : (updRx s i f).bands = s.bands := rfl
@[simp] theorem updRx_air (i : Nat) (f : RxIn → RxIn) : (updRx s i f).air = s.air := rfl
@[simp] theorem updRx_sor (i : Nat) (f : RxIn → RxIn) : (updRx s i f).sor = s.sor := rfl
@[simp] theorem updRx_lomsOnset (i : Nat) (f : RxIn → RxIn) : (updRx s i f).lomsOnset = s.lomsOnset := rfl
@[simp] theorem updRx_pm (i : Nat) (f : RxIn → RxIn) : (updRx s i f).pm = s.pm := rfl
@[simp] theorem updRx_secSeen (i : Nat) (f : RxIn → RxIn) : (updRx s i f).secSeen = s.secSeen := rfl
@[simp] theorem updRx_mesh (i : Nat) (f : RxIn → RxIn) : (updRx s i f).mesh = s.mesh := rfl
@[simp] theorem updRx_dram (i : Nat) (f : RxIn → RxIn) : (updRx s i f).dram = s.dram := rfl
@[simp] theorem updRx_streams (i : Nat) (f : RxIn → RxIn) : (updRx s i f).streams = s.streams := rfl
@[simp] theorem updRx_kqOwners (i : Nat) (f : RxIn → RxIn) : (updRx s i f).kqOwners = s.kqOwners := rfl
@[simp] theorem updRx_players (i : Nat) (f : RxIn → RxIn) : (updRx s i f).players = s.players := rfl
@[simp] theorem updRx_rings (i : Nat) (f : RxIn → RxIn) : (updRx s i f).rings = s.rings := rfl
@[simp] theorem updRx_banks (i : Nat) (f : RxIn → RxIn) : (updRx s i f).banks = s.banks := rfl
@[simp] theorem updRx_held (i : Nat) (f : RxIn → RxIn) : (updRx s i f).held = s.held := rfl
@[simp] theorem updRx_cmds (i : Nat) (f : RxIn → RxIn) : (updRx s i f).cmds = s.cmds := rfl
@[simp] theorem updRx_sec (i : Nat) (f : RxIn → RxIn) : (updRx s i f).sec = s.sec := rfl
@[simp] theorem updRx_nvs (i : Nat) (f : RxIn → RxIn) : (updRx s i f).nvs = s.nvs := rfl
@[simp] theorem updRx_rtc (i : Nat) (f : RxIn → RxIn) : (updRx s i f).rtc = s.rtc := rfl
@[simp] theorem updRx_uart (i : Nat) (f : RxIn → RxIn) : (updRx s i f).uart = s.uart := rfl
@[simp] theorem updRx_i2c (i : Nat) (f : RxIn → RxIn) : (updRx s i f).i2c = s.i2c := rfl
@[simp] theorem updRx_spi (i : Nat) (f : RxIn → RxIn) : (updRx s i f).spi = s.spi := rfl
@[simp] theorem updRx_jir (i : Nat) (f : RxIn → RxIn) : (updRx s i f).jir = s.jir := rfl
@[simp] theorem updRx_readData (i : Nat) (f : RxIn → RxIn) : (updRx s i f).readData = s.readData := rfl
@[simp] theorem updRx_posted (i : Nat) (f : RxIn → RxIn) : (updRx s i f).posted = s.posted := rfl
@[simp] theorem updRx_nextUid (i : Nat) (f : RxIn → RxIn) : (updRx s i f).nextUid = s.nextUid := rfl
@[simp] theorem updRx_nextJob (i : Nat) (f : RxIn → RxIn) : (updRx s i f).nextJob = s.nextJob := rfl
@[simp] theorem updRx_nextFid (i : Nat) (f : RxIn → RxIn) : (updRx s i f).nextFid = s.nextFid := rfl
@[simp] theorem updRx_freeCtr (i : Nat) (f : RxIn → RxIn) : (updRx s i f).freeCtr = s.freeCtr := rfl
@[simp] theorem updRx_pending (i : Nat) (f : RxIn → RxIn) : (updRx s i f).pending = s.pending := rfl

@[simp] theorem setLane_regs (l : Nat) (x : Lane) : (setLane s l x).regs = s.regs := rfl
@[simp] theorem setLane_pins (l : Nat) (x : Lane) : (setLane s l x).pins = s.pins := rfl
@[simp] theorem setLane_pwr (l : Nat) (x : Lane) : (setLane s l x).pwr = s.pwr := rfl
@[simp] theorem setLane_pcie (l : Nat) (x : Lane) : (setLane s l x).pcie = s.pcie := rfl
@[simp] theorem setLane_boot (l : Nat) (x : Lane) : (setLane s l x).boot = s.boot := rfl
@[simp] theorem setLane_blanes (l : Nat) (x : Lane) : (setLane s l x).blanes = s.blanes := rfl
@[simp] theorem setLane_rel (l : Nat) (x : Lane) : (setLane s l x).rel = s.rel := rfl
@[simp] theorem setLane_par (l : Nat) (x : Lane) : (setLane s l x).par = s.par := rfl
@[simp] theorem setLane_crc (l : Nat) (x : Lane) : (setLane s l x).crc = s.crc := rfl
@[simp] theorem setLane_mains (l : Nat) (x : Lane) : (setLane s l x).mains = s.mains := rfl
@[simp] theorem setLane_rx (l : Nat) (x : Lane) : (setLane s l x).rx = s.rx := rfl
@[simp] theorem setLane_tones (l : Nat) (x : Lane) : (setLane s l x).tones = s.tones := rfl
@[simp] theorem setLane_toneSwap (l : Nat) (x : Lane) : (setLane s l x).toneSwap = s.toneSwap := rfl
@[simp] theorem setLane_recs (l : Nat) (x : Lane) : (setLane s l x).recs = s.recs := rfl
@[simp] theorem setLane_msel (l : Nat) (x : Lane) : (setLane s l x).msel = s.msel := rfl
@[simp] theorem setLane_frames (l : Nat) (x : Lane) : (setLane s l x).frames = s.frames := rfl
@[simp] theorem setLane_retain (l : Nat) (x : Lane) : (setLane s l x).retain = s.retain := rfl
@[simp] theorem setLane_heard (l : Nat) (x : Lane) : (setLane s l x).heard = s.heard := rfl
@[simp] theorem setLane_tx (l : Nat) (x : Lane) : (setLane s l x).tx = s.tx := rfl
@[simp] theorem setLane_jobs (l : Nat) (x : Lane) : (setLane s l x).jobs = s.jobs := rfl
@[simp] theorem setLane_sessions (l : Nat) (x : Lane) : (setLane s l x).sessions = s.sessions := rfl
@[simp] theorem setLane_quiets (l : Nat) (x : Lane) : (setLane s l x).quiets = s.quiets := rfl
@[simp] theorem setLane_bands (l : Nat) (x : Lane) : (setLane s l x).bands = s.bands := rfl
@[simp] theorem setLane_air (l : Nat) (x : Lane) : (setLane s l x).air = s.air := rfl
@[simp] theorem setLane_sor (l : Nat) (x : Lane) : (setLane s l x).sor = s.sor := rfl
@[simp] theorem setLane_lomsOnset (l : Nat) (x : Lane) : (setLane s l x).lomsOnset = s.lomsOnset := rfl
@[simp] theorem setLane_pm (l : Nat) (x : Lane) : (setLane s l x).pm = s.pm := rfl
@[simp] theorem setLane_secSeen (l : Nat) (x : Lane) : (setLane s l x).secSeen = s.secSeen := rfl
@[simp] theorem setLane_mesh (l : Nat) (x : Lane) : (setLane s l x).mesh = s.mesh := rfl
@[simp] theorem setLane_dram (l : Nat) (x : Lane) : (setLane s l x).dram = s.dram := rfl
@[simp] theorem setLane_streams (l : Nat) (x : Lane) : (setLane s l x).streams = s.streams := rfl
@[simp] theorem setLane_kqOwners (l : Nat) (x : Lane) : (setLane s l x).kqOwners = s.kqOwners := rfl
@[simp] theorem setLane_players (l : Nat) (x : Lane) : (setLane s l x).players = s.players := rfl
@[simp] theorem setLane_rings (l : Nat) (x : Lane) : (setLane s l x).rings = s.rings := rfl
@[simp] theorem setLane_banks (l : Nat) (x : Lane) : (setLane s l x).banks = s.banks := rfl
@[simp] theorem setLane_held (l : Nat) (x : Lane) : (setLane s l x).held = s.held := rfl
@[simp] theorem setLane_cmds (l : Nat) (x : Lane) : (setLane s l x).cmds = s.cmds := rfl
@[simp] theorem setLane_sec (l : Nat) (x : Lane) : (setLane s l x).sec = s.sec := rfl
@[simp] theorem setLane_nvs (l : Nat) (x : Lane) : (setLane s l x).nvs = s.nvs := rfl
@[simp] theorem setLane_rtc (l : Nat) (x : Lane) : (setLane s l x).rtc = s.rtc := rfl
@[simp] theorem setLane_uart (l : Nat) (x : Lane) : (setLane s l x).uart = s.uart := rfl
@[simp] theorem setLane_i2c (l : Nat) (x : Lane) : (setLane s l x).i2c = s.i2c := rfl
@[simp] theorem setLane_spi (l : Nat) (x : Lane) : (setLane s l x).spi = s.spi := rfl
@[simp] theorem setLane_jir (l : Nat) (x : Lane) : (setLane s l x).jir = s.jir := rfl
@[simp] theorem setLane_readData (l : Nat) (x : Lane) : (setLane s l x).readData = s.readData := rfl
@[simp] theorem setLane_posted (l : Nat) (x : Lane) : (setLane s l x).posted = s.posted := rfl
@[simp] theorem setLane_nextUid (l : Nat) (x : Lane) : (setLane s l x).nextUid = s.nextUid := rfl
@[simp] theorem setLane_nextJob (l : Nat) (x : Lane) : (setLane s l x).nextJob = s.nextJob := rfl
@[simp] theorem setLane_nextFid (l : Nat) (x : Lane) : (setLane s l x).nextFid = s.nextFid := rfl
@[simp] theorem setLane_freeCtr (l : Nat) (x : Lane) : (setLane s l x).freeCtr = s.freeCtr := rfl
@[simp] theorem setLane_pending (l : Nat) (x : Lane) : (setLane s l x).pending = s.pending := rfl

@[simp] theorem setSess_regs (x : Session) : (setSess s x).regs = s.regs := rfl
@[simp] theorem setSess_pins (x : Session) : (setSess s x).pins = s.pins := rfl
@[simp] theorem setSess_pwr (x : Session) : (setSess s x).pwr = s.pwr := rfl
@[simp] theorem setSess_pcie (x : Session) : (setSess s x).pcie = s.pcie := rfl
@[simp] theorem setSess_boot (x : Session) : (setSess s x).boot = s.boot := rfl
@[simp] theorem setSess_blanes (x : Session) : (setSess s x).blanes = s.blanes := rfl
@[simp] theorem setSess_rel (x : Session) : (setSess s x).rel = s.rel := rfl
@[simp] theorem setSess_par (x : Session) : (setSess s x).par = s.par := rfl
@[simp] theorem setSess_crc (x : Session) : (setSess s x).crc = s.crc := rfl
@[simp] theorem setSess_mains (x : Session) : (setSess s x).mains = s.mains := rfl
@[simp] theorem setSess_rx (x : Session) : (setSess s x).rx = s.rx := rfl
@[simp] theorem setSess_tones (x : Session) : (setSess s x).tones = s.tones := rfl
@[simp] theorem setSess_toneSwap (x : Session) : (setSess s x).toneSwap = s.toneSwap := rfl
@[simp] theorem setSess_lanes (x : Session) : (setSess s x).lanes = s.lanes := rfl
@[simp] theorem setSess_recs (x : Session) : (setSess s x).recs = s.recs := rfl
@[simp] theorem setSess_msel (x : Session) : (setSess s x).msel = s.msel := rfl
@[simp] theorem setSess_frames (x : Session) : (setSess s x).frames = s.frames := rfl
@[simp] theorem setSess_retain (x : Session) : (setSess s x).retain = s.retain := rfl
@[simp] theorem setSess_heard (x : Session) : (setSess s x).heard = s.heard := rfl
@[simp] theorem setSess_tx (x : Session) : (setSess s x).tx = s.tx := rfl
@[simp] theorem setSess_jobs (x : Session) : (setSess s x).jobs = s.jobs := rfl
@[simp] theorem setSess_quiets (x : Session) : (setSess s x).quiets = s.quiets := rfl
@[simp] theorem setSess_bands (x : Session) : (setSess s x).bands = s.bands := rfl
@[simp] theorem setSess_air (x : Session) : (setSess s x).air = s.air := rfl
@[simp] theorem setSess_sor (x : Session) : (setSess s x).sor = s.sor := rfl
@[simp] theorem setSess_lomsOnset (x : Session) : (setSess s x).lomsOnset = s.lomsOnset := rfl
@[simp] theorem setSess_pm (x : Session) : (setSess s x).pm = s.pm := rfl
@[simp] theorem setSess_secSeen (x : Session) : (setSess s x).secSeen = s.secSeen := rfl
@[simp] theorem setSess_mesh (x : Session) : (setSess s x).mesh = s.mesh := rfl
@[simp] theorem setSess_dram (x : Session) : (setSess s x).dram = s.dram := rfl
@[simp] theorem setSess_streams (x : Session) : (setSess s x).streams = s.streams := rfl
@[simp] theorem setSess_kqOwners (x : Session) : (setSess s x).kqOwners = s.kqOwners := rfl
@[simp] theorem setSess_players (x : Session) : (setSess s x).players = s.players := rfl
@[simp] theorem setSess_rings (x : Session) : (setSess s x).rings = s.rings := rfl
@[simp] theorem setSess_banks (x : Session) : (setSess s x).banks = s.banks := rfl
@[simp] theorem setSess_held (x : Session) : (setSess s x).held = s.held := rfl
@[simp] theorem setSess_cmds (x : Session) : (setSess s x).cmds = s.cmds := rfl
@[simp] theorem setSess_sec (x : Session) : (setSess s x).sec = s.sec := rfl
@[simp] theorem setSess_nvs (x : Session) : (setSess s x).nvs = s.nvs := rfl
@[simp] theorem setSess_rtc (x : Session) : (setSess s x).rtc = s.rtc := rfl
@[simp] theorem setSess_uart (x : Session) : (setSess s x).uart = s.uart := rfl
@[simp] theorem setSess_i2c (x : Session) : (setSess s x).i2c = s.i2c := rfl
@[simp] theorem setSess_spi (x : Session) : (setSess s x).spi = s.spi := rfl
@[simp] theorem setSess_jir (x : Session) : (setSess s x).jir = s.jir := rfl
@[simp] theorem setSess_readData (x : Session) : (setSess s x).readData = s.readData := rfl
@[simp] theorem setSess_posted (x : Session) : (setSess s x).posted = s.posted := rfl
@[simp] theorem setSess_nextUid (x : Session) : (setSess s x).nextUid = s.nextUid := rfl
@[simp] theorem setSess_nextJob (x : Session) : (setSess s x).nextJob = s.nextJob := rfl
@[simp] theorem setSess_nextFid (x : Session) : (setSess s x).nextFid = s.nextFid := rfl
@[simp] theorem setSess_freeCtr (x : Session) : (setSess s x).freeCtr = s.freeCtr := rfl
@[simp] theorem setSess_pending (x : Session) : (setSess s x).pending = s.pending := rfl

@[simp] theorem updJir_regs (f : Jir → Jir) : (updJir s f).regs = s.regs := rfl
@[simp] theorem updJir_pins (f : Jir → Jir) : (updJir s f).pins = s.pins := rfl
@[simp] theorem updJir_pwr (f : Jir → Jir) : (updJir s f).pwr = s.pwr := rfl
@[simp] theorem updJir_pcie (f : Jir → Jir) : (updJir s f).pcie = s.pcie := rfl
@[simp] theorem updJir_boot (f : Jir → Jir) : (updJir s f).boot = s.boot := rfl
@[simp] theorem updJir_blanes (f : Jir → Jir) : (updJir s f).blanes = s.blanes := rfl
@[simp] theorem updJir_rel (f : Jir → Jir) : (updJir s f).rel = s.rel := rfl
@[simp] theorem updJir_par (f : Jir → Jir) : (updJir s f).par = s.par := rfl
@[simp] theorem updJir_crc (f : Jir → Jir) : (updJir s f).crc = s.crc := rfl
@[simp] theorem updJir_mains (f : Jir → Jir) : (updJir s f).mains = s.mains := rfl
@[simp] theorem updJir_rx (f : Jir → Jir) : (updJir s f).rx = s.rx := rfl
@[simp] theorem updJir_tones (f : Jir → Jir) : (updJir s f).tones = s.tones := rfl
@[simp] theorem updJir_toneSwap (f : Jir → Jir) : (updJir s f).toneSwap = s.toneSwap := rfl
@[simp] theorem updJir_lanes (f : Jir → Jir) : (updJir s f).lanes = s.lanes := rfl
@[simp] theorem updJir_recs (f : Jir → Jir) : (updJir s f).recs = s.recs := rfl
@[simp] theorem updJir_msel (f : Jir → Jir) : (updJir s f).msel = s.msel := rfl
@[simp] theorem updJir_frames (f : Jir → Jir) : (updJir s f).frames = s.frames := rfl
@[simp] theorem updJir_retain (f : Jir → Jir) : (updJir s f).retain = s.retain := rfl
@[simp] theorem updJir_heard (f : Jir → Jir) : (updJir s f).heard = s.heard := rfl
@[simp] theorem updJir_tx (f : Jir → Jir) : (updJir s f).tx = s.tx := rfl
@[simp] theorem updJir_jobs (f : Jir → Jir) : (updJir s f).jobs = s.jobs := rfl
@[simp] theorem updJir_sessions (f : Jir → Jir) : (updJir s f).sessions = s.sessions := rfl
@[simp] theorem updJir_quiets (f : Jir → Jir) : (updJir s f).quiets = s.quiets := rfl
@[simp] theorem updJir_bands (f : Jir → Jir) : (updJir s f).bands = s.bands := rfl
@[simp] theorem updJir_air (f : Jir → Jir) : (updJir s f).air = s.air := rfl
@[simp] theorem updJir_sor (f : Jir → Jir) : (updJir s f).sor = s.sor := rfl
@[simp] theorem updJir_lomsOnset (f : Jir → Jir) : (updJir s f).lomsOnset = s.lomsOnset := rfl
@[simp] theorem updJir_pm (f : Jir → Jir) : (updJir s f).pm = s.pm := rfl
@[simp] theorem updJir_secSeen (f : Jir → Jir) : (updJir s f).secSeen = s.secSeen := rfl
@[simp] theorem updJir_mesh (f : Jir → Jir) : (updJir s f).mesh = s.mesh := rfl
@[simp] theorem updJir_dram (f : Jir → Jir) : (updJir s f).dram = s.dram := rfl
@[simp] theorem updJir_streams (f : Jir → Jir) : (updJir s f).streams = s.streams := rfl
@[simp] theorem updJir_kqOwners (f : Jir → Jir) : (updJir s f).kqOwners = s.kqOwners := rfl
@[simp] theorem updJir_players (f : Jir → Jir) : (updJir s f).players = s.players := rfl
@[simp] theorem updJir_rings (f : Jir → Jir) : (updJir s f).rings = s.rings := rfl
@[simp] theorem updJir_banks (f : Jir → Jir) : (updJir s f).banks = s.banks := rfl
@[simp] theorem updJir_held (f : Jir → Jir) : (updJir s f).held = s.held := rfl
@[simp] theorem updJir_cmds (f : Jir → Jir) : (updJir s f).cmds = s.cmds := rfl
@[simp] theorem updJir_sec (f : Jir → Jir) : (updJir s f).sec = s.sec := rfl
@[simp] theorem updJir_nvs (f : Jir → Jir) : (updJir s f).nvs = s.nvs := rfl
@[simp] theorem updJir_rtc (f : Jir → Jir) : (updJir s f).rtc = s.rtc := rfl
@[simp] theorem updJir_uart (f : Jir → Jir) : (updJir s f).uart = s.uart := rfl
@[simp] theorem updJir_i2c (f : Jir → Jir) : (updJir s f).i2c = s.i2c := rfl
@[simp] theorem updJir_spi (f : Jir → Jir) : (updJir s f).spi = s.spi := rfl
@[simp] theorem updJir_readData (f : Jir → Jir) : (updJir s f).readData = s.readData := rfl
@[simp] theorem updJir_posted (f : Jir → Jir) : (updJir s f).posted = s.posted := rfl
@[simp] theorem updJir_nextUid (f : Jir → Jir) : (updJir s f).nextUid = s.nextUid := rfl
@[simp] theorem updJir_nextJob (f : Jir → Jir) : (updJir s f).nextJob = s.nextJob := rfl
@[simp] theorem updJir_nextFid (f : Jir → Jir) : (updJir s f).nextFid = s.nextFid := rfl
@[simp] theorem updJir_freeCtr (f : Jir → Jir) : (updJir s f).freeCtr = s.freeCtr := rfl
@[simp] theorem updJir_pending (f : Jir → Jir) : (updJir s f).pending = s.pending := rfl

@[simp] theorem updMesh_regs (f : Mesh → Mesh) : (updMesh s f).regs = s.regs := rfl
@[simp] theorem updMesh_pins (f : Mesh → Mesh) : (updMesh s f).pins = s.pins := rfl
@[simp] theorem updMesh_pwr (f : Mesh → Mesh) : (updMesh s f).pwr = s.pwr := rfl
@[simp] theorem updMesh_pcie (f : Mesh → Mesh) : (updMesh s f).pcie = s.pcie := rfl
@[simp] theorem updMesh_boot (f : Mesh → Mesh) : (updMesh s f).boot = s.boot := rfl
@[simp] theorem updMesh_blanes (f : Mesh → Mesh) : (updMesh s f).blanes = s.blanes := rfl
@[simp] theorem updMesh_rel (f : Mesh → Mesh) : (updMesh s f).rel = s.rel := rfl
@[simp] theorem updMesh_par (f : Mesh → Mesh) : (updMesh s f).par = s.par := rfl
@[simp] theorem updMesh_crc (f : Mesh → Mesh) : (updMesh s f).crc = s.crc := rfl
@[simp] theorem updMesh_mains (f : Mesh → Mesh) : (updMesh s f).mains = s.mains := rfl
@[simp] theorem updMesh_rx (f : Mesh → Mesh) : (updMesh s f).rx = s.rx := rfl
@[simp] theorem updMesh_tones (f : Mesh → Mesh) : (updMesh s f).tones = s.tones := rfl
@[simp] theorem updMesh_toneSwap (f : Mesh → Mesh) : (updMesh s f).toneSwap = s.toneSwap := rfl
@[simp] theorem updMesh_lanes (f : Mesh → Mesh) : (updMesh s f).lanes = s.lanes := rfl
@[simp] theorem updMesh_recs (f : Mesh → Mesh) : (updMesh s f).recs = s.recs := rfl
@[simp] theorem updMesh_msel (f : Mesh → Mesh) : (updMesh s f).msel = s.msel := rfl
@[simp] theorem updMesh_frames (f : Mesh → Mesh) : (updMesh s f).frames = s.frames := rfl
@[simp] theorem updMesh_retain (f : Mesh → Mesh) : (updMesh s f).retain = s.retain := rfl
@[simp] theorem updMesh_heard (f : Mesh → Mesh) : (updMesh s f).heard = s.heard := rfl
@[simp] theorem updMesh_tx (f : Mesh → Mesh) : (updMesh s f).tx = s.tx := rfl
@[simp] theorem updMesh_jobs (f : Mesh → Mesh) : (updMesh s f).jobs = s.jobs := rfl
@[simp] theorem updMesh_sessions (f : Mesh → Mesh) : (updMesh s f).sessions = s.sessions := rfl
@[simp] theorem updMesh_quiets (f : Mesh → Mesh) : (updMesh s f).quiets = s.quiets := rfl
@[simp] theorem updMesh_bands (f : Mesh → Mesh) : (updMesh s f).bands = s.bands := rfl
@[simp] theorem updMesh_air (f : Mesh → Mesh) : (updMesh s f).air = s.air := rfl
@[simp] theorem updMesh_sor (f : Mesh → Mesh) : (updMesh s f).sor = s.sor := rfl
@[simp] theorem updMesh_lomsOnset (f : Mesh → Mesh) : (updMesh s f).lomsOnset = s.lomsOnset := rfl
@[simp] theorem updMesh_pm (f : Mesh → Mesh) : (updMesh s f).pm = s.pm := rfl
@[simp] theorem updMesh_secSeen (f : Mesh → Mesh) : (updMesh s f).secSeen = s.secSeen := rfl
@[simp] theorem updMesh_dram (f : Mesh → Mesh) : (updMesh s f).dram = s.dram := rfl
@[simp] theorem updMesh_streams (f : Mesh → Mesh) : (updMesh s f).streams = s.streams := rfl
@[simp] theorem updMesh_kqOwners (f : Mesh → Mesh) : (updMesh s f).kqOwners = s.kqOwners := rfl
@[simp] theorem updMesh_players (f : Mesh → Mesh) : (updMesh s f).players = s.players := rfl
@[simp] theorem updMesh_rings (f : Mesh → Mesh) : (updMesh s f).rings = s.rings := rfl
@[simp] theorem updMesh_banks (f : Mesh → Mesh) : (updMesh s f).banks = s.banks := rfl
@[simp] theorem updMesh_held (f : Mesh → Mesh) : (updMesh s f).held = s.held := rfl
@[simp] theorem updMesh_cmds (f : Mesh → Mesh) : (updMesh s f).cmds = s.cmds := rfl
@[simp] theorem updMesh_sec (f : Mesh → Mesh) : (updMesh s f).sec = s.sec := rfl
@[simp] theorem updMesh_nvs (f : Mesh → Mesh) : (updMesh s f).nvs = s.nvs := rfl
@[simp] theorem updMesh_rtc (f : Mesh → Mesh) : (updMesh s f).rtc = s.rtc := rfl
@[simp] theorem updMesh_uart (f : Mesh → Mesh) : (updMesh s f).uart = s.uart := rfl
@[simp] theorem updMesh_i2c (f : Mesh → Mesh) : (updMesh s f).i2c = s.i2c := rfl
@[simp] theorem updMesh_spi (f : Mesh → Mesh) : (updMesh s f).spi = s.spi := rfl
@[simp] theorem updMesh_jir (f : Mesh → Mesh) : (updMesh s f).jir = s.jir := rfl
@[simp] theorem updMesh_readData (f : Mesh → Mesh) : (updMesh s f).readData = s.readData := rfl
@[simp] theorem updMesh_posted (f : Mesh → Mesh) : (updMesh s f).posted = s.posted := rfl
@[simp] theorem updMesh_nextUid (f : Mesh → Mesh) : (updMesh s f).nextUid = s.nextUid := rfl
@[simp] theorem updMesh_nextJob (f : Mesh → Mesh) : (updMesh s f).nextJob = s.nextJob := rfl
@[simp] theorem updMesh_nextFid (f : Mesh → Mesh) : (updMesh s f).nextFid = s.nextFid := rfl
@[simp] theorem updMesh_freeCtr (f : Mesh → Mesh) : (updMesh s f).freeCtr = s.freeCtr := rfl
@[simp] theorem updMesh_pending (f : Mesh → Mesh) : (updMesh s f).pending = s.pending := rfl

@[simp] theorem setPlayer_regs (p : Nat) (x : Player) : (setPlayer s p x).regs = s.regs := rfl
@[simp] theorem setPlayer_pins (p : Nat) (x : Player) : (setPlayer s p x).pins = s.pins := rfl
@[simp] theorem setPlayer_pwr (p : Nat) (x : Player) : (setPlayer s p x).pwr = s.pwr := rfl
@[simp] theorem setPlayer_pcie (p : Nat) (x : Player) : (setPlayer s p x).pcie = s.pcie := rfl
@[simp] theorem setPlayer_boot (p : Nat) (x : Player) : (setPlayer s p x).boot = s.boot := rfl
@[simp] theorem setPlayer_blanes (p : Nat) (x : Player) : (setPlayer s p x).blanes = s.blanes := rfl
@[simp] theorem setPlayer_rel (p : Nat) (x : Player) : (setPlayer s p x).rel = s.rel := rfl
@[simp] theorem setPlayer_par (p : Nat) (x : Player) : (setPlayer s p x).par = s.par := rfl
@[simp] theorem setPlayer_crc (p : Nat) (x : Player) : (setPlayer s p x).crc = s.crc := rfl
@[simp] theorem setPlayer_mains (p : Nat) (x : Player) : (setPlayer s p x).mains = s.mains := rfl
@[simp] theorem setPlayer_rx (p : Nat) (x : Player) : (setPlayer s p x).rx = s.rx := rfl
@[simp] theorem setPlayer_tones (p : Nat) (x : Player) : (setPlayer s p x).tones = s.tones := rfl
@[simp] theorem setPlayer_toneSwap (p : Nat) (x : Player) : (setPlayer s p x).toneSwap = s.toneSwap := rfl
@[simp] theorem setPlayer_lanes (p : Nat) (x : Player) : (setPlayer s p x).lanes = s.lanes := rfl
@[simp] theorem setPlayer_recs (p : Nat) (x : Player) : (setPlayer s p x).recs = s.recs := rfl
@[simp] theorem setPlayer_msel (p : Nat) (x : Player) : (setPlayer s p x).msel = s.msel := rfl
@[simp] theorem setPlayer_frames (p : Nat) (x : Player) : (setPlayer s p x).frames = s.frames := rfl
@[simp] theorem setPlayer_retain (p : Nat) (x : Player) : (setPlayer s p x).retain = s.retain := rfl
@[simp] theorem setPlayer_heard (p : Nat) (x : Player) : (setPlayer s p x).heard = s.heard := rfl
@[simp] theorem setPlayer_tx (p : Nat) (x : Player) : (setPlayer s p x).tx = s.tx := rfl
@[simp] theorem setPlayer_jobs (p : Nat) (x : Player) : (setPlayer s p x).jobs = s.jobs := rfl
@[simp] theorem setPlayer_sessions (p : Nat) (x : Player) : (setPlayer s p x).sessions = s.sessions := rfl
@[simp] theorem setPlayer_quiets (p : Nat) (x : Player) : (setPlayer s p x).quiets = s.quiets := rfl
@[simp] theorem setPlayer_bands (p : Nat) (x : Player) : (setPlayer s p x).bands = s.bands := rfl
@[simp] theorem setPlayer_air (p : Nat) (x : Player) : (setPlayer s p x).air = s.air := rfl
@[simp] theorem setPlayer_sor (p : Nat) (x : Player) : (setPlayer s p x).sor = s.sor := rfl
@[simp] theorem setPlayer_lomsOnset (p : Nat) (x : Player) : (setPlayer s p x).lomsOnset = s.lomsOnset := rfl
@[simp] theorem setPlayer_pm (p : Nat) (x : Player) : (setPlayer s p x).pm = s.pm := rfl
@[simp] theorem setPlayer_secSeen (p : Nat) (x : Player) : (setPlayer s p x).secSeen = s.secSeen := rfl
@[simp] theorem setPlayer_mesh (p : Nat) (x : Player) : (setPlayer s p x).mesh = s.mesh := rfl
@[simp] theorem setPlayer_dram (p : Nat) (x : Player) : (setPlayer s p x).dram = s.dram := rfl
@[simp] theorem setPlayer_streams (p : Nat) (x : Player) : (setPlayer s p x).streams = s.streams := rfl
@[simp] theorem setPlayer_kqOwners (p : Nat) (x : Player) : (setPlayer s p x).kqOwners = s.kqOwners := rfl
@[simp] theorem setPlayer_rings (p : Nat) (x : Player) : (setPlayer s p x).rings = s.rings := rfl
@[simp] theorem setPlayer_banks (p : Nat) (x : Player) : (setPlayer s p x).banks = s.banks := rfl
@[simp] theorem setPlayer_held (p : Nat) (x : Player) : (setPlayer s p x).held = s.held := rfl
@[simp] theorem setPlayer_cmds (p : Nat) (x : Player) : (setPlayer s p x).cmds = s.cmds := rfl
@[simp] theorem setPlayer_sec (p : Nat) (x : Player) : (setPlayer s p x).sec = s.sec := rfl
@[simp] theorem setPlayer_nvs (p : Nat) (x : Player) : (setPlayer s p x).nvs = s.nvs := rfl
@[simp] theorem setPlayer_rtc (p : Nat) (x : Player) : (setPlayer s p x).rtc = s.rtc := rfl
@[simp] theorem setPlayer_uart (p : Nat) (x : Player) : (setPlayer s p x).uart = s.uart := rfl
@[simp] theorem setPlayer_i2c (p : Nat) (x : Player) : (setPlayer s p x).i2c = s.i2c := rfl
@[simp] theorem setPlayer_spi (p : Nat) (x : Player) : (setPlayer s p x).spi = s.spi := rfl
@[simp] theorem setPlayer_jir (p : Nat) (x : Player) : (setPlayer s p x).jir = s.jir := rfl
@[simp] theorem setPlayer_readData (p : Nat) (x : Player) : (setPlayer s p x).readData = s.readData := rfl
@[simp] theorem setPlayer_posted (p : Nat) (x : Player) : (setPlayer s p x).posted = s.posted := rfl
@[simp] theorem setPlayer_nextUid (p : Nat) (x : Player) : (setPlayer s p x).nextUid = s.nextUid := rfl
@[simp] theorem setPlayer_nextJob (p : Nat) (x : Player) : (setPlayer s p x).nextJob = s.nextJob := rfl
@[simp] theorem setPlayer_nextFid (p : Nat) (x : Player) : (setPlayer s p x).nextFid = s.nextFid := rfl
@[simp] theorem setPlayer_freeCtr (p : Nat) (x : Player) : (setPlayer s p x).freeCtr = s.freeCtr := rfl
@[simp] theorem setPlayer_pending (p : Nat) (x : Player) : (setPlayer s p x).pending = s.pending := rfl

@[simp] theorem setStream_regs (i : Nat) (x : Stream) : (setStream s i x).regs = s.regs := rfl
@[simp] theorem setStream_pins (i : Nat) (x : Stream) : (setStream s i x).pins = s.pins := rfl
@[simp] theorem setStream_pwr (i : Nat) (x : Stream) : (setStream s i x).pwr = s.pwr := rfl
@[simp] theorem setStream_pcie (i : Nat) (x : Stream) : (setStream s i x).pcie = s.pcie := rfl
@[simp] theorem setStream_boot (i : Nat) (x : Stream) : (setStream s i x).boot = s.boot := rfl
@[simp] theorem setStream_blanes (i : Nat) (x : Stream) : (setStream s i x).blanes = s.blanes := rfl
@[simp] theorem setStream_rel (i : Nat) (x : Stream) : (setStream s i x).rel = s.rel := rfl
@[simp] theorem setStream_par (i : Nat) (x : Stream) : (setStream s i x).par = s.par := rfl
@[simp] theorem setStream_crc (i : Nat) (x : Stream) : (setStream s i x).crc = s.crc := rfl
@[simp] theorem setStream_mains (i : Nat) (x : Stream) : (setStream s i x).mains = s.mains := rfl
@[simp] theorem setStream_rx (i : Nat) (x : Stream) : (setStream s i x).rx = s.rx := rfl
@[simp] theorem setStream_tones (i : Nat) (x : Stream) : (setStream s i x).tones = s.tones := rfl
@[simp] theorem setStream_toneSwap (i : Nat) (x : Stream) : (setStream s i x).toneSwap = s.toneSwap := rfl
@[simp] theorem setStream_lanes (i : Nat) (x : Stream) : (setStream s i x).lanes = s.lanes := rfl
@[simp] theorem setStream_recs (i : Nat) (x : Stream) : (setStream s i x).recs = s.recs := rfl
@[simp] theorem setStream_msel (i : Nat) (x : Stream) : (setStream s i x).msel = s.msel := rfl
@[simp] theorem setStream_frames (i : Nat) (x : Stream) : (setStream s i x).frames = s.frames := rfl
@[simp] theorem setStream_retain (i : Nat) (x : Stream) : (setStream s i x).retain = s.retain := rfl
@[simp] theorem setStream_heard (i : Nat) (x : Stream) : (setStream s i x).heard = s.heard := rfl
@[simp] theorem setStream_tx (i : Nat) (x : Stream) : (setStream s i x).tx = s.tx := rfl
@[simp] theorem setStream_jobs (i : Nat) (x : Stream) : (setStream s i x).jobs = s.jobs := rfl
@[simp] theorem setStream_sessions (i : Nat) (x : Stream) : (setStream s i x).sessions = s.sessions := rfl
@[simp] theorem setStream_quiets (i : Nat) (x : Stream) : (setStream s i x).quiets = s.quiets := rfl
@[simp] theorem setStream_bands (i : Nat) (x : Stream) : (setStream s i x).bands = s.bands := rfl
@[simp] theorem setStream_air (i : Nat) (x : Stream) : (setStream s i x).air = s.air := rfl
@[simp] theorem setStream_sor (i : Nat) (x : Stream) : (setStream s i x).sor = s.sor := rfl
@[simp] theorem setStream_lomsOnset (i : Nat) (x : Stream) : (setStream s i x).lomsOnset = s.lomsOnset := rfl
@[simp] theorem setStream_pm (i : Nat) (x : Stream) : (setStream s i x).pm = s.pm := rfl
@[simp] theorem setStream_secSeen (i : Nat) (x : Stream) : (setStream s i x).secSeen = s.secSeen := rfl
@[simp] theorem setStream_mesh (i : Nat) (x : Stream) : (setStream s i x).mesh = s.mesh := rfl
@[simp] theorem setStream_dram (i : Nat) (x : Stream) : (setStream s i x).dram = s.dram := rfl
@[simp] theorem setStream_kqOwners (i : Nat) (x : Stream) : (setStream s i x).kqOwners = s.kqOwners := rfl
@[simp] theorem setStream_players (i : Nat) (x : Stream) : (setStream s i x).players = s.players := rfl
@[simp] theorem setStream_rings (i : Nat) (x : Stream) : (setStream s i x).rings = s.rings := rfl
@[simp] theorem setStream_banks (i : Nat) (x : Stream) : (setStream s i x).banks = s.banks := rfl
@[simp] theorem setStream_held (i : Nat) (x : Stream) : (setStream s i x).held = s.held := rfl
@[simp] theorem setStream_cmds (i : Nat) (x : Stream) : (setStream s i x).cmds = s.cmds := rfl
@[simp] theorem setStream_sec (i : Nat) (x : Stream) : (setStream s i x).sec = s.sec := rfl
@[simp] theorem setStream_nvs (i : Nat) (x : Stream) : (setStream s i x).nvs = s.nvs := rfl
@[simp] theorem setStream_rtc (i : Nat) (x : Stream) : (setStream s i x).rtc = s.rtc := rfl
@[simp] theorem setStream_uart (i : Nat) (x : Stream) : (setStream s i x).uart = s.uart := rfl
@[simp] theorem setStream_i2c (i : Nat) (x : Stream) : (setStream s i x).i2c = s.i2c := rfl
@[simp] theorem setStream_spi (i : Nat) (x : Stream) : (setStream s i x).spi = s.spi := rfl
@[simp] theorem setStream_jir (i : Nat) (x : Stream) : (setStream s i x).jir = s.jir := rfl
@[simp] theorem setStream_readData (i : Nat) (x : Stream) : (setStream s i x).readData = s.readData := rfl
@[simp] theorem setStream_posted (i : Nat) (x : Stream) : (setStream s i x).posted = s.posted := rfl
@[simp] theorem setStream_nextUid (i : Nat) (x : Stream) : (setStream s i x).nextUid = s.nextUid := rfl
@[simp] theorem setStream_nextJob (i : Nat) (x : Stream) : (setStream s i x).nextJob = s.nextJob := rfl
@[simp] theorem setStream_nextFid (i : Nat) (x : Stream) : (setStream s i x).nextFid = s.nextFid := rfl
@[simp] theorem setStream_freeCtr (i : Nat) (x : Stream) : (setStream s i x).freeCtr = s.freeCtr := rfl
@[simp] theorem setStream_pending (i : Nat) (x : Stream) : (setStream s i x).pending = s.pending := rfl

@[simp] theorem setNbank_regs (b : Nat) (x : Bank) : (setNbank s b x).regs = s.regs := rfl
@[simp] theorem setNbank_pins (b : Nat) (x : Bank) : (setNbank s b x).pins = s.pins := rfl
@[simp] theorem setNbank_pwr (b : Nat) (x : Bank) : (setNbank s b x).pwr = s.pwr := rfl
@[simp] theorem setNbank_pcie (b : Nat) (x : Bank) : (setNbank s b x).pcie = s.pcie := rfl
@[simp] theorem setNbank_boot (b : Nat) (x : Bank) : (setNbank s b x).boot = s.boot := rfl
@[simp] theorem setNbank_blanes (b : Nat) (x : Bank) : (setNbank s b x).blanes = s.blanes := rfl
@[simp] theorem setNbank_rel (b : Nat) (x : Bank) : (setNbank s b x).rel = s.rel := rfl
@[simp] theorem setNbank_par (b : Nat) (x : Bank) : (setNbank s b x).par = s.par := rfl
@[simp] theorem setNbank_crc (b : Nat) (x : Bank) : (setNbank s b x).crc = s.crc := rfl
@[simp] theorem setNbank_mains (b : Nat) (x : Bank) : (setNbank s b x).mains = s.mains := rfl
@[simp] theorem setNbank_rx (b : Nat) (x : Bank) : (setNbank s b x).rx = s.rx := rfl
@[simp] theorem setNbank_tones (b : Nat) (x : Bank) : (setNbank s b x).tones = s.tones := rfl
@[simp] theorem setNbank_toneSwap (b : Nat) (x : Bank) : (setNbank s b x).toneSwap = s.toneSwap := rfl
@[simp] theorem setNbank_lanes (b : Nat) (x : Bank) : (setNbank s b x).lanes = s.lanes := rfl
@[simp] theorem setNbank_recs (b : Nat) (x : Bank) : (setNbank s b x).recs = s.recs := rfl
@[simp] theorem setNbank_msel (b : Nat) (x : Bank) : (setNbank s b x).msel = s.msel := rfl
@[simp] theorem setNbank_frames (b : Nat) (x : Bank) : (setNbank s b x).frames = s.frames := rfl
@[simp] theorem setNbank_retain (b : Nat) (x : Bank) : (setNbank s b x).retain = s.retain := rfl
@[simp] theorem setNbank_heard (b : Nat) (x : Bank) : (setNbank s b x).heard = s.heard := rfl
@[simp] theorem setNbank_tx (b : Nat) (x : Bank) : (setNbank s b x).tx = s.tx := rfl
@[simp] theorem setNbank_jobs (b : Nat) (x : Bank) : (setNbank s b x).jobs = s.jobs := rfl
@[simp] theorem setNbank_sessions (b : Nat) (x : Bank) : (setNbank s b x).sessions = s.sessions := rfl
@[simp] theorem setNbank_quiets (b : Nat) (x : Bank) : (setNbank s b x).quiets = s.quiets := rfl
@[simp] theorem setNbank_bands (b : Nat) (x : Bank) : (setNbank s b x).bands = s.bands := rfl
@[simp] theorem setNbank_air (b : Nat) (x : Bank) : (setNbank s b x).air = s.air := rfl
@[simp] theorem setNbank_sor (b : Nat) (x : Bank) : (setNbank s b x).sor = s.sor := rfl
@[simp] theorem setNbank_lomsOnset (b : Nat) (x : Bank) : (setNbank s b x).lomsOnset = s.lomsOnset := rfl
@[simp] theorem setNbank_pm (b : Nat) (x : Bank) : (setNbank s b x).pm = s.pm := rfl
@[simp] theorem setNbank_secSeen (b : Nat) (x : Bank) : (setNbank s b x).secSeen = s.secSeen := rfl
@[simp] theorem setNbank_mesh (b : Nat) (x : Bank) : (setNbank s b x).mesh = s.mesh := rfl
@[simp] theorem setNbank_dram (b : Nat) (x : Bank) : (setNbank s b x).dram = s.dram := rfl
@[simp] theorem setNbank_streams (b : Nat) (x : Bank) : (setNbank s b x).streams = s.streams := rfl
@[simp] theorem setNbank_kqOwners (b : Nat) (x : Bank) : (setNbank s b x).kqOwners = s.kqOwners := rfl
@[simp] theorem setNbank_players (b : Nat) (x : Bank) : (setNbank s b x).players = s.players := rfl
@[simp] theorem setNbank_rings (b : Nat) (x : Bank) : (setNbank s b x).rings = s.rings := rfl
@[simp] theorem setNbank_banks (b : Nat) (x : Bank) : (setNbank s b x).banks = s.banks := rfl
@[simp] theorem setNbank_held (b : Nat) (x : Bank) : (setNbank s b x).held = s.held := rfl
@[simp] theorem setNbank_cmds (b : Nat) (x : Bank) : (setNbank s b x).cmds = s.cmds := rfl
@[simp] theorem setNbank_sec (b : Nat) (x : Bank) : (setNbank s b x).sec = s.sec := rfl
@[simp] theorem setNbank_rtc (b : Nat) (x : Bank) : (setNbank s b x).rtc = s.rtc := rfl
@[simp] theorem setNbank_uart (b : Nat) (x : Bank) : (setNbank s b x).uart = s.uart := rfl
@[simp] theorem setNbank_i2c (b : Nat) (x : Bank) : (setNbank s b x).i2c = s.i2c := rfl
@[simp] theorem setNbank_spi (b : Nat) (x : Bank) : (setNbank s b x).spi = s.spi := rfl
@[simp] theorem setNbank_jir (b : Nat) (x : Bank) : (setNbank s b x).jir = s.jir := rfl
@[simp] theorem setNbank_readData (b : Nat) (x : Bank) : (setNbank s b x).readData = s.readData := rfl
@[simp] theorem setNbank_posted (b : Nat) (x : Bank) : (setNbank s b x).posted = s.posted := rfl
@[simp] theorem setNbank_nextUid (b : Nat) (x : Bank) : (setNbank s b x).nextUid = s.nextUid := rfl
@[simp] theorem setNbank_nextJob (b : Nat) (x : Bank) : (setNbank s b x).nextJob = s.nextJob := rfl
@[simp] theorem setNbank_nextFid (b : Nat) (x : Bank) : (setNbank s b x).nextFid = s.nextFid := rfl
@[simp] theorem setNbank_freeCtr (b : Nat) (x : Bank) : (setNbank s b x).freeCtr = s.freeCtr := rfl
@[simp] theorem setNbank_pending (b : Nat) (x : Bank) : (setNbank s b x).pending = s.pending := rfl

@[simp] theorem setUart_regs (u : Uart) : (setUart s u).regs = s.regs := rfl
@[simp] theorem setUart_pins (u : Uart) : (setUart s u).pins = s.pins := rfl
@[simp] theorem setUart_pwr (u : Uart) : (setUart s u).pwr = s.pwr := rfl
@[simp] theorem setUart_pcie (u : Uart) : (setUart s u).pcie = s.pcie := rfl
@[simp] theorem setUart_boot (u : Uart) : (setUart s u).boot = s.boot := rfl
@[simp] theorem setUart_blanes (u : Uart) : (setUart s u).blanes = s.blanes := rfl
@[simp] theorem setUart_rel (u : Uart) : (setUart s u).rel = s.rel := rfl
@[simp] theorem setUart_par (u : Uart) : (setUart s u).par = s.par := rfl
@[simp] theorem setUart_crc (u : Uart) : (setUart s u).crc = s.crc := rfl
@[simp] theorem setUart_mains (u : Uart) : (setUart s u).mains = s.mains := rfl
@[simp] theorem setUart_rx (u : Uart) : (setUart s u).rx = s.rx := rfl
@[simp] theorem setUart_tones (u : Uart) : (setUart s u).tones = s.tones := rfl
@[simp] theorem setUart_toneSwap (u : Uart) : (setUart s u).toneSwap = s.toneSwap := rfl
@[simp] theorem setUart_lanes (u : Uart) : (setUart s u).lanes = s.lanes := rfl
@[simp] theorem setUart_recs (u : Uart) : (setUart s u).recs = s.recs := rfl
@[simp] theorem setUart_msel (u : Uart) : (setUart s u).msel = s.msel := rfl
@[simp] theorem setUart_frames (u : Uart) : (setUart s u).frames = s.frames := rfl
@[simp] theorem setUart_retain (u : Uart) : (setUart s u).retain = s.retain := rfl
@[simp] theorem setUart_heard (u : Uart) : (setUart s u).heard = s.heard := rfl
@[simp] theorem setUart_tx (u : Uart) : (setUart s u).tx = s.tx := rfl
@[simp] theorem setUart_jobs (u : Uart) : (setUart s u).jobs = s.jobs := rfl
@[simp] theorem setUart_sessions (u : Uart) : (setUart s u).sessions = s.sessions := rfl
@[simp] theorem setUart_quiets (u : Uart) : (setUart s u).quiets = s.quiets := rfl
@[simp] theorem setUart_bands (u : Uart) : (setUart s u).bands = s.bands := rfl
@[simp] theorem setUart_air (u : Uart) : (setUart s u).air = s.air := rfl
@[simp] theorem setUart_sor (u : Uart) : (setUart s u).sor = s.sor := rfl
@[simp] theorem setUart_lomsOnset (u : Uart) : (setUart s u).lomsOnset = s.lomsOnset := rfl
@[simp] theorem setUart_pm (u : Uart) : (setUart s u).pm = s.pm := rfl
@[simp] theorem setUart_secSeen (u : Uart) : (setUart s u).secSeen = s.secSeen := rfl
@[simp] theorem setUart_mesh (u : Uart) : (setUart s u).mesh = s.mesh := rfl
@[simp] theorem setUart_dram (u : Uart) : (setUart s u).dram = s.dram := rfl
@[simp] theorem setUart_streams (u : Uart) : (setUart s u).streams = s.streams := rfl
@[simp] theorem setUart_kqOwners (u : Uart) : (setUart s u).kqOwners = s.kqOwners := rfl
@[simp] theorem setUart_players (u : Uart) : (setUart s u).players = s.players := rfl
@[simp] theorem setUart_rings (u : Uart) : (setUart s u).rings = s.rings := rfl
@[simp] theorem setUart_banks (u : Uart) : (setUart s u).banks = s.banks := rfl
@[simp] theorem setUart_held (u : Uart) : (setUart s u).held = s.held := rfl
@[simp] theorem setUart_cmds (u : Uart) : (setUart s u).cmds = s.cmds := rfl
@[simp] theorem setUart_sec (u : Uart) : (setUart s u).sec = s.sec := rfl
@[simp] theorem setUart_nvs (u : Uart) : (setUart s u).nvs = s.nvs := rfl
@[simp] theorem setUart_rtc (u : Uart) : (setUart s u).rtc = s.rtc := rfl
@[simp] theorem setUart_i2c (u : Uart) : (setUart s u).i2c = s.i2c := rfl
@[simp] theorem setUart_spi (u : Uart) : (setUart s u).spi = s.spi := rfl
@[simp] theorem setUart_jir (u : Uart) : (setUart s u).jir = s.jir := rfl
@[simp] theorem setUart_readData (u : Uart) : (setUart s u).readData = s.readData := rfl
@[simp] theorem setUart_posted (u : Uart) : (setUart s u).posted = s.posted := rfl
@[simp] theorem setUart_nextUid (u : Uart) : (setUart s u).nextUid = s.nextUid := rfl
@[simp] theorem setUart_nextJob (u : Uart) : (setUart s u).nextJob = s.nextJob := rfl
@[simp] theorem setUart_nextFid (u : Uart) : (setUart s u).nextFid = s.nextFid := rfl
@[simp] theorem setUart_freeCtr (u : Uart) : (setUart s u).freeCtr = s.freeCtr := rfl
@[simp] theorem setUart_pending (u : Uart) : (setUart s u).pending = s.pending := rfl

@[simp] theorem updJob_regs (j : Nat) (f : Job → Job) : (updJob s j f).regs = s.regs := rfl
@[simp] theorem updJob_pins (j : Nat) (f : Job → Job) : (updJob s j f).pins = s.pins := rfl
@[simp] theorem updJob_pwr (j : Nat) (f : Job → Job) : (updJob s j f).pwr = s.pwr := rfl
@[simp] theorem updJob_pcie (j : Nat) (f : Job → Job) : (updJob s j f).pcie = s.pcie := rfl
@[simp] theorem updJob_boot (j : Nat) (f : Job → Job) : (updJob s j f).boot = s.boot := rfl
@[simp] theorem updJob_blanes (j : Nat) (f : Job → Job) : (updJob s j f).blanes = s.blanes := rfl
@[simp] theorem updJob_rel (j : Nat) (f : Job → Job) : (updJob s j f).rel = s.rel := rfl
@[simp] theorem updJob_par (j : Nat) (f : Job → Job) : (updJob s j f).par = s.par := rfl
@[simp] theorem updJob_crc (j : Nat) (f : Job → Job) : (updJob s j f).crc = s.crc := rfl
@[simp] theorem updJob_mains (j : Nat) (f : Job → Job) : (updJob s j f).mains = s.mains := rfl
@[simp] theorem updJob_rx (j : Nat) (f : Job → Job) : (updJob s j f).rx = s.rx := rfl
@[simp] theorem updJob_tones (j : Nat) (f : Job → Job) : (updJob s j f).tones = s.tones := rfl
@[simp] theorem updJob_toneSwap (j : Nat) (f : Job → Job) : (updJob s j f).toneSwap = s.toneSwap := rfl
@[simp] theorem updJob_lanes (j : Nat) (f : Job → Job) : (updJob s j f).lanes = s.lanes := rfl
@[simp] theorem updJob_recs (j : Nat) (f : Job → Job) : (updJob s j f).recs = s.recs := rfl
@[simp] theorem updJob_msel (j : Nat) (f : Job → Job) : (updJob s j f).msel = s.msel := rfl
@[simp] theorem updJob_frames (j : Nat) (f : Job → Job) : (updJob s j f).frames = s.frames := rfl
@[simp] theorem updJob_retain (j : Nat) (f : Job → Job) : (updJob s j f).retain = s.retain := rfl
@[simp] theorem updJob_heard (j : Nat) (f : Job → Job) : (updJob s j f).heard = s.heard := rfl
@[simp] theorem updJob_tx (j : Nat) (f : Job → Job) : (updJob s j f).tx = s.tx := rfl
@[simp] theorem updJob_sessions (j : Nat) (f : Job → Job) : (updJob s j f).sessions = s.sessions := rfl
@[simp] theorem updJob_quiets (j : Nat) (f : Job → Job) : (updJob s j f).quiets = s.quiets := rfl
@[simp] theorem updJob_bands (j : Nat) (f : Job → Job) : (updJob s j f).bands = s.bands := rfl
@[simp] theorem updJob_air (j : Nat) (f : Job → Job) : (updJob s j f).air = s.air := rfl
@[simp] theorem updJob_sor (j : Nat) (f : Job → Job) : (updJob s j f).sor = s.sor := rfl
@[simp] theorem updJob_lomsOnset (j : Nat) (f : Job → Job) : (updJob s j f).lomsOnset = s.lomsOnset := rfl
@[simp] theorem updJob_pm (j : Nat) (f : Job → Job) : (updJob s j f).pm = s.pm := rfl
@[simp] theorem updJob_secSeen (j : Nat) (f : Job → Job) : (updJob s j f).secSeen = s.secSeen := rfl
@[simp] theorem updJob_mesh (j : Nat) (f : Job → Job) : (updJob s j f).mesh = s.mesh := rfl
@[simp] theorem updJob_dram (j : Nat) (f : Job → Job) : (updJob s j f).dram = s.dram := rfl
@[simp] theorem updJob_streams (j : Nat) (f : Job → Job) : (updJob s j f).streams = s.streams := rfl
@[simp] theorem updJob_kqOwners (j : Nat) (f : Job → Job) : (updJob s j f).kqOwners = s.kqOwners := rfl
@[simp] theorem updJob_players (j : Nat) (f : Job → Job) : (updJob s j f).players = s.players := rfl
@[simp] theorem updJob_rings (j : Nat) (f : Job → Job) : (updJob s j f).rings = s.rings := rfl
@[simp] theorem updJob_banks (j : Nat) (f : Job → Job) : (updJob s j f).banks = s.banks := rfl
@[simp] theorem updJob_held (j : Nat) (f : Job → Job) : (updJob s j f).held = s.held := rfl
@[simp] theorem updJob_cmds (j : Nat) (f : Job → Job) : (updJob s j f).cmds = s.cmds := rfl
@[simp] theorem updJob_sec (j : Nat) (f : Job → Job) : (updJob s j f).sec = s.sec := rfl
@[simp] theorem updJob_nvs (j : Nat) (f : Job → Job) : (updJob s j f).nvs = s.nvs := rfl
@[simp] theorem updJob_rtc (j : Nat) (f : Job → Job) : (updJob s j f).rtc = s.rtc := rfl
@[simp] theorem updJob_uart (j : Nat) (f : Job → Job) : (updJob s j f).uart = s.uart := rfl
@[simp] theorem updJob_i2c (j : Nat) (f : Job → Job) : (updJob s j f).i2c = s.i2c := rfl
@[simp] theorem updJob_spi (j : Nat) (f : Job → Job) : (updJob s j f).spi = s.spi := rfl
@[simp] theorem updJob_jir (j : Nat) (f : Job → Job) : (updJob s j f).jir = s.jir := rfl
@[simp] theorem updJob_readData (j : Nat) (f : Job → Job) : (updJob s j f).readData = s.readData := rfl
@[simp] theorem updJob_posted (j : Nat) (f : Job → Job) : (updJob s j f).posted = s.posted := rfl
@[simp] theorem updJob_nextUid (j : Nat) (f : Job → Job) : (updJob s j f).nextUid = s.nextUid := rfl
@[simp] theorem updJob_nextJob (j : Nat) (f : Job → Job) : (updJob s j f).nextJob = s.nextJob := rfl
@[simp] theorem updJob_nextFid (j : Nat) (f : Job → Job) : (updJob s j f).nextFid = s.nextFid := rfl
@[simp] theorem updJob_freeCtr (j : Nat) (f : Job → Job) : (updJob s j f).freeCtr = s.freeCtr := rfl
@[simp] theorem updJob_pending (j : Nat) (f : Job → Job) : (updJob s j f).pending = s.pending := rfl

end Sys2Proof.Machine
end

