-- ==== Sys2Proof/Laws/Registers.lean ====
section
/-! SUPPORT. Finite maps, registers and fields: read after write, what a write leaves alone, and the canonical form. -/

namespace Sys2Proof.Machine

/-! ### Finite maps -/

@[simp] theorem fget_fput_same {α : Type} (m : FMap α) (k : Nat) (v : α) : fget (fput m k v) k = some v := by
  induction m with
  | nil => simp [fput, fget]
  | cons e r ih =>
    obtain ⟨a, w⟩ := e
    by_cases h : k < a
    · simp [fput, fget, h]
    · by_cases h2 : a = k
      · simp [fput, fget, h2]
      · simp [fput, fget, h, h2, ih]

theorem fget_fput_ne {α : Type} (m : FMap α) {k j : Nat} (v : α) (hj : j ≠ k) : fget (fput m k v) j = fget m j := by
  induction m with
  | nil => simp [fput, fget, hj.symm]
  | cons e r ih =>
    obtain ⟨a, w⟩ := e
    by_cases h : k < a
    · simp [fput, fget, h, hj.symm]
    · by_cases h2 : a = k
      · subst h2; simp [fput, fget, hj.symm]
      · simp [fput, fget, h, h2, ih]

@[simp] theorem fget_fdel_same {α : Type} (m : FMap α) (k : Nat) : fget (fdel m k) k = none := by
  induction m with
  | nil => rfl
  | cons e r ih =>
    obtain ⟨a, w⟩ := e
    by_cases h : a = k
    · simpa [fdel, fget, h] using ih
    · simpa [fdel, fget, h] using ih

theorem fget_fdel_ne {α : Type} (m : FMap α) {k j : Nat} (hj : j ≠ k) : fget (fdel m k) j = fget m j := by
  induction m with
  | nil => rfl
  | cons e r ih =>
    obtain ⟨a, w⟩ := e
    by_cases h : a = k
    · subst h; simpa [fdel, fget, hj.symm] using ih
    · by_cases h2 : a = j
      · subst h2; simp [fdel, fget, hj]
      · simpa [fdel, fget, h, h2] using ih

@[simp] theorem fgetD_fput_same {α : Type} (m : FMap α) (k : Nat) (v d : α) : fgetD (fput m k v) k d = v := by
  simp [fgetD]

theorem fgetD_fput_ne {α : Type} (m : FMap α) {k j : Nat} (v d : α) (hj : j ≠ k) : fgetD (fput m k v) j d = fgetD m j d := by
  simp [fgetD, fget_fput_ne m v hj]

@[simp] theorem fgetD_fputD_same {α : Type} [DecidableEq α] (m : FMap α) (k : Nat) (v d : α) : fgetD (fputD m k d v) k d = v := by
  by_cases h : v = d
  · simp [fputD, h, fgetD]
  · simp [fputD, h]

theorem fgetD_fputD_ne {α : Type} [DecidableEq α] (m : FMap α) {k j : Nat} (v d e : α) (hj : j ≠ k) :
    fgetD (fputD m k d v) j e = fgetD m j e := by
  by_cases h : v = d
  · simp [fputD, h, fgetD, fget_fdel_ne m hj]
  · simp [fputD, h, fgetD_fput_ne m v e hj]

/-! ### The canonical form -/

theorem keysRise_iff {α : Type} (m : FMap α) : keysRise m = true ↔ m.Pairwise fun a b => a.1 < b.1 := by
  induction m with
  | nil => simp [keysRise]
  | cons e r ih =>
    cases r with
    | nil => simp [keysRise]
    | cons f t =>
      obtain ⟨a, v⟩ := e
      obtain ⟨b, w⟩ := f
      simp only [keysRise, Bool.and_eq_true, ih, Nat.blt_eq]
      constructor
      · rintro ⟨hab, hp⟩
        refine List.pairwise_cons.2 ⟨?_, hp⟩
        intro x hx
        rcases List.mem_cons.1 hx with rfl | hx
        · exact hab
        · exact lt_trans hab ((List.pairwise_cons.1 hp).1 x hx)
      · intro hp
        have h := List.pairwise_cons.1 hp
        exact ⟨h.1 (b, w) (by simp), h.2⟩

theorem mem_fput {α : Type} {m : FMap α} {k : Nat} {v : α} {e : Nat × α} (h : e ∈ fput m k v) : e = (k, v) ∨ e ∈ m := by
  induction m with
  | nil => simpa [fput] using h
  | cons f r ih =>
    obtain ⟨a, w⟩ := f
    by_cases h1 : k < a
    · simpa [fput, h1] using h
    · by_cases h2 : a = k
      · simp [fput, h2] at h
        rcases h with h | h <;> simp [h]
      · simp [fput, h1, h2] at h
        rcases h with h | h
        · simp [h]
        · rcases ih h with h | h <;> simp [h]

theorem keysRise_fput {α : Type} {m : FMap α} (h : keysRise m = true) (k : Nat) (v : α) : keysRise (fput m k v) = true := by
  rw [keysRise_iff] at *
  induction m with
  | nil => simp [fput]
  | cons e r ih =>
    obtain ⟨a, w⟩ := e
    have hp := List.pairwise_cons.1 h
    by_cases h1 : k < a
    · simp only [fput, h1, if_true]
      refine List.pairwise_cons.2 ⟨?_, h⟩
      intro x hx
      rcases List.mem_cons.1 hx with rfl | hx
      · exact h1
      · exact lt_trans h1 (hp.1 x hx)
    · by_cases h2 : a = k
      · subst h2
        simp only [fput, h1, if_false, if_true]
        exact List.pairwise_cons.2 ⟨hp.1, hp.2⟩
      · simp only [fput, h1, h2, if_false]
        refine List.pairwise_cons.2 ⟨?_, ih hp.2⟩
        intro x hx
        rcases mem_fput hx with rfl | hx
        · show a < k
          omega
        · exact hp.1 x hx

theorem keysRise_fdel {α : Type} {m : FMap α} (h : keysRise m = true) (k : Nat) : keysRise (fdel m k) = true := by
  rw [keysRise_iff] at *
  exact h.filter _

/-- Storing a value keeps the canonical form. -/
theorem FMapWf_fputD {α : Type} [DecidableEq α] {d : Nat → α} {m : FMap α} (h : FMapWf d m = true) (k : Nat) (v : α) :
    FMapWf d (fputD m k (d k) v) = true := by
  simp only [FMapWf, Bool.and_eq_true, List.all_eq_true] at *
  by_cases hv : v = d k
  · simp only [fputD, hv, if_true]
    exact ⟨keysRise_fdel h.1 k, fun e he => h.2 e (List.mem_filter.1 he).1⟩
  · simp only [fputD, hv, if_false]
    refine ⟨keysRise_fput h.1 k v, fun e he => ?_⟩
    rcases mem_fput he with rfl | he
    · simpa using hv
    · exact h.2 e he

/-- Removing entries keeps the canonical form. -/
theorem FMapWf_filter {α : Type} [DecidableEq α] {d : Nat → α} {m : FMap α} (h : FMapWf d m = true) (p : Nat × α → Bool) :
    FMapWf d (m.filter p) = true := by
  simp only [FMapWf, Bool.and_eq_true, List.all_eq_true] at *
  refine ⟨?_, fun e he => h.2 e (List.mem_filter.1 he).1⟩
  rw [keysRise_iff] at *
  exact h.1.filter _

/-! ### Registers -/

@[simp] theorem rd_wr_same (s : State) (o : Nat) (v : Word) : rd (wr s o v) o = v := by simp [rd, wr]

theorem rd_wr_ne (s : State) {o o' : Nat} (v : Word) (h : o' ≠ o) : rd (wr s o v) o' = rd s o' := by
  simp [rd, wr, fgetD_fputD_ne _ _ _ _ h]

theorem rd_wr (s : State) (o o' : Nat) (v : Word) : rd (wr s o v) o' = if o' = o then v else rd s o' := by
  by_cases h : o' = o
  · subst h; simp
  · simp [h, rd_wr_ne s v h]

theorem rd_wrN (s : State) (o o' v : Nat) : rd (wrN s o v) o' = if o' = o then BitVec.ofNat 32 v else rd s o' := rd_wr ..

theorem rdN_wrN (s : State) (o o' v : Nat) : rdN (wrN s o v) o' = if o' = o then v % 2 ^ 32 else rdN s o' := by
  simp only [rdN, rd_wrN]
  split <;> simp

theorem rd_setF_ne (s : State) (f : Fld) (v : Nat) {o : Nat} (h : o ≠ f.off) : rd (setF s f v) o = rd s o := rd_wr_ne s _ h

theorem rdN_setF_ne (s : State) (f : Fld) (v : Nat) {o : Nat} (h : o ≠ f.off) : rdN (setF s f v) o = rdN s o := by
  simp [rdN, rd_setF_ne s f v h]

/-! ### Fields -/

/-- Bit by bit: a field store changes the bits of the field and no other. -/
theorem setBits_testBit (x : Nat) {hi lo : Nat} (v : Nat) (hl : lo ≤ hi) (i : Nat) :
    (setBits x hi lo v).testBit i = if i < lo then x.testBit i else if i ≤ hi then v.testBit (i - lo) else x.testBit i := by
  have b : x % 2 ^ lo < 2 ^ lo := Nat.mod_lt _ (by positivity)
  have a : v % 2 ^ (hi + 1 - lo) < 2 ^ (hi + 1 - lo) := Nat.mod_lt _ (by positivity)
  have e : setBits x hi lo v = 2 ^ lo * (2 ^ (hi + 1 - lo) * (x / 2 ^ (hi + 1)) + v % 2 ^ (hi + 1 - lo)) + x % 2 ^ lo := by
    have e1 : 2 ^ (hi + 1) = 2 ^ (hi + 1 - lo) * 2 ^ lo := by rw [← pow_add]; congr 1; omega
    unfold setBits
    rw [show x / 2 ^ (hi + 1) * 2 ^ (hi + 1) = x / 2 ^ (hi + 1) * (2 ^ (hi + 1 - lo) * 2 ^ lo) from by rw [← e1]]
    ring
  rw [e, Nat.testBit_two_pow_mul_add _ b]
  by_cases h1 : i < lo
  · simp [h1]
  · simp only [h1, if_false]
    rw [Nat.testBit_two_pow_mul_add _ a]
    by_cases h2 : i ≤ hi
    · have : i - lo < hi + 1 - lo := by omega
      simp [h2, this]
    · have : ¬ i - lo < hi + 1 - lo := by omega
      simp only [h2, this, if_false, Nat.testBit_div_two_pow]
      congr 1; omega

theorem bits_testBit (x hi lo i : Nat) : (bits x hi lo).testBit i = (decide (i < hi + 1 - lo) && x.testBit (i + lo)) := by
  simp [bits, Nat.testBit_mod_two_pow, Nat.testBit_div_two_pow]

theorem setBits_lt {x hi lo : Nat} (v : Nat) (hx : x < 2 ^ 32) (hl : lo ≤ hi) (hh : hi < 32) : setBits x hi lo v < 2 ^ 32 := by
  apply Nat.lt_pow_two_of_testBit
  intro i hi'
  have : x.testBit i = false := Nat.testBit_lt_two_pow (lt_of_lt_of_le hx (Nat.pow_le_pow_right (by norm_num) hi'))
  rw [setBits_testBit x v hl]
  have h1 : ¬ i < lo := by omega
  have h2 : ¬ i ≤ hi := by omega
  simp [h1, h2, this]

theorem bits_setBits_same (x : Nat) {hi lo : Nat} (v : Nat) (hl : lo ≤ hi) :
    bits (setBits x hi lo v) hi lo = v % 2 ^ (hi + 1 - lo) := by
  apply Nat.eq_of_testBit_eq
  intro i
  rw [bits_testBit, setBits_testBit x v hl, Nat.testBit_mod_two_pow]
  by_cases h : i < hi + 1 - lo
  · have h1 : ¬ i + lo < lo := by omega
    have h2 : i + lo ≤ hi := by omega
    simp [h, h2]
  · simp [h]

/-- Two fields of one register without a bit in common. -/
theorem bits_setBits_other (x : Nat) {hi lo hi' lo' : Nat} (v : Nat) (hl : lo ≤ hi) (h : hi < lo' ∨ hi' < lo) :
    bits (setBits x hi lo v) hi' lo' = bits x hi' lo' := by
  apply Nat.eq_of_testBit_eq
  intro i
  rw [bits_testBit, bits_testBit, setBits_testBit x v hl]
  by_cases hd : i < hi' + 1 - lo'
  · rcases h with h | h
    · have h1 : ¬ i + lo' < lo := by omega
      have h2 : ¬ i + lo' ≤ hi := by omega
      simp [h1, h2]
    · have h1 : i + lo' < lo := by omega
      simp [h1]
  · simp [hd]

theorem rdN_lt (s : State) (o : Nat) : rdN s o < 2 ^ 32 := (rd s o).isLt

/-- A field reads as it was stored, its width permitting. -/
theorem getF_setF_same (s : State) (f : Fld) (v : Nat) (hl : f.lo ≤ f.hi) (hh : f.hi < 32) :
    getF (setF s f v) f = v % 2 ^ (f.hi + 1 - f.lo) := by
  simp only [getF, setF, rdN_wrN, if_true]
  rw [Nat.mod_eq_of_lt (setBits_lt v (rdN_lt s _) hl hh), bits_setBits_same _ _ hl]

/-- A field of another register, or of the same register without a common bit, reads as before. -/
theorem getF_setF_other (s : State) (f g : Fld) (v : Nat) (hl : f.lo ≤ f.hi) (hh : f.hi < 32)
    (h : g.off ≠ f.off ∨ f.hi < g.lo ∨ g.hi < f.lo) : getF (setF s f v) g = getF s g := by
  by_cases ho : g.off = f.off
  · simp only [getF, setF, rdN_wrN, ho, if_true]
    rw [Nat.mod_eq_of_lt (setBits_lt v (rdN_lt s _) hl hh)]
    apply bits_setBits_other _ _ hl
    rcases h with h | h
    · exact absurd ho h
    · exact h
  · simp [getF, rdN_setF_ne s f v ho]

theorem getF_wr_ne (s : State) (g : Fld) (o : Nat) (v : Word) (h : g.off ≠ o) : getF (wr s o v) g = getF s g := by
  simp [getF, rdN, rd_wr_ne s v h]

theorem getF_wrN_ne (s : State) (g : Fld) (o v : Nat) (h : g.off ≠ o) : getF (wrN s o v) g = getF s g := getF_wr_ne s g o _ h

/-- A flag raised reads as 1. -/
theorem isSet_raise (s : State) (f : Fld) (h : f.hi = f.lo) (hh : f.hi < 32) : isSet (raise s f) f = true := by
  have : f.hi + 1 - f.lo = 1 := by omega
  simp [isSet, raise, getF_setF_same s f 1 (by omega) hh, this]

theorem getF_setB_same (s : State) (f : Fld) (b : Bool) (hl : f.lo = f.hi) (hh : f.hi < 32) : getF (setB s f b) f = b2n b := by
  have : f.hi + 1 - f.lo = 1 := by omega
  rw [setB, getF_setF_same s f _ (by omega) hh, this]
  cases b <;> rfl

theorem isSet_setB_same (s : State) (f : Fld) (b : Bool) (hl : f.lo = f.hi) (hh : f.hi < 32) : isSet (setB s f b) f = b := by
  simp only [isSet, getF_setB_same s f b hl hh]
  cases b <;> rfl

theorem isSet_setF_other (s : State) (f g : Fld) (v : Nat) (hl : f.lo ≤ f.hi) (hh : f.hi < 32)
    (h : g.off ≠ f.off ∨ f.hi < g.lo ∨ g.hi < f.lo) : isSet (setF s f v) g = isSet s g := by
  simp only [isSet, getF_setF_other s f g v hl hh h]

theorem getF_setB_other (s : State) (f g : Fld) (b : Bool) (hl : f.lo ≤ f.hi) (hh : f.hi < 32)
    (h : g.off ≠ f.off ∨ f.hi < g.lo ∨ g.hi < f.lo) : getF (setB s f b) g = getF s g := getF_setF_other s f g _ hl hh h

theorem isSet_setB_other (s : State) (f g : Fld) (b : Bool) (hl : f.lo ≤ f.hi) (hh : f.hi < 32)
    (h : g.off ≠ f.off ∨ f.hi < g.lo ∨ g.hi < f.lo) : isSet (setB s f b) g = isSet s g := isSet_setF_other s f g _ hl hh h

theorem getF_raise_other (s : State) (f g : Fld) (hl : f.lo ≤ f.hi) (hh : f.hi < 32)
    (h : g.off ≠ f.off ∨ f.hi < g.lo ∨ g.hi < f.lo) : getF (raise s f) g = getF s g := getF_setF_other s f g _ hl hh h

theorem isSet_raise_other (s : State) (f g : Fld) (hl : f.lo ≤ f.hi) (hh : f.hi < 32)
    (h : g.off ≠ f.off ∨ f.hi < g.lo ∨ g.hi < f.lo) : isSet (raise s f) g = isSet s g := isSet_setF_other s f g _ hl hh h

theorem isSet_raise_same (s : State) (f : Fld) (h : f.lo = f.hi) (hh : f.hi < 32) : isSet (raise s f) f = true :=
  isSet_raise s f h.symm hh

theorem getF_bumpF_other (s : State) (f g : Fld) (n : Nat) (hl : f.lo ≤ f.hi) (hh : f.hi < 32)
    (h : g.off ≠ f.off ∨ f.hi < g.lo ∨ g.hi < f.lo) : getF (bumpF s f n) g = getF s g := getF_setF_other s f g _ hl hh h

/-- Reads see the register map alone. -/
theorem rd_congr {s t : State} (h : t.regs = s.regs) (o : Nat) : rd t o = rd s o := by simp [rd, h]

theorem rdN_congr {s t : State} (h : t.regs = s.regs) (o : Nat) : rdN t o = rdN s o := by simp [rdN, rd_congr h]

theorem getF_congr {s t : State} (h : t.regs = s.regs) (f : Fld) : getF t f = getF s f := by simp [getF, rdN_congr h]

theorem isSet_congr {s t : State} (h : t.regs = s.regs) (f : Fld) : isSet t f = isSet s f := by simp [isSet, getF_congr h]

theorem fget_filter_key {α : Type} (m : FMap α) (p : Nat → Bool) (k : Nat) :
    fget (m.filter fun e => p e.1) k = if p k then fget m k else none := by
  induction m with
  | nil => simp [fget]
  | cons e r ih =>
    obtain ⟨a, v⟩ := e
    by_cases ha : p a = true
    · by_cases h : a = k
      · subst h; simp [fget, ha]
      · simpa [fget, ha, h] using ih
    · by_cases h : a = k
      · subst h; simpa [fget, ha] using ih
      · simpa [fget, ha, h] using ih

/-- Registers reset by a property of their offsets. -/
theorem rd_resetRegs (s : State) (p : Nat → Bool) (o : Nat) : rd (resetRegs s p) o = if p o then resetValue o else rd s o := by
  simp only [rd, resetRegs, fgetD, fget_filter_key s.regs (fun k => !p k) o]
  by_cases h : p o = true
  · simp [h]
  · simp [h]

/-- A store keeps the register map in its canonical form. -/
theorem regs_wf_wr {s : State} (h : FMapWf resetValue s.regs = true) (o : Nat) (v : Word) :
    FMapWf resetValue (wr s o v).regs = true := FMapWf_fputD h o v

/-- A block of registers going back to reset keeps the canonical form. -/
theorem regs_wf_resetRegs {s : State} (h : FMapWf resetValue s.regs = true) (p : Nat → Bool) :
    FMapWf resetValue (resetRegs s p).regs = true := FMapWf_filter h _

end Sys2Proof.Machine
end

