-- ==== Sys2Proof/Laws/Settle.lean ====
section
/-! SUPPORT. What the host interface's operations and the carrying out of hard mutes can do, each said once. -/

namespace Sys2Proof.Machine

/-! ### HostOnly -/

theorem HostOnly.refl (s : State) : HostOnly s s := ⟨rfl, rfl, fun _ _ => rfl⟩

theorem HostOnly.pins {s t : State} (h : HostOnly s t) : t.pins = s.pins := (congrArg State.pins h.1 :)
theorem HostOnly.pwr {s t : State} (h : HostOnly s t) : t.pwr = s.pwr := (congrArg State.pwr h.1 :)
theorem HostOnly.boot {s t : State} (h : HostOnly s t) : t.boot = s.boot := (congrArg State.boot h.1 :)
theorem HostOnly.blanes {s t : State} (h : HostOnly s t) : t.blanes = s.blanes := (congrArg State.blanes h.1 :)
theorem HostOnly.rel {s t : State} (h : HostOnly s t) : t.rel = s.rel := (congrArg State.rel h.1 :)
theorem HostOnly.par {s t : State} (h : HostOnly s t) : t.par = s.par := (congrArg State.par h.1 :)
theorem HostOnly.crc {s t : State} (h : HostOnly s t) : t.crc = s.crc := (congrArg State.crc h.1 :)
theorem HostOnly.mains {s t : State} (h : HostOnly s t) : t.mains = s.mains := (congrArg State.mains h.1 :)
theorem HostOnly.rx {s t : State} (h : HostOnly s t) : t.rx = s.rx := (congrArg State.rx h.1 :)
theorem HostOnly.tones {s t : State} (h : HostOnly s t) : t.tones = s.tones := (congrArg State.tones h.1 :)
theorem HostOnly.toneSwap {s t : State} (h : HostOnly s t) : t.toneSwap = s.toneSwap := (congrArg State.toneSwap h.1 :)
theorem HostOnly.lanes {s t : State} (h : HostOnly s t) : t.lanes = s.lanes := (congrArg State.lanes h.1 :)
theorem HostOnly.recs {s t : State} (h : HostOnly s t) : t.recs = s.recs := (congrArg State.recs h.1 :)
theorem HostOnly.msel {s t : State} (h : HostOnly s t) : t.msel = s.msel := (congrArg State.msel h.1 :)
theorem HostOnly.frames {s t : State} (h : HostOnly s t) : t.frames = s.frames := (congrArg State.frames h.1 :)
theorem HostOnly.retain {s t : State} (h : HostOnly s t) : t.retain = s.retain := (congrArg State.retain h.1 :)
theorem HostOnly.heard {s t : State} (h : HostOnly s t) : t.heard = s.heard := (congrArg State.heard h.1 :)
theorem HostOnly.tx {s t : State} (h : HostOnly s t) : t.tx = s.tx := (congrArg State.tx h.1 :)
theorem HostOnly.jobs {s t : State} (h : HostOnly s t) : t.jobs = s.jobs := (congrArg State.jobs h.1 :)
theorem HostOnly.sessions {s t : State} (h : HostOnly s t) : t.sessions = s.sessions := (congrArg State.sessions h.1 :)
theorem HostOnly.quiets {s t : State} (h : HostOnly s t) : t.quiets = s.quiets := (congrArg State.quiets h.1 :)
theorem HostOnly.bands {s t : State} (h : HostOnly s t) : t.bands = s.bands := (congrArg State.bands h.1 :)
theorem HostOnly.air {s t : State} (h : HostOnly s t) : t.air = s.air := (congrArg State.air h.1 :)
theorem HostOnly.sor {s t : State} (h : HostOnly s t) : t.sor = s.sor := (congrArg State.sor h.1 :)
theorem HostOnly.lomsOnset {s t : State} (h : HostOnly s t) : t.lomsOnset = s.lomsOnset := (congrArg State.lomsOnset h.1 :)
theorem HostOnly.pm {s t : State} (h : HostOnly s t) : t.pm = s.pm := (congrArg State.pm h.1 :)
theorem HostOnly.secSeen {s t : State} (h : HostOnly s t) : t.secSeen = s.secSeen := (congrArg State.secSeen h.1 :)
theorem HostOnly.mesh {s t : State} (h : HostOnly s t) : t.mesh = s.mesh := (congrArg State.mesh h.1 :)
theorem HostOnly.dram {s t : State} (h : HostOnly s t) : t.dram = s.dram := (congrArg State.dram h.1 :)
theorem HostOnly.streams {s t : State} (h : HostOnly s t) : t.streams = s.streams := (congrArg State.streams h.1 :)
theorem HostOnly.kqOwners {s t : State} (h : HostOnly s t) : t.kqOwners = s.kqOwners := (congrArg State.kqOwners h.1 :)
theorem HostOnly.sec {s t : State} (h : HostOnly s t) : t.sec = s.sec := (congrArg State.sec h.1 :)
theorem HostOnly.nvs {s t : State} (h : HostOnly s t) : t.nvs = s.nvs := (congrArg State.nvs h.1 :)
theorem HostOnly.rtc {s t : State} (h : HostOnly s t) : t.rtc = s.rtc := (congrArg State.rtc h.1 :)
theorem HostOnly.uart {s t : State} (h : HostOnly s t) : t.uart = s.uart := (congrArg State.uart h.1 :)
theorem HostOnly.i2c {s t : State} (h : HostOnly s t) : t.i2c = s.i2c := (congrArg State.i2c h.1 :)
theorem HostOnly.spi {s t : State} (h : HostOnly s t) : t.spi = s.spi := (congrArg State.spi h.1 :)
theorem HostOnly.jir {s t : State} (h : HostOnly s t) : t.jir = s.jir := (congrArg State.jir h.1 :)
theorem HostOnly.readData {s t : State} (h : HostOnly s t) : t.readData = s.readData := (congrArg State.readData h.1 :)
theorem HostOnly.nextUid {s t : State} (h : HostOnly s t) : t.nextUid = s.nextUid := (congrArg State.nextUid h.1 :)
theorem HostOnly.nextJob {s t : State} (h : HostOnly s t) : t.nextJob = s.nextJob := (congrArg State.nextJob h.1 :)
theorem HostOnly.nextFid {s t : State} (h : HostOnly s t) : t.nextFid = s.nextFid := (congrArg State.nextFid h.1 :)
theorem HostOnly.freeCtr {s t : State} (h : HostOnly s t) : t.freeCtr = s.freeCtr := (congrArg State.freeCtr h.1 :)
theorem HostOnly.pending {s t : State} (h : HostOnly s t) : t.pending = s.pending := (congrArg State.pending h.1 :)

theorem HostOnly.rd {s t : State} (h : HostOnly s t) {o : Nat} (ho : o < 0x8000) : rd t o = rd s o := h.2.2 o ho

theorem HostOnly.rdN {s t : State} (h : HostOnly s t) {o : Nat} (ho : o < 0x8000) : rdN t o = rdN s o := by
  simp [Machine.rdN, h.rd ho]

theorem HostOnly.getF {s t : State} (h : HostOnly s t) {f : Fld} (ho : f.off < 0x8000) : getF t f = getF s f := by
  simp [Machine.getF, h.rdN ho]

theorem HostOnly.isSet {s t : State} (h : HostOnly s t) {f : Fld} (ho : f.off < 0x8000) : isSet t f = isSet s f := by
  simp [Machine.isSet, h.getF ho]

theorem HostOnly.trans {s t u : State} (h : HostOnly s t) (k : HostOnly t u) : HostOnly s u := by
  refine ⟨?_, ?_, fun o ho => (k.2.2 o ho).trans (h.2.2 o ho)⟩
  · have e := congrArg (fun x : State => { x with regs := s.regs, rings := s.rings, banks := s.banks, held := s.held, posted := s.posted, pcie := s.pcie, cmds := s.cmds, players := s.players }) k.1
    exact e.trans h.1
  · have e := congrArg (fun x : Pcie => { x with pba := s.pcie.pba }) k.2.1
    exact e.trans h.2.1

/-- A change of fields of the host interface, registers apart. -/
theorem HostOnly.of_regs {s t : State}
    (h : { t with rings := s.rings, banks := s.banks, held := s.held, posted := s.posted, cmds := s.cmds, players := s.players } = s) :
    HostOnly s t := by
  have hr : t.regs = s.regs := (congrArg State.regs h :)
  have hp : t.pcie = s.pcie := (congrArg State.pcie h :)
  have hb : { t.pcie with pba := s.pcie.pba } = s.pcie := by rw [hp]
  refine ⟨?_, hb, fun o _ => rd_congr hr o⟩
  have e : { t with regs := s.regs, rings := s.rings, banks := s.banks, held := s.held, posted := s.posted, pcie := s.pcie, cmds := s.cmds, players := s.players } =
      { t with rings := s.rings, banks := s.banks, held := s.held, posted := s.posted, cmds := s.cmds, players := s.players } := by
    rw [← hr, ← hp]
  exact e.trans h

/-! ### RingOnly -/

theorem RingOnly.refl {fn : Nat} (s : State) : RingOnly fn s s := ⟨rfl, rfl, fun _ _ => rfl⟩

theorem RingOnly.pins {fn : Nat} {s t : State} (h : RingOnly fn s t) : t.pins = s.pins := (congrArg State.pins h.1 :)
theorem RingOnly.pwr {fn : Nat} {s t : State} (h : RingOnly fn s t) : t.pwr = s.pwr := (congrArg State.pwr h.1 :)
theorem RingOnly.boot {fn : Nat} {s t : State} (h : RingOnly fn s t) : t.boot = s.boot := (congrArg State.boot h.1 :)
theorem RingOnly.blanes {fn : Nat} {s t : State} (h : RingOnly fn s t) : t.blanes = s.blanes := (congrArg State.blanes h.1 :)
theorem RingOnly.rel {fn : Nat} {s t : State} (h : RingOnly fn s t) : t.rel = s.rel := (congrArg State.rel h.1 :)
theorem RingOnly.par {fn : Nat} {s t : State} (h : RingOnly fn s t) : t.par = s.par := (congrArg State.par h.1 :)
theorem RingOnly.crc {fn : Nat} {s t : State} (h : RingOnly fn s t) : t.crc = s.crc := (congrArg State.crc h.1 :)
theorem RingOnly.mains {fn : Nat} {s t : State} (h : RingOnly fn s t) : t.mains = s.mains := (congrArg State.mains h.1 :)
theorem RingOnly.rx {fn : Nat} {s t : State} (h : RingOnly fn s t) : t.rx = s.rx := (congrArg State.rx h.1 :)
theorem RingOnly.tones {fn : Nat} {s t : State} (h : RingOnly fn s t) : t.tones = s.tones := (congrArg State.tones h.1 :)
theorem RingOnly.toneSwap {fn : Nat} {s t : State} (h : RingOnly fn s t) : t.toneSwap = s.toneSwap := (congrArg State.toneSwap h.1 :)
theorem RingOnly.lanes {fn : Nat} {s t : State} (h : RingOnly fn s t) : t.lanes = s.lanes := (congrArg State.lanes h.1 :)
theorem RingOnly.recs {fn : Nat} {s t : State} (h : RingOnly fn s t) : t.recs = s.recs := (congrArg State.recs h.1 :)
theorem RingOnly.msel {fn : Nat} {s t : State} (h : RingOnly fn s t) : t.msel = s.msel := (congrArg State.msel h.1 :)
theorem RingOnly.frames {fn : Nat} {s t : State} (h : RingOnly fn s t) : t.frames = s.frames := (congrArg State.frames h.1 :)
theorem RingOnly.retain {fn : Nat} {s t : State} (h : RingOnly fn s t) : t.retain = s.retain := (congrArg State.retain h.1 :)
theorem RingOnly.heard {fn : Nat} {s t : State} (h : RingOnly fn s t) : t.heard = s.heard := (congrArg State.heard h.1 :)
theorem RingOnly.tx {fn : Nat} {s t : State} (h : RingOnly fn s t) : t.tx = s.tx := (congrArg State.tx h.1 :)
theorem RingOnly.jobs {fn : Nat} {s t : State} (h : RingOnly fn s t) : t.jobs = s.jobs := (congrArg State.jobs h.1 :)
theorem RingOnly.sessions {fn : Nat} {s t : State} (h : RingOnly fn s t) : t.sessions = s.sessions := (congrArg State.sessions h.1 :)
theorem RingOnly.quiets {fn : Nat} {s t : State} (h : RingOnly fn s t) : t.quiets = s.quiets := (congrArg State.quiets h.1 :)
theorem RingOnly.bands {fn : Nat} {s t : State} (h : RingOnly fn s t) : t.bands = s.bands := (congrArg State.bands h.1 :)
theorem RingOnly.air {fn : Nat} {s t : State} (h : RingOnly fn s t) : t.air = s.air := (congrArg State.air h.1 :)
theorem RingOnly.sor {fn : Nat} {s t : State} (h : RingOnly fn s t) : t.sor = s.sor := (congrArg State.sor h.1 :)
theorem RingOnly.lomsOnset {fn : Nat} {s t : State} (h : RingOnly fn s t) : t.lomsOnset = s.lomsOnset := (congrArg State.lomsOnset h.1 :)
theorem RingOnly.pm {fn : Nat} {s t : State} (h : RingOnly fn s t) : t.pm = s.pm := (congrArg State.pm h.1 :)
theorem RingOnly.secSeen {fn : Nat} {s t : State} (h : RingOnly fn s t) : t.secSeen = s.secSeen := (congrArg State.secSeen h.1 :)
theorem RingOnly.mesh {fn : Nat} {s t : State} (h : RingOnly fn s t) : t.mesh = s.mesh := (congrArg State.mesh h.1 :)
theorem RingOnly.dram {fn : Nat} {s t : State} (h : RingOnly fn s t) : t.dram = s.dram := (congrArg State.dram h.1 :)
theorem RingOnly.streams {fn : Nat} {s t : State} (h : RingOnly fn s t) : t.streams = s.streams := (congrArg State.streams h.1 :)
theorem RingOnly.kqOwners {fn : Nat} {s t : State} (h : RingOnly fn s t) : t.kqOwners = s.kqOwners := (congrArg State.kqOwners h.1 :)
theorem RingOnly.players {fn : Nat} {s t : State} (h : RingOnly fn s t) : t.players = s.players := (congrArg State.players h.1 :)
theorem RingOnly.cmds {fn : Nat} {s t : State} (h : RingOnly fn s t) : t.cmds = s.cmds := (congrArg State.cmds h.1 :)
theorem RingOnly.sec {fn : Nat} {s t : State} (h : RingOnly fn s t) : t.sec = s.sec := (congrArg State.sec h.1 :)
theorem RingOnly.nvs {fn : Nat} {s t : State} (h : RingOnly fn s t) : t.nvs = s.nvs := (congrArg State.nvs h.1 :)
theorem RingOnly.rtc {fn : Nat} {s t : State} (h : RingOnly fn s t) : t.rtc = s.rtc := (congrArg State.rtc h.1 :)
theorem RingOnly.uart {fn : Nat} {s t : State} (h : RingOnly fn s t) : t.uart = s.uart := (congrArg State.uart h.1 :)
theorem RingOnly.i2c {fn : Nat} {s t : State} (h : RingOnly fn s t) : t.i2c = s.i2c := (congrArg State.i2c h.1 :)
theorem RingOnly.spi {fn : Nat} {s t : State} (h : RingOnly fn s t) : t.spi = s.spi := (congrArg State.spi h.1 :)
theorem RingOnly.jir {fn : Nat} {s t : State} (h : RingOnly fn s t) : t.jir = s.jir := (congrArg State.jir h.1 :)
theorem RingOnly.readData {fn : Nat} {s t : State} (h : RingOnly fn s t) : t.readData = s.readData := (congrArg State.readData h.1 :)
theorem RingOnly.nextUid {fn : Nat} {s t : State} (h : RingOnly fn s t) : t.nextUid = s.nextUid := (congrArg State.nextUid h.1 :)
theorem RingOnly.nextJob {fn : Nat} {s t : State} (h : RingOnly fn s t) : t.nextJob = s.nextJob := (congrArg State.nextJob h.1 :)
theorem RingOnly.nextFid {fn : Nat} {s t : State} (h : RingOnly fn s t) : t.nextFid = s.nextFid := (congrArg State.nextFid h.1 :)
theorem RingOnly.freeCtr {fn : Nat} {s t : State} (h : RingOnly fn s t) : t.freeCtr = s.freeCtr := (congrArg State.freeCtr h.1 :)
theorem RingOnly.pending {fn : Nat} {s t : State} (h : RingOnly fn s t) : t.pending = s.pending := (congrArg State.pending h.1 :)

theorem RingOnly.rd {fn : Nat} {s t : State} (h : RingOnly fn s t) {o : Nat} (ho : o / 0x1000 ≠ 8 + fn) : rd t o = rd s o := h.2.2 o ho

theorem RingOnly.trans {fn : Nat} {s t u : State} (h : RingOnly fn s t) (k : RingOnly fn t u) : RingOnly fn s u := by
  refine ⟨?_, ?_, fun o ho => (k.2.2 o ho).trans (h.2.2 o ho)⟩
  · have e := congrArg (fun x : State => { x with regs := s.regs, rings := s.rings, banks := s.banks, held := s.held, posted := s.posted, pcie := s.pcie }) k.1
    exact e.trans h.1
  · have e := congrArg (fun x : Pcie => { x with pba := s.pcie.pba }) k.2.1
    exact e.trans h.2.1

theorem RingOnly.of_regs {fn : Nat} {s t : State}
    (h : { t with rings := s.rings, banks := s.banks, held := s.held, posted := s.posted } = s) : RingOnly fn s t := by
  have hr : t.regs = s.regs := (congrArg State.regs h :)
  have hp : t.pcie = s.pcie := (congrArg State.pcie h :)
  refine ⟨?_, by rw [hp], fun o _ => rd_congr hr o⟩
  have e : { t with regs := s.regs, rings := s.rings, banks := s.banks, held := s.held, posted := s.posted, pcie := s.pcie } =
      { t with rings := s.rings, banks := s.banks, held := s.held, posted := s.posted } := by
    rw [← hr, ← hp]
  exact e.trans h

theorem RingOnly.toHost {fn : Nat} {s t : State} (h : RingOnly fn s t) : HostOnly s t := by
  refine ⟨?_, h.2.1, fun o ho => h.2.2 o (by omega)⟩
  have e := congrArg (fun x : State => { x with regs := s.regs, rings := s.rings, banks := s.banks, held := s.held, posted := s.posted, pcie := s.pcie, cmds := s.cmds, players := s.players }) h.1
  exact e

theorem window_off (fn o : Nat) (h : o < 0x1000) : (0x8000 + 0x1000 * fn + o) / 0x1000 = 8 + fn := by omega

theorem ringOnly_wr {fn : Nat} (s : State) {o : Nat} (v : Word) (ho : o / 0x1000 = 8 + fn) : RingOnly fn s (wr s o v) :=
  ⟨rfl, rfl, fun _ h => rd_wr_ne s v (fun e => h (e ▸ ho))⟩

theorem ringOnly_post {fn : Nat} (s : State) (o : Output) : RingOnly fn s (post s o) := RingOnly.of_regs rfl

theorem ringOnly_setRing (s : State) (fn r : Nat) (x : Ring) : RingOnly fn s (setRing s fn r x) := RingOnly.of_regs rfl

theorem ringOnly_setBank (s : State) (fn c : Nat) (l : List BankRec) : RingOnly fn s (setBank s fn c l) := RingOnly.of_regs rfl

theorem ringOnly_ite {fn : Nat} {s a b : State} {c : Prop} [Decidable c] (ha : RingOnly fn s a) (hb : RingOnly fn s b) :
    RingOnly fn s (if c then a else b) := by
  split
  · exact ha
  · exact hb

theorem ringOnly_raiseVector (s : State) (fn v : Nat) : RingOnly fn s (raiseVector s fn v) := by
  unfold raiseVector
  exact ringOnly_ite (ringOnly_post s _) ⟨rfl, rfl, fun _ _ => rfl⟩

theorem fnEvt_high (fn : Nat) : R.HQE_FN_EVT fn / 0x1000 = 8 + fn := by unfold R.HQE_FN_EVT; omega

theorem ringOnly_raiseFnEvt (s : State) (fn b : Nat) : RingOnly fn s (raiseFnEvt s fn b) := by
  unfold raiseFnEvt
  dsimp only
  split
  · exact (ringOnly_wr s _ (fnEvt_high fn)).trans (ringOnly_raiseVector _ _ _)
  · exact ringOnly_wr s _ (fnEvt_high fn)

theorem ringOnly_loseRecord (s : State) (fn r : Nat) : RingOnly fn s (loseRecord s fn r) := by
  unfold loseRecord
  dsimp only
  have hq : (F.HQE_FN_LOST_RQ fn).off / 0x1000 = 8 + fn := by show R.HQE_FN_LOST fn / 0x1000 = 8 + fn; unfold R.HQE_FN_LOST; omega
  have he : (F.HQE_FN_LOST_EQ fn).off / 0x1000 = 8 + fn := by show R.HQE_FN_LOST fn / 0x1000 = 8 + fn; unfold R.HQE_FN_LOST; omega
  split
  · exact (ringOnly_setRing s _ _ _).trans ((ringOnly_wr _ _ hq).trans (ringOnly_raiseFnEvt _ _ _))
  · split
    · exact (ringOnly_setRing s _ _ _).trans ((ringOnly_wr _ _ he).trans (ringOnly_raiseFnEvt _ _ _))
    · exact ringOnly_raiseFnEvt _ _ _

theorem ringOnly_writeEntry (s : State) (fn : Nat) (b : BankRec) : RingOnly fn s (writeEntry s fn b) := by
  have raised : ∀ (c : Prop) [Decidable c] (u : State) (v : Nat), RingOnly fn s u → RingOnly fn s (if c then raiseVector u fn v else u) :=
    fun c _ u v h => ringOnly_ite (h.trans (ringOnly_raiseVector _ _ _)) h
  have sent : ∀ (c : Prop) [Decidable c] (u : State) (o : Output), RingOnly fn s u → RingOnly fn s (if c then post u o else u) :=
    fun c _ u o h => ringOnly_ite (h.trans (ringOnly_post _ _)) h
  unfold writeEntry
  refine ringOnly_ite (ringOnly_ite ?_ (ringOnly_loseRecord s _ _)) (raised _ _ _ (sent _ _ _ ?_))
  · refine RingOnly.trans ?_ (ringOnly_raiseFnEvt _ _ _)
    exact RingOnly.of_regs rfl
  · refine RingOnly.trans ?_ (ringOnly_setRing _ _ _ _)
    refine RingOnly.trans ?_ (ringOnly_post _ _)
    exact ringOnly_ite (RingOnly.refl s) (ringOnly_post s _)

theorem ringOnly_writeEntries (l : List BankRec) (s : State) (fn : Nat) : RingOnly fn s (writeEntries s fn l) := by
  induction l generalizing s with
  | nil => exact RingOnly.refl s
  | cons b l ih => exact (ringOnly_writeEntry s fn b).trans (ih _)

theorem ringOnly_drainBank (s : State) (fn c : Nat) : RingOnly fn s (drainBank s fn c) :=
  (ringOnly_setBank s _ _ _).trans (ringOnly_writeEntries _ _ _)

theorem ringOnly_drainClass (s : State) (fn c : Nat) : RingOnly fn s (drainClass s fn c) := by
  unfold drainClass
  split
  · exact ((ringOnly_drainBank _ _ _).trans (ringOnly_drainBank _ _ _)).trans (ringOnly_drainBank _ _ _)
  · exact ringOnly_drainBank _ _ _

theorem ringOnly_bankAdd (s : State) (fn : Nat) (b : BankRec) : RingOnly fn s (bankAdd s fn b) := by
  have full : ∀ (c : Prop) [Decidable c] (u : State) (k : Nat) (l : List BankRec), RingOnly fn s u →
      RingOnly fn s (if c then drainClass (setBank u fn k l) fn k else setBank u fn k l) := fun c _ u k l h =>
    ringOnly_ite ((h.trans (ringOnly_setBank _ _ _ _)).trans (ringOnly_drainClass _ _ _)) (h.trans (ringOnly_setBank _ _ _ _))
  exact full _ _ _ _ (ringOnly_ite (ringOnly_drainClass _ _ _) (RingOnly.refl s))

theorem ringOnly_placeCompletion (s : State) (fn cq sq : Nat) (l : List Byte) (fin : Bool) :
    RingOnly fn s (placeCompletion s fn cq sq l fin) := by
  unfold placeCompletion
  split
  · exact ringOnly_bankAdd s _ _
  · refine RingOnly.trans ?_ (ringOnly_raiseFnEvt _ _ _)
    exact RingOnly.of_regs rfl

theorem hostOnly_ite {s a b : State} {c : Prop} [Decidable c] (ha : HostOnly s a) (hb : HostOnly s b) :
    HostOnly s (if c then a else b) := by
  split
  · exact ha
  · exact hb

theorem hostOnly_raiseVector (s : State) (fn v : Nat) : HostOnly s (raiseVector s fn v) := (ringOnly_raiseVector s fn v).toHost

theorem hostOnly_raiseFnEvt (s : State) (fn b : Nat) : HostOnly s (raiseFnEvt s fn b) := (ringOnly_raiseFnEvt s fn b).toHost

theorem hostOnly_drainBank (s : State) (fn c : Nat) : HostOnly s (drainBank s fn c) := (ringOnly_drainBank s fn c).toHost

theorem hostOnly_bankAdd (s : State) (fn : Nat) (b : BankRec) : HostOnly s (bankAdd s fn b) := (ringOnly_bankAdd s fn b).toHost

theorem hostOnly_placeCompletion (s : State) (fn cq sq : Nat) (l : List Byte) (fin : Bool) :
    HostOnly s (placeCompletion s fn cq sq l fin) := (ringOnly_placeCompletion s fn cq sq l fin).toHost

/-- A final completion takes its command out of those outstanding, and touches its function's rings alone beside (R362, R364). -/
theorem ringOnly_completeAt (s : State) (c : Cmd) (status detail len ts : Nat) :
    RingOnly c.fn (endCmd s c.uid) (completeAt s c status detail len ts) := ringOnly_placeCompletion ..

theorem completeAt_cmds (s : State) (c : Cmd) (status detail len ts : Nat) :
    (completeAt s c status detail len ts).cmds = s.cmds.filter fun d => !(d.uid == c.uid) := (ringOnly_completeAt s c status detail len ts).cmds

theorem complete_cmds (s : State) (c : Cmd) (status detail len : Nat) :
    (complete s c status detail len).cmds = s.cmds.filter fun d => !(d.uid == c.uid) := completeAt_cmds ..

theorem completeAt_players (s : State) (c : Cmd) (status detail len ts : Nat) :
    (completeAt s c status detail len ts).players = s.players := (ringOnly_completeAt s c status detail len ts).players

/-- A final completion touches the host interface alone (R362, R364, R367). -/
theorem hostOnly_completeAt (s : State) (c : Cmd) (status detail len ts : Nat) : HostOnly s (completeAt s c status detail len ts) := by
  unfold completeAt
  refine HostOnly.trans ?_ (hostOnly_placeCompletion _ _ _ _ _ _)
  exact HostOnly.of_regs rfl

theorem hostOnly_complete (s : State) (c : Cmd) (status detail len : Nat) : HostOnly s (complete s c status detail len) :=
  hostOnly_completeAt ..

theorem hostOnly_deferCmd (s : State) (c : Cmd) (est : Nat) : HostOnly s (deferCmd s c est) := by
  unfold deferCmd
  split
  · exact HostOnly.refl s
  · refine HostOnly.trans ?_ (hostOnly_placeCompletion _ _ _ _ _ _)
    exact HostOnly.of_regs rfl

/-- An event touches its function's rings alone (R369). -/
theorem ringOnly_event (s : State) (fn typ concerned ts cidx : Nat) (p : List Byte) : RingOnly fn s (event s fn typ concerned ts cidx p) := by
  unfold event
  split
  · exact RingOnly.refl s
  · split
    · exact (ringOnly_setRing s _ _ _).trans (ringOnly_bankAdd _ _ _)
    · exact ringOnly_loseRecord s _ _

theorem ringOnly_eventNow (s : State) (fn typ concerned : Nat) (p : List Byte) : RingOnly fn s (eventNow s fn typ concerned p) :=
  ringOnly_event ..

theorem hostOnly_event (s : State) (fn typ concerned ts cidx : Nat) (p : List Byte) : HostOnly s (event s fn typ concerned ts cidx p) :=
  (ringOnly_event s fn typ concerned ts cidx p).toHost

theorem hostOnly_eventNow (s : State) (fn typ concerned : Nat) (p : List Byte) : HostOnly s (eventNow s fn typ concerned p) :=
  hostOnly_event ..

theorem hostOnly_eventBoth (s : State) (fn typ : Nat) (p : List Byte) : HostOnly s (eventBoth s fn typ p) := by
  unfold eventBoth
  dsimp only
  split
  · exact hostOnly_eventNow s _ _ _ _
  · exact (hostOnly_eventNow s _ _ _ _).trans (hostOnly_eventNow _ _ _ _ _)

theorem hostOnly_decision (s : State) (fn item : Nat) (d : Bool) (obj old new input : Nat) :
    HostOnly s (decision s fn item d obj old new input) := hostOnly_eventBoth ..

theorem ringOnly_releaseHeld (n : Nat) (s : State) (fn cq : Nat) : RingOnly fn s (releaseHeld n s fn cq) := by
  induction n generalizing s with
  | zero => exact RingOnly.refl s
  | succ n ih =>
    unfold releaseHeld
    split
    · exact RingOnly.refl s
    · split
      · refine RingOnly.trans ?_ (ih _)
        refine RingOnly.trans ?_ (ringOnly_bankAdd _ _ _)
        exact RingOnly.of_regs rfl
      · exact RingOnly.refl s

/-! ### Hard mutes carried out -/

theorem hostOnly_completeCut (s : State) (j : Job) : HostOnly s (completeCut s j) := by
  unfold completeCut
  split
  · exact HostOnly.refl s
  · split
    · exact HostOnly.refl s
    · split
      · split
        · exact hostOnly_completeAt ..
        · exact HostOnly.refl s
      · split
        · exact hostOnly_completeAt ..
        · exact HostOnly.refl s
      · dsimp only
        split
        · refine HostOnly.trans ?_ (hostOnly_complete _ _ _ _ _)
          exact HostOnly.of_regs rfl
        · exact HostOnly.of_regs rfl
      · exact HostOnly.refl s

theorem hostOnly_completeCuts (l : List Job) (s : State) : HostOnly s (completeCuts s l) := by
  induction l generalizing s with
  | nil => exact HostOnly.refl s
  | cons j l ih => exact (hostOnly_completeCut s j).trans (ih _)

/-- What hard-mutes a phase: nothing else is read. -/
theorem hardMute_congr {s t : State} (h1 : t.rel = s.rel) (h2 : t.tx = s.tx) (h3 : t.crc = s.crc) (h4 : t.par = s.par)
    (h5 : t.pins = s.pins) (h6 : t.pwr = s.pwr) (p : Nat) : hardMute t p = hardMute s p := by
  simp [hardMute, txf, txPh, h1, h2, h3, h4, h5, h6]

theorem HostOnly.hardMute {s t : State} (h : HostOnly s t) (p : Nat) : hardMute t p = hardMute s p :=
  hardMute_congr h.rel h.tx h.crc h.par h.pins h.pwr p

/-- `settle` touches the host interface, the copies and the phases' transmitting time. -/
theorem settle_eq (s : State) : settle s = { completeCuts s s.jobs with
    jobs := s.jobs.map fun j => { j with copies := j.copies.map (cutCopy s) }
    tx := s.tx.map fun e => (e.1, if (hardMute s e.1).isSome then e.2.stopped s.mains.elapsed else e.2) } := by
  have h := hostOnly_completeCuts s.jobs s
  have hc : cutCopy (completeCuts s s.jobs) = cutCopy s := by
    funext c; simp only [cutCopy, h.hardMute, h.mains]
  unfold settle
  simp only [hc, h.hardMute, h.jobs, h.tx, h.mains]

@[simp] theorem settle_pins (s : State) : (settle s).pins = s.pins := (hostOnly_completeCuts s.jobs s).pins
@[simp] theorem settle_pwr (s : State) : (settle s).pwr = s.pwr := (hostOnly_completeCuts s.jobs s).pwr
@[simp] theorem settle_boot (s : State) : (settle s).boot = s.boot := (hostOnly_completeCuts s.jobs s).boot
@[simp] theorem settle_blanes (s : State) : (settle s).blanes = s.blanes := (hostOnly_completeCuts s.jobs s).blanes
@[simp] theorem settle_rel (s : State) : (settle s).rel = s.rel := (hostOnly_completeCuts s.jobs s).rel
@[simp] theorem settle_par (s : State) : (settle s).par = s.par := (hostOnly_completeCuts s.jobs s).par
@[simp] theorem settle_crc (s : State) : (settle s).crc = s.crc := (hostOnly_completeCuts s.jobs s).crc
@[simp] theorem settle_mains (s : State) : (settle s).mains = s.mains := (hostOnly_completeCuts s.jobs s).mains
@[simp] theorem settle_rx (s : State) : (settle s).rx = s.rx := (hostOnly_completeCuts s.jobs s).rx
@[simp] theorem settle_tones (s : State) : (settle s).tones = s.tones := (hostOnly_completeCuts s.jobs s).tones
@[simp] theorem settle_toneSwap (s : State) : (settle s).toneSwap = s.toneSwap := (hostOnly_completeCuts s.jobs s).toneSwap
@[simp] theorem settle_lanes (s : State) : (settle s).lanes = s.lanes := (hostOnly_completeCuts s.jobs s).lanes
@[simp] theorem settle_recs (s : State) : (settle s).recs = s.recs := (hostOnly_completeCuts s.jobs s).recs
@[simp] theorem settle_msel (s : State) : (settle s).msel = s.msel := (hostOnly_completeCuts s.jobs s).msel
@[simp] theorem settle_frames (s : State) : (settle s).frames = s.frames := (hostOnly_completeCuts s.jobs s).frames
@[simp] theorem settle_retain (s : State) : (settle s).retain = s.retain := (hostOnly_completeCuts s.jobs s).retain
@[simp] theorem settle_heard (s : State) : (settle s).heard = s.heard := (hostOnly_completeCuts s.jobs s).heard
@[simp] theorem settle_sessions (s : State) : (settle s).sessions = s.sessions := (hostOnly_completeCuts s.jobs s).sessions
@[simp] theorem settle_quiets (s : State) : (settle s).quiets = s.quiets := (hostOnly_completeCuts s.jobs s).quiets
@[simp] theorem settle_bands (s : State) : (settle s).bands = s.bands := (hostOnly_completeCuts s.jobs s).bands
@[simp] theorem settle_air (s : State) : (settle s).air = s.air := (hostOnly_completeCuts s.jobs s).air
@[simp] theorem settle_sor (s : State) : (settle s).sor = s.sor := (hostOnly_completeCuts s.jobs s).sor
@[simp] theorem settle_lomsOnset (s : State) : (settle s).lomsOnset = s.lomsOnset := (hostOnly_completeCuts s.jobs s).lomsOnset
@[simp] theorem settle_pm (s : State) : (settle s).pm = s.pm := (hostOnly_completeCuts s.jobs s).pm
@[simp] theorem settle_secSeen (s : State) : (settle s).secSeen = s.secSeen := (hostOnly_completeCuts s.jobs s).secSeen
@[simp] theorem settle_mesh (s : State) : (settle s).mesh = s.mesh := (hostOnly_completeCuts s.jobs s).mesh
@[simp] theorem settle_dram (s : State) : (settle s).dram = s.dram := (hostOnly_completeCuts s.jobs s).dram
@[simp] theorem settle_streams (s : State) : (settle s).streams = s.streams := (hostOnly_completeCuts s.jobs s).streams
@[simp] theorem settle_kqOwners (s : State) : (settle s).kqOwners = s.kqOwners := (hostOnly_completeCuts s.jobs s).kqOwners
@[simp] theorem settle_sec (s : State) : (settle s).sec = s.sec := (hostOnly_completeCuts s.jobs s).sec
@[simp] theorem settle_nvs (s : State) : (settle s).nvs = s.nvs := (hostOnly_completeCuts s.jobs s).nvs
@[simp] theorem settle_rtc (s : State) : (settle s).rtc = s.rtc := (hostOnly_completeCuts s.jobs s).rtc
@[simp] theorem settle_uart (s : State) : (settle s).uart = s.uart := (hostOnly_completeCuts s.jobs s).uart
@[simp] theorem settle_i2c (s : State) : (settle s).i2c = s.i2c := (hostOnly_completeCuts s.jobs s).i2c
@[simp] theorem settle_spi (s : State) : (settle s).spi = s.spi := (hostOnly_completeCuts s.jobs s).spi
@[simp] theorem settle_jir (s : State) : (settle s).jir = s.jir := (hostOnly_completeCuts s.jobs s).jir
@[simp] theorem settle_readData (s : State) : (settle s).readData = s.readData := (hostOnly_completeCuts s.jobs s).readData
@[simp] theorem settle_nextUid (s : State) : (settle s).nextUid = s.nextUid := (hostOnly_completeCuts s.jobs s).nextUid
@[simp] theorem settle_nextJob (s : State) : (settle s).nextJob = s.nextJob := (hostOnly_completeCuts s.jobs s).nextJob
@[simp] theorem settle_nextFid (s : State) : (settle s).nextFid = s.nextFid := (hostOnly_completeCuts s.jobs s).nextFid
@[simp] theorem settle_freeCtr (s : State) : (settle s).freeCtr = s.freeCtr := (hostOnly_completeCuts s.jobs s).freeCtr
@[simp] theorem settle_pending (s : State) : (settle s).pending = s.pending := (hostOnly_completeCuts s.jobs s).pending

theorem settle_rd (s : State) {o : Nat} (ho : o < 0x8000) : rd (settle s) o = rd s o := (hostOnly_completeCuts s.jobs s).rd ho

theorem settle_rdN (s : State) {o : Nat} (ho : o < 0x8000) : rdN (settle s) o = rdN s o := (hostOnly_completeCuts s.jobs s).rdN ho

theorem settle_getF (s : State) {f : Fld} (ho : f.off < 0x8000) : getF (settle s) f = getF s f :=
  (hostOnly_completeCuts s.jobs s).getF ho

theorem settle_isSet (s : State) {f : Fld} (ho : f.off < 0x8000) : isSet (settle s) f = isSet s f :=
  (hostOnly_completeCuts s.jobs s).isSet ho

theorem settle_jobs (s : State) : (settle s).jobs = s.jobs.map fun j => { j with copies := j.copies.map (cutCopy s) } := by
  rw [settle_eq]

theorem settle_tx (s : State) :
    (settle s).tx = s.tx.map fun e => (e.1, if (hardMute s e.1).isSome then e.2.stopped s.mains.elapsed else e.2) := by
  rw [settle_eq]

theorem fget_map {α : Type} (m : FMap α) (f : Nat → α → α) (k : Nat) : fget (m.map fun e => (e.1, f e.1 e.2)) k = (fget m k).map (f k) := by
  induction m with
  | nil => rfl
  | cons e r ih =>
    obtain ⟨a, v⟩ := e
    by_cases h : a = k
    · subst h; simp [fget]
    · simpa [fget, h] using ih

theorem stopped_causes (x : TxPh) (now : Nat) : (x.stopped now).oc = x.oc ∧ (x.stopped now).therm = x.therm ∧
    (x.stopped now).uv = x.uv ∧ (x.stopped now).pg = x.pg := by
  unfold TxPh.stopped
  split <;> simp

theorem stopped_onSince (x : TxPh) (now : Nat) : (x.stopped now).onSince = none := by
  unfold TxPh.stopped
  split
  · rfl
  · assumption

theorem settle_txPh (s : State) (p : Nat) :
    txPh (settle s) p = if (hardMute s p).isSome then (txPh s p).stopped s.mains.elapsed else txPh s p := by
  unfold txPh fgetD
  rw [settle_tx, fget_map s.tx (fun k v => if (hardMute s k).isSome then v.stopped s.mains.elapsed else v) p]
  cases fget s.tx p with
  | none => split <;> simp [TxPh.stopped]
  | some x => simp

theorem settle_txf (s : State) (p : Nat) : txf (settle s) p = txf s p := by
  simp only [txf, settle_txPh, settle_rel]
  split
  · have h := stopped_causes (txPh s p) s.mains.elapsed
    simp [h.1, h.2.1, h.2.2.1, h.2.2.2]
  · rfl

@[simp] theorem settle_hardMute (s : State) (p : Nat) : hardMute (settle s) p = hardMute s p := by
  simp only [hardMute, settle_rel, settle_txf, settle_crc, settle_par, settle_pins, settle_pwr]

/-- What `settle` leaves is settled. -/
theorem settled_settle (s : State) : Settled (settle s) := by
  constructor
  · intro j hj c hc hon
    rw [settle_hardMute]
    rw [settle_jobs] at hj
    obtain ⟨k, -, rfl⟩ := List.mem_map.1 hj
    obtain ⟨d, -, rfl⟩ := List.mem_map.1 hc
    unfold cutCopy at hon ⊢
    split at hon
    · exact absurd hon (by simp)
    · rename_i h
      simp only [if_neg h] at hon ⊢
      by_contra hm
      exact h ⟨hon, by simpa [Option.isSome_iff_ne_none] using hm⟩
  · intro e he hm
    rw [settle_hardMute] at hm
    rw [settle_tx] at he
    obtain ⟨d, -, rfl⟩ := List.mem_map.1 he
    simp only [hm, if_true, stopped_onSince]

theorem completeCuts_safe (l : List Job) (s : State) (h : ∀ j ∈ l, ∀ c ∈ j.copies, c.st = .onAir → hardMute s c.ch.ph = none) :
    completeCuts s l = s := by
  induction l with
  | nil => rfl
  | cons j l ih =>
    have hj : jobCut s j = none := by
      unfold jobCut
      rw [List.findSome?_eq_none_iff]
      intro c hc
      by_cases hon : c.st = .onAir
      · simp [hon, h j (by simp) c hc hon]
      · simp [hon]
    have : completeCut s j = s := by unfold completeCut; rw [hj]
    simp only [completeCuts, this]
    exact ih fun k hk => h k (by simp [hk])

/-- A settled state has nothing left to carry out. -/
theorem settle_of_settled {s : State} (h : Settled s) : settle s = s := by
  rw [settle_eq, completeCuts_safe s.jobs s h.1]
  have e1 : (s.jobs.map fun j => { j with copies := j.copies.map (cutCopy s) }) = s.jobs := by
    conv_rhs => rw [← List.map_id s.jobs]
    apply List.map_congr_left
    intro j hj
    have : j.copies.map (cutCopy s) = j.copies := by
      conv_rhs => rw [← List.map_id j.copies]
      apply List.map_congr_left
      intro c hc
      unfold cutCopy
      split
      · rename_i hm
        rw [h.1 j hj c hc hm.1] at hm
        simp at hm
      · rfl
    rw [this]; rfl
  have e2 : (s.tx.map fun e => (e.1, if (hardMute s e.1).isSome then e.2.stopped s.mains.elapsed else e.2)) = s.tx := by
    conv_rhs => rw [← List.map_id s.tx]
    apply List.map_congr_left
    intro e he
    by_cases hm : (hardMute s e.1).isSome
    · have := h.2 e he hm
      simp [hm, TxPh.stopped, this]
    · simp [hm]
  rw [e1, e2]

theorem settled_reset : Settled State.reset := by
  constructor
  · intro j hj; exact absurd hj (by simp [State.reset])
  · intro e he; exact absurd he (by simp [State.reset])

/-- A change that leaves the jobs, the phases and what mutes them alone keeps a state settled. -/
theorem Settled.congr {s t : State} (h : Settled s) (hj : t.jobs = s.jobs) (ht : t.tx = s.tx)
    (hm : ∀ p, hardMute t p = hardMute s p) : Settled t := by
  constructor
  · intro j hj' c hc hon
    rw [hm]; exact h.1 j (hj ▸ hj') c hc hon
  · intro e he hs
    rw [hm] at hs; exact h.2 e (ht ▸ he) hs

theorem Settled.of_host {s t : State} (h : Settled s) (k : HostOnly s t) : Settled t := h.congr k.jobs k.tx k.hardMute

theorem Settled.of_regs {s t : State} (h : Settled s) (k : { t with regs := s.regs } = s) : Settled t :=
  h.congr (congrArg State.jobs k :) (congrArg State.tx k :)
    (hardMute_congr (congrArg State.rel k :) (congrArg State.tx k :) (congrArg State.crc k :) (congrArg State.par k :)
      (congrArg State.pins k :) (congrArg State.pwr k :))

/-- A meaning that leaves the line alone answers its state as it is. -/
theorem done_of_settled {s : State} (h : Settled s) : done s = .next s := by
  unfold done; rw [settle_of_settled h]

end Sys2Proof.Machine
end

