-- ==== Sys2Proof/Laws/RegsOnly.lean ====
section
/-! SUPPORT. Changes of registers alone. -/

namespace Sys2Proof.Machine

theorem RegsOnly.refl (s : State) : RegsOnly s s := rfl

theorem RegsOnly.trans {s t u : State} (h : RegsOnly s t) (k : RegsOnly t u) : RegsOnly s u := by
  have e := congrArg (fun x : State => { x with regs := s.regs }) k
  exact e.trans h

theorem RegsOnly.wr {s t : State} (h : RegsOnly s t) (o : Nat) (v : Word) : RegsOnly s (wr t o v) := h
theorem RegsOnly.wrN {s t : State} (h : RegsOnly s t) (o v : Nat) : RegsOnly s (wrN t o v) := h
theorem RegsOnly.setF {s t : State} (h : RegsOnly s t) (f : Fld) (v : Nat) : RegsOnly s (setF t f v) := h
theorem RegsOnly.raise {s t : State} (h : RegsOnly s t) (f : Fld) : RegsOnly s (raise t f) := h
theorem RegsOnly.setB {s t : State} (h : RegsOnly s t) (f : Fld) (b : Bool) : RegsOnly s (setB t f b) := h
theorem RegsOnly.raiseBit {s t : State} (h : RegsOnly s t) (o i : Nat) : RegsOnly s (raiseBit t o i) := h
theorem RegsOnly.bump {s t : State} (h : RegsOnly s t) (o n : Nat) : RegsOnly s (bump t o n) := h
theorem RegsOnly.bumpF {s t : State} (h : RegsOnly s t) (f : Fld) (n : Nat) : RegsOnly s (bumpF t f n) := h
theorem RegsOnly.resetRegs {s t : State} (h : RegsOnly s t) (p : Nat → Bool) : RegsOnly s (resetRegs t p) := h
theorem RegsOnly.ite {s a b : State} {c : Prop} [Decidable c] (ha : RegsOnly s a) (hb : RegsOnly s b) : RegsOnly s (if c then a else b) := by
  split
  · exact ha
  · exact hb

theorem RegsOnly.foldl {α : Type} {s t : State} (h : RegsOnly s t) (f : State → α → State) (l : List α)
    (hf : ∀ u a, RegsOnly u (f u a)) : RegsOnly s (l.foldl f t) := by
  induction l generalizing t with
  | nil => exact h
  | cons a l ih => exact ih (h.trans (hf t a))

theorem RegsOnly.pins {s t : State} (h : RegsOnly s t) : t.pins = s.pins := (congrArg State.pins h :)
theorem RegsOnly.pwr {s t : State} (h : RegsOnly s t) : t.pwr = s.pwr := (congrArg State.pwr h :)
theorem RegsOnly.pcie {s t : State} (h : RegsOnly s t) : t.pcie = s.pcie := (congrArg State.pcie h :)
theorem RegsOnly.boot {s t : State} (h : RegsOnly s t) : t.boot = s.boot := (congrArg State.boot h :)
theorem RegsOnly.blanes {s t : State} (h : RegsOnly s t) : t.blanes = s.blanes := (congrArg State.blanes h :)
theorem RegsOnly.rel {s t : State} (h : RegsOnly s t) : t.rel = s.rel := (congrArg State.rel h :)
theorem RegsOnly.par {s t : State} (h : RegsOnly s t) : t.par = s.par := (congrArg State.par h :)
theorem RegsOnly.crc {s t : State} (h : RegsOnly s t) : t.crc = s.crc := (congrArg State.crc h :)
theorem RegsOnly.mains {s t : State} (h : RegsOnly s t) : t.mains = s.mains := (congrArg State.mains h :)
theorem RegsOnly.rx {s t : State} (h : RegsOnly s t) : t.rx = s.rx := (congrArg State.rx h :)
theorem RegsOnly.tones {s t : State} (h : RegsOnly s t) : t.tones = s.tones := (congrArg State.tones h :)
theorem RegsOnly.toneSwap {s t : State} (h : RegsOnly s t) : t.toneSwap = s.toneSwap := (congrArg State.toneSwap h :)
theorem RegsOnly.lanes {s t : State} (h : RegsOnly s t) : t.lanes = s.lanes := (congrArg State.lanes h :)
theorem RegsOnly.recs {s t : State} (h : RegsOnly s t) : t.recs = s.recs := (congrArg State.recs h :)
theorem RegsOnly.msel {s t : State} (h : RegsOnly s t) : t.msel = s.msel := (congrArg State.msel h :)
theorem RegsOnly.frames {s t : State} (h : RegsOnly s t) : t.frames = s.frames := (congrArg State.frames h :)
theorem RegsOnly.retain {s t : State} (h : RegsOnly s t) : t.retain = s.retain := (congrArg State.retain h :)
theorem RegsOnly.heard {s t : State} (h : RegsOnly s t) : t.heard = s.heard := (congrArg State.heard h :)
theorem RegsOnly.tx {s t : State} (h : RegsOnly s t) : t.tx = s.tx := (congrArg State.tx h :)
theorem RegsOnly.jobs {s t : State} (h : RegsOnly s t) : t.jobs = s.jobs := (congrArg State.jobs h :)
theorem RegsOnly.sessions {s t : State} (h : RegsOnly s t) : t.sessions = s.sessions := (congrArg State.sessions h :)
theorem RegsOnly.quiets {s t : State} (h : RegsOnly s t) : t.quiets = s.quiets := (congrArg State.quiets h :)
theorem RegsOnly.bands {s t : State} (h : RegsOnly s t) : t.bands = s.bands := (congrArg State.bands h :)
theorem RegsOnly.air {s t : State} (h : RegsOnly s t) : t.air = s.air := (congrArg State.air h :)
theorem RegsOnly.sor {s t : State} (h : RegsOnly s t) : t.sor = s.sor := (congrArg State.sor h :)
theorem RegsOnly.lomsOnset {s t : State} (h : RegsOnly s t) : t.lomsOnset = s.lomsOnset := (congrArg State.lomsOnset h :)
theorem RegsOnly.pm {s t : State} (h : RegsOnly s t) : t.pm = s.pm := (congrArg State.pm h :)
theorem RegsOnly.secSeen {s t : State} (h : RegsOnly s t) : t.secSeen = s.secSeen := (congrArg State.secSeen h :)
theorem RegsOnly.mesh {s t : State} (h : RegsOnly s t) : t.mesh = s.mesh := (congrArg State.mesh h :)
theorem RegsOnly.dram {s t : State} (h : RegsOnly s t) : t.dram = s.dram := (congrArg State.dram h :)
theorem RegsOnly.streams {s t : State} (h : RegsOnly s t) : t.streams = s.streams := (congrArg State.streams h :)
theorem RegsOnly.kqOwners {s t : State} (h : RegsOnly s t) : t.kqOwners = s.kqOwners := (congrArg State.kqOwners h :)
theorem RegsOnly.players {s t : State} (h : RegsOnly s t) : t.players = s.players := (congrArg State.players h :)
theorem RegsOnly.rings {s t : State} (h : RegsOnly s t) : t.rings = s.rings := (congrArg State.rings h :)
theorem RegsOnly.banks {s t : State} (h : RegsOnly s t) : t.banks = s.banks := (congrArg State.banks h :)
theorem RegsOnly.held {s t : State} (h : RegsOnly s t) : t.held = s.held := (congrArg State.held h :)
theorem RegsOnly.cmds {s t : State} (h : RegsOnly s t) : t.cmds = s.cmds := (congrArg State.cmds h :)
theorem RegsOnly.sec {s t : State} (h : RegsOnly s t) : t.sec = s.sec := (congrArg State.sec h :)
theorem RegsOnly.nvs {s t : State} (h : RegsOnly s t) : t.nvs = s.nvs := (congrArg State.nvs h :)
theorem RegsOnly.rtc {s t : State} (h : RegsOnly s t) : t.rtc = s.rtc := (congrArg State.rtc h :)
theorem RegsOnly.uart {s t : State} (h : RegsOnly s t) : t.uart = s.uart := (congrArg State.uart h :)
theorem RegsOnly.i2c {s t : State} (h : RegsOnly s t) : t.i2c = s.i2c := (congrArg State.i2c h :)
theorem RegsOnly.spi {s t : State} (h : RegsOnly s t) : t.spi = s.spi := (congrArg State.spi h :)
theorem RegsOnly.jir {s t : State} (h : RegsOnly s t) : t.jir = s.jir := (congrArg State.jir h :)
theorem RegsOnly.readData {s t : State} (h : RegsOnly s t) : t.readData = s.readData := (congrArg State.readData h :)
theorem RegsOnly.posted {s t : State} (h : RegsOnly s t) : t.posted = s.posted := (congrArg State.posted h :)
theorem RegsOnly.nextUid {s t : State} (h : RegsOnly s t) : t.nextUid = s.nextUid := (congrArg State.nextUid h :)
theorem RegsOnly.nextJob {s t : State} (h : RegsOnly s t) : t.nextJob = s.nextJob := (congrArg State.nextJob h :)
theorem RegsOnly.nextFid {s t : State} (h : RegsOnly s t) : t.nextFid = s.nextFid := (congrArg State.nextFid h :)
theorem RegsOnly.freeCtr {s t : State} (h : RegsOnly s t) : t.freeCtr = s.freeCtr := (congrArg State.freeCtr h :)
theorem RegsOnly.pending {s t : State} (h : RegsOnly s t) : t.pending = s.pending := (congrArg State.pending h :)

theorem RegsOnly.settled {s t : State} (h : RegsOnly s t) (k : Settled s) : Settled t := k.of_regs h

theorem RegsOnly.hardMute {s t : State} (h : RegsOnly s t) (p : Nat) : Machine.hardMute t p = Machine.hardMute s p :=
  hardMute_congr h.rel h.tx h.crc h.par h.pins h.pwr p

/-- A register map and what it is a change of give the state. -/
theorem RegsOnly.eq {s t : State} (h : RegsOnly s t) : t = { s with regs := t.regs } := by
  conv_rhs => rw [← h]

end Sys2Proof.Machine
end

