-- ==== Sys2Proof/Laws/Access.lean ====
section
/-! SUPPORT. Accesses to registers, and the few facts by which a meaning's answer is computed. -/

namespace Sys2Proof.Machine

theorem readAccess_reach {s : State} {off : Nat} (f : State → State) (h : reach s off = true) : readAccess s off f = f s := by
  simp [readAccess, h]

/-- A register of no CRC-covered set is never locked. -/
theorem lockedOff_of_setOf_none {s : State} {off : Nat} (h : setOf off = none) : lockedOff s off = false := by
  simp [lockedOff, h]

theorem access_reach {s : State} {off : Nat} (f : State → State) (h : reach s off = true) (hl : lockedOff s off = false) :
    access s off f = f (rewritten s off) := by
  simp [access, readAccess, h, hl]

/-- A write's parity side mutes nothing. -/
@[simp] theorem hardMute_rewritten (s : State) (o p : Nat) : hardMute (rewritten s o) p = hardMute s p := rfl

theorem Settled.rewritten {s : State} (h : Settled s) (o : Nat) : Settled (rewritten s o) := h.congr rfl rfl fun _ => rfl

@[simp] theorem rd_rewritten (s : State) (o o' : Nat) : rd (rewritten s o) o' = rd s o' := rfl

@[simp] theorem rdN_rewritten (s : State) (o o' : Nat) : rdN (rewritten s o) o' = rdN s o' := rfl

@[simp] theorem getF_rewritten (s : State) (o : Nat) (f : Fld) : getF (rewritten s o) f = getF s f := rfl

@[simp] theorem isSet_rewritten (s : State) (o : Nat) (f : Fld) : isSet (rewritten s o) f = isSet s f := rfl

/-- Registers mute nothing. -/
@[simp] theorem hardMute_wr (s : State) (o : Nat) (v : Word) (p : Nat) : hardMute (wr s o v) p = hardMute s p := rfl

@[simp] theorem hardMute_wrN (s : State) (o v p : Nat) : hardMute (wrN s o v) p = hardMute s p := rfl

@[simp] theorem hardMute_setF (s : State) (f : Fld) (v p : Nat) : hardMute (setF s f v) p = hardMute s p := rfl

@[simp] theorem hardMute_usedFree (s : State) (p : Nat) : hardMute (usedFree s) p = hardMute s p := rfl

/-- A meaning that answers `done u` completes with what `settle` keeps of `u`. -/
theorem completes_done {i : Instr} {s u : State} {P : State → Prop} (h : exec i s = done u) (hp : P (settle u)) : Completes i s P :=
  ⟨settle u, h, hp⟩

/-- In a settled state it completes with `u` itself. -/
theorem completes_settled {i : Instr} {s u : State} {P : State → Prop} (h : exec i s = done u) (hu : Settled u) (hp : P u) :
    Completes i s P := ⟨u, h.trans (done_of_settled hu), hp⟩

end Sys2Proof.Machine
end

