-- ==== Sys2Proof/Laws/Capture.lean ====
section
/-! SUPPORT. What ending captures can change. -/

namespace Sys2Proof.Machine

theorem CaptureOnly.refl (s : State) : CaptureOnly s s := ⟨rfl, rfl, fun _ _ _ => rfl, fun _ h => h⟩

theorem CaptureOnly.trans {s t u : State} (h : CaptureOnly s t) (k : CaptureOnly t u) : CaptureOnly s u := by
  refine ⟨?_, ?_, fun o ho hb => (k.2.2.1 o ho hb).trans (h.2.2.1 o ho hb), fun c hc => h.2.2.2 c (k.2.2.2 c hc)⟩
  · have e := congrArg (fun x : State => { x with regs := s.regs, rings := s.rings, banks := s.banks, held := s.held, posted := s.posted, pcie := s.pcie, cmds := s.cmds, streams := s.streams, kqOwners := s.kqOwners, dram := s.dram }) k.1
    exact e.trans h.1
  · have e := congrArg (fun x : Pcie => { x with pba := s.pcie.pba }) k.2.1
    exact e.trans h.2.1

theorem CaptureOnly.pins {s t : State} (h : CaptureOnly s t) : t.pins = s.pins := (congrArg State.pins h.1 :)
theorem CaptureOnly.pwr {s t : State} (h : CaptureOnly s t) : t.pwr = s.pwr := (congrArg State.pwr h.1 :)
theorem CaptureOnly.boot {s t : State} (h : CaptureOnly s t) : t.boot = s.boot := (congrArg State.boot h.1 :)
theorem CaptureOnly.blanes {s t : State} (h : CaptureOnly s t) : t.blanes = s.blanes := (congrArg State.blanes h.1 :)
theorem CaptureOnly.rel {s t : State} (h : CaptureOnly s t) : t.rel = s.rel := (congrArg State.rel h.1 :)
theorem CaptureOnly.par {s t : State} (h : CaptureOnly s t) : t.par = s.par := (congrArg State.par h.1 :)
theorem CaptureOnly.crc {s t : State} (h : CaptureOnly s t) : t.crc = s.crc := (congrArg State.crc h.1 :)
theorem CaptureOnly.mains {s t : State} (h : CaptureOnly s t) : t.mains = s.mains := (congrArg State.mains h.1 :)
theorem CaptureOnly.rx {s t : State} (h : CaptureOnly s t) : t.rx = s.rx := (congrArg State.rx h.1 :)
theorem CaptureOnly.tones {s t : State} (h : CaptureOnly s t) : t.tones = s.tones := (congrArg State.tones h.1 :)
theorem CaptureOnly.toneSwap {s t : State} (h : CaptureOnly s t) : t.toneSwap = s.toneSwap := (congrArg State.toneSwap h.1 :)
theorem CaptureOnly.lanes {s t : State} (h : CaptureOnly s t) : t.lanes = s.lanes := (congrArg State.lanes h.1 :)
theorem CaptureOnly.recs {s t : State} (h : CaptureOnly s t) : t.recs = s.recs := (congrArg State.recs h.1 :)
theorem CaptureOnly.msel {s t : State} (h : CaptureOnly s t) : t.msel = s.msel := (congrArg State.msel h.1 :)
theorem CaptureOnly.frames {s t : State} (h : CaptureOnly s t) : t.frames = s.frames := (congrArg State.frames h.1 :)
theorem CaptureOnly.retain {s t : State} (h : CaptureOnly s t) : t.retain = s.retain := (congrArg State.retain h.1 :)
theorem CaptureOnly.heard {s t : State} (h : CaptureOnly s t) : t.heard = s.heard := (congrArg State.heard h.1 :)
theorem CaptureOnly.tx {s t : State} (h : CaptureOnly s t) : t.tx = s.tx := (congrArg State.tx h.1 :)
theorem CaptureOnly.jobs {s t : State} (h : CaptureOnly s t) : t.jobs = s.jobs := (congrArg State.jobs h.1 :)
theorem CaptureOnly.sessions {s t : State} (h : CaptureOnly s t) : t.sessions = s.sessions := (congrArg State.sessions h.1 :)
theorem CaptureOnly.quiets {s t : State} (h : CaptureOnly s t) : t.quiets = s.quiets := (congrArg State.quiets h.1 :)
theorem CaptureOnly.bands {s t : State} (h : CaptureOnly s t) : t.bands = s.bands := (congrArg State.bands h.1 :)
theorem CaptureOnly.air {s t : State} (h : CaptureOnly s t) : t.air = s.air := (congrArg State.air h.1 :)
theorem CaptureOnly.sor {s t : State} (h : CaptureOnly s t) : t.sor = s.sor := (congrArg State.sor h.1 :)
theorem CaptureOnly.lomsOnset {s t : State} (h : CaptureOnly s t) : t.lomsOnset = s.lomsOnset := (congrArg State.lomsOnset h.1 :)
theorem CaptureOnly.pm {s t : State} (h : CaptureOnly s t) : t.pm = s.pm := (congrArg State.pm h.1 :)
theorem CaptureOnly.secSeen {s t : State} (h : CaptureOnly s t) : t.secSeen = s.secSeen := (congrArg State.secSeen h.1 :)
theorem CaptureOnly.mesh {s t : State} (h : CaptureOnly s t) : t.mesh = s.mesh := (congrArg State.mesh h.1 :)
theorem CaptureOnly.players {s t : State} (h : CaptureOnly s t) : t.players = s.players := (congrArg State.players h.1 :)
theorem CaptureOnly.sec {s t : State} (h : CaptureOnly s t) : t.sec = s.sec := (congrArg State.sec h.1 :)
theorem CaptureOnly.nvs {s t : State} (h : CaptureOnly s t) : t.nvs = s.nvs := (congrArg State.nvs h.1 :)
theorem CaptureOnly.rtc {s t : State} (h : CaptureOnly s t) : t.rtc = s.rtc := (congrArg State.rtc h.1 :)
theorem CaptureOnly.uart {s t : State} (h : CaptureOnly s t) : t.uart = s.uart := (congrArg State.uart h.1 :)
theorem CaptureOnly.i2c {s t : State} (h : CaptureOnly s t) : t.i2c = s.i2c := (congrArg State.i2c h.1 :)
theorem CaptureOnly.spi {s t : State} (h : CaptureOnly s t) : t.spi = s.spi := (congrArg State.spi h.1 :)
theorem CaptureOnly.jir {s t : State} (h : CaptureOnly s t) : t.jir = s.jir := (congrArg State.jir h.1 :)
theorem CaptureOnly.readData {s t : State} (h : CaptureOnly s t) : t.readData = s.readData := (congrArg State.readData h.1 :)
theorem CaptureOnly.nextUid {s t : State} (h : CaptureOnly s t) : t.nextUid = s.nextUid := (congrArg State.nextUid h.1 :)
theorem CaptureOnly.nextJob {s t : State} (h : CaptureOnly s t) : t.nextJob = s.nextJob := (congrArg State.nextJob h.1 :)
theorem CaptureOnly.nextFid {s t : State} (h : CaptureOnly s t) : t.nextFid = s.nextFid := (congrArg State.nextFid h.1 :)
theorem CaptureOnly.freeCtr {s t : State} (h : CaptureOnly s t) : t.freeCtr = s.freeCtr := (congrArg State.freeCtr h.1 :)
theorem CaptureOnly.pending {s t : State} (h : CaptureOnly s t) : t.pending = s.pending := (congrArg State.pending h.1 :)

theorem CaptureOnly.rd {s t : State} (h : CaptureOnly s t) {o : Nat} (ho : o < 0x8000) (hb : o / 0x400 ≠ 0xD) : rd t o = rd s o := h.2.2.1 o ho hb

theorem CaptureOnly.settled {s t : State} (h : CaptureOnly s t) (k : Settled s) : Settled t :=
  k.congr h.jobs h.tx (hardMute_congr h.rel h.tx h.crc h.par h.pins h.pwr)

theorem RingOnly.toCapture {fn : Nat} {s t : State} (h : RingOnly fn s t) : CaptureOnly s t := by
  refine ⟨?_, h.2.1, fun o ho _ => h.2.2 o (by omega), fun c hc => h.cmds ▸ hc⟩
  have e := congrArg (fun x : State => { x with regs := s.regs, rings := s.rings, banks := s.banks, held := s.held, posted := s.posted, pcie := s.pcie, cmds := s.cmds, streams := s.streams, kqOwners := s.kqOwners, dram := s.dram }) h.1
  exact e

/-- A change of the capture side's own data. -/
theorem CaptureOnly.of_data {s t : State} (h : { t with streams := s.streams, kqOwners := s.kqOwners, dram := s.dram } = s) : CaptureOnly s t := by
  have hr : t.regs = s.regs := (congrArg State.regs h :)
  have hp : t.pcie = s.pcie := (congrArg State.pcie h :)
  have hc : t.cmds = s.cmds := (congrArg State.cmds h :)
  have e := congrArg (fun x : State => { x with regs := s.regs, rings := s.rings, banks := s.banks, held := s.held, posted := s.posted, pcie := s.pcie, cmds := s.cmds }) h
  exact ⟨e, by rw [hp], fun o _ _ => rd_congr hr o, fun c h => hc ▸ h⟩

theorem captureOnly_wr (s : State) {o : Nat} (v : Word) (ho : o / 0x400 = 0xD) : CaptureOnly s (wr s o v) :=
  ⟨rfl, rfl, fun _ _ h => rd_wr_ne s v (fun e => h (e ▸ ho)), fun _ h => h⟩

theorem captureOnly_ite {s a b : State} {c : Prop} [Decidable c] (ha : CaptureOnly s a) (hb : CaptureOnly s b) :
    CaptureOnly s (if c then a else b) := by
  split
  · exact ha
  · exact hb

theorem captureOnly_complete (s : State) (c : Cmd) (status detail len : Nat) : CaptureOnly s (complete s c status detail len) := by
  refine CaptureOnly.trans ?_ (ringOnly_completeAt s c status detail len _).toCapture
  exact ⟨rfl, rfl, fun _ _ _ => rfl, fun d h => (List.mem_filter.1 h).1⟩

theorem captureOnly_setStream (s : State) (i : Nat) (x : Stream) : CaptureOnly s (setStream s i x) := CaptureOnly.of_data rfl

theorem captureOnly_owners (s : State) (m : FMap (List Nat)) : CaptureOnly s { s with kqOwners := m } := CaptureOnly.of_data rfl

theorem captureOnly_storeWords (l : List Nat) (s : State) (b n w : Nat) : CaptureOnly s (storeWords s b n w l) := by
  induction l generalizing s w with
  | nil => exact CaptureOnly.refl s
  | cons d l ih =>
    refine CaptureOnly.trans ?_ (ih _ _)
    exact CaptureOnly.of_data rfl

theorem captureOnly_putWords (s : State) (i : Nat) (words : List Nat) (n : Nat) (it : Item) : CaptureOnly s (putWords s i words n it) := by
  unfold putWords
  refine captureOnly_ite ?_ ?_
  · refine CaptureOnly.trans ?_ (ringOnly_bankAdd _ _ _).toCapture
    refine CaptureOnly.trans ?_ (captureOnly_owners _ _)
    exact (captureOnly_storeWords _ _ _ _ _).trans (captureOnly_setStream _ _ _)
  · exact (captureOnly_storeWords _ _ _ _ _).trans (captureOnly_setStream _ _ _)

theorem captureOnly_putPair (s : State) (i typ flags count : Nat) (it : Item) : CaptureOnly s (putPair s i typ flags count it) := by
  unfold putPair
  refine CaptureOnly.trans (captureOnly_setStream s i { stream s i with cseq := (stream s i).cseq + 1 }) ?_
  exact captureOnly_ite (captureOnly_setStream _ _ _) (captureOnly_putWords _ _ _ _ _)

theorem captureOnly_foldl {α : Type} (l : List α) (f : State → α → State) (hf : ∀ u a, CaptureOnly u (f u a)) (s : State) :
    CaptureOnly s (l.foldl f s) := by
  induction l generalizing s with
  | nil => exact CaptureOnly.refl s
  | cons a l ih => exact (hf s a).trans (ih _)

theorem captureOnly_payOwed (s : State) (i : Nat) : CaptureOnly s (payOwed s i) :=
  captureOnly_foldl _ _ (fun _ _ => captureOnly_ite ((captureOnly_setStream _ _ _).trans (captureOnly_putWords _ _ _ _ _)) (CaptureOnly.refl _)) s

theorem captureOnly_raiseYar (s : State) (f : Fld) (h : f.off / 0x400 = 0xD) : CaptureOnly s (raise s f) := captureOnly_wr s _ h

theorem captureOnly_loseCount (s : State) (i n : Nat) (it : Item) : CaptureOnly s (loseCount s i n it) := by
  unfold loseCount
  refine CaptureOnly.trans ?_ (captureOnly_raiseYar _ _ (by decide))
  refine CaptureOnly.trans ?_ (captureOnly_wr _ _ (by decide))
  exact captureOnly_setStream _ _ _

theorem captureOnly_loseItems (s : State) (i : Nat) : CaptureOnly s (loseItems s i) :=
  (captureOnly_setStream _ _ _).trans (captureOnly_loseCount _ _ _ _)

theorem captureOnly_putStart (s : State) (i : Nat) (it : Item) : CaptureOnly s (putStart s i it) := by
  unfold putStart
  exact captureOnly_ite (CaptureOnly.refl s) ((captureOnly_putPair _ _ _ _ _ _).trans (captureOnly_setStream _ _ _))

theorem captureOnly_putLost (s : State) (i : Nat) : CaptureOnly s (putLost s i) := by
  unfold putLost
  exact captureOnly_ite (CaptureOnly.refl s)
    (((captureOnly_putStart _ _ _).trans (captureOnly_putPair _ _ _ _ _ _)).trans (captureOnly_setStream _ _ _))

theorem captureOnly_putGap (s : State) (i : Nat) : CaptureOnly s (putGap s i) := by
  unfold putGap
  exact captureOnly_ite ((captureOnly_payOwed _ _).trans (captureOnly_putLost _ _)) (captureOnly_payOwed _ _)

theorem captureOnly_writeChunk (s : State) (i : Nat) : CaptureOnly s (writeChunk s i) := by
  unfold writeChunk
  dsimp only
  split
  · exact CaptureOnly.refl s
  · exact ((captureOnly_setStream _ _ _).trans (captureOnly_putWords _ _ _ _ _)).trans (captureOnly_setStream _ _ _)

theorem captureOnly_endSegment (s : State) (i extra : Nat) (t : Item) : CaptureOnly s (endSegment s i extra t) := by
  unfold endSegment
  refine CaptureOnly.trans ?_ (captureOnly_setStream _ _ _)
  refine CaptureOnly.trans ?_ (ringOnly_event _ _ _ _ _ _ _).toCapture
  refine CaptureOnly.trans ?_ (captureOnly_raiseYar _ _ (by decide))
  exact captureOnly_ite (((captureOnly_putStart _ _ _).trans (captureOnly_putLost _ _)).trans (captureOnly_putPair _ _ _ _ _ _)) (CaptureOnly.refl s)

theorem captureOnly_idleStream (s : State) (i : Nat) (st : Option (Nat × Nat)) : CaptureOnly s (idleStream s i st) := by
  unfold idleStream
  dsimp only
  split
  · exact (captureOnly_setStream _ _ _).trans (captureOnly_complete _ _ _ _ _)
  · exact captureOnly_setStream _ _ _

/-- Closing the segment of a stream that ends: its open chunk is written, lost or dropped. -/
theorem captureOnly_lastChunk (s : State) (i : Nat) :
    CaptureOnly s (if chunkRoom s (stream s i) then writeChunk s i
      else if Prog.mode (stream s i).prog = 2 then loseItems s i else setStream s i { stream s i with chunk := [] }) :=
  captureOnly_ite (captureOnly_writeChunk _ _) (captureOnly_ite (captureOnly_loseItems _ _) (captureOnly_setStream _ _ _))

theorem captureOnly_endStream (s : State) (i extra : Nat) (st : Option (Nat × Nat)) : CaptureOnly s (endStream s i extra st) := by
  unfold endStream
  refine captureOnly_ite (CaptureOnly.refl s) (CaptureOnly.trans ?_ (captureOnly_idleStream _ _ _))
  refine captureOnly_ite (CaptureOnly.trans ?_ (captureOnly_endSegment _ _ _ _)) (CaptureOnly.refl s)
  exact (captureOnly_putGap _ _).trans (captureOnly_lastChunk _ _)

/-- Closing a stream's open chunk touches the capture side and the host interface alone (R329). -/
theorem captureOnly_flushChunk (s : State) (i : Nat) : CaptureOnly s (flushChunk s i) := by
  unfold flushChunk
  refine CaptureOnly.trans (captureOnly_putGap s i) ?_
  refine captureOnly_ite (CaptureOnly.refl _) (captureOnly_ite (captureOnly_writeChunk _ _) (captureOnly_ite ?_ (captureOnly_loseItems _ _)))
  refine CaptureOnly.trans ?_ (captureOnly_endStream _ _ _ _)
  exact (captureOnly_setStream _ _ _).trans (captureOnly_raiseYar _ _ (by decide))

/-- Ending streams touches the capture side and the host interface alone (R327). -/
theorem captureOnly_endStreams (s : State) (p : Stream → Bool) (extra : Nat) (st : Option (Nat × Nat)) :
    CaptureOnly s (endStreams s p extra st) :=
  captureOnly_foldl _ _ (fun _ _ => captureOnly_ite (captureOnly_endStream _ _ _ _) (CaptureOnly.refl _)) s

theorem captureOnly_post (s : State) (o : Output) : CaptureOnly s (post s o) := (ringOnly_post (fn := 0) s o).toCapture

theorem captureOnly_commitItem (s : State) (i : Nat) (it : Item) : CaptureOnly s (commitItem s i it) := by
  unfold commitItem
  have h : ∀ (c : Prop) [Decidable c], CaptureOnly s (if c then flushChunk s i else s) := fun c _ =>
    captureOnly_ite (captureOnly_flushChunk s i) (CaptureOnly.refl s)
  exact captureOnly_ite (h _) ((h _).trans (captureOnly_setStream _ _ _))

theorem captureOnly_rearmStream (s : State) (i : Nat) : CaptureOnly s (rearmStream s i) := by
  unfold rearmStream
  exact captureOnly_ite (captureOnly_idleStream s i _) (captureOnly_setStream s i _)

theorem captureOnly_closeSegment (s : State) (i : Nat) : CaptureOnly s (closeSegment s i) := by
  unfold closeSegment
  refine CaptureOnly.trans (captureOnly_flushChunk s i) ?_
  exact captureOnly_ite (CaptureOnly.refl _) ((captureOnly_endSegment _ _ _ _).trans (captureOnly_rearmStream _ _))

theorem captureOnly_zeroSegment (s : State) (i flag : Nat) : CaptureOnly s (zeroSegment s i flag) := by
  unfold zeroSegment
  refine CaptureOnly.trans (captureOnly_setStream s i { stream s i with chunk := [], count := 0 }) ?_
  exact captureOnly_ite ((captureOnly_raiseYar _ _ (by decide)).trans (captureOnly_endStream _ _ _ _))
    ((captureOnly_endSegment _ _ _ _).trans (captureOnly_rearmStream _ _))

theorem captureOnly_commitDue (n : Nat) (s : State) (i : Nat) : CaptureOnly s (commitDue n s i) := by
  induction n generalizing s with
  | zero => exact CaptureOnly.refl s
  | succ n ih =>
    unfold commitDue
    dsimp only
    split
    · exact CaptureOnly.refl s
    · rename_i it rest _
      refine captureOnly_ite (CaptureOnly.refl s) (CaptureOnly.trans ?_ (ih _))
      exact captureOnly_ite ((captureOnly_setStream _ _ _).trans (captureOnly_commitItem _ _ _)) (captureOnly_setStream _ _ _)

theorem captureOnly_advance (s : State) (i : Nat) : CaptureOnly s (advance s i) := by
  unfold advance
  dsimp only
  refine CaptureOnly.trans (captureOnly_setStream s i (lenStop (noteItems (stream s i)))) ?_
  split
  · exact CaptureOnly.refl _
  · refine captureOnly_ite (CaptureOnly.refl _) ?_
    split
    · refine captureOnly_ite (captureOnly_zeroSegment _ _ _) (captureOnly_ite (captureOnly_ite (captureOnly_zeroSegment _ _ _) (CaptureOnly.refl _)) ?_)
      have tail : ∀ (u : State), CaptureOnly (setStream s i (lenStop (noteItems (stream s i)))) u → ∀ (c : Prop) [Decidable c],
          CaptureOnly (setStream s i (lenStop (noteItems (stream s i)))) (if c then closeSegment u i else u) :=
        fun u h c _ => captureOnly_ite (h.trans (captureOnly_closeSegment _ _)) h
      apply tail
      refine CaptureOnly.trans ?_ (captureOnly_commitDue _ _ _)
      exact captureOnly_setStream _ _ _
    · exact captureOnly_commitDue _ _ _

theorem captureOnly_countLate (s : State) : CaptureOnly s (countLate s) :=
  (captureOnly_wr s _ (by decide)).trans (captureOnly_raiseYar _ _ (by decide))

theorem captureOnly_setStart (s : State) (i k : Nat) (l : Bool) : CaptureOnly s (setStart s i k l) := by
  unfold setStart
  exact captureOnly_ite ((captureOnly_setStream _ _ _).trans (captureOnly_countLate _)) (captureOnly_setStream _ _ _)

theorem captureOnly_setStop (s : State) (i k : Nat) (l : Bool) : CaptureOnly s (setStop s i k l) := by
  unfold setStop
  exact captureOnly_ite ((captureOnly_setStream _ _ _).trans (captureOnly_countLate _)) (captureOnly_setStream _ _ _)

theorem captureOnly_resolvePending (s : State) (i : Nat) (n : Bool) : CaptureOnly s (resolvePending s i n) := by
  have step : ∀ u : State, CaptureOnly s u → CaptureOnly s (match (stream u i).stopEv with
      | some e => match resolve (stream u i) e true n with
        | some (k, l) => setStop u i k l
        | none => u
      | none => u) := by
    intro u h
    split
    · split
      · exact h.trans (captureOnly_setStop _ _ _ _)
      · exact h
    · exact h
  unfold resolvePending
  apply step
  split
  · split
    · exact captureOnly_setStart _ _ _ _
    · exact CaptureOnly.refl s
  · exact CaptureOnly.refl s

theorem captureOnly_acceptStart (s : State) (i e : Nat) : CaptureOnly s (acceptStart s i e) :=
  ((captureOnly_setStream _ _ _).trans (captureOnly_resolvePending _ _ _)).trans (captureOnly_advance _ _)

theorem captureOnly_acceptStop (s : State) (i e : Nat) : CaptureOnly s (acceptStop s i e) :=
  ((captureOnly_setStream _ _ _).trans (captureOnly_resolvePending _ _ _)).trans (captureOnly_advance _ _)

theorem captureOnly_tryStream (s : State) (p : List Byte → Bool) (e i : Nat) : CaptureOnly s (tryStream s p e i).1 := by
  unfold tryStream
  dsimp only
  split
  · exact captureOnly_acceptStart _ _ _
  · split
    · exact captureOnly_acceptStop _ _ _
    · exact CaptureOnly.refl s

theorem captureOnly_tryStreams (p : List Byte → Bool) (e : Nat) (l : List Nat) (s : State) :
    CaptureOnly s (tryStreams p e l s).1 := by
  induction l generalizing s with
  | nil => exact CaptureOnly.refl s
  | cons i l ih => exact (captureOnly_tryStream s p e i).trans (ih _)

theorem captureOnly_sendEvent (s : State) (n e : Nat) : CaptureOnly s (sendEvent s n e) :=
  captureOnly_ite (captureOnly_post s _) (CaptureOnly.refl s)

theorem captureOnly_lenExports (s : State) : CaptureOnly s (lenExports s).1 := by
  unfold lenExports
  split
  · exact CaptureOnly.refl s
  · exact CaptureOnly.of_data rfl

theorem captureOnly_fire (n : Nat) (s : State) (p : List Byte → Bool) (e : Nat) : CaptureOnly s (fire n s p e) := by
  induction n generalizing s p e with
  | zero => exact CaptureOnly.refl s
  | succ n ih =>
    have h := captureOnly_tryStreams p e (List.range 16) s
    unfold fire
    generalize tryStreams p e (List.range 16) s = r at h ⊢
    obtain ⟨u, ex⟩ := r
    have k := captureOnly_lenExports u
    dsimp only
    generalize lenExports u = q at k ⊢
    obtain ⟨v, l⟩ := q
    exact (h.trans k).trans (captureOnly_foldl _ _ (fun w (m : Nat × Nat) => (captureOnly_sendEvent w m.1 m.2).trans (ih _ _ _)) _)

/-- A trigger event touches the capture side and the host interface alone (R321). -/
theorem captureOnly_trigger (s : State) (p : List Byte → Bool) (e : Nat) : CaptureOnly s (trigger s p e) := captureOnly_fire 40 s p e

theorem captureOnly_defectEvent (s : State) (code : Nat) (o : DefObj) (clear : Bool) (ts c d : Nat) :
    CaptureOnly s (defectEvent s code o clear ts c d) := by
  unfold defectEvent
  refine captureOnly_ite (CaptureOnly.refl s) ?_
  exact captureOnly_ite (ringOnly_event _ _ _ _ _ _ _).toCapture
    ((ringOnly_event _ _ _ _ _ _ _).toCapture.trans (ringOnly_event _ _ _ _ _ _ _).toCapture)

/-- What a defect's raise keeps of itself: its onset, DEF_CHG and the second it is seen in; the rest is capture and host interface
(R232, R233). -/
theorem captureOnly_reportRaise (s : State) (code : Nat) (o : DefObj) :
    CaptureOnly (noteRaise s code o) (reportRaise s code o) := by
  unfold reportRaise
  exact captureOnly_ite (captureOnly_trigger _ _ _) ((captureOnly_trigger _ _ _).trans (captureOnly_defectEvent _ _ _ _ _ _ _))

theorem captureOnly_reportUncovered (s t : State) : CaptureOnly t (reportUncovered s t) :=
  captureOnly_foldl _ _ (fun _ _ => captureOnly_defectEvent _ _ _ _ _ _ _) t

end Sys2Proof.Machine
end

