-- ==== Sys2Proof/WellFormed.lean ====
section
/-! DEFINITION. Which commands can come about: the ranges the spec gives their operands. A meaning is total all the same. -/

namespace Sys2Proof

/-- The operands lie in the ranges of their rules. -/
def wellFormed : Instr → Bool
  | .domainPowerGood d => Nat.ble 2 d && Nat.ble d 20
  | .domainPgTimeout d => Nat.ble 2 d && Nat.ble d 20
  | .linkTrained speed lanes => Nat.ble 1 speed && Nat.ble speed 3 && (lanes == 1 || lanes == 2 || lanes == 4)
  | .lanePacketCrcError _ n _ => Nat.ble n 32
  | .carrierSenseCheck _ copy => Nat.blt copy 24
  | .descriptorFetch _ _ desc err => err || desc.length == 32
  | .send _ buf => Nat.ble buf.length 508
  | .poll _ buf => Nat.ble buf.length 508
  | .flood _ buf => Nat.ble buf.length 508
  | .relay _ buf => Nat.ble buf.length 508
  | .sessionOpen _ buf => buf.length == 64
  | .sessionModify _ buf => buf.length == 64
  | .dirWrite _ buf => buf.length == 32
  | .capArm _ buf => buf.length == 64
  | .i2cTransactionDone r _ _ => Nat.ble r.val 6
  | .spiTargetRead _ words => Nat.ble 1 words
  | _ => true

end Sys2Proof
end

