-- ==== Sys2Proof/Laws/PerInstr.lean ====
section
/-! SUPPORT. A law of every command as syntax: the record or frame a well-formed command brings in its buffer is no longer than the longest
payload of a frame (508 bytes), whatever the buffer's bytes. -/

namespace Sys2Proof.Laws.Table

/-- The bytes of the frame payload or of the fixed record a command brings; none where it brings none or an image of any length. -/
def record : Instr → List Byte
  | .descriptorFetch _ _ desc false => desc
  | .send _ buf => buf
  | .poll _ buf => buf
  | .flood _ buf => buf
  | .relay _ buf => buf
  | .sessionOpen _ buf => buf
  | .sessionModify _ buf => buf
  | .dirWrite _ buf => buf
  | .capArm _ buf => buf
  | _ => []

/-- A well-formed command's record fits a frame. -/
def Statement (i : Instr) : Prop := wellFormed i = true → (record i).length ≤ 508

theorem porstAssert : Statement .porstAssert :=
  fun _ => Nat.zero_le _
theorem porstRelease (clksel : BitVec 2) (testen : Bool) : Statement (.porstRelease clksel testen) :=
  fun _ => Nat.zero_le _
theorem supplyMonitorReset : Statement .supplyMonitorReset :=
  fun _ => Nat.zero_le _
theorem supplyMonitorResetEnd (clksel : BitVec 2) (testen : Bool) : Statement (.supplyMonitorResetEnd clksel testen) :=
  fun _ => Nat.zero_le _
theorem husenseFall : Statement .husenseFall :=
  fun _ => Nat.zero_le _
theorem husenseRise : Statement .husenseRise :=
  fun _ => Nat.zero_le _
theorem holdupRecoveryReset (clksel : BitVec 2) (testen : Bool) : Statement (.holdupRecoveryReset clksel testen) :=
  fun _ => Nat.zero_le _
theorem aonReset : Statement .aonReset :=
  fun _ => Nat.zero_le _
theorem deviceResetRequest (fn : Fin 8) (key : Byte) : Statement (.deviceResetRequest fn key) :=
  fun _ => Nat.zero_le _
theorem deviceResetWaitEnd : Statement .deviceResetWaitEnd :=
  fun _ => Nat.zero_le _
theorem hostLinkReset : Statement .hostLinkReset :=
  fun _ => Nat.zero_le _
theorem functionLevelReset (fn : Fin 8) : Statement (.functionLevelReset fn) :=
  fun _ => Nat.zero_le _
theorem d3hotEntry : Statement .d3hotEntry :=
  fun _ => Nat.zero_le _
theorem d0Return : Statement .d0Return :=
  fun _ => Nat.zero_le _
theorem vfEnableClear : Statement .vfEnableClear :=
  fun _ => Nat.zero_le _
theorem vfEnableSet (numVfs : Fin 8) : Statement (.vfEnableSet numVfs) :=
  fun _ => Nat.zero_le _
theorem standbyRequest (fn : Fin 8) : Statement (.standbyRequest fn) :=
  fun _ => Nat.zero_le _
theorem listenRequest (fn : Fin 8) : Statement (.listenRequest fn) :=
  fun _ => Nat.zero_le _
theorem activeRequest (fn : Fin 8) : Statement (.activeRequest fn) :=
  fun _ => Nat.zero_le _
theorem activeExitFrameEnd (ph : Fin 3) : Statement (.activeExitFrameEnd ph) :=
  fun _ => Nat.zero_le _
theorem domainPowerGood (d : Nat) : Statement (.domainPowerGood d) :=
  fun _ => Nat.zero_le _
theorem domainPgTimeout (d : Nat) : Statement (.domainPgTimeout d) :=
  fun _ => Nat.zero_le _
theorem timekeepingPllLock : Statement .timekeepingPllLock :=
  fun _ => Nat.zero_le _
theorem fuseShadowValid (reads : List (Nat × Word × Word × Word)) : Statement (.fuseShadowValid reads) :=
  fun _ => Nat.zero_le _
theorem linkTrained (speed lanes : Nat) : Statement (.linkTrained speed lanes) :=
  fun _ => Nat.zero_le _
theorem firmwareImageVerified (image : List Byte) : Statement (.firmwareImageVerified image) :=
  fun _ => Nat.zero_le _
theorem dramTrained : Statement .dramTrained :=
  fun _ => Nat.zero_le _
theorem firmwareStart : Statement .firmwareStart :=
  fun _ => Nat.zero_le _
theorem xatonApply (image : List Byte) : Statement (.xatonApply image) :=
  fun _ => Nat.zero_le _
theorem controlDomainsOn : Statement .controlDomainsOn :=
  fun _ => Nat.zero_le _
theorem listenReached : Statement .listenReached :=
  fun _ => Nat.zero_le _
theorem laneCommaLock (lane : Fin 6) : Statement (.laneCommaLock lane) :=
  fun _ => Nat.zero_le _
theorem laneLockTimeout (lane : Fin 6) : Statement (.laneLockTimeout lane) :=
  fun _ => Nat.zero_le _
theorem lanePacketCrcError (lane : Fin 6) (samples : Nat) (control : Bool) : Statement (.lanePacketCrcError lane samples control) :=
  fun _ => Nat.zero_le _
theorem laneInvalidCharacter (lane : Fin 6) : Statement (.laneInvalidCharacter lane) :=
  fun _ => Nat.zero_le _
theorem fiveLaneMapChange : Statement .fiveLaneMapChange :=
  fun _ => Nat.zero_le _
theorem vdrvPresenceChange (mv : Nat) : Statement (.vdrvPresenceChange mv) :=
  fun _ => Nat.zero_le _
theorem viso5PresenceChange (mv : Nat) : Statement (.viso5PresenceChange mv) :=
  fun _ => Nat.zero_le _
theorem hvcorePowerGood : Statement .hvcorePowerGood :=
  fun _ => Nat.zero_le _
theorem faultEvent (source : Fin 7) (item : BitVec 24) : Statement (.faultEvent source item) :=
  fun _ => Nat.zero_le _
theorem dramUncorrectable (page : BitVec 24) (uid : Option Nat) : Statement (.dramUncorrectable page uid) :=
  fun _ => Nat.zero_le _
theorem relConfigWrite (source : Fin 7) (win : Bool) (v : Word) : Statement (.relConfigWrite source win v) :=
  fun _ => Nat.zero_le _
theorem relLogRead (entry : Fin 64) : Statement (.relLogRead entry) :=
  fun _ => Nat.zero_le _
theorem paritySweep (mainBad shadowBad : List Nat) : Statement (.paritySweep mainBad shadowBad) :=
  fun _ => Nat.zero_le _
theorem glbCfgParityWrite (v : Word) : Statement (.glbCfgParityWrite v) :=
  fun _ => Nat.zero_le _
theorem crcPass (set : Fin 4) : Statement (.crcPass set) :=
  fun _ => Nat.zero_le _
theorem glbCrcRefWrite (set : Fin 4) (v : Word) : Statement (.glbCrcRefWrite set v) :=
  fun _ => Nat.zero_le _
theorem glbLockWrite (v : Word) : Statement (.glbLockWrite v) :=
  fun _ => Nat.zero_le _
theorem watchdogExpiry (core : Fin 4) : Statement (.watchdogExpiry core) :=
  fun _ => Nat.zero_le _
theorem registerWrite (fn : Fin 8) (off : Nat) (v : Word) (be : BitVec 4) : Statement (.registerWrite fn off v be) :=
  fun _ => Nat.zero_le _
theorem readClear (fn : Fin 8) (off : Nat) : Statement (.readClear fn off) :=
  fun _ => Nat.zero_le _
theorem senseSample (ph : Fin 3) (code : BitVec 18) (bad : Bool) : Statement (.senseSample ph code bad) :=
  fun _ => Nat.zero_le _
theorem senseChannelConfig (v : Word) : Statement (.senseChannelConfig v) :=
  fun _ => Nat.zero_le _
theorem coefWrite (v : Word) : Statement (.coefWrite v) :=
  fun _ => Nat.zero_le _
theorem coefBankSelect (bank : Bool) : Statement (.coefBankSelect bank) :=
  fun _ => Nat.zero_le _
theorem referencePhaseSelect (ph : BitVec 2) : Statement (.referencePhaseSelect ph) :=
  fun _ => Nat.zero_le _
theorem loopBandwidthSelect (lbw : BitVec 2) : Statement (.loopBandwidthSelect lbw) :=
  fun _ => Nat.zero_le _
theorem trackerEnWrite (en : Bool) : Statement (.trackerEnWrite en) :=
  fun _ => Nat.zero_le _
theorem senseTemperatureUpdate (ph : Fin 3) (temp : Word) : Statement (.senseTemperatureUpdate ph temp) :=
  fun _ => Nat.zero_le _
theorem rmsRefresh : Statement .rmsRefresh :=
  fun _ => Nat.zero_le _
theorem zeroCrossing (ph : Fin 3) (ts pred : BitVec 64) : Statement (.zeroCrossing ph ts pred) :=
  fun _ => Nat.zero_le _
theorem cycleBoundary (ts : BitVec 64) (freq : Word) : Statement (.cycleBoundary ts freq) :=
  fun _ => Nat.zero_le _
theorem holdoverTxLimit : Statement .holdoverTxLimit :=
  fun _ => Nat.zero_le _
theorem msyCidxRead : Statement .msyCidxRead :=
  fun _ => Nat.zero_le _
theorem timebaseRead : Statement .timebaseRead :=
  fun _ => Nat.zero_le _
theorem timebaseStepNow : Statement .timebaseStepNow :=
  fun _ => Nat.zero_le _
theorem timebaseStepAtPps : Statement .timebaseStepAtPps :=
  fun _ => Nat.zero_le _
theorem rateAdjustWrite (v : Word) : Statement (.rateAdjustWrite v) :=
  fun _ => Nat.zero_le _
theorem ppsModeSelect (mode : BitVec 2) : Statement (.ppsModeSelect mode) :=
  fun _ => Nat.zero_le _
theorem ppsEdge (ts : BitVec 64) (highNs : Nat) : Statement (.ppsEdge ts highNs) :=
  fun _ => Nat.zero_le _
theorem ppsLost : Statement .ppsLost :=
  fun _ => Nat.zero_le _
theorem inputEnable (inp : Fin 4) (en : Bool) : Statement (.inputEnable inp en) :=
  fun _ => Nat.zero_le _
theorem gainWrite (inp : Fin 4) (v : Word) : Statement (.gainWrite inp v) :=
  fun _ => Nat.zero_le _
theorem firCoefWrite (inp : Fin 4) (v : Word) : Statement (.firCoefWrite inp v) :=
  fun _ => Nat.zero_le _
theorem firBankSwap (inp : Fin 4) (v : Word) : Statement (.firBankSwap inp v) :=
  fun _ => Nat.zero_le _
theorem converterSample (inp : Fin 4) (code : BitVec 18) (ovr erased : Bool) : Statement (.converterSample inp code ovr erased) :=
  fun _ => Nat.zero_le _
theorem rxWorkingSample (inp : Fin 4) (w : BitVec 31) (ts : BitVec 64) (bad : List Nat) : Statement (.rxWorkingSample inp w ts bad) :=
  fun _ => Nat.zero_le _
theorem blankerSeedDone (inp : Fin 4) : Statement (.blankerSeedDone inp) :=
  fun _ => Nat.zero_le _
theorem blankMaxrun (inp : Fin 4) : Statement (.blankMaxrun inp) :=
  fun _ => Nat.zero_le _
theorem templateRead (inp : Fin 4) (bad : Bool) : Statement (.templateRead inp bad) :=
  fun _ => Nat.zero_le _
theorem templateWrite (inp : Fin 4) (v : Word) : Statement (.templateWrite inp v) :=
  fun _ => Nat.zero_le _
theorem tonePairWrite (v : Word) : Statement (.tonePairWrite v) :=
  fun _ => Nat.zero_le _
theorem tonePairSwap (v : Word) : Statement (.tonePairSwap v) :=
  fun _ => Nat.zero_le _
theorem laneWindowSelect (v : Word) : Statement (.laneWindowSelect v) :=
  fun _ => Nat.zero_le _
theorem laneStatusRead : Statement .laneStatusRead :=
  fun _ => Nat.zero_le _
theorem staticLaneGo : Statement .staticLaneGo :=
  fun _ => Nat.zero_le _
theorem laneRelease : Statement .laneRelease :=
  fun _ => Nat.zero_le _
theorem laneConfigWrite (word : Fin 5) (v : Word) : Statement (.laneConfigWrite word v) :=
  fun _ => Nat.zero_le _
theorem laneApplyPoint (lane : Fin 256) : Statement (.laneApplyPoint lane) :=
  fun _ => Nat.zero_le _
theorem laneSymbolEnd (lane : Fin 256) : Statement (.laneSymbolEnd lane) :=
  fun _ => Nat.zero_le _
theorem searchWindowEnd (lane : Fin 256) : Statement (.searchWindowEnd lane) :=
  fun _ => Nat.zero_le _
theorem lofTimeout (lane : Fin 256) : Statement (.lofTimeout lane) :=
  fun _ => Nat.zero_le _
theorem headerDecoded (lane : Fin 256) : Statement (.headerDecoded lane) :=
  fun _ => Nat.zero_le _
theorem bodyDecoded (lane : Fin 256) : Statement (.bodyDecoded lane) :=
  fun _ => Nat.zero_le _
theorem retentionExpiry (node : BitVec 18) (seq : BitVec 12) : Statement (.retentionExpiry node seq) :=
  fun _ => Nat.zero_le _
theorem modeAnnounceExhausted (node : BitVec 18) : Statement (.modeAnnounceExhausted node) :=
  fun _ => Nat.zero_le _
theorem supervisionFallback (node : BitVec 18) : Statement (.supervisionFallback node) :=
  fun _ => Nat.zero_le _
theorem frameDecrypt (fid : Nat) (ctl : Fin 3) (arg : Nat) : Statement (.frameDecrypt fid ctl arg) :=
  fun _ => Nat.zero_le _
theorem hwmCommitDone (id : Nat) : Statement (.hwmCommitDone id) :=
  fun _ => Nat.zero_le _
theorem frameTransmitStart (job : Nat) : Statement (.frameTransmitStart job) :=
  fun _ => Nat.zero_le _
theorem carrierSenseCheck (job copy : Nat) : Statement (.carrierSenseCheck job copy) :=
  fun _ => Nat.zero_le _
theorem frameTransmitEnd (job : Nat) : Statement (.frameTransmitEnd job) :=
  fun _ => Nat.zero_le _
theorem impedanceUpdate (ph : Fin 3) (pair : Byte) (space : Bool) (volt cur : List Int) (job k : Nat) (valid : Bool) : Statement (.impedanceUpdate ph pair space volt cur job k valid) :=
  fun _ => Nat.zero_le _
theorem impedanceSelect (v : Word) : Statement (.impedanceSelect v) :=
  fun _ => Nat.zero_le _
theorem levelWrite (ph : Fin 3) (lvlMax : Bool) (v : Word) : Statement (.levelWrite ph lvlMax v) :=
  fun _ => Nat.zero_le _
theorem overcurrentExceed (ph : Fin 3) (mA : Nat) : Statement (.overcurrentExceed ph mA) :=
  fun _ => Nat.zero_le _
theorem driverTempWarn (ph : Fin 3) (temp : BitVec 16) : Statement (.driverTempWarn ph temp) :=
  fun _ => Nat.zero_le _
theorem thermalShutdown (ph : Fin 3) (temp : BitVec 16) : Statement (.thermalShutdown ph temp) :=
  fun _ => Nat.zero_le _
theorem thermalClear (ph : Fin 3) (temp : BitVec 16) : Statement (.thermalClear ph temp) :=
  fun _ => Nat.zero_le _
theorem vdrvLow : Statement .vdrvLow :=
  fun _ => Nat.zero_le _
theorem vdrvLowClear : Statement .vdrvLowClear :=
  fun _ => Nat.zero_le _
theorem ocAutoRetry (ph : Fin 3) : Statement (.ocAutoRetry ph) :=
  fun _ => Nat.zero_le _
theorem retryReload (ph : Fin 3) : Statement (.retryReload ph) :=
  fun _ => Nat.zero_le _
theorem txfClear (ph : Fin 3) (v : Word) : Statement (.txfClear ph v) :=
  fun _ => Nat.zero_le _
theorem pmSecond : Statement .pmSecond :=
  fun _ => Nat.zero_le _
theorem binFinal (obj : Nat) (day : Bool) : Statement (.binFinal obj day) :=
  fun _ => Nat.zero_le _
theorem labelRouteWrite (label : BitVec 6) (v : Word) : Statement (.labelRouteWrite label v) :=
  fun _ => Nat.zero_le _
theorem laneFramingConfig (v : Word) : Statement (.laneFramingConfig v) :=
  fun _ => Nat.zero_le _
theorem slotCommit : Statement .slotCommit :=
  fun _ => Nat.zero_le _
theorem supervisionExpiry (node : BitVec 18) : Statement (.supervisionExpiry node) :=
  fun _ => Nat.zero_le _
theorem deadlineExpiry (uid : Nat) : Statement (.deadlineExpiry uid) :=
  fun _ => Nat.zero_le _
theorem routedReplyTimeout (uid : Nat) : Statement (.routedReplyTimeout uid) :=
  fun _ => Nat.zero_le _
theorem slotSizeWrite (v : Word) : Statement (.slotSizeWrite v) :=
  fun _ => Nat.zero_le _
theorem qaIndexSelect (v : Word) : Statement (.qaIndexSelect v) :=
  fun _ => Nat.zero_le _
theorem routeComputeDone : Statement .routeComputeDone :=
  fun _ => Nat.zero_le _
theorem repairHoldExpiry (a b : BitVec 18) : Statement (.repairHoldExpiry a b) :=
  fun _ => Nat.zero_le _
theorem neighbourAgeExpiry (sender receiver : BitVec 18) : Statement (.neighbourAgeExpiry sender receiver) :=
  fun _ => Nat.zero_le _
theorem learnedEntryAgeExpiry (addr : BitVec 18) : Statement (.learnedEntryAgeExpiry addr) :=
  fun _ => Nat.zero_le _
theorem vetRootWrite (v : Word) : Statement (.vetRootWrite v) :=
  fun _ => Nat.zero_le _
theorem regionWrite (v : Word) : Statement (.regionWrite v) :=
  fun _ => Nat.zero_le _
theorem regionClearDone : Statement .regionClearDone :=
  fun _ => Nat.zero_le _
theorem captureItem (stream : Fin 16) (time : BitVec 64) (cidx : Word) (phase : BitVec 31) (vals : List Nat) : Statement (.captureItem stream time cidx phase vals) :=
  fun _ => Nat.zero_le _
theorem chunkTimeout (stream : Fin 16) : Statement (.chunkTimeout stream) :=
  fun _ => Nat.zero_le _
theorem playerEntryEnd (player : Fin 7) : Statement (.playerEntryEnd player) :=
  fun _ => Nat.zero_le _
theorem playerAlignResume (player : Fin 7) : Statement (.playerAlignResume player) :=
  fun _ => Nat.zero_le _
theorem playerStartCycle (player : Fin 7) : Statement (.playerStartCycle player) :=
  fun _ => Nat.zero_le _
theorem captureEngineDisable : Statement .captureEngineDisable :=
  fun _ => Nat.zero_le _
theorem playbackEngineDisable : Statement .playbackEngineDisable :=
  fun _ => Nat.zero_le _
theorem streamIndexSelect (v : Word) : Statement (.streamIndexSelect v) :=
  fun _ => Nat.zero_le _
theorem playerIndexSelect (v : Word) : Statement (.playerIndexSelect v) :=
  fun _ => Nat.zero_le _
theorem sqDoorbell (fn : Fin 8) (sq : Fin 16) (v : Word) (whole : Bool) : Statement (.sqDoorbell fn sq v whole) :=
  fun _ => Nat.zero_le _
theorem headDoorbell (fn : Fin 8) (ring : Fin 45) (v : Word) (whole : Bool) : Statement (.headDoorbell fn ring v whole) :=
  fun _ => Nat.zero_le _
theorem ringEnable (fn : Fin 8) (ring : Fin 45) (v : Word) : Statement (.ringEnable fn ring v) :=
  fun _ => Nat.zero_le _
theorem ringDisable (fn : Fin 8) (ring : Fin 45) (v : Word) : Statement (.ringDisable fn ring v) :=
  fun _ => Nat.zero_le _
theorem sqDrained (fn : Fin 8) (sq : Fin 16) : Statement (.sqDrained fn sq) :=
  fun _ => Nat.zero_le _
theorem descriptorFetch (fn : Fin 8) (sq : Fin 16) (desc : List Byte) (err : Bool) : Statement (.descriptorFetch fn sq desc err) :=
  match err with
  | true => fun _ => Nat.zero_le _
  | false => fun h => Nat.le_trans (Nat.le_of_eq (eq_of_beq h)) (by decide)
theorem bankStale (fn : Fin 8) (cls : Fin 4) : Statement (.bankStale fn cls) :=
  fun _ => Nat.zero_le _
theorem nop (uid : Nat) : Statement (.nop uid) :=
  fun _ => Nat.zero_le _
theorem send (uid : Nat) (buf : List Byte) : Statement (.send uid buf) :=
  fun h => Nat.le_of_ble_eq_true h
theorem poll (uid : Nat) (buf : List Byte) : Statement (.poll uid buf) :=
  fun h => Nat.le_of_ble_eq_true h
theorem flood (uid : Nat) (buf : List Byte) : Statement (.flood uid buf) :=
  fun h => Nat.le_of_ble_eq_true h
theorem relay (uid : Nat) (buf : List Byte) : Statement (.relay uid buf) :=
  fun h => Nat.le_of_ble_eq_true h
theorem sessionOpen (uid : Nat) (buf : List Byte) : Statement (.sessionOpen uid buf) :=
  fun h => Nat.le_trans (Nat.le_of_eq (eq_of_beq h)) (by decide)
theorem sessionModify (uid : Nat) (buf : List Byte) : Statement (.sessionModify uid buf) :=
  fun h => Nat.le_trans (Nat.le_of_eq (eq_of_beq h)) (by decide)
theorem sessionClose (uid : Nat) : Statement (.sessionClose uid) :=
  fun _ => Nat.zero_le _
theorem sessionQuery (uid : Nat) : Statement (.sessionQuery uid) :=
  fun _ => Nat.zero_le _
theorem qaCommit (uid : Nat) : Statement (.qaCommit uid) :=
  fun _ => Nat.zero_le _
theorem qaWithdraw (uid : Nat) : Statement (.qaWithdraw uid) :=
  fun _ => Nat.zero_le _
theorem dirRead (uid : Nat) : Statement (.dirRead uid) :=
  fun _ => Nat.zero_le _
theorem dirWrite (uid : Nat) (buf : List Byte) : Statement (.dirWrite uid buf) :=
  fun h => Nat.le_trans (Nat.le_of_eq (eq_of_beq h)) (by decide)
theorem dirDelete (uid : Nat) : Statement (.dirDelete uid) :=
  fun _ => Nat.zero_le _
theorem pmRead (uid : Nat) : Statement (.pmRead uid) :=
  fun _ => Nat.zero_le _
theorem capArm (uid : Nat) (buf : List Byte) : Statement (.capArm uid buf) :=
  fun h => Nat.le_trans (Nat.le_of_eq (eq_of_beq h)) (by decide)
theorem capEnd (uid : Nat) : Statement (.capEnd uid) :=
  fun _ => Nat.zero_le _
theorem capTrigger (uid : Nat) : Statement (.capTrigger uid) :=
  fun _ => Nat.zero_le _
theorem capRead (uid : Nat) : Statement (.capRead uid) :=
  fun _ => Nat.zero_le _
theorem patLoad (uid : Nat) (buf : List Byte) : Statement (.patLoad uid buf) :=
  fun _ => Nat.zero_le _
theorem playStart (uid : Nat) : Statement (.playStart uid) :=
  fun _ => Nat.zero_le _
theorem playStop (uid : Nat) : Statement (.playStop uid) :=
  fun _ => Nat.zero_le _
theorem keyLoad (uid : Nat) (buf : List Byte) : Statement (.keyLoad uid buf) :=
  fun _ => Nat.zero_le _
theorem keyDelete (uid : Nat) : Statement (.keyDelete uid) :=
  fun _ => Nat.zero_le _
theorem ccmEncrypt (uid : Nat) (buf : List Byte) : Statement (.ccmEncrypt uid buf) :=
  fun _ => Nat.zero_le _
theorem ccmDecrypt (uid : Nat) (buf : List Byte) : Statement (.ccmDecrypt uid buf) :=
  fun _ => Nat.zero_le _
theorem ctxSave (uid : Nat) : Statement (.ctxSave uid) :=
  fun _ => Nat.zero_le _
theorem ctxRestore (uid : Nat) : Statement (.ctxRestore uid) :=
  fun _ => Nat.zero_le _
theorem ecdsaSign (uid : Nat) (buf : List Byte) : Statement (.ecdsaSign uid buf) :=
  fun _ => Nat.zero_le _
theorem ecdsaVerify (uid : Nat) (buf : List Byte) : Statement (.ecdsaVerify uid buf) :=
  fun _ => Nat.zero_le _
theorem ecdh (uid : Nat) (buf : List Byte) : Statement (.ecdh uid buf) :=
  fun _ => Nat.zero_le _
theorem quote (uid : Nat) (buf : List Byte) : Statement (.quote uid buf) :=
  fun _ => Nat.zero_le _
theorem pkOperationDone : Statement .pkOperationDone :=
  fun _ => Nat.zero_le _
theorem broadcastSourceWrite (n : Fin 16) (v : Word) : Statement (.broadcastSourceWrite n v) :=
  fun _ => Nat.zero_le _
theorem fuseProgram (key : Byte) (env : Bool) : Statement (.fuseProgram key env) :=
  fun _ => Nat.zero_le _
theorem fuseProgramDone (m1 m0 : Word) : Statement (.fuseProgramDone m1 m0) :=
  fun _ => Nat.zero_le _
theorem nvsWriteDone (verified : Bool) : Statement (.nvsWriteDone verified) :=
  fun _ => Nat.zero_le _
theorem nvsScanDone : Statement .nvsScanDone :=
  fun _ => Nat.zero_le _
theorem nvsRotationRewrite (bank : Fin 2048) : Statement (.nvsRotationRewrite bank) :=
  fun _ => Nat.zero_le _
theorem nvsAllowanceResume (bank : Fin 2048) : Statement (.nvsAllowanceResume bank) :=
  fun _ => Nat.zero_le _
theorem rtcSnapshotRead : Statement .rtcSnapshotRead :=
  fun _ => Nat.zero_le _
theorem rtcCommit (go : Bool) : Statement (.rtcCommit go) :=
  fun _ => Nat.zero_le _
theorem rtcCommitApply : Statement .rtcCommitApply :=
  fun _ => Nat.zero_le _
theorem aonSourceChange (vio33 vbat : Nat) : Statement (.aonSourceChange vio33 vbat) :=
  fun _ => Nat.zero_le _
theorem tamperOpen (loop : Fin 2) : Statement (.tamperOpen loop) :=
  fun _ => Nat.zero_le _
theorem uartCharacterReceived (data : BitVec 9) (parity stop : Bool) : Statement (.uartCharacterReceived data parity stop) :=
  fun _ => Nat.zero_le _
theorem uartCharacterSent (collided : Bool) (data : BitVec 9) (parity stop : Bool) : Statement (.uartCharacterSent collided data parity stop) :=
  fun _ => Nat.zero_le _
theorem uartTxdWrite (v : Word) : Statement (.uartTxdWrite v) :=
  fun _ => Nat.zero_le _
theorem uartRxdRead : Statement .uartRxdRead :=
  fun _ => Nat.zero_le _
theorem uartResume : Statement .uartResume :=
  fun _ => Nat.zero_le _
theorem uartFlushRx : Statement .uartFlushRx :=
  fun _ => Nat.zero_le _
theorem uartFlushTx : Statement .uartFlushTx :=
  fun _ => Nat.zero_le _
theorem i2cGo (v : Word) : Statement (.i2cGo v) :=
  fun _ => Nat.zero_le _
theorem i2cTransactionDone (result : Fin 8) (sent : Nat) (recv : List Byte) : Statement (.i2cTransactionDone result sent recv) :=
  fun _ => Nat.zero_le _
theorem i2cSclTimeout (sent : Nat) (recv : List Byte) : Statement (.i2cSclTimeout sent recv) :=
  fun _ => Nat.zero_le _
theorem i2cDisable (v : Word) : Statement (.i2cDisable v) :=
  fun _ => Nat.zero_le _
theorem i2cBusClear (pulses : Option Nat) : Statement (.i2cBusClear pulses) :=
  fun _ => Nat.zero_le _
theorem i2cWdataWrite (v : Word) : Statement (.i2cWdataWrite v) :=
  fun _ => Nat.zero_le _
theorem i2cRdataRead : Statement .i2cRdataRead :=
  fun _ => Nat.zero_le _
theorem spiFlashGo (v : Word) : Statement (.spiFlashGo v) :=
  fun _ => Nat.zero_le _
theorem spiFlashDone (data : List Byte) (err : Bool) : Statement (.spiFlashDone data err) :=
  fun _ => Nat.zero_le _
theorem spiTargetRead (off : BitVec 16) (words : Nat) : Statement (.spiTargetRead off words) :=
  fun _ => Nat.zero_le _
theorem spiTargetWrite (opcode : Byte) (off : BitVec 16) (edges : Nat) (words : List Word) : Statement (.spiTargetWrite opcode off edges words) :=
  fun _ => Nat.zero_le _
theorem spiHostPost : Statement .spiHostPost :=
  fun _ => Nat.zero_le _
theorem jirothLaneLock (lane : Fin 2) : Statement (.jirothLaneLock lane) :=
  fun _ => Nat.zero_le _
theorem jirothSegmentFail : Statement .jirothSegmentFail :=
  fun _ => Nat.zero_le _
theorem jirothRetrain : Statement .jirothRetrain :=
  fun _ => Nat.zero_le _
theorem jirothEnum (src counter : Nat) : Statement (.jirothEnum src counter) :=
  fun _ => Nat.zero_le _
theorem jirothTiming (src : Nat) (cidx : Word) (zcts : BitVec 64) (slotC : BitVec 2) (dep arr resid : Nat) (swap : Option (Word × Word)) : Statement (.jirothTiming src cidx zcts slotC dep arr resid swap) :=
  fun _ => Nat.zero_le _
theorem jirothTimingLost : Statement .jirothTimingLost :=
  fun _ => Nat.zero_le _
theorem jirothBoundary (src : Nat) (cidx : Word) (zcts : BitVec 64) : Statement (.jirothBoundary src cidx zcts) :=
  fun _ => Nat.zero_le _
theorem jirothEvent (src : Nat) (num : Fin 16) (time : BitVec 64) : Statement (.jirothEvent src num time) :=
  fun _ => Nat.zero_le _
theorem jirothRoute (src : Nat) (costs : List (Nat × Nat)) (reports : List (Nat × Nat × Int × Nat × Nat)) : Statement (.jirothRoute src costs reports) :=
  fun _ => Nat.zero_le _
theorem jirothBreak (pos : Nat) : Statement (.jirothBreak pos) :=
  fun _ => Nat.zero_le _
theorem jirothPacketCrcError (lane : Fin 2) : Statement (.jirothPacketCrcError lane) :=
  fun _ => Nat.zero_le _
theorem refSourceLost : Statement .refSourceLost :=
  fun _ => Nat.zero_le _
theorem refRelock : Statement .refRelock :=
  fun _ => Nat.zero_le _
theorem islandUnlock (i : Fin 10) : Statement (.islandUnlock i) :=
  fun _ => Nat.zero_le _
theorem islandRelock (i : Fin 10) : Statement (.islandRelock i) :=
  fun _ => Nat.zero_le _
theorem islandRelockTimeout (i : Fin 10) : Statement (.islandRelockTimeout i) :=
  fun _ => Nat.zero_le _
theorem x32Stop : Statement .x32Stop :=
  fun _ => Nat.zero_le _
theorem msixUnmask (fn : Fin 8) (what : Fin 3) (vec : BitVec 5) : Statement (.msixUnmask fn what vec) :=
  fun _ => Nat.zero_le _
theorem completionTimeout (fn : Fin 8) (sq : Fin 16) (uid : Option Nat) : Statement (.completionTimeout fn sq uid) :=
  fun _ => Nat.zero_le _

end Sys2Proof.Laws.Table
end

