-- ==== Sys2Proof/Laws/Power.lean ====
section
/-! SUPPORT. The power, supply and reset operations, each with what it can change. -/

namespace Sys2Proof.Machine

/-- A write in progress may land or not; nothing but the store and the free counter moves (R457, R458). -/
theorem dropWrites_eq (s : State) : ∃ n k, dropWrites s = { s with nvs := n, freeCtr := k } ∧ n.retired = s.nvs.retired := by
  have key : ∀ u : State, (∃ n k, u = { s with nvs := n, freeCtr := k } ∧ n.retired = s.nvs.retired) →
      ∃ n k, ({ u with nvs := { u.nvs with
        queue := [], waits := [], banks := u.nvs.banks.map fun (k, x) => (k, { x with left := 16, refill := u.mains.elapsed }) } } : State) =
        { s with nvs := n, freeCtr := k } ∧ n.retired = s.nvs.retired := by
    rintro u ⟨n, k, rfl, h⟩
    exact ⟨_, _, rfl, h⟩
  apply key
  split
  · split
    · dsimp only
      split
      · exact ⟨_, _, rfl, rfl⟩
      · split <;> exact ⟨_, _, rfl, rfl⟩
    · exact ⟨_, _, rfl, rfl⟩
  · exact ⟨_, _, rfl, rfl⟩

/-- A power-on reset keeps the RTC block's registers, the clock, the fuses and the store, and what the model records of its own; all
else is as at reset (R68, R503). -/
theorem powerOnReset_eq (s : State) : ∃ n k, powerOnReset s = { State.reset with
    regs := s.regs.filter fun e => rtcReg e.1
    pins := { s.pins with inReset := true, testHalt := false, husenseRose := none }
    boot := { fuses := s.boot.fuses }
    nvs := n, rtc := s.rtc
    readData := s.readData, posted := s.posted, nextUid := s.nextUid, nextJob := s.nextJob, nextFid := s.nextFid
    freeCtr := k, pending := s.pending } ∧ n.retired = s.nvs.retired ∧ n.queue = [] := by
  obtain ⟨n, k, h, hr⟩ := dropWrites_eq s
  unfold powerOnReset
  rw [h]
  exact ⟨_, _, rfl, hr, rfl⟩

/-- With no job and no phase kept, a state is settled. -/
theorem settled_empty {s : State} (hj : s.jobs = []) (ht : s.tx = []) : Settled s := by
  constructor
  · intro j hj'; rw [hj] at hj'; exact absurd hj' (by simp)
  · intro e he; rw [ht] at he; exact absurd he (by simp)

theorem rd_powerOnReset (s : State) (o : Nat) : rd (powerOnReset s) o = if rtcReg o then rd s o else resetValue o := by
  obtain ⟨n, k, h, -⟩ := powerOnReset_eq s
  rw [h]
  have e : ∀ t : State, t.regs = s.regs.filter (fun e => rtcReg e.1) → rd t o = if rtcReg o then rd s o else resetValue o := by
    intro t ht
    simp only [rd, ht, fgetD, fget_filter_key s.regs rtcReg o]
    by_cases h : rtcReg o = true
    · simp [h]
    · simp [h]
  exact e _ rfl

theorem regsOnly_setPg (s : State) (d : Nat) (b : Bool) : RegsOnly s (setPg s d b) := by
  unfold setPg
  dsimp only
  split
  · exact (((RegsOnly.refl s).wrN _ _).setB _ _).setF _ _
  · exact ((RegsOnly.refl s).wrN _ _).setB _ _

theorem regsOnly_hvcoreOn (s : State) : RegsOnly s (hvcoreOn s) :=
  RegsOnly.ite ((regsOnly_setPg s 17 true).bumpF _ _) (RegsOnly.refl s)

theorem regsOnly_refSelected (s : State) (r : Bool) : RegsOnly s (refSelected s r) :=
  (((RegsOnly.refl s).setB _ _).setB _ _).setB _ _

theorem regsOnly_sampleStraps (s : State) (c : BitVec 2) : RegsOnly s (sampleStraps s c) :=
  (RegsOnly.ite ((((RegsOnly.refl s).setF _ _).setF _ _).raise _) (((RegsOnly.refl s).setF _ _).setF _ _)).trans (regsOnly_refSelected _ _)

theorem getF_hvcoreOn (s : State) (f : Fld) (h : f.off ≠ R.PWR_PG) (h2 : f.off ≠ R.PWR_DOM 17) : getF (hvcoreOn s) f = getF s f := by
  unfold hvcoreOn
  split
  · rw [getF_bumpF_other _ _ _ _ (by decide) (by decide) (Or.inl h2)]
    show getF (setB (wrN s R.PWR_PG _) (F.PWR_DOM_PG 17) true) f = _
    rw [getF_setB_other _ _ _ _ (by decide) (by decide) (Or.inl h2), getF_wrN_ne _ _ _ _ h]
  · rfl

theorem isSet_hvcoreOn (s : State) (f : Fld) (h : f.off ≠ R.PWR_PG) (h2 : f.off ≠ R.PWR_DOM 17) : isSet (hvcoreOn s) f = isSet s f := by
  simp only [isSet, getF_hvcoreOn s f h h2]

end Sys2Proof.Machine
end

