-- ==== Sys2Proof/Tests/Slice0.lean ====
section
/-! SUPPORT. The model's own tests: ill-formed commands are refused, the worked examples and tables of the spec, and for every
obligation with hypotheses a state and operands that meet all of them, clause by clause. -/

set_option Elab.async false

namespace Sys2Proof.Tests

open Sys2Proof Sys2Proof.Machine

/-- Set fields one after another. -/
def cfg (s : State) (l : List (Fld × Nat)) : State := l.foldl (fun s e => setF s e.1 e.2) s

/-- Switch domains on. -/
def domains (s : State) (l : List Nat) : State := l.foldl (fun s d => setPg s d true) s

theorem settled_of_empty {s : State} (hj : s.jobs = []) (ht : s.tx = []) : Settled s :=
  ⟨fun j h => absurd h (by simp [hj]), fun e h => absurd h (by simp [ht])⟩

/-- A checkable form of the invariant. -/
def settledB (s : State) : Bool :=
  (s.jobs.all fun j => j.copies.all fun c => c.st != .onAir || (hardMute s c.ch.ph).isNone) &&
    s.tx.all fun e => (hardMute s e.1).isNone || e.2.onSince.isNone

theorem settled_of_check {s : State} (h : settledB s = true) : Settled s := by
  simp only [settledB, Bool.and_eq_true, List.all_eq_true] at h
  refine ⟨fun j hj c hc ha => ?_, fun e he hm => ?_⟩
  · have := h.1 j hj c hc
    rw [ha] at this
    simpa using this
  · have := h.2 e he
    cases hx : hardMute s e.1 with
    | none => rw [hx] at hm; exact nomatch hm
    | some d => rw [hx] at this; simpa using this

/-- Out of reset with power and time, and nothing done yet. -/
def powered : State :=
  { State.reset with
    pins := { State.reset.pins with porstLow := false, inReset := false, vdrv := true, viso5 := true, hvPg := true, vio33 := true }
    mains := { State.reset.mains with running := true } }

/-- Listen: the start-up is over and the domains of Listen are on. -/
def listening : State :=
  let s := domains powered [1, 2, 3, 4, 5, 6, 7, 8, 9, 11, 12, 13, 14, 15, 16, 17]
  let s := cfg s [(F.GLB_STATUS_BOOT_PHASE, 15), (F.PWR_STATUS_STATE, 3), (F.PWR_CTRL_TARGET, 3), (F.PWR_STATUS_BUSY, 0),
    (F.MSY_STATUS_CIDX_VALID, 1)]
  { s with boot := { s.boot with shadowOk := true, fwOk := true, dramOk := true, running := true }, pcie := { s.pcie with up := true, retry := false } }

/-- Active: BUGLE and the drivers are on too. -/
def active : State := cfg (domains listening [10, 18, 19, 20]) [(F.PWR_STATUS_STATE, 4), (F.PWR_CTRL_TARGET, 4)]

theorem settled_listening : Settled listening := settled_of_empty (by decide +kernel) (by decide +kernel)
theorem settled_active : Settled active := settled_of_empty (by decide +kernel) (by decide +kernel)

/-- Active, with all four covered sets committed and matched (R84): no phase is muted. -/
def opened : State := cfg { active with crc := { active.crc with matched := 15 } } [(F.GLB_CRC_STAT_COMMITTED, 15)]

/-! ### Witnesses: queue, reset, power -/

theorem witness_StepRunsTheFrontCommand : ({ active with pending := [.nop 1] }).pending = [.nop 1] := rfl

theorem witness_StepKeepsMutedPhasesSilent : Settled active ∧ (match step active with | .next _ => true | _ => false) = true :=
  ⟨settled_active, by decide +kernel⟩

theorem witness_EmptyQueuePasses8ns : active.pending = [] ∧ standbyDue active = false ∧ Settled active ∧ active.mains.running = true ∧
    rd active R.MSY_TB_ADJ = 0 ∧ active.mains.pps.slew = 0 ∧ active.streams = [] ∧ active.players = [] :=
  ⟨rfl, rfl, settled_active, rfl, by decide +kernel, rfl, rfl, rfl⟩

theorem witness_EmptyQueuePasses8ns_stopped : State.reset.pending = [] ∧ standbyDue State.reset = false ∧ State.reset.mains.running = false :=
  ⟨rfl, rfl, rfl⟩

/-- The last 8 ns before a count that a correction of -51.2 ppm skips (R461). -/
def corrected (cal : Nat) (acc : Nat) : State :=
  let s := wrN active R.RTC_CAL cal
  { s with rtc := { s.rtc with running := true, acc := acc, cal := -9999500 } }

theorem witness_EmptyQueuePasses8ns_clock :
    (∀ cal < 2, ∀ acc < 2, let s := corrected (512 * cal) (10 ^ 9 - 1 - acc * 10 ^ 6)
      s.pending = [] ∧ standbyDue s = false ∧ s.rtc.running = true ∧ rdN s R.RTC_CAL = 512 * cal ∧
      (acc = 0 ↔ 10 ^ 9 ≤ s.rtc.acc + 262144) ∧ s.rtc.cal ≤ 512 - 10 ^ 7 ∧ -(10 ^ 7) < s.rtc.cal) ∧
    Settled (corrected 0 0) ∧ Settled (corrected 512 (10 ^ 9 - 1)) :=
  ⟨by decide +kernel, settled_of_empty (by decide +kernel) (by decide +kernel), settled_of_empty (by decide +kernel) (by decide +kernel)⟩

theorem test_clock_correction_skips_a_count :
    ((tick (corrected 512 (10 ^ 9 - 1))).rtc.sub, (tick (corrected 0 (10 ^ 9 - 1))).rtc.sub) =
      (active.rtc.sub, active.rtc.sub + 1) := by decide +kernel

theorem witness_RegisterStoreIsExactAndCanonical : FMapWf resetValue active.regs = true := by decide +kernel

theorem witness_PowerOnResetKeepsOnlyAon : active.pins.porstLow = false := by decide +kernel

theorem witness_ResetEndSamplesStraps :
    (State.reset.pins.porstLow = true ∧ State.reset.pins.monitorReset = false) ∧
    (let s := powerOnReset { active with pins := { active.pins with monitorReset := true } }
     s.pins.monitorReset = true ∧ s.pins.porstLow = false) ∧
    (let s : State := { active with
       pins := { active.pins with pfwLow := true, husenseRose := some 5 }, mains := { active.mains with elapsed := 10000005 } }
     s.pins.inReset = false ∧ s.pins.pfwLow = true ∧ s.pins.husenseHigh = true ∧ s.pins.husenseRose = some 5 ∧
       5 + 10000000 ≤ s.mains.elapsed ∧ runningWrite s = none) := by decide +kernel

/-- HUSENSE has fallen. -/
def warned : State := { powered with pins := { powered.pins with husenseHigh := false, pfwLow := true } }

theorem witness_HoldupWarningMutesEveryPhase : Settled warned ∧ warned.pins.husenseHigh = false :=
  ⟨settled_of_empty rfl rfl, rfl⟩

theorem witness_DeviceResetEndsCommandsAndKeepsTime :
    (reach active R.GLB_RESET = true ∧ active.pwr.resetAt = none) ∧
    (reach active R.GLB_RESET = true ∧ ((0 : Fin 8) ≠ 0 ∨ (0xA4 : Byte) ≠ 0xA5)) ∧
    (let s := { active with pwr := { active.pwr with resetAt := some 0 } }; s.pwr.resetAt = some 0 ∧ (s.held = [] ∨ 0 + 10000000 ≤ s.mains.elapsed)) := by
  decide +kernel

/-- Virtual functions 1 to 7 enabled; the rest of the configuration space as after the link has trained. -/
def withVfs : State := { active with pcie := { active.pcie with vfEnable := true, numVfs := 7 } }

/-- The event ring of function 0 has room. -/
def withEvents : State := setRing (cfg withVfs [(F.HQE_RCFG_SIZE 0 44, 6)]) 0 44 { st := .enabled }

/-- In D3hot. -/
def asleep : State := { withVfs with pcie := { withVfs.pcie with d3hot := true } }

theorem witness_HostResetsEndTheirCommandsOnly :
    (active.pins.inReset = false) ∧ ((7 : Fin 8) ≠ 0 ∧ fnExists withVfs 7 = true ∧ withVfs.pins.inReset = false ∧ withVfs.pcie.retry = false) ∧
    (withEvents.streams = [] ∧ withEvents.players = [] ∧ domainOn withEvents 3 = true ∧ ringRoom withEvents 0 44 = true ∧
      bankBytes (bank withEvents 0 2) + 32 < 4096 ∧ fnExists withEvents 7 = true ∧ withEvents.pcie.retry = false) ∧
    (withVfs.pcie.d3hot = false ∧ withVfs.pins.inReset = false) ∧ (asleep.pcie.d3hot = true) ∧ (withVfs.pcie.vfEnable = true) ∧
    (active.pcie.vfEnable = false ∧ active.pins.inReset = false ∧ active.pcie.retry = false ∧ bootStopped active = false) ∧
    (State.reset.pins.inReset = true ∧ cfgOpen State.reset = false ∧ fnExists State.reset 7 = false) := by decide +kernel

theorem witness_HostResetsEndTheirCommandsOnly_settled : Settled asleep ∧ Settled active ∧ Settled withEvents :=
  ⟨settled_of_empty (by decide +kernel) (by decide +kernel), settled_active, settled_of_empty (by decide +kernel) (by decide +kernel)⟩

/-- A change of the power state is in progress. -/
def changing : State := cfg listening [(F.PWR_STATUS_BUSY, 1)]

/-- Active is being left and nothing is on the air. -/
def leaving : State := cfg { active with pwr := { active.pwr with leaving := true } } [(F.PWR_CTRL_TARGET, 3), (F.PWR_STATUS_BUSY, 1)]

/-- A frame is on the air on phase A while a command waits. -/
def airing : State := { opened with
  cmds := [{ uid := 1, fn := 0, sq := 0, cq := 0, desc := [], st := .waiting }]
  jobs := [{ id := 9, kind := .command 2, fn := 0, node := 0x300, copies := [{ ch := { pair := 0, ph := 0 }, t0 := 0, t1 := 0, st := .onAir }] }] }

theorem witness_PowerRequestsTakeEffect :
    (reach listening R.PWR_CTRL = true ∧ (1 : Fin 8) ≠ 0) ∧ (reach changing R.PWR_CTRL = true ∧ isSet changing F.PWR_STATUS_BUSY = true) ∧
    (isSet listening F.PWR_STATUS_BUSY = false ∧ getF listening F.PWR_STATUS_STATE = 3 ∧ listening.cmds = [] ∧ listening.jobs = [] ∧
      listening.streams = [] ∧ listening.players = [] ∧ listening.pwr.leaving = false ∧ allWritable listening = true) ∧
    (∀ e, 1 ≤ e → e ≤ 20 → isSet listening (F.PWR_DOM_PG_FAIL e) = false) ∧ (domainOn listening 10 = false ∧ coupled listening 2 = true) ∧
    (∀ valid < 2, let s := cfg { listening with pins := { listening.pins with vdrv := false } } [(F.PWR_DOM_PG_FAIL 10, 1), (F.MSY_STATUS_CIDX_VALID, valid)]
     reach s R.PWR_CTRL = true ∧ isSet s F.PWR_STATUS_BUSY = false ∧ getF s F.PWR_STATUS_STATE = 3 ∧ isSet s (F.PWR_DOM_PG_FAIL 10) = true ∧
     s.pins.vdrv = false ∧ cidxOk s = (valid == 1) ∧ ∀ e < 21, isSet s (F.PWR_DOM_REQ e) = true → domainOn s e = true) ∧
    (let s := { listening with pins := { listening.pins with vdrv := false } }
     reach s R.PWR_CTRL = true ∧ isSet s F.PWR_STATUS_BUSY = false ∧ getF s F.PWR_STATUS_STATE = 3 ∧ s.pins.vdrv = false ∧ coupled s 2 = true) ∧
    (reach active R.PWR_CTRL = true ∧ isSet active F.PWR_STATUS_BUSY = false ∧ getF active F.PWR_STATUS_STATE = 4 ∧ active.cmds = [] ∧ active.jobs = []) ∧
    (let s := cfg (domains powered [1, 2, 14]) [(F.PWR_STATUS_STATE, 2), (F.PWR_CTRL_TARGET, 2), (F.PWR_STATUS_BUSY, 0)]
     reach s R.PWR_CTRL = true ∧ isSet s F.PWR_STATUS_BUSY = false ∧ getF s F.PWR_STATUS_STATE = 2 ∧ s.boot.xaton = [] ∧ domainOn s 4 = false) ∧
    (let s := airing
     reach s R.PWR_CTRL = true ∧ isSet s F.PWR_STATUS_BUSY = false ∧ getF s F.PWR_STATUS_STATE = 4 ∧ onAirPhase s 0 = true ∧
       s.cmds.any (fun c => c.st == .waiting) = true) ∧
    (leaving.pwr.leaving = true ∧ getF leaving F.PWR_CTRL_TARGET = 3 ∧ ∀ p < 3, onAirPhase leaving p = false) := by decide +kernel

theorem witness_PowerRequestsTakeEffect_settled : Settled listening ∧ Settled changing ∧ Settled airing :=
  ⟨settled_listening, settled_of_empty (by decide +kernel) (by decide +kernel), settled_of_check (by decide +kernel)⟩

/-- The start-up at its second domain: AON has power good, and PCIE or the driver of phase C is asked for. -/
def rising2 : State := cfg (domains powered [1]) [(F.PWR_DOM_REQ 2, 1)]

/-- A change of state waits for domain `d` alone. -/
def lastRise (st d target : Nat) : State :=
  cfg listening [(F.PWR_STATUS_STATE, st), (F.PWR_STATUS_BUSY, 1), (F.PWR_CTRL_TARGET, target), (F.PWR_DOM_REQ d, 1)]

theorem witness_DomainsRiseAfterTheirParentsOrFail :
    (rising2.pins.inReset = false ∧ mayRise rising2 2 = true ∧ rising2.boot.held = [] ∧ rising2.boot.xaton = [] ∧
      pwrState rising2 = 0 ∧ booting rising2 = true) ∧
    (let s := cfg (domains listening [10]) [(F.PWR_DOM_REQ 20, 1)]
     s.pins.inReset = false ∧ mayRise s 20 = true ∧ s.boot.held = [] ∧ s.boot.xaton = [] ∧ isSet s F.PWR_STATUS_BUSY = false ∧ booting s = false) ∧
    (let s := cfg rising2 [(F.PWR_DOM_PG_FAIL 2, 1)]
     mayRise s 2 = true ∧ isSet s (F.PWR_DOM_PG_FAIL 2) = true ∧ 2 ∈ parents 3 ∧ domainOn s 3 = false) ∧
    mayRise listening 10 = false := by decide +kernel

theorem witness_DomainsRiseAfterTheirParentsOrFail_last :
    (let s := lastRise 3 10 4
     s.pins.inReset = false ∧ mayRise s 10 = true ∧ s.boot.held = [] ∧ s.boot.xaton = [] ∧ isSet s F.PWR_STATUS_BUSY = true ∧
     s.pwr.toStandby = false ∧ s.pwr.leaving = false ∧ pwrState s = 3 ∧ cidxOk s = true ∧
     ∀ e < 21, e ≠ 10 → isSet s (F.PWR_DOM_REQ e) = true → domainOn s e = true) ∧
    (let s := setPg (lastRise 2 3 3) 3 false
     s.pins.inReset = false ∧ mayRise s 3 = true ∧ isSet s F.PWR_STATUS_BUSY = true ∧ s.pwr.toStandby = false ∧ s.pwr.leaving = false ∧
     pwrState s = 2 ∧ getF s F.PWR_CTRL_TARGET = 3 ∧ ∀ e < 21, e ≠ 3 → isSet s (F.PWR_DOM_REQ e) = true → domainOn s e = true) := by
  decide +kernel

theorem test_domain_power_good_completes :
    (match exec (.domainPowerGood 2) rising2 with | .next t => domainOn t 2 && getF t (F.PWR_DOM_ON_CNT 2) == 1 | _ => false) = true ∧
    (match exec (.domainPgTimeout 2) rising2 with
     | .next t => isSet t (F.PWR_DOM_PG_FAIL 2) && getF t F.GLB_STATUS_BOOT_ERR == 0x20
     | _ => false) = true := by decide +kernel

/-- A command that waits for the line. -/
def command2 : Cmd := { uid := 1, fn := 0, sq := 0, cq := 0, desc := [], st := .waiting }

def onLine2 : State := { active with cmds := [command2] }

/-- The reference lost and the crystal selected, or the clock input selected. -/
def heldOver (sel : Nat) : State := cfg active [(F.CLK_STATUS_TK_HOLD, 1), (F.CLK_STRAP_CLKSEL, sel)]

theorem witness_ClockAndWatchdogEvents :
    (let s := { powered with mains := {} }; s.pins.inReset = false ∧ s.mains.running = false) ∧ (active.pins.inReset = false) ∧
    (isSet (heldOver 0) F.CLK_STATUS_TK_HOLD = true ∧ getF (heldOver 0) F.CLK_STRAP_CLKSEL = 0) ∧
    (isSet (heldOver 1) F.CLK_STATUS_TK_HOLD = true ∧ getF (heldOver 1) F.CLK_STRAP_CLKSEL = 1) ∧
    (∀ i : Fin 10, bit (getF active F.CLK_STATUS_LOCK) i.val = true ∧ domainOn active (domainOf i.val) = true) ∧
    (lineCmds onLine2 = [command2] ∧ cmdJobs onLine2 1 = [] ∧ onLine2.players = [] ∧ domainOn onLine2 4 = true ∧ domainOn onLine2 5 = true) ∧
    (let s := cfg (setLock active 9 false) [(F.GLB_STATUS_BOOT_PHASE, 5)]
     domainOn s (domainOf 9) = true ∧ bit (getF s F.CLK_STATUS_LOCK) 9 = false ∧ booting s = true) := by decide +kernel

theorem witness_ClockAndWatchdogEvents_settled : Settled ({ powered with mains := {} }) ∧ Settled active ∧ Settled (heldOver 1) :=
  ⟨settled_of_empty rfl rfl, settled_active, settled_of_empty (by decide +kernel) (by decide +kernel)⟩

theorem witness_HighVoltageSupplies :
    let s := { active with pins := { active.pins with hvPg := false } }
    s.pins.hvPg = false ∧ (s.pins.vdrv = true ∨ s.pins.viso5 = true) ∧ s.pins.inReset = false := by decide +kernel

/-! ### Witnesses: start-up, fuses, barrier, faults, integrity, accesses -/

/-- A boot phase. -/
def atPhase (n : Nat) : State := cfg active [(F.GLB_STATUS_BOOT_PHASE, n)]

/-- The control core runs, and the integrator key of `signedXaton` is fused. -/
def keyed : State :=
  let s := atPhase 4
  { s with boot := { s.boot with resolved := [(0x031, 611233505), (0x032, 1490797901), (0x033, 1745561274), (0x034, 2815833583), (0x035, 387231861),
    (0x036, 4205169144), (0x037, 2058732478), (0x038, 2680094699), (0x039, 3259784041), (0x03A, 2520821027), (0x03B, 2322035103), (0x03C, 2353264680)] } }

/-- A Xaton image with its records and signature, X_SVN 1, of the key of number 12345678901234567890 (R436, R438). -/
def signedXaton (recs : List Byte) (sig : Nat) : List Byte :=
  [0x58, 0x41, 0x54, 0x4E] ++ toLE 2 1 ++ toLE 2 1 ++ toLE 4 (256 + recs.length) ++ List.replicate 116 0 ++
  toBE 64 3291319580188701289659799092381099935404095429006852791577761704130161615277441193471594889572535882819231337872574892073089716167714881216147089619869310 ++
  toBE 64 sig ++ recs

theorem witness_BootStepsFourToEight :
    (powered.pins.inReset = false ∧ powered.mains.running = true ∧ powered.boot.shadowOk = false ∧ getF powered F.GLB_STATUS_BOOT_PHASE = 0) ∧
    (∀ e, 1 ≤ e → e ≤ 20 → isSet powered (F.PWR_DOM_PG_FAIL e) = false) ∧ soundReads (fuseReads powered [(0x031, 1, 1, 1)] 0x031) = true ∧
    (active.pins.inReset = false ∧ domainOn active 2 = true) ∧
    (let s := atPhase 3
     s.boot.shadowOk = true ∧ domainOn s 12 = true ∧ domainOn s 13 = true ∧ booting s = true ∧ s.boot.fwOk = true ∧
       s.boot.dramOk = true ∧ getF s F.GLB_STATUS_BOOT_PHASE = 3) := by decide +kernel

theorem witness_BootStepsFourToEight_settled : Settled active ∧ Settled (atPhase 3) :=
  ⟨settled_active, settled_of_empty (by decide +kernel) (by decide +kernel)⟩

theorem witness_BootStepsSixAndNineToEleven :
    (let s := cfg (atPhase 1) [(F.NVS_STATUS_READY, 1)]
     s.pins.inReset = false ∧ domainOn s 4 = true ∧ domainOn s 16 = true ∧ nvsReady s = true ∧ getF s F.GLB_STATUS_BOOT_PHASE = 1) ∧
    (getF keyed F.GLB_STATUS_BOOT_PHASE = 4 ∧ keyed.boot.running = true ∧ (match verifyXaton keyed [] with | .ok none => true | _ => false) = true) ∧
    (let s := { keyed with boot := { keyed.boot with resolved := [(0x03D, 4)] } }
     s.boot.running = true ∧ (match verifyXaton s [] with | .error c => c == 0x11 | _ => false) = true) ∧
    (getF (atPhase 5) F.GLB_STATUS_BOOT_PHASE = 5 ∧ ∀ d ∈ controlDomains, domainOn (atPhase 5) d = true) ∧
    (let s := cfg (atPhase 6) [(F.PWR_CTRL_TARGET, 3)]
     getF s F.GLB_STATUS_BOOT_PHASE = 6 ∧ getF s F.PWR_CTRL_TARGET = 3) := by decide +kernel

theorem witness_FuseWordsAndProgramming :
    (soundReads (0, 0, 0) = true) ∧ (soundReads (1, 0, 7) = false ∧ restrictiveWord 0x03D = true ∧ restrictiveWord 0x040 = true) ∧
    (copyWord 0x031 = some 0x131 ∧ copyWord 0xBF = some 0xFF ∧ soundReads (3, 3, 3) = true) ∧ (copyWord 0 = some 0x100) ∧
    (let s := cfg active [(F.OTP_PGM_IDX_WORD, 0x03E)]
     let s := wr s R.OTP_PGM_DATA 1
     reach s R.OTP_PGM_CMD = true ∧ s.boot.pgm = none ∧ mayProgram s (getF s F.OTP_PGM_IDX_WORD) (rd s R.OTP_PGM_DATA) = true ∧
       (0x5B : Byte) ≠ 0x5A) ∧
    (({ active with boot := { active.boot with pgm := some (0x03E, 1) } }).boot.pgm = some (0x03E, 1)) := by decide +kernel

/-- A word of the monotonic counter is about to be programmed. -/
def programming : State := wr (cfg active [(F.OTP_PGM_IDX_WORD, 0x03E)]) R.OTP_PGM_DATA 1

theorem witness_FuseWordsAndProgramming_settled : Settled programming := settled_of_empty (by decide +kernel) (by decide +kernel)

/-- All barrier lanes locked but those given, which are in lasting fault. -/
def lanesBut (lost : List Nat) : State :=
  { active with blanes := (List.range 6).map fun l => (l, { locked := !lost.contains l, lasting := lost.contains l }) }

theorem witness_BarrierLanesAndErrors :
    (domainOn active 17 = true ∧ active.mains.running = true ∧ (blane active 5).lasting = false ∧ (blane active 0).locked = false ∧ lostLanes active = []) ∧
    (let s := { active with blanes := [(0, { lasting := true })] }
     lostLanes s ≠ [] ∧ (blane s 5).lasting = false ∧ (blane s 5).locked = false) ∧
    ((blane (lanesBut []) 5).locked = true ∧
      (fgetD (lanesBut []).rel.hist (faultKey 2 5) {}).times.length + 1 < (faultCfg (lanesBut []) 2).1) ∧
    ((lostLanes (lanesBut [5])).length = 1 ∧ (lanesBut [5]).rel.fiveLane = false) ∧
    ((lostLanes (lanesBut [0])).length = 1 ∧ (lanesBut [0]).rel.fiveLane = false) := by decide +kernel

theorem witness_BarrierLanesAndErrors_settled : Settled (lanesBut []) := settled_of_empty (by decide +kernel) (by decide +kernel)

/-- Source 2, lane 5: one event below its number. -/
def nearLasting : State :=
  { active with rel := { active.rel with hist := [(faultKey 2 5, { times := List.replicate ((faultCfg active 2).1 - 1) 0 })] } }

/-- The same source counts one event in two. -/
def divided : State := cfg active [({ off := R.REL_CNT 2, hi := 9, lo := 8 }, 1)]

theorem witness_FaultWindowDecidesTransientOrLasting :
    (faultItemOk 2 5 = true) ∧ ((fgetD divided.rel.hist (faultKey 2 5) {}).raw + 1 < 2 ^ (faultCfg divided 2).2.2) ∧
    (2 ^ (faultCfg active 2).2.2 ≤ (fgetD active.rel.hist (faultKey 2 5) {}).raw + 1 ∧ 1 < (faultCfg active 2).1) ∧
    (let h := fgetD nearLasting.rel.hist (faultKey 2 5) {}
     2 ^ (faultCfg nearLasting 2).2.2 ≤ h.raw + 1 ∧ (faultCfg nearLasting 2).1 ≤
       1 + (h.times.filter fun x => Nat.ble (tbNow nearLasting) (x + (faultCfg nearLasting 2).2.1 * 10 ^ 6)).length) := by decide +kernel

theorem witness_FaultWindowDecidesTransientOrLasting_settled : Settled divided ∧ Settled nearLasting :=
  ⟨settled_of_empty (by decide +kernel) (by decide +kernel), settled_of_empty (by decide +kernel) (by decide +kernel)⟩

theorem witness_FaultSettingsAndRetiredPages :
    (0 < getF active F.REL_DRAM_SPARE_SPARE) ∧ (getF (cfg active [(F.REL_DRAM_SPARE_SPARE, 0)]) F.REL_DRAM_SPARE_SPARE = 0) ∧
    (∀ src < 7, reach active (R.REL_WIN src) = true ∧ reach active (R.REL_CNT src) = true) ∧
    (reach active (R.REL_LOG 0 0) = true ∧ reach active (R.REL_LOG 63 0) = true) := by decide +kernel

/-- A signature reads the key record of slot 0 from the DRAM, or one in the cache (command 5). -/
def readsKey (cached : Bool) : State :=
  { active with
    cmds := [{ uid := 5, fn := 0, sq := 0, cq := 0, desc := 0x58 :: List.replicate 31 0, st := .waiting }]
    sec := { active.sec with cache := if cached then [0] else [] } }

theorem witness_FaultSettingsAndRetiredPages_key :
    (findCmd (readsKey false) 5).bind (keyRead (readsKey false)) = some 0 ∧ (findCmd (readsKey true) 5).isSome = true ∧
    (findCmd (readsKey true) 5).bind (keyRead (readsKey true)) = none ∧ (∀ j ∈ (readsKey false).jobs, j.live = false) := by decide +kernel

/-- A block in its safe action. -/
def safeIn (b : Nat) (index : Nat) : State :=
  setF (wrN { active with par := { acts := [{ block := b, inst := 0 }] } } R.GLB_CFG_PARITY (2 ^ b)) F.MSY_STATUS_CIDX_VALID index

theorem witness_ParityFailureEntersTheSafeAction :
    (active.pins.inReset = false ∧ parityOf 0x0C00 = some (0, 0) ∧ parityOf 0x2400 = some (6, 0) ∧ mutingBlock 6 = true ∧ active.par = {} ∧ cidxOk active = true) ∧
    (∀ b ∈ [0, 14], reach active R.GLB_CFG_PARITY = true ∧ b < 15 ∧ b ≠ 3 ∧ bit (2 ^ b) b = true ∧
      bit (rdN (safeIn b 0) R.GLB_CFG_PARITY) b = true ∧ cidxOk (safeIn b 1) = true ∧ cidxOk (safeIn b 0) = false) := by decide +kernel

/-- Set 2 is committed, with the reference given or with its own CRC-32. -/
def committed2 (ref : Option Nat) : State := cfg (wrN active (R.GLB_CRC_REF 2) (ref.getD (setCrc active 2))) [(F.GLB_CRC_STAT_COMMITTED, 4)]

theorem witness_CoveredSetsAreCheckedAndLocked :
    (active.pins.inReset = false ∧ committed active 2 = false) ∧
    (committed (committed2 (some 1)) 2 = true ∧ setCrc (committed2 (some 1)) 2 ≠ rdN (committed2 (some 1)) (R.GLB_CRC_REF 2)) ∧
    (committed (committed2 none) 2 = true ∧ setCrc (committed2 none) 2 = rdN (committed2 none) (R.GLB_CRC_REF 2)) ∧
    (∀ n < 4, reach active (R.GLB_CRC_REF n) = true) ∧ (reach active R.GLB_LOCK = true ∧ bit 4 1 = false ∧ bit 4 3 = false) := by
  decide +kernel

theorem witness_CoveredSetsAreCheckedAndLocked_settled : Settled (committed2 (some 1)) :=
  settled_of_empty (by decide +kernel) (by decide +kernel)

/-- Every lock is set. -/
def locked : State := wrN active R.GLB_LOCK 0xF

theorem witness_RegisterAccessesFollowTheirCodes :
    (barOffset 0 0x0C00 = some 0x0C00 ∧ fnHere active 0 = true ∧ (7 : BitVec 4) ≠ 15 ∧ 0x0C02 % 4 ≠ 0) ∧
    (barOffset 7 0x10 = some 0xF010 ∧ fnHere withVfs 7 = true) ∧
    (regAt 0x0FFC = none ∧ reach active 0x0FFC = true) ∧
    (∃ d, regAt 0x2448 = some d ∧ lockedReg locked d = true ∧ reach locked 0x2448 = true) ∧
    (∃ d, regAt (R.MSY_SWELL 0) = some d ∧ lockedReg active d = false ∧ lockedOff active (R.MSY_SWELL 0) = false ∧
      (blockWrite (rewritten active (R.MSY_SWELL 0)) d (R.MSY_SWELL 0) 5).isNone = true ∧ reach active (R.MSY_SWELL 0) = true) ∧
    (reach active (R.RXF_OVR_CNT 3) = true ∧ R.RXF_OVR_CNT 3 % 4 = 0) := by
  refine ⟨by decide +kernel, by decide +kernel, by decide +kernel, ⟨_, rfl, by decide +kernel⟩, ⟨_, rfl, by decide +kernel⟩, by decide +kernel⟩

theorem witness_UnusedOffsetsReadZero :
    (barOffset 0 0x0FFC = some 0x0FFC ∧ regAt 0x0FFC = none ∧ fnHere active 0 = true ∧ pwrState active ≠ 2 ∧ bootStopped active = false) ∧
    (barOffset 7 0xFFC = some 0xFFFC ∧ 0xFFFC % 4 = 0 ∧ regAt 0xFFFC = none ∧ fnHere withVfs 7 = true) := by decide +kernel

theorem witness_CrossWindowWritesAreRefused :
    fnHere active 0 = true ∧ reach active 0x9000 = true ∧ reach active 0xFFFC = true ∧ ∃ d, regAt 0x9000 = some d ∧ d.rc = false :=
  ⟨by decide +kernel, by decide +kernel, by decide +kernel, ⟨_, rfl, by decide +kernel⟩⟩

/-! ### Witnesses: sensing, tracker, timebase -/

/-- The index is not valid. -/
def noIndex (s : State) : State := setF s F.MSY_STATUS_CIDX_VALID 0

/-- The last coefficient of bank 1 is selected. -/
def coefSelected : State := cfg active [(F.MSY_COEF_IDX_BANK, 1), (F.MSY_COEF_IDX_PHASE, 2), (F.MSY_COEF_IDX_I, 5), (F.MSY_COEF_IDX_J, 3)]

/-- Bank 1 holds a coefficient that is no number. -/
def badBank : State := { noIndex active with mains := { active.mains with coef := [(72, 0x7FC0_0000)] } }

theorem witness_LinearisationBanks :
    (reach coefSelected R.MSY_COEF_DATA = true ∧ getF coefSelected F.MSY_COEF_IDX_BANK ≠ coefBank coefSelected ∧
      getF coefSelected F.MSY_COEF_IDX_PHASE < 3 ∧ getF coefSelected F.MSY_COEF_IDX_I < 6) ∧
    (reach active R.MSY_COEF_DATA = true ∧ getF active F.MSY_COEF_IDX_BANK = coefBank active) ∧
    (getF (cfg active [(F.MSY_COEF_IDX_I, 6), (F.MSY_COEF_IDX_BANK, 1)]) F.MSY_COEF_IDX_I = 6) ∧
    (reach active R.MSY_CTRL = true ∧ cidxOk active = true) ∧
    (cidxOk (noIndex active) = false ∧ coefBank (noIndex active) ≠ b2n true ∧ bankOk (noIndex active) (b2n true) = true) ∧
    (cidxOk badBank = false ∧ coefBank badBank ≠ b2n true ∧ bankOk badBank (b2n true) = false) := by decide +kernel

theorem witness_LinearisationBanks_settled : Settled coefSelected ∧ Settled (noIndex active) ∧ Settled badBank :=
  ⟨settled_of_empty (by decide +kernel) (by decide +kernel), settled_of_empty (by decide +kernel) (by decide +kernel),
    settled_of_empty (by decide +kernel) (by decide +kernel)⟩

/-- Phase A alone is enabled, and a coefficient of phase B's bank 0 alone has been written: phase A works with defaults (R94). -/
def otherWritten : State := { wrN active R.MSY_SNS_CFG 0x001 with mains := { active.mains with bankWritten := 4 } }

theorem witness_DefaultCoefficients : active.pins.porstLow = false ∧
    snsEn otherWritten 0 = true ∧ bit otherWritten.mains.bankWritten.toNat (2 * 0 + coefBank otherWritten) = false ∧
    bit otherWritten.mains.bankWritten.toNat (2 * 1 + coefBank otherWritten) = true := by decide +kernel

/-- All channels enabled, the tracker on and locked to phase A. -/
def tracking : State := cfg (wrN active R.MSY_SNS_CFG 0x111) [(F.MSY_CTRL_EN, 1), (F.MSY_STATUS_LOCK, 1), (F.MSY_CTRL_REFPH, 0)]

/-- The same, not yet locked. -/
def acquiring (run : Nat) : State := { setF tracking F.MSY_STATUS_LOCK 0 with mains := { tracking.mains with acquiring := true, lockRun := run } }

theorem settled_tracking : Settled tracking := settled_of_empty (by decide +kernel) (by decide +kernel)

theorem witness_SensingAndTrackerSettings :
    (reach active R.MSY_SNS_CFG = true ∧ isSet active F.MSY_STATUS_LOCK = false) ∧
    (reach tracking R.MSY_SNS_CFG = true ∧ isSet tracking F.MSY_STATUS_LOCK = true ∧ refPhase tracking < 3 ∧ snsEn tracking (refPhase tracking) = true ∧
      bit 0xFFE (4 * refPhase tracking) = false) ∧
    (reach tracking R.MSY_CTRL = true ∧ cidxOk tracking = true ∧ (3 : BitVec 2) = 3) ∧
    (reach (noIndex active) R.MSY_CTRL = true ∧ cidxOk (noIndex active) = false) := by decide +kernel

/-- Phase C has seven linearised samples of a group, the newest of them invalid. -/
def sevenCodes : State :=
  { tracking with mains := { tracking.mains with ph := [(2, { lin := none :: List.replicate 6 (some 5) })] } }

theorem witness_EightSenseCodesMakeOneSample :
    (snsEn tracking 2 = true ∧ domainOn tracking 17 = true ∧ (mph tracking 2).lin.length < 7) ∧
    (snsEn sevenCodes 2 = true ∧ domainOn sevenCodes 17 = true ∧ (mph sevenCodes 2).lin.length = 7 ∧ none ∈ (mph sevenCodes 2).lin) := by
  decide +kernel

theorem witness_EightSenseCodesMakeOneSample_settled : Settled sevenCodes := settled_of_empty (by decide +kernel) (by decide +kernel)

theorem witness_RmsOfAWindow :
    let s := { tracking with mains := { tracking.mains with ph := [(2, { win := [some 131071, some (-3)], half := 1 })] } }
    snsEn s 2 = true ∧ ([131071, -3] : List Int) ≠ [] ∧ (∀ v ∈ ([131071, -3] : List Int), v.natAbs < 2 ^ 17) ∧
      (mph s 2).win = ([131071, -3] : List Int).map some := by decide +kernel

theorem witness_CrossingsLockTheTracker :
    (snsEn tracking 0 = true ∧ isSet tracking F.MSY_CTRL_EN = true ∧ domainOn tracking 17 = true ∧ inSafe tracking 0 = false ∧
      0 = refPhase tracking ∧ isSet tracking F.MSY_STATUS_LOCK = true ∧ holdPeriod tracking < 10 * ((10000000 : Int) - 0).natAbs) ∧
    (snsEn (acquiring 15) 0 = true ∧ 0 = refPhase (acquiring 15) ∧ isSet (acquiring 15) F.MSY_STATUS_LOCK = false ∧
      (acquiring 15).mains.acquiring = true ∧ ((20000 : Int) - 0).natAbs ≤ 20000 ∧ 15 ≤ (acquiring 15).mains.lockRun) ∧
    (isSet (acquiring 0) F.MSY_STATUS_LOCK = false ∧ 20000 < ((20001 : Int) - 0).natAbs) ∧
    (snsEn tracking 2 = true ∧ 2 ≠ refPhase tracking ∧ 10 * ((7 : Int) - 7).natAbs ≤ holdPeriod tracking) ∧
    (let s := cfg active [(F.MSY_STATUS_HOLD, 1), (F.MSY_HOLD_TX_LIMIT, 10), (F.MSY_STATUS_HOLD_AGE, 10)]
     isSet s F.MSY_STATUS_HOLD = true ∧ getF s F.MSY_HOLD_TX_LIMIT ≠ 0xFFFF ∧ getF s F.MSY_HOLD_TX_LIMIT ≤ getF s F.MSY_STATUS_HOLD_AGE) := by
  decide +kernel

/-- At a boundary: the reference phase has crossed, Campion is off and the line idle. -/
def atBoundary : State :=
  let s := setPg tracking 6 false
  { s with mains := { s.mains with crossed := true } }

theorem witness_CycleBoundaryAdvancesTheIndex :
    (atBoundary.pins.inReset = false ∧ atBoundary.mains.running = true ∧ isSet atBoundary F.MSY_STATUS_LOCK = true ∧ atBoundary.mains.crossed = true ∧
      45 * 2 ^ 16 ≤ (0x320000 : Word).toNat ∧ (0x320000 : Word).toNat ≤ 65 * 2 ^ 16 ∧ atBoundary.jobs = [] ∧ atBoundary.sessions = [] ∧
      atBoundary.lanes = [] ∧ atBoundary.quiets = [] ∧ atBoundary.par.acts = [] ∧ atBoundary.jir = {} ∧ atBoundary.mains.lengthen = 0 ∧
      atBoundary.mains.refPend = none ∧ domainOn atBoundary 6 = false ∧
      atBoundary.pwr.armed = false ∧ atBoundary.pwr.toStandby = false ∧ cidxOk atBoundary = true) ∧
    (∀ ever : Bool, let s := { noIndex atBoundary with mains := { atBoundary.mains with everLocked := ever } }
     cidxOk s = false ∧ s.mains.everLocked = ever ∧ isSet s F.MSY_STATUS_LOCK = true ∧ isSet (setF s F.MSY_STATUS_LOCK 0) F.MSY_STATUS_LOCK = false ∧
       cidxOk (setF s F.MSY_STATUS_LOCK 0) = false) := by decide +kernel

/-- A step waits for the next edge; the last edge came at 1 s. -/
def stepArmed (armed : Bool) : State := { active with mains := { active.mains with pps := { active.mains.pps with armed := armed, last := some 1000000000 } } }

theorem witness_TimebaseReadsAndSettings :
    (reach active R.MSY_CIDX = true ∧ reach active R.MSY_TB_CMD = true ∧ reach active R.MSY_TB_ADJ = true ∧ reach active R.MSY_PPS_CTRL = true) ∧
    (getF (cfg active [(F.MSY_PPS_CTRL_MODE, 2)]) F.MSY_PPS_CTRL_MODE = 2 ∧ isSet (cfg active [(F.JIR_STATUS_TLOCK, 1)]) F.JIR_STATUS_TLOCK = true) ∧
    (getF active F.MSY_PPS_CTRL_MODE ≠ 2 ∧ isSet active F.JIR_STATUS_TLOCK = false ∧ getF active F.CLK_STRAP_CLKSEL = 0 ∧
      getF (heldOver 1) F.CLK_STRAP_CLKSEL = 1) ∧
    (999 < 1000 ∧ ∃ l, (stepArmed true).mains.pps.last = some l ∧ ((1999899999 : Nat) < l + 999900000 ∨ l + 1000100000 < 1999899999)) ∧
    (1000 ≤ 1000 ∧ (∀ l, (stepArmed true).mains.pps.last = some l → l + 999900000 ≤ 2000100000 ∧ 2000100000 ≤ l + 1000100000) ∧
      ppsMode (stepArmed true) = 0 ∧ (stepArmed true).mains.pps.armed = true ∧ (stepArmed false).mains.pps.armed = false) ∧
    (isSet (cfg active [(F.MSY_STATUS_PPS_LOCK, 1)]) F.MSY_STATUS_PPS_LOCK = true) := by
  refine ⟨by decide +kernel, by decide +kernel, by decide +kernel, ⟨by omega, 1000000000, rfl, .inl (by omega)⟩, ⟨by omega, ?_, by decide +kernel⟩, by decide +kernel⟩
  intro l h
  cases h
  omega

theorem witness_TimebaseReadsAndSettings_settled :
    Settled (cfg active [(F.MSY_PPS_CTRL_MODE, 2)]) ∧ Settled (heldOver 1) ∧ Settled (stepArmed true) ∧ Settled (cfg active [(F.MSY_STATUS_PPS_LOCK, 1)]) :=
  ⟨settled_of_empty (by decide +kernel) (by decide +kernel), settled_of_empty (by decide +kernel) (by decide +kernel),
    settled_of_empty (by decide +kernel) (by decide +kernel), settled_of_empty (by decide +kernel) (by decide +kernel)⟩

/-- A step armed in servo mode; the halt; and the servo's lock about to be lost. -/
theorem witness_TimebaseReadsAndSettings_step_in_servo :
    (let s := cfg (stepArmed true) [(F.MSY_PPS_CTRL_MODE, 1)]
     s.pins.inReset = false ∧ ppsMode s ≠ 0 ∧ s.mains.pps.armed = true ∧ s.mains.pps.last = some 1000000000) ∧
    active.pins.inReset = false ∧ State.reset.pins.inReset = true := by decide +kernel

theorem witness_TimebaseReadSnapshotsTheHighWord :
    reach active R.MSY_TB_LO = true ∧ fnHere active 0 = true ∧ reach active R.MSY_TB_HI = true := by decide +kernel

theorem witness_CycleBoundaryAdvancesTheIndex_hold :
    (let s := cfg atBoundary [(F.MSY_STATUS_LOCK, 0), (F.MSY_STATUS_HOLD, 1), (F.MSY_STATUS_HOLD_AGE, 0xFFFF)]
     isSet s F.MSY_STATUS_LOCK = false ∧ isSet s F.MSY_STATUS_HOLD = true ∧ cidxOk s = true ∧ s.pins.inReset = false ∧ s.mains.running = true ∧
       s.jobs = [] ∧ s.sessions = [] ∧ s.lanes = [] ∧ s.quiets = [] ∧ s.par.acts = [] ∧ s.jir = {} ∧ s.mains.lengthen = 0 ∧ s.mains.refPend = none ∧
       domainOn s 6 = false ∧ s.pwr.armed = false ∧ s.pwr.toStandby = false) ∧
    State.reset.pins.inReset = true ∧ snsEn (wrN active R.MSY_SNS_CFG 0) 0 = false ∧ isSet active F.MSY_STATUS_HOLD = false := by decide +kernel

theorem witness_TimebaseReadsAndSettings_servo :
    let s := cfg active [(F.MSY_PPS_CTRL_MODE, 1)]
    1000 ≤ 1000 ∧ (∀ l, s.mains.pps.last = some l → l + 999900000 ≤ 5 ∧ 5 ≤ l + 1000100000) ∧ ppsMode s ≠ 0 ∧
      isSet s F.MSY_STATUS_PPS_LOCK = false := by
  intro s
  exact ⟨by omega, fun l h => (by cases h), by decide +kernel, by decide +kernel⟩

/-! ### Witnesses: receive chain and Campion -/

/-- One receive input, 3, as given. -/
def withInput (s : State) (x : RxIn) : State := { s with rx := [(3, x)] }

/-- Input 3 enabled, with filter bank 0 of four taps in use. -/
def inputOn : State :=
  cfg active [(F.RXF_CTRL_EN 3, 1), (F.RXF_STATUS_ROMF 3, 0), (F.RXF_FIR_CFG_NTAP4 3 0, 1), (F.RXF_CTRL_BLANK_EN 3, 0), (F.TSL_CFG_EN 3, 0)]

/-- Bank 1 of input 3 has 96 × 4 taps and the decimation in use. -/
def swapReady : State := cfg active [(F.RXF_FIR_CFG_NTAP4 3 1, 96)]

theorem settled_inputOn : Settled inputOn := settled_of_empty (by decide +kernel) (by decide +kernel)

theorem witness_InputSettings :
    (reach active (R.RXF_CTRL 3) = true ∧ isSet active (F.RXF_CTRL_EN 3) = false) ∧
    (reach inputOn (R.RXF_CTRL 3) = true ∧ isSet inputOn (F.RXF_CTRL_EN 3) = true ∧ (rxIn inputOn 3).los = false) ∧
    (reach active (R.RXF_GAIN 3) = true ∧ cidxOk active = true ∧ cidxOk (noIndex active) = false) ∧
    ((rxIn active 3).gainWhy = none) ∧ (isSet (cfg active [(F.RXF_CTRL_AGC 3, 0)]) (F.RXF_CTRL_AGC 3) = false ∧ isSet (cfg active [(F.RXF_CTRL_AGC 3, 1)]) (F.RXF_CTRL_AGC 3) = true) ∧
    (reach active (R.RXF_COEF_DATA 3) = true ∧ firBusy active 3 0 = false ∧ firBusy inputOn 3 0 = true ∧ getF active (F.RXF_COEF_IDX_TAP 3) < 384) ∧
    (reach active (R.RXF_FIR_SWAP 3) = true ∧ bit 3 0 = true ∧ bit 2 0 = false) ∧
    (isSet swapReady (F.RXF_STATUS_SWAP_PEND 3) = false ∧ isSet swapReady (F.RXF_STATUS_ROMF 3) = true ∧
      getF swapReady (F.RXF_FIR_CFG_NTAP4 3 1) = 96 ∧ isSet swapReady (F.RXF_FIR_CFG_DEC2 3 1) = isSet swapReady (F.RXF_STATUS_DEC2 3)) := by
  decide +kernel

/-- Input 3 with four clean samples and an output due. -/
def outputDue (v : Int) : State := withInput inputOn { line := List.replicate 4 (v, 0, 0), phase := 4, coef := (List.range 4).map fun a => (a, 0x0_0200#32) }

/-- A blanked run of input 3 at its limit. -/
def longRun : State := cfg (withInput inputOn { run := 9 }) [(F.RXF_BLK_MAXRUN_MAXRUN 3, 9)]

theorem witness_SamplesThroughAnInput :
    (isSet inputOn (F.RXF_CTRL_EN 3) = true ∧ inputOn.rel.hvLost = false ∧ domainOn inputOn 6 = true ∧ domainOn inputOn 17 = true) ∧
    (let s := outputDue 131071
     domainOn s 6 = true ∧ (7 : BitVec 31).toNat < phaseP ∧ isSet s (F.RXF_CTRL_EN 3) = true ∧ decim s 3 ≤ (rxIn s 3).phase ∧
       isSet s (F.RXF_CTRL_INJ_EN 3) = false ∧ isSet s (F.RXF_CTRL_BLANK_EN 3) = false ∧ isSet s (F.TSL_CFG_EN 3) = false ∧
       isSet s (F.RXF_STATUS_SWAP_PEND 3) = false ∧ s.rel.hvLost = false ∧ s.par.acts = [] ∧ (rxIn s 3).settle = 0 ∧ firTaps s 3 = 4 ∧
       ∀ e ∈ (rxIn s 3).line.take (firTaps s 3), e.2.1 = 0 ∧ e.2.2 = (rxIn s 3).gain) ∧
    (isSet active (F.RXF_CTRL_EN 3) = false ∧ isSet active (F.RXF_CTRL_INJ_EN 3) = false) ∧
    (inputOn.streams = [] ∧ inSafeAt inputOn 1 3 = false ∧ inSafeAt { inputOn with par := { acts := [{ block := 1, inst := 3 }] } } 1 3 = true) ∧
    (domainOn (setPg inputOn 17 false) 17 = false ∧ { inputOn.rel with hvLost := true }.hvLost = true) ∧
    (let s := withInput active { seed := 0, seedSum := 511 }; (rxIn s 3).seeded = false ∧ (rxIn s 3).seed = 0) ∧
    (getF longRun (F.RXF_BLK_MAXRUN_MAXRUN 3) ≠ 0 ∧ getF longRun (F.RXF_BLK_MAXRUN_MAXRUN 3) ≤ (rxIn longRun 3).run) ∧
    (reach active (R.TSL_TPL_DATA 3) = true ∧ isSet (cfg active [(F.TSL_CFG_FREEZE 3, 1)]) (F.TSL_CFG_FREEZE 3) = true ∧
      rdN active (R.TSL_TPL_IDX 3) % 2 ^ 15 < 24576 / 2 ^ (rxIn active 3).res) ∧
    (isSet active (F.TSL_CFG_FREEZE 3) = false) ∧ (rxIn active 3).seeded = false ∧ (rxIn active 3).seed ≠ 0 ∧
    (rxIn (withInput active { seeded := true }) 3).seeded = true ∧ (getF active (F.RXF_BLK_MAXRUN_MAXRUN 3) = 0 ∨ (rxIn active 3).run < getF active (F.RXF_BLK_MAXRUN_MAXRUN 3)) ∧
    phaseP ≤ (0x7FFF_FFFF : BitVec 31).toNat ∧ (rxIn inputOn 3).phase < decim inputOn 3 := by decide +kernel

theorem witness_SamplesThroughAnInput_settled :
    Settled (outputDue 131071) ∧ Settled longRun :=
  ⟨settled_of_empty (by decide +kernel) (by decide +kernel), settled_of_empty (by decide +kernel) (by decide +kernel)⟩

/-- A bank-0 entry whose mark and space lie as far apart as M of 24 needs, or are equal, for pair 255; FLIM of 220. -/
def tones (bad : Bool) : State :=
  { cfg active [(F.CMP_TP_CFG_FLIM 0, 220)] with tones := [(255, BitVec.ofNat 32 (2 ^ 31 + 100 * 2 ^ 11 + if bad then 100 else 110))] }

/-- Bank 0 is in use. -/
def toned : State := cfg (tones false) [(F.CMP_TP_STATUS_NONE, 0)]

theorem witness_TonePairsAndLaneWindow :
    (reach active R.CMP_TP_DATA = true ∧ toneBusy active 0 = false ∧ toneBusy toned 0 = true) ∧
    (reach active R.CMP_TP_SWAP = true ∧ bit 1 0 = true) ∧
    (let s := tones false
     isSet s F.CMP_TP_STATUS_SWAP_PEND = false ∧ isSet s F.JIR_STATUS_TLOCK = false ∧ noTones s = true ∧ getF s (F.CMP_TP_CFG_FLIM 0) = 220 ∧
       ∀ p < 256, toneBad 220 (tone s 0 p) = false) ∧
    (toneBad 220 (tone (tones true) 0 255) = true ∧ ∀ q < 255, toneBad 220 (tone (tones true) 0 q) = false) ∧
    (cidxOk active = true ∧ cidxOk (noIndex (tones false)) = false) := by decide +kernel

/-- The lane of the window is static or the scheduler's, in a state, and its pair is 255 on input A. -/
def windowLane (own : Nat) (st : LaneSt) : State :=
  setF { toned with lanes := [(255, { w0 := BitVec.ofNat 32 (own * 2 ^ 30 + 255 * 2 ^ 16 + 1), st := st })] } F.CMP_WIN_IDX_LANE 255

theorem witness_TonePairsAndLaneWindow_window :
    (reach active R.CMP_WIN_IDX = true ∧ reach active (R.CMP_LW 6) = true ∧ reach active (R.CMP_LW 5) = true ∧ ∀ w < 5, reach active (R.CMP_LW w) = true) ∧
    (let s := windowLane 2 .off; let x := lane s (winLane s); winLane s = 255 ∧ x.own = 2 ∧ x.idle = true ∧ startOk s x = true) ∧
    (let s := windowLane 2 .track; let x := lane s (winLane s); x.own ≠ 1 ∧ x.idle = false) ∧
    (let s := windowLane 2 .track; let x := lane s (winLane s); x.own ≠ 1 ∧ x.idle = false) ∧
    (let s := windowLane 1 .track; let x := lane s (winLane s); x.own = 1 ∧ x.idle = false ∧ ownOf 0x8000_0000 ≠ 1) ∧
    (let s := windowLane 1 .off; let x := lane s (winLane s); x.own = 1 ∧ x.idle = true ∧ x.use = none) ∧ bits 0x4000_0000 31 30 = 1 ∧
    (let s := windowLane 2 .off; let x := lane s (winLane s); x.own ≠ 1 ∧ x.idle = true ∧ (x.withWord 0 0x4000_0000).own = 1) := by decide +kernel

theorem witness_TonePairsAndLaneWindow_settled :
    Settled (tones true) ∧ Settled toned ∧ Settled (windowLane 2 .off) ∧ Settled (windowLane 2 .track) ∧ Settled (windowLane 1 .off) :=
  ⟨settled_of_empty (by decide +kernel) (by decide +kernel), settled_of_empty (by decide +kernel) (by decide +kernel),
    settled_of_empty (by decide +kernel) (by decide +kernel), settled_of_empty (by decide +kernel) (by decide +kernel),
    settled_of_empty (by decide +kernel) (by decide +kernel)⟩

/-- Lane 255 as given. -/
def withLane (x : Lane) : State := { active with lanes := [(255, x)] }

/-- A symbol of a lane in SEARCH has ended; its threshold is 0 or 3.0. -/
def searching (thr : Nat) : State :=
  withLane {
    w0 := 0x4000_0001, st := .search, periods := 10, w2 := BitVec.ofNat 32 (0x4800_0000 + thr), nHat := [0x3F80_0000, 0, 0]
    slots := [{ ended := some (0, 0, 0), dumps := List.replicate 16 { mr := if thr = 0 then 100 else 0, valid := 1, all := 1 } }, {}, {}] }

theorem witness_LaneStates :
    (let s := withLane { apply := some (0, 0) }
     (lane s 255).apply ≠ none ∧ (lane s 255).st = .off ∧ inSafeAt s 3 255 = false ∧ isSet s F.CMP_CTRL_EN = true ∧ domainOn s 8 = true ∧
       (lane s 255).rx = none) ∧
    (let x := lane (searching 48) 255
     domainOn (searching 48) 8 = true ∧ x.ended.isSome = true ∧ x.st = .search ∧ x.safe = false ∧ (searchPeriod (searching 48) x).2 = none) ∧
    ((searchPeriod (searching 0) (lane (searching 0) 255)).2.isSome = true) ∧
    (let s := withLane { w0 := 0x4000_0001, st := .track, slots := [{ ended := some (0, 0, 0) }, {}, {}] }
     let x := lane s 255
     x.st = .track ∧ x.ended.isSome = true ∧ isSet (cfg s [(F.LFR_CTRL_EN, 0)]) F.LFR_CTRL_EN = false ∧
       (match x.ended with | some lbl => (judgeSymbol (cfg s [(F.LFR_CTRL_EN, 0)]) x lbl).2.2 | none => true) = false) ∧
    (let s := withLane { w0 := 0x4000_0001, st := .search, safe := true, slots := [{ ended := some (0, 0, 0) }, {}, {}] }
     (lane s 255).st = .search ∧ (lane s 255).safe = true ∧ (lane s 255).ended.isSome = true ∧ domainOn s 8 = true) ∧
    (let s := cfg (withLane { apply := some (0, 0) }) [(F.CMP_CTRL_EN, 0)]
     (lane s 255).apply ≠ none ∧ (lane s 255).st = .off ∧ isSet s F.CMP_CTRL_EN = false) ∧
    (lane active 255).apply = none ∧ (lane active 255).ended = none ∧ (lane active 255).st = .off ∧
    (let x := lane (withLane { st := .search, periods := 7, w3 := 0x0007_0300, w0 := 0x8000_0000 }) 255
     x.st = .search ∧ x.safe = false ∧ x.sw ≠ 0 ∧ x.sw ≤ x.periods ∧ x.own = 2) ∧
    (let s := withLane { st := .search, periods := 7, w3 := 0x0007_0300 }
     let x := lane s 255
     x.st = .search ∧ x.safe = false ∧ x.sw ≠ 0 ∧ x.sw ≤ x.periods ∧ x.use = none) ∧
    (let s := withLane { st := .track, w0 := 0x8000_0000, cfg := 0x0000_00F1, oof := 64 * 255 }
     let x := lane s 255
     x.st = .track ∧ x.cont = true ∧ x.fst ≠ .sync ∧ 64 * max 1 (getF s F.LFR_FRM_CFG_OOF_T) ≤ x.oof) := by decide +kernel

theorem witness_LaneStates_settled : Settled (withLane { apply := some (0, 0) }) ∧ Settled (searching 48) :=
  ⟨settled_of_empty (by decide +kernel) (by decide +kernel), settled_of_empty (by decide +kernel) (by decide +kernel)⟩

/-! ### Witnesses: decoder, frames, sessions, line -/

/-- Decisions without doubt. -/
def decisions (l : List Bool) : List Dec := l.map fun b => { u := if b then 1 else -1, erased := false, k := 0, cidx := 0, ts := 0 }

/-- The 96 bits of a header of mode Plain. -/
def headerBits (h : Nat) : List Dec := decisions (bitsMsb 96 h)

/-- A reception of mode Plain on lane 255 whose header is all in. -/
def receiving (h : Nat) : State := withLane { st := .track, rx := some { hdr := headerBits h } }

/-- A body waits for the decoder: one byte of a frame with this label, encryption and route extension, its CRC-32 right or wrong. -/
def bodyRec (label : Nat) (enc rte good : Bool) : Recep :=
  let body := decisions (bitsMsb 8 0x41 ++ bitsMsb 32 (2175806859 + if good then 0 else 1))
  { lane := 255, rx := { h := some (mkHdr 0x100 0x200 label 1 0 0 5 enc rte false 0), body := body, contrib := true } }

def bodyIn (r : Recep) : State := { active with recs := [r] }

theorem witness_HeaderAndBodyDecode :
    (domainOn active 9 = true ∧ isSet active F.COD_CTRL_EN = true) ∧
    (let h := mkHdr 0x100 0x200 8 1 0 0 5 false false false 0
     let s := receiving h
     s.recs = [] ∧ ∃ f, (lane s 255).rx = some f ∧ f.h = none ∧ f.tried = false ∧ f.full = true ∧ (lane s 255).use = none ∧
       (lane s 255).cont = false ∧ hdrOf f.mode [f] = h ∧ hdrPasses h = true ∧ f.body.length < bodyLen f.mode (Hdr.len h)) ∧
    (let h := mkHdr 0x100 0x200 8 0 0 0 5 false false false 0
     ∃ f, (lane (receiving h) 255).rx = some f ∧ f.full = true ∧ hdrOf f.mode [f] = h ∧ hdrPasses h = true ∧ bodyLen f.mode (Hdr.len h) ≤ f.body.length) ∧
    (let s := receiving 0
     ∃ f, (lane s 255).rx = some f ∧ f.full = true ∧ hdrPasses (hdrOf f.mode [f]) = false) := by
  refine ⟨by decide +kernel, ⟨by decide +kernel, _, rfl, rfl, rfl, by decide +kernel, rfl, by decide +kernel, by decide +kernel,
    by decide +kernel, by decide +kernel⟩, ⟨_, rfl, by decide +kernel⟩, ⟨_, rfl, by decide +kernel, by decide +kernel⟩⟩

/-- What a reception of mode Plain decodes to. -/
def decoded (r : Recep) (h : Nat) : List Byte × List Bool × Bool :=
  decodeBody r.rx.mode (Hdr.len h) (accSum (bodyLen r.rx.mode (Hdr.len h)) [r.rx.body.map (·.u)])

theorem witness_HeaderAndBodyDecode_body (label : Nat) (enc rte good : Bool) :
    let h := mkHdr 0x100 0x200 label 1 0 0 5 enc rte false 0
    let r := bodyRec label enc rte good
    (bodyIn r).recs = [r] ∧ r.lane = 255 ∧ r.use = none ∧ r.rx.h = some h ∧ r.rx.contrib = true :=
  ⟨rfl, rfl, rfl, rfl, rfl⟩

theorem witness_HeaderAndBodyDecode_forms :
    (∀ good enc, let h := mkHdr 0x100 0x200 8 1 0 0 5 enc false false 0
      Hdr.rtx h = false ∧ Hdr.label h ≠ Lbl.filler ∧ Hdr.enc h = enc ∧ (decoded (bodyRec 8 enc false good) h).2.2 = good ∧
        badExt h (decoded (bodyRec 8 enc false good) h).1 = false) ∧
    (let h := mkHdr 0x100 0x200 8 1 0 0 5 true true false 0
     (decoded (bodyRec 8 true true true) h).2.2 = true ∧ badExt h (decoded (bodyRec 8 true true true) h).1 = true) ∧
    (Hdr.label (mkHdr 0x100 0x200 Lbl.filler 1 0 0 5 false false false 0) = Lbl.filler) ∧
    inSafe active 4 = false ∧ inSafe active 5 = false := by decide +kernel

/-- A body of a robust mode, first or sent again, with a session that may retain it, and with what was kept of it before. -/
def robust (rtx : Bool) (kept : List Int) : State :=
  let h := mkHdr 0x100 0x200 8 1 0 0 5 true false rtx 1
  { cfg active [(F.COD_CTRL_RET_EN, 1)] with
    recs := [{ lane := 255, rx := { mode := 1, h := some h, body := [], contrib := true } }]
    sessions := [(0x200, { node := 0x200, fn := 0 })]
    retain := if rtx then [{ node := 0x200, fn := 0, key := retKey h, acc := kept, count := 1, cidx := 0 }] else [] }

/-- Which way a robust body decodes rests on the open choice between equal survivors (log entry 15); these hold either way. -/
theorem witness_HeaderAndBodyDecode_retain :
    (∃ y, sess (robust false []) 0x200 = some y ∧ y.state = 0 ∧ isSet (robust false []) F.COD_CTRL_RET_EN = true ∧ 1 ≠ 0 ∧
      retQuota (robust false []) y.fn ≠ 0) ∧
    (let s := robust true [1, -1]
     let h := mkHdr 0x100 0x200 8 1 0 0 5 true false true 1
     isSet s F.COD_CTRL_RET_EN = true ∧ Hdr.label h ≠ Lbl.filler ∧ Hdr.len h ≠ 0 ∧ Hdr.rtx h = true ∧ (s.retain.find? (sameEntry h)).any (fun e =>
       combinable s e.acc (accSum (bodyLen 1 (Hdr.len h)) [[]]) && decide (e.count + 1 < max 2 (min 8 (getF s F.COD_RET_CFG_RET_MAX)))) = true) :=
  ⟨⟨_, rfl, by decide +kernel⟩, by decide +kernel⟩

/-- The device's address is 0x100, and node 0x200 has a key of 16 zero bytes. -/
def nodeKey : Key := { type := 1, use := 0, tlen := 0, material := List.replicate 16 0 }

def secured : State :=
  { cfg active [(F.VET_ROOT_ADDR, 0x100), (F.SEC_CTRL_EN, 1)] with sec := { keys := [(nodeRef 0x200, nodeKey)], storeOk := true } }

/-- An encrypted frame without plaintext from 0x200 to 0x100, SEQ as given, its tag that of counter 5 or another. -/
def sealedFrame (seq : Nat) (good : Bool) : DecFrame :=
  let h := mkHdr 0x100 0x200 8 4 0 0 seq true false false 0
  { h := h, payload := if seq = 6 then [] else [if good then 243 else 0, 210, 24, 50], outcome := 0, lane := 255, mode := 0, ts := 0, cidx := 0, k := 0 }

def sealed (seq : Nat) (good : Bool) : State :=
  { secured with frames := [(3, sealedFrame seq good)] }

theorem witness_FramesAreCheckedBeforeDelivery :
    (let s := setF (sealed 5 true) F.VET_ROOT_ADDR 7
     let f := sealedFrame 5 true
     fget s.frames 3 = some f ∧ f.ctr = none ∧ f.job = none ∧ (∀ e ∈ s.frames, e.1 < 3 → frameKey s e.2 ≠ frameKey s f) ∧ flooded s f.h = false ∧
       engineOn s = true ∧ Hdr.dst f.h ≠ 0x3FFFF ∧ Hdr.dst f.h ≠ rootAddr s) ∧
    (let s := cfg (sealed 5 true) [(F.SEC_CTRL_EN, 0)]
     let f := sealedFrame 5 true
     fget s.frames 3 = some f ∧ flooded s f.h = false ∧ Hdr.dst f.h = rootAddr s ∧ engineOn s = false) := by decide +kernel

/-- A flooded frame that has been seen. -/
def seenTwice : State :=
  let f := { sealedFrame 5 true with h := mkHdr 0x3FFFF 0x200 8 4 1 3 5 true false false 0 }
  { (floodGate { secured with frames := [(3, f)] } f).2 with frames := [(3, f)] }

theorem witness_FramesAreCheckedBeforeDelivery_flood :
    (match fget seenTwice.frames 3 with | some f => (floodGate seenTwice f).1 && f.ctr.isNone && f.job.isNone | none => false) = true ∧
    (let s := sealed 6 true
     let f := sealedFrame 6 true
     flooded s f.h = false ∧ f.payload.length - extLen f.h f.payload < tagBytes nodeKey.tlen) := by decide +kernel

theorem witness_FramesAreCheckedBeforeDelivery_keyed :
    engineOn (sealed 5 true) = true ∧ keyBar (sealed 5 true) (nodeRef 0x200) Use.payload = none ∧
    counterOf (rxCtr (sealed 5 true) 0x200).h 5 = some 5 ∧ (rxCtr (sealed 5 true) 0x200).fresh 5 = true ∧
    counterOf (rxCtr (sealed 4000 true) 0x200).h 4000 = none := by decide +kernel

theorem witness_FramesAreCheckedBeforeDelivery_tag :
    ∀ good, fget (sealed 5 good).frames 3 = some (sealedFrame 5 good) ∧ key (sealed 5 good) (nodeRef (sealedFrame 5 good).src) = some nodeKey ∧
      tagBytes nodeKey.tlen ≤ (sealedFrame 5 good).payload.length - extLen (sealedFrame 5 good).h (sealedFrame 5 good).payload ∧
      (openFrame (sealedFrame 5 good) nodeKey false 5).2 = good := by decide +kernel

/-- A ring command of function 0 in the first ring, with opcode and resource. -/
def command (uid op res : Nat) (st : CmdSt) : Cmd :=
  { uid := uid, fn := 0, sq := 0, cq := 0, desc := BitVec.ofNat 8 op :: [0, 0, 0] ++ toLE 4 res ++ List.replicate 24 0, st := st }

/-- A job of command 1 with one copy on phase A. -/
def oneCopy (st : CopySt) : Job := { id := 9, kind := .command 1, fn := 0, node := 0x300, copies := [{ ch := { pair := 0, ph := 0 }, t0 := 0, t1 := 0, st := st }] }

/-- A frame of command 1 is planned or on the air. -/
def onLine (st : CopySt) : State :=
  { cfg opened [(F.TXS_CTRL_EN, 1)] with jobs := [oneCopy st], cmds := [command 1 0x10 0x300 .onLine], tx := [(0, { onSince := if st = .onAir then some 0 else none })] }

theorem witness_FramesAreCheckedBeforeDelivery_mark :
    (let s := { active with nvs := { active.nvs with waits := [(7, { job := none, frame := none, outcome := some true })] } }
     ∃ w, fget s.nvs.waits 7 = some w ∧ w.frame = none ∧ w.outcome = some true) ∧
    (let s := { onLine .planned with nvs := { active.nvs with waits := [(7, { job := some 9, tx := some (0x80000300, 5), cmd := some 1, frame := none, outcome := some false })] } }
     let j := oneCopy .planned
     ∃ w c, fget s.nvs.waits 7 = some w ∧ w.frame = none ∧ w.outcome = some false ∧ w.tx = some (0x80000300, 5) ∧ w.job = some j.id ∧ w.cmd = some 1 ∧
       j ∈ s.jobs ∧ (∀ i ∈ s.jobs, i.id = j.id ∨ i.kind = .command 1 → i = j) ∧ j.ended = false ∧ j.begun = false ∧
       j.kind = .command 1 ∧ findCmd s 1 = some c) := by
  refine ⟨⟨_, rfl, rfl, rfl⟩, ⟨_, _, rfl, rfl, rfl, rfl, rfl, rfl, by decide +kernel, by decide +kernel, rfl, rfl, rfl, rfl⟩⟩

/-- A frame that authenticated waits for its mark, under the node's counter or that of broadcast source `b`. -/
def marked (ok : Bool) (b : Option Nat := none) : State :=
  let s := { sealed 5 true with frames := [(3, { sealedFrame 5 true with ctr := some 5, brx := b })] }
  { s with nvs := { s.nvs with waits := [(7, { job := none, frame := some 3, outcome := some ok })] } }

theorem witness_FramesAreCheckedBeforeDelivery_held : ∀ ok, ∀ b ∈ [none, some 7],
    (∃ w f, fget (marked ok b).nvs.waits 7 = some w ∧ w.job = none ∧ w.tx = none ∧ w.frame = some 3 ∧ w.outcome = some ok ∧ fget (marked ok b).frames 3 = some f ∧
      f.ctr = some 5 ∧ f.brx = b) := by
  intro ok b _
  cases ok <;> exact ⟨_, _, rfl, rfl, rfl, rfl, rfl, rfl, rfl, rfl⟩

/-- One session with node 0x300, at 100 s. -/
def inSession (x : Session) : State := { active with sessions := [(0x300, x)], mains := { active.mains with tb := 100000000000 } }

theorem witness_NodeAndModeTimeouts_settled :
    Settled (inSession { node := 0x300, fn := 0, supvT := 10 }) ∧ Settled (inSession { node := 0x300, fn := 0, supvT := 1001, state := 2 }) :=
  ⟨settled_of_check (by decide +kernel), settled_of_check (by decide +kernel)⟩

theorem witness_NodeAndModeTimeouts :
    (∃ x, sess (inSession { node := 0x300, fn := 0, pend := some (1, 8) }) 0x300 = some x ∧ x.node = 0x300 ∧ x.pend = some (1, 8) ∧ 8 ≤ 8) ∧
    (let s := inSession { node := 0x300, fn := 0, supvT := 10, modeSet := 7 }
     ∃ x, sess s 0x300 = some x ∧ x.fallback = false ∧ x.tAuth + x.supvT * 10 ^ 8 / 2 < tbNow s ∧ s.pwr.watchdog = false ∧ robustest x = some 1) ∧
    (let s := inSession { node := 0x300, fn := 0, supvT := 10 }
     ∃ x, sess s 0x300 = some x ∧ x.supv = false ∧ x.state ≠ 1 ∧ domainOn s 9 = true ∧ x.tAuth + x.supvT * 10 ^ 8 ≤ tbNow s ∧ s.jobs = []) ∧
    (let s := inSession { node := 0x300, fn := 0, supvT := 1001, state := 2 }
     ∃ x, sess s 0x300 = some x ∧ x.state ≠ 1 ∧ tbNow s < x.tAuth + x.supvT * 10 ^ 8) ∧
    (let s := { inSession { node := 0x300, fn := 0, supvT := 10, state := 2 } with cmds := [command 1 0x10 0x300 .waiting] }
     ∃ x, sess s 0x300 = some x ∧ x.state = 2 ∧ x.supv = false ∧ x.tAuth + x.supvT * 10 ^ 8 ≤ tbNow s ∧ liveJobs s 0x300 = [] ∧ nodeCmds s 0x300 ≠ [] ∧
       ∀ c ∈ nodeCmds s 0x300, (cmdJobs s c.uid).any (fun j => j.begun && j.live) = false ∧ c.route = []) := by
  refine ⟨⟨_, rfl, rfl, rfl, by omega⟩, ⟨_, rfl, by decide +kernel⟩, ⟨_, rfl, by decide +kernel⟩, ⟨_, rfl, by decide +kernel⟩, ⟨_, rfl, by decide +kernel⟩⟩

/-- A routed exchange whose reply has not come, in a session of node 0x300 with one repeat, `n` attempts made. -/
def unanswered (n : Nat) : State :=
  { onLine .done with
    jobs := [{ oneCopy .done with ended := true, deadline := some 0 }], cmds := [{ command 1 0x10 0x300 .onLine with attempts := n }]
    sessions := [(0x300, { node := 0x300, fn := 0, retry := 1 })], tx := [] }

theorem witness_NodeAndModeTimeouts_routed :
    Settled (unanswered 1) ∧ ∃ c j, findCmd (unanswered 1) 1 = some c ∧ c.st = .onLine ∧
      (cmdJobs (unanswered 1) 1).find? (fun j => j.ended && (j.deadline.any fun d => !ahead d (cidxNow (unanswered 1)))) = some j ∧
      c.attempts < 1 + retryOf (unanswered 1) (carrier c) ∧ pwrState (unanswered 1) = 4 ∧ (unanswered 1).pwr.leaving = false ∧
      ∃ c2, findCmd (unanswered 2) 1 = some c2 ∧ retryOf (unanswered 2) (carrier c2) < c2.attempts :=
  ⟨settled_of_check (by decide +kernel), command 1 0x10 0x300 .onLine |> fun c => { c with attempts := 1 }, { oneCopy .done with ended := true, deadline := some 0 },
    by decide +kernel, rfl, by decide +kernel, by decide +kernel, by decide +kernel, by decide +kernel,
    { command 1 0x10 0x300 .onLine with attempts := 2 }, by decide +kernel, by decide +kernel⟩

theorem witness_FramesOnTheLine :
    (findJob (onLine .planned) 9 = some (oneCopy .planned) ∧ (∀ i ∈ (onLine .planned).jobs, i.id = 9 → i = oneCopy .planned) ∧
      (oneCopy .planned).ended = false ∧ slotAhead (onLine .planned) 0 (slotNow (onLine .planned)) = false ∧
      (onLine .planned).mains.voidNow = false ∧ phaseMuted (onLine .planned) 0 = false ∧
      (findJob (makeFrames (onLine .planned) (oneCopy .planned)) 9).isSome = true) ∧
    (let s := { onLine .planned with mains := { active.mains with voidNow := true } }
     s.mains.voidNow = true ∧ (findCmd s 1).isSome = true ∧ sess s 0x300 = none) ∧
    (let s := onLine .planned
     unsensed s (oneCopy .planned) = false ∧ makeBar s (oneCopy .planned) = none ∧ 0 ∉ (oneCopy .planned).sensed) ∧
    (let s := { onLine .planned with tx := [(0, { oc := true })] }
     phaseMuted s 0 = true ∧ txfMuted s 0 = true ∧ s.mains.voidNow = false ∧ (findCmd s 1).isSome = true) ∧
    (findJob active 9 = none) ∧ (findJob (onLine .onAir) 9 = some (oneCopy .onAir)) := by decide +kernel

theorem witness_FramesOnTheLine_more :
    Settled (onLine .planned) ∧ Settled (onLine .onAir) ∧ (∀ uid p, (oneCopy .planned).kind ≠ .player uid p) ∧
    (let c : Copy := { ch := { pair := 0, ph := 0 }, t0 := 0, t1 := 0, st := .planned }
     copyBusy (onLine .planned) (oneCopy .planned) c = false) :=
  ⟨settled_of_check (by decide +kernel), settled_of_check (by decide +kernel), (fun _ _ h => nomatch h), by decide +kernel⟩

/-- A robust frame of two copies, on phases A and B; B may be muted. -/
def twoCopies (muted : Bool) : State :=
  let j := { oneCopy .planned with copies := [{ ch := { pair := 0, ph := 0 }, t0 := 0, t1 := 0 }, { ch := { pair := 0, ph := 1 }, t0 := 0, t1 := 0 }] }
  { onLine .planned with jobs := [j], tx := if muted then [(1, { oc := true })] else [] }

theorem witness_FramesOnTheLine_robust :
    (∀ muted, Settled (twoCopies muted) ∧ ∃ j d, findJob (twoCopies muted) 9 = some j ∧ findCmd (twoCopies muted) 1 = some d ∧
      (∀ i ∈ (twoCopies muted).jobs, i.id = 9 → i = j) ∧
      j.ended = false ∧ j.kind = .command 1 ∧ 1 < j.copies.length ∧ (∀ c ∈ j.copies, c.st = .planned ∧ c.ch.ph < 3) ∧
      slotAhead (twoCopies muted) j.slot (slotNow (twoCopies muted)) = false ∧ unsensed (twoCopies muted) j = false ∧
      (twoCopies muted).mains.voidNow = false ∧ makeBar (twoCopies muted) j = none ∧
      j.copies.length ≤ 2 * (j.copies.filter fun c => !phaseMuted (twoCopies muted) c.ch.ph).length) ∧
    (let s := { twoCopies false with tx := [(0, { oc := true }), (1, { oc := true })] }
     ∃ j, findJob s 9 = some j ∧ unsensed s j = false ∧ 2 * (j.copies.filter fun c => !phaseMuted s c.ch.ph).length < j.copies.length ∧
       ∃ c ∈ j.copies, phaseMuted s c.ch.ph = true ∧ txfMuted s c.ch.ph = true) := by
  refine ⟨fun muted => ?_, ⟨_, rfl, by decide +kernel, by decide +kernel, ⟨_, .head _, by decide +kernel⟩⟩⟩
  cases muted <;> exact ⟨settled_of_check (by decide +kernel), _, _, rfl, rfl, by decide +kernel⟩

/-- Band 0 holds every tone, and carrier sense finds it busy from level 0. -/
def bandBusy : State := cfg (onLine .planned) [(F.MAC_BAND_RANGE_EN 0, 1), (F.MAC_BAND_RANGE_HI 0, 2000), (F.MAC_BAND_CS_EN 0, 1)]

theorem witness_FramesOnTheLine_busy : 0 ∉ (oneCopy .planned).sensed ∧
    copyBusy bandBusy (oneCopy .planned) { ch := { pair := 0, ph := 0 }, t0 := 0, t1 := 0, st := .planned } = true := by decide +kernel

/-- The same of a beacon, whose copy on phase B is planned too: the first copy is left out and the second goes on (R273). -/
def busyBeacon : State :=
  let j := { oneCopy .planned with kind := .beacon, copies := [{ ch := { pair := 0, ph := 0 }, t0 := 0, t1 := 0 }, { ch := { pair := 0, ph := 1 }, t0 := 0, t1 := 0 }] }
  { bandBusy with jobs := [j], cmds := [] }

theorem witness_FramesOnTheLine_each :
    Settled busyBeacon ∧ ∃ j c, findJob busyBeacon 9 = some j ∧ (∀ i ∈ busyBeacon.jobs, i.id = 9 → i = j) ∧ j.ended = false ∧ j.begun = false ∧
      j.copies[0]? = some c ∧ nextCopies j c = true ∧ 0 ∉ j.sensed ∧ copyBusy busyBeacon j c = true ∧ j.each = true ∧
      ∃ d ∈ j.copies, d.st = .planned ∧ d ≠ c :=
  ⟨settled_of_check (by decide +kernel), _, _, rfl, by decide +kernel, rfl, rfl, rfl, by decide +kernel, by decide +kernel, by decide +kernel, by decide +kernel,
    by decide +kernel⟩

theorem test_copies_beyond_the_job_need_no_check : 1 ≤ 1 ∧ (oneCopy .planned).copies.length ≤ 1 := by decide +kernel

/-! ### Witnesses: transmitter, performance data, Sorrel, Vetch -/

/-- Phase C as given. -/
def withPhase (x : TxPh) : State := { active with tx := [(2, x)], mains := { active.mains with elapsed := 10 ^ 15 } }

theorem witness_LevelsAndImpedance :
    (reach active (R.TXS_LVL_MAX 2) = true ∧ reach active (R.TXS_LVL 2) = true ∧ reach active R.TXS_Z_IDX = true) ∧
    (domainOn active 20 = true ∧ fget (txPh active 2).z 511 = none) ∧
    (fget (txPh (withPhase { z := [(511, (1, 0, 7))] }) 2).z 511 = some (1, 0, 7)) ∧
    ((txPh (withPhase { attPend := some 8 }) 2).attPend = some 8) ∧
    ((txPh active 2).cut6 = false ∧ 50 * max 10 (min 40 (getF active (F.TXS_ILIM_ILIM 2))) < 2001) := by decide +kernel

/-- A 0 and a 1 of 1 µs, for one sample at 1.024 MS/s each, have been sent on pair 255 of phase C. -/
def symbolsSent : State :=
  let g : Signal := { t0 := 0, starts := [0, 1000, 2000], cyc := 24000, m := 24, bits := [false, true], mark := 100, space := 90 }
  { withPhase { z := [(511, (1, 0, 7))] } with
    jobs := [{ oneCopy .done with ended := true, copies := [{ ch := { pair := 255, ph := 2 }, t0 := 0, t1 := 2000, st := .done, sig := some g }] }] }

theorem witness_LevelsAndImpedance_tones :
    Settled symbolsSent ∧ symbolTone symbolsSent 9 ⟨255, 2⟩ true 0 1 = some 90 ∧ symbolTone symbolsSent 9 ⟨255, 2⟩ false 1 1 = some 100 ∧
    symbolTone symbolsSent 9 ⟨255, 2⟩ true 1 1 = none ∧ symbolTone symbolsSent 9 ⟨255, 2⟩ true 2 1 = none ∧
    (let i := correlate (90 * 2 ^ 20) [5000] 0
     domainOn symbolsSent 20 = true ∧ [0].length = [(5000 : Int)].length ∧ 25000000 * ((1 * 131071) ^ 2 : Nat) ≤ 2 * (i.1 * i.1 + i.2 * i.2)) :=
  ⟨settled_of_check (by decide +kernel), by decide +kernel, by decide +kernel, by decide +kernel, by decide +kernel, by decide +kernel⟩

theorem witness_LevelsAndImpedance_settled : Settled (withPhase { z := [(511, (1, 0, 7))] }) := settled_of_check (by decide +kernel)

/-- Phase C failed by a lasting overcurrent at time 0, or by power good. -/
def failedPhase (oc pg : Bool) : State := withPhase { oc := oc, pg := pg, ocAt := if oc then some 0 else none }

theorem witness_DriverProtection_halt : State.reset.pins.inReset = true ∧ Settled State.reset ∧ active.pins.inReset = false :=
  ⟨rfl, settled_of_empty rfl rfl, by decide +kernel⟩

theorem witness_DriverProtection :
    (560 ≤ (560 : BitVec 16).toInt) ∧
    (let s := withPhase { therm := true }; (txPh s 2).therm = true ∧ (0 : BitVec 16).toInt < twQuarter s) ∧
    ((txPh (failedPhase true false) 2).oc = true ∧ (txPh (failedPhase true false) 2).ocAt = some 0 ∧
      0 + retryNs (failedPhase true false) ≤ (failedPhase true false).mains.elapsed ∧ 0 < getF (cfg (failedPhase true false) [(F.TXS_TXF_RETRY_LEFT 2, 1)]) (F.TXS_TXF_RETRY_LEFT 2) ∧
      cidxOk (failedPhase true false) = true ∧ cidxNow (failedPhase true false) % 256 = 0) ∧
    (let s := withPhase { txTime := 3600 * 10 ^ 9 }; (txPh s 2).oc = false ∧ 3600 * 10 ^ 9 ≤ (txPh (txAccount s 2) 2).txTime) ∧
    (reach active (R.TXS_TXF 2) = true ∧ bit 0 8 = false ∧ bit 256 8 = true ∧ (txPh (failedPhase false true) 2).pg = true) ∧
    (let s := withPhase { therm := true }; (txPh s 2).oc = false ∧ (txPh s 2).pg = false ∧ txf s 2 = true) := by decide +kernel

theorem witness_DriverProtection_settled : Settled (withPhase { therm := true }) ∧ Settled (failedPhase true false) :=
  ⟨settled_of_check (by decide +kernel), settled_of_check (by decide +kernel)⟩

/-- Performance data is on, and lane 255 has been active in this second. -/
def counting (on : Nat) : State :=
  let s := cfg (withLane { secActive := true }) [(F.LFR_CTRL_PM_EN, on)]
  { s with pm := [(255, { q := { id := quarterId s }, d := { id := dayId s }, qh := [{ id := 1 }], dh := [{ id := 1 }] })] }

theorem witness_PerformanceAndFramingSettings :
    ((counting 1).rtc.running = true ∧ pmOn (counting 1) = true ∧ pmOn (counting 0) = false ∧ (counting 1).sessions = []) ∧
    (match fget (counting 1).pm 255, exec .pmSecond (counting 1) with | some p, .next t => p.q.id == quarterId t | _, _ => false) = true ∧
    (reach active (R.LFR_LBL 63) = true ∧ Lbl.fixed 0 = true ∧ Lbl.fixed 63 = false) ∧
    (reach active R.LFR_LANE_CFG = true ∧ (lane (withLane { w0 := 0x8000_0000 }) 255).own = 2 ∧ (lane (withLane { w0 := 0x8000_0000 }) 255).idle = true ∧
      (lane (withLane { st := .track }) 255).idle = false) := by decide +kernel

/-- Two ended bins of a kind: the older ended 10 s ago, the newer at this instant. -/
def endedBins : State :=
  let b := { id := 1, endAt := 10 ^ 15 : Bin }
  { withPhase {} with pm := [(255, { q := { id := 3 }, d := { id := 1 }, qh := [b, { b with endAt := 10 ^ 15 - 10 ^ 10 }], dh := [b] })] }

theorem witness_PerformanceAndFramingSettings_final :
    Settled endedBins ∧ (fget endedBins.pm 255).map (fun p => p.qh.map fun b => !b.final && decide (b.endAt + 10 ^ 10 ≤ endedBins.mains.elapsed)) =
      some [false, true] := ⟨settled_of_check (by decide +kernel), by decide +kernel⟩

theorem witness_PerformanceAndFramingSettings_settled : Settled (counting 1) := settled_of_check (by decide +kernel)

/-- Sorrel runs at a slot boundary, with the address 0x100. -/
def planning : State := cfg active [(F.MAC_CTRL_EN, 1), (F.VET_ROOT_ADDR, 0x100), (F.MAC_BCN_CFG_EN, 0)]

theorem witness_SlotPlansAndDeadlines_watchdog :
    (let s := { planning with pwr := { planning.pwr with watchdog := true }, cmds := [command 1 0x10 0x300 .waiting] }
     s.pwr.watchdog = true ∧ isSet s F.MAC_CTRL_EN = true ∧ cidxOk s = true ∧ inSafe s 7 = false ∧ Settled s) ∧
    rootSet (cfg planning [(F.VET_ROOT_ADDR, 0x3FFFF)]) = false :=
  ⟨⟨rfl, by decide +kernel, by decide +kernel, by decide +kernel, settled_of_check (by decide +kernel)⟩, by decide +kernel⟩

/-- Command 1 waits for the line with this deadline. -/
def waitingCmd (deadline : Nat) : State := { active with cmds := [{ command 1 0x10 0x300 .waiting with deadline := deadline }] }

/-- Agreement 5 is in force. -/
def agreed : State := { active with quiets := [(5, { state := 2, group := 1, c := 256, dur := 64, win := 0 })] }

theorem witness_SlotPlansAndDeadlines :
    (cidxOk planning = true ∧ cidxNow planning % slotC planning = 0 ∧ isSet planning F.MAC_CTRL_EN = true ∧ domainOn planning 9 = true ∧
      inSafe planning 7 = false ∧ planning.pwr.watchdog = false ∧ rootSet planning = true ∧ planning.sor.committed ≠ some 1 ∧ planning.cmds = [] ∧
      planning.sessions = [] ∧ planning.mesh.floods = [] ∧ isSet planning F.MAC_BCN_CFG_EN = false) ∧
    (({ planning with sor := { planning.sor with committed := some 1 } }).sor.committed = some ((slotNow planning + 1) % slotCount planning)) ∧
    (contPer (cfg planning [(F.MAC_CONT_CFG_OFF, 1)]) 1 = none) ∧
    (ahead 1 (cidxNow (waitingCmd 1)) = true ∧ ahead 0 (cidxNow (waitingCmd 0)) = false ∧
      (findCmd (waitingCmd 0) 1).any (fun c => c.st == .waiting && c.attempts == 0) = true) ∧
    (reach active R.MAC_SLOT_CFG = true ∧ isSet planning F.MAC_CTRL_EN = true ∧ (1 % 4 ≠ getF planning F.MAC_SLOT_CFG_SLOT_C ∨ 2 % 4 ≠ getF planning F.MAC_SLOT_CFG_SLOT_C)) ∧
    (reach agreed R.MAC_QA_IDX = true ∧ (quiet agreed 5).any (fun q => q.state == 2) = true ∧ quiet agreed 0 = none) := by decide +kernel

theorem witness_SlotPlansAndDeadlines_settled : Settled planning ∧ Settled (waitingCmd 0) ∧ Settled agreed :=
  ⟨settled_of_check (by decide +kernel), settled_of_check (by decide +kernel), settled_of_check (by decide +kernel)⟩

/-- Nodes 0x300, in session, and 0x400 are linked with the head-end and each other; both have a record. -/
def linked (method : Bool) : State :=
  let l : Link := { frames := [(30 * 65536, 0, 100, false)] }
  let m : Mesh := { links := [(linkKey 0x100 0x300, l), (linkKey 0x300 0x100, l), (linkKey 0x300 0x400, l), (linkKey 0x400 0x300, l)],
                    stash := [{ addr := 0x300, rly := true }, { addr := 0x400 }], dirty := true, method := method }
  { cfg active [(F.VET_ROOT_ADDR, 0x100)] with sessions := [(0x300, { node := 0x300, fn := 0 })], mesh := m }

theorem witness_RoutesAndDirectoryAges :
    ((linked true).mesh.dirty = true ∧ domainOn (linked true) 9 = true ∧ (linked true).pwr.watchdog = false ∧ (linked true).mesh.method = true) ∧
    ((linked false).mesh.method = false ∧ dirAll (linked false) = [{ addr := 0x300, rly := true }] ++ [{ addr := 0x400 }] ∧
      Machine.active (linked false) 0x300 = true ∧ Machine.active (linked false) 0x400 = false ∧ fget (linked false).mesh.routes 0x400 = none ∧
      ((fget ((labels (linked false)).getD (hopLimit (linked false) { addr := 0x400 } - 1) []) 0x400).map (·.2)) = some [0x300, 0x400]) ∧
    (reach active R.VET_ROOT = true ∧ isSet planning F.MAC_CTRL_EN = true ∧ isSet (cfg active [(F.MAC_CTRL_EN, 0)]) F.MAC_CTRL_EN = false) := by decide +kernel

/-- One record: of node 0x400, whose route through 0x300 is pinned, or of node 0x300, which has a session; both have a route. -/
def pinnedRoute (r : DirRec) : State :=
  let s := linked false
  { s with mesh := { s.mesh with stash := [r], routes := [(0x300, { relays := [], cost := 9 }), (0x400, { relays := [0x300], cost := 9 })] } }

theorem witness_RoutesAndDirectoryAges_pinned :
    (∀ r ∈ [{ addr := 0x400, pin := true, relays := [0x300] }, ({ addr := 0x300 } : DirRec)],
      dirAll (pinnedRoute r) = [] ++ [r] ∧ (pinnedRoute r).mesh.dirty = true ∧ (fget (pinnedRoute r).mesh.routes r.addr).isSome = true) ∧
    Machine.active (pinnedRoute { addr := 0x300 }) 0x300 = true ∧ Settled (pinnedRoute { addr := 0x300 }) :=
  ⟨by decide +kernel, by decide +kernel, settled_of_check (by decide +kernel)⟩

/-- The link from 0x300 to 0x400 is marked failed until an epoch, or was measured in one. -/
def agedLink (failed : Option Nat) (epoch : Nat) : State :=
  { active with mesh := { active.mesh with links := [(linkKey 0x300 0x400, { failed := failed, epoch := epoch })] } }

theorem witness_RoutesAndDirectoryAges_links :
    (let s := agedLink (some 0) 0
     linkKey 0x300 0x400 = linkKey 0x300 0x400 ∧ (fget s.mesh.links (linkKey 0x300 0x400)).any (fun x => x.failed.any fun e => Nat.blt (epochAge s e) (2 ^ 23)) = true) ∧
    (let s := agedLink none (2 ^ 24 - ageMax active)
     (link s 0x300 0x400).any (fun x => ageMax s ≤ epochAge s x.epoch) = true) ∧
    (let s := agedLink none 0; (link s 0x300 0x400).any (fun x => epochAge s x.epoch < ageMax s) = true) := by decide +kernel

/-- Node 0x400 has a record at its first home, learned in an epoch. -/
def learnedNode (learned : Bool) (epoch : Nat) : State :=
  { active with mesh := { active.mesh with tables := [((homes active 0x400).headD 0, { addr := 0x400, learned := learned, epoch := epoch })] } }

theorem witness_RoutesAndDirectoryAges_records :
    (let s := learnedNode true (2 ^ 24 - ageMax active)
     (dirFind s 0x400).any (fun r => r.learned && ageMax s ≤ epochAge s r.epoch) = true ∧ dirPlace s 0x400 = some ((homes active 0x400).headD 0) ∧
       s.mesh.stash = [] ∧ sess s 0x400 = none ∧ s.mesh.routes = [] ∧ ∀ d ∈ dirAll s, d.pin = false) ∧
    ((dirFind (learnedNode false 0) 0x400).any (fun r => !r.learned) = true) := by decide +kernel

theorem witness_RoutesAndDirectoryAges_settled :
    Settled (linked false) ∧ Settled (agedLink none 0) ∧ Settled (learnedNode true 0) :=
  ⟨settled_of_check (by decide +kernel), settled_of_check (by decide +kernel), settled_of_check (by decide +kernel)⟩

/-- States in which nothing is due. -/
theorem witness_nothing_due :
    sess active 0x300 = none ∧ findCmd active 1 = none ∧ isSet (cfg active [(F.MAC_CTRL_EN, 0)]) F.MAC_CTRL_EN = false ∧ active.mesh.dirty = false ∧
      (findCmd (unanswered 1) 1).any (fun c => c.st != .waiting) = true ∧
      (let s := { unanswered 1 with jobs := [{ oneCopy .done with ended := true, deadline := some 5 }] }
       (findCmd s 1).any (fun c => c.st == .onLine) = true ∧ ∀ j ∈ cmdJobs s 1, ∀ d ∈ j.deadline, ahead d (cidxNow s) = true) := by decide +kernel

/-! ### Witnesses: capture, players, rings -/

/-- Yarrow with its memory up and 8 MiB of capture and 1 MiB of pattern region, both engines enabled. -/
def yarrow : State := cfg opened [(F.TXS_CTRL_EN, 1), (F.YAR_REGION_CAP, 8), (F.YAR_REGION_PAT, 1), (F.YAR_STATUS_REGION_OK, 1), (F.YAR_CTRL_CAP_EN, 1), (F.YAR_CTRL_PLAY_EN, 1)]

/-- A capture program of one input's samples with this MODE, buffer size and START source; its command names 7 for a SOFTWARE trigger. -/
def program (mode size src : Nat) : List Byte :=
  [1, 1] ++ List.replicate 14 0 ++ [BitVec.ofNat 8 mode, 0, 0, 0] ++ toLE 4 0 ++ toLE 4 0 ++ toLE 4 size ++ [BitVec.ofNat 8 src, 0, 0, 0, if src = 8 then 7 else 0] ++
    List.replicate 11 0 ++ List.replicate 16 0

/-- Stream 3 as given. -/
def streaming (x : Stream) : State := { yarrow with streams := [(3, x)] }

/-- The same at the frame tap. -/
def frameProgram : List Byte := 5 :: (program 0 1 1).drop 1

/-- Item 0 of a stream. -/
def oneItem : Item := { time := 5, vals := [77] }

/-- A stream of this mode and buffer size with an open chunk of one item. -/
def chunked (mode size : Nat) : Stream := { st := .capturing, uid := 2, prog := program mode size 1, chunk := [oneItem] }

theorem witness_CaptureStreams :
    (reach yarrow R.YAR_REGION = true ∧ (∀ e ∈ yarrow.streams, e.2.st = .idle) ∧ (∀ e ∈ yarrow.players, e.2.st = .idle) ∧
      (264 % 128 ≤ 96 ∧ 264 / 2 ^ 8 % 128 ≤ 32 ∧ 264 % 128 + 264 / 2 ^ 8 % 128 ≤ 112) ∧ ¬ 127 % 128 ≤ 96) ∧
    (stream yarrow 3).st = .idle ∧
    (let x := stream (streaming { st := .armed, prog := program 0 1 1 }) 3
     x.startEv = none ∧ x.stopEv = none ∧ x.stopIt = none ∧ x.cidx0 = none ∧ x.cidx1 = none ∧ x.st = .armed ∧ x.startIt = none) ∧
    (let x := stream (streaming { st := .capturing, prog := program 0 1 1, startIt := some 0 }) 3
     x.startEv = none ∧ x.stopEv = none ∧ x.stopIt = none ∧ x.cidx0 = none ∧ x.cidx1 = none ∧ x.st = .capturing ∧ x.startIt = some 0 ∧ x.items = [] ∧
       Prog.lag x.prog = 0 ∧ x.segFrom ≤ x.first ∧ chunkWords x.prog (x.chunk ++ [oneItem]) ≤ 2046) ∧
    (∀ e ∈ (streaming (chunked 0 1)).streams, e.2.exports = []) ∧
    (let s := streaming { st := .armed, prog := program 0 1 1 }
     sampleTap (Prog.tap (stream s 3).prog) = true ∧ (stream s 3).feed = [] ∧ ∀ q ∈ Prog.inputs (stream s 3).prog, tapOn s 1 q = false) ∧
    (let x := stream (streaming { st := .armed, prog := program 0 1 1, feed := [oneItem] }) 3
     sampleTap (Prog.tap x.prog) = true ∧ x.feed = [oneItem]) ∧
    (∀ st ∈ [StreamSt.armed, StreamSt.capturing], let x := stream (streaming { st := st, prog := frameProgram, feed := [oneItem] }) 3
     sampleTap (Prog.tap x.prog) = false ∧ x.feed = [oneItem] ∧ x.startEv = none ∧ x.stopEv = none ∧ x.stopIt = none ∧ x.st = st) ∧
    (let x := stream (streaming { st := .armed, prog := frameProgram }) 3
     sampleTap (Prog.tap x.prog) = false ∧ x.feed = []) ∧
    ((stream yarrow 3).gap = 0 ∧ (stream yarrow 3).chunk = []) ∧
    (∀ e ∈ [(0, 1, true), (0, 0, false), (2, 0, false)], ∀ early < 2,
      let s := { streaming (chunked e.1 e.2.1) with mains := { yarrow.mains with elapsed := 10 ^ 7 - early } }
      (stream s 3).gap = 0 ∧ (stream s 3).owed = [] ∧ (stream s 3).chunk ≠ [] ∧ Prog.mode (stream s 3).prog = e.1 ∧ (stream s 3).st ≠ .idle ∧
        chunkRoom s (stream s 3) = e.2.2 ∧ (s.mains.elapsed < (stream s 3).chunkAt + 1000 * Prog.chunkT (stream s 3).prog ↔ early = 1)) ∧
    (reach yarrow R.YAR_CTRL = true ∧ reach yarrow R.YAR_STRM_IDX = true) := by decide +kernel

theorem witness_CaptureStreams_settled : Settled yarrow ∧ Settled (streaming { st := .armed, prog := program 0 1 1 }) ∧
    (∀ e ∈ [(0, 1), (0, 0), (2, 0)], Settled (streaming (chunked e.1 e.2))) :=
  ⟨settled_of_check (by decide +kernel), settled_of_check (by decide +kernel), fun e _ => settled_of_check (by revert e; decide +kernel)⟩

/-- The pattern region holds these entries. -/
def listed (l : List Nat) : State := { yarrow with dram := l.zipIdx.map fun e => (patBase + e.2, storeWord e.1) }

/-- A DATA entry of one item, an ALIGN entry, an END. -/
def dataEntry (align : Bool) : Nat := 2 ^ 123 + b2n align * 2 ^ 122 + 2 ^ 61

/-- Player `p` as given over a list. -/
def playing (p : Nat) (x : Player) (l : List Nat) : State := { listed l with players := [(p, x)] }

/-- Its start command 2 waits for the line with one copy planned, on this phase. -/
def playJob (p : Nat) : Job :=
  { oneCopy .planned with id := 9, kind := .player 2 p, copies := [{ ch := { pair := 0, ph := p }, t0 := 0, t1 := 0, st := .planned }] }

/-- A transmit player whose start is planned on phase B. -/
def txPlay : State :=
  { playing 1 { st := .waiting, uid := 2 } [dataEntry false, 0] with
    jobs := [playJob 1]
    cmds := [command 2 0x45 1 .onLine] }

/-- A REPEAT entry that leads to an entry so many times. -/
def repeatEntry (target reps : Nat) : Nat := 3 * 2 ^ 123 + target * 2 ^ 41 + reps * 2 ^ 25

/-- The word at an address of a player's list is as it was stored, and so are the words of its data. -/
def readable (s : State) (p w : Nat) : Bool :=
  let clean := fun (a : Nat) => (readStored (fgetD s.dram (patBase + a) 0)).any fun d => !d.2
  clean w && (Ent.type (patWord s w) != 1 ||
    (List.range (cdiv (Ent.count (patWord s w)) (itemsPerWord p))).all fun i => clean (Ent.addr (patWord s w) + i))

/-- The word after the entry that player 4 plays is past correction. -/
theorem witness_PatternPlayers_bad :
    let s := playing 4 { st := .playing, uid := 2 } [dataEntry false]
    let s := { s with dram := s.dram ++ [(patBase + 1, 7)] }
    (player s 4).st = .playing ∧ (∀ e ∈ s.players, e.2.reads = []) ∧ readable s 4 0 = true ∧ patBad s 1 = true := by decide +kernel

theorem witness_PatternPlayers :
    ((player yarrow 4).st ≠ .playing) ∧
    (∀ p ∈ [0, 6], let s := playing p { st := .playing } [dataEntry false, dataEntry false, 0]
     (player s p).st = .playing ∧ (player s p).align = false ∧ readable s p 0 = true ∧ readable s p 1 = true ∧ Ent.type (patWord s 1) = 1 ∧ Ent.align (patWord s 1) = false) ∧
    (let s := playing 4 { st := .playing } [dataEntry false, dataEntry true, 0]
     (player s 4).st = .playing ∧ (player s 4).align = false ∧ readable s 4 0 = true ∧ readable s 4 1 = true ∧ Ent.align (patWord s 1) = true) ∧
    (∀ e ∈ [(0xFFFF, 0, true), (1, 0, true), (1, 1, false), (0, 0, false)],
     let s := playing 4 { st := .playing, cnt := [(1, e.2.1)] } [dataEntry false, repeatEntry 0 e.1, dataEntry false, 0]
     (player s 4).st = .playing ∧ (player s 4).align = false ∧ readable s 4 0 = true ∧ readable s 4 1 = true ∧ Ent.type (patWord s 1) = 3 ∧ Ent.align (patWord s 1) = false ∧
       (decide (Ent.reps (patWord s 1) = 0xFFFF ∨ fgetD (player s 4).cnt 1 0 < Ent.reps (patWord s 1)) = e.2.2) ∧
       Ent.target (patWord s 1) = 0 ∧ ∀ w ∈ [0, 2], readable s 4 w = true ∧ Ent.type (patWord s w) = 1 ∧ Ent.align (patWord s w) = false) ∧
    (∀ e ∈ [(4, 0), (4, 1), (2, 1)], let s := playing e.1 { st := .playing } [dataEntry false, e.2]
     (player s e.1).st = .playing ∧ (player s e.1).align = false ∧ readable s e.1 0 = true ∧ readable s e.1 1 = true ∧ Ent.type (patWord s 1) = 0 ∧ Ent.align (patWord s 1) = false ∧
       (Ent.pass (patWord s 1) = true ↔ e.2 = 1)) ∧
    (let s := playing 4 { st := .waiting, align := true } [dataEntry true]
     (player s 4).st = .waiting ∧ (player s 4).align = true ∧ readable s 4 0 = true ∧ Ent.type (patWord s 0) = 1) ∧
    ((player yarrow 4).st ≠ .waiting ∨ (player yarrow 4).align = false) ∧
    (∀ t < 2, let s := playing 4 { st := .waiting, startAt := some t } [dataEntry false, 0]
     (player s 4).st = .waiting ∧ (player s 4).align = false ∧ readable s 4 0 = true ∧ Ent.type (patWord s 0) = 1 ∧ (ahead t (cidxNow s) = true ↔ t = 1)) ∧
    (reach yarrow R.YAR_CTRL = true ∧ reach yarrow R.YAR_PLAY_IDX = true) := by decide +kernel

theorem witness_PatternPlayers_transmit :
    txPlay.jobs.find? (fun j => j.kind == .player 2 1 && !j.ended) = some (playJob 1) ∧
      (∀ i ∈ txPlay.jobs, i.id = 9 → i = playJob 1) ∧ (player txPlay 1).uid = 2 ∧ (player txPlay 1).st = .waiting ∧ (player txPlay 1).align = false ∧
      Ent.type (patWord txPlay 0) = 1 ∧ readable txPlay 1 0 = true ∧ slotAhead txPlay 0 (slotNow txPlay) = false ∧ unsensed txPlay (playJob 1) = false ∧
      txPlay.mains.voidNow = false ∧ makeBar txPlay (playJob 1) = none ∧ phaseMuted txPlay 1 = false := by decide +kernel

theorem witness_PatternPlayers_settled : Settled txPlay ∧ Settled (playing 4 { st := .waiting, align := true } [dataEntry true]) :=
  ⟨settled_of_check (by decide +kernel), settled_of_check (by decide +kernel)⟩

/-- Function 0 with ring `r` set up and in this state. -/
def ringed (r : Nat) (x : Ring) : State :=
  { cfg active [(F.HQE_FN_CTRL_EN 0, 1), (F.HQE_RCFG_EN 0 r, 1)] with rings := [(r, x)] }

/-- A draining SQ with a command outstanding, or without. -/
def draining (busy : Bool) : State :=
  { ringed 1 { st := .draining } with cmds := if busy then [{ command 1 0x10 0x300 .onLine with sq := 1 }] else [] }

theorem witness_DoorbellsAndRingStates :
    (∀ e ∈ [(RingSt.enabled, true), (.disabled, false)], let s := ringed 1 { st := e.1 }
      doorOpen s 0 = true ∧ isSet s (F.HQE_FN_CTRL_EN 0) = true ∧ ((ring s 0 1).st = .enabled ↔ e.2 = true) ∧ 5 < ringSize s 0 1 ∧ ringSize s 0 1 ≤ 64 ∧
      (ring s 0 1).host = 0 ∧ (ring s 0 1).index = 0) ∧
    (let s := ringed 20 { st := .enabled, index := 5 }
     doorOpen s 0 = true ∧ (ring s 0 20).st = .enabled ∧ ringFill s 0 20 = 5 ∧ ringSize s 0 20 = 64 ∧ s.held = [] ∧ s.kqOwners = [] ∧ s.streams = []) ∧
    (fnHere active 0 = true ∧ reach active (R.HQE_RCFG 0 44) = true ∧ isSet active (F.HQE_RCFG_EN 0 44) = false ∧ hasGrant active 0 = true ∧
      fnHere active 1 = false ∧ active.held = [] ∧ active.kqOwners = []) ∧
    (let s := ringed 1 { st := .enabled }
     isSet s (F.HQE_RCFG_EN 0 1) = true ∧ getF s (F.HQE_RCFG_SIZE 0 1) = 0 ∧ getF s (F.HQE_RCFG_CQ 0 1) = 0) ∧
    (isSet (ringed 16 {}) (F.HQE_RCFG_EN 0 16) = true ∧ cqBusy (ringed 16 {}) 0 0 = false ∧
      (let s := { ringed 16 {} with cmds := [command 1 0x10 0x300 .onLine] }; cqBusy s 0 0 = true)) ∧
    (isSet (ringed 44 {}) (F.HQE_RCFG_EN 0 44) = true) ∧
    (∀ busy, (ring (draining busy) 0 1).st = .draining ∧ (draining busy).cmds.any (fun c => c.fn == 0 && c.sq == 1) = busy ∧
      sqUnwritten (draining busy) 0 1 = false) := by decide +kernel

/-- A granted virtual function 1: its own capture rings may be enabled; one without the grant may not. -/
def vfHere : State := { active with pcie := { active.pcie with vfEnable := true, numVfs := 7 } }

theorem witness_DoorbellsAndRingStates_rcfg :
    (doorOpen powered 0 = false ∧ doorOpen active 7 = false) ∧
    (∀ e ∈ [(RingSt.enabled, 63), (.enabled, 64)], let s := ringed 1 { st := e.1 }
     (e.2 < ringSize s 0 1 ∧ (0 + ringSize s 0 1 - 0) % ringSize s 0 1 ≤ (e.2 + ringSize s 0 1 - 0) % ringSize s 0 1) ↔ e.2 = 63) ∧
    (bits 0x8160_0000 24 21 = 11 ∧ bits 0x8140_0000 24 21 = 10 ∧ bits 0x0160_0000 24 21 = 11) ∧
    (let s := ringed 1 { st := .enabled }
     bits 0x8020_0000 24 21 ≠ getF s (F.HQE_RCFG_SIZE 0 1) ∧ bits 0x8200_0000 28 25 ≠ getF s (F.HQE_RCFG_CQ 0 1)) ∧
    (fnHere vfHere 1 = true ∧ reach vfHere (R.HQE_RCFG 1 40) = true ∧ hasGrant vfHere 1 = false ∧ isSet vfHere (F.HQE_RCFG_EN 1 40) = false ∧
      isSet vfHere (F.HQE_RCFG_EN 1 44) = false ∧ bits 0x8007_0000 20 16 = 7 ∧ bits 0x8008_0000 20 16 = 8) ∧
    (let s := { vfHere with kqOwners := [] }; bank s 1 (ringClass 44) = [] ∧ s.held = []) := by decide +kernel

theorem witness_DoorbellsAndRingStates_settled : (∀ e ∈ [(1, RingSt.enabled), (1, .disabled), (20, .enabled)], Settled (ringed e.1 { st := e.2, index := 5 })) ∧
    Settled vfHere ∧ ∀ busy, Settled (draining busy) :=
  ⟨fun e _ => settled_of_check (by revert e; decide +kernel), settled_of_check (by decide +kernel), fun b => settled_of_check (by revert b; decide +kernel)⟩

/-- A command of function 0 not started yet, by opcode, resource, LEN, and bytes from 24 on; a transmit command's DEADLINE is 1000. -/
def request (uid op res len : Nat) (more : List Byte) : Cmd :=
  { uid := uid, fn := 0, sq := 0, cq := 0,
    desc := slice (BitVec.ofNat 8 op :: [0, 0, 0] ++ toLE 4 res ++ toLE 8 (if len = 0 then 0 else 0x1000) ++ toLE 4 len ++ toLE 4 (if op < 0x20 then 1000 else 0) ++ more) 0 32 }

/-- A state with one request waiting to start. -/
def asked (s : State) (op res len : Nat) (more : List Byte) : State := { s with cmds := [request 1 op res len more], nextUid := 2 }

/-- SQ 1 of function 0 has one descriptor to fetch. -/
def fetching : State := ringed 1 { st := .enabled, host := 1 }

/-- The same with MACENG off. -/
def fetchingOff : State := setPg fetching 9 false

/-- A capture ring of function 0, its chunk waiting in the bank. -/
theorem witness_DoorbellsAndRingStates_error :
    (let s := { ringed 40 { st := .enabled, index := 5 } with banks := [(3, [{ ring := 40, data := [0] }])] }
     doorOpen s 0 = true ∧ (ring s 0 40).st = .enabled ∧ ringFill s 0 40 = 5 ∧ ∃ b ∈ bank s 0 (ringClass 40), b.ring = 40) ∧ 32 ≤ 40 ∧ 1 < 32 := by
  decide +kernel

/-- A vector is pending, and one opened. -/
def pendingVector : State := { active with pcie := { active.pcie with msixEn := 1, vecMask := [(0, 0xFFFF_FFF7)], fnMask := 1, pba := [(0, 8)] } }

/-- A receive record has waited since time 0 in the bank of its class; the state is at time 1 s. -/
def staleBank : State :=
  { active with mains := { active.mains with elapsed := 10 ^ 9 }, banks := [(2, [{ ring := 34, data := [0] }])] }

theorem witness_FetchesBanksAndInterrupts :
    (nextFetch fetching = some (0, 1) ∧ nextFetch active = none) ∧
    (descBad (request 1 0xFF 0 0 []) = some 0 ∧ descBad (request 1 0x22 0x300 0 []) = none) ∧
    (let c : Cmd := { uid := fetching.nextUid, fn := 0, sq := 1, cq := 0, desc := slice (1 :: List.replicate 31 0) 0 32 }
     let s := { setRing (visited fetching 0 1) 0 1 { ring fetching 0 1 with index := 1 } with cmds := [c], nextUid := fetching.nextUid + 1 }
     descBad c = none ∧ startable s c = true ∧ cmdBar s c = none) ∧
    (let c : Cmd := { uid := fetchingOff.nextUid, fn := 0, sq := 1, cq := 0, desc := (request 1 0x22 0x300 0 []).desc }
     let s := { setRing (visited fetchingOff 0 1) 0 1 { ring fetchingOff 0 1 with index := 1 } with cmds := [c], nextUid := fetchingOff.nextUid + 1 }
     nextFetch fetchingOff = some (0, 1) ∧ descBad c = none ∧ startable s c = true ∧ (cmdBar s c).isSome = true) ∧
    (let s := asked active 0x10 0x300 4 []
     findCmd s 1 = some (request 1 0x10 0x300 4 []) ∧ startable s (request 1 0x10 0x300 4 []) = true ∧ readsBuf (request 1 0x10 0x300 4 []) = true ∧
       readsBuf (request 1 0x22 0x300 0 []) = false) ∧
    (bankDue staleBank 0 2 = true ∧ bankDue active 0 2 = false) ∧
    (cfgOpen active = true ∧ cfgOpen State.reset = false ∧ fnHere active 1 = false) ∧
    (cfgOpen pendingVector = true ∧ fnHere pendingVector 0 = true ∧ vectorOpen { pendingVector with pcie := { pendingVector.pcie with fnMask := 0 } } 0 3 = true) := by
  decide +kernel

theorem witness_FetchesBanksAndInterrupts_settled : Settled fetching ∧ Settled fetchingOff ∧ Settled (asked active 0x10 0x300 4 []) ∧ Settled pendingVector ∧
    Settled staleBank :=
  ⟨settled_of_check (by decide +kernel), settled_of_check (by decide +kernel), settled_of_check (by decide +kernel), settled_of_check (by decide +kernel),
    settled_of_check (by decide +kernel)⟩

/-! ### Witnesses: ring commands -/

/-- The device may transmit: covered sets committed and matched, one band without limit that holds every tone, pair 0 valid in bank 0. -/
def sending : State :=
  let s := cfg opened [(F.VET_ROOT_ADDR, 0x100), (F.MAC_BAND_RANGE_EN 0, 1), (F.MAC_BAND_RANGE_HI 0, 2000),
    (F.MAC_BAND_BUDGET_ALLOW 0, 0xFFFF), (F.TXS_REG_MAX_LVL 0, 100), (F.TXS_REG_MAX_LVL 1, 100), (F.TXS_REG_MAX_LVL 2, 100), (F.MAC_BCN_CFG_PH, 1),
    (F.CMP_TP_STATUS_NONE, 0), (F.HQE_FN_CTRL_EN 0, 1), (F.TXS_CTRL_EN, 1)]
  { s with tones := [(0, 0x8000_0000#32 ||| 0x0019_0190#32)], rings := [(32, { st := .enabled })] }

/-- A Ngasen node, its session in this state. -/
def ngasen (st : Nat) : Session := { node := 0x300, fn := 0, kind := true, state := st, wakeTone := 500, map := [⟨0, 0⟩] }

/-- A transmit command for node 0x300, label 0x30, plaintext, with this session. -/
def traffic (op : Nat) (x : Option Session) : State := { asked sending op 0x300 4 [0x30] with sessions := x.toList.map fun x => (0x300, x) }

theorem witness_TransmitCommandsWait_barred :
    let s := setPg (traffic 0x10 none) 9 false
    let c := request 1 0x10 0x300 4 [0x30]
    findCmd s 1 = some c ∧ startable s c = true ∧ (cmdBar s c).isSome = true ∧ D.op c = 0x10 := by decide +kernel

theorem witness_TransmitCommandsWait_send : ∀ op ∈ [0x10, 0x11],
    let c := request 1 op 0x300 4 [0x30]
    let s := traffic op (some (ngasen 0))
    findCmd s 1 = some c ∧ startable s c = true ∧ cmdBar s c = none ∧ D.op c = op ∧ 1 ≤ D.res c ∧ D.res c < 0x3FFFF ∧ ownerOf s (D.res c) = c.fn ∧
      Lbl.reserved (D.at c 24 1) = false ∧ D.at c 24 1 ≠ Lbl.filler ∧ c.fn = 0 ∧ bit (D.at c 25 1) 1 = false ∧ (ring s c.fn (32 + 0)).st = .enabled ∧
      lineFault s = none ∧ txRefusal s = none ∧ dirFind s (D.res c) = none ∧ s.mesh.method = false ∧
      sess (traffic op none) (D.res c) = none ∧ (sess (traffic op (some (ngasen 1))) (D.res c)).map (·.state) = some 1 ∧
      sess s (D.res c) = some (ngasen 0) ∧ c.ext = [] ∧
      ({ dst := D.res c, label := 0x30, plain := [1, 2, 3, 4], enc := false } : Req).len s (D.res c) ≤ 508 ∧ ahead (deadlineOf s c) (cidxNow s) = true ∧
      ahead (deadlineOf s c) (slotCycle s (firstEvent s (ngasen 0) (openSlot s))) = true ∧
      neverSent s (ngasen 0) (firstEvent s (ngasen 0) (openSlot s)) (deadlineOf s c)
        (({ dst := D.res c, label := 0x30, plain := [1, 2, 3, 4], enc := false } : Req).len s (D.res c)) (op == 0x11) = false ∧
      quietOf s (ngasen 0).group (cidxNow s) = none := by decide +kernel

/-- A FLOOD, or a RELAY while the host computes routes. -/
def flooding (op : Nat) : State := { asked sending op (if op = 0x12 then 0x3FFFF else 0) 4 [0x30] with mesh := { active.mesh with method := op == 0x13 } }

theorem witness_TransmitCommandsWait_flood : ∀ op ∈ [0x12, 0x13],
    let s := flooding op
    let c := request 1 op (if op = 0x12 then 0x3FFFF else 0) 4 [0x30]
    let ps := (List.range 3).filter fun p => bit (getF s F.MAC_BCN_CFG_PH) p
    let pair := getF s F.MAC_BCN_CFG_PAIR
    let ns := (frameLen s (getF s F.MAC_BCN_CFG_MODE) 4 + 1) * symbolOf (bcnM s)
    findCmd s 1 = some c ∧ startable s c = true ∧ cmdBar s c = none ∧ D.op c = op ∧ c.fn = 0 ∧ lineFault s = none ∧ txRefusal s = none ∧ c.ext = [] ∧
      ahead (deadlineOf s c) (cidxNow s) = true ∧ ahead (deadlineOf s c) (slotCycle s (openSlot s)) = true ∧ ps ≠ [] ∧
      tonesAllowed s (pairTones s pair) = true ∧ ps.all (forbidden s) = false ∧
      neverAdmits s (ps.map fun p => (⟨pair, p⟩, slotTime s (openSlot s) 0, slotTime s (openSlot s) ns)) = false ∧
      (op = 0x12 → D.res c = 0x3FFFF ∧ Lbl.reserved (D.at c 24 1) = false ∧ D.at c 24 1 ≠ Lbl.filler) ∧ (op = 0x13 → s.mesh.method = true) := by
  decide +kernel

theorem witness_TransmitCommandsWait_all_barred : ∀ op ∈ [0x01, 0x10, 0x11, 0x12, 0x13],
    let s := { asked sending op 0x300 4 [0x30] with pwr := { sending.pwr with toStandby := true } }
    findCmd s 1 = some (request 1 op 0x300 4 [0x30]) ∧ startable s (request 1 op 0x300 4 [0x30]) = true ∧ (cmdBar s (request 1 op 0x300 4 [0x30])).isSome = true ∧
      cmdBar (asked sending 0x01 0 0 []) (request 1 0x01 0 0 []) = none := by decide +kernel

theorem witness_TransmitCommandsWait_refused : ∀ op ∈ [0x10, 0x11],
    let c := request 1 op 0x300 4 [0x30]
    let s := traffic op (some (ngasen 0))
    let lost := { s with rel := { s.rel with hvLost := true } }
    let mute := cfg s [(F.MSY_STATUS_TXMUTE, 1)]
    cmdBar lost c = none ∧ (lineFault lost).isSome = true ∧ cmdBar mute c = none ∧ lineFault mute = none ∧ (txRefusal mute).isSome = true := by decide +kernel

/-- A transmit command for node 0x300 that goes over node 0x200: by a route of the device, or by the extension its payload begins with. -/
def overRelay (op : Nat) (rte : Bool) : State :=
  let s := asked sending op 0x300 8 [0x30, if rte then 2 else 0]
  { s with
    sessions := [(0x200, { ngasen 0 with node := 0x200 })]
    mesh := { s.mesh with
      method := rte
      tables := [((homes sending 0x200).headD 0, { addr := 0x200, rly := true })]
      stash := [{ addr := 0x300 }]
      routes := if rte then [] else [(0x300, { relays := [0x200], cost := 5 })] } }

theorem witness_TransmitCommandsWait_relay : ∀ op ∈ [0x10, 0x11], ∀ rte : Bool,
    let s := overRelay op rte
    let c := request 1 op 0x300 8 [0x30, if rte then 2 else 0]
    let d : List Byte := slice [1, 0, 2, 0, 9, 9, 9, 9] 0 8
    let x := { ngasen 0 with node := 0x200 }
    findCmd s 1 = some c ∧ startable s c = true ∧ cmdBar s c = none ∧ D.op c = op ∧ c.fn = 0 ∧ bit (D.at c 25 1) 1 = rte ∧ bit (D.at c 25 1) 0 = false ∧
      s.mesh.method = rte ∧ lineFault s = none ∧ txRefusal s = none ∧ (dirFind s 0x300).any (fun e => e.dev == jirPos s) = true ∧
      (rte = false → sess s 0x300 = none ∧ isSet s F.VET_CTRL_EN = true ∧ routeOf s 0x300 = some [0x200] ∧ Machine.active s 0x200 = true ∧
        ({ dst := 0x300, label := 0x30, plain := d, enc := false, ext := extOf [0x200] } : Req).len s 0x300 ≤ 508) ∧
      (rte = true → (hostExt s 0x300 d).2 = true ∧ beNat (slice d 1 3) = 0x200) ∧ sess s 0x200 = some x ∧ c.ext = [] ∧ x.kind = true ∧
      ahead (deadlineOf s c) (cidxNow s) = true ∧ ahead (deadlineOf s c) (slotCycle s (firstEvent s x (openSlot s))) = true ∧
      neverSent s x (firstEvent s x (openSlot s)) (deadlineOf s c) (({ dst := 0x300, label := 0x30, plain := d, enc := false } : Req).len s 0x300) (op == 0x11) = false := by
  decide +kernel

/-- The partition table is in force, and function 1 owns the addresses 0x200 to 0x20F. -/
def partitioned (s : State) : State :=
  cfg { s with crc := { s.crc with matched := 15 } } [(F.GLB_LOCK_TEN, 1), (F.GLB_CRC_STAT_COMMITTED, 15), (F.TEN_ALO_EN 1 0, 1), (F.TEN_ALO_LO 1 0, 0x200), (F.TEN_AHI_HI 1 0, 0x20F)]

/-- The host's extension names a relay of function 1, or one of its own. -/
theorem witness_TransmitCommandsWait_owned : ∀ op ∈ [0x10, 0x11], ∀ other : Bool,
    let s := if other then partitioned (overRelay op true) else overRelay op true
    let c := request 1 op 0x300 8 [0x30, 2]
    let d : List Byte := slice [1, 0, 2, 0, 9, 9, 9, 9] 0 8
    findCmd s 1 = some c ∧ startable s c = true ∧ cmdBar s c = none ∧ lineFault s = none ∧ txRefusal s = none ∧ ownerOf s 0x300 = c.fn ∧
      (hostExt s 0x300 d).2 = true ∧ relaysOwned s c.fn (hostRelays d) = !other ∧ isSet s F.VET_CTRL_EN = true := by decide +kernel

/-- The session's group keeps a quiet period, and the node has a payload key. -/
theorem witness_TransmitCommandsWait_quiet :
    let s := traffic 0x10 (some { ngasen 0 with group := 1 })
    let q := { s with quiets := [(0, { state := 2, group := 1, c := 0, dur := 64, win := 0 })] }
    (quietOf q 1 (cidxNow q)).isSome = true ∧
    (let k := { s with sec := { s.sec with keys := [(nodeRef 0x300, nodeKey)], storeOk := true } }
     keyBar k (nodeRef 0x300) Use.payload = none) := by decide +kernel

theorem witness_TransmitCommandsWait_settled : (∀ st ∈ [0, 1], Settled (traffic 0x10 (some (ngasen st)))) ∧ (∀ op ∈ [0x12, 0x13], Settled (flooding op)) ∧
    ∀ rte, Settled (overRelay 0x10 rte) :=
  ⟨fun st _ => settled_of_check (by revert st; decide +kernel), fun op _ => settled_of_check (by revert op; decide +kernel),
    fun b => settled_of_check (by revert b; decide +kernel)⟩

/-- A session block: Standard, mode 0 of set 1, one map entry, key 0, supervision 100. -/
def block : List Byte := slice ([0, 1, 1, 0, 0, 0, 0, 0, 100, 0, 0, 0, 4, 0, 2] ++ List.replicate 49 0) 0 64

/-- A session command for node 0x300, with this session. -/
def sessionCmd (op : Nat) (more : List Byte) (x : Option Session) : State := { asked sending op 0x300 64 more with sessions := x.toList.map fun x => (0x300, x) }

/-- The session of node 0x300 as the block has it. -/
def standard : Session :=
  { node := 0x300, fn := 0, supvT := 100, map := [⟨0, 0⟩], replyLen := 4, rGap := 2 }

theorem witness_SessionAndAgreementCommands_open :
    let s := sessionCmd 0x20 [] none
    let c := request 1 0x20 0x300 64 []
    findCmd s 1 = some c ∧ D.op c = 0x20 ∧ startable s c = true ∧ cmdBar s c = none ∧ blockOk s (slice block 0 64) = true ∧ Blk.fn (slice block 0 64) = c.fn ∧
      ownerOf s 0x300 = 0 ∧ blockShared s (slice block 0 64) = true ∧ cidxOk s = true ∧ sess s 0x300 = none ∧ s.sessions.length < 65536 ∧
      tableInForce s = false := by decide +kernel

theorem witness_SessionAndAgreementCommands_modify : ∀ mask ∈ [0x100, 0x102],
    let s := sessionCmd 0x21 (toLE 8 mask) (some standard)
    let c := request 1 0x21 0x300 64 (toLE 8 mask)
    let y := maskBytes mask (slice block 0 64) (maskBytes 0 (blockOf standard) (blockOf standard))
    findCmd s 1 = some c ∧ D.op c = 0x21 ∧ startable s c = true ∧ cmdBar s c = none ∧ sess s 0x300 = some standard ∧ D.at c 24 8 = mask ∧
      [22, 23, 56, 57, 58, 59, 60, 61, 62, 63].any (bit mask) = false ∧ Blk.kind y = standard.kind ∧ Blk.m y = standard.m ∧ bit mask 3 = false ∧
      blockShared s y = true ∧
      blockOk s (if bit mask 1 then y else y.set 1 (BitVec.ofNat 8 (Blk.modeSet y + 16 * ((List.range 4).find? (bit (Blk.modeSet y))).getD 0))) = true := by
  decide +kernel

theorem witness_SessionAndAgreementCommands_close : ∀ op ∈ [0x22, 0x23],
    let s := sessionCmd op [] (some standard)
    let c := request 1 op 0x300 64 []
    findCmd s 1 = some c ∧ D.op c = op ∧ startable s c = true ∧ cmdBar s c = none ∧ sess s 0x300 = some standard ∧ standard.node = 0x300 ∧ s.jobs = [] ∧
      ownerOf s 0x300 = c.fn := by decide +kernel

/-- A commit of group 1: at cycle 64, for 64 cycles, a window of one slot; `LEAD` is 8 cycles. -/
def agreement (busy : Bool) : State :=
  { asked (cfg active [(F.MAC_SLOT_CFG_QA_LEAD, 8), (F.MAC_SLOT_CFG_SLOT_C, 4)]) 0x24 1 0 (toLE 4 64 ++ toLE 3 64 ++ [0]) with
    quiets := if busy then [(0, { state := 2, group := 2, c := 64, dur := 64, win := 0 })] else [] }

theorem witness_SessionAndAgreementCommands_commit : ∀ busy,
    let s := agreement busy
    let c := request 1 0x24 1 0 (toLE 4 64 ++ toLE 3 64 ++ [0])
    findCmd s 1 = some c ∧ D.op c = 0x24 ∧ startable s c = true ∧ cmdBar s c = none ∧ D.at c 24 4 % slotC s = 0 ∧ D.at c 28 3 % slotC s = 0 ∧
      2 ^ D.at c 31 1 * slotC s ≤ D.at c 28 3 ∧ D.at c 31 1 ≤ 12 ∧ getF s F.MAC_SLOT_CFG_QA_LEAD ≤ cycSub 64 (cidxNow s) ∧ cycSub 64 (cidxNow s) < 2 ^ 31 ∧
      quiet s (b2n busy) = none ∧ (∀ j < b2n busy, (quiet s j).isSome = true) ∧
      (∀ e ∈ s.quiets, e.2.group = 1 → e.2.stands = true → periodsMeet 64 64 e.2.c e.2.dur = false) := by decide +kernel

/-- A withdrawal of agreement 5, fetched at time 10, with this agreement. -/
def withdrawing (q : Option Quiet) : State :=
  { active with cmds := [{ request 1 0x25 5 0 [] with fetchTb := 10 }], quiets := q.toList.map fun q => (5, q) }

theorem witness_SessionAndAgreementCommands_withdraw : ∀ q ∈ [none, some none, some (some 9), some (some 11)],
    let x := q.map fun cz => ({ state := 2, group := 1, c := 256, dur := 64, win := 0, cz := cz } : Quiet)
    let s := withdrawing x
    let c := { request 1 0x25 5 0 [] with fetchTb := 10 }
    findCmd s 1 = some c ∧ D.op c = 0x25 ∧ startable s c = true ∧ cmdBar s c = none ∧ c.fn = 0 ∧ D.res c = 5 ∧ quiet s 5 = x := by decide +kernel

theorem witness_SessionAndAgreementCommands_settled : Settled (sessionCmd 0x20 [] none) ∧ (∀ op ∈ [0x21, 0x22, 0x23], Settled (sessionCmd op [] (some standard))) ∧
    (∀ b, Settled (agreement b)) ∧ Settled (withdrawing none) :=
  ⟨settled_of_check (by decide +kernel), fun op _ => settled_of_check (by revert op; decide +kernel), fun b => settled_of_check (by revert b; decide +kernel),
    settled_of_check (by decide +kernel)⟩

/-- A directory command for node 0x300, with or without a record of it. -/
def directory (op len : Nat) (known inSess : Bool) : State :=
  let s := asked active op 0x300 len []
  { s with
    mesh := { s.mesh with tables := if known then [((homes active 0x300).headD 0, { addr := 0x300 })] else [] }
    sessions := if inSess then [(0x300, standard)] else [] }

/-- A record's 32 bytes for node 0x300. -/
def recordBytes : List Byte := slice (toLE 4 0x300 ++ List.replicate 28 0) 0 32

theorem witness_DirectoryAndPerformanceCommands :
    (∀ e ∈ [(0x30, 32, true, false), (0x30, 32, false, false), (0x31, 32, false, false), (0x32, 0, true, true), (0x32, 0, true, false)],
      let s := directory e.1 e.2.1 e.2.2.1 e.2.2.2
      let c := request 1 e.1 0x300 e.2.1 []
      findCmd s 1 = some c ∧ D.op c = e.1 ∧ startable s c = true ∧ cmdBar s c = none ∧ D.res c = 0x300 ∧ ownerOf s 0x300 = c.fn ∧
        (dirFind s 0x300).isSome = e.2.2.1 ∧ (sess s 0x300).isSome = e.2.2.2 ∧ (e.2.2.1 = true → (dirPlace s 0x300).isSome = true) ∧ s.mesh.stash = []) ∧
    (recOk 0x300 (slice recordBytes 0 32) = true ∧ bit (leAt (slice recordBytes 0 32) 0 4) 23 = false ∧
      (freePlace (directory 0x31 32 false false) (homes (directory 0x31 32 false false) 0x300)).isSome = true) ∧
    (∀ n < 4, let s := asked (counting 1) 0x38 (2 ^ 31 + 255) 128 [0, 0, BitVec.ofNat 8 n]
     let c := request 1 0x38 (2 ^ 31 + 255) 128 [0, 0, BitVec.ofNat 8 n]
     findCmd s 1 = some c ∧ D.op c = 0x38 ∧ startable s c = true ∧ cmdBar s c = none ∧ c.fn = 0 ∧
       ((pmRecords s (D.res c) (D.at c 24 1) (D.at c 25 1)).take (min n (D.len c / 64))).length = min n 2) := by decide +kernel

theorem witness_DirectoryAndPerformanceCommands_settled : (∀ known inSess, Settled (directory 0x30 32 known inSess)) ∧ Settled (asked (counting 1) 0x38 (2 ^ 31 + 255) 128 [0, 0, 1]) :=
  ⟨fun a b => settled_of_check (by revert a b; decide +kernel), settled_of_check (by decide +kernel)⟩

/-- The values of a session as the last slot boundary left them, and a session that has seen none; the index valid and not. -/
theorem witness_SessionAndAgreementCommands_query : ∀ l ∈ [[], List.replicate 64 (1 : Byte)], ∀ valid < 2,
    let x := { standard with snap := l }
    let s := cfg (sessionCmd 0x23 [] (some x)) [(F.MSY_STATUS_CIDX_VALID, valid)]
    let c := request 1 0x23 0x300 64 []
    findCmd s 1 = some c ∧ D.op c = 0x23 ∧ startable s c = true ∧ cmdBar s c = none ∧ ownerOf s 0x300 = c.fn ∧ sess s 0x300 = some x ∧
      cidxOk s = (valid == 1) := by decide +kernel

/-- A withdrawal that finds an agreement already over or cancelled. -/
theorem witness_SessionAndAgreementCommands_over : ∀ st ∈ [3, 4],
    let s := withdrawing (some { state := st, group := 1, c := 256, dur := 64, win := 0 })
    (quiet s 5).any (fun q => q.state == st && q.state != 1 && q.state != 2) = true := by decide +kernel

/-- A session whose first command has begun an attempt, one that has not. -/
theorem witness_SessionAndAgreementCommands_commands : ∀ n ∈ [0, 1],
    let s := { sessionCmd 0x22 [] (some standard) with cmds := [request 1 0x22 0x300 64 [], { command 2 0x10 0x300 .waiting with attempts := n }] }
    (∃ d ∈ nodeCmds s 0x300, d.uid = 2 ∧ d.attempts = n) ∧ findCmd s 1 = some (request 1 0x22 0x300 64 []) := by
  intro n hn
  refine ⟨⟨{ command 2 0x10 0x300 .waiting with attempts := n }, ?_, rfl, rfl⟩, ?_⟩ <;> (revert n hn; decide +kernel)

/-- A record that pins node 0x300 over node 0x200, and the record there is. -/
def pinnedBytes : List Byte := slice (toLE 4 (0x300 + 2 ^ 23) ++ [0, 0, 1] ++ toLE 3 0x200) 0 32

def pinning (known : Bool) : State :=
  let s := asked sending 0x31 0x300 32 []
  { s with
    sessions := [(0x200, { ngasen 0 with node := 0x200 })]
    mesh := { s.mesh with tables := if known then [((homes sending 0x300).headD 0, { addr := 0x300 })] else [], stash := [{ addr := 0x200, rly := true }] } }

theorem witness_DirectoryAndPerformanceCommands_pin : ∀ known : Bool,
    let s := pinning known
    let c := request 1 0x31 0x300 32 []
    let b := slice pinnedBytes 0 32
    let rel := (List.range (leAt b 6 1 % 8)).map fun i => leAt b (7 + 3 * i) 3
    findCmd s 1 = some c ∧ D.op c = 0x31 ∧ startable s c = true ∧ cmdBar s c = none ∧ recOk 0x300 b = true ∧ bit (leAt b 0 4) 23 = true ∧
      relaysOk s 0x300 (hMax s) rel = true ∧ leAt b 6 1 / 16 = 0 ∧
      (known = true → (dirFind s 0x300).any (fun o => o.addr == 0x300) = true ∧ (dirPlace s 0x300).isSome = true) ∧
      (known = false → dirFind s 0x300 = none ∧ (freePlace s (homes s 0x300)).isSome = true) := by decide +kernel

/-- The same where function 1 owns the relay. -/
theorem witness_DirectoryAndPerformanceCommands_foreign :
    let s := partitioned (pinning false)
    let c := request 1 0x31 0x300 32 []
    let b := slice pinnedBytes 0 32
    let rel := (List.range (leAt b 6 1 % 8)).map fun i => leAt b (7 + 3 * i) 3
    findCmd s 1 = some c ∧ D.op c = 0x31 ∧ startable s c = true ∧ cmdBar s c = none ∧ recOk 0x300 b = true ∧ bit (leAt b 0 4) 23 = true ∧
      relaysOk s 0x300 (hMax s) rel = true ∧ relaysOwned s (ownerOf s 0x300) rel = false := by decide +kernel

theorem witness_DirectoryAndPerformanceCommands_pin_settled : ∀ b, Settled (pinning b) :=
  fun b => settled_of_check (by revert b; decide +kernel)

/-- A capture or pattern command on Yarrow with ring KQ 0 up, by opcode, resource, LEN and bytes from 24 on. -/
def yarrowCmd (s : State) (op res len : Nat) (more : List Byte) : State :=
  { asked (cfg s [(F.HQE_FN_CTRL_EN 0, 1)]) op res len more with rings := [(40, { st := .enabled })] }

theorem witness_CaptureAndPatternCommands_arm : ∀ src < 2,
    let s := yarrowCmd yarrow 0x40 0 64 []
    let c := request 1 0x40 0 64 []
    let p := slice (program 0 1 src) 0 64
    findCmd s 1 = some c ∧ D.op c = 0x40 ∧ startable s c = true ∧ cmdBar s c = none ∧ hasGrant s c.fn = true ∧ progOk p = true ∧
      progPermitted s c.fn p = true ∧ (ring s c.fn (40 + Prog.ring p)).st = .enabled ∧ isSet s F.YAR_STATUS_REGION_OK = true ∧
      getF s F.YAR_REGION_CAP ≠ 0 ∧ isSet s F.YAR_CTRL_CAP_EN = true ∧ inSafe s 10 = false ∧ (stream s 0).st = .idle ∧
      (stream s 0).owed = [] ∧ (∀ e ∈ s.streams, e.2.exports = []) ∧ Trg.exported (Prog.start p) = false ∧ leAt (Prog.start p) 0 1 = src := by decide +kernel

theorem witness_CaptureAndPatternCommands_trigger : ∀ e ∈ [(0x41, .idle, 7), (0x41, .armed, 7), (0x42, .armed, 7), (0x42, StreamSt.armed, 9)],
    let x : Stream := { st := e.2.1, uid := 2, prog := program 0 1 8 }
    let s := yarrowCmd (streaming x) e.1 3 0 [BitVec.ofNat 8 e.2.2]
    let c := request 1 e.1 3 0 [BitVec.ofNat 8 e.2.2]
    findCmd s 1 = some c ∧ D.op c = e.1 ∧ startable s c = true ∧ cmdBar s c = none ∧ hasGrant s c.fn = true ∧ stream s 3 = x ∧ x.fn = c.fn ∧
      (∀ e ∈ s.streams, e.2.exports = []) ∧ Trg.src (Prog.start x.prog) = 8 ∧ (leAt (Prog.start x.prog) 4 2 = D.at c 24 2 ↔ e.2.2 = 7) ∧ Trg.exported (Prog.start x.prog) = false := by decide +kernel

theorem witness_CaptureAndPatternCommands_words : ∀ e ∈ [(0x43, 4, 32), (0x44, 4, 32)],
    let s := yarrowCmd yarrow e.1 0 e.2.2 (toLE 8 e.2.1)
    let c := request 1 e.1 0 e.2.2 (toLE 8 e.2.1)
    findCmd s 1 = some c ∧ D.op c = e.1 ∧ startable s c = true ∧ cmdBar s c = none ∧ hasGrant s c.fn = true ∧ D.at c 24 8 = 4 ∧
      (capShare s 0).1 ≤ 4 ∧ 4 < (capShare s 0).1 + (capShare s 0).2 ∧ inShare (patShare s 0) 4 (D.len c / 16) = true ∧
      getF s F.YAR_REGION_PAT ≠ 0 := by decide +kernel

/-- PLAY_START of the list at 0 for a player. -/
def starting (p : Nat) : State :=
  let s := cfg sending [(F.YAR_REGION_PAT, 1), (F.YAR_STATUS_REGION_OK, 1), (F.YAR_CTRL_PLAY_EN, 1), (F.TXS_PAT_PEAK_PEAK 0, 100)]
  let s := { s with dram := [(patBase, storeWord (dataEntry false)), (patBase + 1, storeWord 0)] }
  let c := request 1 0x45 p 0 (toLE 4 0)
  { s with cmds := [{ c with desc := slice (slice c.desc 0 20 ++ toLE 4 1000 ++ slice c.desc 24 8) 0 32 }], nextUid := 2 }

theorem witness_CaptureAndPatternCommands_play : ∀ p ∈ [0, 5],
    let s := starting p
    ∃ c ∈ s.cmds, findCmd s 1 = some c ∧ D.op c = 0x45 ∧ startable s c = true ∧ cmdBar s c = none ∧ c.fn = 0 ∧ D.res c = p ∧ D.at c 24 4 = 0 ∧ D.at c 28 4 = 0 ∧
      checkList s (patShare s 0) p 0 65536 0 0 false = 0 ∧ (player s p).st = .idle ∧ isSet s F.YAR_CTRL_PLAY_EN = true ∧ inSafe s 10 = false ∧
      lineFault s = none ∧ txRefusal s = none ∧ (p = 0 → getF s (F.TXS_REG_MAX_LVL 0) ≠ 0 ∧ getF s (F.TXS_PAT_PEAK_PEAK 0) ≠ 0) ∧ anyBand s = true ∧
      ahead (deadlineOf s c) (cidxNow s) = true ∧ ahead (deadlineOf s c) (slotCycle s (openSlot s)) = true ∧
      (p = 0 → (List.range 8).all (fun n => !isSet s (F.MAC_BAND_RANGE_EN n) ||
        bandAdmits { s with bands := {} } n false [(p, slotTime s (openSlot s) 0, slotTime s (openSlot s) 0 + playNs s 0)]) = true) := by decide +kernel

theorem witness_CaptureAndPatternCommands_stop :
    let s := asked (playing 4 { st := .playing, uid := 2 } [dataEntry false, 0]) 0x46 4 0 []
    let c := request 1 0x46 4 0 []
    findCmd s 1 = some c ∧ D.op c = 0x46 ∧ startable s c = true ∧ cmdBar s c = none ∧ c.fn = 0 ∧ (player s 4).st ≠ .idle := by decide +kernel

theorem witness_CaptureAndPatternCommands_settled : Settled (yarrowCmd yarrow 0x40 0 64 []) ∧ (∀ p ∈ [0, 5], Settled (starting p)) ∧
    Settled (yarrowCmd (streaming { st := .armed, uid := 2, prog := program 0 1 8 }) 0x42 3 0 [7]) :=
  ⟨settled_of_check (by decide +kernel), fun p _ => settled_of_check (by revert p; decide +kernel), settled_of_check (by decide +kernel)⟩

/-- CAP_READ of one word at 4: as written, with one bit or two changed, with three. -/
theorem witness_CaptureAndPatternCommands_read : ∀ flip ∈ [0, 1, 3, 7],
    let w := Nat.xor (storeWord 0x55) flip
    let s := { yarrowCmd yarrow 0x43 0 16 (toLE 8 4) with dram := [(4, w)] }
    let c := request 1 0x43 0 16 (toLE 8 4)
    findCmd s 1 = some c ∧ D.op c = 0x43 ∧ startable s c = true ∧ cmdBar s c = none ∧ hasGrant s c.fn = true ∧ D.at c 24 8 = 4 ∧
      isSet s F.YAR_STATUS_REGION_OK = true ∧ getF s F.YAR_REGION_CAP ≠ 0 ∧ D.len c / 16 = 1 ∧ min 1 ((capShare s 0).1 + (capShare s 0).2 - 4) = 1 ∧
      (flip = 0 → bchSyndrome (fgetD s.dram 4 0) = 0) ∧ (flip = 1 ∨ flip = 3 → readStored (fgetD s.dram 4 0) = some (0x55, true)) ∧
      (flip = 7 → readStored (fgetD s.dram 4 0) = none) := by decide +kernel

/-- The last word of the share, of two asked for. -/
theorem witness_CaptureAndPatternCommands_last :
    let e := (capShare yarrow 0).1 + (capShare yarrow 0).2 - 1
    let s := yarrowCmd yarrow 0x43 0 32 (toLE 8 e)
    let c := request 1 0x43 0 32 (toLE 8 e)
    D.at c 24 8 = e ∧ min (D.len c / 16) ((capShare s 0).1 + (capShare s 0).2 - D.at c 24 8) = 1 ∧ bchSyndrome (fgetD s.dram e 0) = 0 := by decide +kernel

/-- PLAY_START of a player that is not idle; of a list whose first word is past correction. -/
theorem witness_CaptureAndPatternCommands_not_idle :
    (∀ st ∈ [PlaySt.waiting, .playing, .passing], let s := { starting 5 with players := [(5, { st := st })] }
     (player s 5).st ≠ .idle ∧ checkList s (patShare s 0) 5 0 65536 0 0 false = 0 ∧ cmdBar s (s.cmds.headD (request 1 0x45 5 0 [])) = none) ∧
    (let s := { starting 5 with dram := [(patBase, 7)] }
     checkList s (patShare s 0) 5 0 65536 0 0 false = 3 ∧ getF s F.YAR_REGION_PAT ≠ 0) := by decide +kernel

/-- The security engines at work: key 3 for CCM, 4 to sign, 5 for ECDH. -/
def engines : State :=
  { cfg active [(F.SEC_CTRL_EN, 1), (F.SEC_KPOL_PLAIN_IMPORT, 1), (F.SEC_KPOL_PERSIST_EN, 1), (F.SEC_KPOL_ECDH_EXPORT, 1),
      (F.SEC_KPOL_MIN_TLEN, 0), (F.ATT_STATUS_MEAS_FINAL, 1)] with
    sec := { storeOk := true, gen := 1, keys := [(3, { type := 1, use := 3, tlen := 3, material := List.replicate 16 0, gen := 1 }),
      (4, { type := 3, use := 4, tlen := 0, material := List.replicate 31 0 ++ [1] }), (5, { type := 3, use := 5, tlen := 0, material := List.replicate 31 0 ++ [1] })] } }

/-- A command of the engines. -/
def secCmd (op res len : Nat) (more : List Byte) : State := asked engines op res len more

/-- The 64 bytes of a plain AES-128 record for CCM by the host, with these flags. -/
def keyRecord (flags : Byte) : List Byte := slice ([1, 8, 3, flags, 0, 0, 0, 0] ++ List.replicate 16 7) 0 64

theorem witness_KeysCiphersAndSignatures_load : ∀ persist : Bool,
    let s := secCmd 0x50 9 64 []
    let c := request 1 0x50 9 64 []
    let b := slice (keyRecord (if persist then 1 else 0)) 0 64
    inSafe s 12 = false ∧ isSet s F.SEC_CTRL_EN = true ∧ findCmd s 1 = some c ∧ D.op c = 0x50 ∧ startable s c = true ∧ cmdBar s c = none ∧ refOk 9 = true ∧
      ownsRef s c.fn 9 = true ∧ bit (D.at c 26 1) 0 = false ∧ recordBad s 9 false b = false ∧ bit (leAt b 3 1) 1 = false ∧ bit (leAt b 3 1) 2 = false ∧
      ctxNames s 9 = false ∧ writesLeft s 1 = false ∧ (key s 9).any (·.persist) = false ∧ (recKey c b (slice b 8 16)).persist = persist := by decide +kernel

/-- The load of a volatile record over a persistent key. -/
theorem witness_KeysCiphersAndSignatures_covers :
    let s := { secCmd 0x50 9 64 [] with sec := { engines.sec with keys := [(9, { type := 1, use := 3, tlen := 3, material := List.replicate 16 0, persist := true })] } }
    (key s 9).any (·.persist) = true ∧ findCmd s 1 = some (request 1 0x50 9 64 []) ∧ cmdBar s (request 1 0x50 9 64 []) = none ∧ ctxNames s 9 = false ∧
      recordBad s 9 false (slice (keyRecord 0) 0 64) = false := by decide +kernel

/-- A KEY_DELETE of key 3, persistent or not. -/
def deleting (persist : Bool) : State :=
  let s := secCmd 0x51 3 0 []
  { s with sec := { s.sec with keys := [(3, { type := 1, use := 3, tlen := 3, material := List.replicate 16 0, gen := 1, persist := persist })] } }

theorem witness_KeysCiphersAndSignatures_delete : ∀ persist,
    let s := deleting persist
    let c := request 1 0x51 3 0 []
    findCmd s 1 = some c ∧ D.op c = 0x51 ∧ startable s c = true ∧ cmdBar s c = none ∧ refOk 3 = true ∧ ownsRef s c.fn 3 = true ∧
      (key s 3).map (·.persist) = some persist ∧ ctxNames s 3 = false := by decide +kernel

/-- A KEY_DELETE by function 1. -/
theorem witness_KeysCiphersAndSignatures_tenant :
    let c := { request 1 0x51 3 0 [] with fn := 1 }
    let s := { partitioned (deleting false) with cmds := [c] }
    findCmd s 1 = some c ∧ D.op c = 0x51 ∧ startable s c = true ∧ cmdBar s c = none ∧ refOk (D.res c) = true ∧ c.fn ≠ 0 := by decide +kernel

/-- A signature with key 4, whose record was wrapped under an earlier store key. -/
theorem witness_KeysCiphersAndSignatures_unwrap :
    let s := { secCmd 0x58 4 32 [] with sec := { engines.sec with storeKey := 1 } }
    let c := request 1 0x58 4 32 []
    findCmd s 1 = some c ∧ D.op c = 0x58 ∧ startable s c = true ∧ cmdBar s c = none ∧ pkBehind s c = false ∧ refOk 4 = true ∧ bit 4 31 = false ∧
      ownsKey s c.fn 4 = true ∧ recordFails s 4 = true := by decide +kernel

/-- A CCM command in one part on context 2 under key 3, with this message length. -/
def ccmMore (msg : Nat) : List Byte := [3, 0, 2, 0] ++ toLE 2 msg ++ [0, 0]

/-- The nonce of 13 zero bytes, a message of 3 bytes, and its tag of 16 bytes, or another. -/
def ccmText (good : Bool) : List Byte :=
  let x := newCtx 3 { type := 1, use := 3, tlen := 3, material := List.replicate 16 0, gen := 1 } (List.replicate 13 0) 3 0
  let ks := roundKeys (List.replicate 16 0)
  List.replicate 13 0 ++ xorBytes [1, 2, 3] (ccmKeystream ks x.nonce 0 3) ++ if good then (x.mix ks [1, 2, 3]).tag ks else List.replicate 16 0

theorem witness_KeysCiphersAndSignatures_ccm : ∀ e ∈ [(0x52, 16), (0x53, 32)],
    let s := secCmd e.1 3 e.2 (ccmMore 3)
    let c := request 1 e.1 3 e.2 (ccmMore 3)
    findCmd s 1 = some c ∧ D.op c = e.1 ∧ startable s c = true ∧ cmdBar s c = none ∧ ctxBehind s c 2 = false ∧ D.at c 26 2 = 2 ∧ 2 / 8 = c.fn ∧
      D.at c 24 1 = 3 ∧ 13 ≤ D.len c ∧ keyBar s 3 Use.hostCcm = none ∧ sram s 2 = none ∧ D.at c 30 2 = 0 ∧ D.at c 28 2 = 3 ∧
      ((slice (ccmText true) 0 e.2).drop 13).length = 3 + (if e.1 = 0x53 then 16 else 0) := by decide +kernel

theorem witness_KeysCiphersAndSignatures_tag : ∀ good : Bool,
    let x := newCtx 3 { type := 1, use := 3, tlen := 3, material := List.replicate 16 0, gen := 1 } (List.replicate 13 0) 3 0
    let ks := roundKeys (List.replicate 16 0)
    let data := (slice (ccmText good) 0 32).drop 13
    x.tlen = 16 ∧ (data.drop 3 = (x.mix ks (xorBytes (data.take 3) (ccmKeystream ks x.nonce 0 3))).tag ks ↔ good = true) := by decide +kernel

/-- A context of key 3, in the SRAM at 2 or wrapped at 100. -/
def oneCtx : Ctx := { ref := 3, gen := 1, nonce := List.replicate 13 0, mac := List.replicate 16 0, msgLeft := 5, adLeft := 0, tlen := 16 }

def moving (restore : Bool) : State :=
  let s := secCmd (if restore then 0x55 else 0x54) 2 0 (toLE 2 100)
  { s with sec := { s.sec with sram := if restore then [] else [(2, oneCtx)], wrapped := if restore then [(100, oneCtx)] else [] } }

theorem witness_KeysCiphersAndSignatures_context : ∀ restore,
    let s := moving restore
    let op := if restore then 0x55 else 0x54
    let c := request 1 op 2 0 (toLE 2 100)
    findCmd s 1 = some c ∧ D.op c = op ∧ startable s c = true ∧ cmdBar s c = none ∧ ctxBehind s c 2 = false ∧ wrappedBehind s c 100 = false ∧ D.at c 24 2 = 100 ∧ 100 / 512 = c.fn ∧
      2 / 8 = c.fn ∧ sram s 2 = (if restore then none else some oneCtx) ∧ fget s.sec.wrapped 100 = (if restore then some oneCtx else none) ∧
      (key s oneCtx.ref).map (·.gen) = some oneCtx.gen := by decide +kernel

theorem witness_KeysCiphersAndSignatures_queue : ∀ e ∈ [(0x58, 4, 32, 4), (0x59, 0, 160, 9), (0x5A, 5, 64, 5), (0x60, 0, 32, 9)],
    let s := secCmd e.1 e.2.1 e.2.2.1 [0, 0, 1]
    let c := request 1 e.1 e.2.1 e.2.2.1 [0, 0, 1]
    findCmd s 1 = some c ∧ D.op c = e.1 ∧ startable s c = true ∧ cmdBar s c = none ∧ refOk e.2.1 = true ∧ bit e.2.1 31 = false ∧
      ownsKey s c.fn e.2.1 = true ∧ (e.2.2.2 ≠ 9 → keyBar s e.2.1 e.2.2.2 = none) ∧ bit (D.at c 26 1) 0 = true ∧ isSet s F.SEC_KPOL_ECDH_EXPORT = true ∧
      isSet s F.ATT_STATUS_MEAS_FINAL = true ∧ isSet s F.ATT_STATUS_AK_INVALID = false ∧ (e.1 = 0x59 → 128 ≤ D.len c) ∧ pkBehind s c = false ∧ s.sec.pkRun = none ∧
      s.sec.pkq = [] ∧ c.fn < 8 := by decide +kernel

/-- The one engine runs an operation of command 1. -/
def pkRunning (op : Nat) : State :=
  let s := { engines with cmds := [{ request 1 0x58 4 32 [] with st := .engine }] }
  { s with sec := { s.sec with pkRun := some { uid := 1, fn := 0, op := op, buf := List.replicate 192 0 } } }

theorem witness_KeysCiphersAndSignatures_done : ∀ op < 3,
    (pkRunning op).sec.pkRun.any (fun o => o.op == op && (findCmd (pkRunning op) o.uid).isSome) = true ∧ (pkRunning op).sec.pkq = [] := by decide +kernel

/-- A key-encryption key of the bytes 0 to 31 in slot 6 (RFC 3394, 4.3). -/
def kekHere (s : State) : State :=
  { s with sec := { s.sec with keys := fput s.sec.keys 6 { type := 2, use := 6, tlen := 0, material := (List.range 32).map (BitVec.ofNat 8) } } }

/-- The key 00112233 … EEFF as that vector wraps it. -/
def wrappedKey : List Byte := toBE 8 0x64E8C3F9CE0F5BA2 ++ toBE 8 0x63E9777905818A2A ++ toBE 8 0x93C8191E7D6E8AE7

theorem test_sbox : ∀ a < 256, lookUp sboxRows a = sbox a ∧ lookUp invSboxRows (sbox a) = a := by decide +kernel

theorem test_key_unwrap_rfc3394 : (kwUnwrap ((List.range 32).map (BitVec.ofNat 8)) wrappedKey).isSome = true := by decide +kernel

theorem witness_KeysCiphersAndSignatures_wrapped :
    let more : List Byte := [6, 0, 1, 0]
    let s := kekHere (secCmd 0x50 9 64 more)
    let c := request 1 0x50 9 64 more
    let b := slice ([1, 8, 3, 0, 0, 0, 0, 0] ++ wrappedKey) 0 64
    findCmd s 1 = some c ∧ D.op c = 0x50 ∧ startable s c = true ∧ cmdBar s c = none ∧ ownsRef s c.fn 9 = true ∧ bit (D.at c 26 1) 0 = true ∧
      D.at c 24 2 = 6 ∧ ownsKey s c.fn 6 = true ∧ keyBar s 6 Use.kek = none ∧ recordBad s 9 true b = false ∧ bit (leAt b 3 1) 1 = false ∧
      bit (leAt b 3 1) 2 = false ∧ ctxNames s 9 = false ∧ slice b 8 24 = wrappedKey ∧
      (key s 6).any (fun k => k.material == (List.range 32).map (BitVec.ofNat 8)) = true := by decide +kernel

/-- A key made by the engine in slot 9, and a new key of node 0x300. -/
theorem witness_KeysCiphersAndSignatures_gen_and_new :
    (let s := secCmd 0x50 9 64 []
     let b := slice [3, 0x10, 0, 4] 0 64
     recordBad s 9 false b = false ∧ bit (leAt b 3 1) 2 = true ∧ bit (leAt b 3 1) 1 = false ∧ pkBehind s (request 1 0x50 9 64 []) = false ∧ s.sec.pkRun = none ∧ s.sec.pkq = []) ∧
    (let r := nodeRef 0x300
     let s := cfg (secCmd 0x50 r 64 []) [(F.SEC_KPOL_NEWKEY_EN, 1)]
     let c := request 1 0x50 r 64 []
     let b := slice ([1, 1, 0, 2, 0, 0, 0, 0] ++ List.replicate 16 7) 0 64
     findCmd s 1 = some c ∧ D.op c = 0x50 ∧ startable s c = true ∧ cmdBar s c = none ∧ D.res c = r ∧ refOk r = true ∧ bit r 31 = true ∧ ownsRef s c.fn r = true ∧
       recordBad s r false b = false ∧ bit (leAt b 3 1) 1 = true ∧ isSet s F.SEC_KPOL_NEWKEY_EN = true ∧ ctxNames s r = false) := by decide +kernel

/-- A CCM part that is neither first nor last on context 2, of associated data or of text. -/
def middlePart (op : Nat) (ad : Bool) : State :=
  let x : Ctx := { ref := 3, gen := 1, nonce := List.replicate 13 0, mac := List.replicate 16 0, msgLeft := 20, adLeft := if ad then 20 else 0, tlen := 16 }
  let s := secCmd op 3 20 [if ad then 4 else 0, 0, 2, 0]
  { s with sec := { s.sec with sram := [(2, x)] } }

theorem witness_KeysCiphersAndSignatures_parts : ∀ op ∈ [0x52, 0x53], ∀ ad : Bool,
    let s := middlePart op ad
    let c := request 1 op 3 20 [if ad then 4 else 0, 0, 2, 0]
    findCmd s 1 = some c ∧ D.op c = op ∧ startable s c = true ∧ cmdBar s c = none ∧ ctxBehind s c 2 = false ∧ D.at c 26 2 = 2 ∧
      bit (D.at c 24 1) 0 = false ∧ bit (D.at c 24 1) 1 = false ∧ bit (D.at c 24 1) 2 = ad ∧
      (sram s 2).any (fun x => (key s x.ref).isSome && x.msgLeft == D.len c && x.adLeft == (if ad then D.len c else 0)) = true := by decide +kernel

/-- The next part of a context whose key has been replaced. -/
theorem witness_KeysCiphersAndSignatures_replaced : ∀ op ∈ [0x52, 0x53],
    let s := { middlePart op false with sec := { (middlePart op false).sec with keys := [(3, { type := 1, use := 3, tlen := 3, material := List.replicate 16 0, gen := 2 })] } }
    let c := request 1 op 3 20 [0, 0, 2, 0]
    findCmd s 1 = some c ∧ startable s c = true ∧ cmdBar s c = none ∧ ctxBehind s c 2 = false ∧ bit (D.at c 24 1) 0 = false ∧
      (sram s 2).any (fun x => (key s x.ref).any (fun k => k.gen == x.gen) == false) = true := by decide +kernel

/-- ECDH into key slot 7, for AES keys of the host. -/
theorem witness_KeysCiphersAndSignatures_ecdh_slot :
    let s := secCmd 0x5A 5 64 [7, 0, 0, 8]
    let c := request 1 0x5A 5 64 [7, 0, 0, 8]
    findCmd s 1 = some c ∧ D.op c = 0x5A ∧ startable s c = true ∧ cmdBar s c = none ∧ bit (D.at c 26 1) 0 = false ∧
      useOk false 2 ((List.range 7).findIdx fun j => D.at c 27 1 == 2 ^ j) = true ∧ ownsKey s c.fn (D.at c 24 2) = true ∧ ctxNames s (D.at c 24 2) = false ∧
      keyBar s 5 Use.ecdh = none := by decide +kernel

/-- The engine's operations 2 and 3 as their commands ask for them. -/
def pkOf (op : Nat) (c : Cmd) (buf : List Byte) : State :=
  let s := { engines with cmds := [{ c with st := .engine }] }
  { s with sec := { s.sec with pkRun := some { uid := 1, fn := 0, op := op, buf := buf, scalar := 1 } } }

theorem witness_KeysCiphersAndSignatures_done_more :
    (let s := pkOf 2 (request 1 0x5A 5 64 [0, 0, 1]) (List.replicate 64 0)
     s.sec.pkRun.any (fun o => o.op == 2 && (findCmd s o.uid).any fun c => c.uid == 1 && bit (D.at c 26 1) 0) = true ∧ s.sec.pkq = []) ∧
    (let s := pkOf 3 (request 1 0x50 9 64 []) (slice [3, 0x10, 0, 4] 0 64)
     s.sec.pkRun.any (fun o => o.op == 3 && !bit (leAt o.buf 3 1) 0 && !bit (leAt o.buf 3 1) 1) = true ∧ s.sec.pkq = [] ∧
       ctxNames s 9 = false ∧ writesLeft s 1 = false ∧ (key s 9).any (·.persist) = false) ∧
    engines.sec.pkRun = none := by decide +kernel

theorem witness_KeysCiphersAndSignatures_settled : reach engines (R.SEC_BSRC 3) = true ∧ Settled engines ∧ Settled (secCmd 0x52 3 32 (ccmMore 3)) ∧
    Settled (pkRunning 1) ∧ (∀ b, Settled (moving b)) ∧ ∀ b, Settled (deleting b) :=
  ⟨by decide +kernel, settled_of_check (by decide +kernel), settled_of_check (by decide +kernel), settled_of_check (by decide +kernel),
    fun b => settled_of_check (by revert b; decide +kernel), fun b => settled_of_check (by revert b; decide +kernel)⟩
/-! ### Witnesses: store, clock, ports, Jiroth -/

/-- A write of four bytes to row 5 of bank 7 is in progress; the bank is read-only or not. -/
def writingRow (ro : Bool) : State :=
  { active with nvs := { active.nvs with queue := [{ off := 4, data := [1, 2, 3, 4], copies := [(7, 5)], client := .none, started := true }],
                                         banks := [(7, { ro := ro, writes := 5000, rows := [(5, mkRow (List.replicate 64 9) 1 5)], seq := 1, ptr := 6 })] } }

/-- The same with the write still waiting. -/
def waitingRow : State := { cfg (writingRow false) [(F.NVS_STATUS_READY, 1)] with nvs := { (writingRow false).nvs with queue := (writingRow false).nvs.queue.map fun w => { w with started := false } } }

theorem witness_StoreAndClock_store :
    runningWrite active = none ∧ (∀ ro, ((runningWrite (writingRow ro)).map fun e => (e.2.copies, e.2.client == .none)) = some ([(7, 5)], true) ∧
      (nbank (writingRow ro) 7).ro = ro) ∧ domainOn active 14 = true ∧ isSet active F.NVS_STATUS_READY = false ∧ (nbank active 7).writes < 4096 ∧
    4096 ≤ (nbank (writingRow false) 7).writes ∧ (writingRow false).nvs.queue.any (·.started) = true ∧
    waitingRow.nvs.queue.any (mayStart waitingRow) = true := by decide +kernel

/-- The clock runs; a commit waits or not; the shadow is as given. -/
def clocked (pend hi : Nat) : State :=
  let s := wrN (cfg active [(F.RTC_STATUS_COMMIT_PEND, pend)]) R.RTC_SET_HI hi
  { s with rtc := { s.rtc with running := true, sec := 100 } }

theorem witness_StoreAndClock_clock :
    reach (clocked 0 0) R.RTC_SEC_LO = true ∧ reach (clocked 0 0) R.RTC_COMMIT = true ∧ isSet (clocked 1 0) F.RTC_STATUS_COMMIT_PEND = true ∧
    isSet (clocked 0 0) F.RTC_STATUS_COMMIT_PEND = false ∧ rtcShadow (clocked 0 0) < 181193932800 ∧ 181193932800 ≤ rtcShadow (clocked 0 100) ∧
    (clocked 0 0).pins.inReset = false ∧ bit (rdN active R.RTC_TAMP_CFG) 1 = false ∧ bit (rdN (wrN active R.RTC_TAMP_CFG 2) R.RTC_TAMP_CFG) 1 = true := by
  decide +kernel

/-- In reset the always-on source may change too. -/
theorem witness_StoreAndClock_reset :
    State.reset.pins.inReset = true ∧ isSet active F.RTC_STATUS_COMMIT_PEND = false ∧ getF (cfg active [(F.RTC_STATUS_SRC, 1)]) F.RTC_STATUS_SRC = 1 := by
  decide +kernel

theorem witness_StoreAndClock_settled : (∀ ro, Settled (writingRow ro)) ∧ Settled waitingRow ∧ (∀ pend < 2, Settled (clocked pend 0)) ∧
    Settled (clocked 0 100) ∧ Settled (wrN active R.RTC_TAMP_CFG 2) :=
  ⟨fun b => settled_of_check (by revert b; decide +kernel), settled_of_check (by decide +kernel), fun p _ => settled_of_check (by revert p; decide +kernel),
    settled_of_check (by decide +kernel), settled_of_check (by decide +kernel)⟩

/-- The ports are enabled, 8 data bits without parity. -/
def ports : State := cfg active [(F.UART_CFG_EN, 1), (F.UART_CFG_BITS8, 1), (F.UART_CFG_PAR, 0), (F.UART_CFG_FLOW, 0), (F.UART_CFG_NINE, 0), (F.UART_CFG_HDX, 0), (F.I2C_CFG_EN, 1)]

/-- The UART as given. -/
def uarting (u : Uart) : State := { ports with uart := u }

theorem witness_PortOperations_uart :
    (domainOn ports 16 = true ∧ isSet ports F.UART_CFG_EN = true ∧ isSet ports F.UART_CFG_NINE = false ∧ isSet ports F.UART_CFG_FLOW = false ∧
      getF ports F.UART_CFG_PAR = 0 ∧ isSet ports F.UART_CFG_BITS8 = true ∧ isSet ports F.UART_CFG_HDX = false ∧ ports.uart.rx = [] ∧ ports.uart.cur = none ∧
      ports.uart.tx = [] ∧ ports.uart.ahead = [] ∧ ports.uart.xoff = false ∧ ports.uart.coll = false) ∧
    (64 ≤ (uarting { rx := List.replicate 64 1 }).uart.rx.length) ∧
    (let u := (uarting { cur := some 65, tx := [66] }).uart
     u.cur = some 65 ∧ u.ahead = [] ∧ u.xoff = false ∧ u.coll = false ∧ u.tx.length < 64) ∧
    (64 ≤ (uarting { cur := some 65, tx := List.replicate 64 1 }).uart.tx.length) ∧
    (reach ports R.UART_TXD = true ∧ reach ports R.UART_RXD = true ∧ reach ports R.UART_CTRL = true) := by decide +kernel

/-- The I2C host as given; its bus stuck or not. -/
def i2cing (x : I2c) (stuck : Nat) : State := { cfg ports [(F.I2C_STATUS_BUS_STUCK, stuck)] with i2c := x }

/-- START with a write of two bytes. -/
def i2cWrite : Word := 0x80000000#32 ||| BitVec.ofNat 32 (2 * 2 ^ 8)

theorem witness_PortOperations_i2c :
    (∀ stuck < 2, let s := i2cing { wr := [1, 2] } stuck
      reach s R.I2C_CMD = true ∧ bit i2cWrite.toNat 31 = true ∧ s.i2c.busy = none ∧ isSet s F.I2C_CFG_EN = true ∧ Cmd.wlen i2cWrite ≤ 32 ∧
        Cmd.rlen i2cWrite ≤ 32 ∧ Cmd.wlen i2cWrite ≤ s.i2c.wr.length ∧ s.i2c.rd.length + Cmd.rlen i2cWrite ≤ 32 ∧
        (isSet s F.I2C_STATUS_BUS_STUCK = true ↔ stuck = 1)) ∧
    ((i2cing { busy := some i2cWrite } 0).i2c.busy ≠ none ∧ reach ports R.I2C_CFG = true ∧ domainOn ports 16 = true) ∧
    (reach ports R.I2C_WDATA = true ∧ ports.i2c.wr.length < 32 ∧ 32 ≤ (i2cing { wr := List.replicate 32 1 } 0).i2c.wr.length) ∧
    (reach ports R.I2C_RDATA = true ∧ ports.i2c.rd = [] ∧ (i2cing { rd := [7, 8] } 0).i2c.rd = 7 :: [8]) := by decide +kernel

/-- GO of a READ of eight bytes. -/
def flashRead : Word := 0x80000000#32 ||| BitVec.ofNat 32 (8 * 2 ^ 16 + 3)

theorem witness_PortOperations_spi :
    (let s := cfg ports [(F.SPI_F_STATUS_OWN, 0)]
     reach s R.SPI_F_CMD = true ∧ bit flashRead.toNat 31 = true ∧ isSet s F.SPI_F_STATUS_OWN = false ∧ s.spi.busy = none ∧
      flashOk s (flashRead.toNat % 256) (bits flashRead.toNat 24 16) = true ∧ flashOk s 0xFF 8 = false) ∧
    (let s := { ports with spi := { ports.spi with busy := some flashRead } }
     s.spi.busy = some flashRead ∧ flashRead.toNat % 256 = 0x03 ∧ 4 * 0 + 4 ≤ min 8 (bits flashRead.toNat 24 16)) ∧
    (ports.pins.inReset = false ∧ (R.GLB_STATUS / 4 * 4 + 4 * 0 < 0x8000 ∧ reach ports (R.GLB_STATUS / 4 * 4) = true)) ∧
    (targetMayWrite (R.SPI_T_B2H 0) = true ∧ targetMayWrite R.GLB_STATUS = false) ∧ reach ports R.SPI_T_CTRL = true := by decide +kernel

/-- The UART's other forms: nine bits muted, flow control, half duplex with its echo, the receive FIFO nearly full. -/
theorem witness_PortOperations_forms :
    (let s := cfg ports [(F.UART_CFG_NINE, 1), (F.UART_CFG_MUTE, 1)]
     isSet s F.UART_CFG_NINE = true ∧ isSet s F.UART_CFG_MUTE = true) ∧
    (∀ e ∈ [(false, 10), (true, 10), (false, 63)], let s := { cfg ports [(F.UART_CFG_FLOW, 1), (F.UART_FLOW_RX_HI, 48), (F.UART_FLOW_RX_LO, 8)] with
        uart := { rx := List.replicate e.2 1, sentXoff := e.1 } }
     isSet s F.UART_CFG_FLOW = true ∧ s.uart.rx.length < 64 ∧ s.uart.sentXoff = e.1) ∧
    (∀ echo < 2, let s := { cfg ports [(F.UART_CFG_HDX, 1), (F.UART_CFG_ECHO, echo)] with uart := { cur := some 65 } }
     isSet s F.UART_CFG_HDX = true ∧ (isSet s F.UART_CFG_ECHO = true ↔ echo = 1) ∧ s.uart.cur = some 65 ∧ domainOn s 16 = true ∧
       isSet s F.UART_CFG_NINE = false ∧ isSet s F.UART_CFG_FLOW = false ∧ getF s F.UART_CFG_PAR = 0 ∧ isSet s F.UART_CFG_BITS8 = true ∧ s.uart.rx.length < 64) ∧
    (∀ l ∈ [([] : List Nat), [7]], (uarting { rx := l }).uart.rx = l) ∧
    (let s := setPg ports 16 false
     domainOn s 16 = false ∧ ports.uart.cur = none ∧ ports.i2c.busy = none ∧ ports.spi.busy = none ∧ isSet (cfg ports [(F.I2C_CFG_EN, 0)]) F.I2C_CFG_EN = false) ∧
    (bit (0x1#32).toNat 31 = false ∧ bit (0xFFFF_FFFE#32).toNat 0 = false) ∧
    (∀ op ∈ [0x03, 0x6B, 0x02, 0x05], flashOk (cfg ports [(F.SPI_F_STATUS_OWN, 0)]) op 8 = true) ∧
    (flashOk ports 0x02 256 = true ∧ flashOk ports 0x02 257 = false ∧ flashOk ports 0x03 0 = false) := by decide +kernel

/-- Frames of the target port: eight words to the mailbox, to the control register, one edge short, one word too far. -/
theorem witness_PortOperations_target :
    (∀ i < 8, targetMayWrite (0x5C40 / 4 * 4 + 4 * i) = true) ∧ 0x5C40 ≤ 0x5C5C ∧ 0x5C5C < 0x5C40 + 4 * 8 ∧ targetMayWrite (R.SPI_T_CTRL / 4 * 4) = true ∧
    targetMayWrite (0x5C40 + 4 * 8) = false ∧ 24 + 32 * 1 ≠ 55 ∧ ports.pins.inReset = false ∧ domainOn ports 16 = true := by decide +kernel

theorem witness_PortOperations_settled : Settled ports ∧ Settled (uarting { cur := some 65, tx := [66] }) ∧ (∀ st < 2, Settled (i2cing { wr := [1, 2] } st)) :=
  ⟨settled_of_check (by decide +kernel), settled_of_check (by decide +kernel), fun st _ => settled_of_check (by revert st; decide +kernel)⟩

/-- Jiroth with its input segment in service, at this ring position, both lanes locked. -/
def onRing (pos : Nat) : State :=
  cfg active [(F.JIR_CTRL_EN, 1), (F.JIR_STATUS_SEG_IN_OK, 1), (F.JIR_STATUS_LANE_LOCK, 3), (F.JIR_STATUS_POS, pos), (F.JIR_CTRL_MASTER, b2n (pos == 0))]

theorem witness_JirothRing :
    (∀ pos < 2, jirOn (onRing pos) = true ∧ (onRing pos).jir.failed = false ∧ jirRx (onRing pos) = true ∧ jirMaster (onRing pos) = (pos == 0) ∧
      jirPos (onRing pos) = pos ∧ (onRing pos).jir.twoMasters = false ∧ (onRing pos).streams = []) ∧
    (∀ en < 2, isSet (cfg (onRing 1) [(F.VET_CTRL_EN, en)]) F.VET_CTRL_EN = (en == 1)) ∧
    (reach active R.JIR_CMD = true ∧ jirRx (cfg active [(F.JIR_CTRL_EN, 0)]) = false) ∧
    (let s := cfg (onRing 1) [(F.JIR_STATUS_LANE_LOCK, 0), (F.JIR_STATUS_SEG_IN_OK, 0)]
     jirOn s = true ∧ s.jir.failed = false ∧ getF s F.JIR_STATUS_LANE_LOCK ≠ 3) := by decide +kernel

/-- Its other states: one lane locked before the other; a second master heard; the boundary of another cycle at the same instant. -/
theorem witness_JirothRing_more :
    (∀ l < 2, let s := cfg (onRing 0) [(F.JIR_STATUS_LANE_LOCK, 1 + l), (F.JIR_STATUS_SEG_IN_OK, 0)]
     jirOn s = true ∧ s.jir.failed = false ∧ isSet s F.JIR_STATUS_SEG_IN_OK = false ∧ getF s F.JIR_STATUS_LANE_LOCK = 1 + l) ∧
    (let s := { onRing 1 with jir := { (onRing 1).jir with twoMasters := true } }
     jirRx s = true ∧ jirMaster s = false ∧ s.jir.twoMasters = true) ∧
    (let s := onRing 1
     cidxOk s = true ∧ cidxNow s ≠ 5 ∧ 4 * ((s.mains.zc : Int) - s.mains.zc).natAbs < holdPeriod s ∧ jirPos s ≠ 0) ∧
    (let s := { onRing 1 with jir := { (onRing 1).jir with failed := true } }
     s.jir.failed = true ∧ jirRx active = false ∧ jirOn (cfg active [(F.JIR_CTRL_EN, 0)]) = false) ∧
    (∀ k < 2, let s := cfg (onRing 1) [(F.CLK_STRAP_CLKSEL, 1 + k)]; getF s F.CLK_STRAP_CLKSEL = 1 ∨ getF s F.CLK_STRAP_CLKSEL = 2) := by decide +kernel

theorem witness_JirothRing_settled : ∀ pos < 2, Settled (onRing pos) := fun pos _ => settled_of_check (by revert pos; decide +kernel)

/-! ### Ill-formed commands, the table's words, and worked examples of the spec -/

theorem smoke_ill_formed :
    wellFormed (.domainPowerGood 1) = false ∧ wellFormed (.domainPowerGood 21) = false ∧ wellFormed (.domainPgTimeout 0) = false ∧
    wellFormed (.linkTrained 4 1) = false ∧ wellFormed (.linkTrained 2 3) = false ∧ wellFormed (.carrierSenseCheck 0 24) = false ∧
    wellFormed (.descriptorFetch 0 0 [] false) = false ∧ wellFormed (.send 1 (List.replicate 509 0)) = false ∧
    wellFormed (.poll 1 (List.replicate 509 0)) = false ∧ wellFormed (.flood 1 (List.replicate 509 0)) = false ∧
    wellFormed (.relay 1 (List.replicate 509 0)) = false ∧ wellFormed (.sessionOpen 1 (List.replicate 63 0)) = false ∧
    wellFormed (.sessionModify 1 []) = false ∧ wellFormed (.dirWrite 1 []) = false ∧ wellFormed (.capArm 1 []) = false ∧
    wellFormed (.i2cTransactionDone 7 0 []) = false ∧ wellFormed (.spiTargetRead 0 0) = false := by decide +kernel

theorem smoke_well_formed :
    wellFormed (.domainPowerGood 20) = true ∧ wellFormed (.linkTrained 3 4) = true ∧ wellFormed (.send 1 (List.replicate 508 0)) = true ∧
    wellFormed (.sessionOpen 1 (List.replicate 64 0)) = true ∧ wellFormed (.spiTargetRead 0 1) = true := by decide +kernel

theorem test_no_word_spells_a_command (nbits w : Nat) : decodeTableWord nbits w = none := rfl

/-- Preamble of 16 symbols, slots of 4 cycles, the mains at 50 Hz. -/
def exampleState : State :=
  let s := cfg active [(F.COD_FRAME_CFG_PRE8, 2), (F.MAC_SLOT_CFG_SLOT_C, 2)]
  { s with mains := { s.mains with freq := 50 * 65536 } }

/-- The worked example under R193: one Robust-4 copy of LEN 40 has 968 symbols, the frame 3,878. -/
theorem test_robust_frame_length : preLen exampleState = 16 ∧ frameLen exampleState 2 40 = 968 ∧ airLen exampleState 2 40 = 3878 := by decide +kernel

/-- The worked example under R263: the poll of LEN 24 has 712 symbols, and with a reply of 40 the exchange takes nine slots. -/
theorem test_exchange_slots :
    frameLen exampleState 1 24 = 712 ∧
    (planX exampleState 0 1 50331648 220 [⟨0, 0⟩] 0 712 (some 968) 8 none).slots = 9 ∧
    (planX exampleState 0 1 50331648 220 [⟨0, 0⟩] 0 712 (some 968) 8 none).lanes.map (fun l => (l.2.1, l.2.2.1, l.2.2.2)) = [(slotCycle exampleState 0 + 14, 47, 26)] := by
  decide +kernel

/-- The worked example under R285: the link from the root to the relay costs 54, the relay's to the node 98, and one heard one way 100. -/
theorem test_link_costs :
    (let s := { active with mesh := { active.mesh with links := [(linkKey 1 2, { rep := some (19, 3, 1) }), (linkKey 2 1, { rep := some (22, 1, 0) }),
       (linkKey 2 3, { rep := some (12, 5, 2) }), (linkKey 3 2, { rep := some (14, 4, 1) }), (linkKey 4 3, { rep := some (20, 2, 0) })] } }
     linkCost s 1 2 = 54 ∧ linkCost s 2 3 = 98 ∧ linkCost s 4 3 = 100) := by decide +kernel

/-- The worked example under R411: H = 0x2FFF0; SEQ 0x005 is counter 0x30005, SEQ 0xFE2 is 0x2FFE2 and was seen. -/
theorem test_counter_window :
    counterOf 0x2FFF0 0x005 = some 0x30005 ∧ counterOf 0x2FFF0 0xFE2 = some 0x2FFE2 ∧
    RxCtr.fresh { h := 0x2FFF0, win := 2 ^ 14, empty := false } 0x2FFE2 = false ∧
    RxCtr.fresh { h := 0x2FFF0, empty := false } 0x30005 = true := by decide +kernel

/-- The worked example under R208: 1.80 ohms ask for 11.00 dB, 6.0 ohms for 0.50 dB. -/
theorem test_current_limit_attenuation : attI active (81 / 25) = 11 * 4 ∧ attI active 36 = 2 := by decide +kernel

/-- R209: with REP = 4 and GAP = 2 the wake preamble has 130 wake bits. -/
theorem test_wake_bits : wakeBits active = 130 := by decide +kernel

/-- The amplitude words of R201's table. -/
theorem test_amplitude_words : [1, 2, 4, 8, 16, 32].map (fun n => ampWord (tableLevel n)) = [127503, 63903, 36984, 22673, 14306, 9026] := by
  decide +kernel

/-- The worked example of CMP_LW8 under R168: s of 20, 5 and 1.25 reads 52, 28 and 4; 0 at 1 and below, full scale stays in the byte. -/
theorem test_snr_quarter_decibels : [20, 5, 5 / 4, 1, 0].map snrQuarterDb = [52, 28, 4, 0, 0] ∧ snrQuarterDb 1024 = 120 := by decide +kernel

/-- R470's worked example: 868 cycles a bit at the reset baud rate; a start bit, 0x43 from its least significant bit, even parity, one stop bit. -/
theorem test_uart_character :
    uartBit ports = 868 ∧ uartFrame (cfg ports [(F.UART_CFG_PAR, 1)]) 0x43 =
      [false, true, true, false, false, false, false, true, false, true, true] := by decide +kernel

/-- A torn commit field is no commit, and the old row still reads (R451). -/
theorem test_torn_row :
    let x : Bank := { rows := [(0, mkRow [1] 1 3)], seq := 1, ptr := 1 }
    (liveRow (tearRow x 3 [2] 0) 3).map Prod.fst = some 0 ∧ (liveRow (programRow x 3 [2]) 3).map Prod.fst = some 1 ∧
      (scanBank (programRow x 3 [2])).rows.length = 1 := by decide +kernel

theorem witness_BootStepsSixAndNineToEleven_signed :
    (match verifyXaton keyed (signedXaton [] 12331492605520789040415754759983152049502787556167463266355394118633695789834164790343676585595475678492907260864086088507227926064393276526696599125799603) with
      | .ok (some []) => true | _ => false) = true := by decide +kernel

theorem witness_BootStepsSixAndNineToEleven_subsys :
    (match verifyXaton keyed (signedXaton [4, 0, 4, 0, 0xF4, 0x1A, 0x01, 0x10] 12331492605520789040415754759983152049502787556167463266355394118633695789834182699823423046743960010272413813089652184755690023736814189953093381102349155) with
      | .ok (some [.subsys 0x1AF4 0x1001]) => true | _ => false) = true := by decide +kernel

theorem witness_BootStepsSixAndNineToEleven_ref :
    (match verifyXaton keyed (signedXaton [5, 0, 8, 0, 2, 0, 0, 0, 0x78, 0x56, 0x34, 0x12] 12331492605520789040415754759983152049502787556167463266355394118633695789834217067333671605217711907690073558279013281118350041057115701992636704834359999) with
      | .ok (some [.ref 2 0x12345678#32]) => true | _ => false) = true ∧ committed keyed 2 = false := by decide +kernel

end Sys2Proof.Tests
end

namespace Sys2Proof.Machine

/-! ### A whole-dword write through a function's BAR0 -/

/-- An aligned dword write to an offset that is the function's own to write goes to the device's registers (R346, R500). -/
theorem exec_registerWrite_dword {s : State} {fn : Fin 8} {off o : Nat} (v : Word) (hbar : barOffset fn.val off = some o)
    (hfn : fnHere s fn.val = true) (halign : o % 4 = 0) (hown : fn ≠ 0 ∨ o < 0x9000) :
    exec (.registerWrite fn off v 15) s = done (hostWrite s fn.val o v) := by
  have hreset : s.pins.inReset = false := by
    simp only [fnHere, Bool.and_eq_true, Bool.not_eq_true'] at hfn
    exact hfn.1.1
  have hwin : ¬ (fn.val = 0 ∧ 0x9000 ≤ o) := by
    rintro ⟨hzero, hhigh⟩
    rcases hown with h | h
    · exact h (Fin.ext hzero)
    · omega
  show execRegisterWrite fn off v 15 s = _
  simp only [execRegisterWrite, hbar]
  rw [if_neg (by simp [hreset, hfn]), if_neg (by simp [halign]), if_neg hwin]

/-- A register that answers and acts on its own block alone takes the write, its parity restored unless its set is locked (R81). -/
theorem hostWrite_of_reach {s : State} {o : Nat} (fn : Nat) (v : Word) (hreach : reach s o = true) (hreset : o ≠ R.GLB_RESET)
    (hpwr : o ≠ R.PWR_CTRL) (hpgm : o ≠ R.OTP_PGM_CMD) :
    hostWrite s fn o v = writeReg (if lockedOff s o then s else rewritten s o) fn o v := by
  simp only [hostWrite, hreset, hpwr, hpgm, if_false]
  exact readAccess_reach _ hreach

/-- An unused offset takes nothing (R501). -/
theorem writeReg_unused {o : Nat} (s : State) (fn : Nat) (v : Word) (hunused : regAt o = none) : writeReg s fn o v = s := by
  simp [writeReg, hunused]

/-- What a write to an unused offset leaves: the parity marks of the offset go, but not where it belongs to a locked covered set, for
`access` asks the lock before the register map is searched. -/
theorem exec_registerWrite_unused {s : State} {fn : Fin 8} {off o : Nat} (v : Word) (hs : Settled s)
    (hbar : barOffset fn.val off = some o) (hfn : fnHere s fn.val = true) (halign : o % 4 = 0) (hown : fn ≠ 0 ∨ o < 0x9000)
    (hreach : reach s o = true) (hunused : regAt o = none) :
    exec (.registerWrite fn off v 15) s = .next (if lockedOff s o then s else rewritten s o) := by
  have used {r : Nat} (hr : regAt r ≠ none) : o ≠ r := fun h => hr (h ▸ hunused)
  rw [exec_registerWrite_dword v hbar hfn halign hown,
    hostWrite_of_reach fn.val v hreach (used (by decide)) (used (by decide)) (used (by decide)), writeReg_unused _ _ _ hunused]
  split
  · exact done_of_settled hs
  · exact done_of_settled (hs.rewritten o)

/-! ### An unused offset inside a locked set -/

/-- An unused dword between TEN_GRANT of function 0 and the tenancy registers of function 1: no register lies there, and covered set 1
takes in unused offsets (R505). -/
def tenancyGap : Nat := R.TEN_GRANT 0 + 4

/-- Out of reset with the tenancy set locked (GLB_LOCK.TEN). -/
def tenancyLocked : State :=
  wrN { State.reset with pins := { State.reset.pins with porstLow := false, inReset := false } } R.GLB_LOCK 2

/-- The same after a parity sweep has named the shadow copy at the gap. -/
def gapMarked : State := { tenancyLocked with par := { shadowBad := [tenancyGap] } }

theorem settled_gapMarked : Settled gapMarked := settled_empty rfl rfl

/-- The marked state comes about: PARITY_SWEEP answers it when it reports the gap's shadow copy (R80). -/
theorem exec_paritySweep_tenancyLocked : exec (.paritySweep [] [tenancyGap]) tenancyLocked = .next gapMarked :=
  done_of_settled settled_gapMarked

theorem tenancyGap_unused : regAt tenancyGap = none := by decide

theorem reach_gapMarked : reach gapMarked tenancyGap = true := by decide

theorem lockedOff_gapMarked : lockedOff gapMarked tenancyGap = true := by decide

/-- Restoring the gap's parity would drop its mark. -/
theorem gapMarked_ne_rewritten : gapMarked ≠ rewritten gapMarked tenancyGap := fun h =>
  absurd (congrArg (fun s : State => s.par.shadowBad) h) (by decide)

/-- Refutes O24: its clause on unused offsets asks that a write always restores the parity of its offset. Covered set 1 has unused offsets
(R505), and where the set is locked `access` restores nothing: with GLB_LOCK.TEN set and the shadow copy at 0x3C78 marked, the write leaves
the state as it is, mark included. -/
theorem not_registerAccessesFollowTheirCodes : ¬ Obligations.RegisterAccessesFollowTheirCodes := by
  unfold Obligations.RegisterAccessesFollowTheirCodes
  intro h
  have hbar : barOffset (0 : Fin 8).val tenancyGap = some tenancyGap := by decide
  have hfn : fnHere gapMarked (0 : Fin 8).val = true := by decide
  have hown : (0 : Fin 8) ≠ 0 ∨ tenancyGap < 0x9000 := by decide
  obtain ⟨-, -, write, -⟩ := h gapMarked 0 tenancyGap tenancyGap 0 15 settled_gapMarked hbar hfn
  obtain ⟨unused, -⟩ := write (by decide) reach_gapMarked (by decide) (by decide) (by decide) hown
  obtain ⟨t, hexec, ht⟩ := unused tenancyGap_unused
  have hkept : exec (.registerWrite 0 tenancyGap 0 15) gapMarked = .next gapMarked := by
    rw [exec_registerWrite_unused 0 settled_gapMarked hbar hfn (by decide) hown reach_gapMarked tenancyGap_unused, if_pos lockedOff_gapMarked]
  have hsame : t = gapMarked := by
    rw [hexec] at hkept
    injection hkept
  exact gapMarked_ne_rewritten (hsame.symm.trans ht)

end Sys2Proof.Machine

namespace Sys2Proof.Machine

/-! ### Commands of the directory and of the performance records -/

/-- A command that may start and that nothing bars runs its meaning (R353, R365, R379). -/
theorem withCmd_ready {s : State} {uid op : Nat} {c : Cmd} (f : State → Cmd → State) (h : Ready s uid op c) : withCmd s uid op f = f s c := by
  obtain ⟨hfind, hop, hstart, hbar⟩ := h
  simp [withCmd, hfind, hop, hstart, hbar]

/-- A command whose meaning ends it from a settled state completes so, with no mute to carry out. -/
theorem completes_of_ends {i : Instr} {s u : State} {c : Cmd} {st d len : Nat} {P : State → Prop} (hexec : exec i s = done (complete u c st d len))
    (hu : Settled u) (hP : P (complete u c st d len)) : Completes i s P :=
  completes_settled hexec (hu.of_host (hostOnly_complete u c st d len)) hP

/-- What is posted, and the directory, mute nothing. -/
theorem Settled.post {s : State} (h : Settled s) (o : Output) : Settled (post s o) := h.congr rfl rfl fun _ => rfl

theorem Settled.updMesh {s : State} (h : Settled s) (f : Mesh → Mesh) : Settled (updMesh s f) := h.congr rfl rfl fun _ => rfl

/-! #### The 32 bytes of a record (R296) -/

@[simp] theorem length_toLE (n x : Nat) : (toLE n x).length = n := by
  induction n generalizing x with
  | zero => rfl
  | succ n ih => simp [toLE, ih]

theorem leNat_toLE (n x : Nat) : leNat (toLE n x) = x % 256 ^ n := by
  induction n generalizing x with
  | zero => simp [toLE, leNat, Nat.mod_one]
  | succ n ih =>
    rw [pow_succ', Nat.mod_mul, ← ih]
    simp [toLE, leNat]

/-- A field reads as it was laid down. -/
theorem leAt_append (p q : List Byte) (n x : Nat) : leAt (p ++ (toLE n x ++ q)) p.length n = x % 256 ^ n := by
  simp [leAt, slice, ← leNat_toLE]

theorem length_dirBytes (s : State) (r : DirRec) : (dirBytes s r).length = 32 := by
  simp [dirBytes, List.length_flatMap]

/-- A record begins with a word that holds the address in its low 18 bits, and its cost (R296). -/
theorem dirBytes_eq (s : State) (r : DirRec) :
    ∃ id rest, dirBytes s r = toLE 4 id ++ (toLE 2 r.cost ++ rest) ∧ id % 2 ^ 18 = r.addr % 2 ^ 18 := by
  unfold dirBytes
  cases r.policy <;> simp only [List.append_assoc] <;> exact ⟨_, _, rfl, by omega⟩

theorem leAt_dirBytes_addr (s : State) (r : DirRec) : leAt (dirBytes s r) 0 4 % 2 ^ 18 = r.addr % 2 ^ 18 := by
  obtain ⟨id, rest, hbytes, hid⟩ := dirBytes_eq s r
  have hfield := leAt_append [] (toLE 2 r.cost ++ rest) 4 id
  rw [hbytes, ← hid]
  simp only [List.nil_append, List.length_nil] at hfield
  omega

theorem leAt_dirBytes_cost (s : State) (r : DirRec) : leAt (dirBytes s r) 4 2 = r.cost % 2 ^ 16 := by
  obtain ⟨id, rest, hbytes, -⟩ := dirBytes_eq s r
  simpa [hbytes] using leAt_append (toLE 4 id) rest 2 r.cost

/-! #### The four commands -/

/-- The owner of an address, and function 0, are not refused (R383). -/
theorem owner_passes {s : State} {c : Cmd} {a : Nat} (h : ownerOf s a = c.fn ∨ c.fn = 0) : ¬ (ownerOf s a ≠ c.fn ∧ c.fn ≠ 0) := by
  tauto

theorem exec_dirRead_found {s : State} {uid : Nat} {c : Cmd} {r : DirRec} (hc : Ready s uid 0x30 c) (hown : ownerOf s (D.res c) = c.fn ∨ c.fn = 0)
    (hr : dirFind s (D.res c) = some r) :
    exec (.dirRead uid) s = done (complete (post s (.hostWrite c.fn (D.buf c) (dirBytes s r))) c St.done 0 32) := by
  show execDirRead uid s = _
  simp only [execDirRead, withCmd_ready _ hc, if_neg (owner_passes hown), hr]

/-- What an address without a record reads as is the model's choice (log entry 71): 32 free bytes. -/
theorem exec_dirRead_absent {s : State} {uid : Nat} {c : Cmd} (hc : Ready s uid 0x30 c) (hown : ownerOf s (D.res c) = c.fn ∨ c.fn = 0)
    (hr : dirFind s (D.res c) = none) :
    exec (.dirRead uid) s = done (complete (usedFree (post s (.hostWrite c.fn (D.buf c) (freeBytes s 32)))) c St.done 0 32) := by
  show execDirRead uid s = _
  simp only [execDirRead, withCmd_ready _ hc, if_neg (owner_passes hown), hr]

/-- A record whose address has none goes to the first free place of its buckets (R299). -/
theorem dirInsert_new {s : State} {r : DirRec} {p : Nat} (lim : Nat) (hnew : dirFind s r.addr = none)
    (hfree : freePlace s (homes s r.addr) = some p) : dirInsert s r lim = some (setPlace s p r) := by
  simp [dirInsert, placeRec, hnew, hfree]

/-- A record of an address that has one takes its place (R299). -/
theorem dirInsert_known {s : State} {r o : DirRec} {p : Nat} (lim : Nat) (hold : dirFind s r.addr = some o)
    (hplace : dirPlace s r.addr = some p) : dirInsert s r lim = some (setPlace s p r) := by
  have hp : fget s.mesh.tables p = some o := by simpa [dirFind, hplace] using hold
  simp [dirInsert, dirUpdate, hold, hplace, hp]

/-- PIN, HMAX and the relays of a record's bytes (R296). -/
def recPin (b : List Byte) : Bool := bit (leAt b 0 4) 23
def recHmax (b : List Byte) : Nat := leAt b 6 1 / 16
def recRelays (b : List Byte) : List Nat := (List.range (leAt b 6 1 % 8)).map fun i => leAt b (7 + 3 * i) 3

/-- The hop limit that a pinned route of the record must keep (R281). -/
def recLimit (s : State) (b : List Byte) : Nat := if recHmax b = 0 then hMax s else min (hMax s) (recHmax b)

/-- A record as a host's bytes change it: RLY at once, its policy at the next epoch boundary (R25, R287). -/
def DirRec.written (o : DirRec) (b : List Byte) : DirRec :=
  { o with rly := bit (leAt b 0 4) 22, learned := false, policy := some (recPin b, recHmax b, recRelays b) }

/-- The record that a write makes for an address that has none. -/
def freshRec (s : State) (a : Nat) : DirRec := { addr := a, epoch := epochNow s, dev := jirPos s }

/-- A pinned route of the record names a relay that the address's owner does not own (R383). -/
def RelaysForeign (s : State) (a : Nat) (b : List Byte) : Prop := recPin b = true ∧ relaysOwned s (ownerOf s a) (recRelays b) = false

/-- Nothing refuses the write before its relays' owner is asked: the address, its owner, the bytes and the pinned route (R281, R299, R354). -/
structure WriteAdmitted (s : State) (c : Cmd) (b : List Byte) : Prop where
  pos : 1 ≤ D.res c
  lt : D.res c < 0x3FFFF
  own : ownerOf s (D.res c) = c.fn ∨ c.fn = 0
  form : recOk (D.res c) b = true
  route : recPin b = true → relaysOk s (D.res c) (recLimit s b) (recRelays b) = true

section
variable {s : State} {uid : Nat} {c : Cmd} {buf : List Byte} (hc : Ready s uid 0x31 c) (hw : WriteAdmitted s c (slice buf 0 32))
include hc hw

/-- What an admitted write does: the relays' owner first, then the insert. -/
theorem exec_dirWrite_admitted : exec (.dirWrite uid buf) s = done (
    if recPin (slice buf 0 32) && !relaysOwned s (ownerOf s (D.res c)) (recRelays (slice buf 0 32)) then notOwned (refuseInsert s) c
    else match dirInsert s (((dirFind s (D.res c)).getD (freshRec s (D.res c))).written (slice buf 0 32)) 64 with
      | none => complete (refuseInsert s) c 0x25 0 0
      | some t => complete (updMesh t fun m => { m with dirty := true }) c St.done 0 0) := by
  obtain ⟨hpos, hlt, hown, hform, hroute⟩ := hw
  have haddr : ¬ (D.res c = 0 ∨ Nat.ble 0x3FFFF (D.res c) = true) := by simp; omega
  have hbytes : ¬ (!recOk (D.res c) (slice buf 0 32) ||
      (recPin (slice buf 0 32) && !relaysOk s (D.res c) (recLimit s (slice buf 0 32)) (recRelays (slice buf 0 32)))) = true := by
    simpa [hform] using hroute
  show execDirWrite uid buf s = _
  simp only [execDirWrite, withCmd_ready _ hc, if_neg haddr, if_neg (owner_passes hown)]
  exact congrArg done (if_neg hbytes)

theorem exec_dirWrite_foreign (hf : RelaysForeign s (D.res c) (slice buf 0 32)) :
    exec (.dirWrite uid buf) s = done (complete (refuseInsert s) c St.partition 0 0) := by
  rw [exec_dirWrite_admitted hc hw, if_pos (by simp [hf.1, hf.2])]
  rfl

theorem exec_dirWrite_inserted {t : State} (hf : ¬ RelaysForeign s (D.res c) (slice buf 0 32))
    (ht : dirInsert s (((dirFind s (D.res c)).getD (freshRec s (D.res c))).written (slice buf 0 32)) 64 = some t) :
    exec (.dirWrite uid buf) s = done (complete (updMesh t fun m => { m with dirty := true }) c St.done 0 0) := by
  rw [exec_dirWrite_admitted hc hw, if_neg (by simpa [RelaysForeign] using hf), ht]

end

/-- The directory differs in one place alone, and routes are computed anew. -/
def PlaceOnly (s u : State) (p : Nat) (r : Option DirRec) : Prop :=
  { u with mesh := s.mesh } = s ∧ u.mesh = { s.mesh with tables := u.mesh.tables, dirty := true } ∧
    ∀ q, fget u.mesh.tables q = if q = p then r else fget s.mesh.tables q

theorem fget_fput {α : Type} (m : FMap α) (k q : Nat) (v : α) : fget (fput m k v) q = if q = k then some v else fget m q := by
  by_cases h : q = k
  · simp [h]
  · simp [h, fget_fput_ne m v h]

theorem fget_fdel {α : Type} (m : FMap α) (k q : Nat) : fget (fdel m k) q = if q = k then none else fget m q := by
  by_cases h : q = k
  · simp [h]
  · simp [h, fget_fdel_ne m h]

theorem placeOnly_setPlace (s : State) (p : Nat) (r : DirRec) :
    PlaceOnly s (updMesh (setPlace s p r) fun m => { m with dirty := true }) p (some r) :=
  ⟨rfl, rfl, fun q => fget_fput s.mesh.tables p q r⟩

/-- A write that is inserted completes, its record in place. -/
theorem completes_dirWrite {s : State} {uid : Nat} {c : Cmd} {buf : List Byte} {p : Nat} {r : DirRec} (hs : Settled s)
    (hexec : exec (.dirWrite uid buf) s = done (complete (updMesh (setPlace s p r) fun m => { m with dirty := true }) c St.done 0 0)) :
    Completes (.dirWrite uid buf) s fun t => Ends c St.done 0 0 t fun u => PlaceOnly s u p (some r) :=
  completes_of_ends hexec ((hs.updMesh _).updMesh _) ⟨_, rfl, placeOnly_setPlace s p r⟩

theorem exec_dirDelete_inSession {s : State} {uid : Nat} {c : Cmd} (hc : Ready s uid 0x32 c) (hown : ownerOf s (D.res c) = c.fn ∨ c.fn = 0)
    (hsess : (sess s (D.res c)).isSome = true) : exec (.dirDelete uid) s = done (complete s c St.state 0x31 0) := by
  show execDirDelete uid s = _
  simp only [execDirDelete, withCmd_ready _ hc, if_neg (owner_passes hown), if_pos hsess, wrongState]

theorem exec_dirDelete {s : State} {uid : Nat} {c : Cmd} (hc : Ready s uid 0x32 c) (hown : ownerOf s (D.res c) = c.fn ∨ c.fn = 0)
    (hsess : sess s (D.res c) = none) : exec (.dirDelete uid) s = done (complete (dirRemove s (D.res c)) c St.done 0 0) := by
  show execDirDelete uid s = _
  simp [execDirDelete, withCmd_ready _ hc, if_neg (owner_passes hown), hsess]

/-- With nothing in the stash, removing a record of the tables takes it and its address's route alone (R300). -/
theorem dirRemove_of_place {s : State} {a p : Nat} (hplace : dirPlace s a = some p) (hstash : s.mesh.stash = []) :
    dirRemove s a = updMesh s fun m => { m with tables := fdel m.tables p, routes := fdel m.routes a, dirty := true } := by
  simp [dirRemove, drainStash, hplace, updMesh, hstash]

theorem exec_pmRead {s : State} {uid : Nat} {c : Cmd} (hc : Ready s uid 0x38 c)
    (hown : c.fn = 0 ∨ (bit (D.res c) 31 = false ∧ ownerOf s (D.res c) = c.fn)) :
    let l := (pmRecords s (D.res c) (D.at c 24 1) (D.at c 25 1)).take (min (D.at c 26 1) (D.len c / 64))
    exec (.pmRead uid) s = done (complete (if l = [] then s else post s (.hostWrite c.fn (D.buf c) l.flatten)) c
      (if l.length < D.at c 26 1 then St.donePartial else St.done) 0 (64 * l.length)) := by
  have howns : ¬ (c.fn ≠ 0 ∧ (bit (D.res c) 31 = true ∨ ownerOf s (D.res c) ≠ c.fn)) := by
    rcases hown with h | ⟨h, h'⟩ <;> simp [*]
  show execPmRead uid s = _
  simp only [execPmRead, withCmd_ready _ hc, if_neg howns]

/-- Settles O55: each command is run to the state it completes from, by what it finds of the record. -/
theorem directoryAndPerformanceCommands : Obligations.DirectoryAndPerformanceCommands := by
  unfold Obligations.DirectoryAndPerformanceCommands
  intro s uid c hs
  refine ⟨fun r hc hown => ⟨fun hr => ?_, fun hr => ?_⟩, fun buf p hc hpos hlt hown hform hroute => ?_,
    fun p hc hown => ⟨fun hsess => ?_, fun hsess hplace hstash => ?_⟩, fun hc hown => ?_⟩
  · exact completes_of_ends (exec_dirRead_found hc hown hr) (hs.post _)
      ⟨dirBytes s r, length_dirBytes s r, leAt_dirBytes_addr s r, leAt_dirBytes_cost s r, rfl⟩
  · exact completes_of_ends (exec_dirRead_absent hc hown hr) (hs.congr rfl rfl fun _ => rfl) ⟨_, rfl, rfl⟩
  · have hw : WriteAdmitted s c (slice buf 0 32) := ⟨hpos, hlt, hown, hform, hroute⟩
    refine ⟨fun hf => ?_, fun hnew hfree hf => ?_, fun o hold haddr hplace hf => ?_⟩
    · exact completes_of_ends (exec_dirWrite_foreign hc hw hf) (hs.of_regs rfl) ⟨_, rfl, rfl⟩
    · refine completes_dirWrite hs (exec_dirWrite_inserted hc hw hf ?_)
      rw [hnew]
      exact dirInsert_new 64 hnew hfree
    · refine completes_dirWrite hs (exec_dirWrite_inserted hc hw hf ?_)
      rw [hold]
      rw [← haddr] at hold hplace
      exact dirInsert_known (r := o.written _) 64 hold hplace
  · exact completes_of_ends (exec_dirDelete_inSession hc hown hsess) hs rfl
  · have hexec := exec_dirDelete hc hown hsess
    rw [dirRemove_of_place hplace hstash] at hexec
    exact completes_of_ends hexec (hs.updMesh _)
      ⟨_, rfl, rfl, fget_fdel_same _ _, rfl, fun q => fget_fdel s.mesh.tables p q⟩
  · refine completes_of_ends (exec_pmRead hc hown) ?_ ⟨_, rfl, fun h => if_pos h, fun h => if_neg h⟩
    split
    · exact hs
    · exact hs.post _

end Sys2Proof.Machine

namespace Sys2Proof.Machine

/-! ### The loss of the high-voltage side leaves the lanes and the fault windows as they are -/

/-- The barrier lanes, the fault windows and the log are as before. -/
structure BarrierKept (s t : State) : Prop where
  blanes : t.blanes = s.blanes
  rel : t.rel = s.rel

namespace BarrierKept

theorem refl (s : State) : BarrierKept s s := ⟨rfl, rfl⟩

theorem trans {s t u : State} (h : BarrierKept s t) (k : BarrierKept t u) : BarrierKept s u :=
  ⟨k.blanes.trans h.blanes, k.rel.trans h.rel⟩

theorem of_regs {s t : State} (h : RegsOnly s t) : BarrierKept s t := ⟨h.blanes, h.rel⟩

theorem of_host {s t : State} (h : HostOnly s t) : BarrierKept s t := ⟨h.blanes, h.rel⟩

theorem of_capture {s t : State} (h : CaptureOnly s t) : BarrierKept s t := ⟨h.blanes, h.rel⟩

theorem ite {s a b : State} {c : Prop} [Decidable c] (ha : BarrierKept s a) (hb : BarrierKept s b) : BarrierKept s (if c then a else b) := by
  split
  · exact ha
  · exact hb

theorem foldl {α : Type} (l : List α) (f : State → α → State) (hf : ∀ u a, BarrierKept u (f u a)) (s : State) :
    BarrierKept s (l.foldl f s) := by
  induction l generalizing s with
  | nil => exact refl s
  | cons a l ih => exact (hf s a).trans (ih _)

end BarrierKept

theorem barrierKept_updSess (s : State) (n : Nat) (f : Session → Session) : BarrierKept s (updSess s n f) := by
  unfold updSess
  split
  · exact ⟨rfl, rfl⟩
  · exact .refl s

theorem barrierKept_setOnset (s : State) (code : Nat) (o : DefObj) (t : Nat × Nat) : BarrierKept s (setOnset s code o t) := by
  cases o with
  | session n => exact barrierKept_updSess s n _
  | _ => exact ⟨rfl, rfl⟩

theorem barrierKept_markDefect (s : State) (code : Nat) (o : DefObj) (b : Bool) : BarrierKept s (markDefect s code o b) := by
  cases o with
  | session n => exact barrierKept_updSess s n _
  | _ => exact ⟨rfl, rfl⟩

theorem barrierKept_markSeen (s : State) (code : Nat) (o : DefObj) : BarrierKept s (markSeen s code o) :=
  BarrierKept.ite (c := code < 2) ⟨rfl, rfl⟩ ⟨rfl, rfl⟩

theorem barrierKept_reportRaise (s : State) (code : Nat) (o : DefObj) : BarrierKept s (reportRaise s code o) := by
  refine BarrierKept.trans ?_ (.of_capture (captureOnly_reportRaise s code o))
  exact (barrierKept_setOnset s code o _).trans ((BarrierKept.of_regs (.raise (.refl _) _)).trans (barrierKept_markSeen _ code o))

theorem barrierKept_raiseWith (s : State) (code : Nat) (o : DefObj) (f : State → State) (hf : BarrierKept s (f s)) :
    BarrierKept s (raiseWith s code o f) :=
  .ite hf (hf.trans (barrierKept_reportRaise _ code o))

theorem barrierKept_losAll (s : State) : BarrierKept s (losAll s) :=
  .foldl _ _ (fun u i => .ite (barrierKept_raiseWith u _ (.input i) _ (barrierKept_markDefect u _ _ _)) (.refl u)) s

theorem barrierKept_withdrawJob (s : State) (j : Job) : BarrierKept s (withdrawJob s j) := ⟨rfl, rfl⟩

theorem barrierKept_withdrawUnbegun (s : State) (uid : Nat) : BarrierKept s (withdrawUnbegun s uid) :=
  .foldl _ _ (fun u j => .ite (.refl u) (barrierKept_withdrawJob u j)) s

theorem barrierKept_freePlayer (s : State) (uid : Nat) : BarrierKept s (freePlayer s uid) := ⟨rfl, rfl⟩

/-- A command that gives up the line before its completion: its jobs that have not begun, its player, and its completion. -/
theorem barrierKept_endLineCmd (s : State) (c : Cmd) (status detail : Nat) :
    BarrierKept s (complete (freePlayer (withdrawUnbegun s c.uid) c.uid) c status detail 0) :=
  (barrierKept_withdrawUnbegun s c.uid).trans ((barrierKept_freePlayer _ c.uid).trans (.of_host (hostOnly_complete _ c status detail 0)))

theorem barrierKept_endWaiting (s : State) (code : Nat) : BarrierKept s (endWaiting s code) :=
  .foldl _ _ (fun u c => barrierKept_endLineCmd u c _ _) s

theorem barrierKept_faultLine (s : State) (detail : Nat) (onAirToo : Bool) : BarrierKept s (faultLine s detail onAirToo) :=
  .foldl _ _ (fun u c => .ite (.refl u) (barrierKept_endLineCmd u c _ _)) s

theorem barrierKept_txLimit (s : State) : BarrierKept s (txLimit s) :=
  (BarrierKept.of_regs (.raise (.refl s) _)).trans (barrierKept_endWaiting _ _)

theorem barrierKept_dropTrack (s : State) : BarrierKept s (dropTrack s) := ⟨rfl, rfl⟩

theorem barrierKept_enterHoldover (s : State) : BarrierKept s (enterHoldover s) := by
  unfold enterHoldover
  refine .ite (barrierKept_dropTrack s) ?_
  refine (barrierKept_raiseWith s Def.loms .device (fun s => setF s F.MSY_STATUS_LOCK 0) (.of_regs (.setF (.refl s) _ _))).trans ((barrierKept_dropTrack _).trans ?_)
  refine BarrierKept.trans (.of_regs (.setF (.raise (.raise (.refl _) F.MSY_EVT_LOMS_CHG) F.MSY_STATUS_HOLD) F.MSY_STATUS_HOLD_AGE 0)) ?_
  exact .ite (barrierKept_txLimit _) (.refl _)

/-- The loss of the high-voltage side is noted, and touches neither the lanes nor the windows (R17). -/
theorem loseHv_kept (s : State) : BarrierKept { s with rel := { s.rel with hvLost := true } } (loseHv s) := by
  unfold loseHv
  split
  · next hlost => exact ⟨rfl, by rw [← hlost]⟩
  · refine BarrierKept.trans ?_ (barrierKept_faultLine _ _ _)
    refine BarrierKept.trans ?_ ((barrierKept_enterHoldover _).trans (barrierKept_losAll _))
    exact .foldl _ _ (fun u p => (barrierKept_reportRaise u _ _).trans (.of_regs (.raiseBit (.refl _) _ _))) _

/-! ### A lasting fault of a lane (R16, R17, R44, R77) -/

@[simp] theorem blane_setBlane_same (s : State) (l : Nat) (x : BLane) : blane (setBlane s l x) l = x := fgetD_fput_same _ _ _ _

theorem blane_setBlane_ne (s : State) {l k : Nat} (x : BLane) (h : k ≠ l) : blane (setBlane s l x) k = blane s k := fgetD_fput_ne _ _ _ h

theorem blane_congr {s t : State} (h : t.blanes = s.blanes) (l : Nat) : blane t l = blane s l := by simp [blane, h]

/-- A lane that is not lost is not among the lost ones. -/
theorem lostLanes_filter_ne {s : State} {l : Nat} (h : (blane s l).lasting = false) : (lostLanes s).filter (fun k => k != l) = lostLanes s := by
  refine List.filter_eq_self.2 fun k hk => ?_
  have hlost : (blane s k).lasting = true := (List.mem_filter.1 hk).2
  simp only [bne_iff_ne, ne_eq]
  rintro rfl
  simp [h] at hlost

/-- Whatever follows from it, the dropped lane alone changes among the lanes (R16). -/
theorem dropLane_blanes (s : State) (l : Nat) :
    (dropLane s l).1.blanes = (setBlane s l { blane s l with lasting := true, locked := false }).blanes := by
  unfold dropLane
  dsimp only
  split
  · rfl
  · exact (loseHv_kept _).blanes

/-- The first lane in lasting fault is dropped alone (R16). -/
theorem dropLane_rel_of_first {s : State} {l : Nat} (h : (lostLanes s).filter (fun k => k != l) = []) : (dropLane s l).1.rel = s.rel := by
  unfold dropLane
  rw [if_pos h]
  rfl

/-- A second one loses the high-voltage side (R17). -/
theorem dropLane_rel_of_second {s : State} {l : Nat} (h : (lostLanes s).filter (fun k => k != l) ≠ []) :
    (dropLane s l).1.rel = { s.rel with hvLost := true } := by
  unfold dropLane
  rw [if_neg h]
  exact (loseHv_kept _).rel

theorem bit_eq_testBit (x i : Nat) : bit x i = x.testBit i := by
  rw [Nat.testBit_eq_decide_div_mod_eq]
  rfl

/-- A logged fault writes the log and REL_LOG_STAT (R517). -/
theorem faultLog_eq (s : State) (src item : Nat) (lasting : Bool) (action count : Nat) : ∃ regs log,
    faultLog s src item lasting action count = { s with regs := regs, rel := { s.rel with log := log } } := by
  have stored : ∃ log n, faultLog s src item lasting action count =
      bumpF (setF { s with rel := { s.rel with log := log } } F.REL_LOG_STAT_NEXT n) F.REL_LOG_STAT_TOTAL := by
    unfold faultLog
    exact ⟨_, _, rfl⟩
  obtain ⟨log, n, h⟩ := stored
  rw [h]
  exact ⟨_, log, RegsOnly.eq (.bumpF (.setF (.refl _) _ _) _ _)⟩

theorem rd_faultLog_ne (s : State) (src item : Nat) (lasting : Bool) (action count : Nat) {o : Nat} (h : o ≠ R.REL_LOG_STAT) :
    rd (faultLog s src item lasting action count) o = rd s o :=
  (rd_setF_ne _ _ _ h).trans (rd_setF_ne _ _ _ h)

theorem faultLog_blanes (s : State) (src item : Nat) (lasting : Bool) (action count : Nat) :
    (faultLog s src item lasting action count).blanes = s.blanes := by
  obtain ⟨regs, log, hlog⟩ := faultLog_eq s src item lasting action count
  rw [hlog]

theorem faultLog_hvLost (s : State) (src item : Nat) (lasting : Bool) (action count : Nat) :
    (faultLog s src item lasting action count).rel.hvLost = s.rel.hvLost := by
  obtain ⟨regs, log, hlog⟩ := faultLog_eq s src item lasting action count
  rw [hlog]

/-- The state in which a lasting fault is logged: its action taken, its bit of GLB_FAULT_SUM.LAST and its item set (R77). -/
def lastingMarked (s : State) (src item : Nat) : State :=
  let u := (lastingAction (clearHist s src item) src item).1
  wrN (setF u F.GLB_FAULT_SUM_LAST (setBits (getF u F.GLB_FAULT_SUM_LAST) src src 1)) (R.REL_ITEM src) (2 ^ 31 + item % 2 ^ 24)

/-- Beyond that a lasting fault writes the log and its event alone. -/
theorem hostOnly_takeLasting (s : State) (src item count : Nat) :
    ∃ action, HostOnly (faultLog (lastingMarked s src item) src item true action count) (takeLasting s src item count) := by
  unfold takeLasting lastingMarked
  obtain ⟨u, action⟩ := lastingAction (clearHist s src item) src item
  exact ⟨action, hostOnly_eventNow _ _ _ _ _⟩

theorem takeLasting_blanes (s : State) (src item count : Nat) :
    (takeLasting s src item count).blanes = (lastingAction (clearHist s src item) src item).1.blanes := by
  obtain ⟨action, h⟩ := hostOnly_takeLasting s src item count
  rw [h.blanes, faultLog_blanes, lastingMarked, wrN_blanes, setF_blanes]

theorem takeLasting_hvLost (s : State) (src item count : Nat) :
    (takeLasting s src item count).rel.hvLost = (lastingAction (clearHist s src item) src item).1.rel.hvLost := by
  obtain ⟨action, h⟩ := hostOnly_takeLasting s src item count
  rw [h.rel, faultLog_hvLost, lastingMarked, wrN_rel, setF_rel]

theorem rd_takeLasting (s : State) (src item count : Nat) {o : Nat} (ho : o < 0x8000) (hlog : o ≠ R.REL_LOG_STAT) :
    rd (takeLasting s src item count) o = rd (lastingMarked s src item) o := by
  obtain ⟨action, h⟩ := hostOnly_takeLasting s src item count
  rw [h.rd ho, rd_faultLog_ne _ _ _ _ _ _ hlog]

theorem rdN_takeLasting_item (s : State) {src : Nat} (item count : Nat) (hsrc : src < 7) :
    rdN (takeLasting s src item count) (R.REL_ITEM src) = 2 ^ 31 + item % 2 ^ 24 := by
  have hitem : 2 ^ 31 + item % 2 ^ 24 < 2 ^ 32 := by omega
  rw [rdN, rd_takeLasting _ _ _ _ (by simp only [R.REL_ITEM]; omega) (by simp only [R.REL_ITEM, R.REL_LOG_STAT]; omega), ← rdN, lastingMarked,
    rdN_wrN, if_pos rfl, Nat.mod_eq_of_lt hitem]

theorem bit_takeLasting_last (s : State) {src : Nat} (item count : Nat) (hsrc : src < 7) :
    bit (getF (takeLasting s src item count) F.GLB_FAULT_SUM_LAST) src = true := by
  have hne : F.GLB_FAULT_SUM_LAST.off ≠ R.REL_ITEM src := by simp only [F.GLB_FAULT_SUM_LAST, R.GLB_FAULT_SUM, R.REL_ITEM]; omega
  have hread : getF (takeLasting s src item count) F.GLB_FAULT_SUM_LAST = getF (lastingMarked s src item) F.GLB_FAULT_SUM_LAST := by
    simp only [getF, rdN, rd_takeLasting s src item count (o := F.GLB_FAULT_SUM_LAST.off) (by decide) (by decide)]
  rw [hread, lastingMarked, getF_wrN_ne _ _ _ _ hne, getF_setF_same _ _ _ (by decide) (by decide), bit_eq_testBit, Nat.testBit_mod_two_pow,
    setBits_testBit _ _ le_rfl]
  simp [F.GLB_FAULT_SUM_LAST, hsrc]

/-- The loss of the high-voltage side mutes every phase with barrier as the reason (R17). -/
theorem hardMute_of_hvLost {s : State} (h : s.rel.hvLost = true) (p : Nat) : hardMute s p = some Det.barrier := by
  simp [hardMute, h, Det.barrier]

/-- Nothing is on the air where every phase is muted. -/
theorem Settled.not_onAir {s : State} (hs : Settled s) (hmute : ∀ p, hardMute s p ≠ none) : ∀ j ∈ s.jobs, ∀ c ∈ j.copies, c.st ≠ .onAir :=
  fun j hj c hc hon => hmute _ (hs.1 j hj c hc hon)

theorem exec_laneLockTimeout {s : State} {l : Fin 6} (hdom : domainOn s 17 = true) (hrun : s.mains.running = true)
    (hlock : (blane s l.val).locked = false) (hlost : (blane s l.val).lasting = false) :
    exec (.laneLockTimeout l) s = done (takeLasting s 2 l.val (satN 255 (fgetD s.rel.hist (faultKey 2 l.val) {}).times.length)) := by
  show execLaneLockTimeout l s = _
  simp [execLaneLockTimeout, hdom, hrun, hlock, hlost]

theorem exec_laneCommaLock {s : State} {l : Fin 6} (hdom : domainOn s 17 = true) (hrun : s.mains.running = true)
    (hlost : (blane s l.val).lasting = false) :
    exec (.laneCommaLock l) s = done (setBlane s l.val { blane s l.val with locked := true }) := by
  show execLaneCommaLock l s = _
  simp [execLaneCommaLock, hdom, hrun, hlost]

/-- What a lane's lasting fault leaves of the lanes (R16, R44). -/
theorem takeLasting_lane_blane (s : State) (l k count : Nat) : blane (takeLasting s 2 l count) k =
    blane (setBlane s l { blane s l with lasting := true, locked := false }) k :=
  blane_congr ((takeLasting_blanes s 2 l count).trans (dropLane_blanes (clearHist s 2 l) l)) k

/-- The first lane in lasting fault leaves the high-voltage side as it is (R16). -/
theorem takeLasting_lane_first {s : State} {l : Nat} (count : Nat) (hlost : (blane s l).lasting = false) (hnone : lostLanes s = []) :
    (takeLasting s 2 l count).rel.hvLost = s.rel.hvLost := by
  have hothers : (lostLanes (clearHist s 2 l)).filter (fun k => k != l) = [] := (lostLanes_filter_ne hlost).trans hnone
  rw [takeLasting_hvLost, lastingAction, dropLane_rel_of_first hothers]
  rfl

/-- A second one loses it (R17). -/
theorem takeLasting_lane_second {s : State} {l : Nat} (count : Nat) (hlost : (blane s l).lasting = false) (hsome : lostLanes s ≠ []) :
    (takeLasting s 2 l count).rel.hvLost = true := by
  have hothers : (lostLanes (clearHist s 2 l)).filter (fun k => k != l) ≠ [] := (lostLanes_filter_ne hlost).trans_ne hsome
  rw [takeLasting_hvLost, lastingAction, dropLane_rel_of_second hothers]

/-! ### An error of a lane is counted (R15, R45, R75, R516) -/

/-- One error of a source is counted: its total, and of the fault windows the history and the log (R516, R517). -/
structure ErrorCounted (s t : State) (src : Nat) : Prop where
  frame : { t with regs := s.regs, rel := s.rel } = s
  rel : { t.rel with hist := s.rel.hist, log := s.rel.log } = s.rel
  regs : SameRegs s t [R.REL_TOT src, R.REL_LOG_STAT]
  total : rdN t (R.REL_TOT src) = satN (2 ^ 32 - 1) (rdN s (R.REL_TOT src) + 1)

theorem satN_le (n x : Nat) : satN n x ≤ n := by
  unfold satN
  split <;> omega

theorem rdN_bump_same (s : State) (o : Nat) : rdN (bump s o) o = satN (2 ^ 32 - 1) (rdN s o + 1) := by
  have hle := satN_le (2 ^ 32 - 1) (rdN s o + 1)
  rw [bump, rdN_wrN, if_pos rfl, Nat.mod_eq_of_lt (by omega)]

theorem REL_TOT_ne_LOG_STAT (src : Nat) : R.REL_TOT src ≠ R.REL_LOG_STAT := by
  simp only [R.REL_TOT, R.REL_LOG_STAT]
  omega

/-- The total and a history are written. -/
theorem errorCounted_setHist (s : State) (src k : Nat) (h : History) : ErrorCounted s (setHist (bump s (R.REL_TOT src)) k h) src where
  frame := rfl
  rel := rfl
  regs o ho := rd_wr_ne s _ (by simp at ho; exact ho.1)
  total := rdN_bump_same s _

/-- And then the log. -/
theorem ErrorCounted.faultLog {s t : State} {src : Nat} (h : ErrorCounted s t src) (item : Nat) (lasting : Bool) (action count : Nat) :
    ErrorCounted s (faultLog t src item lasting action count) src := by
  have hrd := fun o ho => rd_faultLog_ne t src item lasting action count (o := o) ho
  obtain ⟨regs, log, hlog⟩ := faultLog_eq t src item lasting action count
  constructor
  · rw [hlog]
    exact h.frame
  · rw [hlog]
    exact h.rel
  · intro o ho
    rw [hrd o (by simp at ho; exact ho.2)]
    exact h.regs o ho
  · rw [rdN, hrd _ (REL_TOT_ne_LOG_STAT src)]
    exact h.total

/-- An event that leaves its window below the threshold is counted and no more; sources 0 and 1 keep counts of their own beside (R75). -/
theorem errorCounted_faultRaw {s : State} {src item : Nat} (hsrc : 2 ≤ src) (hitem : faultItemOk src item = true)
    (hwin : (fgetD s.rel.hist (faultKey src item) {}).times.length + 1 < (faultCfg s src).1) : ErrorCounted s (faultRaw s src item) src := by
  have h0 : src ≠ 0 := by omega
  have h1 : src ≠ 1 := by omega
  unfold faultRaw
  generalize faultCfg s src = cfg at hwin ⊢
  obtain ⟨n, t, div⟩ := cfg
  simp only [hitem, h0, h1, if_false, Bool.not_true, Bool.false_eq_true]
  split
  · exact errorCounted_setHist s src _ _
  · rw [if_neg]
    · exact (errorCounted_setHist s src _ _).faultLog _ _ _ _
    · have hkept := List.length_filter_le (fun x => Nat.ble (tbNow (bump s (R.REL_TOT src))) (x + t * 10 ^ 6)) (fgetD s.rel.hist (faultKey src item) {}).times
      simp only [Nat.ble_eq, List.length_take, List.length_cons, bump_rel, not_le] at hwin ⊢
      omega

/-- Of the fault windows only the loss of the high-voltage side mutes. -/
theorem hardMute_congr_hvLost {s t : State} (h1 : t.rel.hvLost = s.rel.hvLost) (h2 : t.tx = s.tx) (h3 : t.crc = s.crc) (h4 : t.par = s.par)
    (h5 : t.pins = s.pins) (h6 : t.pwr = s.pwr) (p : Nat) : hardMute t p = hardMute s p := by
  simp [hardMute, txf, txPh, h1, h2, h3, h4, h5, h6]

theorem ErrorCounted.settled {s t : State} {src : Nat} (h : ErrorCounted s t src) (hs : Settled s) : Settled t :=
  hs.congr (congrArg State.jobs h.frame :) (congrArg State.tx h.frame :)
    (hardMute_congr_hvLost (congrArg Rel.hvLost h.rel :) (congrArg State.tx h.frame :) (congrArg State.crc h.frame :)
      (congrArg State.par h.frame :) (congrArg State.pins h.frame :) (congrArg State.pwr h.frame :))

/-! #### The packet that is lost (R15) -/

/-- The lane with its count of control words to be acknowledged. -/
def resent (s : State) (l : Nat) (control : Bool) : BLane := { blane s l with resend := (blane s l).resend + b2n control }

/-- A packet of the lane is lost: its DAC samples go out as zero, its control words again; what it carried may have used a free value. -/
def packetLost (s : State) (l samples : Nat) (control : Bool) (freeCtr : Nat) : State :=
  { s with
    blanes := if control then fput s.blanes l (resent s l control) else s.blanes
    posted := s.posted ++ (if 3 ≤ l ∧ samples ≠ 0 then [.dacZero l samples] else []) ++ (if control then [.resend l 1] else [])
    freeCtr := freeCtr }

theorem lostPacket_eq (s : State) (l samples : Nat) (control : Bool) :
    lostPacket s l samples control = packetLost s l samples control s.freeCtr := by
  by_cases hdac : 3 ≤ l ∧ samples ≠ 0 <;> cases control <;>
    simp [lostPacket, packetLost, resent, blane, hdac, post, setBlane, b2n]

theorem blane_packetLost (s : State) (l samples : Nat) (control : Bool) (freeCtr : Nat) :
    blane (packetLost s l samples control freeCtr) l = resent s l control := by
  cases control with
  | true => exact fgetD_fput_same _ _ _ _
  | false => rfl

theorem exec_lanePacketCrcError {s : State} {l : Fin 6} (samples : Nat) (control : Bool) (hlock : (blane s l.val).locked = true) :
    exec (.lanePacketCrcError l samples control) s = done (faultRaw (packetLost s l.val samples control s.freeCtr) 2 l.val) := by
  show execLanePacketCrcError l samples control s = _
  simp only [execLanePacketCrcError, hlock, Bool.not_true, Bool.false_eq_true, if_false, lostPacket_eq]

/-- What the packet of an invalid character carried is free, by the model's choice (log entry 85): up to 14 DAC samples, and a control word or
none (R45). -/
theorem exec_laneInvalidCharacter {s : State} {l : Fin 6} (hlock : (blane s l.val).locked = true) : ∃ samples ≤ 14, ∃ control,
    exec (.laneInvalidCharacter l) s = done (faultRaw (packetLost s l.val samples control (s.freeCtr + 1)) 2 l.val) := by
  refine ⟨freeNat s 8 % 15, by omega, Nat.ble 1 (freeNat s 8 / 16 % 2), ?_⟩
  show execLaneInvalidCharacter l s = _
  simp only [execLaneInvalidCharacter, hlock, Bool.not_true, Bool.false_eq_true, if_false, lostPacket_eq]
  rfl

/-- The loss of a packet below the lane's threshold completes, its error counted. -/
theorem completes_packetLost {i : Instr} {s : State} {l : Fin 6} {samples freeCtr : Nat} {control : Bool} {P : State → Prop}
    (hexec : exec i s = done (faultRaw (packetLost s l.val samples control freeCtr) 2 l.val)) (hs : Settled s)
    (hwin : (fgetD s.rel.hist (faultKey 2 l.val) {}).times.length + 1 < (faultCfg s 2).1)
    (hP : ∀ t, ErrorCounted (packetLost s l.val samples control freeCtr) t 2 → P t) : Completes i s P := by
  have hcount : ErrorCounted (packetLost s l.val samples control freeCtr) _ 2 := errorCounted_faultRaw le_rfl (by simp [faultItemOk]) hwin
  exact completes_settled hexec (hcount.settled (hs.congr rfl rfl fun _ => rfl)) (hP _ hcount)

section
variable {s t : State} {l samples freeCtr : Nat} {control : Bool} (h : ErrorCounted (packetLost s l samples control freeCtr) t 2)
include h

theorem ErrorCounted.packetLost_blane : blane t l = resent s l control :=
  (blane_congr (congrArg State.blanes h.frame :) l).trans (blane_packetLost s l samples control freeCtr)

theorem ErrorCounted.packetLost_posted : t.posted =
    s.posted ++ (if 3 ≤ l ∧ samples ≠ 0 then [.dacZero l samples] else []) ++ (if control then [.resend l 1] else []) :=
  (congrArg State.posted h.frame :)

end

/-! ### The five-lane map (R16, R131) -/

/-- An input as the five-lane map has it: D = 2, the built-in filter, no swap pending, template and delay line cleared (R131). -/
structure InFiveLaneMap (s : State) (i : Nat) : Prop where
  decim : decim s i = 2
  romf : isSet s (F.RXF_STATUS_ROMF i) = true
  noSwap : isSet s (F.RXF_STATUS_SWAP_PEND i) = false
  tmpl : (rxIn s i).tmpl = []
  line : (rxIn s i).line = []

/-- It is read from the input's own state and its status register. -/
theorem InFiveLaneMap.congr {s t : State} {i : Nat} (h : InFiveLaneMap s i) (hrd : rd t (R.RXF_STATUS i) = rd s (R.RXF_STATUS i))
    (hrx : rxIn t i = rxIn s i) : InFiveLaneMap t i := by
  have hget : ∀ f : Fld, f.off = R.RXF_STATUS i → isSet t f = isSet s f := fun f hf => by simp only [isSet, getF, rdN, hf, hrd]
  have hdec := hget (F.RXF_STATUS_DEC2 i) rfl
  have hromf := hget (F.RXF_STATUS_ROMF i) rfl
  have hswap := hget (F.RXF_STATUS_SWAP_PEND i) rfl
  exact ⟨by rw [← h.decim, Machine.decim, Machine.decim, hdec], hromf ▸ h.romf, hswap ▸ h.noSwap, hrx ▸ h.tmpl, hrx ▸ h.line⟩

/-- A pending swap of the input is cancelled. -/
def swapCancelled (s : State) (i : Nat) : State :=
  if isSet s (F.RXF_STATUS_SWAP_PEND i) then raise (setF s (F.RXF_STATUS_SWAP_PEND i) 0) (F.RXF_EVT_SWAP_CANCEL i) else s

theorem fiveLaneInput_eq (s : State) (i : Nat) : fiveLaneInput s i =
    clearTmpl (settleInput (raise (raise (swapCancelled s i) (F.RXF_STATUS_DEC2 i)) (F.RXF_STATUS_ROMF i)) i) i := rfl

theorem InputOnly.refl (s : State) (i : Nat) (but : List Nat) : InputOnly s s i but := ⟨rfl, fun _ _ => rfl, fun _ _ => rfl⟩

theorem InputOnly.trans {s t u : State} {i : Nat} {but : List Nat} (h : InputOnly s t i but) (k : InputOnly t u i but) : InputOnly s u i but := by
  obtain ⟨hframe, hinputs, hregs⟩ := h
  obtain ⟨kframe, kinputs, kregs⟩ := k
  refine ⟨?_, fun q hq => (kinputs q hq).trans (hinputs q hq), fun o ho => (kregs o ho).trans (hregs o ho)⟩
  exact (congrArg (fun x : State => { x with regs := s.regs, rx := s.rx, par := s.par }) kframe).trans hframe

theorem inputOnly_wrN (s : State) (i : Nat) {but : List Nat} {o : Nat} (v : Nat) (ho : o ∈ but) : InputOnly s (wrN s o v) i but :=
  ⟨rfl, fun _ _ => rfl, fun _ hx => rd_wr_ne s _ fun h => hx (h ▸ ho)⟩

theorem inputOnly_setRx (s : State) (i : Nat) (x : RxIn) (but : List Nat) : InputOnly s (setRx s i x) i but :=
  ⟨rfl, fun _ hq => fgetD_fput_ne _ _ _ hq, fun _ _ => rfl⟩

/-- The registers of an input that the five-lane map writes: its status, its events and its template's. -/
def fiveLaneRegs (i : Nat) : List Nat := [R.RXF_STATUS i, R.RXF_EVT i, R.TSL_EVT i]

theorem inputOnly_swapCancelled (s : State) (i : Nat) : InputOnly s (swapCancelled s i) i (fiveLaneRegs i) := by
  unfold swapCancelled
  split
  · exact (inputOnly_wrN s i _ (o := R.RXF_STATUS i) (by simp [fiveLaneRegs])).trans
      (inputOnly_wrN _ i _ (o := R.RXF_EVT i) (by simp [fiveLaneRegs]))
  · exact .refl s i _

theorem inputOnly_fiveLaneInput (s : State) (i : Nat) : InputOnly s (fiveLaneInput s i) i (fiveLaneRegs i) := by
  have status : ∀ (u : State) (v : Nat), InputOnly u (wrN u (R.RXF_STATUS i) v) i (fiveLaneRegs i) :=
    fun u v => inputOnly_wrN u i v (by simp [fiveLaneRegs])
  have cleared : ∀ u : State, InputOnly u (clearTmpl u i) i (fiveLaneRegs i) := fun u =>
    (inputOnly_setRx u i _ _).trans (inputOnly_wrN _ i _ (o := R.TSL_EVT i) (by simp [fiveLaneRegs]))
  have settled : ∀ u : State, InputOnly u (settleInput u i) i (fiveLaneRegs i) := fun u => (inputOnly_setRx u i _ _).trans (status _ _)
  rw [fiveLaneInput_eq]
  exact (inputOnly_swapCancelled s i).trans ((status _ _).trans ((status _ _).trans ((settled _).trans (cleared _))))

/-- Raising one flag of a register leaves its others. -/
theorem isSet_raise_flag (s : State) (o : Nat) {a b : Nat} (ha : a < 32) (h : a ≠ b) : isSet (raise s ⟨o, a, a⟩) ⟨o, b, b⟩ = isSet s ⟨o, b, b⟩ :=
  isSet_raise_other s _ _ le_rfl ha (.inr (Nat.lt_or_gt_of_ne h))

theorem isSet_swapCancelled (s : State) (i : Nat) : isSet (swapCancelled s i) (F.RXF_STATUS_SWAP_PEND i) = false := by
  have hevt : R.RXF_STATUS i ≠ R.RXF_EVT i := by simp only [R.RXF_STATUS, R.RXF_EVT]; omega
  have hcleared : getF (setF s (F.RXF_STATUS_SWAP_PEND i) 0) (F.RXF_STATUS_SWAP_PEND i) = 0 :=
    getF_setF_same s ⟨R.RXF_STATUS i, 2, 2⟩ 0 le_rfl (by norm_num)
  unfold swapCancelled
  split
  · refine (isSet_raise_other _ ⟨R.RXF_EVT i, 1, 1⟩ _ le_rfl (by norm_num) (.inl hevt)).trans ?_
    rw [isSet, hcleared]
    rfl
  · next h => simpa using h

/-- Settling anew and a cleared template keep the filter's flags of the input (R124, R135). -/
theorem isSet_clearTmpl_settleInput (s : State) (i : Nat) {f : Fld} (hoff : f.off = R.RXF_STATUS i) (hlow : f.hi < 4) :
    isSet (clearTmpl (settleInput s i) i) f = isSet s f := by
  have htsl : f.off ≠ R.TSL_EVT i := by simp only [hoff, R.RXF_STATUS, R.TSL_EVT]; omega
  have hcleared : isSet (clearTmpl (settleInput s i) i) f = isSet (settleInput s i) f := by
    simp only [isSet, clearTmpl, raiseBit, getF_wrN_ne _ f _ _ htsl]
    rfl
  exact hcleared.trans (isSet_setB_other (setRx s i _) ⟨R.RXF_STATUS i, 4, 4⟩ f _ le_rfl (by norm_num) (.inr (.inr hlow)))

/-- An input that enters the map is as the map has it. -/
theorem inFiveLaneMap_fiveLaneInput (s : State) (i : Nat) : InFiveLaneMap (fiveLaneInput s i) i := by
  have flag : ∀ b < 4, isSet (fiveLaneInput s i) ⟨R.RXF_STATUS i, b, b⟩ =
      isSet (raise (raise (swapCancelled s i) (F.RXF_STATUS_DEC2 i)) (F.RXF_STATUS_ROMF i)) ⟨R.RXF_STATUS i, b, b⟩ :=
    fun b hb => isSet_clearTmpl_settleInput _ i rfl hb
  have hdec : isSet (fiveLaneInput s i) (F.RXF_STATUS_DEC2 i) = true :=
    (flag 3 (by norm_num)).trans ((isSet_raise_flag _ _ (by norm_num) (by norm_num)).trans (isSet_raise_same _ ⟨R.RXF_STATUS i, 3, 3⟩ rfl (by norm_num)))
  refine ⟨by rw [Machine.decim, hdec, if_pos rfl], ?_, ?_, ?_, ?_⟩
  · exact (flag 1 (by norm_num)).trans (isSet_raise_same _ ⟨R.RXF_STATUS i, 1, 1⟩ rfl (by norm_num))
  · exact (flag 2 (by norm_num)).trans ((isSet_raise_flag _ _ (by norm_num) (by norm_num)).trans
      ((isSet_raise_flag _ _ (by norm_num) (by norm_num)).trans (isSet_swapCancelled s i)))
  · exact congrArg RxIn.tmpl (fgetD_fput_same _ _ _ _)
  · refine (congrArg RxIn.line (fgetD_fput_same _ _ _ _)).trans ?_
    exact congrArg RxIn.line (fgetD_fput_same _ _ _ _)

/-- It stays so while other inputs enter. -/
theorem InFiveLaneMap.fiveLaneInput {s : State} {i : Nat} (h : InFiveLaneMap s i) (q : Nat) : InFiveLaneMap (fiveLaneInput s q) i := by
  by_cases hq : i = q
  · subst hq
    exact inFiveLaneMap_fiveLaneInput s i
  · obtain ⟨-, hinputs, hregs⟩ := inputOnly_fiveLaneInput s q
    refine h.congr (hregs _ ?_) (hinputs i hq)
    simp only [fiveLaneRegs, R.RXF_STATUS, R.RXF_EVT, R.TSL_EVT, List.mem_cons, List.not_mem_nil, or_false]
    omega

theorem inFiveLaneMap_foldl {i : Nat} (l : List Nat) {s : State} (h : i ∈ l ∨ InFiveLaneMap s i) : InFiveLaneMap (l.foldl fiveLaneInput s) i := by
  induction l generalizing s with
  | nil => exact h.resolve_left (by simp)
  | cons q l ih =>
    rw [List.foldl_cons]
    refine ih ?_
    rcases h with hmem | hin
    · rcases List.mem_cons.1 hmem with rfl | hl
      · exact .inr (inFiveLaneMap_fiveLaneInput s i)
      · exact .inl hl
    · exact .inr (hin.fiveLaneInput q)

/-- The receive inputs, the registers and the parity marks apart, the map changes nothing. -/
theorem foldl_fiveLaneInput_frame (l : List Nat) (s : State) :
    { l.foldl fiveLaneInput s with regs := s.regs, rx := s.rx, par := s.par } = s := by
  induction l generalizing s with
  | nil => rfl
  | cons q l ih =>
    rw [List.foldl_cons]
    exact (congrArg (fun x : State => { x with regs := s.regs, rx := s.rx, par := s.par }) (ih (fiveLaneInput s q))).trans
      (inputOnly_fiveLaneInput s q).1

/-- GLB_FAULT_SUM is no register of an input. -/
theorem rd_foldl_fiveLaneInput (l : List Nat) (s : State) {o : Nat} (ho : o < 0x1000) : rd (l.foldl fiveLaneInput s) o = rd s o := by
  induction l generalizing s with
  | nil => rfl
  | cons q l ih =>
    obtain ⟨-, -, hregs⟩ := inputOnly_fiveLaneInput s q
    rw [List.foldl_cons, ih]
    refine hregs o ?_
    simp only [fiveLaneRegs, R.RXF_STATUS, R.RXF_EVT, R.TSL_EVT, List.mem_cons, List.not_mem_nil, or_false]
    omega

/-- Closing the open chunks touches the capture side and the host interface alone (R309). -/
theorem captureOnly_breakChunks (s : State) (tb : Bool) (p : Stream → Bool) : CaptureOnly s (breakChunks s tb p) :=
  captureOnly_foldl _ _ (fun u i => captureOnly_ite (.refl u) ((captureOnly_flushChunk u i).trans
    (captureOnly_ite (captureOnly_setStream _ _ _) (captureOnly_setStream _ _ _)))) s

/-- The five-lane map is in force, and the device says that a lane is gone (R16). -/
def mapInForce (s : State) : State := raise { s with rel := { s.rel with fiveLane := true } } F.GLB_FAULT_SUM_LANE_DEG

/-- The receive inputs enter the map, the open chunks closed with the old rate code (R131, R309). -/
def receiveMapped (s : State) : State :=
  (List.range 4).foldl fiveLaneInput (mapInForce (breakChunks s false fun x => Prog.tap x.prog == 0))

theorem exec_fiveLaneMapChange {s : State} (hlost : (lostLanes s).length = 1) (hmap : s.rel.fiveLane = false) :
    exec .fiveLaneMapChange s = done (if fiveLaneRx (mapInForce s) then receiveMapped s else mapInForce s) := by
  show execFiveLaneMapChange s = _
  rw [execFiveLaneMapChange, if_neg (by simp [hlost, hmap])]
  cases h : fiveLaneRx (mapInForce s) with
  | true => exact if_neg (by simpa [mapInForce] using h)
  | false => exact if_pos (by simpa [mapInForce] using h)

/-- The map is in force and one lane is lost, while the line and the lanes go on. -/
structure MapEntered (s t : State) : Prop where
  rel : t.rel = { s.rel with fiveLane := true }
  degraded : isSet t F.GLB_FAULT_SUM_LANE_DEG = true
  mains : t.mains = s.mains
  lanes : t.lanes = s.lanes
  blanes : t.blanes = s.blanes

theorem mapEntered_mapInForce {s w : State} (h : CaptureOnly s w) : MapEntered s (mapInForce w) where
  rel := congrArg (fun r : Rel => { r with fiveLane := true }) h.rel
  degraded := isSet_raise_same _ _ rfl (by decide)
  mains := h.mains
  lanes := h.lanes
  blanes := h.blanes

theorem MapEntered.foldl {s t : State} (h : MapEntered s t) (l : List Nat) : MapEntered s (l.foldl fiveLaneInput t) := by
  have hframe := foldl_fiveLaneInput_frame l t
  exact {
    rel := (congrArg State.rel hframe :).trans h.rel
    degraded := by
      rw [← h.degraded]
      simp only [isSet, getF, rdN, rd_foldl_fiveLaneInput l t (o := F.GLB_FAULT_SUM_LANE_DEG.off) (by decide)]
    mains := (congrArg State.mains hframe :).trans h.mains
    lanes := (congrArg State.lanes hframe :).trans h.lanes
    blanes := (congrArg State.blanes hframe :).trans h.blanes }

theorem MapEntered.settle {s t : State} (h : MapEntered s t) : MapEntered s (settle t) where
  rel := (settle_rel t).trans h.rel
  degraded := (settle_isSet t (by decide)).trans h.degraded
  mains := (settle_mains t).trans h.mains
  lanes := (settle_lanes t).trans h.lanes
  blanes := (settle_blanes t).trans h.blanes

/-- Whether the receive lanes are halved is decided by the lost lane. -/
theorem MapEntered.fiveLaneRx {s t : State} (h : MapEntered s t) : fiveLaneRx t = fiveLaneRx (mapInForce s) := by
  simp only [Machine.fiveLaneRx, h.rel, h.blanes, mapInForce, raise_rel, raise_blanes]

theorem InFiveLaneMap.settle {s : State} {i : Nat} (h : InFiveLaneMap s i) (hi : i < 4) : InFiveLaneMap (settle s) i :=
  h.congr (settle_rd s (by simp only [R.RXF_STATUS]; omega)) (by simp only [rxIn, settle_rx])

theorem mapEntered_receiveMapped (s : State) : MapEntered s (receiveMapped s) :=
  (mapEntered_mapInForce (captureOnly_breakChunks s _ _)).foldl _

theorem inFiveLaneMap_receiveMapped (s : State) {i : Nat} (hi : i < 4) : InFiveLaneMap (receiveMapped s) i :=
  inFiveLaneMap_foldl _ (.inl (List.mem_range.2 hi))

/-! ### The barrier lanes' commands -/

/-- A lane in lasting fault is dropped; the first alone, a second with the high-voltage side (R16, R17, R44). -/
theorem completes_laneLockTimeout {s : State} {l : Fin 6} (hdom : domainOn s 17 = true) (hrun : s.mains.running = true)
    (hlock : (blane s l.val).locked = false) (hlost : (blane s l.val).lasting = false) : Completes (.laneLockTimeout l) s fun t =>
      (blane t l.val).lasting = true ∧ (∀ k, k ≠ l.val → blane t k = blane s k) ∧ rdN t (R.REL_ITEM 2) = 2 ^ 31 + l.val ∧
        bit (getF t F.GLB_FAULT_SUM_LAST) 2 = true ∧ (lostLanes s = [] → t.rel.hvLost = s.rel.hvLost) ∧
        (lostLanes s ≠ [] → t.rel.hvLost = true ∧ (∀ p, hardMute t p = some Det.barrier) ∧ ∀ j ∈ t.jobs, ∀ c ∈ j.copies, c.st ≠ .onAir) := by
  refine completes_done (exec_laneLockTimeout hdom hrun hlock hlost) ?_
  generalize satN 255 _ = count
  have hblane : ∀ k, blane (settle (takeLasting s 2 l.val count)) k = _ :=
    fun k => (blane_congr (settle_blanes _) k).trans (takeLasting_lane_blane s l.val k count)
  refine ⟨?_, fun k hk => ?_, ?_, ?_, fun hnone => ?_, fun hsome => ?_⟩
  · rw [hblane, blane_setBlane_same]
  · rw [hblane, blane_setBlane_ne _ _ hk]
  · rw [settle_rdN _ (by decide), rdN_takeLasting_item _ _ _ (by norm_num), Nat.mod_eq_of_lt (by omega)]
  · rw [settle_getF _ (by decide), bit_takeLasting_last _ _ _ (by norm_num)]
  · rw [settle_rel, takeLasting_lane_first count hlost hnone]
  · have hhv : (settle (takeLasting s 2 l.val count)).rel.hvLost = true := by rw [settle_rel, takeLasting_lane_second count hlost hsome]
    have hmute := hardMute_of_hvLost hhv
    exact ⟨hhv, hmute, (settled_settle _).not_onAir fun p => by simp [hmute p]⟩

/-- The map of five lanes takes effect; where a receive lane is lost, on every input (R16, R131). -/
theorem completes_fiveLaneMapChange {s : State} (hlost : (lostLanes s).length = 1) (hmap : s.rel.fiveLane = false) :
    Completes .fiveLaneMapChange s fun t => MapEntered s t ∧ (fiveLaneRx t = true → ∀ i < 4, InFiveLaneMap t i) ∧
      (fiveLaneRx t = false → t.rx = s.rx) := by
  refine completes_done (exec_fiveLaneMapChange hlost hmap) ?_
  cases hrx : fiveLaneRx (mapInForce s) with
  | true =>
    have hentered := (mapEntered_receiveMapped s).settle
    refine ⟨hentered, fun _ i hi => (inFiveLaneMap_receiveMapped s hi).settle hi, fun hno => ?_⟩
    exact absurd (hno.symm.trans (hentered.fiveLaneRx.trans hrx)) (by decide)
  | false =>
    have hentered := (mapEntered_mapInForce (CaptureOnly.refl s)).settle
    refine ⟨hentered, fun hyes => ?_, fun _ => settle_rx _⟩
    exact absurd (hyes.symm.trans (hentered.fiveLaneRx.trans hrx)) (by decide)

/-- Settles O19: a lane's lock and its lasting fault, an error counted below its window, and the five-lane map. -/
theorem barrierLanesAndErrors : Obligations.BarrierLanesAndErrors := by
  unfold Obligations.BarrierLanesAndErrors
  refine ⟨fun s l hdom hlost => ⟨fun hs hrun => ?_, fun hrun hlock => ?_⟩, fun s l n ctl => ⟨fun hs hlock hwin => ⟨?_, ?_⟩, fun hlost hmap => ?_⟩⟩
  · exact completes_settled (exec_laneCommaLock hdom hrun hlost) (hs.congr rfl rfl fun _ => rfl) rfl
  · exact completes_laneLockTimeout hdom hrun hlock hlost
  · obtain ⟨samples, hle, control, hexec⟩ := exec_laneInvalidCharacter hlock
    refine completes_packetLost hexec hs hwin fun t h => ⟨?_, h.rel, h.regs, h.total, samples, hle, control, h.packetLost_posted, h.packetLost_blane⟩
    exact congrArg (fun x : State => { x with regs := s.regs, rel := s.rel, blanes := s.blanes, posted := s.posted, freeCtr := s.freeCtr }) h.frame
  · refine completes_packetLost (exec_lanePacketCrcError n ctl hlock) hs hwin fun t h =>
      ⟨?_, h.regs, h.total, h.packetLost_posted, h.packetLost_blane⟩
    exact congrArg (fun x : State => { x with regs := s.regs, rel := s.rel, blanes := s.blanes, posted := s.posted }) h.frame
  · obtain ⟨t, hexec, hentered, hreceive, hkept⟩ := completes_fiveLaneMapChange hlost hmap
    refine ⟨t, hexec, hentered.rel, hentered.degraded, hentered.mains, hentered.lanes, fun hrx i hi => ?_, hkept⟩
    have hin := hreceive hrx i hi
    exact ⟨hin.decim, hin.romf, hin.noSwap, hin.tmpl, hin.line⟩

end Sys2Proof.Machine

namespace Sys2Proof.Machine

/-! ### Mutes that follow from the pins (R48, R55, R458) -/

/-- PFW# low, VDRV absent, a device reset waited for, and a reset in force: the mutes that raise no defect (R48, R69, R458). -/
def defectlessMute (s : State) : Bool := s.pins.pfwLow || !s.pins.vdrv || s.pwr.resetAt.isSome || s.pins.inReset

/-- Each of them hard-mutes every phase, whatever else mutes it. -/
theorem hardMute_isSome {s : State} (h : defectlessMute s = true) (p : Nat) : (hardMute s p).isSome := by
  unfold hardMute
  rw [if_pos (show (s.pins.pfwLow || !s.pins.vdrv || s.pwr.resetAt.isSome || s.pins.inReset) = true from h)]
  repeat' split
  all_goals rfl

/-! ### The hold-up warning (R55, R56, R458) -/

/-- PFW# driven low by the fall of HUSENSE (R55). -/
def holdupWarned (s : State) : State :=
  { s with pins := { s.pins with husenseHigh := false, pfwLow := true, husenseRose := none, pfwReset := s.pins.pfwReset && s.pins.pfwLow } }

theorem exec_husenseFall (s : State) : exec .husenseFall s = done (holdupWarned s) := rfl

theorem hardMute_holdupWarned (s : State) (p : Nat) : (hardMute (holdupWarned s) p).isSome :=
  hardMute_isSome (by simp [defectlessMute, holdupWarned]) p

/-- HUSENSE has risen: PFW# is released, or the wait of 10 ms begins (R56). -/
def holdupRisen (s : State) : State :=
  { s with pins := { s.pins with
      husenseHigh := true, pfwLow := s.pins.pfwLow && !s.pins.pfwReset, pfwReset := false,
      husenseRose := if s.pins.pfwLow && !s.pins.pfwReset then some s.mains.elapsed else none } }

theorem exec_husenseRise {s : State} (h : s.pins.husenseHigh = false) : exec .husenseRise s = done (holdupRisen s) := if_neg (by simp [h])

/-- A change that mutes no phase anew keeps a state settled. -/
theorem Settled.of_mutes_le {s t : State} (h : Settled s) (hjobs : t.jobs = s.jobs) (htx : t.tx = s.tx)
    (hmute : ∀ p, hardMute s p = none → hardMute t p = none) : Settled t := by
  obtain ⟨hline, hphases⟩ := h
  refine ⟨fun j hj c hc hon => hmute _ (hline j (hjobs ▸ hj) c hc hon), fun e he hmuted => hphases e (htx ▸ he) ?_⟩
  by_contra hopen
  rw [hmute _ (by simpa using hopen)] at hmuted
  exact absurd hmuted (by simp)

theorem hardMute_holdupRisen {s : State} {p : Nat} (h : hardMute s p = none) : hardMute (holdupRisen s) p = none := by
  have hpins : ¬ defectlessMute s = true := fun hmuted => by simpa [h] using hardMute_isSome hmuted p
  have hcauses : hardMute (holdupRisen s) p = hardMute s p := by
    simp only [defectlessMute, Bool.not_eq_true, Bool.or_eq_false_iff] at hpins
    simp [hardMute, txf, txPh, holdupRisen, hpins]
  rw [hcauses, h]

/-- Settles O9: a fall mutes by PFW# alone, so that nothing is left on the air; a rise takes at most that mute away. -/
theorem holdupWarningMutesEveryPhase : Obligations.HoldupWarningMutesEveryPhase := by
  unfold Obligations.HoldupWarningMutesEveryPhase
  refine fun s => ⟨completes_done (exec_husenseFall s) ?_, fun hs hlow => ?_⟩
  · have hmute : ∀ p, (hardMute (settle (holdupWarned s)) p).isSome := fun p => by
      rw [settle_hardMute]
      exact hardMute_holdupWarned s p
    refine ⟨settle_pins _, hmute, ?_, settle_mains _, settle_nvs _, fun off hoff => settle_rd _ hoff⟩
    exact (settled_settle _).not_onAir fun p => Option.isSome_iff_ne_none.1 (hmute p)
  · exact completes_settled (exec_husenseRise hlow) (hs.of_mutes_le rfl rfl fun _ => hardMute_holdupRisen) rfl

end Sys2Proof.Machine

namespace Sys2Proof.Machine

/-! ### The end of a reset (R36, R37, R56, R71) -/

/-- The straps as CLKSEL and TESTEN give them: the reset is over unless TESTEN holds the device, and the sources of the clock are shown, the
real-time clock's own unchanged (R36, R37, R510). -/
structure StrapsSampled (clksel : BitVec 2) (testen : Bool) (rtc : Rtc) (t : State) : Prop where
  inReset : t.pins.inReset = testen
  testHalt : t.pins.testHalt = testen
  strap : getF t F.CLK_STRAP_CLKSEL = clksel.toNat
  invalid : isSet t F.CLK_STRAP_STRAP_INV = (clksel == 3)
  ref : isSet t F.CLK_STATUS_REF_OK = (clksel == 1 || clksel == 2)
  xtal : isSet t F.CLK_STATUS_XTAL_OK = (!(clksel == 1 || clksel == 2))
  x32 : isSet t F.CLK_STATUS_X32_OK = rtc.running
  fault : clksel = 3 → isSet t F.GLB_FAULT_SUM_STRAP_INV = true
  clock : t.rtc = rtc

theorem StrapsSampled.settle {clksel : BitVec 2} {testen : Bool} {rtc : Rtc} {t : State} (h : StrapsSampled clksel testen rtc t) :
    StrapsSampled clksel testen rtc (settle t) where
  inReset := by rw [settle_pins, h.inReset]
  testHalt := by rw [settle_pins, h.testHalt]
  strap := by rw [settle_getF _ (by decide), h.strap]
  invalid := by rw [settle_isSet _ (by decide), h.invalid]
  ref := by rw [settle_isSet _ (by decide), h.ref]
  xtal := by rw [settle_isSet _ (by decide), h.xtal]
  x32 := by rw [settle_isSet _ (by decide), h.x32]
  fault h3 := by rw [settle_isSet _ (by decide), h.fault h3]
  clock := by rw [settle_rtc, h.clock]

/-- The pins at t0 (R36, R37, R56). -/
def resetEnded (s : State) (testen : Bool) : State :=
  { s with pins := { s.pins with
      inReset := testen, testHalt := testen, pfwLow := s.pins.pfwLow && !s.pins.husenseHigh, pfwReset := s.pins.pfwLow && !s.pins.husenseHigh } }

theorem endReset_eq (s : State) (clksel : BitVec 2) (testen : Bool) : endReset s clksel testen =
    if testen then sampleStraps (resetEnded s testen) clksel else hvcoreOn (sampleStraps (resetEnded s testen) clksel) := rfl

theorem regsOnly_endReset (s : State) (clksel : BitVec 2) (testen : Bool) : RegsOnly (resetEnded s testen) (endReset s clksel testen) :=
  endReset_eq s clksel testen ▸ (regsOnly_sampleStraps _ _).trans (.ite (.refl _) (regsOnly_hvcoreOn _))

/-- The supply of HVCORE writes no register of the straps or of the clocks (R44, R46). -/
theorem getF_endReset (s : State) (clksel : BitVec 2) (testen : Bool) {f : Fld} (hpg : f.off ≠ R.PWR_PG) (hdom : f.off ≠ R.PWR_DOM 17) :
    getF (endReset s clksel testen) f = getF (sampleStraps (resetEnded s testen) clksel) f := by
  rw [endReset_eq]
  split
  · rfl
  · exact getF_hvcoreOn _ _ hpg hdom

theorem isSet_endReset (s : State) (clksel : BitVec 2) (testen : Bool) {f : Fld} (hpg : f.off ≠ R.PWR_PG) (hdom : f.off ≠ R.PWR_DOM 17) :
    isSet (endReset s clksel testen) f = isSet (sampleStraps (resetEnded s testen) clksel) f := by
  simp only [isSet, getF_endReset s clksel testen hpg hdom]

/-! #### The fields of the straps and of the clock sources -/

/-- The reference in use writes CLK_STATUS alone. -/
theorem getF_refSelected_ne (s : State) (ref : Bool) {f : Fld} (h : f.off ≠ R.CLK_STATUS) : getF (refSelected s ref) f = getF s f := by
  unfold refSelected
  rw [getF_setB_other _ _ _ _ (by decide) (by decide) (.inl h), getF_setB_other _ _ _ _ (by decide) (by decide) (.inl h),
    getF_setB_other _ _ _ _ (by decide) (by decide) (.inl h)]

theorem isSet_refSelected (s : State) (ref : Bool) : isSet (refSelected s ref) F.CLK_STATUS_REF_OK = ref ∧
    isSet (refSelected s ref) F.CLK_STATUS_XTAL_OK = (!ref) ∧ isSet (refSelected s ref) F.CLK_STATUS_X32_OK = s.rtc.running := by
  refine ⟨?_, ?_, ?_⟩
  · rw [refSelected, isSet_setB_other _ _ _ _ (by decide) (by decide) (by decide),
      isSet_setB_other _ _ _ _ (by decide) (by decide) (by decide), isSet_setB_same _ _ _ rfl (by decide)]
  · rw [refSelected, isSet_setB_other _ _ _ _ (by decide) (by decide) (by decide), isSet_setB_same _ _ _ rfl (by decide)]
  · rw [refSelected, isSet_setB_same _ _ _ rfl (by decide)]

/-- CLK_STRAP as it is sampled, and the flag that an invalid strap raises (R36). -/
def strapsStored (s : State) (clksel : BitVec 2) : State :=
  let u := setF (setF s F.CLK_STRAP_CLKSEL clksel.toNat) F.CLK_STRAP_STRAP_INV (b2n (clksel == 3))
  if clksel = 3 then raise u F.GLB_FAULT_SUM_STRAP_INV else u

theorem sampleStraps_eq (s : State) (clksel : BitVec 2) :
    sampleStraps s clksel = refSelected (strapsStored s clksel) (clksel == 1 || clksel == 2) := rfl

theorem getF_strapsStored_clksel (s : State) (clksel : BitVec 2) : getF (strapsStored s clksel) F.CLK_STRAP_CLKSEL = clksel.toNat := by
  have hstored : getF (setF (setF s F.CLK_STRAP_CLKSEL clksel.toNat) F.CLK_STRAP_STRAP_INV (b2n (clksel == 3))) F.CLK_STRAP_CLKSEL = clksel.toNat := by
    rw [getF_setF_other _ _ _ _ (by decide) (by decide) (by decide), getF_setF_same _ _ _ (by decide) (by decide)]
    exact Nat.mod_eq_of_lt clksel.isLt
  unfold strapsStored
  split
  · rw [getF_raise_other _ _ _ (by decide) (by decide) (by decide), hstored]
  · exact hstored

theorem isSet_strapsStored_invalid (s : State) (clksel : BitVec 2) : isSet (strapsStored s clksel) F.CLK_STRAP_STRAP_INV = (clksel == 3) := by
  have hstored := isSet_setB_same (setF s F.CLK_STRAP_CLKSEL clksel.toNat) F.CLK_STRAP_STRAP_INV (clksel == 3) rfl (by decide)
  unfold strapsStored
  split
  · exact (isSet_raise_other _ _ _ (by decide) (by decide) (by decide)).trans hstored
  · exact hstored

theorem isSet_strapsStored_fault (s : State) {clksel : BitVec 2} (h : clksel = 3) :
    isSet (strapsStored s clksel) F.GLB_FAULT_SUM_STRAP_INV = true := by
  rw [strapsStored, if_pos h]
  exact isSet_raise_same _ _ rfl (by decide)

theorem regsOnly_strapsStored (s : State) (clksel : BitVec 2) : RegsOnly s (strapsStored s clksel) :=
  .ite (.raise (.setF (.setF (.refl s) _ _) _ _) _) (.setF (.setF (.refl s) _ _) _ _)

theorem strapsSampled_endReset (s : State) (clksel : BitVec 2) (testen : Bool) : StrapsSampled clksel testen s.rtc (endReset s clksel testen) := by
  have hframe := regsOnly_endReset s clksel testen
  have hstrap : ∀ {f : Fld}, f.off ≠ R.PWR_PG → f.off ≠ R.PWR_DOM 17 → f.off ≠ R.CLK_STATUS →
      getF (endReset s clksel testen) f = getF (strapsStored (resetEnded s testen) clksel) f := fun hpg hdom hclk => by
    rw [getF_endReset _ _ _ hpg hdom, sampleStraps_eq, getF_refSelected_ne _ _ hclk]
  obtain ⟨href, hxtal, hx32⟩ := isSet_refSelected (strapsStored (resetEnded s testen) clksel) (clksel == 1 || clksel == 2)
  rw [← sampleStraps_eq] at href hxtal hx32
  exact {
    inReset := congrArg Pins.inReset hframe.pins
    testHalt := congrArg Pins.testHalt hframe.pins
    strap := (hstrap (by decide) (by decide) (by decide)).trans (getF_strapsStored_clksel _ _)
    invalid := by rw [isSet, hstrap (by decide) (by decide) (by decide), ← isSet, isSet_strapsStored_invalid]
    ref := (isSet_endReset _ _ _ (by decide) (by decide)).trans href
    xtal := (isSet_endReset _ _ _ (by decide) (by decide)).trans hxtal
    x32 := by rw [isSet_endReset _ _ _ (by decide) (by decide), hx32, (regsOnly_strapsStored _ _).rtc]; rfl
    fault := fun h3 => by rw [isSet, hstrap (by decide) (by decide) (by decide), ← isSet, isSet_strapsStored_fault _ h3]
    clock := hframe.rtc }

/-! #### The three ends of a reset -/

theorem exec_porstRelease {s : State} (clksel : BitVec 2) (testen : Bool) (hlow : s.pins.porstLow = true) (hmon : s.pins.monitorReset = false) :
    exec (.porstRelease clksel testen) s = done (endReset { s with pins := { s.pins with porstLow := false } } clksel testen) := by
  show execPorstRelease clksel testen s = _
  simp [execPorstRelease, hlow, hmon]

theorem exec_supplyMonitorResetEnd {s : State} (clksel : BitVec 2) (testen : Bool) (hmon : s.pins.monitorReset = true)
    (hhigh : s.pins.porstLow = false) :
    exec (.supplyMonitorResetEnd clksel testen) s = done (endReset { s with pins := { s.pins with monitorReset := false } } clksel testen) := by
  show execSupplyMonitorResetEnd clksel testen s = _
  simp [execSupplyMonitorResetEnd, hmon, hhigh]

/-- Nothing to recover from, or a write of the store in progress: no reset (R56). -/
theorem exec_holdupRecoveryReset_refused {s : State} (clksel : BitVec 2) (testen : Bool)
    (h : s.pins.pfwLow = false ∨ s.pins.husenseHigh = false ∨ s.pins.husenseRose = none ∨ (runningWrite s).isSome = true) :
    exec (.holdupRecoveryReset clksel testen) s = done s := by
  show execHoldupRecoveryReset clksel testen s = _
  rcases h with h | h | h | h <;> simp [execHoldupRecoveryReset, h]

theorem exec_holdupRecoveryReset {s : State} {t0 : Nat} (clksel : BitVec 2) (testen : Bool)
    (hreset : s.pins.inReset = false ∨ s.pins.testHalt = true) (hlow : s.pins.pfwLow = true) (hhigh : s.pins.husenseHigh = true)
    (hrose : s.pins.husenseRose = some t0) (hwait : s.mains.running = false ∨ t0 + 10000000 ≤ s.mains.elapsed) (hwrite : runningWrite s = none) :
    exec (.holdupRecoveryReset clksel testen) s = done (endReset (powerOnReset s) clksel testen) := by
  show execHoldupRecoveryReset clksel testen s = _
  have hwaited : (!s.mains.running || Nat.ble (t0 + 10000000) s.mains.elapsed) = true := by simpa using hwait
  have hheld : (s.pins.inReset && !s.pins.testHalt) = false := by rcases hreset with h | h <;> simp [h]
  simp [execHoldupRecoveryReset, hheld, hlow, hhigh, hrose, hwrite, hwaited]

theorem powerOnReset_pins (s : State) :
    (powerOnReset s).pins = { s.pins with inReset := true, testHalt := false, husenseRose := none } := by
  obtain ⟨n, k, hreset, -⟩ := powerOnReset_eq s
  rw [hreset]

/-- A power-on reset leaves no command, no frame and no phase (R68), and keeps the clock. -/
theorem powerOnReset_line (s : State) : (powerOnReset s).cmds = [] ∧ (powerOnReset s).jobs = [] ∧ (powerOnReset s).tx = [] ∧
    (powerOnReset s).rtc = s.rtc := by
  obtain ⟨n, k, hreset, -⟩ := powerOnReset_eq s
  rw [hreset]
  exact ⟨rfl, rfl, rfl, rfl⟩

/-- Settles O8: each of the three ends runs `endReset`, which samples the straps; that a reset with TESTEN high releases PFW# too is the
model's choice (log entry 83). -/
theorem resetEndSamplesStraps : Obligations.ResetEndSamplesStraps := by
  unfold Obligations.ResetEndSamplesStraps
  intro s clksel testen sampled
  have hsampled : ∀ t, StrapsSampled clksel testen s.rtc t → sampled t := fun t h =>
    ⟨h.inReset, h.testHalt, h.strap, h.invalid, h.ref, h.xtal, h.x32, h.fault, h.clock⟩
  refine ⟨fun hlow hmon => ?_, fun hmon hhigh => ?_, fun hs h => ?_, fun t0 hreset hlow hhigh hrose hwait hwrite => ?_⟩
  · have hend := strapsSampled_endReset { s with pins := { s.pins with porstLow := false } } clksel testen
    refine completes_done (exec_porstRelease clksel testen hlow hmon) ⟨hsampled _ hend.settle, ?_⟩
    rw [settle_pins, (regsOnly_endReset _ clksel testen).pins]
    rfl
  · have hend := strapsSampled_endReset { s with pins := { s.pins with monitorReset := false } } clksel testen
    refine completes_done (exec_supplyMonitorResetEnd clksel testen hmon hhigh) ⟨hsampled _ hend.settle, ?_⟩
    rw [settle_pins, (regsOnly_endReset _ clksel testen).pins]
    rfl
  · exact completes_settled (exec_holdupRecoveryReset_refused clksel testen h) hs rfl
  · obtain ⟨hcmds, hjobs, htx, hrtc⟩ := powerOnReset_line s
    have hframe := regsOnly_endReset (powerOnReset s) clksel testen
    refine completes_settled (exec_holdupRecoveryReset clksel testen hreset hlow hhigh hrose hwait hwrite)
      (settled_empty (hframe.jobs.trans hjobs) (hframe.tx.trans htx)) ⟨?_, ?_, hframe.cmds.trans hcmds, hframe.jobs.trans hjobs⟩
    · exact hsampled _ (hrtc ▸ strapsSampled_endReset (powerOnReset s) clksel testen)
    · rw [hframe.pins]
      simp [resetEnded, powerOnReset_pins, hhigh]

end Sys2Proof.Machine

namespace Sys2Proof.Machine

/-! ### What an operation keeps of the state -/

/-- A reading of the state is as before. -/
structure Kept {α : Type} (reading : State → α) (s t : State) : Prop where
  eq : reading t = reading s

namespace Kept

variable {α : Type} {reading : State → α}

theorem refl (s : State) : Kept reading s s := ⟨rfl⟩

theorem trans {s t u : State} (h : Kept reading s t) (k : Kept reading t u) : Kept reading s u := ⟨k.eq.trans h.eq⟩

theorem ite {s a b : State} {c : Prop} [Decidable c] (ha : Kept reading s a) (hb : Kept reading s b) :
    Kept reading s (if c then a else b) := by
  split
  · exact ha
  · exact hb

theorem foldl {β : Type} (l : List β) (f : State → β → State) (hf : ∀ u b, Kept reading u (f u b)) (s : State) :
    Kept reading s (l.foldl f s) := by
  induction l generalizing s with
  | nil => exact refl s
  | cons b l ih => exact (hf s b).trans (ih _)

end Kept

/-- The pins are as before. -/
abbrev PinsKept : State → State → Prop := Kept State.pins

theorem PinsKept.of_regs {s t : State} (h : RegsOnly s t) : PinsKept s t := ⟨h.pins⟩

theorem PinsKept.of_host {s t : State} (h : HostOnly s t) : PinsKept s t := ⟨h.pins⟩

/-- The pins and the power state in force (PWR_STATUS) are as before: so defects, levels and ended commands leave them. -/
abbrev SupplyKept : State → State → Prop := Kept fun s => (s.pins, rd s R.PWR_STATUS)

namespace SupplyKept

theorem intro {s t : State} (hpins : t.pins = s.pins) (hstatus : rd t R.PWR_STATUS = rd s R.PWR_STATUS) : SupplyKept s t :=
  ⟨Prod.ext hpins hstatus⟩

theorem of_host {s t : State} (h : HostOnly s t) : SupplyKept s t := intro h.pins (h.rd (by decide))

theorem of_capture {s t : State} (h : CaptureOnly s t) : SupplyKept s t := intro h.pins (h.rd (by decide) (by decide))

theorem wr (s : State) {o : Nat} (v : Word) (h : R.PWR_STATUS ≠ o) : SupplyKept s (wr s o v) := intro rfl (rd_wr_ne s v h)

end SupplyKept

theorem Kept.toPins {s t : State} (h : SupplyKept s t) : PinsKept s t := ⟨congrArg Prod.fst h.eq⟩

/-! #### Defects (R215, R230 to R233) -/

theorem supplyKept_updSess (s : State) (n : Nat) (f : Session → Session) : SupplyKept s (updSess s n f) := by
  unfold updSess
  split
  · exact ⟨rfl⟩
  · exact .refl s

theorem supplyKept_setOnset (s : State) (code : Nat) (o : DefObj) (t : Nat × Nat) : SupplyKept s (setOnset s code o t) := by
  cases o with
  | session n => exact supplyKept_updSess s n _
  | _ => exact ⟨rfl⟩

theorem supplyKept_markDefect (s : State) (code : Nat) (o : DefObj) (b : Bool) : SupplyKept s (markDefect s code o b) := by
  cases o with
  | session n => exact supplyKept_updSess s n _
  | _ => exact ⟨rfl⟩

theorem supplyKept_markSeen (s : State) (code : Nat) (o : DefObj) : SupplyKept s (markSeen s code o) :=
  Kept.ite (c := code < 2) ⟨rfl⟩ ⟨rfl⟩

theorem supplyKept_raise_defChg (s : State) : SupplyKept s (raise s F.LFR_EVT_DEF_CHG) := SupplyKept.wr s _ (by decide)

theorem supplyKept_reportRaise (s : State) (code : Nat) (o : DefObj) : SupplyKept s (reportRaise s code o) :=
  (supplyKept_setOnset s code o _).trans ((supplyKept_raise_defChg _).trans
    ((supplyKept_markSeen _ code o).trans (SupplyKept.of_capture (captureOnly_reportRaise s code o))))

theorem supplyKept_raiseWith {s : State} {f : State → State} (code : Nat) (o : DefObj) (hf : SupplyKept s (f s)) :
    SupplyKept s (raiseWith s code o f) :=
  .ite hf (hf.trans (supplyKept_reportRaise _ code o))

theorem supplyKept_trigger (s : State) (p : List Byte → Bool) (e : Nat) : SupplyKept s (trigger s p e) := SupplyKept.of_capture (captureOnly_trigger s p e)

theorem supplyKept_defectEvent (s : State) (code : Nat) (o : DefObj) (clear : Bool) (ts c d : Nat) :
    SupplyKept s (defectEvent s code o clear ts c d) :=
  SupplyKept.of_capture (captureOnly_defectEvent s code o clear ts c d)

theorem supplyKept_clearWith {s : State} {f : State → State} (code : Nat) (o : DefObj) (hf : ∀ u, SupplyKept u (f u)) :
    SupplyKept s (clearWith s code o f) := by
  have hcleared : SupplyKept s (raise (f (markSeen s code o)) F.LFR_EVT_DEF_CHG) :=
    (supplyKept_markSeen s code o).trans ((hf _).trans (supplyKept_raise_defChg _))
  unfold clearWith
  dsimp only
  generalize raise (f (markSeen s code o)) F.LFR_EVT_DEF_CHG = u at hcleared ⊢
  refine .ite (hf s) (.ite hcleared (hcleared.trans ?_))
  refine .trans ?_ (SupplyKept.of_capture (captureOnly_reportUncovered s _))
  exact .ite (supplyKept_trigger u _ _) ((supplyKept_trigger u _ _).trans (supplyKept_defectEvent _ _ _ _ _ _ _))

theorem supplyKept_setTx (s : State) (p : Nat) (t : TxPh) : SupplyKept s (setTx s p t) := ⟨rfl⟩

theorem supplyKept_changeTxf (s : State) (p : Nat) (f : TxPh → TxPh) : SupplyKept s (changeTxf s p f) := by
  have hupd : ∀ u, SupplyKept u (setTx u p (f (txPh u p))) := fun u => supplyKept_setTx u p _
  refine .ite (hupd s) (.ite ?_ (supplyKept_clearWith 7 (.phase p) hupd))
  exact (supplyKept_raiseWith 7 (.phase p) (hupd s)).trans (SupplyKept.wr _ _ (by decide))

theorem supplyKept_noteUv (s : State) : SupplyKept s (noteUv s) :=
  .ite (.refl s) (.foldl _ _ (fun u p => supplyKept_changeTxf u p _) s)

theorem supplyKept_losAll (s : State) : SupplyKept s (losAll s) :=
  .foldl _ _ (fun u i => .ite (supplyKept_raiseWith Def.los (.input i) (supplyKept_markDefect u _ _ _)) (.refl u)) s

/-! #### Levels (R203, R206, R208) -/

theorem supplyKept_dropLevel (s : State) (p : Nat) : SupplyKept s (dropLevel s p) := by
  unfold dropLevel
  split
  · exact SupplyKept.of_host (hostOnly_decision _ _ _ _ _ _ _ _)
  · exact .refl s

/-- The limiter's counts of a phase advance: samples limited, samples clipped, and gaps of Yarrow (R205, R206). -/
def limiterCounted (s : State) (p l c g : Nat) : State :=
  let s := bump (bump s (R.TXS_LIM_CNT p) l) (R.TXS_CLIP_CNT p) c
  let s := if g = 0 then s else raise (bump s R.YAR_PGAP_CNT g) F.YAR_EVT_PGAP
  setTx s p { txPh s p with clipEp := (txPh s p).clipEp + c }

theorem supplyKept_limiterCounted (s : State) (p l c g : Nat) : SupplyKept s (limiterCounted s p l c g) := by
  have hbump : ∀ (u : State) (o k : Nat), 0x1000 ≤ o → SupplyKept u (bump u o k) := fun u o k ho => SupplyKept.wr u _ (by
    simp only [R.PWR_STATUS]
    omega)
  have hcounts : SupplyKept s (bump (bump s (R.TXS_LIM_CNT p) l) (R.TXS_CLIP_CNT p) c) :=
    (hbump s _ l (by simp only [R.TXS_LIM_CNT]; omega)).trans (hbump _ _ c (by simp only [R.TXS_CLIP_CNT]; omega))
  have hgaps : ∀ u : State, SupplyKept u (raise (bump u R.YAR_PGAP_CNT g) F.YAR_EVT_PGAP) := fun u =>
    (hbump u _ g (by decide)).trans (SupplyKept.wr _ _ (by decide))
  exact .trans (.ite hcounts (hcounts.trans (hgaps _))) (supplyKept_setTx _ p _)

/-- The counts go up to a DAC sample: nothing but the sample they have reached moves, or they advance. -/
theorem countTo_cases (s : State) (p n : Nat) : ∃ t : TxPh,
    countTo s p n = setTx s p t ∨ ∃ l c g, countTo s p n = limiterCounted (setTx s p t) p l c g := by
  refine ⟨{ txPh s p with limNext := max (txPh s p).limNext n }, ?_⟩
  unfold countTo
  dsimp only
  split
  · exact .inl rfl
  · exact .inr ⟨_, _, _, rfl⟩

theorem supplyKept_countTo (s : State) (p n : Nat) : SupplyKept s (countTo s p n) := by
  obtain ⟨t, h | ⟨l, c, g, h⟩⟩ := countTo_cases s p n
  · exact h ▸ supplyKept_setTx s p t
  · exact h ▸ (supplyKept_setTx s p t).trans (supplyKept_limiterCounted _ p l c g)

theorem supplyKept_post (s : State) (o : Output) : SupplyKept s (post s o) := ⟨rfl⟩

theorem supplyKept_moveAmp (s : State) (p : Nat) : SupplyKept s (moveAmp s p) := by
  have hcount := supplyKept_countTo s p (dacNow s)
  unfold moveAmp
  dsimp only
  generalize countTo s p (dacNow s) = u at hcount ⊢
  exact hcount.trans (.ite (.refl u) (.ite (supplyKept_setTx u _ _) ((supplyKept_setTx u _ _).trans (supplyKept_post _ _))))

theorem supplyKept_startPhaseAtt (s : State) (p extra : Nat) : SupplyKept s (startPhaseAtt s p extra) := by
  have hdrop := supplyKept_dropLevel s p
  have hatt : ∀ (u : State) (v : Nat), SupplyKept u (setF u (F.TXS_LVL_ATT p) v) := fun u v => SupplyKept.wr u _ (by
    show R.PWR_STATUS ≠ R.TXS_LVL p
    simp only [R.PWR_STATUS, R.TXS_LVL]
    omega)
  unfold startPhaseAtt
  dsimp only
  generalize dropLevel s p = u at hdrop ⊢
  refine hdrop.trans (.trans ?_ (supplyKept_moveAmp _ p))
  exact .ite ((hatt u _).trans (supplyKept_setTx _ p _)) (supplyKept_setTx u p _)

/-! #### Commands and players that end (R64, R65, R337) -/

theorem supplyKept_complete (s : State) (c : Cmd) (status detail len : Nat) : SupplyKept s (complete s c status detail len) :=
  SupplyKept.of_host (hostOnly_complete s c status detail len)

theorem supplyKept_withdrawJob (s : State) (j : Job) : SupplyKept s (withdrawJob s j) := ⟨rfl⟩

theorem supplyKept_withdrawUnbegun (s : State) (uid : Nat) : SupplyKept s (withdrawUnbegun s uid) :=
  .foldl _ _ (fun u j => .ite (.refl u) (supplyKept_withdrawJob u j)) s

theorem supplyKept_freePlayer (s : State) (uid : Nat) : SupplyKept s (freePlayer s uid) := ⟨rfl⟩

theorem supplyKept_refuseWaiting (s : State) (c : Cmd) (code : Nat) :
    SupplyKept s (wrongState (freePlayer (withdrawUnbegun s c.uid) c.uid) c code) :=
  (supplyKept_withdrawUnbegun s c.uid).trans ((supplyKept_freePlayer _ c.uid).trans (supplyKept_complete _ c _ _ _))

theorem supplyKept_endWaiting (s : State) (code : Nat) : SupplyKept s (endWaiting s code) :=
  .foldl _ _ (fun u c => supplyKept_refuseWaiting u c code) s

theorem supplyKept_clearDefect (s : State) (code : Nat) (o : DefObj) : SupplyKept s (clearDefect s code o) :=
  supplyKept_clearWith code o fun u => supplyKept_markDefect u code o false

theorem supplyKept_pmPartial (s : State) (k : Nat) : SupplyKept s (pmPartial s k) := by
  unfold pmPartial updPm
  split
  · exact ⟨rfl⟩
  · exact .refl s

theorem supplyKept_freeSession (s : State) (node : Nat) : SupplyKept s (freeSession s node) := by
  have hdefects : SupplyKept s ([4, 5, 6].foldl (fun s c => clearDefect s c (.session node)) s) :=
    .foldl _ _ (fun u c => supplyKept_clearDefect u c (.session node)) s
  unfold freeSession
  dsimp only
  generalize [4, 5, 6].foldl (fun s c => clearDefect s c (.session node)) s = u at hdefects ⊢
  have hended : SupplyKept u (endRetention u node) := ⟨rfl⟩
  have hpartial := supplyKept_pmPartial (endRetention u node) (pmNode node)
  generalize pmPartial (endRetention u node) (pmNode node) = v at hpartial ⊢
  exact hdefects.trans (hended.trans (hpartial.trans ⟨rfl⟩))

theorem supplyKept_updMesh (s : State) (f : Mesh → Mesh) : SupplyKept s (updMesh s f) := ⟨rfl⟩

theorem supplyKept_countRepair (s : State) : SupplyKept s (countRepair s) :=
  ((SupplyKept.wr s _ (o := R.VET_REPAIR_CNT) (by decide)).trans (SupplyKept.wr _ _ (o := R.VET_EVT) (by decide))).trans (supplyKept_updMesh _ _)

theorem supplyKept_raiseRt (s : State) (path : List Nat) : SupplyKept s (raiseRt s path) :=
  (supplyKept_updMesh s _).trans (supplyKept_countRepair _)

theorem supplyKept_freeClosed (s : State) (node : Nat) : SupplyKept s (freeClosed s node) := .ite (supplyKept_freeSession s node) (.refl s)

theorem supplyKept_endExchange (s : State) (c : Cmd) (status detail len : Nat) : SupplyKept s (endExchange s c status detail len) := by
  have hnoted : SupplyKept s (if isExchange c && c.attempts != 0 then noteExchange s (carrier c) (Nat.blt 1 c.attempts) else s) :=
    .ite (supplyKept_updSess s _ _) (.refl s)
  refine .trans ?_ (supplyKept_freeClosed _ (carrier c))
  refine .trans ?_ (supplyKept_complete _ c status detail len)
  exact .ite (hnoted.trans (supplyKept_raiseRt _ _)) hnoted

theorem supplyKept_refuseCmd (c : Cmd) (s : State) (status detail : Nat) : SupplyKept s (refuseCmd c s status detail) :=
  .ite (supplyKept_endExchange s c _ _ _) (supplyKept_endExchange s c _ _ _)

theorem supplyKept_endRepeats (s : State) (code : Nat) : SupplyKept s (endRepeats s code) :=
  .foldl _ _ (fun u c => (supplyKept_withdrawUnbegun u c.uid).trans (supplyKept_refuseCmd c (withdrawUnbegun u c.uid) St.state code)) s

theorem supplyKept_noteTx (s : State) (p : Nat) : SupplyKept s (noteTx s p) :=
  .ite ⟨rfl⟩ (.ite ⟨rfl⟩ (.refl s))

theorem supplyKept_updJob (s : State) (id : Nat) (f : Job → Job) : SupplyKept s (updJob s id f) := ⟨rfl⟩

theorem supplyKept_setPlayer (s : State) (p : Nat) (x : Player) : SupplyKept s (setPlayer s p x) := ⟨rfl⟩

/-- A transmission of a stopped player ends at once, or is withdrawn before it has begun (R337). -/
def playerJobEnded (uid p : Nat) (s : State) (j : Job) : State :=
  if j.kind ≠ .player uid p then s else if j.begun then
    noteTx (updJob s j.id fun j => { j with ended := true, copies := j.copies.map fun c => if c.st = .onAir then { c with st := .done } else c }) p
  else withdrawJob s j

theorem supplyKept_playerJobEnded (uid p : Nat) (s : State) (j : Job) : SupplyKept s (playerJobEnded uid p s j) :=
  .ite (.refl s) (.ite ((supplyKept_updJob s j.id _).trans (supplyKept_noteTx _ p)) (supplyKept_withdrawJob s j))

theorem supplyKept_stopPlayer (s : State) (p : Nat) (pass : Bool) (status detail : Nat) : SupplyKept s (stopPlayer s p pass status detail) := by
  have hcount : ∀ n, SupplyKept s (if p < 3 then countTo s p n else s) := fun n => .ite (supplyKept_countTo s p n) (.refl s)
  have hended : ∀ (l : List Job) (uid : Nat) (u : State) (x : Player), SupplyKept u (l.foldl (playerJobEnded uid p) (setPlayer u p x)) :=
    fun l uid u x => (supplyKept_setPlayer u p x).trans (.foldl l _ (supplyKept_playerJobEnded uid p) _)
  refine .ite (.refl s) ?_
  extract_lets u _ x v w
  have hw : SupplyKept s w := (hcount _).trans (hended _ _ u _)
  split
  · exact hw.trans (supplyKept_complete w _ status detail _)
  · exact hw

theorem supplyKept_stopPlayers (s : State) (q : Nat → Player → Bool) (status detail : Nat) : SupplyKept s (stopPlayers s q status detail) :=
  .foldl _ _ (fun u p => .ite (supplyKept_stopPlayer u p _ _ _) (.refl u)) s

/-! #### Hold-over (R110, R111) -/

theorem supplyKept_enterHoldover (s : State) : SupplyKept s (enterHoldover s) := by
  have htrack : ∀ u : State, SupplyKept u (dropTrack u) := fun u => ⟨rfl⟩
  have hfield : ∀ (u : State) (f : Fld) (v : Nat), R.PWR_STATUS ≠ f.off → SupplyKept u (setF u f v) := fun u f v hf => SupplyKept.wr u _ hf
  have hlost : SupplyKept s (raiseWith s Def.loms .device fun s => setF s F.MSY_STATUS_LOCK 0) :=
    supplyKept_raiseWith Def.loms .device (hfield s _ 0 (by decide))
  have hlimit : ∀ u : State, SupplyKept u (txLimit u) := fun u =>
    (hfield u F.MSY_STATUS_TXMUTE 1 (by decide)).trans (supplyKept_endWaiting _ _)
  refine .ite (htrack s) ?_
  extract_lets u v w
  have hw : SupplyKept s w := (hlost.trans (htrack u)).trans (((hfield _ F.MSY_EVT_LOMS_CHG 1 (by decide)).trans
    (hfield _ F.MSY_STATUS_HOLD 1 (by decide))).trans (hfield _ F.MSY_STATUS_HOLD_AGE 0 (by decide)))
  exact .ite (hw.trans (hlimit w)) hw

/-! ### Changes of the power state leave the pins alone (R61 to R65) -/

theorem pinsKept_pwr (s : State) (p : Power) : PinsKept s { s with pwr := p } := ⟨rfl⟩

theorem pinsKept_raise (s : State) (f : Fld) : PinsKept s (raise s f) := ⟨rfl⟩

theorem pinsKept_setPower (s : State) (n : Nat) : PinsKept s (setPower s n) := ⟨rfl⟩

theorem pinsKept_reqDomains (s : State) (l : List Nat) : PinsKept s (reqDomains s l) :=
  PinsKept.of_regs (RegsOnly.foldl (.refl s) _ l fun u _ => .ite (.refl u) (.setF (.refl u) _ _))

theorem pinsKept_domainsDown (s : State) (l : List Nat) : PinsKept s (domainsDown s l) := by
  have hpads : PinsKept s (if l.contains 16 && domainOn s 16 then post s (.portPads false) else s) := .ite ⟨rfl⟩ (.refl s)
  exact hpads.trans (.foldl _ _ (fun u d => PinsKept.of_regs ((regsOnly_setPg u d false).setF _ _)) _)

/-! #### Active -/

theorem pwrState_setPower (s : State) {n : Nat} (h : n < 8) : pwrState (setPower s n) = n := by
  unfold pwrState setPower
  rw [getF_raise_other _ _ _ (by decide) (by decide) (by decide), getF_setF_other _ _ _ _ (by decide) (by decide) (by decide),
    getF_setF_same _ _ _ (by decide) (by decide)]
  exact Nat.mod_eq_of_lt h

theorem Kept.pwrState {s t : State} (h : SupplyKept s t) : pwrState t = pwrState s := by
  have hstatus : rd t F.PWR_STATUS_STATE.off = rd s F.PWR_STATUS_STATE.off := congrArg Prod.snd h.eq
  simp only [Machine.pwrState, getF, rdN, hstatus]

theorem supplyKept_activeNow (s : State) : SupplyKept (setPower { s with pwr := { s.pwr with armed := false } } 4) (activeNow s) :=
  (supplyKept_noteUv _).trans (.foldl _ _ (fun u p => supplyKept_startPhaseAtt u p 0) _)

theorem pinsKept_activeNow (s : State) : PinsKept s (activeNow s) :=
  (pinsKept_pwr s _).trans ((pinsKept_setPower _ 4).trans (supplyKept_activeNow s).toPins)

theorem pwrState_activeNow (s : State) : pwrState (activeNow s) = 4 :=
  (supplyKept_activeNow s).pwrState.trans (pwrState_setPower _ (by decide))

theorem pinsKept_armActive (s : State) {force : State → State} (h : ∀ u, PinsKept u (force u)) : PinsKept s (armActive s force) :=
  .ite (pinsKept_pwr s _) (h s)

theorem pinsKept_beginActive (s : State) : PinsKept s (beginActive s) := by
  unfold beginActive
  extract_lets asked phases drivers
  have hasked : PinsKept s asked := (pinsKept_raise s _).trans (pinsKept_reqDomains _ _)
  have hdrivers : PinsKept s drivers := .ite (hasked.trans (pinsKept_reqDomains asked _)) (hasked.trans (supplyKept_noteUv asked).toPins)
  exact .ite hdrivers (hdrivers.trans (pinsKept_armActive drivers pinsKept_activeNow))

/-! #### Standby -/

theorem pinsKept_drainBank (s : State) (fn c : Nat) : PinsKept s (drainBank s fn c) := PinsKept.of_host (hostOnly_drainBank s fn c)

theorem pinsKept_confEvent (s : State) (conf ph b : Nat) : PinsKept s (confEvent s conf ph b) :=
  (pinsKept_raise s _).trans (PinsKept.of_host (hostOnly_eventNow _ _ _ _ _))

theorem pinsKept_evalConflicts (s : State) : PinsKept s (evalConflicts s) :=
  (PinsKept.of_regs (.setF (.refl s) _ _)).trans (.foldl _ _ (fun u b => pinsKept_confEvent u _ _ b) _)

theorem pinsKept_clearEngines (s : State) : PinsKept s (clearEngines s) := by
  unfold clearEngines
  extract_lets _ _ _ _ _ _ _ t
  have ht : PinsKept s t := ⟨(setF_pins _ _ _).trans ((wrN_pins _ _ _).trans (resetRegs_pins s standbyReset))⟩
  exact .ite (ht.trans (.foldl _ _ (fun u i => pinsKept_raise u _) t)) ht

/-- What Standby switches off (R61). -/
theorem pinsKept_enterStandby (s : State) : PinsKept s (enterStandby s) := by
  unfold enterStandby
  extract_lets drained off
  have hdrained : PinsKept s drained := .foldl _ _ (fun u c => .foldl _ _ (fun v fn => pinsKept_drainBank v fn c) u) s
  have hoff : PinsKept drained off :=
    (pinsKept_clearEngines drained).trans ((pinsKept_domainsDown _ _).trans (pinsKept_evalConflicts _))
  exact (hdrained.trans hoff).trans ((pinsKept_pwr off _).trans (pinsKept_setPower _ 2))

theorem pinsKept_beginStandby (s : State) : PinsKept s (beginStandby s) := by
  have hrefused : ∀ (l : List Cmd) (u : State), PinsKept u (l.foldl (fun s c => wrongState s c 0x09) u) :=
    fun l u => .foldl l _ (fun v c => (supplyKept_complete v c _ _ _).toPins) u
  have hsec : ∀ (u : State) (x : Sec), PinsKept u { u with sec := x } := fun u x => ⟨rfl⟩
  unfold beginStandby
  extract_lets _ asked fetched waiting ended _ standing
  have hasked : PinsKept s asked := (pinsKept_pwr s _).trans (pinsKept_raise _ _)
  have hfetched : PinsKept asked fetched := hrefused _ asked
  have hwaiting : PinsKept fetched waiting := ((supplyKept_endWaiting fetched _).trans (supplyKept_endRepeats _ _)).toPins
  have hended : PinsKept waiting ended :=
    ((SupplyKept.of_capture (captureOnly_endStreams waiting _ _ _)).trans (supplyKept_stopPlayers _ _ _ _)).toPins
  have hstanding : PinsKept ended standing := (hsec ended _).trans (hrefused _ _)
  have hall : PinsKept s standing := hasked.trans (hfetched.trans (hwaiting.trans (hended.trans hstanding)))
  exact .ite (hall.trans (pinsKept_enterStandby standing)) hall

/-! #### Changes that go on (R62 to R65) -/

theorem pinsKept_pursueListen (s : State) : PinsKept s (pursueListen s) :=
  .ite (pinsKept_beginActive s) (.ite (pinsKept_beginStandby s) (.refl s))

theorem pinsKept_finishLeave (s : State) : PinsKept s (finishLeave s) := by
  unfold finishLeave
  extract_lets off
  have hoff : PinsKept s off := pinsKept_domainsDown s _
  exact (hoff.trans ((pinsKept_pwr off _).trans (pinsKept_setPower _ 3))).trans (pinsKept_pursueListen _)

theorem pinsKept_beginLeave (s : State) : PinsKept s (beginLeave s) := by
  unfold beginLeave
  extract_lets _ asked code waiting withdrawn
  have hasked : PinsKept s asked := (pinsKept_pwr s _).trans (pinsKept_raise _ _)
  have hwaiting : PinsKept asked waiting := ((supplyKept_endWaiting asked code).trans (supplyKept_endRepeats _ code)).toPins
  have hwithdrawn : PinsKept waiting withdrawn := (Kept.foldl _ _ supplyKept_withdrawJob waiting).toPins
  have hall : PinsKept s withdrawn := hasked.trans (hwaiting.trans hwithdrawn)
  exact .ite (hall.trans (pinsKept_finishLeave withdrawn)) hall

/-- From Active a request is to stay, or to leave. -/
theorem pinsKept_pursue_active {s : State} (h : pwrState s = 4) : PinsKept s (pursue s) := by
  unfold pursue
  dsimp only
  rw [h]
  exact .ite (.refl s) (.ite (.refl s) (pinsKept_beginLeave s))

theorem pinsKept_enterActive (s : State) : PinsKept s (enterActive s) :=
  (pinsKept_activeNow s).trans (pinsKept_pursue_active (pwrState_activeNow s))

theorem pinsKept_pmStart (s : State) : PinsKept s (pmStart s) := ⟨rfl⟩

theorem pinsKept_riseDone (s : State) : PinsKept s (riseDone s) :=
  (pinsKept_setPower s 3).trans ((pinsKept_pmStart _).trans (pinsKept_pursueListen _))

theorem pinsKept_settlePower (s : State) : PinsKept s (settlePower s) :=
  .ite (.refl s) (.ite (pinsKept_riseDone s) (.ite (pinsKept_armActive s pinsKept_enterActive) (.refl s)))

/-! ### The high-voltage supplies (R46 to R49, R73, R214) -/

theorem pinsKept_hvUnpowered (s : State) : PinsKept s (hvUnpowered s) := by
  have hlanes : ∀ m : FMap BLane, PinsKept s { s with blanes := m } := fun m => ⟨rfl⟩
  unfold hvUnpowered
  extract_lets off
  have hoff : PinsKept s off := (hlanes _).trans (pinsKept_domainsDown _ _)
  exact hoff.trans ((supplyKept_enterHoldover off).trans (supplyKept_losAll _)).toPins

theorem pinsKept_vdrvGone (s : State) : PinsKept s (vdrvGone s) := by
  unfold vdrvGone
  extract_lets off
  have hoff : PinsKept s off := pinsKept_domainsDown s _
  exact (Kept.ite (hoff.trans (supplyKept_noteUv off).toPins) hoff).trans (pinsKept_settlePower _)

theorem pinsKept_vdrvBack (s : State) : PinsKept s (vdrvBack s) := by
  unfold vdrvBack
  extract_lets asked
  have hasked : PinsKept s asked := pinsKept_reqDomains s _
  exact .ite (.ite (hasked.trans (pinsKept_pwr asked _)) hasked) (.refl s)

/-- The supplies as they are now: with neither, HVCORE has no power good (R46). -/
def supplied (p : Pins) (vdrv viso5 : Bool) : Pins := { p with vdrv := vdrv, viso5 := viso5, hvPg := p.hvPg && (vdrv || viso5) }

/-- What a change of the supplies brings about leaves the pins as `supplied` has them. -/
theorem pinsKept_setSupply (s : State) (vdrv viso5 : Bool) :
    PinsKept { s with pins := supplied s.pins vdrv viso5 } (setSupply s vdrv viso5) := by
  unfold setSupply
  extract_lets _ _ now vdrvChg viso5Chg srcChg lost
  have hvdrv : PinsKept now vdrvChg := .ite (.refl now) (pinsKept_raise now _)
  have hviso5 : PinsKept vdrvChg viso5Chg := .ite (.refl _) (pinsKept_raise _ _)
  have hsrc : PinsKept viso5Chg srcChg := .ite (.refl _) (pinsKept_raise _ _)
  have hlost : PinsKept srcChg lost := .ite (pinsKept_hvUnpowered srcChg) (.refl srcChg)
  have hall : PinsKept now lost := hvdrv.trans (hviso5.trans (hsrc.trans hlost))
  exact .ite (.refl now) (.ite hall (.ite (hall.trans (pinsKept_vdrvBack lost)) (hall.trans (pinsKept_vdrvGone lost))))

/-- A supply that changes completes with the pins as `supplied` has them. -/
theorem completes_setSupply {i : Instr} {s : State} {vdrv viso5 : Bool} {P : State → Prop} (h : exec i s = done (setSupply s vdrv viso5))
    (hP : ∀ t : State, t.pins = supplied s.pins vdrv viso5 → P t) : Completes i s P :=
  completes_done h (hP _ ((settle_pins _).trans (pinsKept_setSupply s vdrv viso5).eq))

/-- Presence with hysteresis, in mV: up to `high` an absent supply stays absent, down to `low` a present one stays present (R46). -/
def presentAfter (present : Bool) (low high mv : Nat) : Bool := if present then decide (low ≤ mv) else decide (high < mv)

theorem presentAfter_eq (present : Bool) (low high mv : Nat) :
    (if present then Nat.ble low mv else Nat.blt high mv) = presentAfter present low high mv := by
  have hle : ∀ a b, Nat.ble a b = decide (a ≤ b) := fun a b => Bool.eq_iff_iff.2 (by simp)
  unfold presentAfter
  rw [hle, Nat.blt, hle]
  rfl

theorem exec_vdrvPresenceChange (s : State) (mv : Nat) :
    exec (.vdrvPresenceChange mv) s = done (setSupply s (presentAfter s.pins.vdrv 10500 11000 mv) s.pins.viso5) := by
  rw [← presentAfter_eq]
  rfl

theorem exec_viso5PresenceChange (s : State) (mv : Nat) :
    exec (.viso5PresenceChange mv) s = done (setSupply s s.pins.vdrv (presentAfter s.pins.viso5 4400 4600 mv)) := by
  rw [← presentAfter_eq]
  rfl

theorem exec_hvcorePowerGood {s : State} (hoff : s.pins.hvPg = false) (hsrc : s.pins.vdrv = true ∨ s.pins.viso5 = true)
    (hreset : s.pins.inReset = false) :
    exec .hvcorePowerGood s = done (bumpF (setPg { s with pins := { s.pins with hvPg := true } } 17 true) (F.PWR_DOM_ON_CNT 17)) := by
  show execHvcorePowerGood s = _
  have hsome : (!s.pins.vdrv && !s.pins.viso5) = false := by rcases hsrc with h | h <;> simp [h]
  simp [execHvcorePowerGood, hoff, hsome, hreset]

/-- HVCORE is on once its power good is stored (R44). -/
theorem domainOn_hvcorePg (s : State) : domainOn (bumpF (setPg s 17 true) (F.PWR_DOM_ON_CNT 17)) 17 = true := by
  have hstored : rdN (bumpF (setPg s 17 true) (F.PWR_DOM_ON_CNT 17)) R.PWR_PG = setBits (rdN s R.PWR_PG) 17 17 1 := by
    show rdN (bumpF (setB (wrN s R.PWR_PG (setBits (rdN s R.PWR_PG) 17 17 1)) (F.PWR_DOM_PG 17) true) (F.PWR_DOM_ON_CNT 17)) R.PWR_PG = _
    rw [bumpF, rdN_setF_ne _ _ _ (by decide), setB, rdN_setF_ne _ _ _ (by decide), rdN_wrN, if_pos rfl]
    exact Nat.mod_eq_of_lt (setBits_lt 1 (rdN_lt s _) le_rfl (by decide))
  rw [domainOn, hstored, bit_eq_testBit, setBits_testBit _ _ le_rfl]
  rfl

/-- Settles O15: the pins are those of `supplied` whatever else a change of the supplies brings about, and VDRV absent is a hard mute. -/
theorem highVoltageSupplies : Obligations.HighVoltageSupplies := by
  unfold Obligations.HighVoltageSupplies
  refine fun s mv => ⟨?_, ?_, fun hoff hsrc hreset => ?_, rfl⟩
  · refine completes_setSupply (exec_vdrvPresenceChange s mv) fun t ht => ⟨?_, ?_, fun hgone p => ?_, ?_⟩
    · rw [ht]
      rfl
    · rw [ht]
      rfl
    · exact hardMute_isSome (by simp [defectlessMute, hgone]) p
    · rw [ht]
      rfl
  · refine completes_setSupply (exec_viso5PresenceChange s mv) fun t ht => ⟨?_, ?_, ?_⟩
    all_goals
      rw [ht]
      rfl
  · refine completes_done (exec_hvcorePowerGood hoff hsrc hreset) ⟨?_, ?_⟩
    · rw [settle_pins, bumpF_pins, (regsOnly_setPg _ 17 true).pins]
    · rw [domainOn, settle_rdN _ (by decide)]
      exact domainOn_hvcorePg _

end Sys2Proof.Machine

namespace Sys2Proof.Machine

/-! ### Every meaning carries out the mutes it has caused (R85, R211, R217) -/

/-- The answer is a next state whose hard mutes have been carried out. -/
def Answers (a : Answer) : Prop := ∃ u, a = done u

theorem answers_done (s : State) : Answers (done s) := ⟨s, rfl⟩

theorem Answers.ite {c : Prop} [Decidable c] {a b : Answer} (ha : Answers a) (hb : Answers b) : Answers (if c then a else b) := by
  split
  · exact ha
  · exact hb

/-- Every branch of every meaning ends in `done`: those unfolded here choose among branches, the others are one `done` as they stand. -/
theorem answers_exec (i : Instr) (s : State) : Answers (exec i s) := by
  cases i
  all_goals dsimp only [exec,
    execPorstAssert, execPorstRelease, execSupplyMonitorReset, execSupplyMonitorResetEnd, execHusenseRise, execHoldupRecoveryReset,
    execDeviceResetWaitEnd, execHostLinkReset, execFunctionLevelReset, execD3hotEntry, execD0Return, execVfEnableClear,
    execVfEnableSet, execActiveExitFrameEnd, execDomainPowerGood, execDomainPgTimeout, execTimekeepingPllLock, execFuseShadowValid,
    execLinkTrained, execFirmwareImageVerified, execDramTrained, execFirmwareStart, execXatonApply, execControlDomainsOn,
    execListenReached, execLaneCommaLock, execLaneLockTimeout, execLanePacketCrcError, execLaneInvalidCharacter,
    execFiveLaneMapChange, execHvcorePowerGood, execFaultEvent, execDramUncorrectable, execParitySweep, execCrcPass,
    execWatchdogExpiry, execRegisterWrite, execReadClear, execSenseSample, execSenseTemperatureUpdate, execZeroCrossing,
    execCycleBoundary, execHoldoverTxLimit, execPpsEdge, execConverterSample, execRxWorkingSample, execBlankerSeedDone,
    execBlankMaxrun, execLaneApplyPoint, execLaneSymbolEnd, execSearchWindowEnd, execLofTimeout, execHeaderDecoded,
    execBodyDecoded, execModeAnnounceExhausted, execSupervisionFallback, execFrameDecrypt, execHwmCommitDone,
    execFrameTransmitStart, execCarrierSenseCheck, execFrameTransmitEnd, execImpedanceUpdate, execOvercurrentExceed,
    execDriverTempWarn, execThermalShutdown, execThermalClear, execOcAutoRetry, execRetryReload, execPmSecond, execBinFinal,
    execSlotCommit, execSupervisionExpiry, execDeadlineExpiry, execRoutedReplyTimeout, execRouteComputeDone, execRepairHoldExpiry,
    execNeighbourAgeExpiry, execLearnedEntryAgeExpiry, execCaptureItem, execChunkTimeout, execPlayerEntryEnd,
    execPlayerAlignResume, execPlayerStartCycle, execHeadDoorbell, execRingEnable, execRingDisable, execSqDrained,
    execDescriptorFetch, execBankStale, execPkOperationDone, execFuseProgramDone, execNvsWriteDone, execNvsScanDone,
    execNvsRotationRewrite, execRtcCommitApply, execAonSourceChange, execTamperOpen, execUartCharacterReceived,
    execUartCharacterSent, execI2cTransactionDone, execI2cSclTimeout, execSpiFlashDone, execSpiTargetRead, execSpiTargetWrite,
    execJirothLaneLock, execJirothSegmentFail, execJirothEnum, execJirothTiming, execJirothBoundary, execJirothEvent,
    execJirothRoute, execJirothBreak, execJirothPacketCrcError, execRefSourceLost, execRefRelock, execIslandUnlock,
    execIslandRelock, execIslandRelockTimeout, execMsixUnmask, execCompletionTimeout]
  all_goals repeat' first | exact answers_done _ | apply Answers.ite | split

theorem answers_step (s : State) : Answers (step s) := by
  unfold step
  split
  · exact answers_exec _ _
  · exact answers_done _

theorem Answers.completes {i : Instr} {s : State} (h : Answers (exec i s)) : Completes i s Settled := by
  obtain ⟨u, hu⟩ := h
  exact ⟨settle u, hu, settled_settle u⟩

/-- Settles O2: every meaning ends in `done`, which leaves nothing on the air on a muted phase. -/
theorem everyCommandCompletesSettled : Obligations.EveryCommandCompletesSettled := by
  unfold Obligations.EveryCommandCompletesSettled
  exact fun i s => (answers_exec i s).completes

/-- Settles O3: a step is a command's meaning or a tick, and either ends in `done`. -/
theorem stepKeepsMutedPhasesSilent : Obligations.StepKeepsMutedPhasesSilent := by
  unfold Obligations.StepKeepsMutedPhasesSilent
  refine ⟨fun s t _ hstep => ?_, fun s => ?_⟩
  · obtain ⟨u, hu⟩ := answers_step s
    have ht : t = settle u := by
      rw [hu] at hstep
      injection hstep with h
      exact h.symm
    exact ht ▸ settled_settle u
  · obtain ⟨u, hu⟩ := answers_step s
    exact ⟨settle u, hu⟩

end Sys2Proof.Machine

namespace Sys2Proof.Machine

/-! ### What a power-on reset leaves (R68, R71, R465, R503) -/

/-- AON alone is kept, the inputs of the reset apart. -/
theorem aonKept_powerOnReset (s : State) : AonKept s (powerOnReset s) := by
  obtain ⟨n, k, hreset, hretired, -⟩ := powerOnReset_eq s
  refine ⟨rd_powerOnReset s, ?_⟩
  rw [hreset]
  exact ⟨rfl, rfl, hretired, rfl, rfl, rfl, rfl, rfl⟩

theorem settled_powerOnReset (s : State) : Settled (powerOnReset s) := by
  obtain ⟨-, hjobs, htx, -⟩ := powerOnReset_line s
  exact settled_empty hjobs htx

/-- What is kept does not depend on the pins. -/
theorem AonKept.of_pins {s t : State} {p : Pins} (h : AonKept { s with pins := p } t) : AonKept s t := h

theorem exec_porstAssert {s : State} (h : s.pins.porstLow = false) :
    exec .porstAssert s = done (powerOnReset { s with pins := { s.pins with porstLow := true } }) := by
  show execPorstAssert s = _
  simp [execPorstAssert, h]

theorem exec_supplyMonitorReset {s : State} (h : s.pins.porstLow = false) :
    exec .supplyMonitorReset s = done (powerOnReset { s with pins := { s.pins with monitorReset := true } }) := by
  show execSupplyMonitorReset s = _
  simp [execSupplyMonitorReset, h]

/-- The power-on reset that comes with an AON reset: the monitor holds it unless PORST# does. -/
def aonFallen (s : State) : State :=
  powerOnReset { s with pins := { s.pins with monitorReset := s.pins.monitorReset || !s.pins.porstLow } }

theorem exec_aonReset (s : State) : exec .aonReset s = done { resetRegs (aonFallen s) rtcReg with rtc := {} } := rfl

/-- With the RTC block every register is at its reset value. -/
theorem rd_aonFallen_reset (s : State) (off : Nat) : rd (resetRegs (aonFallen s) rtcReg) off = resetValue off := by
  rw [rd_resetRegs]
  split
  · rfl
  · next h => rw [aonFallen, rd_powerOnReset, if_neg h]

/-- Settles O7: all three run `powerOnReset`, the last with the RTC block reset too. -/
theorem powerOnResetKeepsOnlyAon : Obligations.PowerOnResetKeepsOnlyAon := by
  unfold Obligations.PowerOnResetKeepsOnlyAon
  refine fun s => ⟨fun h => ?_, fun h => ?_, ?_⟩
  · refine completes_settled (exec_porstAssert h) (settled_powerOnReset _) ⟨(aonKept_powerOnReset _).of_pins, ?_⟩
    rw [powerOnReset_pins]
  · refine completes_settled (exec_supplyMonitorReset h) (settled_powerOnReset _) ⟨(aonKept_powerOnReset _).of_pins, ?_⟩
    rw [powerOnReset_pins]
  · have hsettled : Settled { resetRegs (aonFallen s) rtcReg with rtc := {} } := (settled_powerOnReset _).congr rfl rfl fun _ => rfl
    obtain ⟨-, -, hfuses, -, hcmds, hjobs, -, hposted, hreset⟩ : AonKept s (aonFallen s) := (aonKept_powerOnReset _).of_pins
    exact completes_settled (exec_aonReset s) hsettled ⟨rd_aonFallen_reset s, rfl, hfuses, hcmds, hjobs, hposted, hreset⟩

end Sys2Proof.Machine

/-! ### A fault window of the NVS array -/

namespace Sys2Proof.Machine

/-- A machine out of reset, as the reset left it. -/
def afterReset : State := { State.reset with pins := { State.reset.pins with inReset := false } }

/-- A worn row is counted in `NVS_CORR_CNT` as well as on its source. -/
theorem exec_faultEvent_row_counts {t : State} (h : exec (.faultEvent 1 0) afterReset = .next t) : rd t R.NVS_CORR_CNT = 1 := by
  have hrun : (match exec (.faultEvent 1 0) afterReset with | .next t => rd t R.NVS_CORR_CNT | _ => 0) = 1 := by decide +kernel
  rwa [h] at hrun

/-- Refutes O20: a transient event of source 1 changes `NVS_CORR_CNT` too (rows corrected on reading), which the statement's list of registers leaves out. -/
theorem not_faultWindowDecidesTransientOrLasting : ¬ Obligations.FaultWindowDecidesTransientOrLasting := by
  unfold Obligations.FaultWindowDecidesTransientOrLasting
  intro h
  obtain ⟨-, htransient, -⟩ := h afterReset 1 0 rfl rfl
  obtain ⟨t, ht, -, -, -, hregs, -⟩ := htransient (settled_empty rfl rfl) (by decide +kernel) (by decide +kernel)
  have hkept : rd t R.NVS_CORR_CNT = rd afterReset R.NVS_CORR_CNT := hregs _ (by decide)
  exact absurd ((exec_faultEvent_row_counts ht).symm.trans hkept) (by decide +kernel)

end Sys2Proof.Machine

/-! ### An uncorrectable word while a frame is cut -/

namespace Sys2Proof.Machine

/-- A frame of command 5 that its phase still sends although its job has ended. -/
def endedOnAir : Job :=
  { id := 9, kind := .command 5, fn := 0, node := 0x300, ended := true,
    copies := [{ ch := { pair := 0, ph := 0 }, t0 := 0, t1 := 0, st := .onAir }] }

/-- The DRAM domain is on, VDRV is absent, and the frame of command 5 has not been cut yet. -/
def uncutFrame : State :=
  { wrN State.reset R.PWR_PG (2 ^ 13) with
    jobs := [endedOnAir], cmds := [{ uid := 5, fn := 0, sq := 0, cq := 0, desc := [], st := .onLine }] }

/-- The hard mute that was due is carried out, and with it command 5 completes, whatever command the word was read for. -/
theorem exec_dramUncorrectable_cuts {t : State} (h : exec (.dramUncorrectable 0 (some 7)) uncutFrame = .next t) : t.cmds = [] := by
  have hrun : (match exec (.dramUncorrectable 0 (some 7)) uncutFrame with | .next t => t.cmds | _ => []).length = 0 := by decide +kernel
  rw [h] at hrun
  exact List.eq_nil_of_length_eq_zero hrun

/-- Refutes O21: with no job live another command may still end, where a copy of an ended job is on the air on a hard-muted phase
(a state that is not `Settled`, which the statement does not exclude): its cut completes the command. -/
theorem not_faultSettingsAndRetiredPages : ¬ Obligations.FaultSettingsAndRetiredPages := by
  unfold Obligations.FaultSettingsAndRetiredPages
  rintro ⟨h, -⟩
  obtain ⟨-, -, hword⟩ := h uncutFrame 0 (by decide +kernel)
  obtain ⟨t, ht, -, hkept, -⟩ := hword 7
  have hc := hkept (by decide) _ (List.mem_singleton_self _) (by decide)
  rw [exec_dramUncorrectable_cuts ht] at hc
  exact absurd hc List.not_mem_nil

end Sys2Proof.Machine

/-! ### A subsystem record whose domain is off -/

namespace Sys2Proof.Machine

/-- A Xaton image of X_SVN 1 with its records and signature, of the key of number 12345678901234567890 (R436, R438). -/
def xatonImage (recs : List Byte) (sig : Nat) : List Byte :=
  [0x58, 0x41, 0x54, 0x4E] ++ toLE 2 1 ++ toLE 2 1 ++ toLE 4 (256 + recs.length) ++ List.replicate 116 0 ++
  toBE 64 3291319580188701289659799092381099935404095429006852791577761704130161615277441193471594889572535882819231337872574892073089716167714881216147089619869310 ++
  toBE 64 sig ++ recs

/-- The image with one SUBSYS record, of vendor 0x1AF4 and id 0x1001. -/
def subsysImage : List Byte := xatonImage [4, 0, 4, 0, 0xF4, 0x1A, 0x01, 0x10]
  12331492605520789040415754759983152049502787556167463266355394118633695789834182699823423046743960010272413813089652184755690023736814189953093381102349155

/-- The hash of the integrator key in the fuse words. -/
def integratorKey : FMap Word :=
  [(0x031, 611233505), (0x032, 1490797901), (0x033, 1745561274), (0x034, 2815833583), (0x035, 387231861), (0x036, 4205169144),
    (0x037, 2058732478), (0x038, 2680094699), (0x039, 3259784041), (0x03A, 2520821027), (0x03B, 2322035103), (0x03C, 2353264680)]

/-- Step 9 of the boot is reached with every domain off; the integrator key of `subsysImage` is fused. -/
def hostSideOff : State :=
  let s := wrN (setF afterReset F.GLB_STATUS_BOOT_PHASE 4) R.PWR_PG 0
  { s with boot := { s.boot with running := true, resolved := integratorKey } }

theorem verifyXaton_subsysImage : verifyXaton hostSideOff subsysImage = .ok (some [.subsys 0x1AF4 0x1001]) := by
  decide +kernel

theorem regsOnly_reqDomains (s : State) (l : List Nat) : RegsOnly s (reqDomains s l) :=
  .foldl (.refl s) _ l fun u _ => .ite (.refl u) (.setF (.refl u) _ _)

/-- What the end of step 9 leaves of the host link, of the line and of the phases. -/
theorem endXaton_line (s : State) (img : List Byte) :
    (endXaton s img).pcie = s.pcie ∧ (endXaton s img).jobs = s.jobs ∧ (endXaton s img).tx = s.tx := by
  have h := regsOnly_reqDomains (setF (extendSlot (extendSlot s 6 (sha384 img)) 7
    ([R.GLB_CRC_REF 0, R.GLB_CRC_REF 1, R.GLB_CRC_REF 2, R.GLB_CRC_REF 3, R.GLB_LOCK].flatMap fun r =>
      toLE 4 (rdN (extendSlot s 6 (sha384 img)) r))) F.SPI_F_STATUS_OWN 0) controlDomains
  exact ⟨h.pcie, h.jobs, h.tx⟩

/-- A SUBSYS record is held while domain 1 is off (R438 step 5). -/
theorem applyXaton_subsys_held {s : State} (h : domainOn s 1 = false) (ven id : Nat) :
    applyXaton s [.subsys ven id] = { s with boot := { s.boot with xaton := [.subsys ven id], held := [.subsys ven id] } } := by
  simp [applyXaton, XRec.isLock, XRec.refSet, XRec.domain, h]

theorem exec_xatonApply_ok {s : State} {image : List Byte} {rs : List XRec} (hphase : getF s F.GLB_STATUS_BOOT_PHASE = 4)
    (hrun : s.boot.running = true) (himage : verifyXaton s image = .ok (some rs)) :
    exec (.xatonApply image) s = done (endXaton (applyXaton (raise (setF (setF s F.GLB_STATUS_BOOT_PHASE 5) F.ATT_SVN_X_SVN
      (leAt image 6 2)) F.ATT_STATUS_XATON_USED) rs) (slice image 0 (leAt image 8 4))) := by
  show execXatonApply image s = _
  simp [execXatonApply, returning, hphase, hrun, himage]

/-- Power-good bits are those of the register PWR_PG. -/
theorem domainOn_congr {s t : State} (h : rd t R.PWR_PG = rd s R.PWR_PG) (d : Nat) : domainOn t d = domainOn s d := by
  rw [domainOn, rdN, h]; rfl

/-- With no frame and no phase counting, step 9 changes nothing of the host link for a SUBSYS record it holds. -/
theorem exec_xatonApply_subsys_held {s : State} {image : List Byte} {ven id : Nat} (hphase : getF s F.GLB_STATUS_BOOT_PHASE = 4)
    (hrun : s.boot.running = true) (himage : verifyXaton s image = .ok (some [.subsys ven id])) (hoff : domainOn s 1 = false)
    (hjobs : s.jobs = []) (htx : s.tx = []) : ∃ t, exec (.xatonApply image) s = .next t ∧ t.pcie = s.pcie := by
  have hoff' : domainOn (raise (setF (setF s F.GLB_STATUS_BOOT_PHASE 5) F.ATT_SVN_X_SVN (leAt image 6 2)) F.ATT_STATUS_XATON_USED) 1 = false := by
    rw [← hoff]
    exact domainOn_congr (by rw [raise, rd_setF_ne _ _ _ (by decide), rd_setF_ne _ _ _ (by decide), rd_setF_ne _ _ _ (by decide)]) 1
  rw [exec_xatonApply_ok hphase hrun himage, applyXaton_subsys_held hoff']
  obtain ⟨hpcie, hj, ht⟩ := endXaton_line _ (slice image 0 (leAt image 8 4))
  exact ⟨_, done_of_settled (settled_empty (hj.trans hjobs) (ht.trans htx)), hpcie⟩

/-- Refutes O17: a SUBSYS record is applied where domain 1 is on and held where it is off; the statement asks for it in every state. -/
theorem not_bootStepsSixAndNineToEleven : ¬ Obligations.BootStepsSixAndNineToEleven := by
  unfold Obligations.BootStepsSixAndNineToEleven
  intro h
  obtain ⟨-, hnine, -⟩ := h hostSideOff subsysImage
  obtain ⟨-, -, -, hsubsys, -⟩ := hnine (by decide +kernel) rfl
  obtain ⟨t, ht, hven, -⟩ := hsubsys _ _ verifyXaton_subsysImage
  obtain ⟨u, hu, hpcie⟩ := exec_xatonApply_subsys_held (by decide +kernel) rfl verifyXaton_subsysImage (by decide +kernel) rfl rfl
  obtain rfl : u = t := Host.Outcome.next.inj (hu.symm.trans ht)
  rw [hpcie] at hven
  exact absurd hven (by decide)

end Sys2Proof.Machine

/-! ### A function-level reset with a player of its own and a command of another function -/

namespace Sys2Proof.Machine

/-- Functions 1 and 2 exist. Player 3 belongs to function 1 and plays for a command of function 2, whose filling bank is full. -/
def crossedPlayer : State :=
  { afterReset with
    pcie := { afterReset.pcie with retry := false, vfEnable := true, numVfs := 2 }
    rings := [(2 * 64 + 16, { st := .enabled })]
    banks := [(2 * 4, [{ ring := 16, data := List.replicate 4080 0 }])]
    cmds := [{ uid := 5, fn := 2, sq := 0, cq := 0, desc := [], st := .engine }]
    players := [(3, { st := .playing, fn := 1, uid := 5 })] }

/-- The stop completes the player's command, and its completion drains the bank of function 2. -/
theorem exec_functionLevelReset_drains {t : State} (h : exec (.functionLevelReset 1) crossedPlayer = .next t) : (ring t 2 16).index = 2 := by
  have hrun : (match exec (.functionLevelReset 1) crossedPlayer with | .next t => (ring t 2 16).index | _ => 0) = 2 := by decide +kernel
  rwa [h] at hrun

/-- Refutes O11: a reset of function 1 ends the command a player of function 1 plays for; where that is a command of function 2,
its completion moves function 2's completion queue, which the statement keeps. -/
theorem not_hostResetsEndTheirCommandsOnly : ¬ Obligations.HostResetsEndTheirCommandsOnly := by
  unfold Obligations.HostResetsEndTheirCommandsOnly
  intro h
  obtain ⟨-, hflr, -⟩ := h crossedPlayer (settled_empty rfl rfl)
  obtain ⟨t, ht, -, -, -, -, hrings, -⟩ := hflr 1 (by decide) (by decide +kernel) rfl rfl
  have hkept : ring t 2 16 = ring crossedPlayer 2 16 := hrings 2 (by decide) (by decide) (by decide) 16 (by decide)
  have hindex := exec_functionLevelReset_drains ht
  rw [hkept] at hindex
  exact absurd hindex (by decide +kernel)

end Sys2Proof.Machine

/-! ### What the line's endings leave of the power side

Ending commands, streams and players, raising and clearing defects, and moving levels leave alone what the power states, the domains, the
start-up and the configuration checks work on. -/

namespace Sys2Proof.Machine

/-- What the power side works on: pins, power, boot, faults, parity, checks, and the registers of GLB, PWR and CLK. -/
structure Core where
  pins : Pins
  pwr : Power
  boot : Boot
  blanes : FMap BLane
  rel : Rel
  par : Parity
  crc : Crc
  nvs : Nvs
  rtc : Rtc
  regs : Nat → Word

/-- The registers below an offset, the others as 0. -/
def regsBelow (b : Nat) (s : State) (o : Nat) : Word := if o < b then rd s o else 0

def core (s : State) : Core := ⟨s.pins, s.pwr, s.boot, s.blanes, s.rel, s.par, s.crc, s.nvs, s.rtc, regsBelow 0xC00 s⟩

/-- The power side is as before. -/
abbrev CoreKept : State → State → Prop := Kept core

/-- The power side is as before, and so is mains tracking with MSY's registers. -/
abbrev SideKept : State → State → Prop := Kept fun s => (core s, s.mains, regsBelow 0x1000 s)

theorem regsBelow_congr {s t : State} {b : Nat} (h : ∀ o < b, rd t o = rd s o) : regsBelow b t = regsBelow b s := by
  funext o
  simp only [regsBelow]
  split
  · exact h o ‹_›
  · rfl

theorem rd_of_regsBelow {s t : State} {b o : Nat} (h : regsBelow b t = regsBelow b s) (ho : o < b) : rd t o = rd s o := by
  have hread := congrFun h o
  simpa only [regsBelow, if_pos ho] using hread

namespace CoreKept

variable {s t : State}

theorem pins (h : CoreKept s t) : t.pins = s.pins := congrArg Core.pins h.eq
theorem pwr (h : CoreKept s t) : t.pwr = s.pwr := congrArg Core.pwr h.eq
theorem boot (h : CoreKept s t) : t.boot = s.boot := congrArg Core.boot h.eq
theorem par (h : CoreKept s t) : t.par = s.par := congrArg Core.par h.eq
theorem crc (h : CoreKept s t) : t.crc = s.crc := congrArg Core.crc h.eq
theorem rel (h : CoreKept s t) : t.rel = s.rel := congrArg Core.rel h.eq

theorem rd (h : CoreKept s t) {o : Nat} (ho : o < 0xC00) : Machine.rd t o = Machine.rd s o := rd_of_regsBelow (congrArg Core.regs h.eq) ho

theorem getF (h : CoreKept s t) {f : Fld} (ho : f.off < 0xC00) : Machine.getF t f = Machine.getF s f := by
  simp only [Machine.getF, rdN, h.rd ho]

theorem isSet (h : CoreKept s t) {f : Fld} (ho : f.off < 0xC00) : Machine.isSet t f = Machine.isSet s f := by
  simp only [Machine.isSet, h.getF ho]

theorem domainOn (h : CoreKept s t) (d : Nat) : Machine.domainOn t d = Machine.domainOn s d := domainOn_congr (h.rd (by decide)) d

end CoreKept

namespace SideKept

variable {s t : State}

theorem core (h : SideKept s t) : CoreKept s t := ⟨congrArg Prod.fst h.eq⟩

theorem mains (h : SideKept s t) : t.mains = s.mains := congrArg (·.2.1) h.eq

theorem rd (h : SideKept s t) {o : Nat} (ho : o < 0x1000) : Machine.rd t o = Machine.rd s o := rd_of_regsBelow (congrArg (·.2.2) h.eq) ho

theorem getF (h : SideKept s t) {f : Fld} (ho : f.off < 0x1000) : Machine.getF t f = Machine.getF s f := by
  simp only [Machine.getF, rdN, h.rd ho]

theorem isSet (h : SideKept s t) {f : Fld} (ho : f.off < 0x1000) : Machine.isSet t f = Machine.isSet s f := by
  simp only [Machine.isSet, h.getF ho]

/-- A change that keeps the parts named, and the registers below 0x1000. -/
theorem intro (hparts : (t.pins, t.pwr, t.boot, t.blanes, t.rel, t.par, t.crc, t.nvs, t.rtc, t.mains) =
    (s.pins, s.pwr, s.boot, s.blanes, s.rel, s.par, s.crc, s.nvs, s.rtc, s.mains)) (hregs : ∀ o < 0x1000, Machine.rd t o = Machine.rd s o) :
    SideKept s t := by
  simp only [Prod.mk.injEq] at hparts
  obtain ⟨h1, h2, h3, h4, h5, h6, h7, h8, h9, h10⟩ := hparts
  have hlow : regsBelow 0xC00 t = regsBelow 0xC00 s := regsBelow_congr fun o ho => hregs o (by omega)
  constructor
  simp only [Machine.core, h1, h2, h3, h4, h5, h6, h7, h8, h9, h10, hlow, regsBelow_congr hregs]

theorem of_host (h : HostOnly s t) : SideKept s t :=
  intro (by rw [h.pins, h.pwr, h.boot, h.blanes, h.rel, h.par, h.crc, h.nvs, h.rtc, h.mains]) fun _ ho => h.rd (by omega)

theorem of_capture (h : CaptureOnly s t) : SideKept s t :=
  intro (by rw [h.pins, h.pwr, h.boot, h.blanes, h.rel, h.par, h.crc, h.nvs, h.rtc, h.mains]) fun _ ho => h.rd (by omega) (by omega)

theorem wr (s : State) {o : Nat} (v : Word) (h : 0x1000 ≤ o) : SideKept s (wr s o v) := intro rfl fun _ ho => rd_wr_ne s v (by omega)

theorem setF (s : State) (f : Fld) (v : Nat) (h : 0x1000 ≤ f.off) : SideKept s (setF s f v) := wr s _ h

theorem raise (s : State) (f : Fld) (h : 0x1000 ≤ f.off) : SideKept s (raise s f) := wr s _ h

theorem bump (s : State) (o n : Nat) (h : 0x1000 ≤ o) : SideKept s (bump s o n) := wr s _ h

end SideKept

/-! #### Defects and levels (R203 to R208, R215, R230 to R233) -/

theorem sideKept_updSess (s : State) (n : Nat) (f : Session → Session) : SideKept s (updSess s n f) := by
  unfold updSess
  split
  · exact ⟨rfl⟩
  · exact .refl s

theorem sideKept_setOnset (s : State) (code : Nat) (o : DefObj) (t : Nat × Nat) : SideKept s (setOnset s code o t) := by
  cases o with
  | session n => exact sideKept_updSess s n _
  | _ => exact ⟨rfl⟩

theorem sideKept_markDefect (s : State) (code : Nat) (o : DefObj) (b : Bool) : SideKept s (markDefect s code o b) := by
  cases o with
  | session n => exact sideKept_updSess s n _
  | _ => exact ⟨rfl⟩

theorem sideKept_markSeen (s : State) (code : Nat) (o : DefObj) : SideKept s (markSeen s code o) := Kept.ite (c := code < 2) ⟨rfl⟩ ⟨rfl⟩

theorem sideKept_reportRaise (s : State) (code : Nat) (o : DefObj) : SideKept s (reportRaise s code o) :=
  (sideKept_setOnset s code o _).trans ((SideKept.raise _ F.LFR_EVT_DEF_CHG (by decide)).trans
    ((sideKept_markSeen _ code o).trans (SideKept.of_capture (captureOnly_reportRaise s code o))))

theorem sideKept_clearWith {s : State} {f : State → State} (code : Nat) (o : DefObj) (hf : ∀ u, SideKept u (f u)) :
    SideKept s (clearWith s code o f) := by
  have hcleared : SideKept s (raise (f (markSeen s code o)) F.LFR_EVT_DEF_CHG) :=
    (sideKept_markSeen s code o).trans ((hf _).trans (SideKept.raise _ _ (by decide)))
  unfold clearWith
  dsimp only
  generalize raise (f (markSeen s code o)) F.LFR_EVT_DEF_CHG = u at hcleared ⊢
  have htrigger : ∀ p e, SideKept u (trigger u p e) := fun p e => SideKept.of_capture (captureOnly_trigger u p e)
  refine .ite (hf s) (.ite hcleared (hcleared.trans (.trans ?_ (SideKept.of_capture (captureOnly_reportUncovered s _)))))
  exact .ite (htrigger _ _) ((htrigger _ _).trans (SideKept.of_capture (captureOnly_defectEvent _ _ _ _ _ _ _)))

theorem sideKept_setTx (s : State) (p : Nat) (t : TxPh) : SideKept s (setTx s p t) := ⟨rfl⟩

theorem sideKept_changeTxf (s : State) (p : Nat) (f : TxPh → TxPh) : SideKept s (changeTxf s p f) := by
  have hupd : ∀ u, SideKept u (setTx u p (f (txPh u p))) := fun u => sideKept_setTx u p _
  have hraised : SideKept s (raiseWith s 7 (.phase p) fun u => setTx u p (f (txPh u p))) :=
    .ite (hupd s) ((hupd s).trans (sideKept_reportRaise _ 7 (.phase p)))
  exact .ite (hupd s) (.ite (hraised.trans (SideKept.wr _ _ (by decide))) (sideKept_clearWith 7 (.phase p) hupd))

theorem sideKept_noteUv (s : State) : SideKept s (noteUv s) := .ite (.refl s) (.foldl _ _ (fun u p => sideKept_changeTxf u p _) s)

theorem sideKept_limiterCounted (s : State) (p l c g : Nat) : SideKept s (limiterCounted s p l c g) := by
  have hcounts : SideKept s (bump (bump s (R.TXS_LIM_CNT p) l) (R.TXS_CLIP_CNT p) c) :=
    (SideKept.bump s _ l (by unfold R.TXS_LIM_CNT; omega)).trans (SideKept.bump _ _ c (by unfold R.TXS_CLIP_CNT; omega))
  have hgaps : ∀ u : State, SideKept u (raise (bump u R.YAR_PGAP_CNT g) F.YAR_EVT_PGAP) := fun u =>
    (SideKept.bump u _ g (by decide)).trans (SideKept.raise _ _ (by decide))
  exact .trans (.ite hcounts (hcounts.trans (hgaps _))) (sideKept_setTx _ p _)

theorem sideKept_countTo (s : State) (p n : Nat) : SideKept s (countTo s p n) := by
  obtain ⟨t, h | ⟨l, c, g, h⟩⟩ := countTo_cases s p n
  · exact h ▸ sideKept_setTx s p t
  · exact h ▸ (sideKept_setTx s p t).trans (sideKept_limiterCounted _ p l c g)

theorem sideKept_moveAmp (s : State) (p : Nat) : SideKept s (moveAmp s p) := by
  have hcount := sideKept_countTo s p (dacNow s)
  unfold moveAmp
  dsimp only
  generalize countTo s p (dacNow s) = u at hcount ⊢
  have hset : ∀ t, SideKept u (setTx u p t) := sideKept_setTx u p
  have hpost : ∀ (v : State) (o : Output), SideKept v (post v o) := fun _ _ => ⟨rfl⟩
  exact hcount.trans (.ite (.refl u) (.ite (hset _) ((hset _).trans (hpost _ _))))

theorem sideKept_startPhaseAtt (s : State) (p extra : Nat) : SideKept s (startPhaseAtt s p extra) := by
  have hdrop : SideKept s (dropLevel s p) := by
    unfold dropLevel
    split
    · exact SideKept.of_host (hostOnly_decision _ _ _ _ _ _ _ _)
    · exact .refl s
  have hatt : ∀ (u : State) (v : Nat), SideKept u (setF u (F.TXS_LVL_ATT p) v) := fun u v => SideKept.setF u _ v (by
    simp only [F.TXS_LVL_ATT, R.TXS_LVL]
    omega)
  unfold startPhaseAtt
  dsimp only
  generalize dropLevel s p = u at hdrop ⊢
  exact hdrop.trans (.trans (.ite ((hatt u _).trans (sideKept_setTx _ p _)) (sideKept_setTx u p _)) (sideKept_moveAmp _ p))

/-! #### Commands, streams and players that end (R64, R65, R327, R337) -/

theorem sideKept_complete (s : State) (c : Cmd) (status detail len : Nat) : SideKept s (complete s c status detail len) :=
  SideKept.of_host (hostOnly_complete s c status detail len)

theorem sideKept_endStreams (s : State) (p : Stream → Bool) (extra : Nat) (st : Option (Nat × Nat)) : SideKept s (endStreams s p extra st) :=
  SideKept.of_capture (captureOnly_endStreams s p extra st)

theorem sideKept_withdrawJob (s : State) (j : Job) : SideKept s (withdrawJob s j) := ⟨rfl⟩

theorem sideKept_withdrawUnbegun (s : State) (uid : Nat) : SideKept s (withdrawUnbegun s uid) :=
  .foldl _ _ (fun u j => .ite (.refl u) (sideKept_withdrawJob u j)) s

theorem sideKept_freePlayer (s : State) (uid : Nat) : SideKept s (freePlayer s uid) := ⟨rfl⟩

/-- What a command leaves that ends before it has begun. -/
theorem sideKept_endUnbegun (s : State) (c : Cmd) (status detail len : Nat) :
    SideKept s (complete (freePlayer (withdrawUnbegun s c.uid) c.uid) c status detail len) :=
  (sideKept_withdrawUnbegun s c.uid).trans ((sideKept_freePlayer _ c.uid).trans (sideKept_complete _ c _ _ _))

theorem sideKept_endWaiting (s : State) (code : Nat) : SideKept s (endWaiting s code) :=
  .foldl _ _ (fun u c => sideKept_endUnbegun u c St.state code 0) s

theorem sideKept_freeSession (s : State) (node : Nat) : SideKept s (freeSession s node) := by
  have hdefects : SideKept s ([4, 5, 6].foldl (fun s c => clearDefect s c (.session node)) s) :=
    .foldl _ _ (fun u c => sideKept_clearWith c (.session node) fun v => sideKept_markDefect v c (.session node) false) s
  have hpartial : ∀ u k, SideKept u (pmPartial u k) := fun u k => by
    unfold pmPartial updPm
    split
    · exact ⟨rfl⟩
    · exact .refl u
  unfold freeSession
  dsimp only
  generalize [4, 5, 6].foldl (fun s c => clearDefect s c (.session node)) s = u at hdefects ⊢
  have hended : SideKept u (endRetention u node) := ⟨rfl⟩
  have hpm := hended.trans (hpartial _ (pmNode node))
  generalize pmPartial (endRetention u node) (pmNode node) = v at hpm ⊢
  exact hdefects.trans (hpm.trans ⟨rfl⟩)

theorem sideKept_raiseRt (s : State) (path : List Nat) : SideKept s (raiseRt s path) := by
  have hmesh : ∀ (u : State) (f : Mesh → Mesh), SideKept u (updMesh u f) := fun _ _ => ⟨rfl⟩
  have hrepair : ∀ u, SideKept u (countRepair u) := fun u =>
    ((SideKept.bump u R.VET_REPAIR_CNT 1 (by decide)).trans (SideKept.raise _ F.VET_EVT_REPAIR (by decide))).trans (hmesh _ _)
  exact (hmesh s _).trans (hrepair _)

theorem sideKept_endExchange (s : State) (c : Cmd) (status detail len : Nat) : SideKept s (endExchange s c status detail len) := by
  have hnoted : SideKept s (if isExchange c && c.attempts != 0 then noteExchange s (carrier c) (Nat.blt 1 c.attempts) else s) :=
    .ite (sideKept_updSess s _ _) (.refl s)
  exact (Kept.ite (hnoted.trans (sideKept_raiseRt _ _)) hnoted).trans
    ((sideKept_complete _ c status detail len).trans (.ite (sideKept_freeSession _ _) (.refl _)))

theorem sideKept_refuseCmd (c : Cmd) (s : State) (status detail : Nat) : SideKept s (refuseCmd c s status detail) :=
  .ite (sideKept_endExchange s c _ _ _) (sideKept_endExchange s c _ _ _)

theorem sideKept_endRepeats (s : State) (code : Nat) : SideKept s (endRepeats s code) :=
  .foldl _ _ (fun u c => (sideKept_withdrawUnbegun u c.uid).trans (sideKept_refuseCmd c (withdrawUnbegun u c.uid) St.state code)) s

theorem sideKept_playerJobEnded (uid p : Nat) (s : State) (j : Job) : SideKept s (playerJobEnded uid p s j) := by
  have hnote : ∀ u, SideKept u (noteTx u p) := fun u => .ite ⟨rfl⟩ (.ite ⟨rfl⟩ (.refl u))
  have hjob : ∀ f, SideKept s (updJob s j.id f) := fun _ => ⟨rfl⟩
  exact .ite (.refl s) (.ite ((hjob _).trans (hnote _)) (sideKept_withdrawJob s j))

theorem sideKept_stopPlayer (s : State) (p : Nat) (pass : Bool) (status detail : Nat) : SideKept s (stopPlayer s p pass status detail) := by
  have hcount : ∀ n, SideKept s (if p < 3 then countTo s p n else s) := fun n => .ite (sideKept_countTo s p n) (.refl s)
  have hset : ∀ (u : State) (x : Player), SideKept u (setPlayer u p x) := fun _ _ => ⟨rfl⟩
  have hended : ∀ (l : List Job) (uid : Nat) (u : State) (x : Player), SideKept u (l.foldl (playerJobEnded uid p) (setPlayer u p x)) :=
    fun l uid u x => (hset u x).trans (.foldl l _ (sideKept_playerJobEnded uid p) _)
  refine .ite (.refl s) ?_
  extract_lets u _ x v w
  have hw : SideKept s w := (hcount _).trans (hended _ _ u _)
  split
  · exact hw.trans (sideKept_complete w _ status detail _)
  · exact hw

theorem sideKept_stopPlayers (s : State) (q : Nat → Player → Bool) (status detail : Nat) : SideKept s (stopPlayers s q status detail) :=
  .foldl _ _ (fun u p => .ite (sideKept_stopPlayer u p _ _ _) (.refl u)) s

end Sys2Proof.Machine

/-! ### Registers an operation leaves, and commands it may only end -/

namespace Sys2Proof.Machine

theorem Kept.foldl_mem {α β : Type} {reading : State → α} (l : List β) (f : State → β → State)
    (hf : ∀ u, ∀ b ∈ l, Kept reading u (f u b)) (s : State) : Kept reading s (l.foldl f s) := by
  induction l generalizing s with
  | nil => exact .refl s
  | cons b l ih => exact (hf s b List.mem_cons_self).trans (ih (fun u c hc => hf u c (List.mem_cons_of_mem b hc)) _)

/-- The register at an offset is as before. -/
abbrev RdKept (o : Nat) : State → State → Prop := Kept fun s => rd s o

namespace RdKept

variable {o : Nat}

theorem wr (s : State) {o' : Nat} (v : Word) (h : o ≠ o') : RdKept o s (wr s o' v) := ⟨rd_wr_ne s v h⟩

theorem setF (s : State) (f : Fld) (v : Nat) (h : o ≠ f.off) : RdKept o s (setF s f v) := wr s _ h

theorem raise (s : State) (f : Fld) (h : o ≠ f.off) : RdKept o s (raise s f) := wr s _ h

theorem getF {s t : State} {f : Fld} (h : RdKept f.off s t) : Machine.getF t f = Machine.getF s f := by simp only [Machine.getF, rdN, h.eq]

theorem isSet {s t : State} {f : Fld} (h : RdKept f.off s t) : Machine.isSet t f = Machine.isSet s f := by simp only [Machine.isSet, getF h]

end RdKept

/-- Storing a power-good bit writes PWR_PG, the domain's register and the island's lock bit alone. -/
theorem rdKept_setPg (s : State) (d : Nat) (b : Bool) {o : Nat} (hpg : o ≠ R.PWR_PG) (hdom : o ≠ R.PWR_DOM d) (hclk : o ≠ R.CLK_STATUS) :
    RdKept o s (setPg s d b) := by
  have hstored : RdKept o s (setB (wrN s R.PWR_PG (setBits (rdN s R.PWR_PG) d d (b2n b))) (F.PWR_DOM_PG d) b) :=
    (RdKept.wr s _ hpg).trans (RdKept.setF _ (F.PWR_DOM_PG d) (b2n b) hdom)
  unfold setPg
  dsimp only
  split
  · exact hstored.trans (RdKept.setF _ F.CLK_STATUS_LOCK _ hclk)
  · exact hstored

/-- Commands may end, and none begins. -/
def CmdsEnd (s t : State) : Prop := t.cmds ⊆ s.cmds

namespace CmdsEnd

theorem refl (s : State) : CmdsEnd s s := fun _ h => h

theorem trans {s t u : State} (h : CmdsEnd s t) (k : CmdsEnd t u) : CmdsEnd s u := fun _ hc => h (k hc)

theorem of_eq {s t : State} (h : t.cmds = s.cmds) : CmdsEnd s t := fun _ hc => h ▸ hc

theorem foldl {β : Type} (l : List β) (f : State → β → State) (hf : ∀ u b, CmdsEnd u (f u b)) (s : State) : CmdsEnd s (l.foldl f s) := by
  induction l generalizing s with
  | nil => exact refl s
  | cons b l ih => exact (hf s b).trans (ih _)

theorem ite {s a b : State} {c : Prop} [Decidable c] (ha : CmdsEnd s a) (hb : CmdsEnd s b) : CmdsEnd s (if c then a else b) := by
  split
  · exact ha
  · exact hb

end CmdsEnd

theorem cmdsEnd_completeAt (s : State) (c : Cmd) (status detail len ts : Nat) : CmdsEnd s (completeAt s c status detail len ts) := by
  intro d hd
  rw [completeAt_cmds] at hd
  exact List.mem_of_mem_filter hd

theorem cmdsEnd_complete (s : State) (c : Cmd) (status detail len : Nat) : CmdsEnd s (complete s c status detail len) :=
  cmdsEnd_completeAt s c status detail len _

/-- Completing a list of commands ends every command with the number of one of them. -/
theorem cmds_foldl_complete (l : List Cmd) (status detail len : Nat) (s : State) :
    (l.foldl (fun s c => complete s c status detail len) s).cmds = s.cmds.filter fun d => !(l.any fun c => d.uid == c.uid) := by
  induction l generalizing s with
  | nil => simp
  | cons c l ih => simp [ih, complete_cmds, List.filter_filter, Bool.and_comm]

theorem cmdsEnd_completeCut (s : State) (j : Job) : CmdsEnd s (completeCut s j) := by
  have hfound : ∀ (u : State) (uid : Nat) (f : Cmd → State), (∀ c, CmdsEnd u (f c)) → u.cmds = s.cmds →
      CmdsEnd s (match findCmd u uid with | some c => f c | none => u) := fun u uid f hf hu => by
    split
    · exact (CmdsEnd.of_eq hu).trans (hf _)
    · exact .of_eq hu
  unfold completeCut
  split
  · exact .refl s
  · refine .ite (.refl s) ?_
    split
    · exact hfound s _ _ (fun c => cmdsEnd_completeAt s c _ _ _ _) rfl
    · exact hfound s _ _ (fun c => cmdsEnd_completeAt s c _ _ _ _) rfl
    · exact hfound _ _ _ (fun c => cmdsEnd_complete _ c _ _ _) rfl
    · exact .refl s

theorem cmdsEnd_completeCuts (l : List Job) (s : State) : CmdsEnd s (completeCuts s l) := by
  induction l generalizing s with
  | nil => exact .refl s
  | cons j l ih => exact (cmdsEnd_completeCut s j).trans (ih _)

/-- The mutes that are carried out may end commands (R211). -/
theorem cmdsEnd_settle (s : State) : CmdsEnd s (settle s) := cmdsEnd_completeCuts s.jobs s

end Sys2Proof.Machine

/-! ### A device reset (R68, R69, R108, R503) -/

namespace Sys2Proof.Machine

/-! #### The request -/

theorem drainAll_keeps {α : Type} {reading : State → α} (h : ∀ s fn c, Kept reading s (drainBank s fn c)) (s : State) :
    Kept reading s (drainAll s) := by
  unfold drainAll
  exact .foldl _ _ (fun u fn => .foldl _ (fun v c => drainBank v fn c) (fun v c => h v fn c) u) s

/-- Writing every filling bank leaves the commands and the engines' keys as they are. -/
theorem drainAll_cmds_sec (s : State) : (drainAll s).cmds = s.cmds ∧ (drainAll s).sec = s.sec := by
  have hcmds : Kept State.cmds s (drainAll s) := drainAll_keeps (fun s fn c => ⟨(ringOnly_drainBank s fn c).cmds⟩) s
  have hsec : Kept State.sec s (drainAll s) := drainAll_keeps (fun s fn c => ⟨(ringOnly_drainBank s fn c).sec⟩) s
  exact ⟨hcmds.eq, hsec.eq⟩

theorem hostOnly_drainAll (s : State) : HostOnly s (drainAll s) := by
  have hfold : ∀ {β : Type} (l : List β) (f : State → β → State), (∀ u b, HostOnly u (f u b)) → ∀ u, HostOnly u (l.foldl f u) := by
    intro β l f hf
    induction l with
    | nil => exact HostOnly.refl
    | cons b l ih => exact fun u => (hf u b).trans (ih _)
  unfold drainAll
  exact hfold _ _ (fun u fn => hfold _ (fun v c => drainBank v fn c) (fun v c => hostOnly_drainBank v fn c) u) s

/-- Every engine has stopped, with what it ran for. -/
def enginesStopped (s : State) : State :=
  stopPlayers (endStreams { s with pwr := { s.pwr with resetAt := some s.mains.elapsed } } (fun _ => true) 0 (some (St.aborted, 0)))
    (fun _ _ => true) St.aborted 0

/-- Every command has ended with ABORTED_RESET. -/
def allAborted (s : State) : State := (enginesStopped s).cmds.foldl (fun s c => complete s c St.aborted 0 0) (enginesStopped s)

theorem allAborted_cmds (s : State) : (allAborted s).cmds = [] := by
  rw [allAborted, cmds_foldl_complete, List.filter_eq_nil_iff]
  intro c hc
  simpa using ⟨c, hc, rfl⟩

theorem allAborted_pwr (s : State) : (allAborted s).pwr = { s.pwr with resetAt := some s.mains.elapsed } := by
  have hstopped : SideKept { s with pwr := { s.pwr with resetAt := some s.mains.elapsed } } (enginesStopped s) :=
    (sideKept_endStreams _ _ _ _).trans (sideKept_stopPlayers _ _ _ _)
  have haborted : SideKept (enginesStopped s) (allAborted s) := .foldl _ _ (fun u c => sideKept_complete u c _ _ _) _
  exact CoreKept.pwr (SideKept.core (hstopped.trans haborted))

/-- No operation of the P-256 engine waits or runs. -/
def engineIdle (s : State) : State := { s with sec := { s.sec with pkq := [], pkRun := none } }

@[simp] theorem engineIdle_cmds (s : State) : (engineIdle s).cmds = s.cmds := rfl
@[simp] theorem engineIdle_pwr (s : State) : (engineIdle s).pwr = s.pwr := rfl
@[simp] theorem engineIdle_pkq (s : State) : (engineIdle s).sec.pkq = [] := rfl
@[simp] theorem engineIdle_pkRun (s : State) : (engineIdle s).sec.pkRun = none := rfl

/-- What a request leaves. -/
def resetRequested (s : State) : State := drainAll (engineIdle (allAborted s))

theorem resetRequested_keeps (s : State) : (resetRequested s).cmds = [] ∧ (resetRequested s).sec.pkq = [] ∧
    (resetRequested s).sec.pkRun = none ∧ (resetRequested s).pwr = { s.pwr with resetAt := some s.mains.elapsed } := by
  obtain ⟨hcmds, hsec⟩ := drainAll_cmds_sec (engineIdle (allAborted s))
  have hpwr := (hostOnly_drainAll (engineIdle (allAborted s))).pwr
  rw [resetRequested, hcmds, hsec, hpwr, engineIdle_cmds, engineIdle_pkq, engineIdle_pkRun, engineIdle_pwr]
  exact ⟨allAborted_cmds s, rfl, rfl, allAborted_pwr s⟩

theorem exec_deviceResetRequest {s : State} (hreach : reach s R.GLB_RESET = true) (hnone : s.pwr.resetAt = none) :
    exec (.deviceResetRequest 0 0xA5) s = done (resetRequested (rewritten s R.GLB_RESET)) := by
  show done (requestReset s 0 0xA5) = _
  rw [requestReset, access_reach _ hreach (lockedOff_of_setOf_none rfl)]
  have hnew : ¬ ((0 : Nat) ≠ 0 ∨ (0xA5 : Byte) ≠ 0xA5 ∨ (rewritten s R.GLB_RESET).pwr.resetAt.isSome = true) := by
    rw [rewritten_pwr, hnone]
    decide
  rw [if_neg hnew]
  simp only [resetRequested, engineIdle, allAborted, enginesStopped]

/-- Another key, and another function, only restore the register's parity. -/
theorem exec_deviceResetRequest_refused {s : State} {fn : Fin 8} {key : Byte} (hreach : reach s R.GLB_RESET = true)
    (h : fn ≠ 0 ∨ key ≠ 0xA5) : exec (.deviceResetRequest fn key) s = done (rewritten s R.GLB_RESET) := by
  show done (requestReset s fn.val key) = _
  have hval : fn.val ≠ 0 ∨ key ≠ 0xA5 ∨ (rewritten s R.GLB_RESET).pwr.resetAt.isSome = true :=
    h.elim (fun h => .inl fun h0 => h (Fin.ext h0)) fun h => .inr (.inl h)
  rw [requestReset, access_reach _ hreach (lockedOff_of_setOf_none rfl), if_pos hval]

/-! #### The reset itself -/

/-- The state a device reset starts from: what it keeps, with everything else at reset. -/
def resetCarried (s : State) : State :=
  let m := s.mains
  { State.reset with
    regs := s.regs.filter fun e => resetKept e.1
    pins := s.pins, pcie := s.pcie
    boot := { fuses := s.boot.fuses }
    mains := {
      elapsed := m.elapsed, running := m.running, tb := m.tb, frac := m.frac, pps := m.pps, zc := m.zc, stepped := m.stepped, freq := m.freq,
      periods := m.periods, everLocked := m.everLocked }
    bands := s.bands
    nvs := { banks := s.nvs.banks, retired := s.nvs.retired }
    rtc := s.rtc
    readData := s.readData, posted := s.posted, nextUid := s.nextUid, nextJob := s.nextJob, nextFid := s.nextFid
    freeCtr := s.freeCtr, pending := s.pending }

/-- MSY's status after it: a valid index goes on in hold-over. -/
def statusCarried (s : State) : State :=
  setF (setB (setB (resetCarried s) F.MSY_STATUS_CIDX_VALID (cidxOk s)) F.MSY_STATUS_HOLD (cidxOk s)) F.MSY_STATUS_HOLD_AGE
    (if isSet s F.MSY_STATUS_LOCK then 0 else getF s F.MSY_STATUS_HOLD_AGE)

theorem regsOnly_statusCarried (s : State) : RegsOnly (resetCarried s) (statusCarried s) :=
  (((RegsOnly.refl _).setB _ _).setB _ _).setF _ _

/-- After MSY's status, a device reset writes registers alone: of the domains, of the clocks, and JIR_STATUS. -/
theorem deviceReset_regs (s : State) : RegsOnly (statusCarried (dropWrites (drainAll s))) (deviceReset s) ∧
    ∀ o, o ≠ R.PWR_PG → o ≠ R.CLK_STATUS → o ≠ R.JIR_STATUS → (∀ d ≤ 20, o ≠ R.PWR_DOM d) →
      RdKept o (statusCarried (dropWrites (drainAll s))) (deviceReset s) := by
  unfold deviceReset
  extract_lets u m valid age reset carried v w x y z
  have hcounts : ∀ (l : List Nat) (a : State), RegsOnly a (l.foldl (fun t d => setF t (F.PWR_DOM_ON_CNT d) (getF u (F.PWR_DOM_ON_CNT d))) a) :=
    fun l a => .foldl (.refl a) _ l fun b d => .setF (.refl b) _ _
  refine ⟨?_, fun o hpg hclk hjir hdom => ?_⟩
  · have hw : RegsOnly v w := hcounts (List.range' 1 20) v
    have hx : RegsOnly w x := .ite (regsOnly_setPg w 2 true) (.refl w)
    have hy : RegsOnly x y := .ite (regsOnly_setPg x 17 true) (.refl x)
    exact (((hw.trans hx).trans hy).wrN _ _).setF _ _
  · have hw : RdKept o v w := Kept.foldl_mem (List.range' 1 20) (fun t d => setF t (F.PWR_DOM_ON_CNT d) (getF u (F.PWR_DOM_ON_CNT d)))
      (fun a d hd => RdKept.setF a _ _ (hdom d (by simp at hd; omega))) v
    have hpower : ∀ (a : State) (d : Nat), d ≤ 20 → RdKept o a (setPg a d true) := fun a d hd => rdKept_setPg a d true hpg (hdom d hd) hclk
    have hx : RdKept o w x := .ite (hpower w 2 (by decide)) (.refl w)
    have hy : RdKept o x y := .ite (hpower x 17 (by decide)) (.refl x)
    have hz : RdKept o y z := RdKept.wr y _ hclk
    exact (hw.trans (hx.trans (hy.trans hz))).trans (RdKept.setF z _ _ hjir)

/-- A register that a device reset keeps reads as before, another one takes its reset value. -/
theorem rd_resetCarried (s : State) (o : Nat) : rd (resetCarried s) o = if resetKept o then rd s o else resetValue o := by
  have hregs : (resetCarried s).regs = s.regs.filter fun e => resetKept e.1 := rfl
  simp only [rd, hregs, fgetD, fget_filter_key s.regs resetKept o]
  by_cases h : resetKept o = true
  · simp [h]
  · simp [h]

/-- MSY_STATUS after a device reset: a valid index stays valid, in hold-over (R108). -/
theorem isSet_statusCarried (s : State) : isSet (statusCarried s) F.MSY_STATUS_CIDX_VALID = cidxOk s ∧
    isSet (statusCarried s) F.MSY_STATUS_HOLD = cidxOk s := by
  unfold statusCarried
  rw [isSet_setF_other _ _ _ _ (by decide) (by decide) (by decide), isSet_setF_other _ _ _ _ (by decide) (by decide) (by decide),
    isSet_setB_other _ _ _ _ (by decide) (by decide) (by decide), isSet_setB_same _ _ _ rfl (by decide),
    isSet_setB_same _ _ _ rfl (by decide)]
  exact ⟨rfl, rfl⟩

/-- The link's training and the number of functions are no part of the host interface's rings. -/
theorem HostOnly.link {s t : State} (h : HostOnly s t) : t.pcie.up = s.pcie.up ∧ t.pcie.numVfs = s.pcie.numVfs :=
  ⟨(congrArg Pcie.up h.2.1 :), (congrArg Pcie.numVfs h.2.1 :)⟩

/-- What a device reset finds once the store's writes are dropped. -/
theorem dropWrites_keeps (s : State) : (dropWrites s).rtc = s.rtc ∧ (dropWrites s).mains = s.mains ∧ (dropWrites s).boot = s.boot ∧
    (dropWrites s).pcie = s.pcie ∧ (dropWrites s).regs = s.regs := by
  obtain ⟨n, k, h, -⟩ := dropWrites_eq s
  rw [h]
  exact ⟨rfl, rfl, rfl, rfl, rfl⟩

/-- What it carries over beside the registers. -/
theorem statusCarried_keeps (s : State) : (statusCarried s).rtc = s.rtc ∧ (statusCarried s).mains.tb = s.mains.tb ∧
    (statusCarried s).boot = { fuses := s.boot.fuses } ∧ (statusCarried s).pcie = s.pcie := by
  have h := regsOnly_statusCarried s
  rw [h.rtc, h.mains, h.boot, h.pcie]
  exact ⟨rfl, rfl, rfl, rfl⟩

/-- And what it leaves at reset. -/
theorem statusCarried_clears (s : State) : (statusCarried s).pwr.resetAt = none ∧ (statusCarried s).cmds = [] ∧ (statusCarried s).jobs = [] ∧
    (statusCarried s).sessions = [] ∧ (statusCarried s).lanes = [] ∧ (statusCarried s).tx = [] := by
  have h := regsOnly_statusCarried s
  rw [h.pwr, h.cmds, h.jobs, h.sessions, h.lanes, h.tx]
  exact ⟨rfl, rfl, rfl, rfl, rfl, rfl⟩

theorem rd_statusCarried_ne (s : State) {o : Nat} (h : o ≠ R.MSY_STATUS) : rd (statusCarried s) o = rd (resetCarried s) o := by
  unfold statusCarried
  rw [rd_setF_ne _ _ _ h, setB, rd_setF_ne _ _ _ h, setB, rd_setF_ne _ _ _ h]

theorem exec_deviceResetWaitEnd {s : State} {t0 : Nat} (h : s.pwr.resetAt = some t0)
    (hdue : s.held = [] ∨ t0 + 10000000 ≤ s.mains.elapsed) : exec .deviceResetWaitEnd s = done (deviceReset s) := by
  show execDeviceResetWaitEnd s = _
  simp [execDeviceResetWaitEnd, h, hdue]

/-- Settles O10: the request mutes through `resetAt`, so that no copy stays on the air, and ends every command; the wait's end carries
over `resetCarried` and writes registers of the domains, the clocks and MSY's status alone. -/
theorem deviceResetEndsCommandsAndKeepsTime : Obligations.DeviceResetEndsCommandsAndKeepsTime := by
  unfold Obligations.DeviceResetEndsCommandsAndKeepsTime
  refine fun s => ⟨fun hreach hnone => ?_, fun fn key hreach hkey => ?_, fun t0 hset hdue => ?_⟩
  · refine completes_done (exec_deviceResetRequest hreach hnone) ?_
    obtain ⟨hcmds, hpkq, hpkRun, hpwr⟩ := resetRequested_keeps (rewritten s R.GLB_RESET)
    rw [rewritten_pwr, rewritten_mains] at hpwr
    generalize resetRequested (rewritten s R.GLB_RESET) = u at hcmds hpkq hpkRun hpwr ⊢
    have hmute : ∀ p, (hardMute (settle u) p).isSome := fun p => hardMute_isSome (by simp [defectlessMute, hpwr]) p
    refine ⟨by rw [settle_pwr, hpwr], ?_, by rw [settle_sec, hpkq], by rw [settle_sec, hpkRun], hmute, fun j hj c hc hon => ?_⟩
    · exact List.subset_nil.1 (hcmds ▸ cmdsEnd_settle u)
    · have hquiet := (settled_settle u).1 j hj c hc hon
      have hloud := hmute c.ch.ph
      rw [hquiet] at hloud
      exact absurd hloud (by decide)
  · refine completes_done (exec_deviceResetRequest_refused hreach hkey) ⟨?_, ?_, ?_, fun off hoff => ?_⟩
    · rw [settle_pwr, rewritten_pwr]
    · rw [settle_sec, rewritten_sec]
    · rw [settle_sessions, rewritten_sessions]
    · exact settle_rd _ hoff
  · obtain ⟨hregs, hrd⟩ := deviceReset_regs s
    have hhost := hostOnly_drainAll s
    obtain ⟨hup, hvfs⟩ := hhost.link
    obtain ⟨hrtc, hmains, hboot, hpcie, hsame⟩ := dropWrites_keeps (drainAll s)
    obtain ⟨krtc, ktb, kboot, kpcie⟩ := statusCarried_keeps (dropWrites (drainAll s))
    obtain ⟨creset, ccmds, cjobs, csess, clanes, ctx⟩ := statusCarried_clears (dropWrites (drainAll s))
    obtain ⟨hvalid, hhold⟩ := isSet_statusCarried (dropWrites (drainAll s))
    have hcidxOk : cidxOk (dropWrites (drainAll s)) = isSet s F.MSY_STATUS_CIDX_VALID :=
      (isSet_congr hsame _).trans (hhost.isSet (by decide))
    have hstatus : RdKept R.MSY_STATUS (statusCarried (dropWrites (drainAll s))) (deviceReset s) := hrd _ (by decide) (by decide) (by decide) (by decide)
    refine completes_settled (exec_deviceResetWaitEnd hset hdue) (settled_empty (hregs.jobs.trans cjobs) (hregs.tx.trans ctx))
      ⟨by rw [hregs.pwr, creset], hregs.cmds.trans ccmds, hregs.jobs.trans cjobs, hregs.sessions.trans csess, hregs.lanes.trans clanes,
        ?_, ?_, ?_, ?_, ?_, ?_, ?_, ?_, ?_, ?_⟩
    · rw [hregs.rtc, krtc, hrtc, hhost.rtc]
    · rw [hregs.mains, ktb, hmains, hhost.mains]
    · rw [hregs.boot, kboot, hboot, hhost.boot]
    · rw [hregs.boot, kboot]
    · rw [(hrd _ (by decide) (by decide) (by decide) (by decide)).eq, rd_statusCarried_ne _ (by decide), rd_resetCarried, if_pos (by decide),
        rd_congr hsame, hhost.rd (by decide)]
    · rw [RdKept.isSet hstatus, hvalid, hcidxOk]
    · rw [RdKept.isSet hstatus, hhold, hcidxOk]
    · rw [RdKept.getF (hrd _ (by decide) (by decide) (by decide) (by decide)), getF, rdN, rd_statusCarried_ne _ (by decide), rd_resetCarried,
        if_neg (by decide)]
      decide
    · rw [hregs.pcie, kpcie, hpcie, hup]
    · rw [hregs.pcie, kpcie, hpcie, hvfs]

end Sys2Proof.Machine

/-! ### What reading and writing the store leaves (R450 to R457) -/

namespace Sys2Proof.Machine

/-- The store alone differs, and of the registers only its own (block 0x4C00). -/
def StoreOnly (s t : State) : Prop := { t with regs := s.regs, nvs := s.nvs } = s ∧ ∀ o, o / 0x400 ≠ 0x13 → rd t o = rd s o

namespace StoreOnly

theorem refl (s : State) : StoreOnly s s := ⟨rfl, fun _ _ => rfl⟩

theorem trans {s t u : State} (h : StoreOnly s t) (k : StoreOnly t u) : StoreOnly s u := by
  refine ⟨?_, fun o ho => (k.2 o ho).trans (h.2 o ho)⟩
  have hstate := congrArg (fun x : State => { x with regs := s.regs, nvs := s.nvs }) k.1
  exact hstate.trans h.1

theorem ite {s a b : State} {c : Prop} [Decidable c] (ha : StoreOnly s a) (hb : StoreOnly s b) : StoreOnly s (if c then a else b) := by
  split
  · exact ha
  · exact hb

theorem foldl {β : Type} (l : List β) (f : State → β → State) (hf : ∀ u b, StoreOnly u (f u b)) (s : State) : StoreOnly s (l.foldl f s) := by
  induction l generalizing s with
  | nil => exact refl s
  | cons b l ih => exact (hf s b).trans (ih _)

theorem wr (s : State) {o : Nat} (v : Word) (h : o / 0x400 = 0x13) : StoreOnly s (wr s o v) :=
  ⟨rfl, fun _ ho => rd_wr_ne s v fun heq => ho (heq ▸ h)⟩

theorem bump (s : State) (o n : Nat) (h : o / 0x400 = 0x13) : StoreOnly s (bump s o n) := wr s _ h

theorem raise (s : State) (f : Fld) (h : f.off / 0x400 = 0x13) : StoreOnly s (raise s f) := wr s _ h

theorem of_nvs (s : State) (n : Nvs) : StoreOnly s { s with nvs := n } := ⟨rfl, fun _ _ => rfl⟩

variable {s t : State}

theorem boot (h : StoreOnly s t) : t.boot = s.boot := (congrArg State.boot h.1 :)
theorem pins (h : StoreOnly s t) : t.pins = s.pins := (congrArg State.pins h.1 :)
theorem pwr (h : StoreOnly s t) : t.pwr = s.pwr := (congrArg State.pwr h.1 :)
theorem pcie (h : StoreOnly s t) : t.pcie = s.pcie := (congrArg State.pcie h.1 :)
theorem mains (h : StoreOnly s t) : t.mains = s.mains := (congrArg State.mains h.1 :)
theorem par (h : StoreOnly s t) : t.par = s.par := (congrArg State.par h.1 :)
theorem crc (h : StoreOnly s t) : t.crc = s.crc := (congrArg State.crc h.1 :)
theorem sec (h : StoreOnly s t) : t.sec = s.sec := (congrArg State.sec h.1 :)
theorem lanes (h : StoreOnly s t) : t.lanes = s.lanes := (congrArg State.lanes h.1 :)

theorem getF (h : StoreOnly s t) {f : Fld} (ho : f.off / 0x400 ≠ 0x13) : Machine.getF t f = Machine.getF s f := by
  simp only [Machine.getF, rdN, h.2 _ ho]

theorem isSet (h : StoreOnly s t) {f : Fld} (ho : f.off / 0x400 ≠ 0x13) : Machine.isSet t f = Machine.isSet s f := by
  simp only [Machine.isSet, h.getF ho]

end StoreOnly

theorem storeOnly_takeToken (s : State) (b : Nat) : StoreOnly s (takeToken s b) := .of_nvs s _

theorem storeOnly_startWrites (s : State) : StoreOnly s (startWrites s) := by
  unfold startWrites
  split
  · exact .refl s
  · have hcount : ∀ n, StoreOnly s (bump s R.NVS_WAIT_CNT n) := fun n => .bump s _ n (by decide)
    extract_lets held u mark q
    have hu : StoreOnly s u := hcount _
    clear_value u
    split
    · exact hu.trans (.of_nvs u _)
    · extract_lets v
      have hv : StoreOnly s v := hu.trans (.of_nvs u _)
      clear_value v
      split
      · refine .ite hv ?_
        split
        · exact hv.trans (storeOnly_takeToken v _)
        · exact hv
      · exact hv

theorem storeOnly_queueWrite (s : State) (w : NvsWrite) : StoreOnly s (queueWrite s w) := (StoreOnly.of_nvs s _).trans (storeOnly_startWrites _)

theorem storeOnly_writeRecord (s : State) (copies : List (Nat × Nat)) (off : Nat) (data : List Byte) (c : NvsClient) :
    StoreOnly s (writeRecord s copies off data c) :=
  storeOnly_queueWrite s _

theorem storeOnly_repairCopies (s : State) (copies : List (Nat × Nat)) (off : Nat) (v : List Byte) : StoreOnly s (repairCopies s copies off v) :=
  .foldl _ _ (fun u e => .ite (.refl u) ((storeOnly_queueWrite u _).trans (.bump _ _ _ (by decide)))) s

theorem storeOnly_readTriple (s : State) (copies : List (Nat × Nat)) (off n : Nat) (lost : List (List Byte) → Option (List Byte)) :
    StoreOnly s (readTriple s copies off n lost).2 := by
  have hlost : StoreOnly s (raise s F.NVS_EVT_TRIP_LOST) := .raise s _ (by decide)
  unfold readTriple
  dsimp only
  split
  · exact storeOnly_repairCopies s copies off _
  · split
    · exact hlost.trans (storeOnly_repairCopies _ copies off _)
    · exact hlost

end Sys2Proof.Machine

/-! ### Requests for domains (R58, R509) -/

namespace Sys2Proof.Machine

theorem pwrDom_inj {d e : Nat} (h : d ≠ e) : R.PWR_DOM d ≠ R.PWR_DOM e := by
  unfold R.PWR_DOM
  omega

theorem pwrDom_ne {o : Nat} (h : o < R.PWR_DOM 0) (d : Nat) : o ≠ R.PWR_DOM d := by
  unfold R.PWR_DOM at *
  omega

/-- The domain failed, or hangs under one that did (R509). -/
def hangs (s : State) (d : Nat) : Bool := (List.range' 1 20).any fun e => isSet s (F.PWR_DOM_PG_FAIL e) && (withChildren e).contains d

/-- One request. -/
def reqDomain (s : State) (d : Nat) : State := if domainOn s d || hangs s d then s else setF s (F.PWR_DOM_REQ d) 1

theorem reqDomains_eq (s : State) (l : List Nat) : reqDomains s l = l.foldl reqDomain s := rfl

theorem rdKept_reqDomain (s : State) (d : Nat) {o : Nat} (h : o ≠ R.PWR_DOM d) : RdKept o s (reqDomain s d) :=
  .ite (.refl s) (RdKept.setF s (F.PWR_DOM_REQ d) 1 h)

theorem rdKept_reqDomains (s : State) (l : List Nat) {o : Nat} (h : ∀ d ∈ l, o ≠ R.PWR_DOM d) : RdKept o s (reqDomains s l) :=
  reqDomains_eq s l ▸ Kept.foldl_mem l reqDomain (fun u d hd => rdKept_reqDomain u d (h d hd)) s

theorem domainOn_reqDomain (s : State) (d e : Nat) : domainOn (reqDomain s d) e = domainOn s e :=
  domainOn_congr (rdKept_reqDomain s d (pwrDom_ne (by decide) d)).eq e

theorem domainOn_reqDomains (s : State) (l : List Nat) (e : Nat) : domainOn (reqDomains s l) e = domainOn s e :=
  domainOn_congr (rdKept_reqDomains s l fun d _ => pwrDom_ne (by decide) d).eq e

/-- A request changes the domain's REQ bit alone: another field of a domain's register is as before. -/
theorem isSet_reqDomain_other (s : State) (d : Nat) {f : Fld} (h : f.off ≠ R.PWR_DOM d ∨ 30 < f.lo ∨ f.hi < 30) :
    isSet (reqDomain s d) f = isSet s f := by
  unfold reqDomain
  split
  · rfl
  · exact isSet_setF_other s (F.PWR_DOM_REQ d) f 1 (le_refl 30) (by decide : 30 < 32) h

theorem isSet_req_reqDomain (s : State) (d e : Nat) : isSet (reqDomain s d) (F.PWR_DOM_REQ e) =
    (isSet s (F.PWR_DOM_REQ e) || (e == d && !(domainOn s d || hangs s d))) := by
  by_cases he : e = d
  · subst he
    unfold reqDomain
    split
    · next h => simp [h]
    · next h => simp [h, show isSet (setF s (F.PWR_DOM_REQ e) 1) (F.PWR_DOM_REQ e) = true from isSet_raise s _ rfl (by decide : 30 < 32)]
  · rw [isSet_reqDomain_other s d (.inl (pwrDom_inj he))]
    simp [he]

/-- The requests of a list leave the failures as they are. -/
theorem hangs_reqDomain (s : State) (d e : Nat) : hangs (reqDomain s d) e = hangs s e := by
  unfold hangs
  congr 1
  funext k
  rw [isSet_reqDomain_other s d (.inr (.inr (by decide : 29 < 30)))]

/-- Every request of a list is made, but for domains that are on, failed or hang under one that failed (R509). -/
theorem isSet_req_reqDomains (l : List Nat) (s : State) (e : Nat) : isSet (reqDomains s l) (F.PWR_DOM_REQ e) =
    (isSet s (F.PWR_DOM_REQ e) || (l.contains e && !(domainOn s e || hangs s e))) := by
  rw [reqDomains_eq]
  induction l generalizing s with
  | nil => simp
  | cons d l ih =>
    rw [List.foldl_cons, ih, isSet_req_reqDomain, domainOn_reqDomain, hangs_reqDomain, List.contains_cons]
    by_cases he : e = d
    · subst he
      cases isSet s (F.PWR_DOM_REQ e) <;> cases domainOn s e <;> cases hangs s e <;> simp
    · simp [beq_false_of_ne he]

theorem hangs_of_none {s : State} (h : ∀ e, 1 ≤ e → e ≤ 20 → isSet s (F.PWR_DOM_PG_FAIL e) = false) (d : Nat) : hangs s d = false := by
  rw [hangs, List.any_eq_false]
  intro e he
  rw [List.mem_range'_1] at he
  simp [h e he.1 (by omega)]

end Sys2Proof.Machine

/-! ### Boot steps 4, 5, 7 and 8 (R72, R341, R429, R430, R440) -/

namespace Sys2Proof.Machine

/-! #### The fuse words resolve -/

/-- One word is resolved. -/
def resolveOne (rdw : Nat → Word × Word × Word) (s : State) (w : Nat) : State :=
  let r := resolveFuse rdw (Config.freeBits 32 s.freeCtr) w
  { usedFree s with boot := { s.boot with
      resolved := fputD s.boot.resolved w 0 r.1,
      src := fputD s.boot.src w 0 r.2,
      marg := if soundReads (rdw w) then s.boot.marg else s.boot.marg ++ [w] } }

theorem resolveAll_eq (s : State) (reads : List (Nat × Word × Word × Word)) : resolveAll s reads =
    fuseWords.foldl (resolveOne (fuseReads s reads)) { s with boot := { s.boot with resolved := [], src := [], marg := [] } } := rfl

theorem resolveFuse_sound {rdw : Nat → Word × Word × Word} {w : Nat} (h : soundReads (rdw w) = true) (free : Word) :
    resolveFuse rdw free w = ((rdw w).1, 0) := by
  simp [resolveFuse, h]

/-- A word whose reads agree resolves to them, wherever it stands in the list. -/
theorem resolved_foldl {rdw : Nat → Word × Word × Word} {w : Nat} (h : soundReads (rdw w) = true) (l : List Nat) (s : State)
    (hw : w ∈ l ∨ fgetD s.boot.resolved w 0 = (rdw w).1) : fgetD (l.foldl (resolveOne rdw) s).boot.resolved w 0 = (rdw w).1 := by
  induction l generalizing s with
  | nil => simpa using hw
  | cons v l ih =>
    refine ih _ ?_
    by_cases hv : w = v
    · right
      subst hv
      simp [resolveOne, resolveFuse_sound h]
    · refine (hw.imp (fun hmem => (List.mem_cons.1 hmem).resolve_left hv) fun hres => ?_)
      simpa [resolveOne, fgetD_fputD_ne _ _ _ _ hv] using hres

/-- Resolving leaves registers, clocks and the fuses themselves. -/
theorem resolveAll_keeps (s : State) (reads : List (Nat × Word × Word × Word)) :
    Kept (fun s => (s.regs, s.mains, s.boot.fuses)) s (resolveAll s reads) := by
  have hfold : ∀ (l : List Nat) (u : State),
      Kept (fun s => (s.regs, s.mains, s.boot.fuses)) u (l.foldl (resolveOne (fuseReads s reads)) u) := fun l u =>
    .foldl l (resolveOne (fuseReads s reads)) (fun _ _ => ⟨rfl⟩) u
  rw [resolveAll_eq]
  exact ⟨(hfold fuseWords _).eq⟩

/-- What step 4 leaves before it switches domains on: the words resolved and measured, and OTP's and ATT's registers written. -/
structure Shadowed (s t : State) : Prop where
  shadowOk : t.boot.shadowOk = true
  fuses : t.boot.fuses = s.boot.fuses
  resolved : t.boot.resolved = s.boot.resolved
  mains : t.mains = s.mains
  status : isSet t F.OTP_STATUS_SHADOW_OK = true
  regs : ∀ o < 0x1000, rd t o = rd s o

theorem exec_fuseShadowValid {s : State} (reads : List (Nat × Word × Word × Word)) (hreset : s.pins.inReset = false)
    (hrun : s.mains.running = true) (hnew : s.boot.shadowOk = false) (hphase : getF s F.GLB_STATUS_BOOT_PHASE = 0) :
    ∃ v, Shadowed (resolveAll s reads) v ∧
      exec (.fuseShadowValid reads) s = done (reqDomains (setF v F.GLB_STATUS_BOOT_PHASE 1) [2, 4, 14, 16, 12, 13]) := by
  have hexec : exec (.fuseShadowValid reads) s = execFuseShadowValid reads s := rfl
  rw [hexec, execFuseShadowValid, if_neg (by simp [hreset, hrun, hnew, hphase])]
  extract_lets u from3 from1 counted flagged words measured
  have hcounted : SideKept u counted := ((SideKept.raise u _ (by decide)).trans (SideKept.setF _ _ _ (by decide))).trans
    ((SideKept.setF _ _ _ (by decide)).trans (SideKept.setF _ _ _ (by decide)))
  have hflagged : SideKept u flagged := hcounted.trans
    (.ite ((SideKept.raise counted _ (by decide)).trans (SideKept.raise _ _ (by decide))) (.refl counted))
  have hstatus : isSet flagged F.OTP_STATUS_SHADOW_OK = true := by
    have hset : isSet counted F.OTP_STATUS_SHADOW_OK = true := by
      rw [isSet_setF_other _ _ _ _ (by decide) (by decide) (by decide), isSet_setF_other _ _ _ _ (by decide) (by decide) (by decide),
        isSet_setF_other _ _ _ _ (by decide) (by decide) (by decide)]
      exact isSet_raise u _ rfl (by decide)
    have hkept : RdKept R.OTP_STATUS counted flagged :=
      .ite ((RdKept.raise counted _ (by decide)).trans (RdKept.raise _ _ (by decide))) (.refl counted)
    exact (RdKept.isSet hkept).trans hset
  have hboot : flagged.boot = u.boot := CoreKept.boot (SideKept.core hflagged)
  have hfuses : flagged.boot.fuses = u.boot.fuses := by rw [hboot]
  have hresolved : flagged.boot.resolved = u.boot.resolved := by rw [hboot]
  have hmains : flagged.mains = u.mains := SideKept.mains hflagged
  have hregs : ∀ o < 0x1000, rd flagged o = rd u o := fun _ ho => SideKept.rd hflagged ho
  clear_value flagged
  refine ⟨_, ?_, rfl⟩
  exact ⟨rfl, hfuses, hresolved, hmains, hstatus, hregs⟩

theorem Shadowed.getF {s t : State} (h : Shadowed s t) {f : Fld} (ho : f.off < 0x1000) : Machine.getF t f = Machine.getF s f := by
  simp only [Machine.getF, rdN, h.regs _ ho]

/-! #### The other steps -/

theorem exec_linkTrained {s : State} {speed lanes : Nat} (hreset : s.pins.inReset = false) (hon : domainOn s 2 = true) (hlow : 1 ≤ speed)
    (hhigh : speed ≤ 3) (hlanes : lanes = 1 ∨ lanes = 2 ∨ lanes = 4) : exec (.linkTrained speed lanes) s =
      done { s with pcie := { s.pcie with up := true, speed := speed, lanes := if s.pcie.twoLanes then min lanes 2 else lanes } } := by
  have hs : Nat.blt speed 1 = false ∧ Nat.blt 3 speed = false := by
    simp only [← Bool.not_eq_true, Nat.blt_eq]
    omega
  show execLinkTrained speed lanes s = _
  rcases hlanes with rfl | rfl | rfl <;> simp [execLinkTrained, hreset, hon, hs]

theorem exec_dramTrained {s : State} (hshadow : s.boot.shadowOk = true) (h12 : domainOn s 12 = true) (h13 : domainOn s 13 = true)
    (hboot : booting s = true) : exec .dramTrained s = done { s with boot := { s.boot with dramOk := true } } := by
  show execDramTrained s = _
  simp [execDramTrained, hshadow, h12, h13, hboot]

/-- The firmware runs and the configuration space answers (R72 step 8). -/
def started (s : State) : State := { s with boot := { s.boot with running := true }, pcie := { s.pcie with retry := false } }

theorem started_boot (s : State) : (started s).boot = { s.boot with running := true } := rfl

theorem rdKept_started (s : State) (o : Nat) : RdKept o s (started s) := ⟨rfl⟩

theorem domainOn_settle (s : State) (d : Nat) : domainOn (settle s) d = domainOn s d := domainOn_congr (settle_rd s (by decide)) d

theorem settle_retry (s : State) : (settle s).pcie.retry = s.pcie.retry := by
  rw [settle_eq]
  exact (congrArg Pcie.retry (hostOnly_completeCuts s.jobs s).2.1 :)

theorem exec_firmwareStart {s : State} (hfw : s.boot.fwOk = true) (hdram : s.boot.dramOk = true)
    (hphase : getF s F.GLB_STATUS_BOOT_PHASE = 3) :
    exec .firmwareStart s = done (started (checkAttest (setF s F.GLB_STATUS_BOOT_PHASE 4))) := by
  show execFirmwareStart s = _
  simp [execFirmwareStart, started, hfw, hdram, hphase]

/-- The attestation record's check writes the store and ATT's status. -/
theorem checkAttest_keeps (s : State) : (checkAttest s).boot = s.boot ∧ RdKept R.GLB_STATUS s (checkAttest s) := by
  have hstore : ∀ u, StoreOnly s u → u.boot = s.boot ∧ RdKept R.GLB_STATUS s u := fun u h => ⟨h.boot, ⟨h.2 _ (by decide)⟩⟩
  have hraise : ∀ (u : State) (f : Fld), R.GLB_STATUS ≠ f.off → (u.boot = s.boot ∧ RdKept R.GLB_STATUS s u) →
      (raise u f).boot = s.boot ∧ RdKept R.GLB_STATUS s (raise u f) := fun u f hf h => ⟨h.1, h.2.trans (RdKept.raise u f hf)⟩
  have hread := hstore _ (storeOnly_readTriple s (sysCopies 4) 0 16 fun _ => none)
  unfold checkAttest
  split
  · exact ⟨rfl, .refl s⟩
  · split
    · exact hraise _ _ (by decide) (hstore _ ((storeOnly_writeRecord s _ _ _ _).trans (storeOnly_writeRecord _ _ _ _ _)))
    · dsimp only
      split
      · exact hread
      · exact hraise _ _ (by decide) (hraise _ _ (by decide) hread)

/-- Settles O16: the words resolve one by one, `reqDomains` requests what is off, and the attestation check leaves the measurements. -/
theorem bootStepsFourToEight : Obligations.BootStepsFourToEight := by
  unfold Obligations.BootStepsFourToEight
  refine fun s => ⟨fun reads hreset hrun hnew hphase => ?_, fun speed lanes hs hreset hon hlow hhigh hlanes => ?_,
    fun hs hshadow h12 h13 hboot => ?_, fun hfw hdram hphase => ?_⟩
  · obtain ⟨v, hv, hexec⟩ := exec_fuseShadowValid reads hreset hrun hnew hphase
    have hkept := (resolveAll_keeps s reads).eq
    simp only [Prod.mk.injEq] at hkept
    obtain ⟨hregs, hmains, hfuses⟩ := hkept
    have hpower := regsOnly_reqDomains (setF v F.GLB_STATUS_BOOT_PHASE 1) [2, 4, 14, 16, 12, 13]
    refine completes_done hexec ⟨?_, ?_, ?_, ?_, ?_, fun w hw hsound => ?_, fun hnone d hd => ?_⟩
    · rw [settle_boot, hpower.boot]
      exact hv.shadowOk
    · rw [settle_getF _ (by decide), RdKept.getF (rdKept_reqDomains _ _ (by decide)), getF_setF_same _ _ _ (by decide) (by decide)]
      rfl
    · rw [settle_isSet _ (by decide), RdKept.isSet (rdKept_reqDomains _ _ (by decide)), isSet_setF_other _ _ _ _ (by decide) (by decide) (by decide)]
      exact hv.status
    · rw [settle_boot, hpower.boot]
      exact hv.fuses.trans hfuses
    · rw [settle_mains, hpower.mains]
      exact hv.mains.trans hmains
    · have hres : (reqDomains (setF v F.GLB_STATUS_BOOT_PHASE 1) [2, 4, 14, 16, 12, 13]).boot.resolved = (resolveAll s reads).boot.resolved := by
        rw [hpower.boot]
        exact hv.resolved
      rw [fuse, settle_boot, hres, resolveAll_eq, resolved_foldl hsound fuseWords _ (.inl hw)]
      exact BitVec.eq_of_toNat_eq (by simp)
    · have hsame : ∀ o < 0x1000, o ≠ R.GLB_STATUS → rd (setF v F.GLB_STATUS_BOOT_PHASE 1) o = rd s o := fun o ho hne =>
        (rd_setF_ne v _ _ hne).trans ((hv.regs o ho).trans (rd_congr hregs o))
      have hnone' : ∀ e, 1 ≤ e → e ≤ 20 → isSet (setF v F.GLB_STATUS_BOOT_PHASE 1) (F.PWR_DOM_PG_FAIL e) = false := fun e h1 h20 => by
        rw [← hnone e h1 h20]
        exact RdKept.isSet ⟨hsame _ (by unfold F.PWR_DOM_PG_FAIL R.PWR_DOM; dsimp only; omega) (pwrDom_ne (by decide) e).symm⟩
      have hlist : List.contains [2, 4, 14, 16, 12, 13] d = true := by simp at hd ⊢; omega
      rw [domainOn_settle, settle_isSet _ (by simp at hd; unfold F.PWR_DOM_REQ R.PWR_DOM; dsimp only; omega), isSet_req_reqDomains,
        domainOn_reqDomains, hangs_of_none hnone', hlist]
      cases domainOn (setF v F.GLB_STATUS_BOOT_PHASE 1) d <;> simp
  · exact completes_settled (exec_linkTrained hreset hon hlow hhigh hlanes) (hs.congr rfl rfl fun _ => rfl) rfl
  · exact completes_settled (exec_dramTrained hshadow h12 h13 hboot) (hs.congr rfl rfl fun _ => rfl) rfl
  · obtain ⟨hboot, hstatus⟩ := checkAttest_keeps (setF s F.GLB_STATUS_BOOT_PHASE 4)
    refine completes_done (exec_firmwareStart hfw hdram hphase) ⟨?_, ?_, ?_, ?_⟩
    · rw [settle_getF _ (by decide), RdKept.getF (hstatus.trans (rdKept_started _ _)), getF_setF_same _ _ _ (by decide) (by decide)]
      rfl
    · rw [settle_boot, started_boot]
    · rw [settle_retry]
      rfl
    · rw [settle_boot, started_boot, hboot]
      rfl

end Sys2Proof.Machine

/-! ### Domains go on and off (R58, R509) -/

namespace Sys2Proof.Machine

/-- Storing a power-good bit leaves every field but those of PWR_PG, CLK_STATUS and the domain's own PG bit. -/
theorem getF_setPg (s : State) (d : Nat) (b : Bool) {f : Fld} (hpg : f.off ≠ R.PWR_PG) (hclk : f.off ≠ R.CLK_STATUS)
    (hdom : f.off ≠ R.PWR_DOM d ∨ f.hi < 31) : getF (setPg s d b) f = getF s f := by
  have hstored : getF (setB (wrN s R.PWR_PG (setBits (rdN s R.PWR_PG) d d (b2n b))) (F.PWR_DOM_PG d) b) f = getF s f := by
    rw [getF_setB_other _ _ _ _ (le_refl 31) (by decide : 31 < 32) (hdom.imp_right .inr), getF_wrN_ne _ _ _ _ hpg]
  unfold setPg
  dsimp only
  split
  · rw [getF_setF_other _ _ _ _ (by decide) (by decide) (.inl hclk), hstored]
  · exact hstored

theorem isSet_setPg (s : State) (d : Nat) (b : Bool) {f : Fld} (hpg : f.off ≠ R.PWR_PG) (hclk : f.off ≠ R.CLK_STATUS)
    (hdom : f.off ≠ R.PWR_DOM d ∨ f.hi < 31) : isSet (setPg s d b) f = isSet s f := by
  simp only [isSet, getF_setPg s d b hpg hclk hdom]

theorem rdN_setPg (s : State) {d : Nat} (hd : d < 32) (b : Bool) : rdN (setPg s d b) R.PWR_PG = setBits (rdN s R.PWR_PG) d d (b2n b) := by
  have hstored : rdN (setB (wrN s R.PWR_PG (setBits (rdN s R.PWR_PG) d d (b2n b))) (F.PWR_DOM_PG d) b) R.PWR_PG =
      setBits (rdN s R.PWR_PG) d d (b2n b) := by
    rw [setB, rdN_setF_ne _ _ _ (pwrDom_ne (by decide) d), rdN_wrN, if_pos rfl]
    exact Nat.mod_eq_of_lt (setBits_lt _ (rdN_lt s _) le_rfl hd)
  unfold setPg
  dsimp only
  split
  · rw [rdN_setF_ne _ _ _ (by decide), hstored]
  · exact hstored

/-- A stored bit is the domain's state, and no other domain's. -/
theorem domainOn_setPg (s : State) {d : Nat} (hd : d < 32) (b : Bool) (e : Nat) :
    domainOn (setPg s d b) e = if e = d then b else domainOn s e := by
  rw [domainOn, rdN_setPg s hd, bit_eq_testBit, setBits_testBit _ _ le_rfl, domainOn, bit_eq_testBit]
  by_cases he : e = d
  · subst he
    cases b <;> simp [b2n]
  · rcases Nat.lt_or_gt_of_ne he with h | h
    · simp [h, he]
    · simp [Nat.not_lt.2 h.le, Nat.not_le.2 h, he]

/-- One domain is switched off. -/
def domainDown (s : State) (d : Nat) : State := setF (setPg s d false) (F.PWR_DOM_REQ d) 0

theorem getF_domainDown (s : State) (d : Nat) {f : Fld} (hpg : f.off ≠ R.PWR_PG) (hclk : f.off ≠ R.CLK_STATUS)
    (hdom : f.off ≠ R.PWR_DOM d ∨ f.hi < 30) : getF (domainDown s d) f = getF s f := by
  rw [domainDown, getF_setF_other _ _ _ _ (le_refl 30) (by decide : 30 < 32) (hdom.imp_right .inr),
    getF_setPg s d false hpg hclk (hdom.imp_right (by omega))]

theorem domainOn_domainDown (s : State) {d : Nat} (hd : d < 32) (e : Nat) : domainOn (domainDown s d) e = (domainOn s e && !(e == d)) := by
  rw [domainDown, domainOn_congr (rd_setF_ne _ _ _ (pwrDom_ne (by decide) d)), domainOn_setPg s hd]
  by_cases he : e = d <;> simp [he]

/-- The ports' pads go off with their domain (R58). -/
def padsOff (s : State) (l : List Nat) : State := if l.contains 16 && domainOn s 16 then post s (.portPads false) else s

theorem domainsDown_foldl (s : State) (l : List Nat) : domainsDown s l = l.reverse.foldl domainDown (padsOff s l) := rfl

theorem padsOff_regs (s : State) (l : List Nat) : (padsOff s l).regs = s.regs := by
  unfold padsOff
  split <;> rfl

/-- Switching domains off writes registers, and may post the state of the pads. -/
theorem domainsDown_eq (s : State) (l : List Nat) : ∃ r p, domainsDown s l = { s with regs := r, posted := p } := by
  have hregs : RegsOnly (padsOff s l) (domainsDown s l) :=
    domainsDown_foldl s l ▸ .foldl (.refl _) domainDown _ fun u d => (regsOnly_setPg u d false).setF _ _
  refine ⟨(domainsDown s l).regs, (padsOff s l).posted, hregs.eq.trans ?_⟩
  unfold padsOff
  split <;> rfl

theorem getF_domainsDown (s : State) (l : List Nat) {f : Fld} (hpg : f.off ≠ R.PWR_PG) (hclk : f.off ≠ R.CLK_STATUS)
    (hdom : ∀ d ∈ l, f.off ≠ R.PWR_DOM d ∨ f.hi < 30) : getF (domainsDown s l) f = getF s f := by
  rw [domainsDown_foldl, ← getF_congr (padsOff_regs s l) f]
  have hrev : ∀ d ∈ l.reverse, f.off ≠ R.PWR_DOM d ∨ f.hi < 30 := fun d hd => hdom d (List.mem_reverse.1 hd)
  generalize padsOff s l = u
  exact (Kept.foldl_mem (reading := fun s => getF s f) l.reverse domainDown (fun u d hd => ⟨getF_domainDown u d hpg hclk (hrev d hd)⟩) u).eq

theorem isSet_domainsDown (s : State) (l : List Nat) {f : Fld} (hpg : f.off ≠ R.PWR_PG) (hclk : f.off ≠ R.CLK_STATUS)
    (hdom : ∀ d ∈ l, f.off ≠ R.PWR_DOM d ∨ f.hi < 30) : isSet (domainsDown s l) f = isSet s f := by
  simp only [isSet, getF_domainsDown s l hpg hclk hdom]

/-- The domains of the list are off, the others as before. -/
theorem domainOn_domainsDown (s : State) {l : List Nat} (hl : ∀ d ∈ l, d < 32) (e : Nat) :
    domainOn (domainsDown s l) e = (domainOn s e && !l.contains e) := by
  have hfold : ∀ (l : List Nat) (u : State), (∀ d ∈ l, d < 32) → domainOn (l.foldl domainDown u) e = (domainOn u e && !l.contains e) := by
    intro l
    induction l with
    | nil => simp
    | cons d l ih =>
      intro u hl
      rw [List.foldl_cons, ih _ fun k hk => hl k (List.mem_cons_of_mem d hk), domainOn_domainDown u (hl d List.mem_cons_self),
        List.contains_cons, Bool.not_or, Bool.and_assoc]
  rw [domainsDown_foldl, hfold _ _ fun d hd => hl d (List.mem_reverse.1 hd), domainOn_congr (rd_congr (padsOff_regs s l) _)]
  simp

end Sys2Proof.Machine

/-! ### The causes of TXF (R215) -/

namespace Sys2Proof.Machine

/-- Overcurrent, temperature, undervoltage and power good, as causes of TXF. -/
def causes (t : TxPh) : Bool × Bool × Bool × Bool := (t.oc, t.therm, t.uv, t.pg)

/-- The causes of TXF of every phase are as before. -/
abbrev CausesKept : State → State → Prop := Kept fun s q => causes (txPh s q)

theorem causesKept_of_tx {s t : State} (h : t.tx = s.tx) : CausesKept s t := ⟨funext fun q => by rw [txPh, h, txPh]⟩

theorem causes_setTx (s : State) (p : Nat) (x : TxPh) (q : Nat) :
    causes (txPh (setTx s p x) q) = if q = p then causes x else causes (txPh s q) := by
  rw [txPh, setTx]
  by_cases h : q = p
  · subst h
    simp
  · rw [fgetD_fput_ne s.tx x _ h, if_neg h, txPh]

theorem causesKept_setTx {s : State} {p : Nat} {x : TxPh} (h : causes x = causes (txPh s p)) : CausesKept s (setTx s p x) := by
  refine ⟨funext fun q => ?_⟩
  rw [causes_setTx]
  split
  · next hq => rw [h, hq]
  · rfl

theorem updSess_tx (s : State) (n : Nat) (f : Session → Session) : (updSess s n f).tx = s.tx := by
  unfold updSess
  split <;> rfl

theorem causesKept_setOnset (s : State) (code : Nat) (o : DefObj) (t : Nat × Nat) : CausesKept s (setOnset s code o t) := by
  cases o with
  | session n => exact causesKept_of_tx (updSess_tx s n _)
  | phase p => exact causesKept_setTx rfl
  | _ => exact causesKept_of_tx rfl

theorem markSeen_tx (s : State) (code : Nat) (o : DefObj) : (markSeen s code o).tx = s.tx := by
  unfold markSeen markCover
  dsimp only
  split <;> rfl

theorem causesKept_of_capture {s t : State} (h : CaptureOnly s t) : CausesKept s t := causesKept_of_tx h.tx

theorem causesKept_reportRaise (s : State) (code : Nat) (o : DefObj) : CausesKept s (reportRaise s code o) :=
  have hraise : ∀ u, CausesKept u (raise u F.LFR_EVT_DEF_CHG) := fun _ => causesKept_of_tx rfl
  ((causesKept_setOnset s code o _).trans (hraise _)).trans
    ((causesKept_of_tx (markSeen_tx _ code o)).trans (causesKept_of_capture (captureOnly_reportRaise s code o)))

/-- Clearing a defect leaves the causes as the clearing of its own state leaves them. -/
theorem causesKept_clearWith (s : State) (code : Nat) (o : DefObj) (f : State → State) :
    clearWith s code o f = f s ∨ CausesKept (f (markSeen s code o)) (clearWith s code o f) := by
  have htrigger : ∀ u p e, CausesKept u (trigger u p e) := fun u p e => causesKept_of_capture (captureOnly_trigger u p e)
  have hraise : CausesKept (f (markSeen s code o)) (raise (f (markSeen s code o)) F.LFR_EVT_DEF_CHG) := causesKept_of_tx rfl
  unfold clearWith
  split
  · exact .inl rfl
  · right
    extract_lets _ _ _ _ t u v
    split
    · exact hraise
    · have hu : CausesKept t u := htrigger t _ _
      have hv : CausesKept u v := .ite (.refl u) (causesKept_of_capture (captureOnly_defectEvent _ _ _ _ _ _ _))
      exact hraise.trans (hu.trans (hv.trans (causesKept_of_capture (captureOnly_reportUncovered s v))))

/-- A change of a phase's causes takes effect on that phase, and no other phase's causes change. -/
theorem causes_changeTxf (s : State) (p : Nat) (f : TxPh → TxPh) (q : Nat) :
    causes (txPh (changeTxf s p f) q) = if q = p then causes (f (txPh s p)) else causes (txPh s q) := by
  have hupd : ∀ u : State, u.tx = s.tx → causes (txPh (setTx u p (f (txPh u p))) q) =
      if q = p then causes (f (txPh s p)) else causes (txPh s q) := fun u hu => by
    rw [causes_setTx, txPh, txPh, hu]
    rfl
  unfold changeTxf
  extract_lets upd after
  split
  · exact hupd s rfl
  · split
    · have hkept : CausesKept (upd s) (raiseBit (raiseWith s 7 (.phase p) upd) R.TXS_EVT p) :=
        .trans (.ite (.refl _) (causesKept_reportRaise (upd s) 7 (.phase p))) (causesKept_of_tx rfl)
      exact (congrFun hkept.eq q).trans (hupd s rfl)
    · rcases causesKept_clearWith s 7 (.phase p) upd with h | h
      · rw [h]
        exact hupd s rfl
      · exact (congrFun h.eq q).trans (hupd _ (markSeen_tx s 7 (.phase p)))

end Sys2Proof.Machine

/-! ### A domain fails, and the boot stops (R74, R509, R511) -/

namespace Sys2Proof.Machine

theorem withChildren_bounds {d e : Nat} (h : e ∈ withChildren d) : 1 ≤ e ∧ e ≤ 20 := by
  rw [withChildren, List.mem_filter, List.mem_range'_1] at h
  omega

theorem mem_withChildren_self {d : Nat} (h1 : 1 ≤ d) (h20 : d ≤ 20) : d ∈ withChildren d := by
  rw [withChildren, List.mem_filter, List.mem_range'_1]
  exact ⟨by omega, by simp⟩

theorem mem_withChildren_child {d e : Nat} (h1 : 1 ≤ e) (h20 : e ≤ 20) (hparent : d ∈ parents e) : e ∈ withChildren d := by
  rw [withChildren, List.mem_filter, List.mem_range'_1]
  exact ⟨by omega, by simp [hparent]⟩

/-- The failed domain and those under it are off, and the failure is flagged. -/
def domainFailed (s : State) (d : Nat) : State := raise (setF (domainsDown s (withChildren d)) (F.PWR_DOM_PG_FAIL d) 1) F.PWR_EVT_PG_FAIL

/-- Phases whose drivers a failure takes (R215). -/
def driversLost (s : State) (d : Nat) : List Nat :=
  if 18 ≤ d then [d - 18] else (List.range 3).filter fun p => domainOn s (18 + p) && (withChildren d).contains (18 + p)

/-- Their TXF has the cause PG. -/
def failureRaised (s : State) (d : Nat) : State :=
  (driversLost s d).foldl (fun s p => changeTxf s p fun t => { t with pg := true }) (domainFailed s d)

theorem failDomain_eq (s : State) (d code : Nat) : failDomain s d code =
    if booting (failureRaised s d) && d != 17 && Nat.blt d 18 then stopBoot (failureRaised s d) code else settlePower (failureRaised s d) := rfl

theorem sideKept_failureRaised (s : State) (d : Nat) : SideKept (domainFailed s d) (failureRaised s d) :=
  .foldl _ _ (fun u p => sideKept_changeTxf u p _) _

/-- A register field that a failure leaves: not PWR_PG, CLK_STATUS or PWR_EVT, nor the upper bits of a domain's register. -/
theorem getF_failureRaised (s : State) (d : Nat) {f : Fld} (hlow : f.off < 0x1000) (hpg : f.off ≠ R.PWR_PG) (hclk : f.off ≠ R.CLK_STATUS)
    (hevt : f.off ≠ R.PWR_EVT) (hdom : ∀ e ≤ 20, f.off ≠ R.PWR_DOM e ∨ f.hi < 29) (hd : d ≤ 20) :
    getF (failureRaised s d) f = getF s f := by
  rw [SideKept.getF (sideKept_failureRaised s d) hlow, domainFailed, getF_raise_other _ _ _ (by decide) (by decide) (.inl hevt),
    getF_setF_other _ _ _ _ (le_refl 29) (by decide : 29 < 32) ((hdom d hd).imp_right .inr),
    getF_domainsDown s _ hpg hclk fun e he => (hdom e (withChildren_bounds he).2).imp_right (by omega)]

theorem domainOn_failureRaised (s : State) (d e : Nat) :
    domainOn (failureRaised s d) e = (domainOn s e && !(withChildren d).contains e) := by
  have hfailed : domainOn (domainFailed s d) e = domainOn (domainsDown s (withChildren d)) e := domainOn_congr
    ((rd_setF_ne _ _ _ (by decide)).trans (rd_setF_ne _ _ _ (pwrDom_ne (by decide) d))) e
  rw [CoreKept.domainOn (SideKept.core (sideKept_failureRaised s d)), hfailed,
    domainOn_domainsDown s fun k hk => by have := (withChildren_bounds hk).2; omega]

theorem failureRaised_flags (s : State) {d : Nat} (hd : d ≤ 20) :
    isSet (failureRaised s d) (F.PWR_DOM_PG_FAIL d) = true ∧ isSet (failureRaised s d) F.PWR_EVT_PG_FAIL = true := by
  have hkept := sideKept_failureRaised s d
  have hoff : (F.PWR_DOM_PG_FAIL d).off < 0x1000 := by unfold F.PWR_DOM_PG_FAIL R.PWR_DOM; dsimp only; omega
  have hevt : (F.PWR_DOM_PG_FAIL d).off ≠ F.PWR_EVT_PG_FAIL.off := (pwrDom_ne (by decide) d).symm
  rw [SideKept.isSet hkept hoff, SideKept.isSet hkept (by decide), domainFailed, isSet_raise_other _ _ _ (by decide) (by decide) (.inl hevt)]
  exact ⟨isSet_raise _ _ rfl (by decide : 29 < 32), isSet_raise _ _ rfl (by decide)⟩

/-- The failed domain is off, those under it too, and it is flagged as failed. -/
structure FailedDomain (d : Nat) (t : State) : Prop where
  off : domainOn t d = false
  flag : isSet t (F.PWR_DOM_PG_FAIL d) = true
  event : isSet t F.PWR_EVT_PG_FAIL = true
  under : ∀ e, 1 ≤ e → e ≤ 20 → d ∈ parents e → domainOn t e = false

theorem failedDomain_failureRaised (s : State) {d : Nat} (h1 : 1 ≤ d) (h20 : d ≤ 20) : FailedDomain d (failureRaised s d) where
  off := by rw [domainOn_failureRaised]; simp [mem_withChildren_self h1 h20]
  flag := (failureRaised_flags s h20).1
  event := (failureRaised_flags s h20).2
  under e he1 he20 hp := by rw [domainOn_failureRaised]; simp [mem_withChildren_child he1 he20 hp]

/-- Domains that a stopped boot switches off (R74). -/
def stoppedDomains : List Nat := [5, 6, 7, 8, 9, 10, 11, 12, 13, 15, 18, 19, 20]

/-- The boot phase and its code, then the domains. -/
def stopCoded (s : State) (code : Nat) : State := setF (setF s F.GLB_STATUS_BOOT_PHASE 0xE) F.GLB_STATUS_BOOT_ERR code

/-- No switch-on is waited for any longer. -/
def requestsDropped (s : State) : State := (List.range' 1 20).foldl (fun s d => setF s (F.PWR_DOM_REQ d) 0) s

theorem getF_requestsDropped (s : State) {f : Fld} (hdom : ∀ d ≤ 20, f.off ≠ R.PWR_DOM d ∨ f.hi < 30) : getF (requestsDropped s) f = getF s f :=
  (Kept.foldl_mem (reading := fun s => getF s f) (List.range' 1 20) _ (fun u d hd => ⟨getF_setF_other u _ _ _ (le_refl 30) (by decide : 30 < 32)
    ((hdom d (by rw [List.mem_range'_1] at hd; omega)).imp_right .inr)⟩) s).eq

theorem rdKept_requestsDropped (s : State) {o : Nat} (h : ∀ d ≤ 20, o ≠ R.PWR_DOM d) : RdKept o s (requestsDropped s) :=
  Kept.foldl_mem (List.range' 1 20) _ (fun u d hd => RdKept.setF u _ _ (h d (by rw [List.mem_range'_1] at hd; omega))) s

/-- What a stopped boot leaves of the registers. -/
def domainsStopped (s : State) (code : Nat) : State := requestsDropped (domainsDown (stopCoded s code) stoppedDomains)

/-- Beside the registers: the configuration space answers from its reset values, and no Xaton record is held. -/
def linkStopped (s : State) : State :=
  { s with
    pcie := { up := s.pcie.up, speed := s.pcie.speed, lanes := s.pcie.lanes, twoLanes := s.pcie.twoLanes, retry := false }
    boot := { s.boot with held := [] } }

theorem linkStopped_regs (s : State) : (linkStopped s).regs = s.regs := rfl

theorem linkStopped_retry (s : State) : (linkStopped s).pcie.retry = false := rfl

theorem stopBoot_eq (s : State) (code : Nat) : stopBoot s code = linkStopped (domainsStopped s code) := by
  simp only [stopBoot, linkStopped, domainsStopped, requestsDropped, stopCoded, stoppedDomains]

theorem stopBoot_regs (s : State) (code : Nat) : (stopBoot s code).regs = (domainsStopped s code).regs := by
  rw [stopBoot_eq, linkStopped_regs]

theorem stopBoot_retry (s : State) (code : Nat) : (stopBoot s code).pcie.retry = false := by rw [stopBoot_eq, linkStopped_retry]

theorem domainOn_stopBoot (s : State) (code e : Nat) : domainOn (stopBoot s code) e = (domainOn s e && !stoppedDomains.contains e) := by
  have hcoded : domainOn (stopCoded s code) e = domainOn s e := domainOn_congr ((rd_setF_ne _ _ _ (by decide)).trans (rd_setF_ne _ _ _ (by decide))) e
  rw [domainOn_congr (rd_congr (stopBoot_regs s code) _), domainsStopped,
    domainOn_congr (rdKept_requestsDropped _ fun d _ => pwrDom_ne (by decide) d).eq, domainOn_domainsDown _ (by decide), hcoded]

/-- A field that a stopped boot leaves. -/
theorem getF_stopBoot (s : State) (code : Nat) {f : Fld} (hglb : f.off ≠ R.GLB_STATUS) (hpg : f.off ≠ R.PWR_PG) (hclk : f.off ≠ R.CLK_STATUS)
    (hdom : ∀ d ≤ 20, f.off ≠ R.PWR_DOM d ∨ f.hi < 30) : getF (stopBoot s code) f = getF s f := by
  have hlist : ∀ d ∈ stoppedDomains, d ≤ 20 := by decide
  rw [getF_congr (stopBoot_regs s code), domainsStopped, getF_requestsDropped _ hdom,
    getF_domainsDown _ _ hpg hclk fun d hd => hdom d (hlist d hd), stopCoded,
    getF_setF_other _ _ _ _ (by decide) (by decide) (.inl hglb), getF_setF_other _ _ _ _ (by decide) (by decide) (.inl hglb)]

/-- The boot has stopped with a code (R74). -/
theorem getF_stopBoot_status (s : State) (code : Nat) : getF (stopBoot s code) F.GLB_STATUS_BOOT_PHASE = 0xE ∧
    getF (stopBoot s code) F.GLB_STATUS_BOOT_ERR = code % 256 := by
  have hkept : ∀ f : Fld, f.off = R.GLB_STATUS → getF (stopBoot s code) f = getF (stopCoded s code) f := fun f hf => by
    have hne : ∀ d ≤ 20, f.off ≠ R.PWR_DOM d ∨ f.hi < 30 := fun d _ => .inl (hf ▸ pwrDom_ne (by decide) d)
    rw [getF_congr (stopBoot_regs s code), domainsStopped, getF_requestsDropped _ hne,
      getF_domainsDown _ _ (hf ▸ by decide) (hf ▸ by decide) fun d _ => .inl (hf ▸ pwrDom_ne (by decide) d)]
  rw [hkept _ rfl, hkept _ rfl, stopCoded, getF_setF_other _ _ _ _ (by decide) (by decide) (by decide),
    getF_setF_same _ _ _ (by decide) (by decide), getF_setF_same _ _ _ (by decide) (by decide)]
  exact ⟨rfl, rfl⟩

/-- A failure before the boot is over stays one where the boot stops. -/
theorem FailedDomain.stopBoot {d : Nat} {t : State} (h : FailedDomain d t) (hd : d ≤ 20) (code : Nat) : FailedDomain d (Machine.stopBoot t code) where
  off := by rw [domainOn_stopBoot, h.off]; rfl
  flag := by
    rw [isSet, getF_stopBoot t code (pwrDom_ne (by decide) d).symm (pwrDom_ne (by decide) d).symm ?_ fun e _ => .inr (by decide : 29 < 30)]
    · exact h.flag
    · unfold F.PWR_DOM_PG_FAIL R.PWR_DOM R.CLK_STATUS
      dsimp only
      omega
  event := by
    rw [isSet, getF_stopBoot t code (by decide) (by decide) (by decide) fun e _ => .inl (pwrDom_ne (by decide) e)]
    exact h.event
  under e h1 h20 hp := by rw [domainOn_stopBoot, h.under e h1 h20 hp]; rfl

end Sys2Proof.Machine

/-! ### Clock events and the watchdog (R27, R72 step 3, R509, R511) -/

namespace Sys2Proof.Machine

/-! #### Lock bits -/

theorem setLock_ten (s : State) : setLock s 10 true = setF s F.CLK_STATUS_LOCK (setBits (getF s F.CLK_STATUS_LOCK) 10 10 1) := rfl

theorem bit_lock_setLock (s : State) {i : Nat} (hi : i < 11) (b : Bool) : bit (getF (setLock s i b) F.CLK_STATUS_LOCK) i = b := by
  rw [setLock, getF_setF_same _ _ _ (by decide) (by decide), bit_eq_testBit, Nat.testBit_mod_two_pow, setBits_testBit _ _ le_rfl]
  have hwidth : i < F.CLK_STATUS_LOCK.hi + 1 - F.CLK_STATUS_LOCK.lo := hi
  cases b <;> simp [hwidth, b2n]

theorem onlyRegs_setLock (s : State) (i : Nat) (b : Bool) : OnlyRegs s (setLock s i b) [R.CLK_STATUS] :=
  ⟨.setF (.refl s) _ _, fun _ ho => rd_setF_ne s _ _ fun heq => ho (heq ▸ List.mem_singleton_self _)⟩

/-- One more field of a register of the list is stored. -/
theorem OnlyRegs.setF {s t : State} {l : List Nat} (h : OnlyRegs s t l) (f : Fld) (v : Nat) (hf : f.off ∈ l) : OnlyRegs s (Machine.setF t f v) l :=
  ⟨h.1.setF f v, fun o ho => (rd_setF_ne t f v (ne_of_mem_of_not_mem hf ho).symm).trans (h.2 o ho)⟩

theorem OnlyRegs.refl (s : State) (l : List Nat) : OnlyRegs s s l := ⟨.refl s, fun _ _ => rfl⟩

/-- A flag cleared reads as not set. -/
theorem isSet_clear (s : State) (f : Fld) (hl : f.lo = f.hi) (hh : f.hi < 32) : isSet (setF s f 0) f = false := isSet_setB_same s f false hl hh

/-! #### What each event leaves -/

theorem exec_timekeepingPllLock {s : State} (hreset : s.pins.inReset = false) (hrun : s.mains.running = false) :
    exec .timekeepingPllLock s = done { setLock s 10 true with mains := { s.mains with running := true, tb := 0, frac := 0 } } := by
  show execTimekeepingPllLock s = _
  rw [execTimekeepingPllLock, if_neg (by simp [hreset, hrun])]
  rfl

theorem exec_refSourceLost {s : State} (hreset : s.pins.inReset = false) : exec .refSourceLost s =
    done (raise (setF (setF (raise (raise s F.CLK_EVT_REF_LOST) F.GLB_FAULT_SUM_REF_LOST) F.CLK_STATUS_REF_OK 0) F.CLK_STATUS_XTAL_OK 0)
      F.CLK_STATUS_TK_HOLD) := by
  show execRefSourceLost s = _
  rw [execRefSourceLost, if_neg (by simp [hreset])]

theorem exec_refRelock {s : State} (hreset : s.pins.inReset = false) (hhold : isSet s F.CLK_STATUS_TK_HOLD = true) : exec .refRelock s =
    done (setF (setB (setB s F.CLK_STATUS_REF_OK (getF s F.CLK_STRAP_CLKSEL == 1 || getF s F.CLK_STRAP_CLKSEL == 2)) F.CLK_STATUS_XTAL_OK
      (!(getF s F.CLK_STRAP_CLKSEL == 1 || getF s F.CLK_STRAP_CLKSEL == 2))) F.CLK_STATUS_TK_HOLD 0) := by
  show execRefRelock s = _
  rw [execRefRelock, if_neg (by simp [hreset, hhold])]

/-- The stopped crystal's flags. -/
def x32Flagged (s : State) : State := raise (raise (setF s F.CLK_STATUS_X32_OK 0) F.CLK_EVT_X32_STOP) F.RTC_STATUS_TIME_INVALID

/-- The RTC's clock stands, and every open bin is flagged. -/
def crystalStopped (s : State) : State := { flagBins s Flag.step with rtc := { (flagBins s Flag.step).rtc with running := false } }

theorem crystalStopped_keeps (s : State) : (crystalStopped s).rtc = { s.rtc with running := false } ∧ (crystalStopped s).mains = s.mains ∧
    (crystalStopped s).regs = s.regs :=
  ⟨rfl, rfl, rfl⟩

theorem settled_crystalStopped {s : State} (h : Settled s) : Settled (crystalStopped s) := h.congr rfl rfl fun _ => rfl

theorem exec_x32Stop {s : State} (hreset : s.pins.inReset = false) : exec .x32Stop s = done (crystalStopped (x32Flagged s)) := by
  show execX32Stop s = _
  simp only [execX32Stop, crystalStopped, x32Flagged, hreset, Bool.false_eq_true, if_false]

theorem exec_islandUnlock {s : State} {i : Fin 10} (hreset : s.pins.inReset = false) (hlock : bit (getF s F.CLK_STATUS_LOCK) i.val = true) :
    exec (.islandUnlock i) s = done (raise (raiseBit (setLock s i.val false) R.CLK_EVT i.val) F.GLB_FAULT_SUM_CLK_UNLOCK) := by
  show execIslandUnlock i s = _
  rw [execIslandUnlock, if_neg (by simp [hreset, hlock])]

theorem exec_islandRelock {s : State} {i : Fin 10} (hreset : s.pins.inReset = false) (hon : domainOn s (domainOf i.val) = true) :
    exec (.islandRelock i) s = done (setLock s i.val true) := by
  show execIslandRelock i s = _
  rw [execIslandRelock, if_neg (by simp [hreset, hon])]

theorem exec_islandRelockTimeout {s : State} {i : Fin 10} (hreset : s.pins.inReset = false) (hon : domainOn s (domainOf i.val) = true)
    (hlock : bit (getF s F.CLK_STATUS_LOCK) i.val = false) :
    exec (.islandRelockTimeout i) s = done (failDomain s (domainOf i.val) 0x21) := by
  show execIslandRelockTimeout i s = _
  rw [execIslandRelockTimeout, if_neg (by simp [hreset, hon, hlock])]

/-- The island of a clock below 10 is in one of the domains 2 to 16. -/
theorem domainOf_bounds (i : Fin 10) : 2 ≤ domainOf i.val ∧ domainOf i.val ≤ 16 := by
  revert i
  decide

/-- A failure while the boot is under way stops it (R509). -/
theorem failDomain_booting {s : State} {d : Nat} (code : Nat) (hboot : booting s = true) (hd : d < 18) (h17 : d ≠ 17) :
    failDomain s d code = stopBoot (failureRaised s d) code := by
  have hphase : getF (failureRaised s d) F.GLB_STATUS_BOOT_PHASE = getF s F.GLB_STATUS_BOOT_PHASE :=
    getF_failureRaised s d (by decide) (by decide) (by decide) (by decide) (fun e _ => .inl (pwrDom_ne (by decide) e)) (by omega)
  have hbooting : booting (failureRaised s d) = true := by
    simp only [booting, hphase] at hboot ⊢
    exact hboot
  have hlt : Nat.blt d 18 = true := Nat.blt_eq ▸ hd
  rw [failDomain_eq, hbooting, hlt]
  simp [h17]

theorem FailedDomain.settle {d : Nat} {t : State} (h : FailedDomain d t) (hd : d ≤ 20) : FailedDomain d (Machine.settle t) where
  off := (domainOn_settle t d).trans h.off
  flag := (settle_isSet t (by unfold F.PWR_DOM_PG_FAIL R.PWR_DOM; dsimp only; omega)).trans h.flag
  event := (settle_isSet t (by decide)).trans h.event
  under e h1 h20 hp := (domainOn_settle t e).trans (h.under e h1 h20 hp)

/-! #### The watchdog (R27) -/

/-- A command that needs the line ends with FAULT. -/
def faultCmd (detail : Nat) (s : State) (c : Cmd) : State := complete (freePlayer (withdrawUnbegun s c.uid) c.uid) c St.fault detail 0

theorem faultLine_eq (s : State) (detail : Nat) : faultLine s detail true = (lineCmds s).foldl (faultCmd detail) s := by
  simp only [faultLine, Bool.not_true, Bool.false_and, Bool.false_eq_true, if_false]
  rfl

theorem withdrawUnbegun_cmds (s : State) (uid : Nat) : (withdrawUnbegun s uid).cmds = s.cmds :=
  (Kept.foldl (reading := State.cmds) (cmdJobs s uid) (fun s j => if j.begun then s else withdrawJob s j)
    (fun u _ => .ite (.refl u) ⟨rfl⟩) s).eq

theorem faultCmd_cmds (s : State) (detail : Nat) (c : Cmd) : (faultCmd detail s c).cmds = s.cmds.filter fun d => !(d.uid == c.uid) := by
  rw [faultCmd, complete_cmds]
  exact congrArg _ (withdrawUnbegun_cmds s c.uid)

theorem foldl_faultCmd_cmds (detail : Nat) (l : List Cmd) (s : State) :
    (l.foldl (faultCmd detail) s).cmds = s.cmds.filter fun d => !(l.any fun c => d.uid == c.uid) := by
  induction l generalizing s with
  | nil => simp
  | cons c l ih => simp [ih, faultCmd_cmds, List.filter_filter, Bool.and_comm]

theorem sideKept_faultCmd (detail : Nat) (s : State) (c : Cmd) : SideKept s (faultCmd detail s c) := sideKept_endUnbegun s c _ _ _

theorem faultCmd_sessions (detail : Nat) (s : State) (c : Cmd) : (faultCmd detail s c).sessions = s.sessions :=
  (hostOnly_complete _ c _ _ _).sessions.trans
    (Kept.foldl (reading := State.sessions) (cmdJobs s c.uid) (fun s j => if j.begun then s else withdrawJob s j)
      (fun u _ => .ite (.refl u) ⟨rfl⟩) s).eq

/-- The watchdog's own state, its flag and its event. -/
def watchdogBitten (s : State) (core : Nat) : State :=
  eventNow (raise { s with pwr := { s.pwr with watchdog := true } } F.GLB_FAULT_SUM_WATCHDOG) 0 0x0008 0 [BitVec.ofNat 8 core]

theorem exec_watchdogExpiry {s : State} {core : Fin 4} (hon : domainOn s (if core.val < 2 then 4 else 5) = true) :
    exec (.watchdogExpiry core) s = done ((lineCmds (watchdogBitten s core.val)).foldl (faultCmd Det.watchdog) (watchdogBitten s core.val)) := by
  show execWatchdogExpiry core s = _
  rw [execWatchdogExpiry, if_neg (by rw [hon]; decide), ← faultLine_eq]
  rfl

/-- What the watchdog leaves before the commands end. -/
theorem watchdogBitten_keeps (s : State) (core : Nat) : (watchdogBitten s core).pwr = { s.pwr with watchdog := true } ∧
    (watchdogBitten s core).cmds = s.cmds ∧ (watchdogBitten s core).sessions = s.sessions ∧ (watchdogBitten s core).mains = s.mains ∧
    (watchdogBitten s core).jobs = s.jobs ∧ (watchdogBitten s core).players = s.players ∧
    isSet (watchdogBitten s core) F.GLB_FAULT_SUM_WATCHDOG = true := by
  unfold watchdogBitten
  generalize hu : raise { s with pwr := { s.pwr with watchdog := true } } F.GLB_FAULT_SUM_WATCHDOG = u
  have h := ringOnly_eventNow u 0 0x0008 0 [BitVec.ofNat 8 core]
  rw [h.pwr, h.cmds, h.sessions, h.mains, h.jobs, h.players, (hostOnly_eventNow u 0 0x0008 0 _).isSet (by decide), ← hu, raise_pwr, raise_cmds,
    raise_sessions, raise_mains, raise_jobs, raise_players, isSet_raise _ _ rfl (by decide)]
  exact ⟨rfl, rfl, rfl, rfl, rfl, rfl, rfl⟩

/-- The watchdog's own mark mutes nothing yet (R27). -/
theorem settled_watchdogBitten {s : State} (h : Settled s) (core : Nat) : Settled (watchdogBitten s core) :=
  have hmarked : Settled { s with pwr := { s.pwr with watchdog := true } } := h.congr rfl rfl fun _ => rfl
  ((RegsOnly.refl _).raise F.GLB_FAULT_SUM_WATCHDOG |>.settled hmarked).of_host (hostOnly_eventNow _ _ _ _ _)

/-! #### The statement -/

/-- The commands that the watchdog leaves do not need the line (R27). -/
theorem cmds_after_watchdog {s u : State} (hu : u.cmds = s.cmds) (detail : Nat) :
    ∀ c ∈ (settle ((lineCmds u).foldl (faultCmd detail) u)).cmds, c ∈ s.cmds ∧ c.st ≠ .waiting ∧ c.st ≠ .onLine := by
  intro c hc
  have hleft := cmdsEnd_settle _ hc
  rw [foldl_faultCmd_cmds, List.mem_filter] at hleft
  obtain ⟨hmem, hnone⟩ := hleft
  have hline : c ∉ lineCmds u := fun h => by simp at hnone; exact hnone c h rfl
  rw [lineCmds, List.mem_filter] at hline
  simp [hmem] at hline
  exact ⟨hu ▸ hmem, hline⟩

/-- One command that needs the line, with no transmission and no player, ends alone. -/
theorem watchdog_ends_one {u : State} {c : Cmd} (hs : Settled u) (hline : lineCmds u = [c]) (hjobs : cmdJobs u c.uid = []) (hplayers : u.players = []) :
    Ends c St.fault Det.watchdog 0 (settle ((lineCmds u).foldl (faultCmd Det.watchdog) u)) fun v => v.cmds = u.cmds := by
  have hfree : freePlayer (withdrawUnbegun u c.uid) c.uid = u := by
    rw [withdrawUnbegun, hjobs, List.foldl_nil, freePlayer, hplayers]
    show ({ u with players := [] } : State) = u
    rw [← hplayers]
  have hone : (lineCmds u).foldl (faultCmd Det.watchdog) u = complete u c St.fault Det.watchdog 0 := by
    rw [hline, List.foldl_cons, List.foldl_nil, faultCmd, hfree]
  rw [hone, settle_of_settled (hs.of_host (hostOnly_complete _ _ _ _ _))]
  exact ⟨u, rfl, rfl⟩

/-- Settles O14: the clock events store fields of CLK, GLB and RTC; an island that does not relock fails its domain, which stops the boot
(`failDomain_booting`); the watchdog ends the commands one by one (`faultCmd`), which those it means being the model's choice (log entry 43). -/
theorem clockAndWatchdogEvents : Obligations.ClockAndWatchdogEvents := by
  unfold Obligations.ClockAndWatchdogEvents
  refine ⟨fun s => ⟨fun hs hreset hrun => ?_, fun hs hreset => ?_, fun hs hreset hhold => ?_, fun hs hreset => ?_⟩,
    fun s i hreset => ⟨fun hs hlock => ?_, fun hs hon => ?_, fun hon hlock hboot => ?_⟩, fun s core hon => ?_⟩
  · obtain ⟨hregs, hsame⟩ := onlyRegs_setLock s 10 true
    exact completes_settled (exec_timekeepingPllLock hreset hrun) ((hregs.settled hs).congr rfl rfl fun _ => rfl)
      ⟨rfl, bit_lock_setLock s (by decide) true, hsame⟩
  · have honly : OnlyRegs s (raise (setF (setF (raise (raise s F.CLK_EVT_REF_LOST) F.GLB_FAULT_SUM_REF_LOST) F.CLK_STATUS_REF_OK 0)
        F.CLK_STATUS_XTAL_OK 0) F.CLK_STATUS_TK_HOLD) [R.CLK_EVT, R.GLB_FAULT_SUM, R.CLK_STATUS] :=
      (((((OnlyRegs.refl s _).setF _ _ (by decide)).setF _ _ (by decide)).setF _ _ (by decide)).setF _ _ (by decide)).setF _ _ (by decide)
    refine completes_settled (exec_refSourceLost hreset) (honly.1.settled hs) ⟨honly, ?_, ?_, ?_, ?_, ?_⟩
    · rw [isSet_raise_other _ _ _ (by decide) (by decide) (by decide), isSet_setF_other _ _ _ _ (by decide) (by decide) (by decide),
        isSet_setF_other _ _ _ _ (by decide) (by decide) (by decide), isSet_raise_other _ _ _ (by decide) (by decide) (by decide),
        isSet_raise _ _ rfl (by decide)]
    · rw [isSet_raise_other _ _ _ (by decide) (by decide) (by decide), isSet_setF_other _ _ _ _ (by decide) (by decide) (by decide),
        isSet_setF_other _ _ _ _ (by decide) (by decide) (by decide), isSet_raise _ _ rfl (by decide)]
    · rw [isSet_raise_other _ _ _ (by decide) (by decide) (by decide), isSet_setF_other _ _ _ _ (by decide) (by decide) (by decide),
        isSet_clear _ _ rfl (by decide)]
    · rw [isSet_raise_other _ _ _ (by decide) (by decide) (by decide), isSet_clear _ _ rfl (by decide)]
    · exact isSet_raise _ _ rfl (by decide)
  · have honly := (((OnlyRegs.refl s [R.CLK_STATUS]).setF F.CLK_STATUS_REF_OK
      (b2n (getF s F.CLK_STRAP_CLKSEL == 1 || getF s F.CLK_STRAP_CLKSEL == 2)) (by decide)).setF F.CLK_STATUS_XTAL_OK
      (b2n !(getF s F.CLK_STRAP_CLKSEL == 1 || getF s F.CLK_STRAP_CLKSEL == 2)) (by decide)).setF F.CLK_STATUS_TK_HOLD 0 (by decide)
    refine completes_settled (exec_refRelock hreset hhold) (honly.1.settled hs) ⟨honly, ?_, ?_, ?_⟩
    · exact isSet_clear _ _ rfl (by decide)
    all_goals
      intro hsel
      rw [isSet_setF_other _ _ _ _ (by decide) (by decide) (by decide), isSet_setF_other _ _ _ _ (by decide) (by decide) (by decide),
        isSet_setB_same _ _ _ rfl (by decide), isSet_setB_other _ _ _ _ (by decide) (by decide) (by decide),
        isSet_setB_same _ _ _ rfl (by decide), hsel]
      exact ⟨rfl, rfl⟩
  · have honly : OnlyRegs s (x32Flagged s) [R.CLK_STATUS, R.CLK_EVT, R.RTC_STATUS] :=
      (((OnlyRegs.refl s _).setF _ _ (by decide)).setF _ _ (by decide)).setF _ _ (by decide)
    obtain ⟨hrtc, hmains, hregs⟩ := crystalStopped_keeps (x32Flagged s)
    refine completes_settled (exec_x32Stop hreset) (settled_crystalStopped (honly.1.settled hs)) ⟨?_, ?_, ?_, ?_, fun o ho => ?_, ?_⟩
    · rw [isSet_congr hregs, x32Flagged, isSet_raise_other _ _ _ (by decide) (by decide) (by decide),
        isSet_raise_other _ _ _ (by decide) (by decide) (by decide), isSet_clear _ _ rfl (by decide)]
    · rw [isSet_congr hregs, x32Flagged, isSet_raise_other _ _ _ (by decide) (by decide) (by decide), isSet_raise _ _ rfl (by decide)]
    · rw [isSet_congr hregs, x32Flagged, isSet_raise _ _ rfl (by decide)]
    · rw [hrtc, honly.1.rtc]
    · rw [rd_congr hregs, honly.2 o ho]
    · rw [hmains, honly.1.mains]
  · have hclear : OnlyRegs s (setLock s i.val false) [R.CLK_STATUS, R.CLK_EVT, R.GLB_FAULT_SUM] := (OnlyRegs.refl s _).setF _ _ (by decide)
    have hraised : OnlyRegs s (raiseBit (setLock s i.val false) R.CLK_EVT i.val) [R.CLK_STATUS, R.CLK_EVT, R.GLB_FAULT_SUM] :=
      ⟨hclear.1.raiseBit _ _, fun o ho => (rd_wr_ne _ _ (ne_of_mem_of_not_mem (by decide) ho).symm).trans (hclear.2 o ho)⟩
    have honly := hraised.setF F.GLB_FAULT_SUM_CLK_UNLOCK 1 (by decide)
    refine completes_settled (exec_islandUnlock hreset hlock) (honly.1.settled hs) ⟨honly, ?_, ?_, ?_⟩
    · rw [getF_raise_other _ _ _ (by decide) (by decide) (by decide), raiseBit, getF_wrN_ne _ _ _ _ (by decide), bit_lock_setLock s (by omega)]
    · rw [raise, rdN_setF_ne _ _ _ (by decide), raiseBit, rdN_wrN, if_pos rfl,
        Nat.mod_eq_of_lt (setBits_lt 1 (rdN_lt _ _) le_rfl (by omega)), bit_eq_testBit, setBits_testBit _ _ le_rfl]
      simp
    · exact isSet_raise _ _ rfl (by decide)
  · exact completes_settled (exec_islandRelock hreset hon) ((onlyRegs_setLock s _ _).1.settled hs)
      ⟨onlyRegs_setLock s _ _, bit_lock_setLock s (by omega) true⟩
  · obtain ⟨h2, h16⟩ := domainOf_bounds i
    have hfailed := ((failedDomain_failureRaised s (d := domainOf i.val) (by omega) (by omega)).stopBoot (by omega) 0x21).settle (by omega)
    obtain ⟨hphase, herr⟩ := getF_stopBoot_status (failureRaised s (domainOf i.val)) 0x21
    rw [← failDomain_booting 0x21 hboot (by omega) (by omega)] at hfailed hphase herr
    exact completes_done (exec_islandRelockTimeout hreset hon hlock)
      ⟨(settle_getF _ (by decide)).trans hphase, (settle_getF _ (by decide)).trans herr, hfailed.off, hfailed.flag⟩
  · obtain ⟨hpwr, hcmds, hsess, hmains, hjobs, hplayers, hflag⟩ := watchdogBitten_keeps s core.val
    have hsettled : Settled s → Settled (watchdogBitten s core.val) := fun h => settled_watchdogBitten h core.val
    have hline : lineCmds (watchdogBitten s core.val) = lineCmds s := by rw [lineCmds, hcmds, lineCmds]
    have hcmdJobs : ∀ uid, cmdJobs (watchdogBitten s core.val) uid = cmdJobs s uid := fun uid => by rw [cmdJobs, hjobs, cmdJobs]
    refine completes_done (exec_watchdogExpiry hon) ?_
    generalize watchdogBitten s core.val = u at *
    have hside : SideKept u ((lineCmds u).foldl (faultCmd Det.watchdog) u) := .foldl _ _ (sideKept_faultCmd Det.watchdog) u
    have hsessions : Kept State.sessions u ((lineCmds u).foldl (faultCmd Det.watchdog) u) := .foldl _ _ (fun v c => ⟨faultCmd_sessions _ v c⟩) u
    refine ⟨?_, ?_, ?_, ?_, cmds_after_watchdog hcmds _, fun hs c hc hnone hidle => ?_⟩
    · rw [settle_pwr, CoreKept.pwr (SideKept.core hside), hpwr]
    · rw [settle_isSet _ (by decide), SideKept.isSet hside (by decide), hflag]
    · rw [settle_sessions, hsessions.eq, hsess]
    · rw [settle_mains, SideKept.mains hside, hmains]
    · rw [← hcmds]
      exact watchdog_ends_one (hsettled hs) (hline.trans hc) ((hcmdJobs _).trans hnone) (hplayers.trans hidle)

end Sys2Proof.Machine

/-! ### A domain reports power good (R58, R62, R63, R207, R215, R405) -/

namespace Sys2Proof.Machine

/-! #### What a domain brings with it leaves the power side -/

/-- Clocks, fuses and records, the change in progress and the registers of GLB, PWR, CLK and MSY are as before. -/
abbrev RiseKept : State → State → Prop := Kept fun s => (s.mains, s.boot, (s.pwr.toStandby, s.pwr.leaving), regsBelow 0x1000 s)

namespace RiseKept

variable {s t : State}

theorem intro (hmains : t.mains = s.mains) (hboot : t.boot = s.boot) (hpwr : t.pwr.toStandby = s.pwr.toStandby)
    (hleave : t.pwr.leaving = s.pwr.leaving) (hregs : ∀ o < 0x1000, rd t o = rd s o) : RiseKept s t :=
  ⟨by simp only [hmains, hboot, hpwr, hleave, regsBelow_congr hregs]⟩

theorem of_side (h : SideKept s t) : RiseKept s t :=
  intro (SideKept.mains h) (CoreKept.boot (SideKept.core h)) (by rw [CoreKept.pwr (SideKept.core h)])
    (by rw [CoreKept.pwr (SideKept.core h)]) fun _ ho => SideKept.rd h ho

theorem of_store (h : StoreOnly s t) : RiseKept s t :=
  intro h.mains h.boot (by rw [h.pwr]) (by rw [h.pwr]) fun o ho => h.2 o (by omega)

theorem rd (h : RiseKept s t) {o : Nat} (ho : o < 0x1000) : Machine.rd t o = Machine.rd s o := rd_of_regsBelow (congrArg (·.2.2.2) h.eq) ho

theorem getF (h : RiseKept s t) {f : Fld} (ho : f.off < 0x1000) : Machine.getF t f = Machine.getF s f := by
  simp only [Machine.getF, rdN, rd h ho]

theorem isSet (h : RiseKept s t) {f : Fld} (ho : f.off < 0x1000) : Machine.isSet t f = Machine.isSet s f := by
  simp only [Machine.isSet, getF h ho]

theorem mains (h : RiseKept s t) : t.mains = s.mains := congrArg (·.1) h.eq

theorem boot (h : RiseKept s t) : t.boot = s.boot := congrArg (·.2.1) h.eq

theorem change (h : RiseKept s t) : t.pwr.toStandby = s.pwr.toStandby ∧ t.pwr.leaving = s.pwr.leaving :=
  ⟨congrArg (·.2.2.1.1) h.eq, congrArg (·.2.2.1.2) h.eq⟩

end RiseKept

theorem riseKept_sec (s : State) (x : Sec) : RiseKept s { s with sec := x } := ⟨rfl⟩

theorem riseKept_usedFree (s : State) : RiseKept s (usedFree s) := ⟨rfl⟩

theorem riseKept_reloadKeys (s : State) : RiseKept s (reloadKeys s) := by
  unfold reloadKeys
  refine .ite (.refl s) (.foldl _ _ (fun u k => ?_) s)
  have hread := RiseKept.of_store (storeOnly_readTriple u (keyCopies k) 0 64 fun _ => none)
  generalize readTriple u (keyCopies k) 0 64 (fun _ => none) = r at hread ⊢
  obtain ⟨row | row, v⟩ := r
  · exact hread
  · dsimp only at hread ⊢
    split
    · exact .ite (hread.trans (riseKept_sec v _)) hread
    · exact hread

theorem riseKept_moveTxCtr (s : State) (k v : Nat) : RiseKept s (moveTxCtr s k v) := by
  have hset : RiseKept s (setTxCtr s k v) := .ite (riseKept_sec s _) (riseKept_sec s _)
  have hwarn : ∀ u, SideKept u (raise u F.SEC_EVT_CTR_WARN) := fun u => SideKept.raise u _ (by decide)
  exact .ite hset (hset.trans (RiseKept.of_side ((hwarn _).trans (SideKept.of_host (hostOnly_eventNow _ _ _ _ _)))))

theorem riseKept_loadBcast (s : State) : RiseKept s (loadBcast s) := by
  have hread := RiseKept.of_store (storeOnly_readTriple s (hwmCopies 0) (hwmOff 0) 4 resolveHwm)
  have hset : ∀ u, RiseKept u (setTxCtr u 0 0) := fun u => .ite (riseKept_sec u _) (riseKept_sec u _)
  exact hread.trans ((hset _).trans (riseKept_moveTxCtr _ 0 _))

theorem riseKept_restoreBsrc (s : State) (n : Nat) : RiseKept s (restoreBsrc s n) :=
  have hread := RiseKept.of_store (storeOnly_readTriple s (sysCopies 3) (2 * n) 2 fun l => some (toLE 2 (maxField l 0 2)))
  hread.trans (riseKept_sec _ _)

theorem riseKept_securityUp (s : State) : RiseKept s (securityUp s) := by
  have hdrawn : RiseKept s (usedFree { s with sec := { s.sec with storeOk := true, storeKey := freeNat s 256 } }) :=
    (riseKept_sec s _).trans (riseKept_usedFree _)
  have hfold : ∀ (l : List Nat) (u : State), RiseKept u (l.foldl restoreBsrc u) := fun l u => .foldl l _ riseKept_restoreBsrc u
  exact (hdrawn.trans (riseKept_reloadKeys _)).trans ((hfold (List.range 16) _).trans (riseKept_loadBcast _))

theorem riseKept_driverUp (s : State) (p : Nat) : RiseKept s (driverUp s p) := by
  have hset : RiseKept s (setTx s p { txPh s p with z := [], zMin := none }) := RiseKept.of_side (sideKept_setTx s p _)
  have hresume : ∀ u, RiseKept u (resumeAt u p .slot) := fun _ => ⟨rfl⟩
  unfold driverUp
  extract_lets _ u
  refine .ite (hset.trans ?_) hset
  exact .trans (RiseKept.of_side ((sideKept_changeTxf u p _).trans (sideKept_startPhaseAtt _ p 0))) (hresume _)

end Sys2Proof.Machine

namespace Sys2Proof.Machine

/-! #### Power good -/

/-- The domain is on, no longer requested, and counted (R58). -/
def powerGood (s : State) (d : Nat) : State := bumpF (setF (setPg s d true) (F.PWR_DOM_REQ d) 0) (F.PWR_DOM_ON_CNT d)

theorem regsOnly_powerGood (s : State) (d : Nat) : RegsOnly s (powerGood s d) := ((regsOnly_setPg s d true).setF _ _).bumpF _ _

theorem domainOn_powerGood (s : State) {d : Nat} (hd : d < 32) (e : Nat) : domainOn (powerGood s d) e = if e = d then true else domainOn s e := by
  rw [powerGood, bumpF, domainOn_congr ((rd_setF_ne _ _ _ (pwrDom_ne (by decide) d)).trans (rd_setF_ne _ _ _ (pwrDom_ne (by decide) d))),
    domainOn_setPg s hd]

/-- A field of another register than PWR_PG, CLK_STATUS and the domain's own is as before. -/
theorem getF_powerGood_other (s : State) (d : Nat) {f : Fld} (hpg : f.off ≠ R.PWR_PG) (hclk : f.off ≠ R.CLK_STATUS) (hdom : f.off ≠ R.PWR_DOM d) :
    getF (powerGood s d) f = getF s f := by
  rw [powerGood, getF_bumpF_other _ _ _ _ (Nat.zero_le 15) (by decide : 15 < 32) (.inl hdom),
    getF_setF_other _ _ _ _ (le_refl 30) (by decide : 30 < 32) (.inl hdom), getF_setPg s d true hpg hclk (.inl hdom)]

theorem isSet_powerGood_other (s : State) (d : Nat) {f : Fld} (hpg : f.off ≠ R.PWR_PG) (hclk : f.off ≠ R.CLK_STATUS)
    (hdom : f.off ≠ R.PWR_DOM d) : isSet (powerGood s d) f = isSet s f := by
  simp only [isSet, getF_powerGood_other s d hpg hclk hdom]

theorem isSet_req_powerGood (s : State) (d : Nat) : isSet (powerGood s d) (F.PWR_DOM_REQ d) = false := by
  rw [powerGood, bumpF, isSet_setF_other _ _ _ _ (Nat.zero_le 15) (by decide : 15 < 32) (.inr (.inl (by decide : 15 < 30))),
    isSet_clear _ _ rfl (by decide : 30 < 32)]

/-- A domain's register is none of PWR_PG and CLK_STATUS. -/
theorem pwrDom_off {d : Nat} (hd : d ≤ 20) : R.PWR_DOM d ≠ R.PWR_PG ∧ R.PWR_DOM d ≠ R.CLK_STATUS ∧ R.PWR_DOM d < 0x1000 := by
  unfold R.PWR_DOM R.PWR_PG R.CLK_STATUS
  omega

theorem onCnt_powerGood (s : State) {d : Nat} (hd : d ≤ 20) :
    getF (powerGood s d) (F.PWR_DOM_ON_CNT d) = satN 0xFFFF (getF s (F.PWR_DOM_ON_CNT d) + 1) := by
  obtain ⟨hpg, hclk, -⟩ := pwrDom_off hd
  have hcount : getF (setF (setPg s d true) (F.PWR_DOM_REQ d) 0) (F.PWR_DOM_ON_CNT d) = getF s (F.PWR_DOM_ON_CNT d) := by
    rw [getF_setF_other _ _ _ _ (le_refl 30) (by decide : 30 < 32) (.inr (.inr (by decide : 15 < 30))),
      getF_setPg s d true hpg hclk (.inr (by decide : 15 < 31))]
  have hsat : ∀ n, satN 0xFFFF n < 2 ^ 16 := fun n => by unfold satN; split <;> omega
  rw [powerGood, bumpF, getF_setF_same _ _ _ (Nat.zero_le 15) (by decide : 15 < 32), hcount]
  exact Nat.mod_eq_of_lt (hsat _)

/-- What a risen domain leaves: clocks, fuses, the change in progress, and the registers of the power side as power good left them. -/
structure Rises (s t : State) : Prop where
  mains : t.mains = s.mains
  fuses : t.boot.fuses = s.boot.fuses
  toStandby : t.pwr.toStandby = s.pwr.toStandby
  leaving : t.pwr.leaving = s.pwr.leaving
  rd : ∀ o < 0x1000, Machine.rd t o = Machine.rd s o

theorem RiseKept.rises {s t : State} (h : RiseKept s t) : Rises s t :=
  ⟨RiseKept.mains h, by rw [RiseKept.boot h], (RiseKept.change h).1, (RiseKept.change h).2, fun _ ho => RiseKept.rd h ho⟩

theorem Rises.trans {s t u : State} (h : Rises s t) (k : Rises t u) : Rises s u :=
  ⟨k.mains.trans h.mains, k.fuses.trans h.fuses, k.toStandby.trans h.toStandby, k.leaving.trans h.leaving,
    fun o ho => (k.rd o ho).trans (h.rd o ho)⟩

/-- With no record held for the domain nothing is written (R438). -/
theorem rises_applyHeld {s : State} {d : Nat} (hheld : ∀ r ∈ s.boot.held, r.domain ≠ d) (hxaton : d = 10 → s.boot.xaton = []) :
    Rises s (applyHeld s d) := by
  have hmine : (if d = 10 then s.boot.xaton.filter fun r => r.domain == 10 else s.boot.held.filter fun r => r.domain == d) = [] := by
    split
    · next h => rw [hxaton h]; rfl
    · exact List.filter_eq_nil_iff.2 fun r hr => by simpa using hheld r hr
  unfold applyHeld
  rw [hmine]
  exact ⟨rfl, rfl, rfl, rfl, fun _ _ => rfl⟩

theorem rises_domainUp {s : State} {d : Nat} (hheld : ∀ r ∈ s.boot.held, r.domain ≠ d) (hxaton : d = 10 → s.boot.xaton = []) :
    Rises (powerGood s d) (domainUp s d) := by
  have hpads : ∀ u : State, RiseKept u (post u (.portPads true)) := fun _ => ⟨rfl⟩
  have hkey : ∀ u : State, RiseKept u (usedFree { u with mesh := { u.mesh with key := Config.freeBits 64 u.freeCtr } }) := fun _ => ⟨rfl⟩
  have hown : ∀ u : State, RiseKept u (raise u F.SPI_F_STATUS_OWN) := fun u => RiseKept.of_side (SideKept.raise u _ (by decide))
  unfold domainUp
  extract_lets good u v
  have hu : RiseKept (powerGood s d) u := .ite (riseKept_securityUp good) (.refl good)
  have hw : RiseKept (powerGood s d) (if d = 16 then post u (.portPads true) else u) := .ite (hu.trans (hpads u)) hu
  have hboot : (if d = 16 then post u (.portPads true) else u).boot = s.boot := (RiseKept.boot hw).trans (regsOnly_powerGood s d).boot
  have hv : Rises (powerGood s d) v := (RiseKept.rises hw).trans (rises_applyHeld (hboot ▸ hheld) (hboot ▸ hxaton))
  clear_value v
  refine hv.trans (RiseKept.rises (.ite (hkey v) (.ite (hown v) (.ite (riseKept_driverUp v _) (.refl v)))))

/-- A domain that has risen (R58). -/
structure Risen (s : State) (d : Nat) (t : State) : Prop where
  on : domainOn t d = true
  served : isSet t (F.PWR_DOM_REQ d) = false
  counted : getF t (F.PWR_DOM_ON_CNT d) = satN 0xFFFF (getF s (F.PWR_DOM_ON_CNT d) + 1)
  above : ∀ q ∈ parents d, domainOn t q = true
  mains : t.mains = s.mains
  fuses : t.boot.fuses = s.boot.fuses

theorem Risen.of_rd {s t u : State} {d : Nat} (h : Risen s d t) (hpg : rd u R.PWR_PG = rd t R.PWR_PG) (hdom : rd u (R.PWR_DOM d) = rd t (R.PWR_DOM d))
    (hmains : u.mains = t.mains) (hfuses : u.boot.fuses = t.boot.fuses) : Risen s d u where
  on := (domainOn_congr hpg d).trans h.on
  served := (RdKept.isSet ⟨hdom⟩).trans h.served
  counted := (RdKept.getF ⟨hdom⟩).trans h.counted
  above q hq := (domainOn_congr hpg q).trans (h.above q hq)
  mains := hmains.trans h.mains
  fuses := hfuses.trans h.fuses

theorem risen_domainUp {s : State} {d : Nat} (h20 : d ≤ 20) (hrise : mayRise s d = true) (h : Rises (powerGood s d) (domainUp s d)) :
    Risen s d (domainUp s d) := by
  have hparents : ∀ q ∈ parents d, domainOn s q = true := by
    simp only [mayRise, Bool.and_eq_true, List.all_eq_true] at hrise
    exact hrise.1.2
  have hgood : Risen s d (powerGood s d) :=
    { on := by rw [domainOn_powerGood s (by omega), if_pos rfl]
      served := isSet_req_powerGood s d
      counted := onCnt_powerGood s h20
      above := fun q hq => by rw [domainOn_powerGood s (by omega)]; split <;> simp [hparents q hq]
      mains := (regsOnly_powerGood s d).mains
      fuses := by rw [(regsOnly_powerGood s d).boot] }
  exact hgood.of_rd (h.rd _ (by decide)) (h.rd _ (pwrDom_off h20).2.2) h.mains h.fuses

end Sys2Proof.Machine

namespace Sys2Proof.Machine

/-! #### The change that waited for the domain (R62, R63, R65) -/

theorem rising_eq_true {s : State} {e : Nat} (h1 : 1 ≤ e) (h20 : e ≤ 20) (hreq : isSet s (F.PWR_DOM_REQ e) = true) (hoff : domainOn s e = false) :
    rising s = true := by
  rw [rising, List.any_eq_true]
  exact ⟨e, List.mem_range'_1.2 (by omega), by simp [hreq, hoff]⟩

theorem rising_eq_false {s : State} (h : ∀ e, 1 ≤ e → e ≤ 20 → isSet s (F.PWR_DOM_REQ e) = true → domainOn s e = true) : rising s = false := by
  rw [rising, List.any_eq_false]
  intro e he
  rw [List.mem_range'_1] at he
  have hon := h e he.1 (by omega)
  cases hreq : isSet s (F.PWR_DOM_REQ e)
  · simp
  · simp [hon hreq]

/-- Nothing goes on where nothing changes or another domain is waited for. -/
theorem settlePower_waits {s : State} (h : isSet s F.PWR_STATUS_BUSY = false ∨ pwrState s = 0 ∨ rising s = true) : settlePower s = s := by
  unfold settlePower
  rcases h with h | h | h <;> simp [h]

/-- A power state takes effect: it shows in PWR_STATUS, and its change in PWR_EVT (R61). -/
theorem setPower_status (s : State) {n : Nat} (hn : n < 8) : getF (setPower s n) F.PWR_STATUS_STATE = n ∧
    isSet (setPower s n) F.PWR_STATUS_BUSY = false ∧ isSet (setPower s n) F.PWR_EVT_STATE_CHG = true := by
  refine ⟨pwrState_setPower s hn, ?_, isSet_raise _ _ rfl (by decide)⟩
  rw [setPower, isSet_raise_other _ _ _ (by decide) (by decide) (by decide), isSet_clear _ _ rfl (by decide)]

theorem regsOnly_setPower (s : State) (n : Nat) : RegsOnly s (setPower s n) := (((RegsOnly.refl s).setF _ _).setF _ _).raise _

theorem rdKept_setPower (s : State) (n : Nat) {o : Nat} (hstatus : o ≠ R.PWR_STATUS) (hevt : o ≠ R.PWR_EVT) : RdKept o s (setPower s n) :=
  ((RdKept.setF s F.PWR_STATUS_STATE n hstatus).trans (RdKept.setF _ F.PWR_STATUS_BUSY 0 hstatus)).trans (RdKept.raise _ F.PWR_EVT_STATE_CHG hevt)

/-- PM's bins open anew. -/
theorem pmStart_keeps (s : State) : (pmStart s).regs = s.regs ∧ (pmStart s).mains = s.mains ∧ (pmStart s).boot = s.boot ∧
    (pmStart s).pwr = s.pwr := ⟨rfl, rfl, rfl, rfl⟩

/-- Listen takes effect, and the target asks for no more (R62, R65). -/
theorem settlePower_listen {s : State} (hbusy : isSet s F.PWR_STATUS_BUSY = true) (hall : rising s = false) (hstandby : s.pwr.toStandby = false)
    (hleave : s.pwr.leaving = false) (hstate : pwrState s = 2) (htarget : getF s F.PWR_CTRL_TARGET = 3) :
    settlePower s = pmStart (setPower s 3) := by
  have htarget' : getF (pmStart (setPower s 3)) F.PWR_CTRL_TARGET = 3 := by
    rw [getF_congr (pmStart_keeps _).1, RdKept.getF (rdKept_setPower s 3 (by decide) (by decide)), htarget]
  simp [settlePower, hbusy, hall, hstandby, hleave, hstate, riseDone, pursueListen, htarget']

/-- Active waits for the slot boundary where there is one (R63, R105). -/
theorem settlePower_arms {s : State} (hbusy : isSet s F.PWR_STATUS_BUSY = true) (hall : rising s = false) (hstandby : s.pwr.toStandby = false)
    (hleave : s.pwr.leaving = false) (hstate : pwrState s = 3) (hcidx : cidxOk s = true) :
    settlePower s = { s with pwr := { s.pwr with armed := true } } := by
  simp [settlePower, hbusy, hall, hstandby, hleave, hstate, armActive, hcidx]

theorem exec_domainPowerGood {s : State} {d : Nat} (hreset : s.pins.inReset = false) (h1 : 1 ≤ d) (h20 : d ≤ 20) (h17 : d ≠ 17)
    (hrise : mayRise s d = true) : exec (.domainPowerGood d) s = done (settlePower (domainUp s d)) := by
  show execDomainPowerGood d s = _
  have hlow : ¬ d < 1 := by omega
  have hhigh : ¬ 20 < d := by omega
  simp [execDomainPowerGood, hreset, hlow, hhigh, h17, hrise]

theorem exec_domainPgTimeout {s : State} {d : Nat} (hreset : s.pins.inReset = false) (h1 : 1 ≤ d) (h20 : d ≤ 20) (h17 : d ≠ 17)
    (hrise : mayRise s d = true) : exec (.domainPgTimeout d) s = done (failDomain s d 0x20) := by
  show execDomainPgTimeout d s = _
  have hlow : ¬ d < 1 := by omega
  have hhigh : ¬ 20 < d := by omega
  simp [execDomainPgTimeout, hreset, hlow, hhigh, h17, hrise]

/-- A domain that may not rise neither reports nor fails. -/
theorem exec_domain_idle {s : State} {d : Nat} (hrise : mayRise s d = false) :
    exec (.domainPowerGood d) s = done s ∧ exec (.domainPgTimeout d) s = done s := by
  constructor
  · show execDomainPowerGood d s = _
    simp [execDomainPowerGood, hrise]
  · show execDomainPgTimeout d s = _
    simp [execDomainPgTimeout, hrise]

/-- A failure with no change in progress and the boot over changes no power state. -/
theorem failDomain_after_boot {s : State} {d : Nat} (code : Nat) (h20 : d ≤ 20) (hboot : booting s = false)
    (hbusy : isSet s F.PWR_STATUS_BUSY = false) : failDomain s d code = failureRaised s d := by
  have hkept : ∀ f : Fld, f.off < R.PWR_DOM 0 → f.off ≠ R.PWR_PG → f.off ≠ R.PWR_EVT → getF (failureRaised s d) f = getF s f := fun f hf hpg hevt =>
    getF_failureRaised s d (hf.trans (by decide)) hpg (fun h => absurd (h ▸ hf) (by decide)) hevt (fun e _ => .inl (pwrDom_ne hf e)) h20
  have hphase := hkept F.GLB_STATUS_BOOT_PHASE (by decide) (by decide) (by decide)
  have hbooting : booting (failureRaised s d) = false := by
    simp only [booting, hphase] at hboot ⊢
    exact hboot
  have hbusy' : isSet (failureRaised s d) F.PWR_STATUS_BUSY = false := by
    rw [isSet, hkept F.PWR_STATUS_BUSY (by decide) (by decide) (by decide)]
    exact hbusy
  rw [failDomain_eq, hbooting, settlePower_waits (.inl hbusy')]
  rfl

/-- A driver that fails raises TXF with cause PG on its phase (R215). -/
theorem pg_failureRaised (s : State) {d : Nat} (h18 : 18 ≤ d) : (txPh (failureRaised s d) (d - 18)).pg = true := by
  have hcauses := causes_changeTxf (domainFailed s d) (d - 18) (fun t => { t with pg := true }) (d - 18)
  rw [if_pos rfl] at hcauses
  rw [failureRaised, driversLost, if_pos h18]
  exact congrArg (·.2.2.2) hcauses

theorem settle_pg (s : State) (p : Nat) : (txPh (settle s) p).pg = (txPh s p).pg := by
  rw [settle_txPh]
  split
  · exact (stopped_causes _ _).2.2.2
  · rfl

/-- A domain that failed, and one under it, are not requested again (R509). -/
theorem reqDomains_failed {s : State} {d e : Nat} (h1 : 1 ≤ d) (h20 : d ≤ 20) (he : e ∈ withChildren d)
    (hfail : isSet s (F.PWR_DOM_PG_FAIL d) = true) : reqDomains s [e] = s := by
  have hhangs : hangs s e = true := by
    rw [hangs, List.any_eq_true]
    exact ⟨d, List.mem_range'_1.2 (by omega), by simp [hfail, he]⟩
  rw [reqDomains_eq, List.foldl_cons, List.foldl_nil, reqDomain, hhangs, Bool.or_true, if_pos rfl]

end Sys2Proof.Machine

namespace Sys2Proof.Machine

/-! #### The statement -/

/-- What rising leaves of the registers of the power side. -/
structure RoseAlone (s : State) (d : Nat) (u : State) : Prop where
  toStandby : u.pwr.toStandby = s.pwr.toStandby
  leaving : u.pwr.leaving = s.pwr.leaving
  isSet : ∀ f : Fld, f.off < 0x1000 → f.off ≠ R.PWR_PG → f.off ≠ R.CLK_STATUS → f.off ≠ R.PWR_DOM d → Machine.isSet u f = Machine.isSet s f
  getF : ∀ f : Fld, f.off < 0x1000 → f.off ≠ R.PWR_PG → f.off ≠ R.CLK_STATUS → f.off ≠ R.PWR_DOM d → Machine.getF u f = Machine.getF s f
  domainOn : ∀ e, domainOn u e = if e = d then true else Machine.domainOn s e

theorem Rises.alone {s u : State} {d : Nat} (h20 : d ≤ 20) (h : Rises (powerGood s d) u) : RoseAlone s d u where
  toStandby := by rw [h.toStandby, (regsOnly_powerGood s d).pwr]
  leaving := by rw [h.leaving, (regsOnly_powerGood s d).pwr]
  isSet f hf hpg hclk hdom := (RdKept.isSet ⟨h.rd _ hf⟩).trans (isSet_powerGood_other s d hpg hclk hdom)
  getF f hf hpg hclk hdom := (RdKept.getF ⟨h.rd _ hf⟩).trans (getF_powerGood_other s d hpg hclk hdom)
  domainOn e := (domainOn_congr (h.rd _ (by decide)) e).trans (domainOn_powerGood s (by omega) e)

/-- Whether another domain is waited for is what it was before. -/
theorem RoseAlone.rising {s u : State} {d : Nat} (h : RoseAlone s d u) :
    Machine.rising u = false ↔ ∀ e, 1 ≤ e → e ≤ 20 → e ≠ d → Machine.isSet s (F.PWR_DOM_REQ e) = true → Machine.domainOn s e = true := by
  have hreq : ∀ e, e ≤ 20 → e ≠ d → Machine.isSet u (F.PWR_DOM_REQ e) = Machine.isSet s (F.PWR_DOM_REQ e) := fun e he hne =>
    h.isSet _ (pwrDom_off he).2.2 (pwrDom_off he).1 (pwrDom_off he).2.1 (pwrDom_inj hne)
  have hon : ∀ e, e ≠ d → Machine.domainOn u e = Machine.domainOn s e := fun e hne => (h.domainOn e).trans (if_neg hne)
  constructor
  · intro hfalse e h1 h20 hne hset
    by_contra hoff
    rw [Bool.not_eq_true] at hoff
    have htrue := rising_eq_true (s := u) h1 h20 ((hreq e h20 hne).trans hset) ((hon e hne).trans hoff)
    exact absurd (hfalse.symm.trans htrue) (by decide)
  · refine fun hothers => rising_eq_false fun e h1 h20 hset => ?_
    rcases eq_or_ne e d with rfl | hne
    · rw [h.domainOn, if_pos rfl]
    · rw [hon e hne]
      exact hothers e h1 h20 hne ((hreq e h20 hne).symm.trans hset)

theorem Risen.settle {s t : State} {d : Nat} (h : Risen s d t) (h20 : d ≤ 20) : Risen s d (Machine.settle t) :=
  h.of_rd (settle_rd t (by decide)) (settle_rd t ((pwrDom_off h20).2.2.trans (by decide))) (settle_mains t) (by rw [settle_boot])

/-- Listen takes effect on a domain that rose. -/
theorem Risen.listens {s t : State} {d : Nat} (h : Risen s d t) : Risen s d (pmStart (setPower t 3)) := by
  obtain ⟨hregs, hmains, hboot, -⟩ := pmStart_keeps (setPower t 3)
  have hset := regsOnly_setPower t 3
  exact h.of_rd ((rd_congr hregs _).trans (rdKept_setPower t 3 (by decide) (by decide)).eq)
    ((rd_congr hregs _).trans (rdKept_setPower t 3 (pwrDom_ne (by decide) d).symm (pwrDom_ne (by decide) d).symm).eq)
    (hmains.trans hset.mains) (by rw [hboot, hset.boot])

theorem RoseAlone.status {s u : State} {d : Nat} (h : RoseAlone s d u) (h20 : d ≤ 20) : pwrState u = pwrState s ∧
    Machine.isSet u F.PWR_STATUS_BUSY = Machine.isSet s F.PWR_STATUS_BUSY ∧ Machine.getF u F.PWR_CTRL_TARGET = Machine.getF s F.PWR_CTRL_TARGET ∧
    cidxOk u = cidxOk s :=
  ⟨h.getF F.PWR_STATUS_STATE (by decide) (by decide) (by decide) (pwrDom_ne (by decide) d),
    h.isSet F.PWR_STATUS_BUSY (by decide) (by decide) (by decide) (pwrDom_ne (by decide) d),
    h.getF F.PWR_CTRL_TARGET (by decide) (by decide) (by decide) (pwrDom_ne (by decide) d),
    h.isSet F.MSY_STATUS_CIDX_VALID (by decide) (by decide) (by decide)
      (ne_of_gt (lt_of_le_of_lt (Nat.add_le_add_left (Nat.mul_le_mul_left 4 h20) _) (by decide)))⟩

/-- A domain's children are domains. -/
theorem child_bounds {d e : Nat} (h2 : 2 ≤ d) (h : d ∈ parents e) : 1 ≤ e ∧ e ≤ 20 := by
  unfold parents at h
  split at h <;> simp at h <;> omega

/-- Settles O13: power good writes the domain's own fields (`Rises`), and the change in progress goes on where no other domain is waited for
(`RoseAlone.rising`); a failure takes the domain off with those under it (`FailedDomain`), and no switch-on of them is requested while its flag
stands (`reqDomains_failed`). -/
theorem domainsRiseAfterTheirParentsOrFail : Obligations.DomainsRiseAfterTheirParentsOrFail := by
  unfold Obligations.DomainsRiseAfterTheirParentsOrFail
  intro s d hreset h2 h20 h17 others risen failed
  have hgood : mayRise s d = true → exec (.domainPowerGood d) s = done (settlePower (domainUp s d)) := exec_domainPowerGood hreset (by omega) h20 h17
  have hbad : mayRise s d = true → exec (.domainPgTimeout d) s = done (failDomain s d 0x20) := exec_domainPgTimeout hreset (by omega) h20 h17
  have hfailed : ∀ t, FailedDomain d t → failed (settle t) := fun t h => by
    obtain ⟨hoff, hflag, hevent, hunder⟩ := h.settle h20
    exact ⟨hoff, hflag, hevent, hunder⟩
  have hfirst := failedDomain_failureRaised s (d := d) (by omega) h20
  refine ⟨fun hrise => ⟨completes_done (hgood hrise) rfl, completes_done (hbad hrise) rfl⟩, fun hrise hs => ?_, fun hrise hheld hxaton => ?_,
    fun hrise hboot h18 => ?_, fun hrise hboot hbusy => ?_, fun e he hfail _ => ?_⟩
  · obtain ⟨hgood, hbad⟩ := exec_domain_idle hrise
    exact ⟨completes_settled hgood hs rfl, completes_settled hbad hs rfl⟩
  · have hrises := rises_domainUp hheld hxaton
    have hup := risen_domainUp h20 hrise hrises
    have hexec := hgood hrise
    have halone := hrises.alone h20
    obtain ⟨hstate, hbusy, htarget, hcidx⟩ := halone.status h20
    have hrisen : ∀ t, Risen s d t → risen (settle t) := fun t h => by
      obtain ⟨hon, hserved, hcounted, habove, hmains, hfuses⟩ := h.settle h20
      exact ⟨hon, hserved, hcounted, habove, hmains, hfuses⟩
    generalize domainUp s d = u at *
    have hset : ∀ (t : State) (f : Fld), f.off < 0x8000 → isSet (settle t) f = isSet t f := fun t f hf => settle_isSet t hf
    have hget : ∀ t : State, getF (settle t) F.PWR_STATUS_STATE = pwrState t := fun t => settle_getF t (by decide)
    refine ⟨fun hwait => ?_, fun hbusy' hstandby hleave hothers => ?_⟩
    · have hwaits : isSet u F.PWR_STATUS_BUSY = false ∨ pwrState u = 0 ∨ rising u = true :=
        hwait.imp hbusy.trans (Or.imp hstate.trans fun h => (Bool.not_eq_false _).mp fun hfalse => h (halone.rising.mp hfalse))
      rw [settlePower_waits hwaits] at hexec
      exact completes_done hexec ⟨hrisen _ hup, (hget u).trans hstate, (hset u _ (by decide)).trans hbusy⟩
    · have hall := halone.rising.mpr hothers
      refine ⟨fun h2' h3 => ?_, fun h3 hvalid => ?_⟩
      · rw [settlePower_listen (hbusy.trans hbusy') hall (halone.toStandby.trans hstandby) (halone.leaving.trans hleave) (hstate.trans h2')
          (htarget.trans h3)] at hexec
        obtain ⟨hstate3, hidle, hchg⟩ := setPower_status u (n := 3) (by decide)
        have hregs := (pmStart_keeps (setPower u 3)).1
        exact completes_done hexec ⟨hrisen _ hup.listens, (hget _).trans ((getF_congr hregs _).trans hstate3),
          (hset _ _ (by decide)).trans ((isSet_congr hregs _).trans hidle), (hset _ _ (by decide)).trans ((isSet_congr hregs _).trans hchg)⟩
      · rw [settlePower_arms (hbusy.trans hbusy') hall (halone.toStandby.trans hstandby) (halone.leaving.trans hleave) (hstate.trans h3)
          (hcidx.trans hvalid)] at hexec
        exact completes_done hexec ⟨hrisen _ (hup.of_rd rfl rfl rfl rfl), (hget _).trans (hstate.trans h3),
          (hset _ _ (by decide)).trans (hbusy.trans hbusy'), by rw [settle_pwr]⟩
  · obtain ⟨hphase, herr⟩ := getF_stopBoot_status (failureRaised s d) 0x20
    have hexec := hbad hrise
    rw [failDomain_booting 0x20 hboot h18 h17] at hexec
    exact completes_done hexec ⟨hfailed _ (hfirst.stopBoot h20 0x20), (settle_getF _ (by decide)).trans hphase, (settle_getF _ (by decide)).trans herr,
      (settle_retry _).trans (stopBoot_retry _ _)⟩
  · have hexec := hbad hrise
    rw [failDomain_after_boot 0x20 h20 hboot hbusy] at hexec
    refine completes_done hexec ⟨hfailed _ hfirst, fun h18 => (settle_pg _ _).trans (pg_failureRaised s h18), (settle_getF _ (by decide)).trans ?_⟩
    exact getF_failureRaised s d (by decide) (by decide) (by decide) (by decide) (fun e _ => .inl (pwrDom_ne (by decide) e)) h20
  · have hmem : e ∈ withChildren d := he.elim (fun h => by rw [h]; exact mem_withChildren_self (by omega) h20)
      fun h => mem_withChildren_child (child_bounds h2 h).1 (child_bounds h2 h).2 h
    exact reqDomains_failed (by omega) h20 hmem hfail

end Sys2Proof.Machine

/-! ### Power state requests (R61 to R65) -/

namespace Sys2Proof.Machine

/-! #### The request -/

/-- The target is stored (R62). -/
def asked (s : State) (code : Nat) : State := setF (rewritten s R.PWR_CTRL) F.PWR_CTRL_TARGET code

theorem requestPower_refused {s : State} {fn : Nat} (code : Nat) (hreach : reach s R.PWR_CTRL = true) (h : fn ≠ 0) :
    requestPower s fn code = raise (rewritten s R.PWR_CTRL) F.PWR_STATUS_REQ_ERR := by
  rw [requestPower, access_reach _ hreach (lockedOff_of_setOf_none rfl), if_pos (.inl h)]

theorem requestPower_asked {s : State} {code : Nat} (hreach : reach s R.PWR_CTRL = true) (h : code = 2 ∨ code = 3 ∨ code = 4) :
    requestPower s 0 code = pursue (asked s code) := by
  rw [requestPower, access_reach _ hreach (lockedOff_of_setOf_none rfl), if_neg (by omega), asked]

theorem exec_requests (s : State) (fn : Fin 8) : exec (.standbyRequest fn) s = done (requestPower s fn.val 2) ∧
    exec (.listenRequest fn) s = done (requestPower s fn.val 3) ∧ exec (.activeRequest fn) s = done (requestPower s fn.val 4) :=
  ⟨rfl, rfl, rfl⟩

/-- What storing the target changes. -/
structure Asked (s : State) (code : Nat) (u : State) : Prop where
  only : OnlyRegs (Machine.rewritten s R.PWR_CTRL) u [R.PWR_CTRL]
  target : Machine.getF u F.PWR_CTRL_TARGET = code
  rd : ∀ o, o ≠ R.PWR_CTRL → Machine.rd u o = Machine.rd s o

theorem asked_spec (s : State) {code : Nat} (h : code = 2 ∨ code = 3 ∨ code = 4) : Asked s code (asked s code) where
  only := (OnlyRegs.refl _ _).setF F.PWR_CTRL_TARGET code (by decide)
  target := by
    rw [asked, getF_setF_same _ _ _ (by decide) (by decide), Nat.mod_eq_of_lt]
    rcases h with rfl | rfl | rfl <;> decide
  rd o ho := (rd_setF_ne _ F.PWR_CTRL_TARGET code ho).trans (rd_rewritten s R.PWR_CTRL o)

namespace Asked

variable {s u : State} {code : Nat}

theorem getF (h : Asked s code u) {f : Fld} (hf : f.off ≠ R.PWR_CTRL) : Machine.getF u f = Machine.getF s f := RdKept.getF ⟨h.rd f.off hf⟩

theorem isSet (h : Asked s code u) {f : Fld} (hf : f.off ≠ R.PWR_CTRL) : Machine.isSet u f = Machine.isSet s f := RdKept.isSet ⟨h.rd f.off hf⟩

theorem domainOn (h : Asked s code u) (d : Nat) : Machine.domainOn u d = Machine.domainOn s d := domainOn_congr (h.rd _ (by decide)) d

theorem settled (h : Asked s code u) (hs : Settled s) : Settled u := h.only.1.settled (hs.rewritten _)

end Asked

/-- No more happens while a change is in progress, or where the target is in force (R62). -/
theorem pursue_stays {s : State} (h : isSet s F.PWR_STATUS_BUSY = true ∨ getF s F.PWR_CTRL_TARGET = pwrState s) : pursue s = s := by
  unfold pursue
  rcases h with h | h
  · simp [h]
  · dsimp only
    split
    · rfl
    · split
      · next h4 => rw [if_pos (h.trans h4)]
      · next h3 => simp [pursueListen, h, h3]
      · next h2 => rw [if_pos (h.trans h2)]
      · rfl

/-! #### Active, requested in Listen (R63) -/

theorem rdKept_noteUv (s : State) {o : Nat} (h : o < 0x1000) : RdKept o s (noteUv s) := ⟨SideKept.rd (sideKept_noteUv s) h⟩

theorem coupled_congr {s t : State} (h : t.pins = s.pins) (p : Nat) : coupled t p = coupled s p := by rw [coupled, h, coupled]

/-- Without VDRV every coupled phase has the cause UV (R63, R215). -/
theorem uv_noteUv {s : State} (hvdrv : s.pins.vdrv = false) {p : Nat} (hp : p < 3) (hcoupled : coupled s p = true) :
    (txPh (noteUv s) p).uv = true := by
  have hall : ∀ (l : List Nat) (u : State), (p ∈ l ∨ (txPh u p).uv = true) →
      (txPh (l.foldl (fun s q => changeTxf s q fun t => { t with uv := true }) u) p).uv = true := by
    intro l
    induction l with
    | nil => exact fun u h => h.resolve_left (by simp)
    | cons q l ih =>
      intro u h
      refine ih _ ?_
      have hcauses := causes_changeTxf u q (fun t => { t with uv := true }) p
      split at hcauses
      · exact .inr (congrArg (·.2.2.1) hcauses)
      · next hne => exact h.imp (fun hm => (List.mem_cons.1 hm).resolve_left hne) fun hu => (congrArg (·.2.2.1) hcauses).trans hu
  rw [noteUv, hvdrv, if_neg Bool.false_ne_true]
  exact hall _ s (.inl (by simp [hp, hcoupled]))

theorem pwr_noteUv (s : State) : (noteUv s).pwr = s.pwr := CoreKept.pwr (SideKept.core (sideKept_noteUv s))

theorem causesKept_countTo (s : State) (p n : Nat) : CausesKept s (countTo s p n) := by
  have hmax : CausesKept s (setTx s p { txPh s p with limNext := max (txPh s p).limNext n }) := causesKept_setTx rfl
  have hlast : ∀ (u : State) (c : Nat), CausesKept u (setTx u p { txPh u p with clipEp := (txPh u p).clipEp + c }) := fun _ _ => causesKept_setTx rfl
  have hgaps : ∀ (u : State) (g : Nat), CausesKept u (if g = 0 then u else raise (bump u R.YAR_PGAP_CNT g) F.YAR_EVT_PGAP) := fun u g =>
    .ite (.refl u) (causesKept_of_tx rfl)
  have hcounts : ∀ (u : State) (l c : Nat), CausesKept u (bump (bump u (R.TXS_LIM_CNT p) l) (R.TXS_CLIP_CNT p) c) := fun _ _ _ => causesKept_of_tx rfl
  unfold countTo
  dsimp only
  split
  · exact hmax
  · exact hmax.trans ((hcounts _ _ _).trans ((hgaps _ _).trans (hlast _ _)))

theorem causesKept_moveAmp (s : State) (p : Nat) : CausesKept s (moveAmp s p) := by
  have hcount := causesKept_countTo s p (dacNow s)
  unfold moveAmp
  dsimp only
  generalize countTo s p (dacNow s) = u at hcount ⊢
  have hpost : ∀ (v : State) (o : Output), CausesKept v (post v o) := fun _ _ => causesKept_of_tx rfl
  have hnow : ∀ a : Nat, CausesKept u (setTx u p { txPh u p with amp := a, ampPrev := a }) := fun _ => causesKept_setTx rfl
  have hramp : ∀ a b n : Nat, CausesKept u (setTx u p { txPh u p with amp := a, ampPrev := b, ampFrom := n }) := fun _ _ _ => causesKept_setTx rfl
  exact hcount.trans (.ite (.refl u) (.ite (hnow _) ((hramp _ _ _).trans (hpost _ _))))

theorem causesKept_startPhaseAtt (s : State) (p extra : Nat) : CausesKept s (startPhaseAtt s p extra) := by
  have hdrop : CausesKept s (dropLevel s p) := by
    unfold dropLevel
    split
    · exact causesKept_of_tx (hostOnly_decision _ _ _ _ _ _ _ _).tx
    · exact .refl s
  have hatt : ∀ (u v : State) (x : TxPh), v.tx = u.tx → causes x = causes (txPh u p) → CausesKept u (setTx v p x) := fun u v x hv hx =>
    (causesKept_of_tx hv).trans (causesKept_setTx (hx.trans (by rw [txPh, txPh, hv])))
  have halc : ∀ (u : State) (a : Nat), CausesKept u
      (setTx (setF u (F.TXS_LVL_ATT p) a) p { txPh u p with att := a, attPend := none, extra := 0 }) := fun u a => hatt u _ _ (setF_tx _ _ _) rfl
  have hhost : ∀ (u : State) (a x : Nat), CausesKept u (setTx u p { txPh u p with att := a, attPend := none, extra := x }) := fun u a x =>
    hatt u u _ rfl rfl
  unfold startPhaseAtt
  dsimp only
  generalize dropLevel s p = u at hdrop ⊢
  exact hdrop.trans (.trans (.ite (halc u _) (hhost u _ _)) (causesKept_moveAmp _ p))

/-- Active takes effect. -/
theorem activeNow_keeps (s : State) : (∀ o, o < 0x1000 → o ≠ R.PWR_STATUS → o ≠ R.PWR_EVT → rd (activeNow s) o = rd s o) ∧
    isSet (activeNow s) F.PWR_STATUS_BUSY = false ∧ getF (activeNow s) F.PWR_STATUS_STATE = 4 := by
  have hside : SideKept (setPower { s with pwr := { s.pwr with armed := false } } 4) (activeNow s) :=
    (sideKept_noteUv _).trans (.foldl _ _ (fun u p => sideKept_startPhaseAtt u p 0) _)
  obtain ⟨hstate, hbusy, -⟩ := setPower_status { s with pwr := { s.pwr with armed := false } } (n := 4) (by decide)
  exact ⟨fun o ho hstatus hevt => (SideKept.rd hside ho).trans (rdKept_setPower { s with pwr := { s.pwr with armed := false } } 4 hstatus hevt).eq,
    (SideKept.isSet hside (by decide)).trans hbusy, (SideKept.getF hside (by decide)).trans hstate⟩

end Sys2Proof.Machine

namespace Sys2Proof.Machine

/-- The domains of Active are asked for, or the phases without VDRV marked (R63). -/
def activeAsked (s : State) : State :=
  if s.pins.vdrv then reqDomains (reqDomains (raise s F.PWR_STATUS_BUSY) [10]) (((List.range 3).filter (coupled s)).map (· + 18))
  else noteUv (reqDomains (raise s F.PWR_STATUS_BUSY) [10])

theorem pins_reqDomains (s : State) (l : List Nat) : (reqDomains s l).pins = s.pins := (regsOnly_reqDomains s l).pins

theorem pins_listenAsked (s : State) : (reqDomains (raise s F.PWR_STATUS_BUSY) [10]).pins = s.pins :=
  (pins_reqDomains _ _).trans (raise_pins s F.PWR_STATUS_BUSY)

theorem beginActive_eq (s : State) : beginActive s =
    if rising (activeAsked s) then activeAsked s else armActive (activeAsked s) activeNow := by
  have hpins := pins_listenAsked s
  have hcoupled : coupled (reqDomains (raise s F.PWR_STATUS_BUSY) [10]) = coupled s := funext (coupled_congr hpins)
  unfold beginActive activeAsked
  dsimp only
  rw [hpins, hcoupled]

theorem pins_activeAsked (s : State) : (activeAsked s).pins = s.pins := by
  unfold activeAsked
  split
  · exact (pins_reqDomains _ _).trans (pins_listenAsked s)
  · exact (CoreKept.pins (SideKept.core (sideKept_noteUv _))).trans (pins_listenAsked s)

theorem rdKept_activeAsked (s : State) {o : Nat} (hlow : o < 0x1000) (hstatus : o ≠ R.PWR_STATUS) (hdom : ∀ d ≤ 20, o ≠ R.PWR_DOM d) :
    RdKept o s (activeAsked s) := by
  have hten : RdKept o s (reqDomains (raise s F.PWR_STATUS_BUSY) [10]) :=
    (RdKept.raise s F.PWR_STATUS_BUSY hstatus).trans (rdKept_reqDomains _ _ fun d hd => hdom d (by simp_all))
  refine .ite (hten.trans (rdKept_reqDomains _ _ fun d hd => hdom d ?_)) (hten.trans (rdKept_noteUv _ hlow))
  simp at hd
  omega

/-- The change is in progress, and the state in force is Listen still. -/
theorem activeAsked_status (s : State) : isSet (activeAsked s) F.PWR_STATUS_BUSY = true ∧ pwrState (activeAsked s) = pwrState s := by
  have hdom : ∀ d, R.PWR_STATUS ≠ R.PWR_DOM d := pwrDom_ne (by decide)
  have hten : RdKept R.PWR_STATUS (raise s F.PWR_STATUS_BUSY) (reqDomains (raise s F.PWR_STATUS_BUSY) [10]) := rdKept_reqDomains _ _ fun d _ => hdom d
  have hkept : RdKept R.PWR_STATUS (raise s F.PWR_STATUS_BUSY) (activeAsked s) :=
    .ite (hten.trans (rdKept_reqDomains _ _ fun d _ => hdom d)) (hten.trans (rdKept_noteUv _ (by decide)))
  have hstate : getF (activeAsked s) F.PWR_STATUS_STATE = getF (raise s F.PWR_STATUS_BUSY) F.PWR_STATUS_STATE :=
    RdKept.getF (f := F.PWR_STATUS_STATE) hkept
  exact ⟨(RdKept.isSet (f := F.PWR_STATUS_BUSY) hkept).trans (isSet_raise s F.PWR_STATUS_BUSY rfl (by decide)),
    hstate.trans (getF_raise_other s _ _ (by decide) (by decide) (by decide))⟩

theorem domainOn_activeAsked (s : State) (d : Nat) : domainOn (activeAsked s) d = domainOn s d :=
  domainOn_congr (rdKept_activeAsked s (by decide) (by decide) fun e _ => pwrDom_ne (by decide) e).eq d

/-- Raising BUSY leaves every domain's register. -/
theorem isSet_dom_busy (s : State) (f : Fld) {d : Nat} (h : f.off = R.PWR_DOM d) : isSet (raise s F.PWR_STATUS_BUSY) f = isSet s f :=
  isSet_raise_other s _ _ (by decide) (by decide) (.inl (h ▸ (pwrDom_ne (by decide) d).symm))

theorem hangs_busy (s : State) (d : Nat) : hangs (raise s F.PWR_STATUS_BUSY) d = hangs s d := by
  unfold hangs
  congr 1
  funext e
  rw [isSet_dom_busy s (F.PWR_DOM_PG_FAIL e) rfl]

theorem domainOn_busy (s : State) (d : Nat) : domainOn (raise s F.PWR_STATUS_BUSY) d = domainOn s d :=
  domainOn_congr (rd_setF_ne s _ _ (by decide)) d

/-- A request stands where it stood, and where a domain that is off and may be requested is asked for. -/
theorem isSet_req_busy (s : State) (l : List Nat) (e : Nat) : isSet (reqDomains (raise s F.PWR_STATUS_BUSY) l) (F.PWR_DOM_REQ e) =
    (isSet s (F.PWR_DOM_REQ e) || (l.contains e && !(domainOn s e || hangs s e))) := by
  rw [isSet_req_reqDomains, isSet_dom_busy s (F.PWR_DOM_REQ e) rfl, domainOn_busy, hangs_busy]

theorem hangs_reqDomains (s : State) (l : List Nat) (e : Nat) : hangs (reqDomains s l) e = hangs s e :=
  reqDomains_eq s l ▸ (Kept.foldl (reading := fun s => hangs s e) l reqDomain (fun u d => ⟨hangs_reqDomain u d e⟩) s).eq

/-- What BUGLE's request leaves in a domain's register. -/
theorem isSet_req_activeAsked (s : State) (e : Nat) (he : e ≤ 20) : isSet (activeAsked s) (F.PWR_DOM_REQ e) =
    (isSet s (F.PWR_DOM_REQ e) || ([10].contains e && !(domainOn s e || hangs s e)) ||
      (s.pins.vdrv && (((List.range 3).filter (coupled s)).map (· + 18)).contains e && !(domainOn s e || hangs s e))) := by
  have hten := isSet_req_busy s [10] e
  unfold activeAsked
  cases s.pins.vdrv
  · rw [if_neg Bool.false_ne_true, SideKept.isSet (sideKept_noteUv _) (pwrDom_off he).2.2, hten, Bool.false_and, Bool.false_and, Bool.or_false]
  · rw [if_pos rfl, isSet_req_reqDomains, hten, hangs_reqDomains, hangs_busy, domainOn_reqDomains, domainOn_busy, Bool.true_and]

theorem pursue_listen {s : State} (hbusy : isSet s F.PWR_STATUS_BUSY = false) (hstate : pwrState s = 3) : pursue s = pursueListen s := by
  simp [pursue, hbusy, hstate]

/-- The state after a request for Active in Listen. -/
theorem beginActive_rising {s : State} (h : rising (activeAsked s) = true) : beginActive s = activeAsked s := by rw [beginActive_eq, if_pos h]

theorem cidxOk_activeAsked (s : State) : cidxOk (activeAsked s) = cidxOk s :=
  RdKept.isSet (f := F.MSY_STATUS_CIDX_VALID) (rdKept_activeAsked s (by decide) (by decide) fun d hd => by
    unfold R.PWR_DOM F.MSY_STATUS_CIDX_VALID R.MSY_STATUS
    dsimp only
    omega)

theorem beginActive_arms {s : State} (h : rising (activeAsked s) = false) : beginActive s =
    if cidxOk s then { activeAsked s with pwr := { (activeAsked s).pwr with armed := true } } else activeNow (activeAsked s) := by
  rw [beginActive_eq, h, if_neg Bool.false_ne_true, armActive, cidxOk_activeAsked]

/-- The registers of the power side that a request for Active leaves. -/
theorem rd_beginActive (s : State) {o : Nat} (hlow : o < 0x1000) (hstatus : o ≠ R.PWR_STATUS) (hevt : o ≠ R.PWR_EVT)
    (hdom : ∀ d ≤ 20, o ≠ R.PWR_DOM d) : rd (beginActive s) o = rd s o := by
  have hasked := (rdKept_activeAsked s hlow hstatus hdom).eq
  cases h : rising (activeAsked s)
  · rw [beginActive_arms h]
    split
    · exact hasked
    · exact ((activeNow_keeps _).1 o hlow hstatus hevt).trans hasked
  · rw [beginActive_rising h, hasked]

theorem uv_foldl_start (l : List Nat) (s : State) (p : Nat) :
    (txPh (l.foldl (fun s q => startPhaseAtt s q 0) s) p).uv = (txPh s p).uv :=
  congrArg (·.2.2.1) (congrFun (Kept.foldl l (fun s q => startPhaseAtt s q 0) (fun u q => causesKept_startPhaseAtt u q 0) s).eq p)

theorem pins_setPower (s : State) (n : Nat) : (setPower s n).pins = s.pins := (regsOnly_setPower s n).pins

/-- Without VDRV a request for Active marks each coupled phase (R63). -/
theorem uv_beginActive {s : State} (hvdrv : s.pins.vdrv = false) {p : Nat} (hp : p < 3) (hcoupled : coupled s p = true) :
    (txPh (beginActive s) p).uv = true := by
  have hnoted : ∀ u : State, u.pins = s.pins → (txPh (noteUv u) p).uv = true := fun u hu =>
    uv_noteUv (hu ▸ hvdrv) hp ((coupled_congr hu p).trans hcoupled)
  have hasked : (txPh (activeAsked s) p).uv = true := by
    rw [activeAsked, hvdrv, if_neg Bool.false_ne_true]
    exact hnoted _ (pins_listenAsked s)
  cases h : rising (activeAsked s)
  · rw [beginActive_arms h]
    split
    · exact hasked
    · rw [activeNow, uv_foldl_start]
      exact hnoted _ ((pins_setPower _ 4).trans (pins_activeAsked s))
  · rw [beginActive_rising h, hasked]

theorem settle_uv (s : State) (p : Nat) : (txPh (settle s) p).uv = (txPh s p).uv := by
  rw [settle_txPh]
  split
  · exact (stopped_causes _ _).2.2.1
  · rfl

end Sys2Proof.Machine

namespace Sys2Proof.Machine

/-! #### What waits for the line ends (R64, R65) -/

/-- Commands may end, and what is on the air stays there. -/
structure LineEnds (s t : State) : Prop where
  cmds : CmdsEnd s t
  onAir : ∀ p, onAirPhase t p = onAirPhase s p

namespace LineEnds

theorem refl (s : State) : LineEnds s s := ⟨.refl s, fun _ => rfl⟩

theorem trans {s t u : State} (h : LineEnds s t) (k : LineEnds t u) : LineEnds s u := ⟨h.cmds.trans k.cmds, fun p => (k.onAir p).trans (h.onAir p)⟩

theorem ite {s a b : State} {c : Prop} [Decidable c] (ha : LineEnds s a) (hb : LineEnds s b) : LineEnds s (if c then a else b) := by
  split
  · exact ha
  · exact hb

theorem foldl {β : Type} (l : List β) (f : State → β → State) (hf : ∀ u b, LineEnds u (f u b)) (s : State) : LineEnds s (l.foldl f s) := by
  induction l generalizing s with
  | nil => exact refl s
  | cons b l ih => exact (hf s b).trans (ih _)

theorem of_eq {s t : State} (hc : t.cmds = s.cmds) (hj : t.jobs = s.jobs) : LineEnds s t := ⟨.of_eq hc, fun p => by rw [onAirPhase, hj, onAirPhase]⟩

theorem of_capture {s t : State} (h : CaptureOnly s t) : LineEnds s t := ⟨fun c hc => h.2.2.2 c hc, fun p => by rw [onAirPhase, h.jobs, onAirPhase]⟩

end LineEnds

theorem lineEnds_complete (s : State) (c : Cmd) (status detail len : Nat) : LineEnds s (complete s c status detail len) :=
  ⟨cmdsEnd_complete s c status detail len, fun p => by rw [onAirPhase, (hostOnly_complete s c status detail len).jobs, onAirPhase]⟩

/-- Withdrawing a job changes its planned copies alone. -/
theorem onAirPhase_withdrawJob (s : State) (j : Job) (p : Nat) : onAirPhase (withdrawJob s j) p = onAirPhase s p := by
  show List.any (List.map _ s.jobs) (fun k : Job => k.copies.any fun c => c.st == .onAir && c.ch.ph == p) = _
  rw [onAirPhase, List.any_map]
  congr 1
  funext k
  dsimp only [Function.comp]
  split
  · rw [List.any_map]
    congr 1
    funext c
    dsimp only [Function.comp]
    split
    · next h => rw [h]; rfl
    · rfl
  · rfl

theorem lineEnds_withdrawJob (s : State) (j : Job) : LineEnds s (withdrawJob s j) := ⟨.of_eq rfl, onAirPhase_withdrawJob s j⟩

theorem lineEnds_withdrawUnbegun (s : State) (uid : Nat) : LineEnds s (withdrawUnbegun s uid) :=
  .foldl (cmdJobs s uid) _ (fun u j => .ite (.refl u) (lineEnds_withdrawJob u j)) s

theorem updSess_cmds_jobs (s : State) (n : Nat) (f : Session → Session) : (updSess s n f).cmds = s.cmds ∧ (updSess s n f).jobs = s.jobs := by
  unfold updSess
  split
  · exact ⟨rfl, rfl⟩
  · exact ⟨rfl, rfl⟩

theorem lineEnds_updSess (s : State) (n : Nat) (f : Session → Session) : LineEnds s (updSess s n f) :=
  .of_eq (updSess_cmds_jobs s n f).1 (updSess_cmds_jobs s n f).2

theorem lineEnds_markSeen (s : State) (code : Nat) (o : DefObj) : LineEnds s (markSeen s code o) := .ite (.of_eq rfl rfl) (.of_eq rfl rfl)

theorem lineEnds_clearSession (s : State) (code n : Nat) : LineEnds s (clearDefect s code (.session n)) := by
  have hmark : ∀ u, LineEnds u (markDefect u code (.session n) false) := fun u => lineEnds_updSess u n _
  have hcleared : LineEnds s (raise (markDefect (markSeen s code (.session n)) code (.session n) false) F.LFR_EVT_DEF_CHG) :=
    (lineEnds_markSeen s code _).trans ((hmark _).trans (.of_eq (raise_cmds _ _) (raise_jobs _ _)))
  unfold clearDefect clearWith
  dsimp only
  generalize raise (markDefect (markSeen s code (.session n)) code (.session n) false) F.LFR_EVT_DEF_CHG = u at hcleared ⊢
  have htrigger : ∀ p e, LineEnds u (trigger u p e) := fun p e => .of_capture (captureOnly_trigger u p e)
  refine .ite (hmark s) (.ite hcleared (hcleared.trans (.trans ?_ (.of_capture (captureOnly_reportUncovered s _)))))
  exact .ite (htrigger _ _) ((htrigger _ _).trans (.of_capture (captureOnly_defectEvent _ _ _ _ _ _ _)))

theorem lineEnds_freeSession (s : State) (node : Nat) : LineEnds s (freeSession s node) := by
  have hdefects : LineEnds s ([4, 5, 6].foldl (fun s c => clearDefect s c (.session node)) s) :=
    .foldl _ _ (fun u c => lineEnds_clearSession u c node) s
  have hpartial : ∀ u k, LineEnds u (pmPartial u k) := fun u k => by
    unfold pmPartial updPm
    split
    · exact .of_eq rfl rfl
    · exact .refl u
  have hretain : ∀ u, LineEnds u (endRetention u node) := fun u => .of_eq rfl rfl
  have hgone : ∀ u : State, LineEnds u (updMesh { u with sessions := fdel u.sessions node } fun m => { m with dirty := true }) := fun u => .of_eq rfl rfl
  exact hdefects.trans ((hretain _).trans ((hpartial _ (pmNode node)).trans (hgone _)))

theorem lineEnds_raiseRt (s : State) (path : List Nat) : LineEnds s (raiseRt s path) := by
  have hmesh : ∀ (u : State) (f : Mesh → Mesh), LineEnds u (updMesh u f) := fun _ _ => .of_eq rfl rfl
  have hraise : ∀ u : State, LineEnds u (raise (bump u R.VET_REPAIR_CNT 1) F.VET_EVT_REPAIR) := fun u => .of_eq rfl rfl
  have hrepair : ∀ u, LineEnds u (countRepair u) := fun u => (hraise u).trans (hmesh _ _)
  exact (hmesh s _).trans (hrepair _)

theorem lineEnds_endExchange (s : State) (c : Cmd) (status detail len : Nat) :
    LineEnds s (endExchange s c status detail len) ∧ c ∉ (endExchange s c status detail len).cmds := by
  have hnoted : LineEnds s (if isExchange c && c.attempts != 0 then noteExchange s (carrier c) (Nat.blt 1 c.attempts) else s) :=
    .ite (lineEnds_updSess s _ _) (.refl s)
  have hclosed : ∀ u n, LineEnds u (freeClosed u n) := fun u n => .ite (lineEnds_freeSession u n) (.refl u)
  refine ⟨(LineEnds.ite (hnoted.trans (lineEnds_raiseRt _ _)) hnoted).trans ((lineEnds_complete _ c status detail len).trans (hclosed _ _)),
    fun hmem => ?_⟩
  have hleft := (hclosed _ _).cmds hmem
  rw [complete_cmds] at hleft
  simp at hleft

theorem lineEnds_refuseCmd (c : Cmd) (s : State) (status detail : Nat) :
    LineEnds s (refuseCmd c s status detail) ∧ c ∉ (refuseCmd c s status detail).cmds := by
  unfold refuseCmd
  split
  · exact lineEnds_endExchange s c _ _ _
  · exact lineEnds_endExchange s c _ _ _

/-- A fold that ends each command of a list leaves none of them. -/
theorem foldl_ends (f : State → Cmd → State) (hf : ∀ u c, LineEnds u (f u c) ∧ c ∉ (f u c).cmds) (l : List Cmd) (s : State) :
    LineEnds s (l.foldl f s) ∧ ∀ c ∈ l, c ∉ (l.foldl f s).cmds := by
  have hends : ∀ (l : List Cmd) (u : State), LineEnds u (l.foldl f u) := fun l u => .foldl l f (fun v c => (hf v c).1) u
  refine ⟨hends l s, ?_⟩
  induction l generalizing s with
  | nil => simp
  | cons d l ih =>
    intro c hc
    rcases List.mem_cons.1 hc with rfl | hc
    · exact fun hmem => (hf s c).2 ((hends l _).cmds hmem)
    · exact ih _ c hc

theorem endWaiting_ends (s : State) (code : Nat) : LineEnds s (endWaiting s code) ∧
    ∀ c ∈ s.cmds, c.st = .waiting → c.attempts = 0 → c ∉ (endWaiting s code).cmds := by
  have hfree : ∀ (u : State) (uid : Nat), LineEnds u (freePlayer u uid) := fun _ _ => .of_eq rfl rfl
  have hfold := foldl_ends (fun s c => wrongState (freePlayer (withdrawUnbegun s c.uid) c.uid) c code) (fun u c =>
    ⟨(lineEnds_withdrawUnbegun u c.uid).trans ((hfree _ c.uid).trans (lineEnds_complete _ c _ _ _)), by
      rw [wrongState, complete_cmds]
      simp⟩) (s.cmds.filter fun c => unstarted s c && c.attempts == 0) s
  exact ⟨hfold.1, fun c hc hst hatt => hfold.2 c (by simp [hc, unstarted, hst, hatt])⟩

theorem endRepeats_ends (s : State) (code : Nat) : LineEnds s (endRepeats s code) ∧
    ∀ c ∈ s.cmds, c.st = .waiting → c.attempts ≠ 0 → c ∉ (endRepeats s code).cmds := by
  have hfold := foldl_ends (fun s c => refuseCmd c (withdrawUnbegun s c.uid) St.state code) (fun u c =>
    ⟨(lineEnds_withdrawUnbegun u c.uid).trans (lineEnds_refuseCmd c _ _ _).1, (lineEnds_refuseCmd c _ _ _).2⟩)
    (s.cmds.filter fun c => unstarted s c && c.attempts != 0) s
  exact ⟨hfold.1, fun c hc hst hatt => hfold.2 c (by simp [hc, unstarted, hst, hatt])⟩

/-- No command that waits for the line outlives the two. -/
theorem waiting_ended (s : State) (code : Nat) : LineEnds s (endRepeats (endWaiting s code) code) ∧
    ∀ c ∈ s.cmds, c.st = .waiting → c ∉ (endRepeats (endWaiting s code) code).cmds := by
  obtain ⟨hends, hfresh⟩ := endWaiting_ends s code
  obtain ⟨hends', hrepeat⟩ := endRepeats_ends (endWaiting s code) code
  refine ⟨hends.trans hends', fun c hc hst hmem => ?_⟩
  have hmid := hends'.cmds hmem
  by_cases hatt : c.attempts = 0
  · exact hfresh c hc hst hatt hmid
  · exact hrepeat c hmid hst hatt hmem

theorem endWaiting_nil {s : State} (h : s.cmds = []) (code : Nat) : endWaiting s code = s := by rw [endWaiting, h]; rfl

theorem endRepeats_nil {s : State} (h : s.cmds = []) (code : Nat) : endRepeats s code = s := by rw [endRepeats, h]; rfl

end Sys2Proof.Machine

namespace Sys2Proof.Machine

/-! #### Active is left (R64) -/

/-- Active is not left any longer, and no mute waits to end. -/
def leaveOver (s : State) : State := { s with pwr := { s.pwr with leaving := false, resume := [] } }

theorem leaveOver_regs (s : State) : (leaveOver s).regs = s.regs := rfl

theorem leaveOver_leaving (s : State) : (leaveOver s).pwr.leaving = false := rfl

/-- Active has been left. -/
def activeLeft (s : State) : State := leaveOver (domainsDown s [10, 18, 19, 20])

/-- Listen is in force, and the domains of Active alone are off. -/
structure Listens (t : State) : Prop where
  state : getF t F.PWR_STATUS_STATE = 3
  idle : isSet t F.PWR_STATUS_BUSY = false
  changed : isSet t F.PWR_EVT_STATE_CHG = true
  stays : t.pwr.leaving = false
  off : ∀ d ∈ [10, 18, 19, 20], domainOn t d = false

theorem finishLeave_eq {s : State} (h : getF s F.PWR_CTRL_TARGET = 3) : finishLeave s = setPower (activeLeft s) 3 := by
  have htarget : getF (setPower (activeLeft s) 3) F.PWR_CTRL_TARGET = 3 := by
    rw [RdKept.getF (rdKept_setPower _ 3 (by decide) (by decide)), activeLeft, getF_congr (leaveOver_regs _),
      getF_domainsDown _ _ (by decide) (by decide) (fun d _ => .inl (pwrDom_ne (by decide) d)), h]
  have hstay : pursueListen (setPower (activeLeft s) 3) = setPower (activeLeft s) 3 := by simp [pursueListen, htarget]
  rw [← hstay, activeLeft, leaveOver, finishLeave]

theorem listens_activeLeft (s : State) : Listens (setPower (activeLeft s) 3) := by
  obtain ⟨hstate, hidle, hchanged⟩ := setPower_status (activeLeft s) (n := 3) (by decide)
  refine ⟨hstate, hidle, hchanged, ?_, fun d hd => ?_⟩
  · rw [(regsOnly_setPower _ 3).pwr, activeLeft, leaveOver_leaving]
  · rw [domainOn_congr (rdKept_setPower (activeLeft s) 3 (by decide) (by decide)).eq, activeLeft,
      domainOn_congr (rd_congr (leaveOver_regs _) _), domainOn_domainsDown _ (by decide), List.contains_iff_mem.2 hd, Bool.not_true, Bool.and_false]

theorem Listens.settle {t : State} (h : Listens t) : Listens (Machine.settle t) where
  state := (settle_getF t (by decide)).trans h.state
  idle := (settle_isSet t (by decide)).trans h.idle
  changed := (settle_isSet t (by decide)).trans h.changed
  stays := by rw [settle_pwr, h.stays]
  off d hd := (domainOn_settle t d).trans (h.off d hd)

/-- The request to leave Active is noted. -/
def leaveNoted (s : State) : State := raise { s with pwr := { s.pwr with leaving := true, armed := false } } F.PWR_STATUS_BUSY

/-- What has not begun is ended and withdrawn. -/
def leaveWithdrawn (s : State) : State :=
  let code := if getF (leaveNoted s) F.PWR_CTRL_TARGET = 2 then 0x09 else 0x08
  let u := endRepeats (endWaiting (leaveNoted s) code) code
  (u.jobs.filter fun j => !j.begun && !j.ended).foldl withdrawJob u

theorem beginLeave_eq (s : State) : beginLeave s = if leaveDone (leaveWithdrawn s) then finishLeave (leaveWithdrawn s) else leaveWithdrawn s := rfl

theorem leaveNoted_spec (s : State) : (leaveNoted s).cmds = s.cmds ∧ (leaveNoted s).jobs = s.jobs ∧ (leaveNoted s).pwr.leaving = true ∧
    isSet (leaveNoted s) F.PWR_STATUS_BUSY = true ∧ getF (leaveNoted s) F.PWR_STATUS_STATE = getF s F.PWR_STATUS_STATE ∧
    getF (leaveNoted s) F.PWR_CTRL_TARGET = getF s F.PWR_CTRL_TARGET := by
  have hregs : ∀ f, getF { s with pwr := { s.pwr with leaving := true, armed := false } } f = getF s f := fun f => getF_congr rfl f
  unfold leaveNoted
  refine ⟨raise_cmds _ _, raise_jobs _ _, ?_, isSet_raise _ _ rfl (by decide), ?_, ?_⟩
  · rw [raise_pwr]
  · rw [getF_raise_other _ _ _ (by decide) (by decide) (by decide), hregs]
  · rw [getF_raise_other _ _ _ (by decide) (by decide) (by decide), hregs]

/-- With no command outstanding and nothing on the line there is nothing to withdraw. -/
theorem leaveWithdrawn_idle {s : State} (hc : s.cmds = []) (hj : s.jobs = []) : leaveWithdrawn s = leaveNoted s := by
  obtain ⟨hcmds, hjobs, -⟩ := leaveNoted_spec s
  unfold leaveWithdrawn
  dsimp only
  rw [endWaiting_nil (hcmds.trans hc), endRepeats_nil (hcmds.trans hc), hjobs, hj]
  rfl

theorem leaveDone_idle {s : State} (hleave : s.pwr.leaving = true) (hair : ∀ p < 3, onAirPhase s p = false) : leaveDone s = true := by
  have hnone : (List.range 3).any (onAirPhase s) = false := by
    rw [List.any_eq_false]
    intro p hp
    rw [hair p (List.mem_range.1 hp)]
    decide
  rw [leaveDone, hleave, hnone]
  rfl

theorem leaveDone_false {s : State} (h : s.pwr.leaving = false ∨ ∃ p < 3, onAirPhase s p = true) : leaveDone s = false := by
  unfold leaveDone
  rcases h with h | ⟨p, hp, hair⟩
  · rw [h, Bool.false_and]
  · have hany : (List.range 3).any (onAirPhase s) = true := List.any_eq_true.2 ⟨p, List.mem_range.2 hp, hair⟩
    rw [hany, Bool.not_true, Bool.and_false]

/-- Active with nothing outstanding is left at once. -/
theorem beginLeave_idle {s : State} (hc : s.cmds = []) (hj : s.jobs = []) (htarget : getF s F.PWR_CTRL_TARGET = 3) :
    beginLeave s = setPower (activeLeft (leaveNoted s)) 3 := by
  obtain ⟨-, hjobs, hleaving, -, -, htarget'⟩ := leaveNoted_spec s
  have hdone : leaveDone (leaveNoted s) = true := leaveDone_idle hleaving fun p _ => by rw [onAirPhase, hjobs, hj]; rfl
  rw [beginLeave_eq, leaveWithdrawn_idle hc hj, hdone, if_pos rfl, finishLeave_eq (htarget'.trans htarget)]

/-- With a frame on the air Active stays until it ends, and no command waits any longer. -/
theorem beginLeave_onAir {s : State} (hair : ∃ p < 3, onAirPhase s p = true) : SideKept (leaveNoted s) (beginLeave s) ∧
    ∀ c ∈ s.cmds, c.st = .waiting → c ∉ (beginLeave s).cmds := by
  obtain ⟨hcmds, hjobs, -⟩ := leaveNoted_spec s
  have hkept : SideKept (leaveNoted s) (leaveWithdrawn s) ∧ LineEnds (leaveNoted s) (leaveWithdrawn s) ∧
      ∀ c ∈ s.cmds, c.st = .waiting → c ∉ (leaveWithdrawn s).cmds := by
    unfold leaveWithdrawn
    dsimp only
    generalize (if getF (leaveNoted s) F.PWR_CTRL_TARGET = 2 then 0x09 else 0x08) = code
    obtain ⟨hends, hgone⟩ := waiting_ended (leaveNoted s) code
    have hside : SideKept (leaveNoted s) (endRepeats (endWaiting (leaveNoted s) code) code) := (sideKept_endWaiting _ _).trans (sideKept_endRepeats _ _)
    generalize endRepeats (endWaiting (leaveNoted s) code) code = u at *
    have hjobsOut : LineEnds u ((u.jobs.filter fun j => !j.begun && !j.ended).foldl withdrawJob u) := .foldl _ _ lineEnds_withdrawJob u
    exact ⟨hside.trans (.foldl _ _ sideKept_withdrawJob u), hends.trans hjobsOut, fun c hc hst hmem => hgone c (hcmds ▸ hc) hst (hjobsOut.cmds hmem)⟩
  obtain ⟨hside, hline, hgone⟩ := hkept
  have hstill : leaveDone (leaveWithdrawn s) = false := leaveDone_false (.inr (by
    obtain ⟨p, hp, h⟩ := hair
    exact ⟨p, hp, (hline.onAir p).trans (by rw [onAirPhase, hjobs]; exact h)⟩))
  rw [beginLeave_eq, hstill, if_neg Bool.false_ne_true]
  exact ⟨hside, hgone⟩

theorem pursue_active {s : State} (hbusy : isSet s F.PWR_STATUS_BUSY = false) (hstate : pwrState s = 4) (htarget : getF s F.PWR_CTRL_TARGET ≠ 4) :
    pursue s = beginLeave s := by
  simp [pursue, hbusy, hstate, htarget]

theorem exec_activeExitFrameEnd (s : State) (ph : Fin 3) : exec (.activeExitFrameEnd ph) s = if leaveDone s then done (finishLeave s) else done s := rfl

end Sys2Proof.Machine

namespace Sys2Proof.Machine

/-! #### Standby is entered (R61, R65) -/

/-- The line's objects, mains tracking and the domains that are on. -/
def lineState (s : State) : FMap Session × FMap Lane × Mains × Word := (s.sessions, s.lanes, s.mains, rd s R.PWR_PG)

/-- Sessions, lanes, mains tracking and the domains that are on are as before. -/
abbrev LineKept : State → State → Prop := Kept lineState

theorem LineKept.of_host {s t : State} (h : HostOnly s t) : LineKept s t :=
  ⟨by simp only [lineState, h.sessions, h.lanes, h.mains, h.rd (by decide : R.PWR_PG < 0x8000)]⟩

theorem LineKept.of_regs {s t : State} (h : RegsOnly s t) (hpg : rd t R.PWR_PG = rd s R.PWR_PG) : LineKept s t :=
  ⟨by simp only [lineState, h.sessions, h.lanes, h.mains, hpg]⟩

theorem LineKept.parts {s t : State} (h : LineKept s t) : t.sessions = s.sessions ∧ t.lanes = s.lanes ∧ t.mains = s.mains ∧
    ∀ d, domainOn t d = domainOn s d :=
  ⟨congrArg (·.1) h.eq, congrArg (·.2.1) h.eq, congrArg (·.2.2.1) h.eq, domainOn_congr (congrArg (·.2.2.2) h.eq)⟩

theorem LineKept.setF (s : State) (f : Fld) (v : Nat) (h : R.PWR_PG ≠ f.off) : LineKept s (setF s f v) :=
  LineKept.of_regs ((RegsOnly.refl s).setF f v) (rd_setF_ne s f v h)

theorem lineKept_evalConflicts (s : State) : LineKept s (evalConflicts s) := by
  have hconf : ∀ u conf ph b, LineKept u (confEvent u conf ph b) := fun u conf ph b =>
    (LineKept.setF u F.TEN_EVT_CONF 1 (by decide)).trans (LineKept.of_host (hostOnly_eventNow _ _ _ _ _))
  exact (LineKept.setF s F.TEN_STATUS_CONF _ (by decide)).trans (.foldl _ _ (fun u b => hconf u _ _ b) _)

/-- What the line's engines held is gone, the time and the domains are not. -/
theorem clearEngines_line (s : State) : lineState (clearEngines s) = ([], [], s.mains, rd s R.PWR_PG) := by
  unfold clearEngines
  extract_lets conflict reset cleared _ par bad keep t
  have hmap : LineKept t (if fiveLaneRx t then (List.range 4).foldl (fun s i => raise s (F.RXF_STATUS_DEC2 i)) t else t) :=
    .ite (.foldl (List.range 4) _ (fun u i => LineKept.setF u (F.RXF_STATUS_DEC2 i) 1 (by
      unfold F.RXF_STATUS_DEC2 R.RXF_STATUS R.PWR_PG
      dsimp only
      omega)) t) (.refl t)
  have hstored : LineKept { cleared with par := par } t := LineKept.of_regs ((RegsOnly.refl _).wrN _ _ |>.setF _ _)
    ((rd_setF_ne _ _ _ (by decide)).trans (rd_wr_ne _ _ (by decide)))
  have hreset : rd reset R.PWR_PG = rd s R.PWR_PG := (rd_resetRegs s standbyReset _).trans (if_neg (by decide))
  rw [hmap.eq, hstored.eq]
  show (([] : FMap Session), ([] : FMap Lane), reset.mains, rd reset R.PWR_PG) = _
  rw [hreset]
  rfl

/-- The domains that Standby switches off (R61). -/
def standbyOff : List Nat := [3, 4, 5, 6, 7, 8, 9, 10, 11, 12, 13, 15, 16, 18, 19, 20]

/-- The state that Standby is entered from: every ring is drained, and every engine that loses its domain is off. -/
def standbyCut (s : State) : State := domainsDown (clearEngines ([0, 1, 2, 3].foldl (fun s c => (List.range 8).foldl (fun s fn => drainBank s fn c) s) s)) standbyOff

/-- No Active is waited for, and no mute waits to end. -/
def standbyPlain (s : State) : State := { s with pwr := { s.pwr with toStandby := false, armed := false, resume := [] } }

theorem enterStandby_eq (s : State) : enterStandby s = setPower (standbyPlain (evalConflicts (standbyCut s))) 2 := by
  simp only [enterStandby, standbyPlain, standbyCut, standbyOff]

theorem lineState_standbyPlain (s : State) : lineState (standbyPlain s) = lineState s := rfl

/-- The line's objects that Standby leaves: none, but for the time and the domains that stay on (R61). -/
theorem standbyCut_line (s : State) : (standbyCut s).sessions = [] ∧ (standbyCut s).lanes = [] ∧ (standbyCut s).mains = s.mains ∧
    ∀ d, domainOn (standbyCut s) d = (domainOn s d && !standbyOff.contains d) := by
  unfold standbyCut
  have hdrained : LineKept s ([0, 1, 2, 3].foldl (fun s c => (List.range 8).foldl (fun s fn => drainBank s fn c) s) s) :=
    .foldl _ _ (fun u c => .foldl _ _ (fun v fn => LineKept.of_host (hostOnly_drainBank v fn c)) u) s
  generalize [0, 1, 2, 3].foldl (fun s c => (List.range 8).foldl (fun s fn => drainBank s fn c) s) s = u at hdrained ⊢
  have hclear := clearEngines_line u
  obtain ⟨-, -, hmains, hon⟩ := hdrained.parts
  generalize clearEngines u = v at hclear ⊢
  simp only [lineState, Prod.mk.injEq] at hclear
  obtain ⟨hsessions, hlanes, hmainsCut, hpgCut⟩ := hclear
  have hdown := fun d => domainOn_domainsDown v (l := standbyOff) (by decide) d
  obtain ⟨r, p, hparts⟩ := domainsDown_eq v standbyOff
  refine ⟨by rw [hparts]; exact hsessions, by rw [hparts]; exact hlanes, by rw [hparts]; exact hmainsCut.trans hmains, fun d => ?_⟩
  rw [hdown d, domainOn_congr hpgCut d, hon d]

/-- Standby is in force (R61). -/
theorem enterStandby_spec (s : State) : getF (enterStandby s) F.PWR_STATUS_STATE = 2 ∧ isSet (enterStandby s) F.PWR_STATUS_BUSY = false ∧
    (enterStandby s).sessions = [] ∧ (enterStandby s).lanes = [] ∧ (enterStandby s).mains = s.mains ∧
    ∀ d, domainOn (enterStandby s) d = (domainOn s d && !standbyOff.contains d) := by
  obtain ⟨hsessions, hlanes, hmains, hon⟩ := standbyCut_line s
  have hkept : LineKept (standbyCut s) (enterStandby s) := by
    rw [enterStandby_eq]
    exact (lineKept_evalConflicts _).trans (.trans ⟨lineState_standbyPlain _⟩
      (LineKept.of_regs (regsOnly_setPower _ 2) (rdKept_setPower _ 2 (by decide) (by decide)).eq))
  obtain ⟨hstate, hidle, -⟩ := setPower_status (standbyPlain (evalConflicts (standbyCut s))) (n := 2) (by decide)
  rw [← enterStandby_eq] at hstate hidle
  obtain ⟨hsess, hlane, hmain, hdom⟩ := hkept.parts
  exact ⟨hstate, hidle, hsess.trans hsessions, hlane.trans hlanes, hmain.trans hmains, fun d => (hdom d).trans (hon d)⟩

/-! #### Standby, requested in Listen with nothing outstanding -/

/-- Standby has been asked for, and Pikkonen has no command to decrypt. -/
def standbyNoted (s : State) : State := raise { s with pwr := { s.pwr with toStandby := true } } F.PWR_STATUS_BUSY

def noKeyQueue (s : State) : State := { s with sec := { s.sec with pkq := [] } }

theorem endStreams_nil {s : State} (h : s.streams = []) (p : Stream → Bool) (extra : Nat) (st : Option (Nat × Nat)) : endStreams s p extra st = s := by
  have hone : ∀ i, endStream s i extra st = s := fun i => by
    unfold endStream stream
    rw [h]
    rfl
  have hall : ∀ l : List Nat, l.foldl (fun s i => if p (stream s i) then endStream s i extra st else s) s = s := by
    intro l
    induction l with
    | nil => rfl
    | cons i l ih => rw [List.foldl_cons, hone, ite_self, ih]
  exact hall _

theorem stopPlayers_nil {s : State} (h : s.players = []) (q : Nat → Player → Bool) (status detail : Nat) : stopPlayers s q status detail = s := by
  have hone : ∀ i, stopPlayer s i false status detail = s := fun i => by
    unfold stopPlayer player
    rw [h]
    rfl
  have hall : ∀ l : List Nat, l.foldl (fun s i => if q i (player s i) then stopPlayer s i false status detail else s) s = s := by
    intro l
    induction l with
    | nil => rfl
    | cons i l ih => rw [List.foldl_cons, hone, ite_self, ih]
  exact hall _

theorem standbyNoted_spec (s : State) : (standbyNoted s).cmds = s.cmds ∧ (standbyNoted s).streams = s.streams ∧ (standbyNoted s).players = s.players ∧
    (standbyNoted s).pwr = { s.pwr with toStandby := true } ∧ (standbyNoted s).held = s.held ∧ (standbyNoted s).banks = s.banks ∧
    (standbyNoted s).rings = s.rings ∧ (standbyNoted s).mains = s.mains ∧ ∀ d, domainOn (standbyNoted s) d = domainOn s d := by
  unfold standbyNoted
  refine ⟨raise_cmds _ _, raise_streams _ _, raise_players _ _, raise_pwr _ _, raise_held _ _, raise_banks _ _, raise_rings _ _, raise_mains _ _,
    fun d => ?_⟩
  rw [domainOn_busy]
  rfl

theorem noKeyQueue_spec (s : State) : (noKeyQueue s).cmds = s.cmds ∧ (noKeyQueue s).pwr = s.pwr ∧ (noKeyQueue s).mains = s.mains ∧
    allWritable (noKeyQueue s) = allWritable s ∧ ∀ d, domainOn (noKeyQueue s) d = domainOn s d := ⟨rfl, rfl, rfl, rfl, fun _ => rfl⟩

theorem allWritable_congr {s t : State} (hheld : t.held = s.held) (hbanks : t.banks = s.banks) (hrings : t.rings = s.rings) :
    allWritable t = allWritable s := by
  have hring : ring t = ring s := by
    funext fn r
    rw [ring, hrings, ring]
  rw [allWritable, hheld, hbanks, hring, allWritable]

/-- With nothing outstanding and every completion written, Standby is entered at once. -/
theorem beginStandby_idle {s : State} (hc : s.cmds = []) (hstreams : s.streams = []) (hplayers : s.players = []) (hleave : s.pwr.leaving = false)
    (hwritable : allWritable s = true) : beginStandby s = enterStandby (noKeyQueue (standbyNoted s)) := by
  obtain ⟨hcmds, hstreams', hplayers', hpwr, hheld, hbanks, hrings, -⟩ := standbyNoted_spec s
  obtain ⟨hcmds', hpwr', -, hwritable', -⟩ := noKeyQueue_spec (standbyNoted s)
  have hdue : standbyDue (noKeyQueue (standbyNoted s)) = true := by
    rw [standbyDue, hcmds', hcmds, hc, hpwr', hpwr, hwritable', allWritable_congr hheld hbanks hrings, hwritable, hleave]
    rfl
  have hnone : (standbyNoted s).cmds = [] := hcmds.trans hc
  unfold beginStandby
  extract_lets _ asked fetched waiting ended sec standing
  have hasked : asked = standbyNoted s := rfl
  have hfetched : fetched = standbyNoted s := by simp only [fetched, hasked, hnone, List.filter_nil, List.foldl_nil]
  have hwaiting : waiting = standbyNoted s := by simp only [waiting, hfetched, endWaiting_nil hnone, endRepeats_nil hnone]
  have hended : ended = standbyNoted s := by
    simp only [ended, hwaiting, endStreams_nil (hstreams'.trans hstreams), stopPlayers_nil (hplayers'.trans hplayers)]
  have hstanding : standing = noKeyQueue (standbyNoted s) := by simp only [standing, sec, hended, hnone, List.filter_nil, List.foldl_nil, noKeyQueue]
  rw [hstanding, if_pos hdue]

end Sys2Proof.Machine

namespace Sys2Proof.Machine

/-! #### The return from Standby (R65, R438) -/

/-- No Xaton record is held. -/
def noRecords (s : State) : State := { s with boot := { s.boot with xaton := [], held := [] } }

/-- The domains of Listen are asked for. -/
def riseAsked (s : State) : State := reqDomains (noRecords (raise s F.PWR_STATUS_BUSY)) listenDomains

theorem beginRise_eq {s : State} (h : s.boot.xaton = []) : beginRise s = if rising (riseAsked s) then riseAsked s else riseDone (riseAsked s) := by
  unfold beginRise
  rw [h]
  rfl

theorem noRecords_keeps (s : State) : (noRecords s).regs = s.regs ∧ (noRecords s).mains = s.mains := ⟨rfl, rfl⟩

/-- The request writes PWR_STATUS and the domains' registers alone. -/
theorem rdKept_riseAsked (s : State) {o : Nat} (hstatus : o ≠ R.PWR_STATUS) (hdom : ∀ d, o ≠ R.PWR_DOM d) : RdKept o s (riseAsked s) :=
  (RdKept.raise s F.PWR_STATUS_BUSY hstatus).trans (.trans ⟨rd_congr (noRecords_keeps _).1 o⟩ (rdKept_reqDomains _ _ fun d _ => hdom d))

theorem riseAsked_keeps (s : State) : (riseAsked s).mains = s.mains ∧ getF (riseAsked s) F.PWR_CTRL_TARGET = getF s F.PWR_CTRL_TARGET := by
  refine ⟨?_, RdKept.getF (f := F.PWR_CTRL_TARGET) (rdKept_riseAsked s (by decide) (pwrDom_ne (by decide)))⟩
  rw [riseAsked, (regsOnly_reqDomains _ _).mains, (noRecords_keeps _).2, raise_mains]

/-- The change is in progress, and the state in force is Standby still. -/
theorem riseAsked_status (s : State) : isSet (riseAsked s) F.PWR_STATUS_BUSY = true ∧ pwrState (riseAsked s) = pwrState s := by
  have hkept : RdKept R.PWR_STATUS (raise s F.PWR_STATUS_BUSY) (riseAsked s) :=
    .trans ⟨rd_congr (noRecords_keeps _).1 _⟩ (rdKept_reqDomains _ _ fun d _ => pwrDom_ne (by decide) d)
  have hstate : getF (riseAsked s) F.PWR_STATUS_STATE = getF (raise s F.PWR_STATUS_BUSY) F.PWR_STATUS_STATE :=
    RdKept.getF (f := F.PWR_STATUS_STATE) hkept
  exact ⟨(RdKept.isSet (f := F.PWR_STATUS_BUSY) hkept).trans (isSet_raise s F.PWR_STATUS_BUSY rfl (by decide)),
    hstate.trans (getF_raise_other s _ _ (by decide) (by decide) (by decide))⟩

theorem domainOn_riseAsked (s : State) (d : Nat) : domainOn (riseAsked s) d = domainOn s d :=
  domainOn_congr (rdKept_riseAsked s (by decide) (pwrDom_ne (by decide))).eq d

/-- Where no domain failed, every domain of Listen that is off is requested (R65). -/
theorem isSet_req_riseAsked {s : State} (hnone : ∀ e, 1 ≤ e → e ≤ 20 → isSet s (F.PWR_DOM_PG_FAIL e) = false) {d : Nat}
    (hd : d ∈ listenDomains) (hoff : domainOn s d = false) : isSet (riseAsked s) (F.PWR_DOM_REQ d) = true := by
  have hregs := (noRecords_keeps (raise s F.PWR_STATUS_BUSY)).1
  have hfail : hangs (noRecords (raise s F.PWR_STATUS_BUSY)) d = false := hangs_of_none (fun e h1 h20 => by
    rw [isSet_congr hregs, isSet_dom_busy s (F.PWR_DOM_PG_FAIL e) rfl, hnone e h1 h20]) d
  have hdown : domainOn (noRecords (raise s F.PWR_STATUS_BUSY)) d = false := by rw [domainOn_congr (rd_congr hregs _), domainOn_busy, hoff]
  rw [riseAsked, isSet_req_reqDomains, hfail, hdown, List.contains_iff_mem.2 hd]
  simp

/-- What the request for Listen in Standby leaves. -/
theorem beginRise_keeps {s : State} (h : s.boot.xaton = []) (htarget : getF s F.PWR_CTRL_TARGET = 3) :
    getF (beginRise s) F.PWR_CTRL_TARGET = 3 ∧ (beginRise s).mains = s.mains := by
  obtain ⟨hmains, htarget'⟩ := riseAsked_keeps s
  rw [beginRise_eq h]
  generalize riseAsked s = u at hmains htarget' ⊢
  obtain ⟨hregs, hmainsPm, -⟩ := pmStart_keeps (setPower u 3)
  have hlisten : getF (pmStart (setPower u 3)) F.PWR_CTRL_TARGET = 3 := by
    rw [getF_congr hregs, RdKept.getF (rdKept_setPower u 3 (by decide) (by decide)), htarget', htarget]
  have hdone : riseDone u = pmStart (setPower u 3) := by simp [riseDone, pursueListen, hlisten]
  split
  · exact ⟨htarget'.trans htarget, hmains⟩
  · rw [hdone]
    exact ⟨hlisten, hmainsPm.trans ((regsOnly_setPower u 3).mains.trans hmains)⟩

theorem beginRise_rising {s : State} (h : s.boot.xaton = []) (hnone : ∀ e, 1 ≤ e → e ≤ 20 → isSet s (F.PWR_DOM_PG_FAIL e) = false)
    (hoff : domainOn s 4 = false) : beginRise s = riseAsked s := by
  have hrising : rising (riseAsked s) = true := rising_eq_true (e := 4) (by decide) (by decide) (isSet_req_riseAsked hnone (by decide) hoff)
    ((domainOn_riseAsked s 4).trans hoff)
  rw [beginRise_eq h, if_pos hrising]

theorem pursue_standby {s : State} (hbusy : isSet s F.PWR_STATUS_BUSY = false) (hstate : pwrState s = 2) (htarget : getF s F.PWR_CTRL_TARGET ≠ 2) :
    pursue s = beginRise s := by
  simp [pursue, hbusy, hstate, htarget]

/-- What storing the target leaves beside the registers. -/
theorem asked_parts (s : State) (code : Nat) : (asked s code).cmds = s.cmds ∧ (asked s code).jobs = s.jobs ∧ (asked s code).streams = s.streams ∧
    (asked s code).players = s.players ∧ (asked s code).pwr = s.pwr ∧ (asked s code).held = s.held ∧ (asked s code).banks = s.banks ∧
    (asked s code).rings = s.rings ∧ (asked s code).mains = s.mains ∧ (asked s code).pins = s.pins ∧ (asked s code).boot = s.boot := by
  have hregs : RegsOnly (rewritten s R.PWR_CTRL) (asked s code) := (RegsOnly.refl _).setF F.PWR_CTRL_TARGET code
  exact ⟨hregs.cmds, hregs.jobs, hregs.streams, hregs.players, hregs.pwr, hregs.held, hregs.banks, hregs.rings, hregs.mains, hregs.pins, hregs.boot⟩

end Sys2Proof.Machine

namespace Sys2Proof.Machine

/-! #### The statement -/

/-- A request that changes nothing else: its target is stored. -/
theorem requestPower_stored {s : State} {code : Nat} (hreach : reach s R.PWR_CTRL = true) (h : code = 2 ∨ code = 3 ∨ code = 4)
    (hstays : isSet s F.PWR_STATUS_BUSY = true ∨ code = getF s F.PWR_STATUS_STATE) : requestPower s 0 code = asked s code := by
  have hasked := asked_spec s h
  refine (requestPower_asked hreach h).trans (pursue_stays (hstays.imp (fun hb => (hasked.isSet (by decide)).trans hb) fun hc => ?_))
  exact hasked.target.trans (hc.trans (hasked.getF (f := F.PWR_STATUS_STATE) (by decide)).symm)

/-- A request refused for its function (R62). -/
theorem completes_refused {s : State} (hs : Settled s) (i : Instr) {fn code : Nat} (hreach : reach s R.PWR_CTRL = true) (hfn : fn ≠ 0)
    (h : exec i s = done (requestPower s fn code)) : Completes i s fun t => OnlyRegs (rewritten s R.PWR_CTRL) t [R.PWR_STATUS] ∧
      isSet t F.PWR_STATUS_REQ_ERR = true ∧ getF t F.PWR_STATUS_STATE = getF s F.PWR_STATUS_STATE := by
  rw [requestPower_refused code hreach hfn] at h
  have honly := (OnlyRegs.refl (rewritten s R.PWR_CTRL) [R.PWR_STATUS]).setF F.PWR_STATUS_REQ_ERR 1 (by decide)
  exact completes_settled h (honly.1.settled (hs.rewritten _)) ⟨honly, isSet_raise _ _ rfl (by decide),
    getF_raise_other _ _ _ (by decide) (by decide) (by decide)⟩

/-- A request whose target is stored, no more. -/
theorem completes_stored {s : State} (hs : Settled s) (i : Instr) {code : Nat} (hreach : reach s R.PWR_CTRL = true)
    (hcode : code = 2 ∨ code = 3 ∨ code = 4) (hstays : isSet s F.PWR_STATUS_BUSY = true ∨ code = getF s F.PWR_STATUS_STATE)
    (h : exec i s = done (requestPower s 0 code)) :
    Completes i s fun t => OnlyRegs (rewritten s R.PWR_CTRL) t [R.PWR_CTRL] ∧ getF t F.PWR_CTRL_TARGET = code := by
  rw [requestPower_stored hreach hcode hstays] at h
  have hasked := asked_spec s hcode
  exact completes_settled h (hasked.settled hs) ⟨hasked.only, hasked.target⟩

/-- Standby, requested in Listen with nothing outstanding (R61, R65). -/
theorem completes_standby {s : State} (hreach : reach s R.PWR_CTRL = true) (hbusy : isSet s F.PWR_STATUS_BUSY = false)
    (hstate : getF s F.PWR_STATUS_STATE = 3) (hc : s.cmds = []) (hstreams : s.streams = []) (hplayers : s.players = [])
    (hleave : s.pwr.leaving = false) (hwritable : allWritable s = true) : Completes (.standbyRequest 0) s fun t =>
      getF t F.PWR_STATUS_STATE = 2 ∧ isSet t F.PWR_STATUS_BUSY = false ∧ domainOn t 3 = false ∧ domainOn t 9 = false ∧
        domainOn t 2 = domainOn s 2 ∧ domainOn t 14 = domainOn s 14 ∧ t.sessions = [] ∧ t.lanes = [] ∧ t.mains = s.mains := by
  have hasked := asked_spec s (code := 2) (.inl rfl)
  obtain ⟨hcmds, -, hstreams', hplayers', hpwr, hheld, hbanks, hrings, hmains, -, -⟩ := asked_parts s 2
  have hexec : exec (.standbyRequest 0) s = done (requestPower s 0 2) := rfl
  have hon := hasked.domainOn
  rw [requestPower_asked hreach (.inl rfl), pursue_listen ((hasked.isSet (by decide)).trans hbusy)
    ((hasked.getF (f := F.PWR_STATUS_STATE) (by decide)).trans hstate), pursueListen, hasked.target, if_neg (by decide), if_pos rfl,
    beginStandby_idle (hcmds.trans hc) (hstreams'.trans hstreams) (hplayers'.trans hplayers) (by rw [hpwr, hleave])
      ((allWritable_congr hheld hbanks hrings).trans hwritable)] at hexec
  obtain ⟨-, -, -, -, -, -, -, hmains', hon'⟩ := standbyNoted_spec (asked s 2)
  obtain ⟨-, -, hmains'', -, hon''⟩ := noKeyQueue_spec (standbyNoted (asked s 2))
  obtain ⟨hstate', hidle, hsessions, hlanes, hkept, hoff⟩ := enterStandby_spec (noKeyQueue (standbyNoted (asked s 2)))
  have hdomain : ∀ d, domainOn (settle (enterStandby (noKeyQueue (standbyNoted (asked s 2))))) d = (domainOn s d && !standbyOff.contains d) :=
    fun d => by rw [domainOn_settle, hoff, hon'', hon', hon]
  refine completes_done hexec ⟨(settle_getF _ (by decide)).trans hstate', (settle_isSet _ (by decide)).trans hidle, ?_, ?_, ?_, ?_,
    (settle_sessions _).trans hsessions, (settle_lanes _).trans hlanes, (settle_mains _).trans (hkept.trans (hmains''.trans (hmains'.trans hmains)))⟩
  · exact (hdomain 3).trans (Bool.and_false _)
  · exact (hdomain 9).trans (Bool.and_false _)
  · exact (hdomain 2).trans (Bool.and_true _)
  · exact (hdomain 14).trans (Bool.and_true _)

/-- Active, requested in Listen (R63). -/
theorem completes_active {s : State} (hreach : reach s R.PWR_CTRL = true) (hbusy : isSet s F.PWR_STATUS_BUSY = false)
    (hstate : getF s F.PWR_STATUS_STATE = 3) : exec (.activeRequest 0) s = done (beginActive (asked s 4)) := by
  have hasked := asked_spec s (code := 4) (.inr (.inr rfl))
  have hexec : exec (.activeRequest 0) s = done (requestPower s 0 4) := rfl
  rw [requestPower_asked hreach (.inr (.inr rfl)), pursue_listen ((hasked.isSet (by decide)).trans hbusy)
    ((hasked.getF (f := F.PWR_STATUS_STATE) (by decide)).trans hstate), pursueListen, hasked.target, if_pos rfl] at hexec
  exact hexec

/-- The register of no domain below 21 is PWR_CTRL. -/
theorem Asked.isSet_dom {s u : State} {code : Nat} (h : Asked s code u) {f : Fld} {d : Nat} (hf : f.off = R.PWR_DOM d) :
    Machine.isSet u f = Machine.isSet s f :=
  h.isSet (hf ▸ (pwrDom_ne (by decide) d).symm)

/-- With BUGLE off and no failure BUGLE is waited for, with it the drivers of coupled phases where VDRV is present (R63). -/
theorem beginActive_waits {s u : State} (hasked : Asked s 4 u) (hpins : u.pins = s.pins)
    (hnone : ∀ e, 1 ≤ e → e ≤ 20 → isSet s (F.PWR_DOM_PG_FAIL e) = false) (hoff : domainOn s 10 = false) :
    beginActive u = activeAsked u ∧ isSet (activeAsked u) (F.PWR_DOM_REQ 10) = true ∧
      (s.pins.vdrv = true → ∀ p < 3, coupled s p = true → domainOn s (18 + p) = false → isSet (activeAsked u) (F.PWR_DOM_REQ (18 + p)) = true) := by
  have hhangs : ∀ d, hangs u d = false := hangs_of_none fun e h1 h20 => (hasked.isSet_dom (f := F.PWR_DOM_PG_FAIL e) rfl).trans (hnone e h1 h20)
  have hten : isSet (activeAsked u) (F.PWR_DOM_REQ 10) = true := by
    rw [isSet_req_activeAsked u 10 (by decide), hhangs, hasked.domainOn, hoff]
    simp
  refine ⟨beginActive_rising (rising_eq_true (e := 10) (by decide) (by decide) hten ?_), hten, fun hvdrv p hp hcoupled hdown => ?_⟩
  · rw [domainOn_activeAsked, hasked.domainOn, hoff]
  · have hmem : (((List.range 3).filter (coupled u)).map (· + 18)).contains (18 + p) = true := by
      rw [List.contains_iff_mem, List.mem_map]
      exact ⟨p, List.mem_filter.2 ⟨List.mem_range.2 hp, (coupled_congr hpins p).trans hcoupled⟩, Nat.add_comm p 18⟩
    rw [isSet_req_activeAsked u (18 + p) (by omega), hhangs, hasked.domainOn, hdown, hmem, hpins, hvdrv]
    simp

/-- With BUGLE failed and VDRV absent nothing is waited for (R63, R509). -/
theorem rising_activeAsked_false {s u : State} (hasked : Asked s 4 u) (hpins : u.pins = s.pins)
    (hfail : isSet s (F.PWR_DOM_PG_FAIL 10) = true) (hvdrv : s.pins.vdrv = false)
    (hall : ∀ e, 1 ≤ e → e ≤ 20 → isSet s (F.PWR_DOM_REQ e) = true → domainOn s e = true) : rising (activeAsked u) = false := by
  have hhangs : hangs u 10 = true := by
    rw [hangs, List.any_eq_true]
    refine ⟨10, by decide, ?_⟩
    rw [hasked.isSet_dom (f := F.PWR_DOM_PG_FAIL 10) rfl, hfail]
    decide
  refine rising_eq_false fun e h1 h20 hreq => ?_
  rw [isSet_req_activeAsked u e h20, hpins, hvdrv, hasked.isSet_dom (f := F.PWR_DOM_REQ e) rfl] at hreq
  rw [domainOn_activeAsked, hasked.domainOn]
  rcases eq_or_ne e 10 with rfl | hne
  · rw [hhangs] at hreq
    exact hall 10 h1 h20 (by simpa using hreq)
  · exact hall e h1 h20 (by simpa [hne] using hreq)

/-- Settles O12: a request stores the target and the change goes on as `pursue` says: Standby by `beginStandby_idle`, Active by
`beginActive_rising` and `beginActive_arms`, the return to Listen by `beginLeave_idle`, `beginLeave_onAir` and `beginRise_rising`. That
Active is entered at once without a valid index, and that a failed BUGLE does not keep it from being armed, is the model's choice (log entry 45). -/
theorem powerRequestsTakeEffect : Obligations.PowerRequestsTakeEffect := by
  unfold Obligations.PowerRequestsTakeEffect
  refine ⟨?_, ?_⟩
  · intro s hs hreach refused stored
    refine ⟨fun fn hfn => ?_, fun hbusy => ?_⟩
    · have hval : fn.val ≠ 0 := fun h => hfn (Fin.ext h)
      exact ⟨completes_refused hs _ hreach hval rfl, completes_refused hs _ hreach hval rfl, completes_refused hs _ hreach hval rfl⟩
    · exact ⟨completes_stored hs _ hreach (.inl rfl) (.inl hbusy) rfl, completes_stored hs _ hreach (.inr (.inl rfl)) (.inl hbusy) rfl,
        completes_stored hs _ hreach (.inr (.inr rfl)) (.inl hbusy) rfl⟩
  · intro s listen
    refine ⟨fun hreach hbusy hstate hc _ hstreams hplayers hleave hwritable =>
      completes_standby hreach hbusy hstate hc hstreams hplayers hleave hwritable, fun hreach hbusy hstate => ?_, fun hreach hbusy hstate hc hj => ?_,
      ?_, fun ph hs hstill => ?_, fun ph hleave htarget hair => ?_⟩
    · have hasked := asked_spec s (code := 4) (.inr (.inr rfl))
      obtain ⟨-, -, -, -, -, -, -, -, -, hpins, -⟩ := asked_parts s 4
      have hexec := completes_active hreach hbusy hstate
      generalize asked s 4 = u at hasked hpins hexec
      obtain ⟨hup, hinforce⟩ := activeAsked_status u
      have hlisten : getF (activeAsked u) F.PWR_STATUS_STATE = 3 := hinforce.trans ((hasked.getF (f := F.PWR_STATUS_STATE) (by decide)).trans hstate)
      refine completes_done hexec ⟨?_, fun hvdrv p hp hcoupled => ?_, fun hnone hoff => ?_, fun hfail hvdrv hall => ?_⟩
      · rw [settle_getF _ (by decide), RdKept.getF ⟨rd_beginActive u (by decide) (by decide) (by decide) fun d _ => pwrDom_ne (by decide) d⟩]
        exact hasked.target
      · rw [settle_uv, uv_beginActive (hpins ▸ hvdrv) hp ((coupled_congr hpins p).trans hcoupled)]
      · obtain ⟨hbegin, hten, hdrivers⟩ := beginActive_waits hasked hpins hnone hoff
        rw [hbegin]
        have hdom : ∀ d ≤ 20, isSet (settle (activeAsked u)) (F.PWR_DOM_REQ d) = isSet (activeAsked u) (F.PWR_DOM_REQ d) := fun d hd =>
          settle_isSet _ ((pwrDom_off hd).2.2.trans (by decide))
        exact ⟨(hdom 10 (by decide)).trans hten, (settle_isSet _ (by decide)).trans hup, (settle_getF _ (by decide)).trans hlisten,
          fun hvdrv p hp hcoupled hdown => (hdom (18 + p) (by omega)).trans (hdrivers hvdrv p hp hcoupled hdown)⟩
      · rw [beginActive_arms (rising_activeAsked_false hasked hpins hfail hvdrv hall),
          show cidxOk u = cidxOk s from hasked.isSet (f := F.MSY_STATUS_CIDX_VALID) (by decide)]
        split
        · exact ⟨by rw [settle_pwr], (settle_isSet _ (by decide)).trans hup, (settle_getF _ (by decide)).trans hlisten⟩
        · obtain ⟨-, hidle, hactive⟩ := activeNow_keeps (activeAsked u)
          exact ⟨(settle_isSet _ (by decide)).trans hidle, (settle_getF _ (by decide)).trans hactive⟩
    · have hasked := asked_spec s (code := 3) (.inr (.inl rfl))
      obtain ⟨hcmds, hjobs, -⟩ := asked_parts s 3
      have hexec : exec (.listenRequest 0) s = done (requestPower s 0 3) := rfl
      rw [requestPower_asked hreach (.inr (.inl rfl)), pursue_active ((hasked.isSet (by decide)).trans hbusy)
        ((hasked.getF (f := F.PWR_STATUS_STATE) (by decide)).trans hstate) (by rw [hasked.target]; decide),
        beginLeave_idle (hcmds.trans hc) (hjobs.trans hj) hasked.target] at hexec
      obtain ⟨h1, h2, h3, h4, hoff⟩ := (listens_activeLeft (leaveNoted (asked s 3))).settle
      exact completes_done hexec ⟨h1, h2, h3, h4, hoff 10 (by decide), hoff 18 (by decide), hoff 19 (by decide), hoff 20 (by decide)⟩
    · intro hreach hbusy hs kept
      refine ⟨?_, ?_, ?_, fun hstate hxaton => ?_, fun hstate hair => ?_⟩
      · exact fun hstate => completes_stored hs _ hreach (.inl rfl) (.inr hstate.symm) rfl
      · exact fun hstate => completes_stored hs _ hreach (.inr (.inl rfl)) (.inr hstate.symm) rfl
      · exact fun hstate => completes_stored hs _ hreach (.inr (.inr rfl)) (.inr hstate.symm) rfl
      · have hasked := asked_spec s (code := 3) (.inr (.inl rfl))
        obtain ⟨-, -, -, -, -, -, -, -, hmains, -, hboot⟩ := asked_parts s 3
        have hexec : exec (.listenRequest 0) s = done (requestPower s 0 3) := rfl
        rw [requestPower_asked hreach (.inr (.inl rfl)), pursue_standby ((hasked.isSet (by decide)).trans hbusy)
          ((hasked.getF (f := F.PWR_STATUS_STATE) (by decide)).trans hstate) (by rw [hasked.target]; decide)] at hexec
        generalize asked s 3 = u at hasked hmains hboot hexec
        have hempty : u.boot.xaton = [] := by rw [hboot, hxaton]
        obtain ⟨htarget, hkept⟩ := beginRise_keeps hempty hasked.target
        refine completes_done hexec ⟨(settle_getF _ (by decide)).trans htarget, (settle_mains _).trans (hkept.trans hmains), fun hnone hoff => ?_⟩
        have hnone' : ∀ e, 1 ≤ e → e ≤ 20 → isSet u (F.PWR_DOM_PG_FAIL e) = false := fun e h1 h20 => (hasked.isSet_dom rfl).trans (hnone e h1 h20)
        obtain ⟨hup, hinforce⟩ := riseAsked_status u
        rw [beginRise_rising hempty hnone' ((hasked.domainOn 4).trans hoff)]
        refine ⟨(settle_isSet _ (by decide)).trans hup, (settle_getF _ (by decide)).trans (hinforce.trans
          ((hasked.getF (f := F.PWR_STATUS_STATE) (by decide)).trans hstate)), fun d hd hdown => ?_⟩
        have hlow : ∀ d ∈ listenDomains, d ≤ 20 := by decide
        exact (settle_isSet _ ((pwrDom_off (hlow d hd)).2.2.trans (by decide))).trans (isSet_req_riseAsked hnone' hd ((hasked.domainOn d).trans hdown))
      · have hasked := asked_spec s (code := 3) (.inr (.inl rfl))
        obtain ⟨hcmds, hjobs, -⟩ := asked_parts s 3
        have hexec : exec (.listenRequest 0) s = done (requestPower s 0 3) := rfl
        rw [requestPower_asked hreach (.inr (.inl rfl)), pursue_active ((hasked.isSet (by decide)).trans hbusy)
          ((hasked.getF (f := F.PWR_STATUS_STATE) (by decide)).trans hstate) (by rw [hasked.target]; decide)] at hexec
        generalize asked s 3 = u at hasked hcmds hjobs hexec
        obtain ⟨-, -, hleaving, hup, hinforce, -⟩ := leaveNoted_spec u
        obtain ⟨hside, hgone⟩ := beginLeave_onAir (s := u) (by
          obtain ⟨p, hp, h⟩ := hair
          exact ⟨p, hp, by rw [onAirPhase, hjobs]; exact h⟩)
        refine completes_done hexec ⟨?_, (settle_isSet _ (by decide)).trans ((SideKept.isSet hside (by decide)).trans hup),
          (settle_getF _ (by decide)).trans ((SideKept.getF hside (by decide)).trans (hinforce.trans
            ((hasked.getF (f := F.PWR_STATUS_STATE) (by decide)).trans hstate))), fun c hc hst hmem => ?_⟩
        · rw [settle_pwr, CoreKept.pwr (SideKept.core hside), hleaving]
        · exact hgone c (hcmds ▸ hc) hst (cmdsEnd_settle _ hmem)
    · have hexec := exec_activeExitFrameEnd s ph
      rw [leaveDone_false hstill, if_neg Bool.false_ne_true] at hexec
      exact completes_settled hexec hs rfl
    · have hexec := exec_activeExitFrameEnd s ph
      rw [leaveDone_idle hleave hair, if_pos rfl, finishLeave_eq htarget] at hexec
      obtain ⟨h1, h2, h3, h4, hoff⟩ := (listens_activeLeft s).settle
      exact completes_done hexec ⟨h1, h2, h3, h4, hoff 10 (by decide), hoff 18 (by decide), hoff 19 (by decide), hoff 20 (by decide)⟩

end Sys2Proof.Machine

/-! ### Parity and the safe actions (R80, R81, R163, R514) -/

namespace Sys2Proof.Machine

/-! #### What the beginning of a safe action leaves of the guard -/

/-- The copies that fail and the safe actions, GLB_CFG_PARITY, and whether the cycle index is valid. -/
def guardState (s : State) : Parity × Word × Bool := (s.par, rd s R.GLB_CFG_PARITY, cidxOk s)

/-- The parity guard is as before. -/
abbrev GuardKept : State → State → Prop := Kept guardState

namespace GuardKept

variable {s t : State}

theorem parts (h : GuardKept s t) : t.par = s.par ∧ rd t R.GLB_CFG_PARITY = rd s R.GLB_CFG_PARITY ∧ cidxOk t = cidxOk s :=
  ⟨congrArg (·.1) h.eq, congrArg (·.2.1) h.eq, congrArg (·.2.2) h.eq⟩

theorem intro (hpar : t.par = s.par) (hparity : rd t R.GLB_CFG_PARITY = rd s R.GLB_CFG_PARITY) (hcidx : cidxOk t = cidxOk s) : GuardKept s t :=
  ⟨by simp only [guardState, hpar, hparity, hcidx]⟩

theorem of_side (h : SideKept s t) : GuardKept s t :=
  intro (CoreKept.par (SideKept.core h)) (SideKept.rd h (by decide)) (SideKept.isSet (f := F.MSY_STATUS_CIDX_VALID) h (by decide))

/-- A field but for GLB_CFG_PARITY and the index's own. -/
theorem setF (s : State) (f : Fld) (v : Nat) (hparity : R.GLB_CFG_PARITY ≠ f.off)
    (hcidx : F.MSY_STATUS_CIDX_VALID.off ≠ f.off ∨ f.hi < F.MSY_STATUS_CIDX_VALID.lo ∨ F.MSY_STATUS_CIDX_VALID.hi < f.lo)
    (hl : f.lo ≤ f.hi := by decide) (hh : f.hi < 32 := by decide) : GuardKept s (setF s f v) :=
  intro rfl (rd_setF_ne s f v hparity) (isSet_setF_other s f F.MSY_STATUS_CIDX_VALID v hl hh hcidx)

theorem wrN (s : State) {o : Nat} (v : Nat) (hparity : R.GLB_CFG_PARITY ≠ o) (hcidx : R.MSY_STATUS ≠ o) : GuardKept s (wrN s o v) :=
  intro rfl (rd_wr_ne s _ hparity) (RdKept.isSet (f := F.MSY_STATUS_CIDX_VALID) (RdKept.wr s _ hcidx))

end GuardKept

theorem guardKept_dropTrack (s : State) : GuardKept s (dropTrack s) := .intro rfl rfl rfl

/-- Hold-over keeps the index (R104, R110). -/
theorem guardKept_enterHoldover (s : State) : GuardKept s (enterHoldover s) := by
  have htrack : ∀ u : State, GuardKept u (dropTrack u) := guardKept_dropTrack
  have hlost : GuardKept s (raiseWith s Def.loms .device fun s => setF s F.MSY_STATUS_LOCK 0) :=
    have hcleared : GuardKept s (setF s F.MSY_STATUS_LOCK 0) := GuardKept.setF s _ _ (by decide) (by decide)
    .ite hcleared (hcleared.trans (GuardKept.of_side (sideKept_reportRaise _ Def.loms .device)))
  have hlimit : ∀ u : State, GuardKept u (txLimit u) := fun u =>
    (GuardKept.setF u F.MSY_STATUS_TXMUTE 1 (by decide) (by decide)).trans (GuardKept.of_side (sideKept_endWaiting _ _))
  refine .ite (htrack s) ?_
  extract_lets u v w
  have hw : GuardKept s w := (hlost.trans (htrack u)).trans (((GuardKept.setF _ F.MSY_EVT_LOMS_CHG 1 (by decide) (by decide)).trans
    (GuardKept.setF _ F.MSY_STATUS_HOLD 1 (by decide) (by decide))).trans (GuardKept.setF _ F.MSY_STATUS_HOLD_AGE 0 (by decide) (by decide)))
  exact .ite (hw.trans (hlimit w)) hw

theorem sideKept_setLane (s : State) (l : Nat) (x : Lane) : SideKept s (setLane s l x) := ⟨rfl⟩

theorem sideKept_safeLane (s : State) (l : Nat) : SideKept s (safeLane s l) := .ite (.refl s) (sideKept_setLane s l _)

theorem sideKept_failQueued (s : State) (f : State → Cmd → State) (hf : ∀ u c, SideKept u (f u c)) : SideKept s (failQueued s f) := by
  have hqueue : SideKept s { s with sec := { s.sec with pkq := [] } } := ⟨rfl⟩
  exact hqueue.trans (.foldl _ f hf _)

theorem sideKept_faultLine (s : State) (detail : Nat) (onAirToo : Bool) : SideKept s (faultLine s detail onAirToo) :=
  .foldl _ _ (fun u c => .ite (.refl u) (sideKept_endUnbegun u c _ _ _)) s

/-- What begins with a safe action leaves the guard (R80). -/
theorem guardKept_beginSafe (s : State) (b i : Nat) : GuardKept s (beginSafe s b i) := by
  have hlanes : SideKept s (if i = 0xFFFF then s.lanes.foldl (fun s e => safeLane s e.1) s else safeLane s i) :=
    .ite (.foldl s.lanes _ (fun u e => sideKept_safeLane u e.1) s) (sideKept_safeLane s i)
  unfold beginSafe
  split
  · exact guardKept_enterHoldover s
  · exact GuardKept.of_side (hlanes.trans (SideKept.raise _ _ (by decide)))
  · exact .intro rfl rfl rfl
  · exact GuardKept.of_side ((sideKept_endStreams s _ _ _).trans (sideKept_stopPlayers _ _ _ _))
  · exact GuardKept.of_side (sideKept_failQueued s _ fun u c => sideKept_complete u c _ _ _)
  · exact GuardKept.of_side (sideKept_faultLine s _ _)
  · exact .refl s

/-! #### The fault window of a parity bit (R75, R76) -/

/-- The actions of a block held. -/
def heldActs (l : List SafeAct) (b : Nat) : List SafeAct := l.map fun a => if a.block = b then { a with held := true, leaving := false } else a

/-- The guard is as before, but that the actions of the block may be held. -/
def GuardHeld (s t : State) (b : Nat) : Prop := GuardKept s t ∨ GuardKept (holdBlock s b) t

theorem holdBlock_par (s : State) (b : Nat) : (holdBlock s b).par = { s.par with acts := heldActs s.par.acts b } ∧
    rd (holdBlock s b) R.GLB_CFG_PARITY = rd s R.GLB_CFG_PARITY ∧ cidxOk (holdBlock s b) = cidxOk s := ⟨rfl, rfl, rfl⟩

theorem guardKept_faultLog (s : State) (src item : Nat) (lasting : Bool) (action count : Nat) :
    GuardKept s (faultLog s src item lasting action count) := by
  have hrd : ∀ o, o ≠ R.REL_LOG_STAT → rd (faultLog s src item lasting action count) o = rd s o := fun o ho =>
    rd_faultLog_ne s src item lasting action count ho
  obtain ⟨regs, log, hlog⟩ := faultLog_eq s src item lasting action count
  exact .intro (by rw [hlog]) (hrd _ (by decide)) (RdKept.isSet (f := F.MSY_STATUS_CIDX_VALID) ⟨hrd _ (by decide)⟩)

theorem guardKept_setHist (s : State) (k : Nat) (h : History) : GuardKept s (setHist s k h) := .intro rfl rfl rfl

theorem guardHeld_takeLasting (s : State) (b count : Nat) : GuardKept (holdBlock s b) (takeLasting s 3 b count) := by
  obtain ⟨action, hhost⟩ := hostOnly_takeLasting s 3 b count
  have hheld : GuardKept (holdBlock s b) (holdBlock (clearHist s 3 b) b) := .intro rfl rfl rfl
  have hmarked : GuardKept (holdBlock s b) (lastingMarked s 3 b) :=
    hheld.trans ((GuardKept.setF _ F.GLB_FAULT_SUM_LAST _ (by decide) (by decide)).trans (GuardKept.wrN _ _ (by decide) (by decide)))
  exact hmarked.trans ((guardKept_faultLog _ _ _ _ _ _).trans (GuardKept.of_side (SideKept.of_host hhost)))

/-- A parity fault that is counted holds its block where it lasts (R76). -/
theorem guardHeld_faultRaw (s : State) (b : Nat) : GuardHeld s (faultRaw s 3 b) b := by
  unfold faultRaw
  generalize faultCfg s 3 = cfg
  obtain ⟨n, t, div⟩ := cfg
  have hcount : GuardKept s (bump s (R.REL_TOT 3)) := GuardKept.wrN s _ (by decide) (by decide)
  split
  · exact .inl (.refl s)
  · dsimp only
    rw [if_neg (by decide : ¬ 3 = 1), if_neg (by decide : ¬ 3 = 0)]
    generalize bump s (R.REL_TOT 3) = u at hcount ⊢
    split
    · exact .inl (hcount.trans (guardKept_setHist u _ _))
    · split
      · obtain ⟨hpar, hparity, hcidx⟩ := hcount.parts
        have hlasting : ∀ h count, GuardKept (holdBlock s b) (takeLasting (setHist u (faultKey 3 b) h) 3 b count) := fun h count =>
          have hheld : GuardKept (holdBlock s b) (holdBlock (setHist u (faultKey 3 b) h) b) :=
            .intro (congrArg (fun p : Parity => { p with acts := heldActs p.acts b }) hpar) hparity hcidx
          hheld.trans (guardHeld_takeLasting _ b count)
        exact .inr (hlasting _ _)
      · exact .inl ((hcount.trans (guardKept_setHist u _ _)).trans (guardKept_faultLog _ _ _ _ _ _))

end Sys2Proof.Machine

namespace Sys2Proof.Machine

/-! #### The sweep (R80, R81) -/

/-- The copies that fail, with one safe action. -/
def parityFound (s : State) (p : Parity) : State := { s with par := p }

/-- The failing main copies that are left. -/
def mainLeft (s : State) (l : List Nat) : State := { s with par := { s.par with mainBad := l } }

/-- The block's bit is set, and its safe action begins. -/
def actionBegun (s : State) (p : Parity) (b i : Nat) : State := beginSafe (raiseBit (parityFound s p) R.GLB_CFG_PARITY b) b i

/-- The action begins for one part of the block, and the event is counted. -/
def safeEntered (s : State) (p : Parity) (l : List Nat) (b i : Nat) : State := faultRaw (mainLeft (actionBegun s p b i) l) 3 b

/-- The action that a register's failure begins. -/
def newAct (b i : Nat) (ok : Bool) : SafeAct := { block := b, inst := i, leaving := ok, held := !ok }

theorem parityOf_block {o b i : Nat} (h : parityOf o = some (b, i)) : b < 15 := by
  unfold parityOf at h
  split at h
  · split at h
    · simp at h; omega
    · split at h
      · simp at h; omega
      · split at h
        · simp at h; omega
        · simp at h
  · split at h
    · simp at h; omega
    · split at h
      · simp at h; omega
      · split at h <;> simp at h <;> omega

/-- A block's bit in GLB_CFG_PARITY. -/
theorem bit_raiseBit (s : State) {o b : Nat} (hb : b < 32) : bit (rdN (raiseBit s o b) o) b = true := by
  rw [raiseBit, rdN_wrN, if_pos rfl, Nat.mod_eq_of_lt (setBits_lt 1 (rdN_lt _ _) le_rfl hb), bit_eq_testBit, setBits_testBit _ _ le_rfl]
  simp

/-- What the entry leaves of the guard. -/
theorem safeEntered_guard (s : State) (p : Parity) (l : List Nat) {b : Nat} (i : Nat) (hb : b < 15) :
    ((safeEntered s p l b i).par = { p with mainBad := l } ∨ (safeEntered s p l b i).par = { p with mainBad := l, acts := heldActs p.acts b }) ∧
      bit (rdN (safeEntered s p l b i) R.GLB_CFG_PARITY) b = true ∧ cidxOk (safeEntered s p l b i) = cidxOk s := by
  have hbit := bit_raiseBit (parityFound s p) (o := R.GLB_CFG_PARITY) (b := b) (by omega)
  have hraised : (raiseBit (parityFound s p) R.GLB_CFG_PARITY b).par = p := rfl
  have hcidx : cidxOk (raiseBit (parityFound s p) R.GLB_CFG_PARITY b) = cidxOk (parityFound s p) :=
    RdKept.isSet (f := F.MSY_STATUS_CIDX_VALID) (RdKept.wr (parityFound s p) _ (by decide : R.MSY_STATUS ≠ R.GLB_CFG_PARITY))
  unfold safeEntered actionBegun
  generalize raiseBit (parityFound s p) R.GLB_CFG_PARITY b = u at hbit hraised hcidx ⊢
  obtain ⟨hpar', hparity', hcidx'⟩ := (guardKept_beginSafe u b i).parts
  generalize beginSafe u b i = v at hpar' hparity' hcidx' ⊢
  have hleft : (mainLeft v l).par = { p with mainBad := l } := by
    rw [← hraised, ← hpar']
    rfl
  have hregs : rd (mainLeft v l) R.GLB_CFG_PARITY = rd v R.GLB_CFG_PARITY ∧ cidxOk (mainLeft v l) = cidxOk v := ⟨rfl, rfl⟩
  generalize mainLeft v l = w at hleft hregs ⊢
  have hw : bit (rdN w R.GLB_CFG_PARITY) b = true := by rw [rdN, hregs.1, hparity']; exact hbit
  have hok : cidxOk w = cidxOk s := hregs.2.trans (hcidx'.trans hcidx)
  rcases guardHeld_faultRaw w b with hkept | hkept
  · obtain ⟨h1, h2, h3⟩ := hkept.parts
    exact ⟨.inl (h1.trans hleft), by rw [rdN, h2]; exact hw, h3.trans hok⟩
  · obtain ⟨h1, h2, h3⟩ := hkept.parts
    obtain ⟨k1, k2, k3⟩ := holdBlock_par w b
    exact ⟨.inr (by rw [h1, k1, hleft]), by rw [rdN, h2, k2]; exact hw, h3.trans (k3.trans hok)⟩

theorem actionBegun_par (s : State) (p : Parity) (b i : Nat) : (actionBegun s p b i).par = p :=
  (GuardKept.parts (guardKept_beginSafe (raiseBit (parityFound s p) R.GLB_CFG_PARITY b) b i)).1

theorem enterSafe_new {s : State} {b i : Nat} (ok : Bool) (h : s.par.acts = []) : enterSafe s b i ok =
    actionBegun s { s.par with acts := [newAct b i ok] } b i := by
  unfold enterSafe actionBegun
  rw [h]
  rfl

/-- One register whose main copy failed, with no action in force. -/
theorem sweepInst_one {s : State} {o b i : Nat} {sb : List Nat} (hp : parityOf o = some (b, i)) :
    sweepInst (parityFound s { mainBad := [o], shadowBad := sb }) b i =
      let t := safeEntered s { mainBad := [o], shadowBad := sb, acts := [newAct b i (!sb.contains o)] } (if sb.contains o then [o] else []) b i
      if cidxOk t then t else leaveDue t := by
  have hbad : badIn (parityFound s { mainBad := [o], shadowBad := sb }).par.mainBad b i = [o] := by
    simp [badIn, parityFound, hp]
  have hok : ([o].all fun o => !sb.contains o) = !sb.contains o := by simp
  have hentered : enterSafe (parityFound s { mainBad := [o], shadowBad := sb }) b i (!sb.contains o) =
      actionBegun s { mainBad := [o], shadowBad := sb, acts := [newAct b i (!sb.contains o)] } b i := enterSafe_new _ rfl
  have hpar := actionBegun_par s { mainBad := [o], shadowBad := sb, acts := [newAct b i (!sb.contains o)] } b i
  have hleft : ([o].filter fun o => parityOf o != some (b, i) || sb.contains o) = if sb.contains o then [o] else [] := by
    rw [List.filter_cons, List.filter_nil, hp, bne_self_eq_false, Bool.false_or]
  unfold sweepInst safeEntered
  extract_lets main ok entered old left counted begun
  have hmain : main = [o] := hbad
  have hok' : ok = !sb.contains o := by simp only [ok, hmain]; exact hok
  have hbegun : entered = actionBegun s { mainBad := [o], shadowBad := sb, acts := [newAct b i (!sb.contains o)] } b i := by
    simp only [entered, hok', hentered]
  rw [if_neg (by rw [hmain]; simp)]
  have hfound : left = mainLeft (actionBegun s { mainBad := [o], shadowBad := sb, acts := [newAct b i (!sb.contains o)] } b i)
      (if sb.contains o then [o] else []) := by
    simp only [left, old, hbegun, hpar, hleft, mainLeft]
  have hcounted : counted = begun := by simp only [counted, begun, hfound]
  rw [hcounted]

theorem exec_paritySweep_one {s : State} {o b i : Nat} {sb : List Nat} (hreset : s.pins.inReset = false) (hp : parityOf o = some (b, i))
    (hpar : s.par = {}) (hsb : sb = [] ∨ sb = [o]) : exec (.paritySweep [o] sb) s =
      done (sweepInst (parityFound s { mainBad := [o], shadowBad := sb }) b i) := by
  have hmain : ([] ++ [o].filter fun o => (parityOf o).isSome).dedup = [o] := by simp [hp]
  have hshadow : ([] ++ sb.filter fun o => (parityOf o).isSome).dedup = sb := by
    rcases hsb with rfl | rfl
    · rfl
    · exact hmain
  have hinsts : badInsts [o] = [(b, i)] := by simp [badInsts, hp]
  show execParitySweep [o] sb s = _
  unfold execParitySweep
  rw [hreset, if_neg Bool.false_ne_true]
  dsimp only
  rw [hinsts, hpar, hmain, hshadow]
  rfl

end Sys2Proof.Machine

namespace Sys2Proof.Machine

/-! #### A block leaves its safe action (R77, R81, R163, R514) -/

theorem sideKept_evalConflicts (s : State) : SideKept s (evalConflicts s) := by
  have hconf : ∀ u conf ph b, SideKept u (confEvent u conf ph b) := fun u conf ph b =>
    (SideKept.raise u F.TEN_EVT_CONF (by decide)).trans (SideKept.of_host (hostOnly_eventNow _ _ _ _ _))
  exact (SideKept.setF s F.TEN_STATUS_CONF _ (by decide)).trans (.foldl _ _ (fun u b => hconf u _ _ b) _)

theorem sideKept_endReception (s : State) (l : Nat) : SideKept s (endReception s l) := by
  have hsnr : ∀ x, SideKept s (laneSnr s x).2 := fun x => by
    unfold laneSnr
    dsimp only
    split
    · exact ⟨rfl⟩
    · exact .refl s
  have hrec : ∀ (u : State) (x : Lane) (r : Recep), SideKept u { setLane u l x with recs := u.recs ++ [r] } := fun _ _ _ => ⟨rfl⟩
  unfold endReception
  dsimp only
  split
  · exact .refl s
  · exact (hsnr _).trans (hrec _ _ _)

theorem sideKept_pmPartial (s : State) (k : Nat) : SideKept s (pmPartial s k) := by
  unfold pmPartial updPm
  split
  · exact ⟨rfl⟩
  · exact .refl s

theorem sideKept_keepNoise (s : State) (x : Lane) : SideKept s (keepNoise s x) := .ite (.refl s) ⟨rfl⟩

theorem sideKept_offLane (s : State) (l : Nat) : SideKept s (offLane s l) := by
  have hdefects : SideKept s ([2, 3, 4].foldl (fun s c => clearDefect s c (.lane l)) s) :=
    .foldl _ _ (fun u c => sideKept_clearWith c (.lane l) fun v => sideKept_markDefect v c (.lane l) false) s
  unfold offLane
  extract_lets u v x w y
  have hv : SideKept s v := (hdefects.trans (sideKept_endReception _ l)).trans (.ite (.refl u) (sideKept_pmPartial u l))
  have hw : SideKept s w := hv.trans (sideKept_keepNoise v x)
  split
  · exact hw.trans ((sideKept_setLane w l _).trans (sideKept_evalConflicts _))
  · exact hw.trans (sideKept_setLane w l y)

theorem sideKept_searchLane (s : State) (l : Nat) : SideKept s (searchLane s l) := (sideKept_endReception s l).trans (sideKept_setLane _ l _)

theorem sideKept_unsafeLane (s : State) (l : Nat) : SideKept s (unsafeLane s l) :=
  .ite (.refl s) (.ite (sideKept_searchLane s l) (sideKept_offLane s l))

theorem sideKept_settleInput (s : State) (i : Nat) : SideKept s (settleInput s i) := by
  have hrx : ∀ x : RxIn, SideKept s (setRx s i x) := fun _ => ⟨rfl⟩
  exact (hrx _).trans (SideKept.setF _ (F.RXF_STATUS_SETTLING i) _ (by
    unfold F.RXF_STATUS_SETTLING R.RXF_STATUS
    dsimp only
    omega))

/-- A block's bit clears, and its fault history with it (R77). -/
def bitCleared (s : State) (b : Nat) : State := clearHist (wrN s R.GLB_CFG_PARITY (setBits (rdN s R.GLB_CFG_PARITY) b b 0)) 3 b

theorem bitCleared_spec (s : State) {b : Nat} (hb : b < 15) : (bitCleared s b).par = s.par ∧
    bit (rdN (bitCleared s b) R.GLB_CFG_PARITY) b = false ∧ ∀ o, o ≠ R.GLB_CFG_PARITY → rd (bitCleared s b) o = rd s o := by
  refine ⟨rfl, ?_, fun o ho => rd_wr_ne s _ ho⟩
  show bit (rdN (wrN s R.GLB_CFG_PARITY (setBits (rdN s R.GLB_CFG_PARITY) b b 0)) R.GLB_CFG_PARITY) b = false
  rw [rdN_wrN, if_pos rfl, Nat.mod_eq_of_lt (setBits_lt 0 (rdN_lt _ _) le_rfl (by omega)), bit_eq_testBit, setBits_testBit _ _ le_rfl]
  simp

/-- What a lane or an input of the block does as it leaves. -/
def backInService (s : State) (a : SafeAct) : State :=
  if a.block = 3 then (if a.inst = 0xFFFF then s.lanes.foldl (fun s e => unsafeLane s e.1) s else unsafeLane s a.inst)
  else if a.block = 1 && isSet s (F.RXF_CTRL_EN a.inst) then settleInput s a.inst else s

theorem sideKept_backInService (s : State) (a : SafeAct) : SideKept s (backInService s a) :=
  .ite (.ite (.foldl s.lanes _ (fun u e => sideKept_unsafeLane u e.1) s) (sideKept_unsafeLane s _)) (.ite (sideKept_settleInput s _) (.refl s))

theorem backInService_other (s : State) {a : SafeAct} (h1 : a.block ≠ 1) (h3 : a.block ≠ 3) : backInService s a = s := by
  simp [backInService, h1, h3]

/-- The one action in force is left. -/
theorem leaveDue_one (s : State) {a : SafeAct} (h : a.leaving = true) :
    leaveDue (parityFound s { acts := [a] }) = backInService (bitCleared (parityFound s {}) a.block) a := by
  have hacts : ([a].filter fun x => !(x.block == a.block && x.inst == a.inst)) = [] := by simp
  have hdue : (parityFound s { acts := [a] }).par.acts.filter (·.leaving) = [a] := by simp [parityFound, h]
  have hleft : ({ parityFound s { acts := [a] } with par := { (parityFound s { acts := [a] }).par with
      acts := (parityFound s { acts := [a] }).par.acts.filter fun x => !(x.block == a.block && x.inst == a.inst) } } : State) = parityFound s {} := by
    simp only [parityFound, hacts]
  have hnone : inSafe (parityFound s {}) a.block = false := rfl
  rw [leaveDue, hdue, List.foldl_cons, List.foldl_nil]
  unfold leaveSafe
  rw [hleft]
  dsimp only
  rw [hnone, if_neg Bool.false_ne_true]
  rfl

/-- The block whose bit is written leaves (R514). -/
theorem writeCfgParity_one (s : State) {a : SafeAct} {v : Word} (hleave : a.leaving = false) (hv : bit v.toNat a.block = true)
    (hbit : bit (rdN s R.GLB_CFG_PARITY) a.block = true) : writeCfgParity (parityFound s { acts := [a] }) v =
      let u := parityFound s { acts := [{ a with leaving := true, held := false }] }
      if cidxOk s then u else leaveDue u := by
  have hacts : ([a].map fun x => if ((bit v.toNat x.block && bit (rdN (parityFound s { acts := [a] }) R.GLB_CFG_PARITY) x.block &&
      !(([] : List Nat).any fun o => (parityOf o).any fun y => y.1 == x.block)) && !x.leaving) = true then
        { x with leaving := true, held := false } else x) = [{ a with leaving := true, held := false }] := by
    have hread : bit (rdN (parityFound s { acts := [a] }) R.GLB_CFG_PARITY) a.block = true := hbit
    simp [hv, hread, hleave]
  unfold writeCfgParity
  extract_lets ok old u v
  have hu : u = v := congrArg (fun l => parityFound s { acts := l }) hacts
  rw [hu]
  rfl

theorem exec_glbCfgParityWrite (s : State) {a : SafeAct} {v : Word} (hreach : reach s R.GLB_CFG_PARITY = true) :
    exec (.glbCfgParityWrite v) (parityFound s { acts := [a] }) = done (writeCfgParity (parityFound s { acts := [a] }) v) := by
  have hreach' : reach (parityFound s { acts := [a] }) R.GLB_CFG_PARITY = true := hreach
  have hclean : rewritten (parityFound s { acts := [a] }) R.GLB_CFG_PARITY = parityFound s { acts := [a] } := rfl
  show done (access _ R.GLB_CFG_PARITY fun s => writeCfgParity s v) = _
  rw [access_reach _ hreach' (lockedOff_of_setOf_none rfl), hclean]

/-- A register whose shadow is good is restored. -/
theorem sweepInst_restored {s : State} {o b i : Nat} (hp : parityOf o = some (b, i)) :
    sweepInst (parityFound s { mainBad := [o], shadowBad := [] }) b i =
      let t := safeEntered s { mainBad := [o], shadowBad := [], acts := [newAct b i true] } [] b i
      if cidxOk t then t else leaveDue t := sweepInst_one hp

/-- One whose shadow failed too stays as it is, and its block is held. -/
theorem sweepInst_held {s : State} {o b i : Nat} (hp : parityOf o = some (b, i)) :
    sweepInst (parityFound s { mainBad := [o], shadowBad := [o] }) b i =
      let t := safeEntered s { mainBad := [o], shadowBad := [o], acts := [newAct b i false] } [o] b i
      if cidxOk t then t else leaveDue t := by
  have hmem : [o].contains o = true := by simp
  have hone := sweepInst_one (s := s) (sb := [o]) hp
  rw [hmem] at hone
  exact hone

/-! #### The statement -/

/-- A block of the line in its safe action mutes every phase (R80, R507). -/
theorem hardMute_of_act {s : State} {a : SafeAct} (ha : a ∈ s.par.acts) (hmute : mutingBlock a.block = true) (p : Nat) :
    (hardMute s p).isSome = true := by
  have hany : (s.par.acts.any fun a => mutingBlock a.block) = true := List.any_eq_true.2 ⟨a, ha, hmute⟩
  unfold hardMute
  rw [hany, if_pos rfl]
  split
  · rfl
  · split
    · rfl
    · split
      · rfl
      · rfl

/-- An action that is left or held is an action of the same part of its block. -/
theorem mem_acts_entered {p q : Parity} {l : List Nat} {a : SafeAct} (hacts : p.acts = [a])
    (h : q = { p with mainBad := l } ∨ q = { p with mainBad := l, acts := heldActs p.acts a.block }) :
    ∃ x ∈ q.acts, x.block = a.block ∧ x.inst = a.inst ∧ (a.held = true → a.leaving = false → x.held = true ∧ x.leaving = false) := by
  rcases h with rfl | rfl
  · exact ⟨a, by rw [hacts]; exact List.mem_singleton_self a, rfl, rfl, fun hh hl => ⟨hh, hl⟩⟩
  · refine ⟨{ a with held := true, leaving := false }, ?_, rfl, rfl, fun _ _ => ⟨rfl, rfl⟩⟩
    simp [heldActs, hacts]

/-- Settles O22: a register that fails begins its block's action and counts an event (`safeEntered`), which leave the guard itself alone
(`guardKept_beginSafe`, `guardHeld_faultRaw`); a written bit makes the block leave (`leaveDue_one`). -/
theorem parityFailureEntersTheSafeAction : Obligations.ParityFailureEntersTheSafeAction := by
  unfold Obligations.ParityFailureEntersTheSafeAction
  intro s o b i hreset hp hpar
  have hb := parityOf_block hp
  refine ⟨fun hcidx => ?_, ?_, ?_⟩
  · have hexec := exec_paritySweep_one hreset hp hpar (.inl rfl)
    obtain ⟨hguard, hbit, hok⟩ := safeEntered_guard s { mainBad := [o], shadowBad := [], acts := [newAct b i true] } [] i hb
    rw [sweepInst_restored hp] at hexec
    dsimp only at hexec
    rw [hok, hcidx, if_pos rfl] at hexec
    obtain ⟨x, hx, hblock, hinst, -⟩ := mem_acts_entered (a := newAct b i true) rfl hguard
    have hleft : (safeEntered s { mainBad := [o], shadowBad := [], acts := [newAct b i true] } [] b i).par.mainBad = [] :=
      hguard.elim (fun h => by rw [h]) fun h => by rw [h]
    generalize safeEntered s { mainBad := [o], shadowBad := [], acts := [newAct b i true] } [] b i = t at *
    have hin : x ∈ (settle t).par.acts := by rw [settle_par]; exact hx
    refine completes_done hexec ⟨?_, by rw [settle_rdN _ (by decide)]; exact hbit, by rw [settle_par, hleft], fun hmuting => ?_⟩
    · exact List.any_eq_true.2 ⟨x, hin, by rw [hblock, hinst]; simp [newAct]⟩
    · have hmute : ∀ p, (hardMute (settle t) p).isSome = true := hardMute_of_act hin (by rw [hblock]; exact hmuting)
      exact ⟨hmute, (settled_settle t).not_onAir fun p => Option.isSome_iff_ne_none.1 (hmute p)⟩
  · have hexec := exec_paritySweep_one hreset hp hpar (.inr rfl)
    obtain ⟨hguard, hbit, -⟩ := safeEntered_guard s { mainBad := [o], shadowBad := [o], acts := [newAct b i false] } [o] i hb
    rw [sweepInst_held hp] at hexec
    dsimp only at hexec
    obtain ⟨x, hx, hblock, hinst, hheld⟩ := mem_acts_entered (a := newAct b i false) rfl hguard
    obtain ⟨hheld, hstays⟩ := hheld rfl rfl
    have hleft : (safeEntered s { mainBad := [o], shadowBad := [o], acts := [newAct b i false] } [o] b i).par.mainBad = [o] :=
      hguard.elim (fun h => by rw [h]) fun h => by rw [h]
    have hnone : (safeEntered s { mainBad := [o], shadowBad := [o], acts := [newAct b i false] } [o] b i).par.acts.filter (·.leaving) = [] :=
      hguard.elim (fun h => by rw [h]; rfl) fun h => by rw [h]; simp [heldActs, newAct]
    generalize safeEntered s { mainBad := [o], shadowBad := [o], acts := [newAct b i false] } [o] b i = t at *
    rw [leaveDue, hnone, List.foldl_nil, ite_self] at hexec
    refine completes_done hexec ⟨⟨x, by rw [settle_par]; exact hx, hblock, hinst, hheld, hstays⟩, by rw [settle_par, hleft], ?_⟩
    rw [settle_rdN _ (by decide)]
    exact hbit
  · intro a v hreach hblock hleave hv hbit u
    have hexec : exec (.glbCfgParityWrite v) u = _ := exec_glbCfgParityWrite s hreach
    rw [writeCfgParity_one s hleave hv hbit] at hexec
    refine ⟨fun hcidx => ?_, fun hcidx => ?_⟩
    · rw [hcidx] at hexec
      exact completes_done hexec (by rw [if_pos rfl, settle_par]; rfl)
    · rw [hcidx] at hexec
      dsimp only at hexec
      rw [if_neg Bool.false_ne_true, leaveDue_one s rfl] at hexec
      obtain ⟨hcleared, hclear, hother⟩ := bitCleared_spec (parityFound s {}) hblock
      have hside := sideKept_backInService (bitCleared (parityFound s {}) a.block) { a with leaving := true, held := false }
      refine completes_done hexec ⟨?_, ?_, fun h1 h3 off hoff hne => ?_⟩
      · rw [settle_par, CoreKept.par (SideKept.core hside), hcleared]
        rfl
      · rw [settle_rdN _ (by decide), rdN, SideKept.rd hside (by decide)]
        exact hclear
      · have hsame := backInService_other (bitCleared (parityFound s {}) a.block) (a := { a with leaving := true, held := false }) h1 h3
        rw [settle_rd _ hoff, hsame, hother off hne]
        rfl

end Sys2Proof.Machine

/-! ### The covered sets and the locks (R82 to R88, R505, R506) -/

namespace Sys2Proof.Machine

/-! #### A pass (R82 to R85) -/

theorem bit_setSetBit_same (s : State) {f : Fld} {n : Nat} (b : Bool) (hl : f.lo ≤ f.hi) (hh : f.hi < 32) (hn : n < f.hi + 1 - f.lo) :
    bit (getF (setSetBit s f n b) f) n = b := by
  rw [setSetBit, getF_setF_same _ _ _ hl hh, bit_eq_testBit, Nat.testBit_mod_two_pow, setBits_testBit _ _ le_rfl]
  cases b <;> simp [hn, b2n]

/-- Another field than the set's own is as before. -/
theorem getF_setSetBit_other (s : State) {f g : Fld} (n : Nat) (b : Bool) (hl : f.lo ≤ f.hi) (hh : f.hi < 32)
    (h : g.off ≠ f.off ∨ f.hi < g.lo ∨ g.hi < f.lo) : getF (setSetBit s f n b) g = getF s g := getF_setF_other s f g _ hl hh h

theorem rd_setSetBit_ne (s : State) (f : Fld) (n : Nat) (b : Bool) {o : Nat} (h : o ≠ f.off) : rd (setSetBit s f n b) o = rd s o :=
  rd_setF_ne s f _ h

theorem crcReg_bounds {n : Nat} (hn : n < 4) : R.GLB_CRC_CUR n < R.GLB_CRC_STAT ∧ R.GLB_CRC_REF n < R.GLB_CRC_CUR 0 ∧ R.GLB_LOCK < R.GLB_CRC_REF n := by
  unfold R.GLB_CRC_CUR R.GLB_CRC_STAT R.GLB_CRC_REF R.GLB_LOCK
  omega

/-- The set matches its committed reference. -/
def crcAgrees (s : State) (n : Nat) : Bool := committed s n && setCrc s n == rdN s (R.GLB_CRC_REF n)

/-- What a pass has found. -/
def crcFound (s : State) (n : Nat) : State := setSetBit (wrN s (R.GLB_CRC_CUR n) (setCrc s n)) F.GLB_CRC_STAT_MATCH n (crcAgrees s n)

theorem committed_congr {s t : State} (h : getF t F.GLB_CRC_STAT_COMMITTED = getF s F.GLB_CRC_STAT_COMMITTED) (n : Nat) :
    committed t n = committed s n := by rw [committed, h, committed]

theorem crcFound_spec (s : State) {n : Nat} (hn : n < 4) : (crcFound s n).crc = s.crc ∧ committed (crcFound s n) n = committed s n ∧
    rdN (crcFound s n) (R.GLB_CRC_CUR n) = setCrc s n % 2 ^ 32 ∧ bit (getF (crcFound s n) F.GLB_CRC_STAT_MATCH) n = crcAgrees s n := by
  obtain ⟨hcur, -, -⟩ := crcReg_bounds hn
  refine ⟨rfl, committed_congr ?_ n, ?_, bit_setSetBit_same _ _ (by decide) (by decide) hn⟩
  · exact (getF_setSetBit_other _ n _ (by decide) (by decide) (by decide)).trans (getF_wrN_ne _ _ _ _ (ne_of_gt hcur))
  · rw [rdN, crcFound, rd_setSetBit_ne _ _ _ _ (ne_of_lt hcur), ← rdN, rdN_wrN, if_pos rfl]

/-- A pass compares the set with its reference, and what it found decides what follows. -/
theorem crcPass_eq (s : State) {n : Nat} (hn : n < 4) : crcPass s n =
    if !committed s n then crcFound s n else if crcAgrees s n then crcMatch (crcFound s n) n else crcMismatch (crcFound s n) n := by
  obtain ⟨hcur, href, -⟩ := crcReg_bounds hn
  have hcommitted : committed (wrN s (R.GLB_CRC_CUR n) (setCrc s n)) n = committed s n := committed_congr (getF_wrN_ne _ _ _ _ (ne_of_gt hcur)) n
  have hne : R.GLB_CRC_REF n ≠ R.GLB_CRC_CUR n := by unfold R.GLB_CRC_REF R.GLB_CRC_CUR; omega
  have href' : rdN (wrN s (R.GLB_CRC_CUR n) (setCrc s n)) (R.GLB_CRC_REF n) = rdN s (R.GLB_CRC_REF n) := by rw [rdN, wrN, rd_wr_ne _ _ hne, rdN]
  obtain ⟨-, hfound, -⟩ := crcFound_spec s hn
  unfold crcPass
  extract_lets c u ok v
  have hu : u = wrN s (R.GLB_CRC_CUR n) (setCrc s n) := rfl
  have hok : ok = crcAgrees s n := by
    simp only [ok, hu, hcommitted, href']
    rfl
  have hv : v = crcFound s n := by simp only [v, hok, hu, crcFound]
  rw [hv, hok, hfound]

/-- A mismatch (R85). -/
def mismatchNoted (s : State) (n : Nat) : State :=
  { s with crc := { s.crc with run := fdel s.crc.run n, mute := true, tenBad := s.crc.tenBad || n == 1 } }

theorem mismatchNoted_spec (s : State) (n : Nat) : (mismatchNoted s n).regs = s.regs ∧ (mismatchNoted s n).crc.mute = true := ⟨rfl, rfl⟩

theorem crcMismatch_eq (s : State) (n : Nat) : crcMismatch s n =
    raise (mismatchNoted (setSetBit s F.GLB_CRC_STAT_OK2 n false) n) F.GLB_FAULT_SUM_CFG_CRC := rfl

theorem crcMismatch_spec (s : State) {n : Nat} (hn : n < 4) : (crcMismatch s n).crc.mute = true ∧
    isSet (crcMismatch s n) F.GLB_FAULT_SUM_CFG_CRC = true ∧ bit (getF (crcMismatch s n) F.GLB_CRC_STAT_OK2) n = false ∧
    getF (crcMismatch s n) F.GLB_CRC_STAT_MATCH = getF s F.GLB_CRC_STAT_MATCH ∧ rd (crcMismatch s n) (R.GLB_CRC_CUR n) = rd s (R.GLB_CRC_CUR n) := by
  have hregs := (mismatchNoted_spec (setSetBit s F.GLB_CRC_STAT_OK2 n false) n).1
  obtain ⟨hcur, -, -⟩ := crcReg_bounds hn
  rw [crcMismatch_eq]
  refine ⟨?_, isSet_raise _ _ rfl (by decide), ?_, ?_, ?_⟩
  · rw [raise_crc, (mismatchNoted_spec _ n).2]
  · rw [getF_raise_other _ _ _ (by decide) (by decide) (by decide), getF_congr hregs, bit_setSetBit_same _ _ (by decide) (by decide) hn]
  · rw [getF_raise_other _ _ _ (by decide) (by decide) (by decide), getF_congr hregs, getF_setSetBit_other _ _ _ (by decide) (by decide) (by decide)]
  · have hsum : R.GLB_CRC_CUR n ≠ F.GLB_FAULT_SUM_CFG_CRC.off := by
      unfold R.GLB_CRC_CUR F.GLB_FAULT_SUM_CFG_CRC R.GLB_FAULT_SUM
      dsimp only
      omega
    rw [raise, rd_setF_ne _ _ _ hsum, rd_congr hregs, rd_setSetBit_ne _ _ _ _ (ne_of_lt hcur)]

/-- Matching passes in a row, at most 2. -/
def crcRun (s : State) (n : Nat) : Nat := satN 2 (fgetD s.crc.run n 0 + 1)

/-- A match (R84). -/
def matchNoted (s : State) (n : Nat) : State :=
  { s with crc := { s.crc with
      run := fput s.crc.run n (crcRun s n), matched := BitVec.ofNat 4 (setBits s.crc.matched.toNat n n 1),
      tenBad := s.crc.tenBad && !(n == 1 && crcRun s n == 2) } }

theorem crcMatch_eq (s : State) (n : Nat) : crcMatch s n = setSetBit (matchNoted s n) F.GLB_CRC_STAT_OK2 n (crcRun s n == 2) := rfl

theorem crcRun_two (s : State) (n : Nat) : (crcRun s n == 2) = decide (0 < fgetD s.crc.run n 0) := by
  unfold crcRun satN
  rw [Bool.eq_iff_iff, beq_iff_eq, decide_eq_true_iff]
  split <;> omega

theorem matchNoted_spec (s : State) {n : Nat} (hn : n < 4) : (matchNoted s n).regs = s.regs ∧ (matchNoted s n).crc.mute = s.crc.mute ∧
    everMatched (matchNoted s n) n = true := by
  refine ⟨rfl, rfl, ?_⟩
  show bit (BitVec.ofNat 4 (setBits s.crc.matched.toNat n n 1)).toNat n = true
  rw [BitVec.toNat_ofNat, bit_eq_testBit, Nat.testBit_mod_two_pow, setBits_testBit _ _ le_rfl]
  simp [hn]

theorem crcMatch_spec (s : State) {n : Nat} (hn : n < 4) : (crcMatch s n).crc.mute = s.crc.mute ∧ everMatched (crcMatch s n) n = true ∧
    bit (getF (crcMatch s n) F.GLB_CRC_STAT_OK2) n = decide (0 < fgetD s.crc.run n 0) ∧
    getF (crcMatch s n) F.GLB_CRC_STAT_MATCH = getF s F.GLB_CRC_STAT_MATCH ∧ rd (crcMatch s n) (R.GLB_CRC_CUR n) = rd s (R.GLB_CRC_CUR n) := by
  obtain ⟨hregs, hmute, hmatched⟩ := matchNoted_spec s hn
  obtain ⟨hcur, -, -⟩ := crcReg_bounds hn
  rw [crcMatch_eq]
  refine ⟨hmute, hmatched, ?_, ?_, ?_⟩
  · rw [bit_setSetBit_same _ _ (by decide) (by decide) hn, crcRun_two]
  · rw [getF_setSetBit_other _ _ _ (by decide) (by decide) (by decide), getF_congr hregs]
  · rw [rd_setSetBit_ne _ _ _ _ (ne_of_lt hcur), rd_congr hregs]

theorem hardMute_of_crc {s : State} (h : s.crc.mute = true) (p : Nat) : (hardMute s p).isSome = true := by
  unfold hardMute
  rw [h, if_pos rfl]
  split
  · rfl
  · split
    · rfl
    · rfl

/-- What a pass leaves (R82 to R85). -/
theorem completes_crcPass (s : State) (n : Fin 4) (hreset : s.pins.inReset = false) : Completes (.crcPass n) s fun t =>
    rdN t (R.GLB_CRC_CUR n.val) = setCrc s n.val % 2 ^ 32 ∧ bit (getF t F.GLB_CRC_STAT_MATCH) n.val = crcAgrees s n.val ∧
      (committed s n.val = false → t.crc = s.crc) ∧
      (committed s n.val = true → setCrc s n.val ≠ rdN s (R.GLB_CRC_REF n.val) → t.crc.mute = true ∧
        isSet t F.GLB_FAULT_SUM_CFG_CRC = true ∧ bit (getF t F.GLB_CRC_STAT_OK2) n.val = false ∧ (∀ p, (hardMute t p).isSome) ∧
        ∀ j ∈ t.jobs, ∀ c ∈ j.copies, c.st ≠ .onAir) ∧
      (committed s n.val = true → setCrc s n.val = rdN s (R.GLB_CRC_REF n.val) → t.crc.mute = s.crc.mute ∧
        everMatched t n.val = true ∧ bit (getF t F.GLB_CRC_STAT_OK2) n.val = decide (0 < fgetD s.crc.run n.val 0)) := by
  obtain ⟨hcrc, -, hcur, hmatch⟩ := crcFound_spec s n.isLt
  have hexec : exec (.crcPass n) s = done (crcPass s n.val) := by
    show execCrcPass n s = _
    rw [execCrcPass, hreset, if_neg Bool.false_ne_true]
  rw [crcPass_eq s n.isLt] at hexec
  have hlow : R.GLB_CRC_CUR n.val < 0x8000 := (crcReg_bounds n.isLt).1.trans (by decide)
  cases hc : committed s n.val
  · rw [hc] at hexec
    refine completes_done hexec ⟨?_, ?_, fun _ => ?_, nofun, nofun⟩
    · rw [settle_rdN _ hlow]; exact hcur
    · rw [settle_getF _ (by decide)]; exact hmatch
    · rw [settle_crc]; exact hcrc
  · rw [hc] at hexec
    cases hagree : crcAgrees s n.val
    · rw [hagree, Bool.not_true, if_neg Bool.false_ne_true, if_neg Bool.false_ne_true] at hexec
      obtain ⟨hmute, hsum, hok2, hkept, hread⟩ := crcMismatch_spec (crcFound s n.val) n.isLt
      have hmuted : (settle (crcMismatch (crcFound s n.val) n.val)).crc.mute = true := by rw [settle_crc]; exact hmute
      have hall := hardMute_of_crc hmuted
      have hdiffer : setCrc s n.val ≠ rdN s (R.GLB_CRC_REF n.val) := by
        simpa [crcAgrees, hc] using hagree
      refine completes_done hexec ⟨?_, ?_, nofun, fun _ _ => ⟨hmuted, ?_, ?_, hall, ?_⟩, fun _ h => absurd h hdiffer⟩
      · rw [settle_rdN _ hlow, rdN, hread]; exact hcur
      · rw [settle_getF _ (by decide), hkept, hmatch, hagree]
      · rw [settle_isSet _ (by decide)]; exact hsum
      · rw [settle_getF _ (by decide)]; exact hok2
      · exact (settled_settle _).not_onAir fun p => Option.isSome_iff_ne_none.1 (hall p)
    · rw [hagree, Bool.not_true, if_neg Bool.false_ne_true, if_pos rfl] at hexec
      obtain ⟨hmute, hmatched, hok2, hkept, hread⟩ := crcMatch_spec (crcFound s n.val) n.isLt
      have hsame : setCrc s n.val = rdN s (R.GLB_CRC_REF n.val) := by
        simpa [crcAgrees, hc] using hagree
      refine completes_done hexec ⟨?_, ?_, nofun, fun _ h => absurd hsame h, fun _ _ => ⟨?_, ?_, ?_⟩⟩
      · rw [settle_rdN _ hlow, rdN, hread]; exact hcur
      · rw [settle_getF _ (by decide), hkept, hmatch, hagree]
      · rw [settle_crc, hmute, hcrc]
      · rw [everMatched, settle_crc]; exact hmatched
      · rw [settle_getF _ (by decide), hok2, hcrc]

end Sys2Proof.Machine

namespace Sys2Proof.Machine

/-! #### References (R83, R506) -/

/-- A refused write is counted and logged (R7, R88). -/
theorem lockViolation_spec (s : State) (fn : Nat) {off : Nat} (hoff : off < 2 ^ 16) : RegsOnly s (lockViolation s fn off) ∧
    isSet (lockViolation s fn off) F.GLB_FAULT_SUM_LOCK_VIOLATION = true ∧ getF (lockViolation s fn off) F.GLB_LOCKV_LOG_OFFSET = off ∧
    SameRegs s (lockViolation s fn off) [R.GLB_FAULT_SUM, R.GLB_LOCKV_CNT, R.GLB_LOCKV_LOG] := by
  have honly : OnlyRegs s (lockViolation s fn off) [R.GLB_FAULT_SUM, R.GLB_LOCKV_CNT, R.GLB_LOCKV_LOG] :=
    ((((OnlyRegs.refl s _).setF F.GLB_FAULT_SUM_LOCK_VIOLATION 1 (by decide)).setF F.GLB_LOCKV_CNT_COUNT _ (by decide)).setF
      F.GLB_LOCKV_LOG_FUNC fn (by decide)).setF F.GLB_LOCKV_LOG_OFFSET off (by decide)
  refine ⟨honly.1, ?_, ?_, honly.2⟩
  · unfold lockViolation
    rw [isSet_setF_other _ _ _ _ (by decide) (by decide) (by decide), isSet_setF_other _ _ _ _ (by decide) (by decide) (by decide), bumpF,
      isSet_setF_other _ _ _ _ (by decide) (by decide) (by decide), isSet_raise _ _ rfl (by decide)]
  · exact (getF_setF_same _ _ _ (by decide) (by decide)).trans (Nat.mod_eq_of_lt hoff)

theorem setOf_low {off : Nat} (h : off < 0x2448) : setOf off = none := by
  have hlist : [0x2448, 0x244C, 0x2488, 0x248C, 0x24C8, 0x24CC].contains off = false := by
    simp
    omega
  unfold setOf
  rw [hlist, if_neg Bool.false_ne_true, if_neg (by omega), if_neg (by omega), if_neg (by omega), if_neg (by omega)]

/-- What a write of a reference leaves (R83). -/
theorem completes_crcRefWrite {s : State} (n : Fin 4) (v : Word) (hs : Settled s) (hreach : reach s (R.GLB_CRC_REF n.val) = true) :
    Completes (.glbCrcRefWrite n v) s fun t => RegsOnly (rewritten s (R.GLB_CRC_REF n.val)) t ∧ committed t n.val = true ∧
      (committed s n.val = false → rd t (R.GLB_CRC_REF n.val) = v ∧ SameRegs s t [R.GLB_CRC_REF n.val, R.GLB_CRC_STAT]) ∧
      (committed s n.val = true → rd t (R.GLB_CRC_REF n.val) = rd s (R.GLB_CRC_REF n.val) ∧
        isSet t F.GLB_FAULT_SUM_LOCK_VIOLATION = true ∧ getF t F.GLB_LOCKV_LOG_OFFSET = R.GLB_CRC_REF n.val) := by
  have hlow : R.GLB_CRC_REF n.val < 0x30 := by unfold R.GLB_CRC_REF; omega
  have hstat : R.GLB_CRC_REF n.val ≠ R.GLB_CRC_STAT := ne_of_lt (hlow.trans (by decide))
  have hexec : exec (.glbCrcRefWrite n v) s = done (writeCrcRef (rewritten s (R.GLB_CRC_REF n.val)) n.val v) := by
    show done (access s (R.GLB_CRC_REF n.val) fun s => writeCrcRef s n.val v) = _
    rw [access_reach _ hreach (lockedOff_of_setOf_none (setOf_low (hlow.trans (by decide))))]
  have hwritten : committed (rewritten s (R.GLB_CRC_REF n.val)) n.val = committed s n.val := rfl
  have hsettled := hs.rewritten (R.GLB_CRC_REF n.val)
  have hread : ∀ o, rd (rewritten s (R.GLB_CRC_REF n.val)) o = rd s o := rd_rewritten s _
  generalize rewritten s (R.GLB_CRC_REF n.val) = u at hexec hwritten hsettled hread ⊢
  unfold writeCrcRef at hexec
  cases hc : committed s n.val
  · rw [hwritten, hc, if_neg Bool.false_ne_true] at hexec
    have hregs : RegsOnly u (setSetBit (wr u (R.GLB_CRC_REF n.val) v) F.GLB_CRC_STAT_COMMITTED n.val true) := ((RegsOnly.refl u).wr _ _).setF _ _
    refine completes_settled hexec (hregs.settled hsettled) ⟨hregs, bit_setSetBit_same _ true (by decide) (by decide) n.isLt, fun _ => ⟨?_, ?_⟩, nofun⟩
    · rw [rd_setSetBit_ne _ _ _ _ hstat, rd_wr, if_pos rfl]
    · intro o ho
      simp only [List.mem_cons, List.not_mem_nil, or_false, not_or] at ho
      rw [rd_setSetBit_ne _ _ _ _ ho.2, rd_wr_ne _ _ ho.1, hread]
  · rw [hwritten, hc, if_pos rfl] at hexec
    obtain ⟨hregs, hviolation, hlog, hsame⟩ := lockViolation_spec u 0 (off := R.GLB_CRC_REF n.val) (hlow.trans (by decide))
    have hkept : getF (lockViolation u 0 (R.GLB_CRC_REF n.val)) F.GLB_CRC_STAT_COMMITTED = getF u F.GLB_CRC_STAT_COMMITTED :=
      RdKept.getF (f := F.GLB_CRC_STAT_COMMITTED) ⟨hsame _ (by decide)⟩
    have href : R.GLB_CRC_REF n.val ∉ [R.GLB_FAULT_SUM, R.GLB_LOCKV_CNT, R.GLB_LOCKV_LOG] := by
      unfold R.GLB_CRC_REF R.GLB_FAULT_SUM R.GLB_LOCKV_CNT R.GLB_LOCKV_LOG
      simp
      omega
    exact completes_settled hexec (hregs.settled hsettled) ⟨hregs, (committed_congr hkept _).trans (hwritten.trans hc), nofun, fun _ =>
      ⟨(hsame _ href).trans (hread _), hviolation, hlog⟩⟩

/-! #### Locks (R86, R380, R435) -/

/-- GLB_LOCK with the bits that a write sets. -/
def lockSet (s : State) (v : Word) : State := wrN s R.GLB_LOCK (Nat.lor (rdN s R.GLB_LOCK) (v.toNat % 16))

theorem bit_lor (a b i : Nat) : bit (Nat.lor a b) i = (bit a i || bit b i) := by
  rw [bit_eq_testBit, bit_eq_testBit, bit_eq_testBit]
  exact Nat.testBit_or a b i

theorem bit_mod_sixteen (a : Nat) {i : Nat} (hi : i < 4) : bit (a % 16) i = bit a i := by
  rw [bit_eq_testBit, bit_eq_testBit, show (16 : Nat) = 2 ^ 4 from rfl, Nat.testBit_mod_two_pow]
  simp [hi]

/-- Lock bits only rise (R86). -/
theorem bit_lockSet (s : State) (v : Word) {i : Nat} (hi : i < 4) : bit (rdN (lockSet s v) R.GLB_LOCK) i =
    (bit (rdN s R.GLB_LOCK) i || bit v.toNat i) := by
  have hword : bit (Nat.lor (rdN s R.GLB_LOCK) (v.toNat % 16) % 2 ^ 32) i = bit (Nat.lor (rdN s R.GLB_LOCK) (v.toNat % 16)) i := by
    rw [bit_eq_testBit, bit_eq_testBit, Nat.testBit_mod_two_pow]
    simp [show i < 32 by omega]
  rw [lockSet, rdN_wrN, if_pos rfl, hword, bit_lor, bit_mod_sixteen _ hi]

/-- Validating the table writes TEN alone. -/
theorem onlyRegs_validateTable (s : State) : OnlyRegs s (validateTable s) [R.TEN_STATUS, R.TEN_EVT] := by
  have hstored := (OnlyRegs.refl s [R.TEN_STATUS, R.TEN_EVT]).setF F.TEN_STATUS_BAD (tableBad s) (by decide)
  unfold validateTable
  extract_lets bad u
  by_cases h : bad = 0
  · rw [if_pos h]
    exact hstored
  · rw [if_neg h]
    exact hstored.setF F.TEN_EVT_INVALID 1 (by decide)

theorem storeOnly_storePolicy (s : State) : StoreOnly s (storePolicy s) := by
  have hread := storeOnly_readTriple s (sysCopies 0) 0 8 fun _ => none
  unfold storePolicy
  dsimp only
  generalize (readTriple s (sysCopies 0) 0 8 fun _ => none).2 = u at hread ⊢
  exact .ite hread (hread.trans (storeOnly_writeRecord u _ _ _ _))

theorem writeLock_eq (s : State) (v : Word) : writeLock s v =
    let u := if bit (Nat.lor (rdN s R.GLB_LOCK) (v.toNat % 16)) 1 && !bit (rdN s R.GLB_LOCK) 1 then validateTable (lockSet s v) else lockSet s v
    if bit (Nat.lor (rdN s R.GLB_LOCK) (v.toNat % 16)) 3 && !bit (rdN s R.GLB_LOCK) 3 then storePolicy u else u := rfl

/-- The lock register, the time and the lanes as setting the bits leaves them. -/
theorem writeLock_keeps (s : State) (v : Word) : rd (writeLock s v) R.GLB_LOCK = rd (lockSet s v) R.GLB_LOCK ∧
    (writeLock s v).mains = s.mains ∧ (writeLock s v).lanes = s.lanes := by
  have hset : (lockSet s v).mains = s.mains ∧ (lockSet s v).lanes = s.lanes := ⟨rfl, rfl⟩
  have hvalid := onlyRegs_validateTable (lockSet s v)
  rw [writeLock_eq]
  extract_lets u
  have hu : rd u R.GLB_LOCK = rd (lockSet s v) R.GLB_LOCK ∧ u.mains = s.mains ∧ u.lanes = s.lanes := by
    unfold u
    split
    · exact ⟨hvalid.2 _ (by decide), hvalid.1.mains.trans hset.1, hvalid.1.lanes.trans hset.2⟩
    · exact ⟨rfl, hset⟩
  clear_value u
  have hpolicy := storeOnly_storePolicy u
  split
  · exact ⟨(hpolicy.2 _ (by decide)).trans hu.1, hpolicy.mains.trans hu.2.1, hpolicy.lanes.trans hu.2.2⟩
  · exact hu

/-- A write that sets neither TEN nor BOOT anew sets its bits and no more. -/
theorem writeLock_plain (s : State) {v : Word} (h1 : bit v.toNat 1 = false) (h3 : bit v.toNat 3 = false) : writeLock s v = lockSet s v := by
  have hbit : ∀ i < 4, bit v.toNat i = false → (bit (Nat.lor (rdN s R.GLB_LOCK) (v.toNat % 16)) i && !bit (rdN s R.GLB_LOCK) i) = false := by
    intro i hi hv
    rw [bit_lor, bit_mod_sixteen _ hi, hv, Bool.or_false, Bool.and_not_self]
  rw [writeLock_eq, hbit 1 (by decide) h1, hbit 3 (by decide) h3]
  rfl

/-- Settles O23: a pass by what it found (`crcPass_eq`), a reference by whether it is committed, the locks by `bit_lockSet`. -/
theorem coveredSetsAreCheckedAndLocked : Obligations.CoveredSetsAreCheckedAndLocked := by
  unfold Obligations.CoveredSetsAreCheckedAndLocked
  intro s n v set
  refine ⟨completes_crcPass s n, fun hs hreach => completes_crcRefWrite n v hs hreach, fun hreach => ?_⟩
  have hexec : exec (.glbLockWrite v) s = done (writeLock (rewritten s R.GLB_LOCK) v) := by
    show done (access s R.GLB_LOCK fun s => writeLock s v) = _
    rw [access_reach _ hreach (lockedOff_of_setOf_none rfl)]
  obtain ⟨hlock, hmains, hlanes⟩ := writeLock_keeps (rewritten s R.GLB_LOCK) v
  refine completes_done hexec ⟨fun i hi => ?_, (settle_mains _).trans hmains, (settle_lanes _).trans hlanes, fun hs h1 h3 => ?_⟩
  · rw [settle_rdN _ (by decide), rdN, hlock, ← rdN, bit_lockSet _ _ hi]
    rfl
  · have honly : OnlyRegs (rewritten s R.GLB_LOCK) (lockSet (rewritten s R.GLB_LOCK) v) [R.GLB_LOCK] :=
      ⟨(RegsOnly.refl _).wrN _ _, fun o ho => rd_wr_ne _ _ (List.ne_of_not_mem_cons ho)⟩
    rw [writeLock_plain _ h1 h3, settle_of_settled (honly.1.settled (hs.rewritten _))]
    exact honly

end Sys2Proof.Machine

/-! ### Transmit commands (R60, R260, R356, R360, R361) -/

namespace Sys2Proof.Machine

/-! #### One command changes -/

/-- One command alone differs. -/
structure OneCmd (s : State) (uid : Nat) (c : Cmd) (t : State) : Prop where
  rest : { t with cmds := s.cmds } = s
  found : findCmd t uid = some c
  others : ∀ v, v ≠ uid → findCmd t v = findCmd s v

/-- A change of a command keeps the numbers of all. -/
theorem findCmd_updCmd (s : State) (uid v : Nat) {f : Cmd → Cmd} (hf : ∀ d, (f d).uid = d.uid) :
    findCmd (updCmd s uid f) v = (findCmd s v).map fun d => if d.uid = uid then f d else d := by
  have hkept : ((fun d : Cmd => d.uid == v) ∘ fun d : Cmd => if d.uid = uid then f d else d) = fun d => d.uid == v := by
    funext d
    dsimp only [Function.comp]
    split
    · rw [hf]
    · rfl
  show List.find? _ (List.map _ s.cmds) = _
  rw [List.find?_map, hkept]
  rfl

theorem findCmd_uid {s : State} {uid : Nat} {c : Cmd} (h : findCmd s uid = some c) : c.uid = uid := by
  have hfound := List.find?_some h
  exact beq_iff_eq.1 hfound

theorem OneCmd.updCmd {s t : State} {uid : Nat} {c : Cmd} (h : OneCmd s uid c t) {f : Cmd → Cmd} (hf : ∀ d, (f d).uid = d.uid) :
    OneCmd s uid (f c) (Machine.updCmd t uid f) where
  rest := h.rest
  found := by rw [findCmd_updCmd t uid uid hf, h.found, Option.map_some, if_pos (findCmd_uid h.found)]
  others v hv := by
    rw [findCmd_updCmd t uid v hf, h.others v hv]
    cases hfind : findCmd s v with
    | none => rfl
    | some d => rw [Option.map_some, if_neg (by rw [findCmd_uid hfind]; exact hv)]

theorem OneCmd.start {s : State} {uid : Nat} {c : Cmd} (h : findCmd s uid = some c) : OneCmd s uid c s := ⟨rfl, h, fun _ _ => rfl⟩

theorem OneCmd.settled {s t : State} {uid : Nat} {c : Cmd} (h : OneCmd s uid c t) (hs : Settled s) : Settled t := by
  have hjobs : t.jobs = s.jobs := (congrArg State.jobs h.rest :)
  have htx : t.tx = s.tx := (congrArg State.tx h.rest :)
  exact hs.congr hjobs htx fun p => (congrArg (fun u => hardMute u p) h.rest :)

/-- The command as it waits for the line. -/
def waitingCmd (s : State) (c : Cmd) (payload : List Byte) (label : Nat) (enc : Bool) (ext : List Byte) : Cmd :=
  { c with st := .waiting, deadline := deadlineOf s c, payload := payload, label := label, enc := enc, ext := ext }

theorem oneCmd_waitLine {s : State} {c : Cmd} (h : findCmd s c.uid = some c) (payload : List Byte) (label : Nat) (enc : Bool) (ext : List Byte) :
    OneCmd s c.uid (waitingCmd s c payload label enc ext)
      (waitLine s c fun d => { d with payload := payload, label := label, enc := enc, ext := ext }) :=
  (OneCmd.start h).updCmd (f := fun d => { d with
    st := .waiting, deadline := deadlineOf s c, payload := payload, label := label, enc := enc, ext := ext }) fun _ => rfl

/-! #### A session takes the command (R260, R271, R356) -/

/-- The command waits, and has been told that it is put off (R260). -/
def Deferred (uid : Nat) (t : State) : Prop :=
  (findCmd t uid).map (·.st) = some .waiting ∧ (findCmd t uid).map (·.deferred) = some true

/-- A change of a command that keeps its state and its deferral. -/
theorem Deferred.updCmd {uid : Nat} {t : State} (h : Deferred uid t) {f : Cmd → Cmd} (hf : ∀ d, (f d).uid = d.uid)
    (hst : ∀ d, (f d).st = d.st) (hdef : ∀ d, (f d).deferred = d.deferred) : Deferred uid (Machine.updCmd t uid f) := by
  unfold Deferred at h ⊢
  rw [findCmd_updCmd t uid uid hf]
  cases hfind : findCmd t uid with
  | none => rw [hfind] at h; exact h
  | some d =>
    rw [hfind] at h
    simp only [Option.map_some, if_pos (findCmd_uid hfind), hst, hdef]
    exact h

theorem findCmd_congr {s t : State} (h : t.cmds = s.cmds) (uid : Nat) : findCmd t uid = findCmd s uid := by rw [findCmd, h, findCmd]

/-- The single DEFERRED completion is placed, where there was none (R11). -/
theorem deferred_deferCmd {s : State} {c : Cmd} (hfind : (findCmd s c.uid).map (·.st) = some .waiting)
    (hdef : (findCmd s c.uid).map (·.deferred) = some c.deferred) (est : Nat) : Deferred c.uid (deferCmd s c est) := by
  unfold deferCmd
  split
  · next h => exact ⟨hfind, by rw [hdef, h]⟩
  · have hplaced := (ringOnly_placeCompletion (updCmd s c.uid fun d => { d with deferred := true }) c.fn c.cq c.sq
      (completionBytes c St.deferred 0 est (tbNow s % 2 ^ 48)) false).cmds
    unfold Deferred
    rw [findCmd_congr hplaced, findCmd_updCmd s c.uid c.uid (f := fun d => { d with deferred := true }) fun _ => rfl]
    cases hc : findCmd s c.uid with
    | none => rw [hc] at hfind; simp at hfind
    | some d =>
      rw [hc] at hfind
      rw [Option.map_some, if_pos (findCmd_uid hc)]
      exact ⟨hfind, rfl⟩

theorem settled_deferCmd {s : State} (hs : Settled s) (c : Cmd) (est : Nat) : Settled (deferCmd s c est) := by
  have hupd : Settled (updCmd s c.uid fun d => { d with deferred := true }) := hs.congr rfl rfl fun _ => rfl
  unfold deferCmd
  split
  · exact hs
  · exact hupd.of_host (ringOnly_placeCompletion _ _ _ _ _ _).toHost

/-- What the estimate uses is at most a free value (R11). -/
theorem estimate_state (s : State) (x : Session) (slot : Nat) : (estimate s x slot).2 = s ∨ (estimate s x slot).2 = usedFree s := by
  unfold estimate
  dsimp only
  split
  · exact .inl rfl
  · exact .inr rfl

/-- The refusals that `admitX` checks do not apply. -/
structure Admissible (s : State) (c : Cmd) (x : Session) (r : Req) (poll : Bool) : Prop where
  len : r.len s r.dst ≤ 508
  key : r.enc = true → keyBar s (nodeRef r.dst) Use.payload = none
  hop : x.kind = true ∨ keyBar s x.hopKey Use.hop = none
  soon : ahead (deadlineOf s c) (cidxNow s) = true
  slot : ahead (deadlineOf s c) (slotCycle s (firstEvent s x (openSlot s))) = true
  sent : neverSent s x (firstEvent s x (openSlot s)) (deadlineOf s c) (r.len s r.dst) poll = false

/-- The session's quiet period puts the command off (R260). -/
def quietDeferred (s : State) (c : Cmd) (x : Session) (slot : Nat) : State :=
  deferCmd (updCmd (estimate s x slot).2 c.uid fun d => { d with cause := .quiet }) ((findCmd (estimate s x slot).2 c.uid).getD c) (estimate s x slot).1

theorem admitX_eq {s : State} {c : Cmd} {x : Session} {r : Req} {poll : Bool} (h : Admissible s c x r poll) : admitX s c x r poll =
    let t := waitLine s c fun d => { d with payload := r.plain, label := r.label, enc := r.enc, ext := r.ext }
    if (quietOf s x.group (cidxNow s)).isSome then quietDeferred t c x (firstEvent s x (openSlot s)) else t := by
  obtain ⟨hlen, hkey, hhop, hsoon, hslot, hsent⟩ := h
  have hbar : ((if r.enc then keyBar s (nodeRef r.dst) Use.payload else none).or (if x.kind then none else keyBar s x.hopKey Use.hop)) = none := by
    have hfirst : (if r.enc then keyBar s (nodeRef r.dst) Use.payload else none) = none := by
      split
      · exact hkey ‹_›
      · rfl
    rw [hfirst, Option.none_or]
    split
    · rfl
    · exact hhop.resolve_left ‹_›
  unfold admitX
  extract_lets len slot dl t
  rw [if_neg (Nat.not_lt.2 hlen), hbar]
  have hends : (!ahead dl (cidxNow s) || !ahead dl (slotCycle s slot)) = false := by
    simp only [dl, slot, hsoon, hslot, Bool.not_true, Bool.or_self]
  dsimp only
  rw [hends, if_neg Bool.false_ne_true, hsent, if_neg Bool.false_ne_true]
  have hquiet : quietOf t x.group (cidxNow t) = quietOf s x.group (cidxNow s) := rfl
  rw [hquiet]
  cases hq : quietOf s x.group (cidxNow s) with
  | none => rfl
  | some q => rfl

end Sys2Proof.Machine

namespace Sys2Proof.Machine

/-- What a session's taking the command leaves. -/
structure Admitted (s : State) (c x : Cmd) (quiet : Bool) (t : State) : Prop where
  waits : quiet = false → OneCmd s c.uid x t
  deferred : quiet = true → Deferred c.uid t
  settled : Settled t

theorem deferred_quietDeferred {s t : State} {c d : Cmd} (x : Session) (slot : Nat) (h : OneCmd s c.uid d t) (hd : d.st = .waiting) :
    Deferred c.uid (quietDeferred t c x slot) := by
  have hcmds : (estimate t x slot).2.cmds = t.cmds := (estimate_state t x slot).elim (fun h => by rw [h]) fun h => by rw [h]; rfl
  have hfound : findCmd (estimate t x slot).2 c.uid = some d := (findCmd_congr hcmds _).trans h.found
  have huid : d.uid = c.uid := findCmd_uid h.found
  have hcause := findCmd_updCmd (estimate t x slot).2 c.uid c.uid (f := fun d => { d with cause := .quiet }) fun _ => rfl
  rw [hfound, Option.map_some, if_pos huid] at hcause
  unfold quietDeferred
  rw [hfound, Option.getD_some, ← huid]
  rw [← huid] at hcause
  exact deferred_deferCmd (by rw [hcause, Option.map_some, ← hd]) (by rw [hcause, Option.map_some]) _

theorem settled_quietDeferred {s : State} (hs : Settled s) (c : Cmd) (x : Session) (slot : Nat) : Settled (quietDeferred s c x slot) := by
  have hestimate : Settled (estimate s x slot).2 := (estimate_state s x slot).elim (fun h => by rw [h]; exact hs) fun h => by
    rw [h]
    exact hs.congr rfl rfl fun _ => rfl
  have hcause : Settled (updCmd (estimate s x slot).2 c.uid fun d => { d with cause := .quiet }) := hestimate.congr rfl rfl fun _ => rfl
  exact settled_deferCmd hcause _ _

/-- A session that nothing bars takes the command: it waits, and is put off in a quiet period (R260, R356). -/
theorem admitted_admitX {s : State} {c : Cmd} {x : Session} {r : Req} {poll : Bool} (hs : Settled s) (hfind : findCmd s c.uid = some c)
    (h : Admissible s c x r poll) :
    Admitted s c (waitingCmd s c r.plain r.label r.enc r.ext) (quietOf s x.group (cidxNow s)).isSome (admitX s c x r poll) := by
  have hone := oneCmd_waitLine hfind r.plain r.label r.enc r.ext
  rw [admitX_eq h]
  generalize (waitLine s c fun d => { d with payload := r.plain, label := r.label, enc := r.enc, ext := r.ext }) = t at hone ⊢
  dsimp only
  cases (quietOf s x.group (cidxNow s)).isSome
  · exact ⟨fun _ => hone, nofun, hone.settled hs⟩
  · exact ⟨nofun, fun _ => deferred_quietDeferred x _ hone rfl, settled_quietDeferred (hone.settled hs) c x _⟩

/-- A command routed by VET drops the extension it was checked with. -/
theorem Admitted.unrouted {s t : State} {c x : Cmd} {quiet : Bool} (h : Admitted s c x quiet t) :
    Admitted s c { x with ext := [] } quiet (updCmd t c.uid fun e => { e with ext := [] }) where
  waits hq := (h.waits hq).updCmd (f := fun e => { e with ext := [] }) fun _ => rfl
  deferred hq := (h.deferred hq).updCmd (f := fun e => { e with ext := [] }) (fun _ => rfl) (fun _ => rfl) fun _ => rfl
  settled := h.settled.congr rfl rfl fun _ => rfl

/-! #### SEND and POLL (R281 to R295, R356, R360) -/

/-- The request of a SEND or POLL without a route. -/
def sendReq (c : Cmd) (buf : List Byte) : Req :=
  { dst := D.res c, label := D.at c 24 1, plain := slice buf 0 (D.len c), enc := bit (D.at c 25 1) 0 }

/-- What a SEND or POLL does where the device can transmit. -/
def sendOnLine (c : Cmd) (buf : List Byte) (poll : Bool) (s : State) : State :=
  let node := D.res c
  let d := slice buf 0 (D.len c)
  let r := sendReq c buf
  if (dirFind s node).any fun e => e.dev != jirPos s then wrongState s c 0x29
  else if bit (D.at c 25 1) 1 then
    let (n, ok) := hostExt s node d
    if !ok then malformed s c 0xFF
    else if !relaysOwned s c.fn (hostRelays d) then notOwned s c
    else if !isSet s F.VET_CTRL_EN then noRoute s c
    else match sess s (beNat (slice d 1 3)) with
    | some x => admitX s c x { r with ext := d.take n, plain := d.drop n } poll
    | none => malformed s c 0xFF
  else match sess s node with
    | some x =>
      if x.state = 1 then complete s c St.nodeLost 0 0
      else if x.state = 2 then wrongState s c 0x25
      else admitX s c x r poll
    | none =>
      if (dirFind s node).isNone then wrongState s c 0x25
      else match (if isSet s F.VET_CTRL_EN then routeOf s node else none) with
        | none => noRoute s c
        | some rel => match (if active s (rel.headD 0) then sess s (rel.headD 0) else none) with
          | none => noRoute s c
          | some x => updCmd (admitX s c x { r with ext := extOf rel } poll) c.uid fun e => { e with ext := [] }

/-- The operands of a SEND or POLL are good, and its function may send so (R356, R360, R379). -/
structure SendFields (s : State) (c : Cmd) (poll : Bool) : Prop where
  low : 1 ≤ D.res c
  high : D.res c < 0x3FFFF
  owner : ownerOf s (D.res c) = c.fn
  label : Lbl.reserved (D.at c 24 1) = false
  filler : D.at c 24 1 ≠ Lbl.filler
  enc : bit (D.at c 25 1) 0 = true ∨ c.fn = 0
  route : bit (D.at c 25 1) 1 = false ∨ s.mesh.method = true
  session : bit (D.at c 25 1) 1 = false → s.mesh.method = true → (sess s (D.res c)).isSome = true
  queue : poll = true → ∃ q < 8, (ring s c.fn (32 + q)).st = .enabled

theorem sendCmd_onLine {s : State} {c : Cmd} {poll : Bool} (buf : List Byte) (h : SendFields s c poll) :
    sendCmd s c buf poll = onLineCmd s c (sendOnLine c buf poll) := by
  obtain ⟨hlow, hhigh, howner, hlabel, hfiller, henc, hroute, hsession, hqueue⟩ := h
  have hflags : ((!bit (D.at c 25 1) 0 && c.fn != 0) || (bit (D.at c 25 1) 1 && !s.mesh.method) ||
      (!bit (D.at c 25 1) 1 && s.mesh.method && (sess s (D.res c)).isNone)) = false := by
    have h1 : (!bit (D.at c 25 1) 0 && c.fn != 0) = false := by rcases henc with h | h <;> simp [h]
    have h2 : (bit (D.at c 25 1) 1 && !s.mesh.method) = false := by rcases hroute with h | h <;> simp [h]
    have h3 : (!bit (D.at c 25 1) 1 && s.mesh.method && (sess s (D.res c)).isNone) = false := by
      cases hr : bit (D.at c 25 1) 1
      · cases hm : s.mesh.method
        · rfl
        · rw [Option.isNone_eq_false_iff.2 (hsession hr hm)]
          rfl
      · rfl
    rw [h1, h2, h3]
    rfl
  have hring : (poll && (List.range 8).all fun q => (ring s c.fn (32 + q)).st != .enabled) = false := by
    cases poll
    · rfl
    · obtain ⟨q, hq, hst⟩ := hqueue rfl
      rw [Bool.true_and, List.all_eq_false]
      exact ⟨q, List.mem_range.2 hq, by rw [hst]; decide⟩
  have hlabels : (Lbl.reserved (D.at c 24 1) || D.at c 24 1 == Lbl.filler) = false := by simp [hlabel, hfiller]
  have hbounds : ¬ (D.res c = 0 ∨ 0x3FFFF ≤ D.res c) := by omega
  have howned : ¬ ownerOf s (D.res c) ≠ c.fn := fun hne => hne howner
  unfold sendCmd
  extract_lets node label enc rte d
  rw [if_neg hbounds, if_neg howned, hlabels, if_neg Bool.false_ne_true, hflags, if_neg Bool.false_ne_true, hring, if_neg Bool.false_ne_true]
  rfl

theorem onLineCmd_fault {s : State} {e : Nat} (c : Cmd) (f : State → State) (h : lineFault s = some e) :
    onLineCmd s c f = complete s c St.fault e 0 := by rw [onLineCmd, h]

theorem onLineCmd_refused {s : State} {e : Nat} (c : Cmd) (f : State → State) (h : lineFault s = none) (h' : txRefusal s = some e) :
    onLineCmd s c f = complete s c St.state e 0 := by rw [onLineCmd, h, h']; rfl

theorem onLineCmd_goes {s : State} (c : Cmd) (f : State → State) (h : lineFault s = none) (h' : txRefusal s = none) :
    onLineCmd s c f = f s := by rw [onLineCmd, h, h']

section
variable {s : State} {c : Cmd} {buf : List Byte} {poll : Bool} (hdev : ∀ e, dirFind s (D.res c) = some e → e.dev = jirPos s)

include hdev in
theorem own_device : ((dirFind s (D.res c)).any fun e => e.dev != jirPos s) = false := by
  cases h : dirFind s (D.res c) with
  | none => rfl
  | some e => simp [hdev e h]

include hdev in
/-- A node with a session of its own (R356). -/
theorem sendOnLine_session {x : Session} (hrte : bit (D.at c 25 1) 1 = false) (hx : sess s (D.res c) = some x) :
    sendOnLine c buf poll s = if x.state = 1 then complete s c St.nodeLost 0 0 else if x.state = 2 then wrongState s c 0x25
      else admitX s c x (sendReq c buf) poll := by
  unfold sendOnLine
  extract_lets node d r
  rw [own_device hdev, if_neg Bool.false_ne_true, hrte, if_neg Bool.false_ne_true, hx]

include hdev in
/-- A node that nothing is known of. -/
theorem sendOnLine_unknown (hrte : bit (D.at c 25 1) 1 = false) (hx : sess s (D.res c) = none) (hnone : dirFind s (D.res c) = none) :
    sendOnLine c buf poll s = wrongState s c 0x25 := by
  have hown := own_device hdev
  unfold sendOnLine
  extract_lets node d r
  rw [hown, if_neg Bool.false_ne_true, hrte, if_neg Bool.false_ne_true, hx, hnone]
  rfl

include hdev in
/-- A node that VET has a route to (R283, R289). -/
theorem sendOnLine_routed {x : Session} {rel : List Nat} (hrte : bit (D.at c 25 1) 1 = false) (hnone : sess s (D.res c) = none)
    (hknown : (dirFind s (D.res c)).isSome = true) (hvet : isSet s F.VET_CTRL_EN = true) (hrel : routeOf s (D.res c) = some rel)
    (hactive : active s (rel.headD 0) = true) (hx : sess s (rel.headD 0) = some x) : sendOnLine c buf poll s =
      updCmd (admitX s c x { sendReq c buf with ext := extOf rel } poll) c.uid fun e => { e with ext := [] } := by
  have hsome : (dirFind s (D.res c)).isNone = false := Option.isNone_eq_false_iff.2 hknown
  have hown := own_device hdev
  unfold sendOnLine
  extract_lets node d r
  rw [hown, if_neg Bool.false_ne_true, hrte, if_neg Bool.false_ne_true, hnone]
  dsimp only
  rw [hsome, if_neg Bool.false_ne_true, hvet, if_pos rfl, hrel]
  dsimp only
  rw [hactive, if_pos rfl, hx]

include hdev in
/-- A route of the host's over relays of another function (R294, R379). -/
theorem sendOnLine_notOwned (hrte : bit (D.at c 25 1) 1 = true) (hext : (hostExt s (D.res c) (slice buf 0 (D.len c))).2 = true)
    (howned : relaysOwned s c.fn (hostRelays (slice buf 0 (D.len c))) = false) : sendOnLine c buf poll s = notOwned s c := by
  unfold sendOnLine
  extract_lets node d r
  rw [own_device hdev, if_neg Bool.false_ne_true, hrte, if_pos rfl]
  have hpair : hostExt s node d = ((hostExt s node d).1, true) := Prod.ext rfl hext
  rw [hpair]
  dsimp only
  rw [howned]
  rfl

include hdev in
/-- A route of the host's that is good (R281, R294). -/
theorem sendOnLine_host {x : Session} (hrte : bit (D.at c 25 1) 1 = true) (hext : (hostExt s (D.res c) (slice buf 0 (D.len c))).2 = true)
    (howned : relaysOwned s c.fn (hostRelays (slice buf 0 (D.len c))) = true) (hvet : isSet s F.VET_CTRL_EN = true)
    (hx : sess s (beNat (slice (slice buf 0 (D.len c)) 1 3)) = some x) : sendOnLine c buf poll s =
      admitX s c x { sendReq c buf with
        ext := (slice buf 0 (D.len c)).take (hostExt s (D.res c) (slice buf 0 (D.len c))).1
        plain := (slice buf 0 (D.len c)).drop (hostExt s (D.res c) (slice buf 0 (D.len c))).1 } poll := by
  unfold sendOnLine
  extract_lets node d r
  rw [own_device hdev, if_neg Bool.false_ne_true, hrte, if_pos rfl]
  have hpair : hostExt s node d = ((hostExt s node d).1, true) := Prod.ext rfl hext
  rw [hpair]
  dsimp only
  rw [howned, hvet, hx]
  rfl

end

end Sys2Proof.Machine

namespace Sys2Proof.Machine

/-! #### FLOOD and RELAY (R291, R294, R361) -/

/-- The frame of a flood or relay can be admitted, and its deadline leaves a slot. -/
structure FloodAdmissible (s : State) (c : Cmd) (d : List Byte) : Prop where
  soon : ahead (deadlineOf s c) (cidxNow s) = true
  slot : ahead (deadlineOf s c) (slotCycle s (openSlot s)) = true
  phases : ((List.range 3).filter fun p => bit (getF s F.MAC_BCN_CFG_PH) p) ≠ []
  tones : tonesAllowed s (pairTones s (getF s F.MAC_BCN_CFG_PAIR)) = true
  permitted : ((List.range 3).filter fun p => bit (getF s F.MAC_BCN_CFG_PH) p).all (forbidden s) = false
  budget : neverAdmits s (((List.range 3).filter fun p => bit (getF s F.MAC_BCN_CFG_PH) p).map fun p =>
    (⟨getF s F.MAC_BCN_CFG_PAIR, p⟩, slotTime s (openSlot s) 0,
      slotTime s (openSlot s) ((frameLen s (getF s F.MAC_BCN_CFG_MODE) d.length + 1) * symbolOf (bcnM s) : Nat))) = false

theorem floodCmd_waits {s : State} {c : Cmd} {d : List Byte} (label : Nat) (enc : Bool) (hfault : lineFault s = none) (hrefusal : txRefusal s = none)
    (h : FloodAdmissible s c d) : floodCmd s c label enc d = waitLine s c fun e => { e with payload := d, label := label, enc := enc } := by
  obtain ⟨hsoon, hslot, hphases, htones, hpermitted, hbudget⟩ := h
  have hends : (!ahead (deadlineOf s c) (cidxNow s) || !ahead (deadlineOf s c) (slotCycle s (openSlot s))) = false := by
    rw [hsoon, hslot]
    rfl
  rw [floodCmd, onLineCmd_goes c _ hfault hrefusal]
  dsimp only
  rw [hends, if_neg Bool.false_ne_true, if_neg]
  rw [decide_eq_false hphases, htones, hpermitted, hbudget]
  decide

/-- A flood or relay that waits. -/
theorem oneCmd_flood {s : State} {c : Cmd} (h : findCmd s c.uid = some c) (hext : c.ext = []) (label : Nat) (enc : Bool) (d : List Byte) :
    OneCmd s c.uid (waitingCmd s c d label enc []) (waitLine s c fun e => { e with payload := d, label := label, enc := enc }) := by
  have hone := (OneCmd.start h).updCmd (f := fun e => { e with
    st := .waiting, deadline := deadlineOf s c, payload := d, label := label, enc := enc }) fun _ => rfl
  have hsame : waitingCmd s c d label enc [] = { c with st := .waiting, deadline := deadlineOf s c, payload := d, label := label, enc := enc } := by
    rw [waitingCmd, ← hext]
  rw [hsame]
  exact hone

/-! #### The statement -/

/-- A command that something bars as it starts ends so (R60, R379). -/
theorem completes_barred {s : State} {uid op : Nat} {c : Cmd} {i : Instr} {st n : Nat} {f : State → Cmd → State} (hs : Settled s)
    (hfind : findCmd s uid = some c) (hop : D.op c = op) (hstart : startable s c = true) (hbar : cmdBar s c = some (st, n))
    (hexec : exec i s = done (withCmd s uid op f)) : Completes i s fun t => t = complete s c st n 0 := by
  have hends : withCmd s uid op f = complete s c st n 0 := by simp [withCmd, hfind, hop, hstart, hbar]
  exact completes_of_ends (hexec.trans (by rw [hends])) hs rfl

/-- A command that its meaning ends completes so. -/
theorem completes_ended {s : State} {uid op : Nat} {c : Cmd} {i : Instr} {st n : Nat} {f : State → Cmd → State} (hs : Settled s)
    (hready : Ready s uid op c) (hends : f s c = complete s c st n 0) (hexec : exec i s = done (withCmd s uid op f)) :
    Completes i s fun t => t = complete s c st n 0 :=
  completes_of_ends (hexec.trans (by rw [withCmd_ready f hready, hends])) hs rfl

/-- A command that a session takes waits, or is put off. -/
theorem completes_admitted {s t : State} {c x : Cmd} {quiet : Option Quiet} {i : Instr} (hexec : exec i s = done t) (h : Admitted s c x quiet.isSome t) :
    (quiet = none → Completes i s fun t => { t with cmds := s.cmds } = s ∧ findCmd t c.uid = some x ∧ ∀ v, v ≠ c.uid → findCmd t v = findCmd s v) ∧
      (quiet.isSome = true → Completes i s fun t =>
        (findCmd t c.uid).map (·.st) = some .waiting ∧ (findCmd t c.uid).map (·.deferred) = some true) := by
  refine ⟨fun hq => ?_, fun hq => completes_settled hexec h.settled (h.deferred hq)⟩
  obtain ⟨hrest, hfound, hothers⟩ := h.waits (by rw [hq]; rfl)
  exact completes_settled hexec h.settled ⟨hrest, hfound, hothers⟩

theorem exec_send_poll (s : State) (uid : Nat) (buf : List Byte) (poll : Bool) :
    exec (if poll then .poll uid buf else .send uid buf) s =
      done (withCmd s uid (if poll then 0x11 else 0x10) fun s c => sendCmd s c buf poll) := by
  cases poll
  · exact rfl
  · exact rfl

/-- Settles O53: the operands lead to `sendOnLine` (`sendCmd_onLine`), which a session's admission ends in the wait (`admitted_admitX`); a
flood or relay waits by `floodCmd_waits`. The result 0x25 of a node with no session and no record, and the order of the refusals, are the
model's choice (log entries 48 and 71). -/
theorem transmitCommandsWait : Obligations.TransmitCommandsWait := by
  unfold Obligations.TransmitCommandsWait
  intro s uid c buf hs hfind hstart d label dl waits
  obtain rfl := findCmd_uid hfind
  refine ⟨fun st n hbar e he hop => ?_, fun hbar => ⟨fun hop => ?_, ?_, ?_⟩⟩
  · simp only [List.mem_cons, List.not_mem_nil, or_false] at he
    rcases he with rfl | rfl | rfl | rfl | rfl
    all_goals exact completes_barred hs hfind hop hstart hbar rfl
  · exact completes_ended hs ⟨hfind, hop, hstart, hbar⟩ rfl rfl
  · intro poll hop hlow hhigh howner hlabel hfiller node enc rte i req onSession henc hroute hsession hqueue
    have hready : Ready s c.uid (if poll then 0x11 else 0x10) c := ⟨hfind, hop, hstart, hbar⟩
    have hexec : exec i s = done (withCmd s c.uid (if poll then 0x11 else 0x10) fun s c => sendCmd s c buf poll) := exec_send_poll s c.uid buf poll
    have hline := sendCmd_onLine buf (poll := poll) ⟨hlow, hhigh, howner, hlabel, hfiller, henc, hroute, hsession, hqueue⟩
    refine ⟨fun e he => ?_, fun e hf he => ?_, fun hfault hrefusal hdev => ?_⟩
    · exact completes_ended hs hready (hline.trans (onLineCmd_fault c _ he)) hexec
    · exact completes_ended hs hready (hline.trans (onLineCmd_refused c _ hf he)) hexec
    · have hgoes := hline.trans (onLineCmd_goes c _ hfault hrefusal)
      have hmeans : exec i s = done (sendOnLine c buf poll s) := by rw [hexec, withCmd_ready _ hready, hgoes]
      refine ⟨fun hnone hr hdir => ?_, fun x hr hx => ⟨fun hst => ?_, fun hst => ?_⟩, fun x rel hr hnone hdir hvet hrel hactive hx => ?_,
        fun hr hext howned => ?_, fun x hr hext howned hvet hx => ?_⟩
      · exact completes_ended hs hready (hgoes.trans (sendOnLine_unknown hdev hr hnone hdir)) hexec
      · exact completes_ended hs hready (hgoes.trans ((sendOnLine_session hdev hr hx).trans (if_pos hst))) hexec
      · intro _ hlen hkey hhop hsoon hslot hsent
        have hadmit : sendOnLine c buf poll s = admitX s c x (sendReq c buf) poll := by
          rw [sendOnLine_session hdev hr hx, hst, if_neg (by decide), if_neg (by decide)]
        rw [hadmit] at hmeans
        exact completes_admitted hmeans (admitted_admitX hs hfind ⟨hlen, hkey, hhop, hsoon, hslot, hsent⟩)
      · intro _ hlen hkey hhop hsoon hslot hsent
        rw [sendOnLine_routed hdev hr hnone hdir hvet hrel hactive hx] at hmeans
        exact completes_admitted hmeans (admitted_admitX hs hfind ⟨hlen, hkey, hhop, hsoon, hslot, hsent⟩).unrouted
      · exact completes_ended hs hready (hgoes.trans (sendOnLine_notOwned hdev hr hext howned)) hexec
      · intro _ hlen hkey hhop hsoon hslot hsent
        rw [sendOnLine_host hdev hr hext howned hvet hx] at hmeans
        exact completes_admitted hmeans (admitted_admitX hs hfind ⟨hlen, hkey, hhop, hsoon, hslot, hsent⟩)
  · intro hfn hfault hrefusal hext hsoon hslot ps pair ns hphases htones hpermitted hbudget
    have hadmit : FloodAdmissible s c d := ⟨hsoon, hslot, hphases, htones, hpermitted, hbudget⟩
    refine ⟨fun hop hres hlabel hfiller => ?_, fun hop hmethod => ?_⟩
    · have hexec : exec (.flood c.uid buf) s = done (floodCmd s c label false d) := by
        show done (withCmd s c.uid 0x12 _) = _
        rw [withCmd_ready _ ⟨hfind, hop, hstart, hbar⟩]
        have hlabels : (Lbl.reserved (D.at c 24 1) || D.at c 24 1 == Lbl.filler) = false := by
          rw [show Lbl.reserved (D.at c 24 1) = false from hlabel, beq_false_of_ne hfiller]
          rfl
        dsimp only
        rw [if_neg (not_not_intro hfn), if_neg (not_not_intro hres), hlabels, if_neg Bool.false_ne_true]
      obtain ⟨hrest, hfound, hothers⟩ := oneCmd_flood hfind hext label false d
      rw [floodCmd_waits label false hfault hrefusal hadmit] at hexec
      exact completes_settled hexec ((oneCmd_flood hfind hext label false d).settled hs) ⟨hrest, hfound, hothers⟩
    · have hexec : exec (.relay c.uid buf) s = done (floodCmd s c label (bit (D.at c 25 1) 6) d) := by
        show done (withCmd s c.uid 0x13 _) = _
        rw [withCmd_ready _ ⟨hfind, hop, hstart, hbar⟩, if_neg (not_not_intro hfn), hmethod, Bool.not_true, if_neg Bool.false_ne_true]
      obtain ⟨hrest, hfound, hothers⟩ := oneCmd_flood hfind hext label (bit (D.at c 25 1) 6) d
      rw [floodCmd_waits label _ hfault hrefusal hadmit] at hexec
      exact completes_settled hexec ((oneCmd_flood hfind hext label _ d).settled hs) ⟨hrest, hfound, hothers⟩

end Sys2Proof.Machine

namespace Sys2Proof.Machine

/-! ### Changes carried over a kept power side -/

namespace SideKept

variable {s t : State}

/-- The same register write on both sides. -/
theorem wr_both (h : SideKept s t) (o : Nat) (v : Word) : SideKept (Machine.wr s o v) (Machine.wr t o v) := by
  have hparts := h.eq
  simp only [Prod.mk.injEq, Machine.core, Core.mk.injEq] at hparts
  obtain ⟨⟨h1, h2, h3, h4, h5, h6, h7, h8, h9, -⟩, h10, -⟩ := hparts
  refine intro (by simp only [wr_pins, wr_pwr, wr_boot, wr_blanes, wr_rel, wr_par, wr_crc, wr_nvs, wr_rtc, wr_mains, h1, h2, h3, h4, h5, h6, h7, h8,
    h9, h10]) fun o' ho => ?_
  rw [rd_wr, rd_wr, h.rd ho]

/-- The same store of a field of GLB, PWR, CLK or MSY on both sides. -/
theorem setF_both (h : SideKept s t) (f : Fld) (v : Nat) (hf : f.off < 0x1000 := by decide) : SideKept (Machine.setF s f v) (Machine.setF t f v) := by
  have hword : rdN t f.off = rdN s f.off := congrArg BitVec.toNat (h.rd hf)
  rw [Machine.setF, Machine.setF, hword]
  exact h.wr_both _ _

theorem raise_both (h : SideKept s t) (f : Fld) (hf : f.off < 0x1000 := by decide) : SideKept (Machine.raise s f) (Machine.raise t f) :=
  h.setF_both f 1 hf

/-- The same change of mains tracking on both sides. -/
theorem updMains_both (h : SideKept s t) (f : Mains → Mains) : SideKept (updMains s f) (updMains t f) := by
  have hparts := h.eq
  simp only [Prod.mk.injEq, Machine.core, Core.mk.injEq] at hparts
  obtain ⟨⟨h1, h2, h3, h4, h5, h6, h7, h8, h9, -⟩, h10, -⟩ := hparts
  refine intro ?_ fun o ho => h.rd ho
  simp only [updMains, h1, h2, h3, h4, h5, h6, h7, h8, h9, h10]

theorem dropTrack_both (h : SideKept s t) : SideKept (dropTrack s) (dropTrack t) := h.updMains_both _

end SideKept

/-! ### Lock, hold-over and TX_LIMIT (R101, R109 to R111) -/

/-- What a hold-over sets in MSY: LOCK 0, HOLD, HOLD_AGE 0 and LOMS_CHG, with the track dropped. -/
def holdoverBegun (s : State) : State :=
  setF (raise (raise (dropTrack (setF s F.MSY_STATUS_LOCK 0)) F.MSY_EVT_LOMS_CHG) F.MSY_STATUS_HOLD) F.MSY_STATUS_HOLD_AGE 0

theorem sideKept_txLimit (s : State) : SideKept (raise s F.MSY_STATUS_TXMUTE) (txLimit s) := sideKept_endWaiting _ _

theorem enterHoldover_unlocked {s : State} (h : isSet s F.MSY_STATUS_LOCK = false) : enterHoldover s = dropTrack s := by
  simp [enterHoldover, h]

/-- A hold-over begins, and with a limit of 0 the phases mute at once (R110, R111). -/
theorem sideKept_enterHoldover {s : State} (h : isSet s F.MSY_STATUS_LOCK = true) :
    SideKept (holdoverBegun s) (enterHoldover s) ∨ SideKept (raise (holdoverBegun s) F.MSY_STATUS_TXMUTE) (enterHoldover s) := by
  have hlost : SideKept (setF s F.MSY_STATUS_LOCK 0) (raiseWith s Def.loms .device fun s => setF s F.MSY_STATUS_LOCK 0) :=
    .ite (.refl _) (sideKept_reportRaise _ _ _)
  have hbegun := (((hlost.dropTrack_both).raise_both F.MSY_EVT_LOMS_CHG).raise_both F.MSY_STATUS_HOLD).setF_both F.MSY_STATUS_HOLD_AGE 0
  rw [enterHoldover, h, if_neg (by decide)]
  dsimp only
  split
  · exact .inr ((hbegun.raise_both _).trans (sideKept_txLimit _))
  · exact .inl hbegun

/-- What lock sets in MSY: LOCK, HOLD 0 and LOMS_CHG, with the acquisition over. -/
def lockDeclared (s : State) : State :=
  updMains (setF (raise (raise s F.MSY_STATUS_LOCK) F.MSY_EVT_LOMS_CHG) F.MSY_STATUS_HOLD 0) fun m => { m with
    acquiring := false, lockRun := 0, errRun := 0, missRun := 0, lockedFor := 0, everLocked := true, regain := isSet s F.MSY_STATUS_HOLD }

end Sys2Proof.Machine

namespace Sys2Proof.Machine

/-- The defect's own state cleared, a clear leaves the power side and mains tracking as they then are. -/
theorem sideKept_clearWith_of {s : State} {f : State → State} (code : Nat) (o : DefObj) (hf : ∀ u, SideKept s u → SideKept (f s) (f u)) :
    SideKept (f s) (clearWith s code o f) := by
  have hcleared : SideKept (f s) (raise (f (markSeen s code o)) F.LFR_EVT_DEF_CHG) :=
    (hf _ (sideKept_markSeen s code o)).trans (SideKept.raise _ _ (by decide))
  unfold clearWith
  dsimp only
  generalize raise (f (markSeen s code o)) F.LFR_EVT_DEF_CHG = u at hcleared ⊢
  have htrigger : ∀ p e, SideKept u (trigger u p e) := fun p e => SideKept.of_capture (captureOnly_trigger u p e)
  refine .ite (.refl _) (.ite hcleared (hcleared.trans (.trans ?_ (SideKept.of_capture (captureOnly_reportUncovered s _)))))
  exact .ite (htrigger _ _) ((htrigger _ _).trans (SideKept.of_capture (captureOnly_defectEvent _ _ _ _ _ _ _)))

theorem sideKept_declareLock (s : State) : SideKept (lockDeclared s) (declareLock s) := by
  have hlock : SideKept (raise s F.MSY_STATUS_LOCK) (clearWith s Def.loms .device fun s => raise s F.MSY_STATUS_LOCK) :=
    sideKept_clearWith_of (f := fun s => raise s F.MSY_STATUS_LOCK) _ _ fun u h => h.raise_both F.MSY_STATUS_LOCK
  have hnoted := hlock.raise_both F.MSY_EVT_LOMS_CHG
  have hheld : isSet (raise (clearWith s Def.loms .device fun s => raise s F.MSY_STATUS_LOCK) F.MSY_EVT_LOMS_CHG) F.MSY_STATUS_HOLD =
      isSet s F.MSY_STATUS_HOLD := by
    rw [hnoted.isSet (by decide), isSet_raise_other _ _ _ (by decide) (by decide) (by decide),
      isSet_raise_other _ _ _ (by decide) (by decide) (by decide)]
  unfold declareLock lockDeclared
  dsimp only
  rw [hheld]
  exact (hnoted.setF_both _ _).updMains_both _

/-! ### Phases (R96 to R98) -/

@[simp] theorem mph_setMph_same (s : State) (p : Nat) (x : MPhase) : mph (setMph s p x) p = x := fgetD_fput_same _ _ _ _

theorem mph_setMph_ne (s : State) {p q : Nat} (x : MPhase) (h : q ≠ p) : mph (setMph s p x) q = mph s q := fgetD_fput_ne _ _ _ h

theorem mph_congr {s t : State} (h : t.mains.ph = s.mains.ph) (q : Nat) : mph t q = mph s q := by rw [mph, h, mph]

/-- What another phase's refresh leaves of a phase: its samples and events, its rms, and the channels' settings. -/
def phaseView (q : Nat) (s : State) : MPhase × Word × Word := (mph s q, rd s (R.MSY_RMS q), rd s R.MSY_SNS_CFG)

abbrev PhaseKept (q : Nat) : State → State → Prop := Kept (phaseView q)

namespace PhaseKept

variable {q : Nat} {s t : State}

theorem intro (hph : mph t q = mph s q) (hrms : rd t (R.MSY_RMS q) = rd s (R.MSY_RMS q)) (hcfg : rd t R.MSY_SNS_CFG = rd s R.MSY_SNS_CFG) :
    PhaseKept q s t := ⟨by simp only [phaseView, hph, hrms, hcfg]⟩

theorem parts (h : PhaseKept q s t) : mph t q = mph s q ∧ rd t (R.MSY_RMS q) = rd s (R.MSY_RMS q) ∧ rd t R.MSY_SNS_CFG = rd s R.MSY_SNS_CFG :=
  ⟨congrArg (·.1) h.eq, congrArg (·.2.1) h.eq, congrArg (·.2.2) h.eq⟩

theorem of_side (hq : q < 3) (h : SideKept s t) : PhaseKept q s t :=
  intro (mph_congr (congrArg Mains.ph h.mains) q) (h.rd (by unfold R.MSY_RMS; omega)) (h.rd (by decide))

theorem wrN (s : State) {o : Nat} (v : Nat) (hrms : R.MSY_RMS q ≠ o) (hcfg : R.MSY_SNS_CFG ≠ o) : PhaseKept q s (wrN s o v) :=
  intro rfl (rd_wr_ne s _ hrms) (rd_wr_ne s _ hcfg)

/-- A field of MSY_STATUS or MSY_EVT. -/
theorem setF (s : State) (f : Fld) (v : Nat) (hf : f.off < R.MSY_SNS_CFG := by decide) : PhaseKept q s (setF s f v) :=
  wrN s _ (by simp only [R.MSY_RMS, R.MSY_SNS_CFG] at *; omega) (by omega)

theorem setMph (s : State) {p : Nat} (x : MPhase) (h : q ≠ p) : PhaseKept q s (setMph s p x) := intro (mph_setMph_ne s x h) rfl rfl

end PhaseKept

/-- An event's evaluation stores its counts and may report it; the phase's window stays (R97, R99). -/
theorem evalEvt_cases (s : State) (p k : Nat) (hold : Bool) : ∃ x : MPhase, x.win = (mph s p).win ∧
    (evalEvt s p k hold = setMph s p x ∨ ∃ st onset extreme, evalEvt s p k hold = mainsEvent (setMph s p x) p k st onset extreme) := by
  have hwin : ∀ (x : MPhase) (e : EvtRun), (putEvt x k e).win = x.win := fun x e => by
    unfold putEvt
    split
    · rfl
    · split <;> rfl
  unfold evalEvt
  extract_lets c x e st u
  split
  · exact ⟨_, hwin _ _, .inl rfl⟩
  · exact ⟨_, hwin _ _, .inr ⟨_, _, _, rfl⟩⟩

theorem mainsEvent_mains (s : State) (p k : Nat) (st : Bool) (onset extreme : Nat) : (mainsEvent s p k st onset extreme).mains = s.mains :=
  (hostOnly_eventNow _ _ _ _ _).mains

theorem rms_ne {q o : Nat} (h : o < R.MSY_RMS 0) : R.MSY_RMS q ≠ o := by
  simp only [R.MSY_RMS] at *
  omega

theorem phaseKept_mainsEvent {q : Nat} (hq : q < 3) (s : State) (p k : Nat) (st : Bool) (onset extreme : Nat) :
    PhaseKept q s (mainsEvent s p k st onset extreme) :=
  (PhaseKept.wrN s _ (rms_ne (by decide)) (by decide)).trans (PhaseKept.of_side hq (SideKept.of_host (hostOnly_eventNow _ _ _ _ _)))

theorem phaseKept_evalEvt {p q : Nat} (hq : q < 3) (h : q ≠ p) (s : State) (k : Nat) (hold : Bool) : PhaseKept q s (evalEvt s p k hold) := by
  obtain ⟨x, -, heval | ⟨st, onset, extreme, heval⟩⟩ := evalEvt_cases s p k hold
  · rw [heval]
    exact .setMph s x h
  · rw [heval]
    exact (PhaseKept.setMph s x h).trans (phaseKept_mainsEvent hq _ _ _ _ _ _)

/-- The window of a phase is as before. -/
abbrev WinKept (p : Nat) : State → State → Prop := Kept fun s => (mph s p).win

theorem winKept_evalEvt (s : State) (p k : Nat) (hold : Bool) : WinKept p s (evalEvt s p k hold) := by
  obtain ⟨x, hx, heval | ⟨st, onset, extreme, heval⟩⟩ := evalEvt_cases s p k hold
  · rw [heval]
    exact ⟨by rw [mph_setMph_same, hx]⟩
  · rw [heval]
    exact ⟨by rw [mph_congr (congrArg Mains.ph (mainsEvent_mains _ _ _ _ _ _)), mph_setMph_same, hx]⟩

/-! #### The steps of a refresh -/

/-- The window of a refresh is taken: its second half begins the next one. -/
def windowTaken (s : State) (p : Nat) : State := setMph s p { mph s p with win := (mph s p).win.take (mph s p).half, half := 0 }

/-- The swell threshold is not above the sag threshold (R97). -/
def swellLow (s : State) (p : Nat) : Bool := Nat.ble (evtCfg s (R.MSY_SWELL p)).level (evtCfg s (R.MSY_SAG p)).level

/-- A rms is noted with its time. -/
def rmsNoted (s : State) (p r : Nat) : State :=
  let u := if swellLow s p then raise s F.MSY_EVT_CFG_ERR else s
  setMph u p { mph u p with rms := ((r, tbNow u) :: (mph u p).rms).take 31 }

/-- The three events of a phase are evaluated, the loss before the sag that it holds (R97, R98). -/
def evtsEvaluated (s : State) (p : Nat) (holdSwell : Bool) : State :=
  let u := evalEvt s p 2 false
  evalEvt (evalEvt u p 0 (mph u p).loss.raised) p 1 holdSwell

/-- MSY_RMS shows the rms and the states of the events. -/
def rmsShown (s : State) (p r : Nat) : State :=
  let x := mph s p
  wrN s (R.MSY_RMS p) (r % 2 ^ 18 + 2 ^ 29 * b2n x.sag.raised + 2 ^ 30 * b2n x.swell.raised + 2 ^ 31 * b2n x.loss.raised)

theorem refreshPhase_eq (s : State) (p : Nat) : refreshPhase s p =
    if !snsEn s p then s else
    let x := mph s p
    let l := x.win.filterMap id
    if l = [] ∨ 2 * (x.win.length - l.length) > x.win.length then windowTaken s p else
    let m := rmsOf (windowTaken s p) l
    rmsShown (evtsEvaluated (rmsNoted m.2 p m.1) p (swellLow m.2 p && (evtCfg m.2 (R.MSY_SWELL p)).level != 0)) p m.1 := rfl

theorem phaseKept_rmsOf {q : Nat} (s : State) (l : List Int) : PhaseKept q s (rmsOf s l).2 := by
  unfold rmsOf
  dsimp only
  split
  · exact .refl s
  · exact ⟨rfl⟩

theorem phaseKept_cfgErr {q : Nat} (s : State) (c : Bool) : PhaseKept q s (if c then raise s F.MSY_EVT_CFG_ERR else s) :=
  .ite (PhaseKept.setF s _ _ (by decide)) (.refl s)

theorem phaseKept_refreshPhase {p q : Nat} (hq : q < 3) (h : q ≠ p) (s : State) : PhaseKept q s (refreshPhase s p) := by
  have hrms : R.MSY_RMS q ≠ R.MSY_RMS p := by unfold R.MSY_RMS; omega
  have hcfg : R.MSY_SNS_CFG ≠ R.MSY_RMS p := by simp only [R.MSY_SNS_CFG, R.MSY_RMS]; omega
  have htaken : PhaseKept q s (windowTaken s p) := .setMph s _ h
  have hnoted : ∀ u r, PhaseKept q u (rmsNoted u p r) := fun u r => (phaseKept_cfgErr u _).trans (PhaseKept.setMph _ _ h)
  have hevts : ∀ u b, PhaseKept q u (evtsEvaluated u p b) := fun u b =>
    ((phaseKept_evalEvt hq h u _ _).trans (phaseKept_evalEvt hq h _ _ _)).trans (phaseKept_evalEvt hq h _ _ _)
  have hshown : ∀ u r, PhaseKept q u (rmsShown u p r) := fun u r => .wrN u _ hrms hcfg
  rw [refreshPhase_eq]
  exact .ite (.refl s) (.ite htaken ((((htaken.trans (phaseKept_rmsOf _ _)).trans (hnoted _ _)).trans (hevts _ _)).trans (hshown _ _)))

theorem bits_rmsShown (s : State) (p r : Nat) : bits (rdN (rmsShown s p r) (R.MSY_RMS p)) 17 0 = r % 2 ^ 18 := by
  rw [rmsShown, rdN_wrN, if_pos rfl]
  simp only [bits]
  omega

theorem win_rmsNoted (s : State) (p r : Nat) : (mph (rmsNoted s p r) p).win = (mph s p).win := by
  rw [rmsNoted, mph_setMph_same]
  show (mph (if swellLow s p then raise s F.MSY_EVT_CFG_ERR else s) p).win = _
  rw [(phaseKept_cfgErr s _).parts.1]

theorem winKept_evtsEvaluated (s : State) (p : Nat) (b : Bool) : WinKept p s (evtsEvaluated s p b) :=
  ((winKept_evalEvt s p _ _).trans (winKept_evalEvt _ p _ _)).trans (winKept_evalEvt _ p _ _)

/-- A refresh of an enabled phase whose window is valid: the window keeps its second half, and MSY_RMS shows the rms (R96). -/
theorem refreshPhase_of_valid {s : State} {p : Nat} {l : List Int} (hen : snsEn s p = true) (hl : l ≠ []) (hwin : (mph s p).win = l.map some) :
    (mph (refreshPhase s p) p).win = (l.map some).take (mph s p).half ∧
      bits (rdN (refreshPhase s p) (R.MSY_RMS p)) 17 0 = (rmsOf (windowTaken s p) l).1 % 2 ^ 18 := by
  have hvalid : (mph s p).win.filterMap id = l := by simp [hwin]
  have hmost : ¬ (l = [] ∨ 2 * ((mph s p).win.length - l.length) > (mph s p).win.length) := by simp [hl, hwin]
  rw [refreshPhase_eq, hen, Bool.not_true, if_neg Bool.false_ne_true]
  dsimp only
  rw [hvalid, if_neg hmost]
  refine ⟨?_, bits_rmsShown _ p _⟩
  have hrms : (mph (rmsOf (windowTaken s p) l).2 p).win = (mph (windowTaken s p) p).win := congrArg MPhase.win (phaseKept_rmsOf _ l).parts.1
  have htaken : (mph (windowTaken s p) p).win = (l.map some).take (mph s p).half := by rw [windowTaken, mph_setMph_same, ← hwin]
  exact (winKept_evtsEvaluated _ p _).eq.trans ((win_rmsNoted _ p _).trans (hrms.trans htaken))

/-! #### The reference's loss (R103, R109) -/

theorem holdoverBegun_mains (s : State) : (holdoverBegun s).mains = (dropTrack s).mains := by
  simp only [holdoverBegun, setF_mains, raise_mains, dropTrack, updMains]

theorem enterHoldover_mains (s : State) : (enterHoldover s).mains = (dropTrack s).mains := by
  by_cases hlock : isSet s F.MSY_STATUS_LOCK = true
  · rcases sideKept_enterHoldover hlock with h | h
    · rw [h.mains, holdoverBegun_mains]
    · rw [h.mains, raise_mains, holdoverBegun_mains]
  · rw [enterHoldover_unlocked (by simpa using hlock)]

/-- A hold-over writes MSY_STATUS and MSY_EVT alone of MSY's registers. -/
theorem rd_enterHoldover (s : State) {o : Nat} (ho : o < 0x1000) (hstatus : o ≠ R.MSY_STATUS) (hevt : o ≠ R.MSY_EVT) :
    rd (enterHoldover s) o = rd s o := by
  have hbegun : rd (holdoverBegun s) o = rd s o := by
    rw [holdoverBegun, rd_setF_ne _ _ _ hstatus, raise, rd_setF_ne _ _ _ hstatus, raise, rd_setF_ne _ _ _ hevt]
    exact rd_setF_ne _ _ _ hstatus
  by_cases hlock : isSet s F.MSY_STATUS_LOCK = true
  · rcases sideKept_enterHoldover hlock with h | h
    · rw [h.rd ho, hbegun]
    · rw [h.rd ho, raise, rd_setF_ne _ _ _ hstatus, hbegun]
  · rw [enterHoldover_unlocked (by simpa using hlock)]
    rfl

theorem phaseKept_enterHoldover {q : Nat} (hq : q < 3) (s : State) : PhaseKept q s (enterHoldover s) := by
  have hevt : R.MSY_RMS q ≠ R.MSY_EVT := rms_ne (by decide)
  exact .intro (mph_congr (congrArg Mains.ph (enterHoldover_mains s)) q) (rd_enterHoldover s (by unfold R.MSY_RMS; omega) (rms_ne (by decide)) hevt)
    (rd_enterHoldover s (by decide) (by decide) (by decide))

theorem phaseKept_switchRef {q : Nat} (hq : q < 3) (s : State) (p : Nat) : PhaseKept q s (switchRef s p) := by
  have hmoved : PhaseKept q s (raise (setF s F.MSY_STATUS_REFPH_ACT p) F.MSY_EVT_REF_SWITCH) :=
    (PhaseKept.setF s _ _ (by decide)).trans (PhaseKept.setF _ _ _ (by decide))
  have hfrozen : ∀ u (o : Int), PhaseKept q u (updMains u fun m => { m with offset := o }) := fun u o => ⟨rfl⟩
  refine .ite (.refl s) (.ite (hmoved.trans ⟨rfl⟩) ?_)
  exact hmoved.trans ((hfrozen _ 0).trans (phaseKept_enterHoldover hq _))

theorem phaseKept_checkRefLoss {q : Nat} (hq : q < 3) (s : State) : PhaseKept q s (checkRefLoss s) := by
  refine .ite (.refl s) ?_
  split
  · exact phaseKept_switchRef hq s _
  · exact .ite (phaseKept_enterHoldover hq s) (.refl s)

theorem phaseKept_settle {q : Nat} (hq : q < 3) (s : State) : PhaseKept q s (settle s) :=
  .intro (mph_congr (congrArg Mains.ph (settle_mains s)) q) (settle_rd s (by unfold R.MSY_RMS; omega)) (settle_rd s (by decide))

/-! #### The root of a mean of squares -/

def sumSquares (l : List Int) : Nat := (l.map fun v => v.natAbs * v.natAbs).sum

/-- The root mean square rounded down. -/
def rmsFloor (l : List Int) : Nat := (sumSquares l / l.length).sqrt

theorem rmsOf_near (s : State) (l : List Int) : rmsFloor l ≤ (rmsOf s l).1 ∧ (rmsOf s l).1 ≤ rmsFloor l + 1 := by
  have hbit : freeNat s 1 ≤ 1 := Nat.lt_succ_iff.1 (BitVec.isLt _)
  unfold rmsOf
  dsimp only
  split
  · exact ⟨Nat.le_refl _, Nat.le_succ _⟩
  · exact ⟨Nat.le_add_right _ _, Nat.add_le_add_left hbit _⟩

theorem rmsFloor_spec {l : List Int} (hl : l ≠ []) :
    rmsFloor l * rmsFloor l * l.length ≤ sumSquares l ∧ sumSquares l < (rmsFloor l + 1) * (rmsFloor l + 1) * l.length := by
  have hpos : 0 < l.length := List.length_pos_of_ne_nil hl
  have hle : rmsFloor l * rmsFloor l ≤ sumSquares l / l.length := Nat.sqrt_le _
  have hlt : sumSquares l / l.length < (rmsFloor l + 1) * (rmsFloor l + 1) := Nat.lt_succ_sqrt _
  exact ⟨(Nat.mul_le_mul_right _ hle).trans (Nat.div_mul_le_self _ _), (Nat.div_lt_iff_lt_mul hpos).1 hlt⟩

theorem rmsFloor_lt {l : List Int} (hl : l ≠ []) (h : ∀ v ∈ l, v.natAbs < 2 ^ 17) : rmsFloor l < 2 ^ 17 := by
  have hpos : 0 < l.length := List.length_pos_of_ne_nil hl
  have hsum : sumSquares l ≤ (l.map fun v => v.natAbs * v.natAbs).length * (2 ^ 34 - 1) := by
    refine List.sum_le_card_nsmul _ _ fun x hx => ?_
    obtain ⟨v, hv, rfl⟩ := List.mem_map.1 hx
    have hlt := Nat.mul_lt_mul'' (h v hv) (h v hv)
    omega
  rw [List.length_map] at hsum
  rw [rmsFloor, Nat.sqrt_lt, Nat.div_lt_iff_lt_mul hpos]
  omega

/-- Settles O31: the refreshes of the other phases, and the check of the reference, leave a phase's window and MSY_RMS (`PhaseKept`); its own
stores the root mean square rounded down or up, an open choice (log entry 26). That the window keeps its second half is log entry 29's reading. -/
theorem rmsOfAWindow : Obligations.RmsOfAWindow := by
  unfold Obligations.RmsOfAWindow
  intro s p l hen hl hcodes hwin
  -- the phase's own refresh is one of the three
  obtain ⟨u, hbefore, hafter⟩ : ∃ u, PhaseKept p.val s u ∧
      PhaseKept p.val (refreshPhase u p.val) (refreshPhase (refreshPhase (refreshPhase s 0) 1) 2) := by
    match p with
    | 0 => exact ⟨s, .refl s, (phaseKept_refreshPhase (by decide) (by decide) _).trans (phaseKept_refreshPhase (by decide) (by decide) _)⟩
    | 1 => exact ⟨_, phaseKept_refreshPhase (by decide) (by decide) s, phaseKept_refreshPhase (by decide) (by decide) _⟩
    | 2 => exact ⟨_, (phaseKept_refreshPhase (by decide) (by decide) s).trans (phaseKept_refreshPhase (by decide) (by decide) _), .refl _⟩
  obtain ⟨hph, -, hcfg⟩ := hbefore.parts
  have henu : snsEn u p.val = true := by simpa only [snsEn, rdN, hcfg] using hen
  obtain ⟨hhalf, hrms⟩ := refreshPhase_of_valid henu hl (hph ▸ hwin)
  have hkept : PhaseKept p.val (refreshPhase u p.val) (settle (checkRefLoss (refreshPhase (refreshPhase (refreshPhase s 0) 1) 2))) :=
    (hafter.trans (phaseKept_checkRefLoss p.isLt _)).trans (phaseKept_settle p.isLt _)
  obtain ⟨hph', hrms', -⟩ := hkept.parts
  refine completes_done (u := checkRefLoss (refreshPhase (refreshPhase (refreshPhase s 0) 1) 2)) rfl ?_
  rw [hph', rdN, hrms', ← rdN, hhalf, hrms, hph]
  obtain ⟨hlow, hhigh⟩ := rmsOf_near (windowTaken u p.val) l
  obtain ⟨hsumLow, hsumHigh⟩ := rmsFloor_spec hl
  have hroot := rmsFloor_lt hl hcodes
  generalize (rmsOf (windowTaken u p.val) l).1 = r at hlow hhigh ⊢
  rw [Nat.mod_eq_of_lt (by omega : r < 2 ^ 18)]
  exact ⟨hsumHigh.trans_le (by gcongr), (Nat.mul_le_mul_right _ (Nat.mul_le_mul (by omega) (by omega))).trans hsumLow, rfl⟩

end Sys2Proof.Machine

namespace Sys2Proof.Machine

/-! ### Crossings (R100, R101, R103, R110, R111) -/

@[simp] theorem rd_updMains (s : State) (f : Mains → Mains) (o : Nat) : rd (updMains s f) o = rd s o := rfl

@[simp] theorem getF_updMains (s : State) (f : Mains → Mains) (fl : Fld) : getF (updMains s f) fl = getF s fl := rfl

@[simp] theorem isSet_updMains (s : State) (f : Mains → Mains) (fl : Fld) : isSet (updMains s f) fl = isSet s fl := rfl

/-- Mains tracking mutes nothing. -/
theorem Settled.updMains {s : State} (h : Settled s) (f : Mains → Mains) : Settled (updMains s f) := h.congr rfl rfl fun _ => rfl

theorem Settled.wrN {s : State} (h : Settled s) (o v : Nat) : Settled (wrN s o v) := h.congr rfl rfl fun _ => rfl

/-- How far a crossing lies from its prediction, in ns. -/
def crossErr (ts pred : BitVec 64) : Nat := ((ts.toNat : Int) - pred.toNat).natAbs

theorem crossErr_eq (ts pred : BitVec 64) :
    (if ts.toNat < pred.toNat then pred.toNat - ts.toNat else ts.toNat - pred.toNat) = crossErr ts pred := by
  unfold crossErr
  split
  · omega
  · omega

/-- An accepted crossing of a phase. -/
def crossingSeen (s : State) (p ts : Nat) : State := setMph s p { mph s p with lastCross := some ts, crossed := true }

/-- An accepted crossing is noted, and its offset may be measured (R103). -/
theorem notePhase_cases (s : State) (p ts : Nat) :
    notePhase s p ts = crossingSeen s p ts ∨ ∃ n, notePhase s p ts = wrN (crossingSeen s p ts) (R.MSY_PHOFS p) n := by
  unfold notePhase
  dsimp only
  split
  · split
    · exact .inl rfl
    · exact .inr ⟨_, rfl⟩
  · exact .inl rfl

theorem notePhase_mains (s : State) (p ts : Nat) : (notePhase s p ts).mains = (crossingSeen s p ts).mains := by
  rcases notePhase_cases s p ts with h | ⟨n, h⟩
  · rw [h]
  · rw [h, wrN_mains]

theorem sameRegs_notePhase (s : State) (p ts : Nat) : SameRegs s (notePhase s p ts) [R.MSY_PHOFS p] := by
  intro o ho
  rcases notePhase_cases s p ts with h | ⟨n, h⟩
  · rw [h]
    rfl
  · rw [h]
    exact rd_wr_ne _ _ (List.ne_of_not_mem_cons ho)

theorem getF_notePhase (s : State) (p ts : Nat) {f : Fld} (hf : f.off < R.MSY_PHOFS 0) : getF (notePhase s p ts) f = getF s f :=
  RdKept.getF ⟨sameRegs_notePhase s p ts f.off (by simp only [R.MSY_PHOFS, List.mem_singleton] at *; omega)⟩

theorem isSet_notePhase (s : State) (p ts : Nat) {f : Fld} (hf : f.off < R.MSY_PHOFS 0) : isSet (notePhase s p ts) f = isSet s f := by
  rw [isSet, getF_notePhase s p ts hf, isSet]

theorem settled_notePhase {s : State} (h : Settled s) (p ts : Nat) : Settled (notePhase s p ts) := by
  have hseen : Settled (crossingSeen s p ts) := h.congr rfl rfl fun _ => rfl
  rcases notePhase_cases s p ts with hn | ⟨n, hn⟩
  · exact hn ▸ hseen
  · exact hn ▸ hseen.wrN _ n

section

variable {s : State} {ph : Fin 3} {ts pred : BitVec 64} (hen : snsEn s ph.val = true) (hctl : isSet s F.MSY_CTRL_EN = true)
  (hdom : domainOn s 17 = true) (hsafe : inSafe s 0 = false)

include hen hctl hdom hsafe in
/-- A crossing that the tracker looks at: one too far off under lock is rejected, any other is noted and taken by the reference. -/
theorem exec_zeroCrossing : exec (.zeroCrossing ph ts pred) s =
    if isSet s F.MSY_STATUS_LOCK && Nat.blt (holdPeriod s) (10 * crossErr ts pred) then done (bump s R.MSY_REJ_CNT) else
    let u := notePhase s ph.val ts.toNat
    done (if ph.val ≠ refPhase s then u else if isSet s F.MSY_STATUS_LOCK then crossLocked u ts.toNat (crossErr ts pred)
      else crossUnlocked u ts.toNat (crossErr ts pred) (mph s ph.val).lastCross) := by
  have href : refPhase (notePhase s ph.val ts.toNat) = refPhase s := getF_notePhase s _ _ (by decide)
  have hlock : isSet (notePhase s ph.val ts.toNat) F.MSY_STATUS_LOCK = isSet s F.MSY_STATUS_LOCK := isSet_notePhase s _ _ (by decide)
  show execZeroCrossing ph ts pred s = _
  unfold execZeroCrossing
  dsimp only
  rw [crossErr_eq, hen, hctl, hdom, hsafe, href, hlock]
  rfl

include hen hctl hdom hsafe in
theorem exec_zeroCrossing_rejected (hlock : isSet s F.MSY_STATUS_LOCK = true) (hfar : holdPeriod s < 10 * crossErr ts pred) :
    exec (.zeroCrossing ph ts pred) s = done (bump s R.MSY_REJ_CNT) := by
  rw [exec_zeroCrossing hen hctl hdom hsafe, hlock, show Nat.blt (holdPeriod s) (10 * crossErr ts pred) = true from Nat.blt_eq ▸ hfar]
  rfl

include hen hctl hdom hsafe in
theorem exec_zeroCrossing_other (href : ph.val ≠ refPhase s) (hnear : 10 * crossErr ts pred ≤ holdPeriod s) :
    exec (.zeroCrossing ph ts pred) s = done (notePhase s ph.val ts.toNat) := by
  have hblt : Nat.blt (holdPeriod s) (10 * crossErr ts pred) = false := by
    rw [Bool.eq_false_iff, ne_eq, Nat.blt_eq]
    omega
  rw [exec_zeroCrossing hen hctl hdom hsafe, hblt, Bool.and_false, if_neg Bool.false_ne_true]
  dsimp only
  rw [if_pos href]

include hen hctl hdom hsafe in
theorem exec_zeroCrossing_reference (href : ph.val = refPhase s) (hlock : isSet s F.MSY_STATUS_LOCK = false) :
    exec (.zeroCrossing ph ts pred) s =
      done (crossUnlocked (notePhase s ph.val ts.toNat) ts.toNat (crossErr ts pred) (mph s ph.val).lastCross) := by
  rw [exec_zeroCrossing hen hctl hdom hsafe, hlock]
  dsimp only
  rw [Bool.false_and, if_neg Bool.false_ne_true, if_neg (not_not_intro href), if_neg Bool.false_ne_true]

end

theorem exec_zeroCrossing_idle {s : State} {ph : Fin 3} (ts pred : BitVec 64)
    (h : snsEn s ph.val = false ∨ isSet s F.MSY_CTRL_EN = false ∨ domainOn s 17 = false ∨ inSafe s 0 = true) :
    exec (.zeroCrossing ph ts pred) s = done s := by
  have hidle : (!snsEn s ph.val || !isSet s F.MSY_CTRL_EN || !domainOn s 17 || inSafe s 0) = true := by
    rcases h with h | h | h | h
    all_goals simp [h]
  exact if_pos hidle

/-- A crossing of the reference while the tracker acquires: one within 20 µs counts toward lock, any other begins the count anew (R101). -/
theorem crossUnlocked_acquiring {s : State} (ts err : Nat) (last : Option Nat) (h : s.mains.acquiring = true) :
    crossUnlocked s ts err last =
      let run := if err ≤ 20000 then s.mains.lockRun + 1 else 0
      let u := updMains s fun m => { m with crossed := true, lockRun := run }
      if run ≥ 16 then declareLock u else u := by
  unfold crossUnlocked
  exact if_pos h

/-- What a state shows once lock is declared (R101, R110). -/
theorem lockDeclared_flags (s : State) : isSet (lockDeclared s) F.MSY_STATUS_LOCK = true ∧ isSet (lockDeclared s) F.MSY_STATUS_HOLD = false := by
  constructor
  · rw [lockDeclared, isSet_updMains, isSet_setF_other _ _ _ _ (by decide) (by decide) (by decide),
      isSet_raise_other _ _ _ (by decide) (by decide) (by decide), isSet_raise_same _ _ rfl (by decide)]
  · rw [lockDeclared, isSet_updMains, isSet_clear _ _ rfl (by decide)]

theorem txMute_txLimit (s : State) : isSet (txLimit s) F.MSY_STATUS_TXMUTE = true := by
  rw [(sideKept_txLimit s).isSet (by decide), isSet_raise_same _ _ rfl (by decide)]

/-- Settles O32: a crossing is noted (`notePhase_cases`), the sixteenth within 20 µs declares lock (`sideKept_declareLock`), and at the limit the
commands end that wait and have made no attempt (`endWaiting_ends`). -/
theorem crossingsLockTheTracker : Obligations.CrossingsLockTheTracker := by
  unfold Obligations.CrossingsLockTheTracker
  intro s ph ts pred
  refine ⟨fun hen hctl hdom hsafe => ⟨fun hs hlock hfar => ?_, fun href hlock hacq herr hrun => ?_, fun href hlock hacq herr => ?_,
    fun hs href hnear => ?_⟩, fun hs h => ?_, fun hs h => ?_, fun hhold hopen hage => ?_⟩
  · refine completes_settled (exec_zeroCrossing_rejected hen hctl hdom hsafe hlock hfar) (hs.wrN _ _) ⟨⟨rfl, fun o ho => ?_⟩, rdN_bump_same s _⟩
    exact rd_wr_ne s _ (List.ne_of_not_mem_cons ho)
  · have hnoted : (notePhase s ph.val ts.toNat).mains.acquiring = true := by rw [notePhase_mains]; exact hacq
    have hexec := exec_zeroCrossing_reference (ts := ts) (pred := pred) hen hctl hdom hsafe href hlock
    have hcount : (notePhase s ph.val ts.toNat).mains.lockRun = s.mains.lockRun := by rw [notePhase_mains]; rfl
    have hheld : isSet (notePhase s ph.val ts.toNat) F.MSY_STATUS_HOLD = isSet s F.MSY_STATUS_HOLD := isSet_notePhase s _ _ (by decide)
    rw [crossUnlocked_acquiring _ _ _ hnoted] at hexec
    dsimp only at hexec
    rw [if_pos (show crossErr ts pred ≤ 20000 from herr), hcount, if_pos (by omega)] at hexec
    generalize hu : updMains (notePhase s ph.val ts.toNat) _ = u at hexec
    have hlocked := sideKept_declareLock u
    obtain ⟨hset, hclear⟩ := lockDeclared_flags u
    refine completes_done hexec ?_
    rw [settle_isSet _ (by decide), settle_isSet _ (by decide), hlocked.isSet (by decide), hlocked.isSet (by decide), settle_mains, hlocked.mains,
      ← hheld]
    exact ⟨hset, hclear, rfl, rfl, by rw [← hu]; rfl⟩
  · have hnoted : (notePhase s ph.val ts.toNat).mains.acquiring = true := by rw [notePhase_mains]; exact hacq
    have hexec := exec_zeroCrossing_reference (ts := ts) (pred := pred) hen hctl hdom hsafe href hlock
    rw [crossUnlocked_acquiring _ _ _ hnoted] at hexec
    dsimp only at hexec
    rw [if_neg (show ¬ crossErr ts pred ≤ 20000 from Nat.not_le.2 herr), if_neg (by decide)] at hexec
    refine completes_done hexec ?_
    rw [settle_isSet _ (by decide), settle_mains, isSet_updMains, isSet_notePhase s _ _ (by decide)]
    exact ⟨hlock, rfl⟩
  · refine completes_settled (exec_zeroCrossing_other hen hctl hdom hsafe href hnear) (settled_notePhase hs _ _) ⟨?_, sameRegs_notePhase s _ _, ?_⟩
    · rw [mph_congr (congrArg Mains.ph (notePhase_mains s _ _)), crossingSeen, mph_setMph_same]
    · rw [notePhase_mains]
      rfl
  · exact completes_settled (exec_zeroCrossing_idle ts pred h) hs rfl
  · have hshort : ¬ (isSet s F.MSY_STATUS_HOLD && getF s F.MSY_HOLD_TX_LIMIT != 0xFFFF &&
        Nat.ble (getF s F.MSY_HOLD_TX_LIMIT) (getF s F.MSY_STATUS_HOLD_AGE)) = true := by
      simp only [Bool.and_eq_true, bne_iff_ne, Nat.ble_eq]
      rintro ⟨⟨hhold, hopen⟩, hage⟩
      rcases h with h | h | h
      · exact absurd (hhold.symm.trans h) (by decide)
      · exact hopen h
      · omega
    exact completes_settled (if_neg hshort) hs rfl
  · have hdue : (isSet s F.MSY_STATUS_HOLD && getF s F.MSY_HOLD_TX_LIMIT != 0xFFFF &&
        Nat.ble (getF s F.MSY_HOLD_TX_LIMIT) (getF s F.MSY_STATUS_HOLD_AGE)) = true := by
      simp only [Bool.and_eq_true, bne_iff_ne, Nat.ble_eq]
      exact ⟨⟨hhold, hopen⟩, hage⟩
    obtain ⟨hends, hfresh⟩ := endWaiting_ends (raise s F.MSY_STATUS_TXMUTE) 0x20
    refine completes_done (u := txLimit s) (if_pos hdue) ⟨?_, ?_, fun c hc => ?_⟩
    · rw [settle_isSet _ (by decide), txMute_txLimit]
    · rw [settle_mains, (sideKept_txLimit s).mains, raise_mains]
    · have hleft : c ∈ (txLimit s).cmds := cmdsEnd_settle _ hc
      exact ⟨hends.cmds hleft, fun hwait => hfresh c (hends.cmds hleft) hwait.1 hwait.2 hleft⟩

end Sys2Proof.Machine

namespace Sys2Proof.Machine

/-! ### Linearisation coefficients (R92 to R95) -/

/-- The word of the default of c_1,0 is 600.0 (R94). -/
theorem rat_defaultCoef (i j : Nat) : (F32.ofWord (if i = 1 ∧ j = 0 then 0x4416_0000 else 0)).rat = if i = 1 ∧ j = 0 then 600 else 0 := by
  split
  · have hword : F32.ofWord 0x4416_0000 = .fin 9830400 (-14) := by decide
    rw [hword, F32.rat]
    norm_num
  · have hword : F32.ofWord 0 = .fin 0 (-149) := by decide
    rw [hword, F32.rat]
    norm_num

theorem powerOnReset_mains (s : State) : (powerOnReset s).mains = {} := rfl

/-- MSY_STATUS shows LIN_DEFAULT in bit 7 (R94). -/
theorem viewReg_msyStatus (s : State) : viewReg s R.MSY_STATUS = setBits (rdN s R.MSY_STATUS) 7 7 (b2n (linDefault s)) := rfl

theorem linDefault_iff (s : State) : linDefault s = true ↔ ∃ p < 3, snsEn s p = true ∧ bit s.mains.bankWritten.toNat (2 * p + coefBank s) = false := by
  simp only [linDefault, List.any_eq_true, List.mem_range, Bool.and_eq_true, Bool.not_eq_true']

theorem bit_setBits_same (x i : Nat) (b : Bool) : bit (setBits x i i (b2n b)) i = b := by
  rw [bit_eq_testBit, setBits_testBit _ _ le_rfl, if_neg (lt_irrefl i), if_pos le_rfl, Nat.sub_self]
  cases b
  · rfl
  · rfl

/-- Settles O28: a power-on reset leaves no coefficient stored and no bank written, and a coefficient that is not stored is the default. -/
theorem defaultCoefficients : Obligations.DefaultCoefficients := by
  unfold Obligations.DefaultCoefficients
  refine ⟨fun s h => ?_, fun s => ?_⟩
  · refine completes_settled (exec_porstAssert h) (settled_powerOnReset _) fun b _ p _ i _ j _ => ?_
    rw [coefAt, powerOnReset_mains]
    exact ⟨rat_defaultCoef i j, by simp [bit]⟩
  · rw [viewReg_msyStatus, bit_setBits_same, linDefault_iff]

end Sys2Proof.Machine

namespace Sys2Proof.Machine

/-! ### Reads of the timebase (R115) -/

theorem exec_readClear_bar0 {s : State} {fn : Fin 8} {off o : Nat} (hbar : barOffset fn.val off = some o) (hhere : fnHere s fn.val = true)
    (halign : o % 4 = 0) : exec (.readClear fn off) s = done (readAccess s o fun s => readReg s o) := by
  have hout : s.pins.inReset = false := by
    simp only [fnHere, Bool.and_eq_true, Bool.not_eq_true'] at hhere
    exact hhere.1.1
  show execReadClear fn off s = _
  unfold execReadClear
  rw [hbar]
  dsimp only
  rw [hout, hhere, if_neg (by decide), if_pos halign]

theorem settled_readTimebase {s : State} (h : Settled s) : Settled (readTimebase s) := h.congr rfl rfl fun _ => rfl

theorem exec_timebaseRead {s : State} (hs : Settled s) (hreach : reach s R.MSY_TB_LO = true) : exec .timebaseRead s = .next (readTimebase s) := by
  show done (readAccess s R.MSY_TB_LO readTimebase) = _
  rw [readAccess_reach _ hreach, done_of_settled (settled_readTimebase hs)]

/-- MSY_TB_LO and MSY_TB_HI are reached alike. -/
theorem reach_timebase (s : State) : reach s R.MSY_TB_LO = reach s R.MSY_TB_HI := rfl

/-- What a read of the low word shows and stores. -/
theorem readTimebase_words (s : State) : (readTimebase s).readData = s.mains.tb.extractLsb' 0 32 ∧
    rd (readTimebase s) R.MSY_TB_HI = s.mains.tb.extractLsb' 32 32 := by
  have hlow : rd (wrN (wrN s R.MSY_TB_LO (tbNow s)) R.MSY_TB_HI (tbNow s / 2 ^ 32)) R.MSY_TB_LO = BitVec.ofNat 32 (tbNow s) := by
    rw [rd_wrN, if_neg (by decide), rd_wrN, if_pos rfl]
  have hhigh : rd (wrN (wrN s R.MSY_TB_LO (tbNow s)) R.MSY_TB_HI (tbNow s / 2 ^ 32)) R.MSY_TB_HI = BitVec.ofNat 32 (tbNow s / 2 ^ 32) := by
    rw [rd_wrN, if_pos rfl]
  refine ⟨hlow.trans ?_, hhigh.trans ?_⟩
  · rw [tbNow, BitVec.extractLsb', Nat.shiftRight_zero]
  · rw [tbNow, BitVec.extractLsb', Nat.shiftRight_eq_div_pow]

/-- Of the registers a read of the low word stores its two alone. -/
theorem sameRegs_readTimebase (s : State) : SameRegs s (readTimebase s) [R.MSY_TB_LO, R.MSY_TB_HI] := by
  intro o ho
  simp only [List.mem_cons, List.not_mem_nil, or_false, not_or] at ho
  show rd (wrN (wrN s R.MSY_TB_LO _) R.MSY_TB_HI _) o = _
  rw [rd_wrN, if_neg ho.2, rd_wrN, if_neg ho.1]

/-- MSY_TB_HI reads as it is stored, without an effect. -/
theorem readReg_timebaseHi (s : State) : readReg s R.MSY_TB_HI = usedFree { s with readData := rd s R.MSY_TB_HI } := by
  have hview : viewReg s R.MSY_TB_HI = rdN s R.MSY_TB_HI := rfl
  have hword : BitVec.ofNat 32 (viewReg s R.MSY_TB_HI) = rd s R.MSY_TB_HI := by rw [hview, rdN, BitVec.ofNat_toNat, BitVec.setWidth_eq]
  rw [← hword]
  rfl

/-- Settles O35: both ways to the low word run `readTimebase`, and the high word has no view of its own. -/
theorem timebaseReadSnapshotsTheHighWord : Obligations.TimebaseReadSnapshotsTheHighWord := by
  unfold Obligations.TimebaseReadSnapshotsTheHighWord
  refine ⟨fun s hs hreach => ?_, fun s hs hhere hreach => ⟨?_, ?_⟩⟩
  · exact ⟨_, exec_timebaseRead hs hreach, rfl, sameRegs_readTimebase s, readTimebase_words s⟩
  · have hlow : reach s R.MSY_TB_LO = true := (reach_timebase s).trans hreach
    have hexec := exec_readClear_bar0 (fn := 0) (off := R.MSY_TB_LO) (o := R.MSY_TB_LO) (by decide) hhere (by decide)
    rw [readAccess_reach _ hlow, show readReg s R.MSY_TB_LO = readTimebase s from rfl] at hexec
    exact completes_settled hexec (settled_readTimebase hs) ⟨_, exec_timebaseRead hs hlow, rfl⟩
  · have hexec := exec_readClear_bar0 (fn := 0) (off := R.MSY_TB_HI) (o := R.MSY_TB_HI) (by decide) hhere (by decide)
    rw [readAccess_reach _ hreach, readReg_timebaseHi] at hexec
    exact completes_settled hexec (hs.congr rfl rfl fun _ => rfl) ⟨rfl, rfl⟩

end Sys2Proof.Machine

namespace Sys2Proof.Machine

/-! ### Coefficient banks and the sense temperature (R92, R93, R95) -/

/-- A write of a register of no covered set reaches its block. -/
theorem access_unlocked {s : State} {o : Nat} (f : State → State) (hreach : reach s o = true) (hset : setOf o = none := by decide) :
    access s o f = f (rewritten s o) := access_reach f hreach (lockedOff_of_setOf_none hset)

theorem getF_lt (s : State) (f : Fld) : getF s f < 2 ^ (f.hi + 1 - f.lo) := Nat.mod_lt _ (Nat.two_pow_pos _)

/-- A stored coefficient is its own alone. -/
theorem coefAt_writeCoef (s : State) {b p i j b' p' i' j' : Nat} (v : Word) (hp : p < 3) (hi : i < 6) (hj : j < 4) (hp' : p' < 3)
    (hi' : i' < 6) (hj' : j' < 4) :
    coefAt (writeCoef s b p i j v) b' p' i' j' = if b' = b ∧ p' = p ∧ i' = i ∧ j' = j then v else coefAt s b' p' i' j' := by
  by_cases h : b' = b ∧ p' = p ∧ i' = i ∧ j' = j
  · rw [if_pos h]
    obtain ⟨rfl, rfl, rfl, rfl⟩ := h
    exact fgetD_fputD_same _ _ _ _
  · have hkey : b' * 72 + p' * 24 + i' * 4 + j' ≠ b * 72 + p * 24 + i * 4 + j := by omega
    rw [if_neg h]
    exact fgetD_fputD_ne _ _ _ _ hkey

theorem bit_bankWritten_writeCoef (s : State) {b p : Nat} (i j : Nat) (v : Word) (h : 2 * p + b < 6) :
    bit (writeCoef s b p i j v).mains.bankWritten.toNat (2 * p + b) = true := by
  show bit (BitVec.ofNat 6 (setBits s.mains.bankWritten.toNat (2 * p + b) (2 * p + b) (b2n true))).toNat (2 * p + b) = true
  rw [bit_eq_testBit, BitVec.toNat_ofNat, Nat.testBit_mod_two_pow, decide_eq_true h, Bool.true_and, ← bit_eq_testBit, bit_setBits_same]

/-- MSY_COEF_DATA as a write finds it stored. -/
def coefDataStored (s : State) (v : Word) : State := wr (rewritten s R.MSY_COEF_DATA) R.MSY_COEF_DATA v

theorem getF_coefDataStored (s : State) (v : Word) {f : Fld} (h : f.off ≠ R.MSY_COEF_DATA) : getF (coefDataStored s v) f = getF s f :=
  getF_wr_ne _ f _ v h

theorem exec_coefWrite {s : State} (v : Word) (hreach : reach s R.MSY_COEF_DATA = true) : exec (.coefWrite v) s = done (
    let b := getF s F.MSY_COEF_IDX_BANK
    let p := getF s F.MSY_COEF_IDX_PHASE
    let i := getF s F.MSY_COEF_IDX_I
    if b = coefBank s ∨ p = 3 ∨ i > 5 then raise (coefDataStored s v) F.MSY_EVT_CFG_ERR
    else writeCoef (coefDataStored s v) b p i (getF s F.MSY_COEF_IDX_J) v) := by
  show done (access s R.MSY_COEF_DATA fun s => writeCoefData s v) = _
  rw [access_unlocked _ hreach]
  unfold writeCoefData coefBank
  dsimp only
  rw [← coefDataStored, getF_coefDataStored s v (by decide), getF_coefDataStored s v (by decide), getF_coefDataStored s v (by decide),
    getF_coefDataStored s v (by decide), getF_coefDataStored s v (by decide)]

/-- A zero threshold is computed anew, or is free where the steps give none (R95). -/
theorem updThreshold_cases (s : State) (p : Nat) :
    ∃ n, updThreshold s p = wrN s (R.MSY_ZTHR p) n ∨ updThreshold s p = usedFree (wrN s (R.MSY_ZTHR p) n) := by
  unfold updThreshold
  dsimp only
  split
  · split
    · exact ⟨_, .inl rfl⟩
    · exact ⟨_, .inr rfl⟩
  · exact ⟨_, .inr rfl⟩

theorem sameRegs_updThreshold (s : State) (p : Nat) : SameRegs s (updThreshold s p) [R.MSY_ZTHR p] := by
  intro o ho
  have hne : o ≠ R.MSY_ZTHR p := List.ne_of_not_mem_cons ho
  obtain ⟨n, h | h⟩ := updThreshold_cases s p
  · rw [h]
    exact rd_wr_ne s _ hne
  · rw [h]
    exact rd_wr_ne s _ hne

/-- A zero threshold changes its register, and may use a free value. -/
theorem updThreshold_rest (s : State) (p : Nat) : { updThreshold s p with regs := s.regs, freeCtr := s.freeCtr } = s := by
  obtain ⟨n, h | h⟩ := updThreshold_cases s p
  · rw [h]
    rfl
  · rw [h]
    rfl

theorem updThreshold_mains (s : State) (p : Nat) : (updThreshold s p).mains = s.mains := (congrArg State.mains (updThreshold_rest s p) :)

theorem updThresholds_mains (s : State) : (updThresholds s).mains = s.mains := by
  rw [updThresholds, updThreshold_mains, updThreshold_mains, updThreshold_mains]

theorem getF_updThresholds (s : State) {f : Fld} (hf : f.off < R.MSY_ZTHR 0) : getF (updThresholds s) f = getF s f := by
  have hone : ∀ (u : State) (p : Nat), RdKept f.off u (updThreshold u p) := fun u p =>
    ⟨sameRegs_updThreshold u p f.off (by simp only [R.MSY_ZTHR, List.mem_singleton] at *; omega)⟩
  exact RdKept.getF (((hone s 0).trans (hone _ 1)).trans (hone _ 2))

theorem settled_updThreshold {s : State} (h : Settled s) (p : Nat) : Settled (updThreshold s p) := by
  obtain ⟨n, hn | hn⟩ := updThreshold_cases s p
  · exact hn ▸ h.wrN _ n
  · exact hn ▸ h.congr rfl rfl fun _ => rfl

/-- The bank asked for takes effect, or is refused (R93). -/
theorem applyBank_spec (s : State) : (applyBank s).mains = s.mains ∧ (∀ f : Fld, f.off = R.MSY_CTRL → getF (applyBank s) f = getF s f) ∧
    (coefBank s ≠ getF s F.MSY_CTRL_COEF_BANK → bankOk s (getF s F.MSY_CTRL_COEF_BANK) = true →
      coefBank (applyBank s) = getF s F.MSY_CTRL_COEF_BANK) ∧
    (coefBank s ≠ getF s F.MSY_CTRL_COEF_BANK → bankOk s (getF s F.MSY_CTRL_COEF_BANK) = false →
      coefBank (applyBank s) = coefBank s ∧ isSet (applyBank s) F.MSY_EVT_CFG_ERR = true) := by
  have hbank : getF s F.MSY_CTRL_COEF_BANK < 2 := getF_lt s _
  unfold applyBank
  dsimp only
  split
  case isTrue h => exact ⟨rfl, fun _ _ => rfl, fun hne => absurd h.symm hne, fun hne => absurd h.symm hne⟩
  case isFalse h =>
    split
    case isTrue hok =>
      refine ⟨?_, fun f hf => ?_, fun _ _ => ?_, fun _ hbad => absurd (hok.symm.trans hbad) (by decide)⟩
      · rw [updThresholds_mains, setF_mains]
      · rw [getF_updThresholds _ (hf ▸ by decide), getF_setF_other _ _ _ _ (by decide) (by decide) (.inl (hf ▸ by decide))]
      · rw [coefBank, getF_updThresholds _ (by decide), getF_setF_same _ _ _ (by decide) (by decide)]
        exact Nat.mod_eq_of_lt hbank
    case isFalse hbad =>
      refine ⟨raise_mains _ _, fun f hf => ?_, fun _ hok => absurd hok hbad, fun _ _ => ⟨?_, ?_⟩⟩
      · rw [getF_raise_other _ _ _ (by decide) (by decide) (.inl (hf ▸ by decide))]
      · rw [coefBank, getF_raise_other _ _ _ (by decide) (by decide) (by decide), coefBank]
      · rw [isSet_raise_same _ _ rfl (by decide)]

/-- The bank is asked for. -/
def bankAsked (s : State) (b : Bool) : State := setB (rewritten s R.MSY_CTRL) F.MSY_CTRL_COEF_BANK b

theorem exec_coefBankSelect {s : State} (b : Bool) (hreach : reach s R.MSY_CTRL = true) :
    exec (.coefBankSelect b) s = done (if cidxOk s then bankAsked s b else applyBank (bankAsked s b)) := by
  have hcidx : cidxOk (bankAsked s b) = cidxOk s := isSet_setB_other _ _ _ _ (by decide) (by decide) (by decide)
  show done (access s R.MSY_CTRL fun s => selectBank s b) = _
  rw [access_unlocked _ hreach, ← hcidx]
  rfl

theorem completes_coefBankSelect {s : State} (bk : Bool) (hs : Settled s) (hreach : reach s R.MSY_CTRL = true) :
    Completes (.coefBankSelect bk) s fun t => isSet t F.MSY_CTRL_COEF_BANK = bk ∧ t.mains = s.mains ∧
      (cidxOk s = true → OnlyRegs (rewritten s R.MSY_CTRL) t [R.MSY_CTRL]) ∧
      (cidxOk s = false → coefBank s ≠ b2n bk → bankOk s (b2n bk) = true → coefBank t = b2n bk) ∧
      (cidxOk s = false → coefBank s ≠ b2n bk → bankOk s (b2n bk) = false →
        coefBank t = coefBank s ∧ isSet t F.MSY_EVT_CFG_ERR = true) := by
  have hexec := exec_coefBankSelect bk hreach
  have hasked : isSet (bankAsked s bk) F.MSY_CTRL_COEF_BANK = bk := isSet_setB_same _ _ _ rfl (by decide)
  have hfield : getF (bankAsked s bk) F.MSY_CTRL_COEF_BANK = b2n bk := getF_setB_same _ _ _ rfl (by decide)
  have hbank : coefBank (bankAsked s bk) = coefBank s := getF_setB_other _ _ _ _ (by decide) (by decide) (by decide)
  have hok : ∀ b, bankOk (bankAsked s bk) b = bankOk s b := fun _ => rfl
  cases hcidx : cidxOk s
  case true =>
    rw [hcidx] at hexec
    exact completes_settled hexec ((hs.rewritten _).wrN _ _) ⟨hasked, rfl,
      fun _ => ⟨rfl, fun o ho => rd_wr_ne _ _ (List.ne_of_not_mem_cons ho)⟩, fun h => absurd h (by decide), fun h => absurd h (by decide)⟩
  case false =>
    rw [hcidx] at hexec
    obtain ⟨hmains, hctrl, htaken, hrefused⟩ := applyBank_spec (bankAsked s bk)
    rw [hfield, hbank, hok] at htaken hrefused
    refine completes_done hexec ?_
    simp only [coefBank] at htaken hrefused ⊢
    rw [if_neg Bool.false_ne_true, settle_isSet _ (by decide), settle_mains, settle_getF _ (by decide), settle_isSet _ (by decide), hmains]
    refine ⟨?_, rfl, fun h => absurd h (by decide), fun _ => htaken, fun _ => hrefused⟩
    rw [isSet, hctrl _ rfl, ← isSet, hasked]

/-- A new sense temperature of a phase. -/
def temperatureSet (s : State) (p : Nat) (v : Word) : State := setMph s p { mph s p with temp := v }

theorem exec_senseTemperatureUpdate {s : State} (ph : Fin 3) (v : Word) (h : s.pins.inReset = false) :
    exec (.senseTemperatureUpdate ph v) s = done (updThreshold (temperatureSet s ph.val v) ph.val) :=
  if_neg (by rw [h]; decide)

theorem completes_coefWrite {s : State} (v : Word) (hs : Settled s) (hreach : reach s R.MSY_COEF_DATA = true) :
    Completes (.coefWrite v) s fun t =>
      let b := getF s F.MSY_COEF_IDX_BANK
      let p := getF s F.MSY_COEF_IDX_PHASE
      let i := getF s F.MSY_COEF_IDX_I
      let j := getF s F.MSY_COEF_IDX_J
      { t with regs := s.regs, mains := s.mains, par := s.par } = s ∧
        (b ≠ coefBank s → p < 3 → i < 6 → SameRegs s t [R.MSY_COEF_DATA] ∧ bit t.mains.bankWritten.toNat (2 * p + b) = true ∧
          ∀ b' < 2, ∀ p' < 3, ∀ i' < 6, ∀ j' < 4,
            coefAt t b' p' i' j' = if b' = b ∧ p' = p ∧ i' = i ∧ j' = j then v else coefAt s b' p' i' j') ∧
        (b = coefBank s ∨ p = 3 ∨ 5 < i → t.mains = s.mains ∧ isSet t F.MSY_EVT_CFG_ERR = true) := by
  have hexec := exec_coefWrite v hreach
  have hb : getF s F.MSY_COEF_IDX_BANK < 2 := getF_lt s _
  have hj : getF s F.MSY_COEF_IDX_J < 4 := getF_lt s _
  have hstored : Settled (coefDataStored s v) := hs.congr rfl rfl fun _ => rfl
  have hsame : SameRegs s (coefDataStored s v) [R.MSY_COEF_DATA] := fun o ho => rd_wr_ne _ _ (List.ne_of_not_mem_cons ho)
  dsimp only at hexec ⊢
  generalize getF s F.MSY_COEF_IDX_BANK = b at *
  generalize getF s F.MSY_COEF_IDX_PHASE = p at *
  generalize getF s F.MSY_COEF_IDX_I = i at *
  generalize getF s F.MSY_COEF_IDX_J = j at *
  by_cases hrefused : b = coefBank s ∨ p = 3 ∨ i > 5
  · rw [if_pos hrefused] at hexec
    refine completes_settled hexec (hstored.wrN _ _) ⟨rfl, fun h1 h2 h3 => ?_, fun _ => ⟨rfl, isSet_raise_same _ _ rfl (by decide)⟩⟩
    rcases hrefused with h | h | h
    · exact absurd h h1
    · omega
    · omega
  · rw [if_neg hrefused] at hexec
    refine completes_settled hexec (hstored.updMains _) ⟨rfl, fun _ hp hi => ⟨hsame, ?_, fun b' _ p' hp' i' hi' j' hj' => ?_⟩,
      fun h => absurd h hrefused⟩
    · exact bit_bankWritten_writeCoef _ i j v (by omega)
    · exact coefAt_writeCoef _ v hp hi hj hp' hi' hj'

/-- Settles O27: a coefficient is stored at a key of its own (`coefAt_writeCoef`), `applyBank_spec` says when a bank is taken, and a temperature
recomputes its phase's threshold alone. That an index which selects no coefficient is refused is log entry 29's reading. -/
theorem linearisationBanks : Obligations.LinearisationBanks := by
  unfold Obligations.LinearisationBanks
  refine fun s v bk ph hs => ⟨completes_coefWrite v hs, completes_coefBankSelect bk hs, fun hreset => ?_, fun hreset => ?_⟩
  · exact completes_settled (if_pos hreset) hs rfl
  · have hset : Settled (temperatureSet s ph.val v) := hs.congr rfl rfl fun _ => rfl
    have hph : ∀ q, mph (updThreshold (temperatureSet s ph.val v) ph.val) q = mph (temperatureSet s ph.val v) q :=
      mph_congr (congrArg Mains.ph (updThreshold_mains _ _))
    refine completes_settled (exec_senseTemperatureUpdate ph v hreset) (settled_updThreshold hset _) ⟨?_, fun q hq => ?_,
      sameRegs_updThreshold (temperatureSet s ph.val v) ph.val, ?_⟩
    · rw [hph, temperatureSet, mph_setMph_same]
    · rw [hph, temperatureSet, mph_setMph_ne s _ hq]
    · exact congrArg (fun u : State => { u with mains := s.mains }) (updThreshold_rest (temperatureSet s ph.val v) ph.val)

end Sys2Proof.Machine

namespace Sys2Proof.Machine

/-! ### Changes of mains tracking alone -/

/-- Mains tracking alone differs. -/
def MainsOnly (s t : State) : Prop := { t with mains := s.mains } = s

namespace MainsOnly

variable {s t u : State}

theorem trans (h : MainsOnly s t) (k : MainsOnly t u) : MainsOnly s u := by
  have hlast := congrArg (fun x : State => { x with mains := s.mains }) k
  exact hlast.trans h

theorem regs (h : MainsOnly s t) : t.regs = s.regs := (congrArg State.regs h :)

theorem settled (h : MainsOnly s t) (hs : Settled s) : Settled t :=
  hs.congr (congrArg State.jobs h :) (congrArg State.tx h :) (hardMute_congr (congrArg State.rel h :) (congrArg State.tx h :)
    (congrArg State.crc h :) (congrArg State.par h :) (congrArg State.pins h :) (congrArg State.pwr h :))

end MainsOnly

/-! ### The sense channels (R90, R91) -/

/-- MUX of a channel as it acts: 0b11 shorts the input as 0b10 does (R90). -/
def muxActs (x p : Nat) : Nat := min 2 (bits x (4 * p + 3) (4 * p + 2))

/-- Under lock a write that would change EN or MUX of the reference's channel is refused (R91). -/
def snsRefused (s : State) (v : Word) : Bool :=
  let old := rdN s R.MSY_SNS_CFG
  let new := v.toNat % 2 ^ 12
  let lo := 4 * refPhase s
  isSet s F.MSY_STATUS_LOCK && refPhase s < 3 && ((bit old lo && !bit new lo) || bits new (lo + 3) (lo + 2) != bits old (lo + 3) (lo + 2))

/-- MSY_SNS_CFG after a write: a refused one keeps EN and MUX of the reference's channel. -/
def snsTaken (s : State) (v : Word) : Nat :=
  let old := rdN s R.MSY_SNS_CFG
  let new := v.toNat % 2 ^ 12
  let lo := 4 * refPhase s
  if snsRefused s v then setBits (setBits new lo lo (b2n (bit old lo))) (lo + 3) (lo + 2) (bits old (lo + 3) (lo + 2)) else new

/-- The flags that a write of MSY_SNS_CFG sets. -/
def snsFlagged (s : State) (v : Word) : State :=
  let u := if snsRefused s v then raise s F.MSY_EVT_MUX_REFUSED else s
  if (List.range 3).any (fun p => bits (snsTaken s v) (4 * p + 3) (4 * p + 2) == 3) then raise u F.MSY_EVT_CFG_ERR else u

/-- A phase after MSY_SNS_CFG has changed from `old` to `new`: a changed channel drops stage 3 outputs, one switched on or off its samples (R90,
R96). -/
def channelChanged (old new p : Nat) (x : MPhase) : MPhase :=
  if muxActs new p = muxActs old p ∧ bit new (4 * p) = bit old (4 * p) then x else
  let y := { x with skip := if bit new (4 * p + 1) then 0 else 3 }
  if bit new (4 * p) = bit old (4 * p) then y else { y with lin := [], win := [], half := 0 }

/-- The state after the change of one channel. -/
def channelSet (old new : Nat) (s : State) (p : Nat) : State :=
  if muxActs new p = muxActs old p ∧ bit new (4 * p) = bit old (4 * p) then s
  else
    let x := { mph s p with skip := if bit new (4 * p + 1) then 0 else 3 }
    setMph s p (if bit new (4 * p) = bit old (4 * p) then x else { x with lin := [], win := [], half := 0 })

theorem writeSnsCfg_eq (s : State) (v : Word) : writeSnsCfg s v =
    (List.range 3).foldl (channelSet (rdN s R.MSY_SNS_CFG) (snsTaken s v)) (wrN (snsFlagged s v) R.MSY_SNS_CFG (snsTaken s v)) := rfl

theorem mph_channelSet (old new : Nat) (s : State) (p q : Nat) :
    mph (channelSet old new s p) q = if q = p then channelChanged old new p (mph s p) else mph s q := by
  unfold channelSet channelChanged
  by_cases hpq : q = p
  · subst hpq
    rw [if_pos rfl]
    split
    · rfl
    · exact mph_setMph_same _ _ _
  · rw [if_neg hpq]
    split
    · rfl
    · exact mph_setMph_ne _ _ hpq

/-- Of the state a channel's change touches the phases alone. -/
theorem mainsOnly_channelSet (old new : Nat) (s : State) (p : Nat) : MainsOnly s (channelSet old new s p) := by
  unfold channelSet
  split
  · rfl
  · rfl

/-- Each channel's change is its own phase's. -/
theorem channels_set (old new : Nat) (s : State) : MainsOnly s ((List.range 3).foldl (channelSet old new) s) ∧
    ∀ q < 3, mph ((List.range 3).foldl (channelSet old new) s) q = channelChanged old new q (mph s q) := by
  show MainsOnly s (channelSet old new (channelSet old new (channelSet old new s 0) 1) 2) ∧
    ∀ q < 3, mph (channelSet old new (channelSet old new (channelSet old new s 0) 1) 2) q = channelChanged old new q (mph s q)
  refine ⟨(mainsOnly_channelSet old new s 0).trans ((mainsOnly_channelSet old new _ 1).trans (mainsOnly_channelSet old new _ 2)), fun q hq => ?_⟩
  simp only [mph_channelSet]
  match q, hq with
  | 0, _ => rfl
  | 1, _ => rfl
  | 2, _ => rfl

theorem snsTaken_lt {s : State} (v : Word) : snsTaken s v < 2 ^ 32 := by
  have hword : v.toNat % 2 ^ 12 < 2 ^ 32 := (Nat.mod_lt _ (by decide)).trans (by decide)
  unfold snsTaken
  dsimp only
  split
  case isTrue h =>
    have href : refPhase s < 3 := by
      simp only [snsRefused, Bool.and_eq_true, decide_eq_true_eq] at h
      exact h.1.2
    exact setBits_lt _ (setBits_lt _ hword (by omega) (by omega)) (by omega) (by omega)
  case isFalse => exact hword

/-- What a write of MSY_SNS_CFG leaves. -/
structure SnsWritten (s : State) (v : Word) (t : State) : Prop where
  word : rdN t R.MSY_SNS_CFG = snsTaken s v
  regs : SameRegs s t [R.MSY_SNS_CFG, R.MSY_EVT]
  phases : ∀ p < 3, mph t p = channelChanged (rdN s R.MSY_SNS_CFG) (snsTaken s v) p (mph s p)
  refused : snsRefused s v = true → isSet t F.MSY_EVT_MUX_REFUSED = true

theorem snsFlagged_spec (s : State) (v : Word) : RegsOnly s (snsFlagged s v) ∧ SameRegs s (snsFlagged s v) [R.MSY_EVT] ∧
    (snsRefused s v = true → isSet (snsFlagged s v) F.MSY_EVT_MUX_REFUSED = true) := by
  have hflag : ∀ (u : State) (f : Fld), f.off = R.MSY_EVT → SameRegs u (raise u f) [R.MSY_EVT] := fun u f hf o ho =>
    rd_setF_ne u f 1 (hf ▸ List.ne_of_not_mem_cons ho)
  unfold snsFlagged
  refine ⟨.ite ((RegsOnly.ite ((RegsOnly.refl s).raise _) (.refl s)).raise _) (.ite ((RegsOnly.refl s).raise _) (.refl s)), fun o ho => ?_, fun h => ?_⟩
  · have hfirst : rd (if snsRefused s v then raise s F.MSY_EVT_MUX_REFUSED else s) o = rd s o := by
      split
      · exact hflag _ F.MSY_EVT_MUX_REFUSED rfl o ho
      · rfl
    dsimp only
    split
    · exact (hflag _ F.MSY_EVT_CFG_ERR rfl o ho).trans hfirst
    · exact hfirst
  · have hraised := isSet_raise_same s F.MSY_EVT_MUX_REFUSED rfl (by decide)
    dsimp only
    rw [if_pos h]
    split
    · rw [isSet_raise_other _ _ _ (by decide) (by decide) (by decide), hraised]
    · exact hraised

theorem snsWritten_writeSnsCfg (s : State) (v : Word) : SnsWritten s v (writeSnsCfg s v) ∧ (Settled s → Settled (writeSnsCfg s v)) := by
  obtain ⟨honly, hsame, hrefused⟩ := snsFlagged_spec s v
  rw [writeSnsCfg_eq]
  have hstored : RegsOnly s (wrN (snsFlagged s v) R.MSY_SNS_CFG (snsTaken s v)) := honly.wrN _ _
  obtain ⟨hrest, hphases⟩ := channels_set (rdN s R.MSY_SNS_CFG) (snsTaken s v) (wrN (snsFlagged s v) R.MSY_SNS_CFG (snsTaken s v))
  have hregs := hrest.regs
  have hph : ∀ p, mph (wrN (snsFlagged s v) R.MSY_SNS_CFG (snsTaken s v)) p = mph s p := mph_congr (congrArg Mains.ph hstored.mains)
  refine ⟨⟨?_, fun o ho => ?_, fun p hp => ?_, fun h => ?_⟩, fun hs => ?_⟩
  · rw [rdN_congr hregs, rdN_wrN, if_pos rfl, Nat.mod_eq_of_lt (snsTaken_lt v)]
  · simp only [List.mem_cons, List.not_mem_nil, or_false, not_or] at ho
    rw [rd_congr hregs, rd_wrN, if_neg ho.1]
    exact hsame o (by simpa using ho.2)
  · rw [hphases p hp, hph]
  · have hflag := RdKept.isSet (f := F.MSY_EVT_MUX_REFUSED) (RdKept.wr (snsFlagged s v) (o' := R.MSY_SNS_CFG) (BitVec.ofNat 32 (snsTaken s v)) (by decide))
    exact (isSet_congr hregs _).trans (hflag.trans (hrefused h))
  · exact hrest.settled (hstored.settled hs)

/-- A write of MSY_SNS_CFG that reaches it. -/
theorem exec_senseChannelConfig {s : State} (v : Word) (hreach : reach s R.MSY_SNS_CFG = true) :
    exec (.senseChannelConfig v) s = done (writeSnsCfg (rewritten s R.MSY_SNS_CFG) v) := by
  show done (access s R.MSY_SNS_CFG fun s => writeSnsCfg s v) = _
  rw [access_unlocked _ hreach]

theorem completes_senseChannelConfig {s : State} (v : Word) (hs : Settled s) (hreach : reach s R.MSY_SNS_CFG = true) :
    Completes (.senseChannelConfig v) s (SnsWritten s v) := by
  obtain ⟨⟨hword, hregs, hphases, hrefused⟩, hsettled⟩ := snsWritten_writeSnsCfg (rewritten s R.MSY_SNS_CFG) v
  exact completes_settled (exec_senseChannelConfig v hreach) (hsettled (hs.rewritten _)) ⟨hword, hregs, hphases, hrefused⟩

/-- A channel whose EN changes drops stage 3 outputs unless SCS; one whose EN and MUX stay is as before. -/
theorem channelChanged_spec (old new p : Nat) (x : MPhase) :
    (bit old (4 * p) ≠ bit new (4 * p) → (channelChanged old new p x).skip = if bit new (4 * p + 1) then 0 else 3) ∧
    (bit old (4 * p) = bit new (4 * p) → bits old (4 * p + 3) (4 * p + 2) = bits new (4 * p + 3) (4 * p + 2) → channelChanged old new p x = x) := by
  unfold channelChanged
  refine ⟨fun h => ?_, fun hen hmux => ?_⟩
  · rw [if_neg (fun hsame => h hsame.2.symm)]
    dsimp only
    rw [if_neg h.symm]
  · exact if_pos ⟨by rw [muxActs, muxActs, hmux], hen.symm⟩

/-- A refused write keeps EN and MUX of the reference's channel. -/
theorem snsTaken_of_refused {s : State} {v : Word} (h : snsRefused s v = true) :
    bit (snsTaken s v) (4 * refPhase s) = bit (rdN s R.MSY_SNS_CFG) (4 * refPhase s) ∧
      bits (snsTaken s v) (4 * refPhase s + 3) (4 * refPhase s + 2) = bits (rdN s R.MSY_SNS_CFG) (4 * refPhase s + 3) (4 * refPhase s + 2) := by
  rw [snsTaken, if_pos h]
  constructor
  · rw [bit_eq_testBit, setBits_testBit _ _ (by omega), if_pos (by omega), ← bit_eq_testBit, bit_setBits_same]
  · have hwidth : bits (rdN s R.MSY_SNS_CFG) (4 * refPhase s + 3) (4 * refPhase s + 2) < 2 ^ (4 * refPhase s + 3 + 1 - (4 * refPhase s + 2)) :=
      Nat.mod_lt _ (Nat.two_pow_pos _)
    rw [bits_setBits_same _ _ (by omega), Nat.mod_eq_of_lt hwidth]

theorem snsRefused_of_off {s : State} {v : Word} (hlock : isSet s F.MSY_STATUS_LOCK = true) (href : refPhase s < 3)
    (hen : snsEn s (refPhase s) = true) (hoff : bit v.toNat (4 * refPhase s) = false) : snsRefused s v = true := by
  have hbit : bit (v.toNat % 2 ^ 12) (4 * refPhase s) = false := by
    rw [bit_eq_testBit, Nat.testBit_mod_two_pow, ← bit_eq_testBit, hoff, Bool.and_false]
  rw [snsRefused, hlock, decide_eq_true href, hbit, show bit (rdN s R.MSY_SNS_CFG) (4 * refPhase s) = true from hen]
  rfl

/-! ### The tracker's settings (R101, R103, R109, R110) -/

theorem exec_referencePhaseSelect {s : State} (ph : BitVec 2) (hreach : reach s R.MSY_CTRL = true) :
    exec (.referencePhaseSelect ph) s = done (selectRef (rewritten s R.MSY_CTRL) ph) := by
  show done (access s R.MSY_CTRL fun s => selectRef s ph) = _
  rw [access_unlocked _ hreach]

/-- REFPH is asked for; 0b11 sets CFG_ERR (R103). -/
def refAsked (s : State) (ph : BitVec 2) : State :=
  let u := setF (rewritten s R.MSY_CTRL) F.MSY_CTRL_REFPH ph.toNat
  if ph = 3 then raise u F.MSY_EVT_CFG_ERR else u

theorem selectRef_eq (s : State) (ph : BitVec 2) : selectRef (rewritten s R.MSY_CTRL) ph =
    updMains (refAsked s ph) fun m => { m with refPend := some (if ph = 3 then 0 else ph.toNat) } := rfl

theorem completes_referencePhaseSelect {s : State} (ph : BitVec 2) (hs : Settled s) (hreach : reach s R.MSY_CTRL = true) :
    Completes (.referencePhaseSelect ph) s fun t =>
      t.mains = { s.mains with refPend := some (if ph = 3 then 0 else ph.toNat) } ∧ getF t F.MSY_CTRL_REFPH = ph.toNat ∧
        (ph = 3 → isSet t F.MSY_EVT_CFG_ERR = true) ∧ SameRegs s t (if ph = 3 then [R.MSY_CTRL, R.MSY_EVT] else [R.MSY_CTRL]) := by
  have hexec := exec_referencePhaseSelect ph hreach
  have hstored : getF (setF (rewritten s R.MSY_CTRL) F.MSY_CTRL_REFPH ph.toNat) F.MSY_CTRL_REFPH = ph.toNat :=
    (getF_setF_same _ _ _ (by decide) (by decide)).trans (Nat.mod_eq_of_lt ph.isLt)
  have hone : ∀ o, o ≠ R.MSY_CTRL → rd (setF (rewritten s R.MSY_CTRL) F.MSY_CTRL_REFPH ph.toNat) o = rd s o := fun o ho => rd_setF_ne _ _ _ ho
  have hsettled : Settled (setF (rewritten s R.MSY_CTRL) F.MSY_CTRL_REFPH ph.toNat) := (hs.rewritten _).wrN _ _
  rw [selectRef_eq, refAsked] at hexec
  by_cases h3 : ph = 3
  · simp only [if_pos h3] at hexec ⊢
    refine completes_settled hexec ((hsettled.wrN _ _).updMains _) ⟨rfl, ?_, fun _ => isSet_raise_same _ _ rfl (by decide), fun o ho => ?_⟩
    · rw [getF_updMains, getF_raise_other _ _ _ (by decide) (by decide) (by decide), hstored]
    · simp only [List.mem_cons, List.not_mem_nil, or_false, not_or] at ho
      rw [rd_updMains, raise, rd_setF_ne _ _ _ ho.2, hone o ho.1]
  · simp only [if_neg h3] at hexec ⊢
    exact completes_settled hexec (hsettled.updMains _) ⟨rfl, hstored, fun h => absurd h h3, fun o ho => hone o (List.ne_of_not_mem_cons ho)⟩

/-- LBW is stored. -/
def lbwStored (s : State) (l : BitVec 2) : State := setF (rewritten s R.MSY_CTRL) F.MSY_CTRL_LBW l.toNat

theorem exec_loopBandwidthSelect {s : State} (l : BitVec 2) (hreach : reach s R.MSY_CTRL = true) : exec (.loopBandwidthSelect l) s =
    done (updMains (lbwStored s l) fun m => if cidxOk s then { m with lbwPend := some l.toNat } else { m with lbw := l.toNat, lbwPend := none }) := by
  have hcidx : cidxOk (lbwStored s l) = cidxOk s := isSet_setF_other _ _ _ _ (by decide) (by decide) (by decide)
  show done (access s R.MSY_CTRL fun s => selectLbw s l) = _
  rw [access_unlocked _ hreach, ← hcidx]
  show done (if cidxOk (lbwStored s l) then _ else _) = _
  split
  · rfl
  · rfl

theorem completes_loopBandwidthSelect {s : State} (lbw : BitVec 2) (hs : Settled s) (hreach : reach s R.MSY_CTRL = true) :
    Completes (.loopBandwidthSelect lbw) s fun t =>
      getF t F.MSY_CTRL_LBW = lbw.toNat ∧ SameRegs s t [R.MSY_CTRL] ∧
        t.mains = if cidxOk s then { s.mains with lbwPend := some lbw.toNat } else { s.mains with lbw := lbw.toNat, lbwPend := none } :=
  completes_settled (exec_loopBandwidthSelect lbw hreach) (((hs.rewritten _).wrN _ _).updMains _)
    ⟨(getF_setF_same _ _ _ (by decide) (by decide)).trans (Nat.mod_eq_of_lt lbw.isLt),
      fun o ho => rd_setF_ne _ _ _ (List.ne_of_not_mem_cons ho), rfl⟩

theorem exec_trackerEnWrite {s : State} (en : Bool) (hreach : reach s R.MSY_CTRL = true) : exec (.trackerEnWrite en) s =
    done (if en then setB (rewritten s R.MSY_CTRL) F.MSY_CTRL_EN en else enterHoldover (setB (rewritten s R.MSY_CTRL) F.MSY_CTRL_EN en)) := by
  show done (access s R.MSY_CTRL fun s => writeTrackerEn s en) = _
  rw [access_unlocked _ hreach]
  rfl

/-- What a hold-over shows as it begins (R110). -/
theorem holdoverBegun_flags (s : State) : isSet (holdoverBegun s) F.MSY_STATUS_LOCK = false ∧ isSet (holdoverBegun s) F.MSY_STATUS_HOLD = true ∧
    getF (holdoverBegun s) F.MSY_STATUS_HOLD_AGE = 0 ∧ isSet (holdoverBegun s) F.MSY_EVT_LOMS_CHG = true := by
  unfold holdoverBegun
  refine ⟨?_, ?_, ?_, ?_⟩
  · rw [isSet_setF_other _ _ _ _ (by decide) (by decide) (by decide), isSet_raise_other _ _ _ (by decide) (by decide) (by decide),
      isSet_raise_other _ _ _ (by decide) (by decide) (by decide), dropTrack, isSet_updMains, isSet_clear _ _ rfl (by decide)]
  · rw [isSet_setF_other _ _ _ _ (by decide) (by decide) (by decide), isSet_raise_same _ _ rfl (by decide)]
  · rw [getF_setF_same _ _ _ (by decide) (by decide), Nat.zero_mod]
  · rw [isSet_setF_other _ _ _ _ (by decide) (by decide) (by decide), isSet_raise_other _ _ _ (by decide) (by decide) (by decide),
      isSet_raise_same _ _ rfl (by decide)]

/-- A tracker that is stopped has no lock, and where it had one a hold-over has begun (R109, R110). -/
theorem enterHoldover_flags (s : State) : isSet (enterHoldover s) F.MSY_STATUS_LOCK = false ∧
    (isSet s F.MSY_STATUS_LOCK = true → isSet (enterHoldover s) F.MSY_STATUS_HOLD = true ∧ getF (enterHoldover s) F.MSY_STATUS_HOLD_AGE = 0 ∧
      isSet (enterHoldover s) F.MSY_EVT_LOMS_CHG = true) := by
  by_cases hlock : isSet s F.MSY_STATUS_LOCK = true
  · obtain ⟨h1, h2, h3, h4⟩ := holdoverBegun_flags s
    rcases sideKept_enterHoldover hlock with h | h
    · rw [h.isSet (by decide), h.isSet (by decide), h.getF (by decide), h.isSet (by decide)]
      exact ⟨h1, fun _ => ⟨h2, h3, h4⟩⟩
    · rw [h.isSet (by decide), h.isSet (by decide), h.getF (by decide), h.isSet (by decide),
        isSet_raise_other _ _ _ (by decide) (by decide) (by decide), isSet_raise_other _ _ _ (by decide) (by decide) (by decide),
        getF_raise_other _ _ _ (by decide) (by decide) (by decide), isSet_raise_other _ _ _ (by decide) (by decide) (by decide)]
      exact ⟨h1, fun _ => ⟨h2, h3, h4⟩⟩
  · have hoff : isSet s F.MSY_STATUS_LOCK = false := by simpa using hlock
    rw [enterHoldover_unlocked hoff]
    exact ⟨hoff, fun h => absurd h hlock⟩

theorem completes_trackerEnWrite_off {s : State} (hreach : reach s R.MSY_CTRL = true) :
    Completes (.trackerEnWrite false) s fun t => isSet t F.MSY_CTRL_EN = false ∧ isSet t F.MSY_STATUS_LOCK = false ∧
      cidxOk t = cidxOk s ∧ rd t R.MSY_CIDX = rd s R.MSY_CIDX ∧
      (isSet s F.MSY_STATUS_LOCK = true → isSet t F.MSY_STATUS_HOLD = true ∧ getF t F.MSY_STATUS_HOLD_AGE = 0 ∧
        isSet t F.MSY_EVT_LOMS_CHG = true) := by
  have hen : isSet (setB (rewritten s R.MSY_CTRL) F.MSY_CTRL_EN false) F.MSY_CTRL_EN = false := isSet_setB_same _ _ _ rfl (by decide)
  have hlock : isSet (setB (rewritten s R.MSY_CTRL) F.MSY_CTRL_EN false) F.MSY_STATUS_LOCK = isSet s F.MSY_STATUS_LOCK :=
    isSet_setB_other _ _ _ _ (by decide) (by decide) (by decide)
  have hcidx : cidxOk (setB (rewritten s R.MSY_CTRL) F.MSY_CTRL_EN false) = cidxOk s := isSet_setB_other _ _ _ _ (by decide) (by decide) (by decide)
  have hindex : rd (setB (rewritten s R.MSY_CTRL) F.MSY_CTRL_EN false) R.MSY_CIDX = rd s R.MSY_CIDX := rd_setF_ne _ _ _ (by decide)
  refine completes_done (exec_trackerEnWrite false hreach) ?_
  rw [if_neg Bool.false_ne_true]
  generalize setB (rewritten s R.MSY_CTRL) F.MSY_CTRL_EN false = u at *
  obtain ⟨hnone, hheld⟩ := enterHoldover_flags u
  have hctrl : RdKept R.MSY_CTRL u (enterHoldover u) := ⟨rd_enterHoldover u (by decide) (by decide) (by decide)⟩
  simp only [cidxOk] at hcidx ⊢
  rw [settle_isSet _ (by decide), settle_isSet _ (by decide), settle_isSet _ (by decide), settle_rd _ (by decide), settle_isSet _ (by decide),
    settle_getF _ (by decide), settle_isSet _ (by decide), ← hlock]
  refine ⟨(RdKept.isSet (f := F.MSY_CTRL_EN) hctrl).trans hen, hnone, ?_, ?_, hheld⟩
  · exact (guardKept_enterHoldover u).parts.2.2.trans hcidx
  · rw [rd_enterHoldover u (by decide) (by decide) (by decide), hindex]

/-- Settles O29: a write of MSY_SNS_CFG leaves what `SnsWritten` says, the tracker's settings wait as pending values, and a stopped tracker begins a
hold-over (`enterHoldover_flags`). -/
theorem sensingAndTrackerSettings : Obligations.SensingAndTrackerSettings := by
  unfold Obligations.SensingAndTrackerSettings
  refine fun s v ph lbw hs => ⟨fun hreach hlock => ?_, fun hreach hlock href hen hoff => ?_, completes_referencePhaseSelect ph hs,
    completes_loopBandwidthSelect lbw hs, fun hreach => ⟨?_, completes_trackerEnWrite_off hreach⟩⟩
  · obtain ⟨t, hexec, hword, hregs, hphases, -⟩ := completes_senseChannelConfig v hs hreach
    have htaken : snsTaken s v = v.toNat % 2 ^ 12 := by simp [snsTaken, snsRefused, hlock]
    refine ⟨t, hexec, hword.trans htaken, hregs, fun p hp => ?_⟩
    obtain ⟨hchanged, hkept⟩ := channelChanged_spec (rdN s R.MSY_SNS_CFG) (snsTaken s v) p (mph s p)
    simp only [snsEn, snsScs, hword, hphases p hp]
    exact ⟨hchanged, hkept⟩
  · obtain ⟨t, hexec, hword, -, -, hrefused⟩ := completes_senseChannelConfig v hs hreach
    have hrefusal := snsRefused_of_off hlock href hen hoff
    obtain ⟨hbit, hmux⟩ := snsTaken_of_refused hrefusal
    rw [← hword] at hbit hmux
    exact ⟨t, hexec, hrefused hrefusal, hbit.trans hen, hmux⟩
  · exact completes_settled (exec_trackerEnWrite true hreach) ((hs.rewritten _).wrN _ _)
      ⟨⟨rfl, fun o ho => rd_setF_ne _ _ _ (List.ne_of_not_mem_cons ho)⟩, isSet_setB_same _ _ _ rfl (by decide)⟩

end Sys2Proof.Machine

namespace Sys2Proof.Machine

/-! ### Samples at a tap (R307, R321) -/

theorem captureOnly_exportEvents (s : State) (ex : List Nat) (e : Nat) : CaptureOnly s (exportEvents s ex e) :=
  (captureOnly_lenExports s).trans
    (captureOnly_foldl _ _ (fun _ _ => (captureOnly_sendEvent _ _ _).trans (captureOnly_fire _ _ _ _)) _)

theorem captureOnly_threshStream (s : State) (tap inp : Nat) (v : Int) (marked : Bool) (e i : Nat) :
    CaptureOnly s (threshStream s tap inp v marked e i) := by
  unfold threshStream
  dsimp only
  have hcount : ∀ (c : Prop) [Decidable c] (x : Stream), CaptureOnly s (if c then s else setStream s i x) := fun c _ x =>
    captureOnly_ite (CaptureOnly.refl s) (captureOnly_setStream s i x)
  split
  · exact CaptureOnly.refl s
  · split
    · refine CaptureOnly.trans ?_ (captureOnly_exportEvents _ _ _)
      exact (hcount _ _).trans (captureOnly_tryStream _ _ _ _)
    · exact hcount _ _

/-- A sample at a tap touches the capture side and the host interface alone. -/
theorem captureOnly_feedSample (s : State) (tap i : Nat) (it : Item) : CaptureOnly s (feedSample s tap i it) := by
  unfold feedSample threshAll
  dsimp only
  split
  · exact CaptureOnly.refl s
  · refine CaptureOnly.trans (t := { s with streams := s.streams.map fun e => (e.1, takeSample s tap i it e.2) }) (CaptureOnly.of_data rfl) ?_
    split
    · exact CaptureOnly.refl _
    · exact captureOnly_foldl _ _ (fun _ _ => captureOnly_threshStream _ _ _ _ _ _ _) _

/-! ### One stage 4 code (R89, R90, R92) -/

/-- What a stage 4 code may touch before it joins its group: MSY_EVT, Yarrow's registers, the capture side and the free values. -/
def SampleSide (s t : State) : Prop :=
  t.mains = s.mains ∧ t.lanes = s.lanes ∧ t.jobs = s.jobs ∧ (Settled s → Settled t) ∧
    ∀ off < 0x8000, off / 0x400 ≠ 0xD → off ≠ R.MSY_EVT → rd t off = rd s off

namespace SampleSide

variable {s t u : State}

theorem refl (s : State) : SampleSide s s := ⟨rfl, rfl, rfl, id, fun _ _ _ _ => rfl⟩

theorem trans (h : SampleSide s t) (k : SampleSide t u) : SampleSide s u := by
  obtain ⟨hm, hl, hj, hs, hr⟩ := h
  obtain ⟨km, kl, kj, ks, kr⟩ := k
  exact ⟨km.trans hm, kl.trans hl, kj.trans hj, ks ∘ hs, fun o a b c => (kr o a b c).trans (hr o a b c)⟩

theorem of_capture (h : CaptureOnly s t) : SampleSide s t := ⟨h.mains, h.lanes, h.jobs, h.settled, fun _ ho hb _ => h.rd ho hb⟩

theorem usedFree (s : State) : SampleSide s (usedFree s) := ⟨rfl, rfl, rfl, fun h => h.congr rfl rfl fun _ => rfl, fun _ _ _ _ => rfl⟩

theorem raiseEvt (s : State) (f : Fld) (hf : f.off = R.MSY_EVT) : SampleSide s (raise s f) :=
  ⟨rfl, rfl, rfl, fun h => h.wrN _ _, fun _ _ _ ho => rd_setF_ne s _ _ (hf ▸ ho)⟩

end SampleSide

/-- Linearising takes no more than a free value. -/
theorem linearise_state (s : State) (p : Nat) (code : Int) : (linearise s p code).2.2 = s ∨ (linearise s p code).2.2 = usedFree s := by
  unfold linearise
  dsimp only
  split
  · exact .inr rfl
  · exact .inl rfl
  · split
    · exact .inl rfl
    · split <;> exact .inl rfl

theorem sampleSide_linearise (s : State) (p : Nat) (code : Int) : SampleSide s (linearise s p code).2.2 := by
  rcases linearise_state s p code with h | h <;> rw [h]
  · exact SampleSide.refl s
  · exact SampleSide.usedFree s

/-- The sample is invalid: it says so, or stage 3 outputs are still to be dropped (R90). -/
def sampleBad (s : State) (p : Nat) (bad : Bool) : Bool := bad || Nat.blt 0 (mph s p).skip

/-- A code linearised, its saturation flagged. -/
def codeLinearised (s : State) (p : Nat) (code : BitVec 18) : State :=
  let r := linearise s p code.toInt
  if r.2.1 then raise r.2.2 F.MSY_EVT_SAT else r.2.2

/-- A code linearised and fed to the streams that take it. -/
def codeFed (s : State) (p : Nat) (code : BitVec 18) (bad : Bool) : State :=
  let t := codeLinearised s p code
  feedSample t 6 p (instantBefore t (if snsScs t p then 4410 else 8230)
    (if sampleBad s p bad then 0x20000 else wrap 18 (linearise s p code.toInt).1))

theorem sampleSide_codeFed (s : State) (p : Nat) (code : BitVec 18) (bad : Bool) : SampleSide s (codeFed s p code bad) := by
  refine SampleSide.trans ?_ (SampleSide.of_capture (captureOnly_feedSample _ _ _ _))
  unfold codeLinearised
  dsimp only
  split
  · exact (sampleSide_linearise s p _).trans (SampleSide.raiseEvt _ _ rfl)
  · exact sampleSide_linearise s p _

/-- A phase's group with one more code. -/
def groupWith (s : State) (p : Nat) (code : BitVec 18) (bad : Bool) : MPhase :=
  { mph s p with
    skip := (mph s p).skip - 1
    lin := (if sampleBad s p bad then none else some (linearise s p code.toInt).1) :: (mph s p).lin }

/-- The filtered sample of a full group: none where one of its samples is invalid (a reading of R89: log entry 29). -/
def groupSample (s : State) (g : MPhase) : Option Int := if g.lin.all Option.isSome then some (sext 18 (freeNat s 18)) else none

theorem exec_senseSample {s : State} {ph : Fin 3} (code : BitVec 18) (bad : Bool) (hen : snsEn s ph.val = true) (hon : domainOn s 17 = true) :
    exec (.senseSample ph code bad) s =
      let t := codeFed s ph.val code bad
      let g := groupWith s ph.val code bad
      if g.lin.length < 8 then done (setMph t ph.val g)
      else done (setMph (usedFree t) ph.val { g with lin := [], win := groupSample t g :: g.win, half := g.half + 1 }) := by
  show (if !snsEn s ph.val || !domainOn s 17 then _ else _) = _
  rw [hen, hon]
  rfl

theorem exec_senseSample_off {s : State} {ph : Fin 3} (code : BitVec 18) (bad : Bool) (h : snsEn s ph.val = false ∨ domainOn s 17 = false) :
    exec (.senseSample ph code bad) s = done s := by
  show (if !snsEn s ph.val || !domainOn s 17 then done s else _) = _
  rw [if_pos (by rcases h with h | h <;> simp [h])]

theorem sampleBad_iff (s : State) (p : Nat) (bad : Bool) : sampleBad s p bad = true ↔ bad = true ∨ 0 < (mph s p).skip := by
  simp [sampleBad]

/-- Setting a phase after the code: the other phases, the lanes, the runs and the registers stay. -/
theorem sampleSide_setMph {s t : State} (h : SampleSide s t) (p : Nat) (y : MPhase) :
    (Settled s → Settled (setMph t p y)) ∧ mph (setMph t p y) p = y ∧ (∀ q, q ≠ p → mph (setMph t p y) q = mph s q) ∧
      (∀ off < 0x8000, off / 0x400 ≠ 0xD → off ≠ R.MSY_EVT → rd (setMph t p y) off = rd s off) ∧
      (setMph t p y).lanes = s.lanes ∧ (setMph t p y).jobs = s.jobs := by
  obtain ⟨hm, hl, hj, hs, hr⟩ := h
  refine ⟨fun k => MainsOnly.settled (s := t) rfl (hs k), mph_setMph_same t p y, fun q hq => ?_, hr, hl, hj⟩
  exact (mph_setMph_ne t y hq).trans (mph_congr (congrArg Mains.ph hm) q)

/-- Settles O30: each code joins its phase's group, linearised or marked; the eighth empties the group into one filtered sample. That a group
with an invalid sample gives an invalid one is the model's reading of R89 (log entry 29). -/
theorem eightSenseCodesMakeOneSample : Obligations.EightSenseCodesMakeOneSample := by
  intro s ph code bad hs
  refine ⟨fun h => completes_settled (exec_senseSample_off code bad h) hs rfl, fun hen hon => ?_⟩
  have hexec := exec_senseSample code bad hen hon
  have hside := sampleSide_codeFed s ph.val code bad
  have hlen : (groupWith s ph.val code bad).lin.length = (mph s ph.val).lin.length + 1 := rfl
  dsimp only at hexec
  by_cases hfew : (groupWith s ph.val code bad).lin.length < 8
  · rw [if_pos hfew] at hexec
    obtain ⟨hsettled, hsame, hother, hregs, hlanes, hjobs⟩ := sampleSide_setMph hside ph.val (groupWith s ph.val code bad)
    refine completes_settled hexec (hsettled hs) ⟨hother, hregs, ?_⟩
    rw [hsame]
    refine ⟨rfl, hlanes, hjobs, fun _ => ⟨rfl, rfl, fun h => ?_, fun hb hk => ?_⟩, fun h => by omega⟩
    · simp [groupWith, (sampleBad_iff s ph.val bad).2 h]
    · have hgood : sampleBad s ph.val bad = false := by rw [sampleBad, hb, hk]; rfl
      simp [groupWith, hgood]
  · rw [if_neg hfew] at hexec
    obtain ⟨hsettled, hsame, hother, hregs, hlanes, hjobs⟩ := sampleSide_setMph (hside.trans (SampleSide.usedFree _)) ph.val
      { groupWith s ph.val code bad with
        lin := [], win := groupSample (codeFed s ph.val code bad) (groupWith s ph.val code bad) :: (groupWith s ph.val code bad).win,
        half := (groupWith s ph.val code bad).half + 1 }
    refine completes_settled hexec (hsettled hs) ⟨hother, hregs, ?_⟩
    rw [hsame]
    refine ⟨rfl, hlanes, hjobs, fun h => by omega, fun _ => ⟨rfl, rfl, rfl, fun h => ?_⟩⟩
    have hinvalid : none ∈ (groupWith s ph.val code bad).lin := by
      rcases or_assoc.2 h with hb | hmem
      · simp [groupWith, (sampleBad_iff s ph.val bad).2 hb]
      · exact List.mem_cons_of_mem _ hmem
    have hall : (groupWith s ph.val code bad).lin.all Option.isSome = false := by
      rw [List.all_eq_false]
      exact ⟨none, hinvalid, by simp⟩
    simp [groupSample, hall]

end Sys2Proof.Machine

namespace Sys2Proof.Machine

/-! ### Fields and registers of the capture side -/

theorem CaptureOnly.rdN {s t : State} (h : CaptureOnly s t) {o : Nat} (ho : o < 0x8000) (hb : o / 0x400 ≠ 0xD) : rdN t o = rdN s o :=
  congrArg BitVec.toNat (h.rd ho hb)

/-! ### The cycle index (R107) -/

/-- A read of MSY_CIDX answers the index and stores the time and the frequency of its boundary. -/
theorem completes_msyCidxRead {s : State} (hs : Settled s) (hreach : reach s R.MSY_CIDX = true) : Completes .msyCidxRead s fun t =>
    { t with regs := s.regs, readData := s.readData } = s ∧ t.readData = rd s R.MSY_CIDX ∧ rd t R.MSY_FREQ = s.mains.freq ∧
      rdN t R.MSY_ZCTS_LO = s.mains.zc % 2 ^ 32 ∧ rdN t R.MSY_ZCTS_HI = s.mains.zc / 2 ^ 32 % 2 ^ 32 ∧
      SameRegs s t [R.MSY_ZCTS_LO, R.MSY_ZCTS_HI, R.MSY_FREQ] := by
  have hexec : exec .msyCidxRead s = done (readCidx s) := congrArg done (readAccess_reach _ hreach)
  have hrd : ∀ o, rd (readCidx s) o = rd (wr (wrN (wrN s R.MSY_ZCTS_LO s.mains.zc) R.MSY_ZCTS_HI (s.mains.zc / 2 ^ 32)) R.MSY_FREQ s.mains.freq) o :=
    fun _ => rfl
  refine completes_settled hexec (hs.congr rfl rfl fun _ => rfl) ⟨rfl, ?_, ?_, ?_, ?_, fun o ho => ?_⟩
  · show rd (wr (wrN (wrN s R.MSY_ZCTS_LO s.mains.zc) R.MSY_ZCTS_HI (s.mains.zc / 2 ^ 32)) R.MSY_FREQ s.mains.freq) R.MSY_CIDX = _
    rw [rd_wr_ne _ _ (by decide), rd_wrN, if_neg (by decide), rd_wrN, if_neg (by decide)]
  · rw [hrd, rd_wr_same]
  · rw [rdN, hrd, rd_wr_ne _ _ (by decide), rd_wrN, if_neg (by decide), rd_wrN, if_pos rfl, BitVec.toNat_ofNat]
  · rw [rdN, hrd, rd_wr_ne _ _ (by decide), rd_wrN, if_pos rfl, BitVec.toNat_ofNat]
  · simp only [List.mem_cons, List.not_mem_nil, or_false, not_or] at ho
    obtain ⟨hlo, hhi, hfreq⟩ := ho
    rw [hrd, rd_wr_ne _ _ hfreq, rd_wrN, if_neg hhi, rd_wrN, if_neg hlo]

/-! ### Timebase steps (R116) -/

/-- What a step moves outside the capture side: the timebase, the fault windows, the supervision timers and the servo's last edge. -/
def stepMoved (s : State) (d : Int) : State :=
  let u := updMains s fun m => { m with
    tb := BitVec.ofNat 64 (stepped d (tbNow s)), stepped := m.stepped + d,
    pps := { m.pps with last := m.pps.last.map (stepped d) } }
  { u with
    rel := { u.rel with
      hist := u.rel.hist.map fun (k, h) => (k, { h with times := h.times.map (stepped d) }),
      lastLink := u.rel.lastLink.map (stepped d) },
    sessions := u.sessions.map fun (k, x) => (k, { x with tAuth := stepped d x.tAuth }) }

theorem captureOnly_stepStreams (s : State) (d : Int) : CaptureOnly s (stepStreams s d) := by
  have hbroken := captureOnly_breakChunks s true fun _ => true
  unfold stepStreams
  generalize breakChunks s true (fun _ => true) = u at hbroken ⊢
  exact hbroken.trans (CaptureOnly.of_data (s := u) rfl)

/-- The capture side follows the step, then it is flagged, then its event goes out. -/
theorem stepTimebase_parts (s : State) (d : Int) : ∃ u, CaptureOnly (stepMoved s d) u ∧ CaptureOnly (raise u F.MSY_EVT_TB_STEP) (stepTimebase s d) :=
  ⟨stepStreams (stepMoved s d) d, captureOnly_stepStreams _ d, (ringOnly_eventNow _ _ _ _ _).toCapture⟩

theorem stepTimebase_kept (s : State) (d : Int) : (stepTimebase s d).mains = (stepMoved s d).mains ∧
    (stepTimebase s d).rel = (stepMoved s d).rel ∧ (stepTimebase s d).sessions = (stepMoved s d).sessions ∧
    (stepTimebase s d).lanes = s.lanes := by
  obtain ⟨u, hmoved, hevent⟩ := stepTimebase_parts s d
  exact ⟨hevent.mains.trans hmoved.mains, hevent.rel.trans hmoved.rel, hevent.sessions.trans hmoved.sessions, hevent.lanes.trans hmoved.lanes⟩

theorem rd_stepTimebase (s : State) (d : Int) {o : Nat} (ho : o < 0x8000) (hb : o / 0x400 ≠ 0xD) (he : o ≠ R.MSY_EVT) :
    rd (stepTimebase s d) o = rd s o := by
  obtain ⟨u, hmoved, hevent⟩ := stepTimebase_parts s d
  exact ((hevent.rd ho hb).trans (rd_setF_ne u _ _ he)).trans (hmoved.rd ho hb)

theorem isSet_stepTimebase (s : State) (d : Int) : isSet (stepTimebase s d) F.MSY_EVT_TB_STEP = true := by
  obtain ⟨u, -, hevent⟩ := stepTimebase_parts s d
  rw [isSet, getF, hevent.rdN (by decide) (by decide)]
  exact isSet_raise_same u F.MSY_EVT_TB_STEP rfl (by decide)

/-- The timebase after a step is the sum modulo 2^64. -/
theorem ofNat_stepped (tb : BitVec 64) (d : Int) : BitVec.ofNat 64 (stepped d tb.toNat) = tb + BitVec.ofInt 64 d := by
  have hsum : BitVec.ofNat 64 (stepped d tb.toNat) = BitVec.ofInt 64 ((tb.toNat : Int) + d) := by
    apply BitVec.eq_of_toNat_eq
    rw [BitVec.toNat_ofNat, BitVec.toNat_ofInt, stepped, wrap]
    omega
  rw [hsum, BitVec.ofInt_add, BitVec.ofInt_natCast, BitVec.ofNat_toNat, BitVec.setWidth_eq]

theorem stepMoved_tb (s : State) (d : Int) : (stepMoved s d).mains.tb = s.mains.tb + BitVec.ofInt 64 d := ofNat_stepped s.mains.tb d

theorem stepMoved_sessions (s : State) (d : Int) : (stepMoved s d).sessions.map Prod.fst = s.sessions.map Prod.fst := by
  show (s.sessions.map fun x => (x.1, { x.2 with tAuth := stepped d x.2.tAuth })).map Prod.fst = _
  rw [List.map_map]
  rfl

theorem completes_timebaseStepNow {s : State} (hreach : reach s R.MSY_TB_CMD = true) : Completes .timebaseStepNow s fun t =>
    t.mains.tb = s.mains.tb + BitVec.ofInt 64 (stepValue s) ∧ t.mains.elapsed = s.mains.elapsed ∧ t.mains.zc = s.mains.zc ∧
      isSet t F.MSY_EVT_TB_STEP = true ∧ t.sessions.map Prod.fst = s.sessions.map Prod.fst ∧ t.lanes = s.lanes ∧
      t.rel.lastLink = s.rel.lastLink.map (stepped (stepValue s)) ∧ rd t R.MSY_CIDX = rd s R.MSY_CIDX := by
  have hexec : exec .timebaseStepNow s = done (stepTimebase (rewritten s R.MSY_TB_CMD) (stepValue s)) := congrArg done (access_unlocked _ hreach)
  obtain ⟨hmains, hrel, hsessions, hlanes⟩ := stepTimebase_kept (rewritten s R.MSY_TB_CMD) (stepValue s)
  refine completes_done hexec ?_
  rw [settle_mains, settle_sessions, settle_lanes, settle_rel, settle_isSet _ (by decide), settle_rd _ (by decide), hmains, hrel, hsessions, hlanes,
    isSet_stepTimebase, rd_stepTimebase _ _ (by decide) (by decide) (by decide)]
  exact ⟨stepMoved_tb _ _, rfl, rfl, rfl, stepMoved_sessions _ _, rfl, rfl, rfl⟩

theorem completes_timebaseStepAtPps {s : State} (hs : Settled s) (hreach : reach s R.MSY_TB_CMD = true) : Completes .timebaseStepAtPps s fun t =>
    t = { rewritten s R.MSY_TB_CMD with mains := { s.mains with pps := { s.mains.pps with armed := true } } } :=
  completes_settled (congrArg done (access_unlocked armStep hreach)) (hs.congr rfl rfl fun _ => rfl) rfl

/-! ### Rate and servo mode (R114, R117) -/

theorem sext_wrap {x : Int} (hlo : -2 ^ 31 ≤ x) (hhi : x < 2 ^ 31) : sext 32 (wrap 32 x % 2 ^ 32) = x := by
  unfold sext wrap
  split <;> omega

theorem sext_toNat (v : Word) : sext 32 v.toNat = v.toInt := by
  have hlt := v.isLt
  rw [BitVec.toInt_eq_toNat_cond]
  unfold sext
  split <;> split <;> omega

theorem clampI_eq {n x : Int} (h : 0 ≤ n) : clampI n x = max (-n) (min n x) := by
  unfold clampI
  split
  · omega
  · split <;> omega

theorem exec_rateAdjustWrite {s : State} (v : Word) (hreach : reach s R.MSY_TB_ADJ = true) :
    exec (.rateAdjustWrite v) s = done (writeAdj (rewritten s R.MSY_TB_ADJ) v) := congrArg done (access_unlocked _ hreach)

theorem regsOnly_writeAdj (s : State) (v : Word) : RegsOnly s (writeAdj s v) := by
  unfold writeAdj
  exact ((RegsOnly.refl s).raise _).ite ((RegsOnly.refl s).ite ((RegsOnly.refl s).wrN _ _))

theorem writeAdj_refused {s : State} (v : Word) (h : getF s F.MSY_PPS_CTRL_MODE = 2 ∨ isSet s F.JIR_STATUS_TLOCK = true) :
    writeAdj s v = raise s F.MSY_EVT_CFG_ERR := if_pos h

theorem writeAdj_taken {s : State} (v : Word) (hmode : getF s F.MSY_PPS_CTRL_MODE ≠ 2) (hlock : isSet s F.JIR_STATUS_TLOCK = false) :
    writeAdj s v = if getF s F.CLK_STRAP_CLKSEL = 1 ∨ getF s F.CLK_STRAP_CLKSEL = 2 then s
      else wrN s R.MSY_TB_ADJ (wrap 32 (clampI adjMax (sext 32 v.toNat))) := if_neg (by simp [hmode, hlock])

/-- The rate that is stored is the one written, limited to ±200 ppm. -/
theorem sext_adj (v : Word) : sext 32 (wrap 32 (clampI adjMax (sext 32 v.toNat)) % 2 ^ 32) = max (-adjMax) (min adjMax v.toInt) := by
  have hlimit : clampI adjMax (sext 32 v.toNat) = max (-adjMax) (min adjMax v.toInt) := by rw [clampI_eq (by decide), sext_toNat]
  rw [hlimit]
  refine sext_wrap ?_ ?_ <;> rw [adjMax] <;> omega

theorem completes_rateAdjustWrite {s : State} (v : Word) (hs : Settled s) (hreach : reach s R.MSY_TB_ADJ = true) :
    Completes (.rateAdjustWrite v) s fun t =>
      RegsOnly (rewritten s R.MSY_TB_ADJ) t ∧
        (getF s F.MSY_PPS_CTRL_MODE = 2 ∨ isSet s F.JIR_STATUS_TLOCK = true → rd t R.MSY_TB_ADJ = rd s R.MSY_TB_ADJ ∧
          isSet t F.MSY_EVT_CFG_ERR = true ∧ SameRegs s t [R.MSY_EVT]) ∧
        (getF s F.MSY_PPS_CTRL_MODE ≠ 2 → isSet s F.JIR_STATUS_TLOCK = false → SameRegs s t [R.MSY_TB_ADJ] ∧
          (getF s F.CLK_STRAP_CLKSEL = 1 ∨ getF s F.CLK_STRAP_CLKSEL = 2 → t.regs = s.regs) ∧
          (getF s F.CLK_STRAP_CLKSEL = 0 → sext 32 (rdN t R.MSY_TB_ADJ) = max (-adjMax) (min adjMax v.toInt))) := by
  have honly := regsOnly_writeAdj (rewritten s R.MSY_TB_ADJ) v
  refine completes_settled (exec_rateAdjustWrite v hreach) (honly.settled (hs.rewritten _)) ⟨honly, fun h => ?_, fun hmode hlock => ?_⟩
  · rw [writeAdj_refused v (s := rewritten s R.MSY_TB_ADJ) h]
    refine ⟨rd_setF_ne _ _ _ (by decide), isSet_raise_same _ _ rfl (by decide), fun o ho => rd_setF_ne _ _ _ (List.ne_of_not_mem_cons ho)⟩
  · rw [writeAdj_taken v (s := rewritten s R.MSY_TB_ADJ) hmode hlock]
    refine ⟨fun o ho => ?_, fun h => ?_, fun h => ?_⟩
    · split
      · rfl
      · rw [rd_wrN, if_neg (List.ne_of_not_mem_cons ho)]
        rfl
    · rw [if_pos (by exact h)]
      rfl
    · rw [getF_rewritten, h, if_neg (by decide), rdN_wrN, if_pos rfl, sext_adj]

/-- The servo starts anew; a step that waits for an edge stays armed. -/
def servoAnew (m : Mains) : Mains := { m with pps := { armed := m.pps.armed } }

/-- MODE is stored, and 0b11 flagged. -/
def ppsModeStored (s : State) (mode : BitVec 2) : State :=
  let u := setF s F.MSY_PPS_CTRL_MODE mode.toNat
  if mode = 3 then raise u F.MSY_EVT_CFG_ERR else u

theorem selectPps_eq (s : State) (mode : BitVec 2) : selectPps s mode =
    updMains (setF (ppsModeStored s mode) F.MSY_STATUS_PPS_LOCK 0) servoAnew := rfl

theorem ppsModeStored_spec (s : State) (mode : BitVec 2) : RegsOnly s (ppsModeStored s mode) ∧
    SameRegs s (ppsModeStored s mode) [R.MSY_PPS_CTRL, R.MSY_EVT] ∧ getF (ppsModeStored s mode) F.MSY_PPS_CTRL_MODE = mode.toNat ∧
    (mode = 3 → isSet (ppsModeStored s mode) F.MSY_EVT_CFG_ERR = true) := by
  have hmode : getF (setF s F.MSY_PPS_CTRL_MODE mode.toNat) F.MSY_PPS_CTRL_MODE = mode.toNat :=
    (getF_setF_same s _ _ (by decide) (by decide)).trans (Nat.mod_eq_of_lt mode.isLt)
  have hone : SameRegs s (setF s F.MSY_PPS_CTRL_MODE mode.toNat) [R.MSY_PPS_CTRL] := fun o ho => rd_setF_ne s _ _ (List.ne_of_not_mem_cons ho)
  unfold ppsModeStored
  dsimp only
  split
  next h3 =>
    refine ⟨rfl, fun o ho => ?_, ?_, fun _ => isSet_raise_same _ _ rfl (by decide)⟩
    · simp only [List.mem_cons, List.not_mem_nil, or_false, not_or] at ho
      exact (rd_setF_ne _ _ _ ho.2).trans (hone o (List.not_mem_cons_of_ne_of_not_mem ho.1 List.not_mem_nil))
    · rw [getF_raise_other _ _ _ (by decide) (by decide) (by decide), hmode]
  next h3 => exact ⟨rfl, fun o ho => hone o (fun h => ho (List.mem_append_left _ h)), hmode, fun h => absurd h h3⟩

theorem completes_ppsModeSelect {s : State} (mode : BitVec 2) (hs : Settled s) (hreach : reach s R.MSY_PPS_CTRL = true) :
    Completes (.ppsModeSelect mode) s fun t =>
      getF t F.MSY_PPS_CTRL_MODE = mode.toNat ∧ isSet t F.MSY_STATUS_PPS_LOCK = false ∧ (mode = 3 → isSet t F.MSY_EVT_CFG_ERR = true) ∧
        t.mains = { s.mains with pps := { armed := s.mains.pps.armed } } ∧ SameRegs s t [R.MSY_PPS_CTRL, R.MSY_EVT, R.MSY_STATUS] := by
  have hexec : exec (.ppsModeSelect mode) s = done (selectPps (rewritten s R.MSY_PPS_CTRL) mode) := congrArg done (access_unlocked _ hreach)
  obtain ⟨honly, hsame, hmode, herr⟩ := ppsModeStored_spec (rewritten s R.MSY_PPS_CTRL) mode
  rw [selectPps_eq] at hexec
  refine completes_settled hexec (((honly.settled (hs.rewritten _)).wrN _ _).updMains _) ⟨?_, ?_, fun h3 => ?_, ?_, fun o ho => ?_⟩
  · rw [getF_updMains, getF_setF_other _ _ _ _ (by decide) (by decide) (by decide), hmode]
  · rw [isSet_updMains, isSet_clear _ _ rfl (by decide)]
  · rw [isSet_updMains, isSet_setF_other _ _ _ _ (by decide) (by decide) (by decide), herr h3]
  · exact congrArg servoAnew honly.mains
  · simp only [List.mem_cons, List.not_mem_nil, or_false, not_or] at ho
    obtain ⟨hctrl, hevt, hstatus⟩ := ho
    rw [rd_updMains, rd_setF_ne _ _ _ hstatus, hsame o (by simp [hctrl, hevt])]
    rfl

end Sys2Proof.Machine

namespace Sys2Proof.Machine

/-! ### The loss of the servo's lock (R117) -/

theorem losePps_unlocked {s : State} (h : isSet s F.MSY_STATUS_PPS_LOCK = false) : losePps s = s := if_neg (by rw [h]; decide)

/-- The servo holds its last rate. -/
def rateHeld (m : Mains) : Mains := { m with pps := { m.pps with held := true } }

theorem losePps_locked {s : State} (h : isSet s F.MSY_STATUS_PPS_LOCK = true) :
    losePps s = updMains (raise (setF s F.MSY_STATUS_PPS_LOCK 0) F.MSY_EVT_PPS_LOST) rateHeld := if_pos h

theorem completes_ppsLost {s : State} (hs : Settled s) (h : isSet s F.MSY_STATUS_PPS_LOCK = true) : Completes .ppsLost s fun t =>
    OnlyRegs { s with mains := { s.mains with pps := { s.mains.pps with held := true } } } t [R.MSY_STATUS, R.MSY_EVT] ∧
      isSet t F.MSY_STATUS_PPS_LOCK = false ∧ isSet t F.MSY_EVT_PPS_LOST = true := by
  have hexec : exec .ppsLost s = done (updMains (raise (setF s F.MSY_STATUS_PPS_LOCK 0) F.MSY_EVT_PPS_LOST) rateHeld) :=
    congrArg done (losePps_locked h)
  refine completes_settled hexec (((hs.wrN _ _).wrN _ _).updMains _) ⟨⟨rfl, fun o ho => ?_⟩, ?_, ?_⟩
  · simp only [List.mem_cons, List.not_mem_nil, or_false, not_or] at ho
    rw [rd_updMains, raise, rd_setF_ne _ _ _ ho.2, rd_setF_ne _ _ _ ho.1]
    rfl
  · rw [isSet_updMains, isSet_raise_other _ _ _ (by decide) (by decide) (by decide), isSet_clear _ _ rfl (by decide)]
  · rw [isSet_updMains, isSet_raise_same _ _ rfl (by decide)]

/-! ### An accepted edge (R116, R117) -/

/-- The edge is accepted: high for 1 µs, 1 s ± 100 µs after the last. -/
def edgeOk (s : State) (ts : BitVec 64) (high : Nat) : Bool :=
  Nat.ble 1000 high && match s.mains.pps.last with
    | none => true
    | some l => Nat.ble (l + 999900000) ts.toNat && Nat.ble ts.toNat (l + 1000100000)

/-- The edge is stamped. -/
def edgeStamped (s : State) (t : Nat) : State :=
  updMains (wrN (wrN s R.MSY_PPS_TS_LO t) R.MSY_PPS_TS_HI (t / 2 ^ 32)) fun m => { m with pps := { m.pps with last := some t } }

/-- The edge is stamped and fires its triggers. -/
def edgeFired (s : State) (t : Nat) : State := trigger (edgeStamped s t) matchPps t

/-- No step waits any more. -/
def disarmed (s : State) : State := updMains s fun m => { m with pps := { m.pps with armed := false } }

theorem rd_disarmed (s : State) (o : Nat) : rd (disarmed s) o = rd s o := rfl

/-- An armed step takes place at the edge. -/
def edgeStepped (s : State) (t : Nat) : State :=
  let u := edgeFired s t
  if u.mains.pps.armed then stepTimebase (disarmed u) (stepValue u) else u

/-- The edge's time in the servo: an armed step has moved it. -/
def edgeTime (s : State) (t : Nat) : Nat :=
  if (edgeFired s t).mains.pps.armed then stepped (stepValue (edgeStepped s t)) t else t

theorem exec_ppsEdge_accepted {s : State} {ts : BitVec 64} {high : Nat} (hreset : s.pins.inReset = false) (hok : edgeOk s ts high = true) :
    exec (.ppsEdge ts high) s = if ppsMode (edgeStepped s ts.toNat) = 0 then done (edgeStepped s ts.toNat)
      else done (servo (edgeStepped s ts.toNat) (edgeTime s ts.toNat) s.mains.pps.last.isNone) := by
  show (if !edgeOk s ts high || s.pins.inReset then done s else _) = _
  rw [if_neg (by rw [hok, hreset]; decide)]
  unfold edgeTime edgeStepped edgeFired edgeStamped disarmed
  rfl

theorem exec_ppsEdge_refused {s : State} {ts : BitVec 64} {high : Nat} (h : s.pins.inReset = true ∨ edgeOk s ts high = false) :
    exec (.ppsEdge ts high) s = done s := by
  show (if !edgeOk s ts high || s.pins.inReset then done s else _) = _
  rw [if_pos (by rcases h with h | h <;> simp [h])]

theorem edgeOk_iff (s : State) (ts : BitVec 64) (high : Nat) : edgeOk s ts high = true ↔
    1000 ≤ high ∧ ∀ l, s.mains.pps.last = some l → l + 999900000 ≤ ts.toNat ∧ ts.toNat ≤ l + 1000100000 := by
  unfold edgeOk
  cases s.mains.pps.last with
  | none => simp
  | some l => simp

theorem stepValue_congr {s t : State} (hlo : rd t R.MSY_TB_STEP_LO = rd s R.MSY_TB_STEP_LO) (hhi : rd t R.MSY_TB_STEP_HI = rd s R.MSY_TB_STEP_HI) :
    stepValue t = stepValue s := by
  rw [stepValue, rdN, rdN, hlo, hhi]
  rfl

/-- The triggers of an edge touch the capture side and the host interface alone. -/
theorem captureOnly_edgeFired (s : State) (t : Nat) : CaptureOnly (edgeStamped s t) (edgeFired s t) := captureOnly_trigger _ _ _

theorem edgeFired_mains (s : State) (t : Nat) : (edgeFired s t).mains = { s.mains with pps := { s.mains.pps with last := some t } } :=
  (captureOnly_edgeFired s t).mains

theorem edgeFired_armed (s : State) (t : Nat) : (edgeFired s t).mains.pps.armed = s.mains.pps.armed := by rw [edgeFired_mains]

theorem rd_edgeStamped (s : State) (t : Nat) {o : Nat} (hlo : o ≠ R.MSY_PPS_TS_LO) (hhi : o ≠ R.MSY_PPS_TS_HI) :
    rd (edgeStamped s t) o = rd s o := by
  rw [edgeStamped, rd_updMains, rd_wrN, if_neg hhi, rd_wrN, if_neg hlo]

theorem stepValue_edgeFired (s : State) (t : Nat) : stepValue (edgeFired s t) = stepValue s := by
  have hfired := captureOnly_edgeFired s t
  apply stepValue_congr
  · rw [hfired.rd (by decide) (by decide), rd_edgeStamped s t (by decide) (by decide)]
  · rw [hfired.rd (by decide) (by decide), rd_edgeStamped s t (by decide) (by decide)]

/-- An armed step takes place at the edge and moves what is dated. -/
theorem edgeStepped_of_armed {s : State} (t : Nat) (h : s.mains.pps.armed = true) :
    edgeStepped s t = stepTimebase (disarmed (edgeFired s t)) (stepValue s) := by
  rw [edgeStepped, if_pos ((edgeFired_armed s t).trans h), stepValue_edgeFired]

theorem edgeStepped_of_idle {s : State} (t : Nat) (h : s.mains.pps.armed = false) : edgeStepped s t = edgeFired s t := by
  rw [edgeStepped, if_neg (by rw [edgeFired_armed, h]; decide)]

/-- The registers that an accepted edge leaves as they were before its servo. -/
theorem rd_edgeStepped (s : State) (t : Nat) {o : Nat} (ho : o < 0x8000) (hb : o / 0x400 ≠ 0xD) (he : o ≠ R.MSY_EVT) :
    rd (edgeStepped s t) o = rd (edgeStamped s t) o := by
  rw [← (captureOnly_edgeFired s t).rd ho hb]
  cases harmed : s.mains.pps.armed with
  | true => rw [edgeStepped_of_armed t harmed, rd_stepTimebase _ _ ho hb he, rd_disarmed]
  | false => rw [edgeStepped_of_idle t harmed]

theorem stepValue_edgeStepped (s : State) (t : Nat) : stepValue (edgeStepped s t) = stepValue s := by
  apply stepValue_congr
  · rw [rd_edgeStepped s t (by decide) (by decide) (by decide), rd_edgeStamped s t (by decide) (by decide)]
  · rw [rd_edgeStepped s t (by decide) (by decide) (by decide), rd_edgeStamped s t (by decide) (by decide)]

theorem edgeTime_eq (s : State) (t : Nat) : edgeTime s t = if s.mains.pps.armed then stepped (stepValue s) t else t := by
  rw [edgeTime, edgeFired_armed, stepValue_edgeStepped]

theorem ppsMode_congr {s t : State} (hctrl : rd t R.MSY_PPS_CTRL = rd s R.MSY_PPS_CTRL) (hjir : rd t R.JIR_STATUS = rd s R.JIR_STATUS) :
    ppsMode t = ppsMode s := by
  have hmode : getF t F.MSY_PPS_CTRL_MODE = getF s F.MSY_PPS_CTRL_MODE := by
    rw [getF, getF, rdN, rdN, show F.MSY_PPS_CTRL_MODE.off = R.MSY_PPS_CTRL from rfl, hctrl]
  have hlock : isSet t F.JIR_STATUS_TLOCK = isSet s F.JIR_STATUS_TLOCK := by
    rw [isSet, isSet, getF, getF, rdN, rdN, show F.JIR_STATUS_TLOCK.off = R.JIR_STATUS from rfl, hjir]
  rw [ppsMode, hmode, hlock]
  rfl

theorem ppsMode_edgeStepped (s : State) (t : Nat) : ppsMode (edgeStepped s t) = ppsMode s := by
  apply ppsMode_congr
  · rw [rd_edgeStepped s t (by decide) (by decide) (by decide), rd_edgeStamped s t (by decide) (by decide)]
  · rw [rd_edgeStepped s t (by decide) (by decide) (by decide), rd_edgeStamped s t (by decide) (by decide)]

/-- The stamp of an accepted edge. -/
theorem rdN_edgeStepped_stamp (s : State) (ts : BitVec 64) : rdN (edgeStepped s ts.toNat) R.MSY_PPS_TS_LO = ts.toNat % 2 ^ 32 ∧
    rdN (edgeStepped s ts.toNat) R.MSY_PPS_TS_HI = ts.toNat / 2 ^ 32 := by
  have hts := ts.isLt
  constructor
  · rw [rdN, rd_edgeStepped s _ (by decide) (by decide) (by decide), edgeStamped, rd_updMains, rd_wrN, if_neg (by decide), rd_wrN, if_pos rfl,
      BitVec.toNat_ofNat]
  · rw [rdN, rd_edgeStepped s _ (by decide) (by decide) (by decide), edgeStamped, rd_updMains, rd_wrN, if_pos rfl, BitVec.toNat_ofNat,
      Nat.mod_eq_of_lt (by omega)]

/-- What an accepted edge does to mains tracking before its servo: an armed step takes place and no longer waits. -/
theorem edgeStepped_mains (s : State) (t : Nat) : (edgeStepped s t).mains.pps.armed = false ∧
    (s.mains.pps.armed = true → (edgeStepped s t).mains.tb = s.mains.tb + BitVec.ofInt 64 (stepValue s)) ∧
    (s.mains.pps.armed = false → (edgeStepped s t).mains = { s.mains with pps := { s.mains.pps with last := some t } }) := by
  have hmains := edgeFired_mains s t
  cases harmed : s.mains.pps.armed with
  | true =>
    have htb : (disarmed (edgeFired s t)).mains.tb = s.mains.tb := by rw [disarmed, updMains, hmains]
    rw [edgeStepped_of_armed t harmed, (stepTimebase_kept _ _).1]
    refine ⟨rfl, fun _ => ?_, fun h => absurd h (by decide)⟩
    rw [stepMoved_tb, htb]
  | false =>
    rw [edgeStepped_of_idle t harmed, hmains]
    exact ⟨harmed, fun h => absurd h (by decide), fun _ => rfl⟩

theorem edgeStepped_lanes (s : State) (t : Nat) : (edgeStepped s t).lanes = s.lanes := by
  have hfired := (captureOnly_edgeFired s t).lanes
  cases harmed : s.mains.pps.armed with
  | true => rw [edgeStepped_of_armed t harmed, (stepTimebase_kept _ _).2.2.2, disarmed, updMains, hfired, edgeStamped, updMains, wrN, wr, wrN, wr]
  | false => rw [edgeStepped_of_idle t harmed, hfired, edgeStamped, updMains, wrN, wr, wrN, wr]

/-! ### The servo (R117) -/

/-- What the servo leaves after it has measured its phase error: the edge's stamp and error, and that no step waits. -/
def EdgeKept (s t : State) : Prop :=
  t.mains.pps.armed = s.mains.pps.armed ∧ ∀ o ∈ [R.MSY_PPS_TS_LO, R.MSY_PPS_TS_HI, R.MSY_PPS_ERR], rd t o = rd s o

namespace EdgeKept

variable {s t u : State}

theorem refl (s : State) : EdgeKept s s := ⟨rfl, fun _ _ => rfl⟩

theorem trans (h : EdgeKept s t) (k : EdgeKept t u) : EdgeKept s u := ⟨k.1.trans h.1, fun o ho => (k.2 o ho).trans (h.2 o ho)⟩

theorem ite {a b : State} {c : Prop} [Decidable c] (ha : EdgeKept s a) (hb : EdgeKept s b) : EdgeKept s (if c then a else b) := by
  split
  · exact ha
  · exact hb

theorem updMains (s : State) (f : Mains → Mains) (h : (f s.mains).pps.armed = s.mains.pps.armed) : EdgeKept s (updMains s f) := ⟨h, fun _ _ => rfl⟩

theorem setF (s : State) (f : Fld) (v : Nat) (hf : f.off ∉ [R.MSY_PPS_TS_LO, R.MSY_PPS_TS_HI, R.MSY_PPS_ERR]) : EdgeKept s (setF s f v) :=
  ⟨rfl, fun _ ho => rd_setF_ne s f v fun h => hf (h ▸ ho)⟩

end EdgeKept

theorem edgeKept_losePps (s : State) : EdgeKept s (losePps s) :=
  EdgeKept.ite (((EdgeKept.setF s _ _ (by decide)).trans (EdgeKept.setF _ _ _ (by decide))).trans (EdgeKept.updMains _ rateHeld rfl)) (EdgeKept.refl s)

theorem edgeKept_stepTimebase (s : State) (d : Int) : EdgeKept s (stepTimebase s d) := by
  refine ⟨?_, fun o ho => ?_⟩
  · rw [(stepTimebase_kept s d).1]
    rfl
  · simp only [List.mem_cons, List.not_mem_nil, or_false] at ho
    rcases ho with rfl | rfl | rfl
    all_goals exact rd_stepTimebase s d (by decide) (by decide) (by decide)

theorem edgeKept_steerAdj (s : State) : EdgeKept s (steerAdj s) := by
  refine EdgeKept.ite (EdgeKept.refl s) ⟨rfl, fun o ho => ?_⟩
  exact (rd_wrN s R.MSY_TB_ADJ o _).trans (if_neg fun h => absurd (h ▸ ho) (by decide))

theorem wrap_lt (x : Int) : wrap 32 x < 2 ^ 32 := by
  unfold wrap
  omega

/-- The servo counts the edges within 100 ns and those beyond 1 µs. -/
def edgeJudged (s : State) (e : Int) : State :=
  let p := s.mains.pps
  let bad := if e.natAbs > 1000 then satN 4 (p.bad + 1) else 0
  updMains s fun m => { m with pps := { m.pps with
    good := if e.natAbs ≤ 100 then satN 8 (p.good + 1) else 0, bad := bad, held := m.pps.held && bad != 0 } }

/-- Eight good edges declare the servo's lock, four bad ones end it. -/
def lockJudged (s : State) (e : Int) : State :=
  let u := if (if e.natAbs ≤ 100 then satN 8 (s.mains.pps.good + 1) else 0) ≥ 8 then raise (edgeJudged s e) F.MSY_STATUS_PPS_LOCK else edgeJudged s e
  if (if e.natAbs > 1000 then satN 4 (s.mains.pps.bad + 1) else 0) ≥ 4 then losePps u else u

/-- The timebase is moved to the second: by a step at the first edge, if it is far off, else by a slew. -/
def phaseMoved (s : State) (e : Int) (first : Bool) : State :=
  if first && decide (e.natAbs > 1000000) then stepTimebase s (-e)
  else updMains s fun m => { m with pps := { m.pps with slew := -e * 2 ^ 32 } }

theorem servo_eq (s : State) (t : Nat) (first : Bool) : servo s t first =
    let e := ppsError t
    let u := lockJudged (wrN s R.MSY_PPS_ERR (wrap 32 e)) e
    if u.mains.pps.held then u else
    let v := phaseMoved u e first
    if ppsMode v = 2 then steerAdj v else v := rfl

theorem edgeKept_lockJudged (s : State) (e : Int) : EdgeKept s (lockJudged s e) := by
  have hjudged : EdgeKept s (edgeJudged s e) := EdgeKept.updMains s _ rfl
  have hlocked := hjudged.trans (EdgeKept.setF (edgeJudged s e) F.MSY_STATUS_PPS_LOCK 1 (by decide))
  exact EdgeKept.ite ((EdgeKept.ite hlocked hjudged).trans (edgeKept_losePps _)) (EdgeKept.ite hlocked hjudged)

theorem edgeKept_phaseMoved (s : State) (e : Int) (first : Bool) : EdgeKept s (phaseMoved s e first) :=
  EdgeKept.ite (edgeKept_stepTimebase s _) (EdgeKept.updMains s _ rfl)

/-- The error is measured first; what the servo then does leaves it. -/
theorem edgeKept_servo (s : State) (t : Nat) (first : Bool) : EdgeKept (wrN s R.MSY_PPS_ERR (wrap 32 (ppsError t))) (servo s t first) := by
  rw [servo_eq]
  have hjudged := edgeKept_lockJudged (wrN s R.MSY_PPS_ERR (wrap 32 (ppsError t))) (ppsError t)
  have hmoved := hjudged.trans (edgeKept_phaseMoved _ (ppsError t) first)
  exact EdgeKept.ite hjudged (EdgeKept.ite (hmoved.trans (edgeKept_steerAdj _)) hmoved)

section

variable {s : State} {ts : BitVec 64} {high : Nat} (hreset : s.pins.inReset = false) (hok : edgeOk s ts high = true)

include hreset hok in
/-- An accepted edge without a servo is stamped, and an armed step takes place at it. -/
theorem completes_ppsEdge_stamped (hmode : ppsMode s = 0) : Completes (.ppsEdge ts high) s fun t =>
    rdN t R.MSY_PPS_TS_LO = ts.toNat % 2 ^ 32 ∧ rdN t R.MSY_PPS_TS_HI = ts.toNat / 2 ^ 32 ∧
      t.mains.pps.armed = false ∧ t.lanes = s.lanes ∧ rd t R.MSY_TB_ADJ = rd s R.MSY_TB_ADJ ∧
      (s.mains.pps.armed = true → t.mains.tb = s.mains.tb + BitVec.ofInt 64 (stepValue s)) ∧
      (s.mains.pps.armed = false → t.mains = { s.mains with pps := { s.mains.pps with last := some ts.toNat } }) := by
  have hexec := exec_ppsEdge_accepted hreset hok
  rw [ppsMode_edgeStepped, if_pos hmode] at hexec
  obtain ⟨hlo, hhi⟩ := rdN_edgeStepped_stamp s ts
  obtain ⟨hidle, hstep, hkept⟩ := edgeStepped_mains s ts.toNat
  refine completes_done hexec ?_
  rw [settle_rdN _ (by decide), settle_rdN _ (by decide), settle_mains, settle_lanes, settle_rd _ (by decide)]
  refine ⟨hlo, hhi, hidle, edgeStepped_lanes s _, ?_, hstep, hkept⟩
  rw [rd_edgeStepped s _ (by decide) (by decide) (by decide), rd_edgeStamped s _ (by decide) (by decide)]

include hreset hok in
/-- An accepted edge with a servo is stamped, and its phase error is measured after a step at it. -/
theorem completes_ppsEdge_measured (hmode : ppsMode s ≠ 0) : Completes (.ppsEdge ts high) s fun t =>
    rdN t R.MSY_PPS_TS_LO = ts.toNat % 2 ^ 32 ∧ rdN t R.MSY_PPS_TS_HI = ts.toNat / 2 ^ 32 ∧
      rdN t R.MSY_PPS_ERR = wrap 32 (ppsError (if s.mains.pps.armed then stepped (stepValue s) ts.toNat else ts.toNat)) ∧
      t.mains.pps.armed = false := by
  have hexec := exec_ppsEdge_accepted hreset hok
  rw [ppsMode_edgeStepped, if_neg hmode] at hexec
  rw [← edgeTime_eq]
  obtain ⟨hlo, hhi⟩ := rdN_edgeStepped_stamp s ts
  obtain ⟨hidle, -, -⟩ := edgeStepped_mains s ts.toNat
  generalize edgeTime s ts.toNat = e at hexec ⊢
  obtain ⟨harmed, hregs⟩ := edgeKept_servo (edgeStepped s ts.toNat) e s.mains.pps.last.isNone
  refine completes_done hexec ?_
  rw [settle_rdN _ (by decide), settle_rdN _ (by decide), settle_rdN _ (by decide), settle_mains]
  rw [wrN_mains, hidle] at harmed
  refine ⟨?_, ?_, ?_, harmed⟩
  · rw [rdN, hregs _ (by decide), rd_wrN, if_neg (by decide)]
    exact hlo
  · rw [rdN, hregs _ (by decide), rd_wrN, if_neg (by decide)]
    exact hhi
  · rw [rdN, hregs _ (by decide), rd_wrN, if_pos rfl, BitVec.toNat_ofNat, Nat.mod_eq_of_lt (wrap_lt _)]

end

/-- Settles O34: each clause is the lemma of its command; a step reaches outside the capture side what `stepMoved` names and no more, and what
the servo does after its measurement leaves the edge's stamp and error (`edgeKept_servo`). A mode starts the servo anew also where it was
selected before, by the model's choice (log entry 125). -/
theorem timebaseReadsAndSettings : Obligations.TimebaseReadsAndSettings := by
  unfold Obligations.TimebaseReadsAndSettings
  refine ⟨fun s hs hreach => completes_msyCidxRead hs hreach,
    fun s hreach => ⟨completes_timebaseStepNow hreach, fun hs => completes_timebaseStepAtPps hs hreach⟩,
    fun s v mode hs => ⟨completes_rateAdjustWrite v hs, completes_ppsModeSelect mode hs⟩,
    fun s ts high => ⟨fun hs h => ?_, fun hreset hhigh hlast => ?_, fun hreset hhigh hlast => ?_, fun hs h => ?_, completes_ppsLost⟩⟩
  · refine completes_settled (exec_ppsEdge_refused ?_) hs rfl
    rw [Bool.eq_false_iff, ne_eq, edgeOk_iff]
    rcases h with hreset | hshort | ⟨l, hl, hoff⟩
    · exact .inl hreset
    · exact .inr fun hok => absurd hok.1 (by omega)
    · exact .inr fun hok => by
        obtain ⟨hearly, hlate⟩ := hok.2 l hl
        omega
  · exact completes_ppsEdge_stamped hreset ((edgeOk_iff s ts high).2 ⟨hhigh, hlast⟩)
  · exact completes_ppsEdge_measured hreset ((edgeOk_iff s ts high).2 ⟨hhigh, hlast⟩)
  · exact completes_settled (congrArg done (losePps_unlocked h)) hs rfl

end Sys2Proof.Machine

namespace Sys2Proof.Machine

/-! ### A tick that ends the command Standby waits for -/

/-- The entry of an injection player, which is also its only item word: a DATA entry of three items at word 0. It is three bits away from the
codeword 0, so that it cannot be corrected (R310). -/
def brokenEntry : Nat := 2 ^ 123 + 2 ^ 61 + 2 ^ 62

/-- Standby waits for command 1 alone, whose player meets an uncorrectable word at the next fetch; Listen has been requested meanwhile, and the
Xaton image in use holds coefficients. -/
def standbyAwaitsPlayer : State :=
  { setF (wrN afterReset R.PWR_PG 2) F.PWR_CTRL_TARGET 3 with
    pwr := { afterReset.pwr with toStandby := true }
    boot := { afterReset.boot with xaton := [.coef 0 []] }
    rings := [(16, { st := .enabled })]
    cmds := [{ uid := 1, fn := 0, sq := 0, cq := 0, desc := [], st := .engine }]
    dram := [(patBase, brokenEntry)]
    players := [(3, { st := .playing, uid := 1 })] }

/-- The tick ends the command, Standby is entered and left again, and the Xaton records write the coefficients of phase A anew. -/
theorem step_standbyAwaitsPlayer {t : State} (h : step standbyAwaitsPlayer = .next t) : t.mains.bankWritten = 1 := by
  have hrun : (match step standbyAwaitsPlayer with | .next t => t.mains.bankWritten | _ => 0) = 1 := by decide +kernel
  rwa [h] at hrun

/-- Refutes O5: with the timebase stopped, a tick of the empty queue (log entry 2) can end the last command Standby waits for; Standby then
gives way to a requested Listen at once, and the rise writes the Xaton coefficients (R438), so that mains tracking does not stay as it was. -/
theorem not_emptyQueuePasses8ns : ¬ Obligations.EmptyQueuePasses8ns := by
  unfold Obligations.EmptyQueuePasses8ns
  intro h
  have hsettled : Settled standbyAwaitsPlayer := settled_empty rfl rfl
  obtain ⟨t, ht, -, -, hstopped, -⟩ := h standbyAwaitsPlayer rfl (by decide +kernel) hsettled
  have hkept : t.mains.bankWritten = standbyAwaitsPlayer.mains.bankWritten := congrArg Mains.bankWritten (hstopped rfl)
  exact absurd ((step_standbyAwaitsPlayer ht).symm.trans hkept) (by decide +kernel)

end Sys2Proof.Machine

namespace Sys2Proof.Machine

/-! ### Fields of a register -/

/-- A field reads what has been stored in it. -/
theorem getF_setF_here (s : State) {o hi lo : Nat} (v : Nat) (hle : lo ≤ hi := by decide) (hlt : hi < 32 := by decide) :
    getF (setF s ⟨o, hi, lo⟩ v) ⟨o, hi, lo⟩ = v % 2 ^ (hi + 1 - lo) := getF_setF_same s _ v hle hlt

/-- Another field of the same register stays. -/
theorem getF_setF_beside (s : State) {o hi lo hi' lo' : Nat} (v : Nat) (hle : lo ≤ hi := by decide) (hlt : hi < 32 := by decide)
    (hapart : hi < lo' ∨ hi' < lo := by decide) : getF (setF s ⟨o, hi, lo⟩ v) ⟨o, hi', lo'⟩ = getF s ⟨o, hi', lo'⟩ :=
  getF_setF_other s _ _ v hle hlt (.inr hapart)

/-- A field of another register stays. -/
theorem getF_setF_away (s : State) {f g : Fld} (v : Nat) (h : g.off ≠ f.off) : getF (setF s f v) g = getF s g := getF_wrN_ne s g _ _ h

theorem isSet_of_getF {s t : State} {f : Fld} (h : getF t f = getF s f) : isSet t f = isSet s f := congrArg (· == 1) h

theorem isSet_of_rd {s t : State} {f : Fld} (h : rd t f.off = rd s f.off) : isSet t f = isSet s f := RdKept.isSet ⟨h⟩

theorem isSet_raise_here (s : State) {o b : Nat} (hlt : b < 32 := by decide) : isSet (raise s ⟨o, b, b⟩) ⟨o, b, b⟩ = true :=
  isSet_raise_same s _ rfl hlt

/-- A flag stored as 0 is clear. -/
theorem isSet_setF_zero (s : State) {o b : Nat} (hlt : b < 32 := by decide) : isSet (setF s ⟨o, b, b⟩ 0) ⟨o, b, b⟩ = false := by
  rw [isSet, getF_setF_here s 0 le_rfl hlt, Nat.zero_mod]
  rfl

/-- A raised flag stays raised while flags of its register are raised. -/
theorem isSet_raise_mono (s : State) {o a b : Nat} (h : isSet s ⟨o, b, b⟩ = true) (ha : a < 32 := by decide) :
    isSet (raise s ⟨o, a, a⟩) ⟨o, b, b⟩ = true := by
  by_cases hab : a = b
  · subst hab
    exact isSet_raise_same s _ rfl ha
  · exact (isSet_raise_flag s o ha hab).trans h

/-- Registers of one input at different places are different. -/
theorem rxfReg_ne {a b i : Nat} (h : a ≠ b := by decide) : a + 0x100 * i ≠ b + 0x100 * i := fun heq => h (Nat.add_right_cancel heq)

/-- The registers of RXF and TSL belong to no covered set. -/
theorem setOf_front {o : Nat} (hlow : 0x1000 ≤ o) (hhigh : o < 0x2000) : setOf o = none := by
  have hxaton : ¬ (o = 0x2448 ∨ o = 0x244C ∨ o = 0x2488 ∨ o = 0x248C ∨ o = 0x24C8 ∨ o = 0x24CC) := by omega
  unfold setOf
  rw [if_neg (by simpa using hxaton), if_neg (by omega), if_neg (by omega), if_neg (by omega), if_neg (by omega)]

/-! ### The state of an input -/

@[simp] theorem rxIn_setRx_same (s : State) (i : Nat) (x : RxIn) : rxIn (setRx s i x) i = x := fgetD_fput_same _ _ _ _

theorem rxIn_setRx_ne (s : State) {i q : Nat} (x : RxIn) (h : q ≠ i) : rxIn (setRx s i x) q = rxIn s q := fgetD_fput_ne _ _ _ h

@[simp] theorem rxIn_updRx_same (s : State) (i : Nat) (f : RxIn → RxIn) : rxIn (updRx s i f) i = f (rxIn s i) := rxIn_setRx_same _ _ _

theorem rxIn_congr {s t : State} (h : t.rx = s.rx) (q : Nat) : rxIn t q = rxIn s q := by rw [rxIn, h, rxIn]

@[simp] theorem rd_setRx (s : State) (i : Nat) (x : RxIn) (o : Nat) : rd (setRx s i x) o = rd s o := rfl
@[simp] theorem rdN_setRx (s : State) (i : Nat) (x : RxIn) (o : Nat) : rdN (setRx s i x) o = rdN s o := rfl
@[simp] theorem isSet_setRx (s : State) (i : Nat) (x : RxIn) (f : Fld) : isSet (setRx s i x) f = isSet s f := rfl

@[simp] theorem rxIn_wrN (s : State) (o v q : Nat) : rxIn (wrN s o v) q = rxIn s q := rfl
@[simp] theorem rxIn_setF (s : State) (f : Fld) (v q : Nat) : rxIn (setF s f v) q = rxIn s q := rfl
@[simp] theorem rxIn_setB (s : State) (f : Fld) (b : Bool) (q : Nat) : rxIn (setB s f b) q = rxIn s q := rfl
@[simp] theorem rxIn_raiseBit (s : State) (o b q : Nat) : rxIn (raiseBit s o b) q = rxIn s q := rfl
@[simp] theorem rxIn_raise (s : State) (f : Fld) (q : Nat) : rxIn (raise s f) q = rxIn s q := rfl
@[simp] theorem rxIn_rewritten (s : State) (o q : Nat) : rxIn (rewritten s o) q = rxIn s q := rfl

/-- The template is empty, and no scaling waits for it (R135). -/
def RxIn.noTmpl (x : RxIn) : RxIn := { x with tmpl := [], scale := none }

/-- The delay line is empty, and `n` outputs carry the front mark (R124). -/
def RxIn.settling (x : RxIn) (n : Nat) : RxIn := { x with line := [], phase := 0, settle := n }

theorem clearTmpl_eq (s : State) (i : Nat) : clearTmpl s i = raiseBit (setRx s i (rxIn s i).noTmpl) (R.TSL_EVT i) 0 := rfl

theorem settleInput_eq (s : State) (i : Nat) : settleInput s i =
    setB (setRx s i ((rxIn s i).settling (cdiv (firTaps s i) (decim s i)))) (F.RXF_STATUS_SETTLING i) (cdiv (firTaps s i) (decim s i) != 0) := rfl

@[simp] theorem rxIn_clearTmpl (s : State) (i : Nat) : rxIn (clearTmpl s i) i = (rxIn s i).noTmpl := by
  rw [clearTmpl_eq, rxIn_raiseBit, rxIn_setRx_same]

@[simp] theorem rxIn_settleInput (s : State) (i : Nat) : rxIn (settleInput s i) i = (rxIn s i).settling (cdiv (firTaps s i) (decim s i)) := by
  rw [settleInput_eq, rxIn_setB, rxIn_setRx_same]

/-- The template's clearing raises a flag of TSL_EVT and stores nothing else. -/
theorem getF_clearTmpl (s : State) (i : Nat) {f : Fld} (h : f.off ≠ R.TSL_EVT i) : getF (clearTmpl s i) f = getF s f :=
  getF_wrN_ne (updRx s i _) f _ _ h

/-! ### One input alone changes -/

/-- One receive input alone changes, with registers of a list; no safe action begins or ends. -/
structure InputChange (s t : State) (i : Nat) (but : List Nat) : Prop where
  only : InputOnly s t i but
  acts : t.par.acts = s.par.acts

namespace InputChange

variable {s t u : State} {i : Nat} {but : List Nat}

theorem refl (s : State) : InputChange s s i but := ⟨.refl s i but, rfl⟩

theorem trans (h : InputChange s t i but) (k : InputChange t u i but) : InputChange s u i but :=
  ⟨h.only.trans k.only, k.acts.trans h.acts⟩

theorem ite {c : Prop} [Decidable c] (ht : InputChange s t i but) (hu : InputChange s u i but) : InputChange s (if c then t else u) i but := by
  split
  · exact ht
  · exact hu

theorem mono {but' : List Nat} (h : InputChange s t i but) (hsub : but ⊆ but') : InputChange s t i but' := by
  obtain ⟨⟨hframe, hinputs, hregs⟩, hacts⟩ := h
  exact ⟨⟨hframe, hinputs, fun o ho => hregs o fun hmem => ho (hsub hmem)⟩, hacts⟩

theorem rewritten (s : State) (o : Nat) : InputChange s (rewritten s o) i but := ⟨⟨rfl, fun _ _ => rfl, fun _ _ => rfl⟩, rfl⟩

theorem wrN (s : State) {o : Nat} (v : Nat) (ho : o ∈ but) : InputChange s (wrN s o v) i but := ⟨inputOnly_wrN s i v ho, rfl⟩

theorem setF (s : State) (f : Fld) (v : Nat) (hf : f.off ∈ but) : InputChange s (setF s f v) i but := wrN s _ hf

theorem raise (s : State) (f : Fld) (hf : f.off ∈ but) : InputChange s (raise s f) i but := setF s f 1 hf

theorem setRx (s : State) (x : RxIn) : InputChange s (setRx s i x) i but := ⟨inputOnly_setRx s i x but, rfl⟩

theorem clearTmpl (s : State) (ho : R.TSL_EVT i ∈ but) : InputChange s (clearTmpl s i) i but := (setRx s _).trans (wrN _ _ ho)

theorem settleInput (s : State) (ho : R.RXF_STATUS i ∈ but) : InputChange s (settleInput s i) i but := (setRx s _).trans (wrN _ _ ho)

theorem rd (h : InputChange s t i but) {o : Nat} (ho : o ∉ but) : Machine.rd t o = Machine.rd s o := h.only.2.2 o ho

/-- What mutes the line is not an input's. -/
theorem settled (h : InputChange s t i but) (hs : Settled s) : Settled t := by
  obtain ⟨⟨hframe, -, -⟩, hacts⟩ := h
  have hrel : t.rel = s.rel := (congrArg State.rel hframe :)
  have htx : t.tx = s.tx := (congrArg State.tx hframe :)
  have hcrc : t.crc = s.crc := (congrArg State.crc hframe :)
  have hpins : t.pins = s.pins := (congrArg State.pins hframe :)
  have hpwr : t.pwr = s.pwr := (congrArg State.pwr hframe :)
  refine hs.congr (congrArg State.jobs hframe :) htx fun p => ?_
  simp [hardMute, txf, txPh, hrel, htx, hcrc, hacts, hpins, hpwr]

end InputChange

/-- A command that changes one input alone completes with what it makes of the state. -/
theorem completes_change {c : Instr} {s u : State} {i : Nat} {but : List Nat} {P : State → Prop} (hexec : exec c s = done u) (hs : Settled s)
    (hchange : InputChange s u i but) (hp : P u) : Completes c s P := completes_settled hexec (hchange.settled hs) hp

/-! ### The filter in use (R119, R127 to R129) -/

/-- The registers that name the filter in use are as before: RXF_STATUS and both RXF_FIR_CFG. -/
structure SameFilter (i : Nat) (s t : State) : Prop where
  status : rd t (R.RXF_STATUS i) = rd s (R.RXF_STATUS i)
  cfg : ∀ b < 2, rd t (R.RXF_FIR_CFG i b) = rd s (R.RXF_FIR_CFG i b)

namespace SameFilter

variable {i : Nat} {s t : State}

theorem flag (h : SameFilter i s t) {f : Fld} (hf : f.off = R.RXF_STATUS i) : getF t f = getF s f := by
  simp only [getF, rdN, hf, h.status]

theorem bank (h : SameFilter i s t) {f : Nat → Fld} (hf : ∀ b, (f b).off = R.RXF_FIR_CFG i b) :
    getF t (f (getF t (F.RXF_STATUS_ACT_BANK i))) = getF s (f (getF s (F.RXF_STATUS_ACT_BANK i))) := by
  have hbank : getF s (F.RXF_STATUS_ACT_BANK i) < 2 := getF_lt s (F.RXF_STATUS_ACT_BANK i)
  rw [h.flag (f := F.RXF_STATUS_ACT_BANK i) rfl]
  simp only [getF, rdN, hf] at hbank ⊢
  rw [h.cfg _ hbank]

theorem decim (h : SameFilter i s t) : decim t i = decim s i := by
  rw [Machine.decim, isSet_of_getF (h.flag (f := F.RXF_STATUS_DEC2 i) rfl), Machine.decim]

theorem firTaps (h : SameFilter i s t) : firTaps t i = firTaps s i := by
  rw [Machine.firTaps, isSet_of_getF (h.flag (f := F.RXF_STATUS_ROMF i) rfl), isSet_of_getF (h.flag (f := F.RXF_STATUS_DEC2 i) rfl),
    h.bank (f := F.RXF_FIR_CFG_NTAP4 i) fun _ => rfl, Machine.firTaps]

theorem firShift (h : SameFilter i s t) : firShift t i = firShift s i := by
  rw [Machine.firShift, isSet_of_getF (h.flag (f := F.RXF_STATUS_ROMF i) rfl), isSet_of_getF (h.flag (f := F.RXF_STATUS_DEC2 i) rfl),
    h.bank (f := F.RXF_FIR_CFG_SHIFT i) fun _ => rfl, Machine.firShift]

theorem firCoef (h : SameFilter i s t) (hcoef : (rxIn t i).coef = (rxIn s i).coef) (k : Nat) : firCoef t i k = firCoef s i k := by
  rw [Machine.firCoef, isSet_of_getF (h.flag (f := F.RXF_STATUS_ROMF i) rfl), isSet_of_getF (h.flag (f := F.RXF_STATUS_DEC2 i) rfl), hcoef,
    h.flag (f := F.RXF_STATUS_ACT_BANK i) rfl, Machine.firCoef]

/-- A store of another register. -/
theorem wrN (s : State) {o : Nat} (v : Nat) (hstatus : R.RXF_STATUS i ≠ o) (hcfg : ∀ b < 2, R.RXF_FIR_CFG i b ≠ o) :
    SameFilter i s (wrN s o v) := ⟨rd_wr_ne s _ hstatus, fun b hb => rd_wr_ne s _ (hcfg b hb)⟩

end SameFilter

/-! ### An input enabled or disabled (R121, R124) -/

theorem exec_inputEnable {s : State} {k : Fin 4} (en : Bool) (hreach : reach s (R.RXF_CTRL k.val) = true) :
    exec (.inputEnable k en) s = done (enableInput (rewritten s (R.RXF_CTRL k.val)) k.val en) := by
  have hset : setOf (R.RXF_CTRL k.val) = none := setOf_front (by unfold R.RXF_CTRL; omega) (by unfold R.RXF_CTRL; omega)
  exact congrArg done (access_unlocked _ hreach hset)

theorem enableInput_same {s : State} {i : Nat} {en : Bool} (h : isSet s (F.RXF_CTRL_EN i) = en) : enableInput s i en = s := if_pos h.symm

/-- The counts of an input that has been enabled: its converter settles, and LOS is counted anew. -/
def RxIn.warming (x : RxIn) (n : Nat) : RxIn := { x with warm := n, losOn := 0, losOff := 0 }

theorem sameFilter_setEn (s : State) (i v : Nat) : SameFilter i s (setF s (F.RXF_CTRL_EN i) v) :=
  .wrN s _ rxfReg_ne fun b hb => by simp only [R.RXF_FIR_CFG, F.RXF_CTRL_EN, R.RXF_CTRL]; omega

theorem enableInput_on_eq {s : State} {i : Nat} (hoff : isSet s (F.RXF_CTRL_EN i) = false) : enableInput s i true =
    clearTmpl (updRx (settleInput (setF s (F.RXF_CTRL_EN i) 1) i) i fun x =>
      x.warming (warmUp (settleInput (setF s (F.RXF_CTRL_EN i) 1) i) i)) i := by
  rw [enableInput, if_neg (by simp [hoff]), if_pos rfl]
  rfl

theorem enableInput_on {s : State} {i : Nat} (hoff : isSet s (F.RXF_CTRL_EN i) = false) :
    InputChange s (enableInput s i true) i [R.RXF_CTRL i, R.RXF_STATUS i, R.TSL_EVT i] ∧
      isSet (enableInput s i true) (F.RXF_CTRL_EN i) = true ∧
      ∃ n, rxIn (enableInput s i true) i = (((rxIn s i).settling (cdiv (firTaps s i) (decim s i))).warming n).noTmpl := by
  have hfilter := sameFilter_setEn s i 1
  rw [enableInput_on_eq hoff]
  refine ⟨?_, ?_, warmUp (settleInput (setF s (F.RXF_CTRL_EN i) 1) i) i, ?_⟩
  · exact (InputChange.setF s (F.RXF_CTRL_EN i) 1 (.head _)).trans ((InputChange.settleInput _ (.tail _ (.head _))).trans
      ((InputChange.setRx _ _).trans (.clearTmpl _ (.tail _ (.tail _ (.head _))))))
  · have htsl : R.RXF_CTRL i ≠ R.TSL_EVT i := by simp only [R.RXF_CTRL, R.TSL_EVT]; omega
    refine (isSet_of_getF ((getF_clearTmpl _ i htsl).trans ?_)).trans (isSet_raise_here s)
    exact getF_setF_away (setRx (setF s (F.RXF_CTRL_EN i) 1) i _) _ rxfReg_ne
  · rw [rxIn_clearTmpl, rxIn_updRx_same, rxIn_settleInput, rxIn_setF, hfilter.firTaps, hfilter.decim]

/-- What a disabled input stores: EN, PWR and SETTLING 0. -/
def inputLeft (s : State) (i : Nat) : State := setF (setF (setF s (F.RXF_CTRL_EN i) 0) (F.RXF_STATUS_PWR i) 0) (F.RXF_STATUS_SETTLING i) 0

theorem inputLeft_spec (s : State) (i : Nat) : InputChange s (inputLeft s i) i [R.RXF_CTRL i, R.RXF_STATUS i] ∧
    isSet (inputLeft s i) (F.RXF_CTRL_EN i) = false ∧ isSet (inputLeft s i) (F.RXF_STATUS_PWR i) = false := by
  have hstatus : ∀ (u : State) (f : Fld), f.off = R.RXF_STATUS i → isSet (setF u f 0) (F.RXF_CTRL_EN i) = isSet u (F.RXF_CTRL_EN i) :=
    fun u f hf => isSet_of_getF (getF_setF_away u 0 (hf ▸ rxfReg_ne))
  unfold inputLeft
  refine ⟨?_, ?_, ?_⟩
  · exact (InputChange.setF s (F.RXF_CTRL_EN i) 0 (.head _)).trans
      ((InputChange.setF _ (F.RXF_STATUS_PWR i) 0 (.tail _ (.head _))).trans (.setF _ (F.RXF_STATUS_SETTLING i) 0 (.tail _ (.head _))))
  · rw [hstatus _ _ rfl, hstatus _ _ rfl]
    exact isSet_setF_zero s
  · exact (isSet_of_getF (getF_setF_beside _ 0)).trans (isSet_setF_zero _)

/-- The input's state once it is disabled, LOS apart. -/
def RxIn.disabled (x : RxIn) : RxIn :=
  { x with line := [], phase := 0, settle := 0, warm := 0, losOn := 0, losOff := 0, csNow := [], csLevel := [] }

/-- LOS of the input is cleared. -/
def RxIn.noLos (x : RxIn) : RxIn := { x with los := false }

theorem enableInput_off {s : State} {i : Nat} (hon : isSet s (F.RXF_CTRL_EN i) = true) :
    enableInput s i false = updRx (clearDefect (inputLeft s i) Def.los (.input i)) i RxIn.disabled := by
  rw [enableInput, if_neg (by simp [hon]), if_neg Bool.false_ne_true]
  rfl

/-- The clear of a defect that is not present only marks it. -/
theorem clearWith_absent {s : State} {code : Nat} {o : DefObj} (f : State → State) (h : present s code o = false) : clearWith s code o f = f s := by
  simp [clearWith, h]

/-- Beyond the mark and its flag a clear is told to Yarrow and the host alone (R232, R233). -/
theorem clearWith_cases (s : State) (code : Nat) (o : DefObj) (f : State → State) :
    clearWith s code o f = f s ∨ CaptureOnly (raise (f (markSeen s code o)) F.LFR_EVT_DEF_CHG) (clearWith s code o f) := by
  unfold clearWith
  dsimp only
  split
  · exact .inl rfl
  · generalize raise (f (markSeen s code o)) F.LFR_EVT_DEF_CHG = u
    have htrigger : ∀ p e, CaptureOnly u (trigger u p e) := fun p e => captureOnly_trigger u p e
    refine .inr (captureOnly_ite (.refl u) (.trans ?_ (captureOnly_reportUncovered s _)))
    exact captureOnly_ite (htrigger _ _) ((htrigger _ _).trans (captureOnly_defectEvent _ _ _ _ _ _ _))

theorem clearLos_mark (s : State) (i : Nat) : markDefect s Def.los (.input i) false = setRx s i (rxIn s i).noLos := rfl

/-- The clear of an input's LOS: its mark goes, and its control register stays. -/
theorem clearLos_spec (s : State) {i : Nat} (hi : i < 4) : (rxIn (clearDefect s Def.los (.input i)) i).los = false ∧
    rd (clearDefect s Def.los (.input i)) (R.RXF_CTRL i) = rd s (R.RXF_CTRL i) := by
  have hmark : ∀ u : State, (rxIn (markDefect u Def.los (.input i) false) i).los = false := fun u => by
    rw [clearLos_mark, rxIn_setRx_same]
    rfl
  rw [clearDefect]
  rcases clearWith_cases s Def.los (.input i) fun u => markDefect u Def.los (.input i) false with h | h
  · rw [h]
    exact ⟨hmark s, rfl⟩
  · refine ⟨(congrArg RxIn.los (rxIn_congr h.rx i)).trans (hmark _), ?_⟩
    refine (h.rd (by simp only [R.RXF_CTRL]; omega) (by simp only [R.RXF_CTRL]; omega)).trans ?_
    exact rd_setF_ne _ _ _ (by simp only [R.RXF_CTRL, F.LFR_EVT_DEF_CHG, R.LFR_EVT]; omega)

/-- Without LOS nothing but the input changes. -/
theorem enableInput_off_quiet {s : State} {i : Nat} (hon : isSet s (F.RXF_CTRL_EN i) = true) (hlos : (rxIn s i).los = false) :
    enableInput s i false = setRx (setRx (inputLeft s i) i (rxIn s i).noLos) i (rxIn s i).noLos.disabled := by
  have habsent : present (inputLeft s i) Def.los (.input i) = false := by
    show (Def.los == 1 && (rxIn s i).los) = false
    rw [hlos, Bool.and_false]
  rw [enableInput_off hon, clearDefect, clearWith_absent _ habsent, clearLos_mark, updRx, rxIn_setRx_same]
  rfl

section

variable {s : State} {k : Fin 4} (hreach : reach s (R.RXF_CTRL k.val) = true)

include hreach

theorem completes_inputEnable_on (hs : Settled s) (hoff : isSet s (F.RXF_CTRL_EN k.val) = false) : Completes (.inputEnable k true) s fun t =>
    InputOnly s t k.val [R.RXF_CTRL k.val, R.RXF_STATUS k.val, R.TSL_EVT k.val] ∧ isSet t (F.RXF_CTRL_EN k.val) = true ∧
      (rxIn t k.val).line = [] ∧ (rxIn t k.val).tmpl = [] ∧ (rxIn t k.val).settle = cdiv (firTaps s k.val) (decim s k.val) ∧
      (rxIn t k.val).gain = (rxIn s k.val).gain := by
  obtain ⟨hchange, hen, n, hrx⟩ := enableInput_on (s := rewritten s (R.RXF_CTRL k.val)) hoff
  have hall := (InputChange.rewritten s (R.RXF_CTRL k.val)).trans hchange
  refine completes_change (exec_inputEnable true hreach) hs hall ⟨hall.only, hen, ?_⟩
  rw [hrx]
  exact ⟨rfl, rfl, rfl, rfl⟩

theorem completes_inputEnable_off (hon : isSet s (F.RXF_CTRL_EN k.val) = true) : Completes (.inputEnable k false) s fun t =>
    isSet t (F.RXF_CTRL_EN k.val) = false ∧ (rxIn t k.val).line = [] ∧ (rxIn t k.val).los = false := by
  have hexec := exec_inputEnable false hreach
  rw [enableInput_off (s := rewritten s (R.RXF_CTRL k.val)) hon] at hexec
  obtain ⟨-, hen, -⟩ := inputLeft_spec (rewritten s (R.RXF_CTRL k.val)) k.val
  obtain ⟨hlos, hctrl⟩ := clearLos_spec (inputLeft (rewritten s (R.RXF_CTRL k.val)) k.val) k.isLt
  refine completes_done hexec ?_
  rw [settle_isSet _ (by simp only [F.RXF_CTRL_EN, R.RXF_CTRL]; omega), rxIn_congr (settle_rx _), rxIn_updRx_same]
  refine ⟨?_, rfl, hlos⟩
  rw [← hen]
  exact isSet_of_rd hctrl

theorem completes_inputEnable_off_quiet (hs : Settled s) (hon : isSet s (F.RXF_CTRL_EN k.val) = true) (hlos : (rxIn s k.val).los = false) :
    Completes (.inputEnable k false) s fun t =>
      InputOnly s t k.val [R.RXF_CTRL k.val, R.RXF_STATUS k.val] ∧ isSet t (F.RXF_CTRL_EN k.val) = false ∧
        isSet t (F.RXF_STATUS_PWR k.val) = false ∧ (rxIn t k.val).line = [] ∧ (rxIn t k.val).tmpl = (rxIn s k.val).tmpl := by
  have hexec := exec_inputEnable false hreach
  rw [enableInput_off_quiet (s := rewritten s (R.RXF_CTRL k.val)) hon hlos] at hexec
  obtain ⟨hchange, hen, hpwr⟩ := inputLeft_spec (rewritten s (R.RXF_CTRL k.val)) k.val
  have hall := (InputChange.rewritten s (R.RXF_CTRL k.val)).trans
    (hchange.trans ((InputChange.setRx _ (rxIn s k.val).noLos).trans (.setRx _ (rxIn s k.val).noLos.disabled)))
  refine completes_change hexec hs hall ⟨hall.only, ?_⟩
  simp only [isSet_setRx, rxIn_setRx_same]
  exact ⟨hen, hpwr, rfl, rfl⟩

theorem completes_inputEnable_same (hs : Settled s) {en : Bool} (h : isSet s (F.RXF_CTRL_EN k.val) = en) :
    Completes (.inputEnable k en) s fun t => t = rewritten s (R.RXF_CTRL k.val) :=
  completes_settled (exec_inputEnable en hreach) ((congrArg Settled (enableInput_same (s := rewritten s (R.RXF_CTRL k.val)) h)).mpr (hs.rewritten _))
    (enableInput_same (s := rewritten s (R.RXF_CTRL k.val)) h)

end

end Sys2Proof.Machine

namespace Sys2Proof.Machine

/-! ### Gain (R122, R123, R26) -/

theorem exec_gainWrite {s : State} {k : Fin 4} (v : Word) (hreach : reach s (R.RXF_GAIN k.val) = true) :
    exec (.gainWrite k v) s = done (writeGain (rewritten s (R.RXF_GAIN k.val)) k.val v) :=
  congrArg done (access_unlocked _ hreach (setOf_front (by unfold R.RXF_GAIN; omega) (by unfold R.RXF_GAIN; omega)))

/-- MAX of a written gain is stored, whatever becomes of GAIN. -/
def gainMaxStored (s : State) (i : Nat) (v : Word) : State := setF s (F.RXF_GAIN_MAX i) (bits v.toNat 6 4)

/-- GAIN stored, and CFG_ERR where it is above 4 (R122). -/
def gainStored (s : State) (i : Nat) (v : Word) : State :=
  setF (if v.toNat % 8 > 4 then raise (gainMaxStored s i v) (F.RXF_EVT_CFG_ERR i) else gainMaxStored s i v) (F.RXF_GAIN_GAIN i) (v.toNat % 8)

theorem writeGain_agc {s : State} {i : Nat} (v : Word) (hagc : isSet s (F.RXF_CTRL_AGC i) = true) :
    writeGain s i v = raise (gainMaxStored s i v) (F.RXF_EVT_CFG_ERR i) :=
  if_pos ((isSet_of_getF (getF_setF_away s _ rxfReg_ne)).trans hagc)

theorem writeGain_host {s : State} {i : Nat} (v : Word) (hagc : isSet s (F.RXF_CTRL_AGC i) = false) :
    writeGain s i v = askGain (gainStored s i v) i (min 4 (v.toNat % 8)) := by
  have hkept : isSet (gainMaxStored s i v) (F.RXF_CTRL_AGC i) = false := (isSet_of_getF (getF_setF_away s _ rxfReg_ne)).trans hagc
  have hlow : bits v.toNat 2 0 = v.toNat % 8 := by simp [bits]
  unfold writeGain
  rw [hlow]
  exact if_neg (by rw [← gainMaxStored, hkept]; exact Bool.false_ne_true)

theorem inputChange_gainMaxStored (s : State) (i : Nat) (v : Word) :
    InputChange s (gainMaxStored s i v) i [R.RXF_GAIN i, R.RXF_EVT i] := .setF s (F.RXF_GAIN_MAX i) _ (.head _)

theorem inputChange_gainStored (s : State) (i : Nat) (v : Word) : InputChange s (gainStored s i v) i [R.RXF_GAIN i, R.RXF_EVT i] := by
  have hmax := inputChange_gainMaxStored s i v
  exact (hmax.trans (.ite (.raise _ (F.RXF_EVT_CFG_ERR i) (.tail _ (.head _))) (.refl _))).trans (.setF _ (F.RXF_GAIN_GAIN i) _ (.head _))

/-- MAX as it is stored. -/
theorem getF_gainMaxStored (s : State) (i : Nat) (v : Word) : getF (gainMaxStored s i v) (F.RXF_GAIN_MAX i) = v.toNat / 16 % 8 := by
  refine (getF_setF_here s _).trans ?_
  simp [bits]

/-- What the store of a gain leaves in its registers. -/
structure GainStored (t : State) (i : Nat) (v : Word) : Prop where
  max : getF t (F.RXF_GAIN_MAX i) = v.toNat / 16 % 8
  gain : getF t (F.RXF_GAIN_GAIN i) = v.toNat % 8
  error : 4 < v.toNat % 8 → isSet t (F.RXF_EVT_CFG_ERR i) = true

theorem gainStored_spec (s : State) (i : Nat) (v : Word) : GainStored (gainStored s i v) i v where
  max := by
    refine (getF_setF_beside _ _).trans ?_
    split
    · exact (getF_setF_away _ _ rxfReg_ne).trans (getF_gainMaxStored s i v)
    · exact getF_gainMaxStored s i v
  gain := (getF_setF_here _ _).trans (Nat.mod_mod _ _)
  error h := by
    refine (isSet_of_getF (getF_setF_away _ _ rxfReg_ne)).trans ?_
    rw [if_pos h]
    exact isSet_raise_here _

theorem rxIn_gainStored (s : State) (i : Nat) (v : Word) : rxIn (gainStored s i v) i = rxIn s i := by
  rw [gainStored, rxIn_setF]
  split
  · rw [rxIn_raise, gainMaxStored, rxIn_setF]
  · rw [gainMaxStored, rxIn_setF]

/-! #### The firmware's pending gain is reported (R26, R531) -/

/-- No decision of the firmware stands behind the pending gain. -/
def RxIn.gainAsked (x : RxIn) : RxIn := { x with gainWhy := none }

/-- A gain waits. -/
def RxIn.gainWaits (x : RxIn) (g : Nat) : RxIn := { x with gainPend := some g }

/-- No gain waits. -/
def RxIn.gainTaken (x : RxIn) : RxIn := { x with gainPend := none }

theorem RxIn.gainAsked_of_none {x : RxIn} (h : x.gainWhy = none) : x.gainAsked = x := by
  cases x
  cases h
  rfl

theorem reportGain_none {s : State} {i : Nat} (g : Nat) (discarded : Bool) (h : (rxIn s i).gainWhy = none) : reportGain s i g discarded = s := by
  simp [reportGain, h]

/-- The report changes the host interface beside the input's mark. -/
theorem reportGain_cases (s : State) (i g : Nat) (discarded : Bool) : reportGain s i g discarded = s ∧ (rxIn s i).gainWhy = none ∨
    HostOnly (setRx s i (rxIn s i).gainAsked) (reportGain s i g discarded) := by
  cases h : (rxIn s i).gainWhy with
  | none => exact .inl ⟨reportGain_none g discarded h, rfl⟩
  | some why =>
    refine .inr ?_
    simp only [reportGain, h]
    exact hostOnly_decision _ _ _ _ _ _ _ _

/-- A report of the input's gain leaves its registers and, but for the mark, its state. -/
structure GainReported (s t : State) (i : Nat) : Prop where
  rx : rxIn t i = (rxIn s i).gainAsked
  regs : ∀ o < 0x8000, rd t o = rd s o
  settled : Settled s → Settled t

theorem gainReported (s : State) (i g : Nat) (discarded : Bool) : GainReported s (reportGain s i g discarded) i := by
  rcases reportGain_cases s i g discarded with ⟨hsame, hnone⟩ | hhost
  · rw [hsame]
    exact ⟨(RxIn.gainAsked_of_none hnone).symm, fun _ _ => rfl, id⟩
  · refine ⟨?_, fun o ho => (hhost.rd ho).trans (rd_setRx _ _ _ _), fun hs => ?_⟩
    · rw [rxIn_congr hhost.rx, rxIn_setRx_same]
    · exact ((InputChange.setRx (but := []) s _).settled hs).of_host hhost

/-! #### A gain takes effect -/

/-- The gain in use changes; the template is scaled once the window holds the new one alone (R122). -/
def RxIn.withGain (x : RxIn) (g : Nat) : RxIn := { x with gain := g, scale := some ((x.scale.map Prod.fst).getD x.gain, g) }

theorem applyGain_eq {s : State} {i g : Nat} (hpend : (rxIn s i).gainPend = some g) (hwhy : (rxIn s i).gainWhy = none) :
    applyGain s i = if g = (rxIn s i).gain then setRx s i (rxIn s i).gainTaken
      else raise (setRx (setRx s i (rxIn s i).gainTaken) i ((rxIn s i).gainTaken.withGain g)) (F.RXF_EVT_GAIN_CHG i) := by
  have hreport : reportGain (setRx s i (rxIn s i).gainTaken) i g false = setRx s i (rxIn s i).gainTaken :=
    reportGain_none _ _ (by rw [rxIn_setRx_same]; exact hwhy)
  have hscaled : ∀ f, updRx (setRx s i (rxIn s i).gainTaken) i f = setRx (setRx s i (rxIn s i).gainTaken) i (f (rxIn s i).gainTaken) :=
    fun f => by rw [updRx, rxIn_setRx_same]
  simp only [applyGain, hpend]
  show (if g = (rxIn s i).gain then reportGain (setRx s i (rxIn s i).gainTaken) i g false
    else raise (updRx (reportGain (setRx s i (rxIn s i).gainTaken) i g false) i _) _) = _
  rw [hreport, hscaled]
  rfl

/-- A gain that has taken effect. -/
structure GainApplied (s t : State) (i g : Nat) : Prop where
  change : InputChange s t i [R.RXF_EVT i]
  gain : (rxIn t i).gain = g
  taken : (rxIn t i).gainPend = none
  flag : (rxIn s i).gain ≠ g → isSet t (F.RXF_EVT_GAIN_CHG i) = true
  error : isSet s (F.RXF_EVT_CFG_ERR i) = true → isSet t (F.RXF_EVT_CFG_ERR i) = true

theorem gainApplied {s : State} {i g : Nat} (hpend : (rxIn s i).gainPend = some g) (hwhy : (rxIn s i).gainWhy = none) :
    GainApplied s (applyGain s i) i g := by
  rw [applyGain_eq hpend hwhy]
  split
  case isTrue h =>
    refine ⟨.setRx s _, ?_, ?_, fun hne => absurd h.symm hne, id⟩
    · rw [rxIn_setRx_same]
      exact h.symm
    · rw [rxIn_setRx_same]
      rfl
  case isFalse =>
    refine ⟨((InputChange.setRx s _).trans (.setRx _ _)).trans (.raise _ (F.RXF_EVT_GAIN_CHG i) (.head _)), ?_, ?_, fun _ => isSet_raise_here _,
      fun h => isSet_raise_mono _ h⟩
    · rw [rxIn_raise, rxIn_setRx_same]
      rfl
    · rw [rxIn_raise, rxIn_setRx_same]
      rfl

/-! #### A gain is asked for -/

/-- The gain waits; a decision of the firmware that waited before is reported as discarded. -/
def gainWaiting (s : State) (i g : Nat) : State :=
  let u := reportGain s i ((rxIn s i).gainPend.getD 0) true
  setRx u i ((rxIn u i).gainWaits g)

theorem askGain_eq (s : State) (i g : Nat) :
    askGain s i g = if cidxOk (gainWaiting s i g) then gainWaiting s i g else applyGain (gainWaiting s i g) i := rfl

theorem gainWaiting_spec (s : State) (i g : Nat) : rxIn (gainWaiting s i g) i = (rxIn s i).gainAsked.gainWaits g ∧
    (∀ o < 0x8000, rd (gainWaiting s i g) o = rd s o) ∧ (Settled s → Settled (gainWaiting s i g)) := by
  obtain ⟨hrx, hregs, hsettled⟩ := gainReported s i ((rxIn s i).gainPend.getD 0) true
  unfold gainWaiting
  refine ⟨?_, hregs, fun hs => (InputChange.setRx (but := []) _ _).settled (hsettled hs)⟩
  rw [rxIn_setRx_same, hrx]

theorem gainWaiting_quiet {s : State} {i : Nat} (g : Nat) (h : (rxIn s i).gainWhy = none) :
    InputChange s (gainWaiting s i g) i [R.RXF_EVT i] := by
  unfold gainWaiting
  rw [reportGain_none _ _ h]
  exact .setRx s _

/-- What asking for a gain leaves of an input and its registers (R122). -/
structure GainAsked (s t : State) (i g : Nat) : Prop where
  regs : ∀ o < 0x8000, o ≠ R.RXF_EVT i → rd t o = rd s o
  error : isSet s (F.RXF_EVT_CFG_ERR i) = true → isSet t (F.RXF_EVT_CFG_ERR i) = true
  settled : Settled s → Settled t
  waits : cidxOk s = true → rxIn t i = (rxIn s i).gainAsked.gainWaits g
  applied : cidxOk s = false → (rxIn t i).gain = g ∧ (rxIn t i).gainPend = none ∧
    ((rxIn s i).gain ≠ g → isSet t (F.RXF_EVT_GAIN_CHG i) = true)
  quiet : (rxIn s i).gainWhy = none → InputChange s t i [R.RXF_EVT i]

theorem gainAsked {i : Nat} (hi : i < 4) (s : State) (g : Nat) : GainAsked s (askGain s i g) i g := by
  obtain ⟨hrx, hregs, hsettled⟩ := gainWaiting_spec s i g
  have hquiet := gainWaiting_quiet (s := s) (i := i) g
  have hok : cidxOk (gainWaiting s i g) = cidxOk s := isSet_of_rd (hregs _ (by decide))
  have herror : isSet (gainWaiting s i g) (F.RXF_EVT_CFG_ERR i) = isSet s (F.RXF_EVT_CFG_ERR i) :=
    isSet_of_rd (hregs _ (by simp only [F.RXF_EVT_CFG_ERR, R.RXF_EVT]; omega))
  rw [askGain_eq, hok]
  generalize gainWaiting s i g = w at *
  by_cases hidx : cidxOk s = true
  · rw [if_pos hidx]
    exact ⟨fun o ho _ => hregs o ho, fun h => herror.trans h, hsettled, fun _ => hrx, fun h => absurd hidx (by simp [h]), hquiet⟩
  · rw [if_neg hidx]
    have happlied := gainApplied (s := w) (i := i) (g := g) (by rw [hrx]; rfl) (by rw [hrx]; rfl)
    refine ⟨fun o ho hne => (happlied.change.rd (by simpa using hne)).trans (hregs o ho), fun h => happlied.error (herror.trans h),
      fun hs => happlied.change.settled (hsettled hs), fun h => absurd h hidx, fun _ => ⟨happlied.gain, happlied.taken, fun hne => happlied.flag ?_⟩,
      fun h => (hquiet h).trans happlied.change⟩
    rw [hrx]
    exact hne

/-! #### GAIN_WRITE -/

section

variable {s : State} {k : Fin 4} (v : Word) (hs : Settled s) (hreach : reach s (R.RXF_GAIN k.val) = true)

include hs hreach

/-- Under AGC the gain itself is the firmware's: its write is refused, MAX is taken (R123). -/
theorem completes_gainWrite_agc (hagc : isSet s (F.RXF_CTRL_AGC k.val) = true) : Completes (.gainWrite k v) s fun t =>
    InputOnly s t k.val [R.RXF_GAIN k.val, R.RXF_EVT k.val] ∧ getF t (F.RXF_GAIN_MAX k.val) = v.toNat / 16 % 8 ∧ t.rx = s.rx ∧
      getF t (F.RXF_GAIN_GAIN k.val) = getF s (F.RXF_GAIN_GAIN k.val) ∧ isSet t (F.RXF_EVT_CFG_ERR k.val) = true := by
  have hexec := exec_gainWrite v hreach
  rw [writeGain_agc (s := rewritten s (R.RXF_GAIN k.val)) v hagc] at hexec
  have hall := (InputChange.rewritten s (R.RXF_GAIN k.val)).trans
    ((inputChange_gainMaxStored _ k.val v).trans (.raise _ (F.RXF_EVT_CFG_ERR k.val) (.tail _ (.head _))))
  refine completes_change hexec hs hall ⟨hall.only, ?_, rfl, ?_, isSet_raise_here _⟩
  · exact (getF_setF_away _ _ rxfReg_ne).trans (getF_gainMaxStored _ k.val v)
  · exact (getF_setF_away _ _ rxfReg_ne).trans (getF_setF_beside _ _)

/-- Without AGC a gain written by the host is stored and asked for (R122). -/
theorem completes_gainWrite_host (hagc : isSet s (F.RXF_CTRL_AGC k.val) = false) : Completes (.gainWrite k v) s fun t =>
    ((rxIn s k.val).gainWhy = none → InputOnly s t k.val [R.RXF_GAIN k.val, R.RXF_EVT k.val]) ∧ GainStored t k.val v ∧
      (cidxOk s = true → rxIn t k.val = (rxIn s k.val).gainAsked.gainWaits (min 4 (v.toNat % 8))) ∧
      (cidxOk s = false → (rxIn t k.val).gain = min 4 (v.toNat % 8) ∧ (rxIn t k.val).gainPend = none ∧
        ((rxIn s k.val).gain ≠ min 4 (v.toNat % 8) → isSet t (F.RXF_EVT_GAIN_CHG k.val) = true)) := by
  have hexec := exec_gainWrite v hreach
  rw [writeGain_host (s := rewritten s (R.RXF_GAIN k.val)) v hagc] at hexec
  have hstore := (InputChange.rewritten s (R.RXF_GAIN k.val)).trans (inputChange_gainStored _ k.val v)
  obtain ⟨hmax, hgain, herror⟩ := gainStored_spec (rewritten s (R.RXF_GAIN k.val)) k.val v
  have hrx : rxIn (gainStored (rewritten s (R.RXF_GAIN k.val)) k.val v) k.val = rxIn s k.val := rxIn_gainStored _ _ _
  generalize gainStored (rewritten s (R.RXF_GAIN k.val)) k.val v = u at *
  have hidx : cidxOk u = cidxOk s := isSet_of_rd (hstore.rd (by
    simp only [F.MSY_STATUS_CIDX_VALID, R.MSY_STATUS, R.RXF_GAIN, R.RXF_EVT, List.mem_cons, List.not_mem_nil, or_false]
    omega))
  obtain ⟨hregs, herror', hsettled, hwaits, happlied, hquiet⟩ := gainAsked k.isLt u (min 4 (v.toNat % 8))
  rw [hrx, hidx] at hwaits happlied
  rw [hrx] at hquiet
  have hkept : RdKept (R.RXF_GAIN k.val) u (askGain u k.val (min 4 (v.toNat % 8))) :=
    ⟨hregs _ (by unfold R.RXF_GAIN; omega) rxfReg_ne⟩
  refine completes_settled hexec (hsettled (hstore.settled hs)) ⟨fun h => ?_, ⟨?_, ?_, fun h => herror' (herror h)⟩, hwaits, happlied⟩
  · exact hstore.only.trans ((hquiet h).mono (List.subset_cons_self _ _)).only
  · exact (RdKept.getF (f := F.RXF_GAIN_MAX k.val) hkept).trans hmax
  · exact (RdKept.getF (f := F.RXF_GAIN_GAIN k.val) hkept).trans hgain

end

end Sys2Proof.Machine

namespace Sys2Proof.Machine

/-! ### Coefficients (R129) -/

theorem exec_firCoefWrite {s : State} {k : Fin 4} (v : Word) (hreach : reach s (R.RXF_COEF_DATA k.val) = true) :
    exec (.firCoefWrite k v) s = done (writeFirCoef (rewritten s (R.RXF_COEF_DATA k.val)) k.val v) :=
  congrArg done (access_unlocked _ hreach (setOf_front (by unfold R.RXF_COEF_DATA; omega) (by unfold R.RXF_COEF_DATA; omega)))

/-- One coefficient of an input is stored. -/
def RxIn.withCoef (x : RxIn) (a : Nat) (v : Word) : RxIn := { x with coef := fputD x.coef a 0 (v &&& 0x3_FFFF#32) }

theorem RxIn.withCoef_coef (x : RxIn) (a : Nat) (v : Word) (a' : Nat) :
    fgetD (x.withCoef a v).coef a' 0 = if a' = a then v &&& 0x3_FFFF#32 else fgetD x.coef a' 0 := by
  by_cases h : a' = a
  · rw [if_pos h, h]
    exact fgetD_fputD_same _ _ _ _
  · rw [if_neg h]
    exact fgetD_fputD_ne _ _ _ _ h

theorem writeFirCoef_refused {s : State} {i : Nat} (v : Word)
    (h : firBusy s i (getF s (F.RXF_COEF_IDX_BANK i)) = true ∨ 384 ≤ getF s (F.RXF_COEF_IDX_TAP i)) :
    writeFirCoef s i v = raise s (F.RXF_EVT_CFG_ERR i) := by
  unfold writeFirCoef
  exact if_pos (by simpa using h)

theorem writeFirCoef_taken {s : State} {i : Nat} (v : Word) (hfree : firBusy s i (getF s (F.RXF_COEF_IDX_BANK i)) = false)
    (htap : getF s (F.RXF_COEF_IDX_TAP i) < 384) : ∃ o, writeFirCoef s i v =
      setF (rewritten (setRx s i ((rxIn s i).withCoef (getF s (F.RXF_COEF_IDX_BANK i) * 512 + getF s (F.RXF_COEF_IDX_TAP i)) v)) o)
        (F.RXF_COEF_IDX_TAP i) (getF s (F.RXF_COEF_IDX_TAP i) + 1) := by
  refine ⟨0x12000 + 1024 * i + 512 * getF s (F.RXF_COEF_IDX_BANK i) + getF s (F.RXF_COEF_IDX_TAP i), ?_⟩
  unfold writeFirCoef
  exact if_neg (by simp [hfree, htap])

section

variable {s : State} {k : Fin 4} (v : Word) (hs : Settled s) (hreach : reach s (R.RXF_COEF_DATA k.val) = true)

include hs hreach

theorem completes_firCoefWrite_refused
    (h : firBusy s k.val (getF s (F.RXF_COEF_IDX_BANK k.val)) = true ∨ 384 ≤ getF s (F.RXF_COEF_IDX_TAP k.val)) :
    Completes (.firCoefWrite k v) s fun t =>
      InputOnly s t k.val [R.RXF_EVT k.val] ∧ t.rx = s.rx ∧ isSet t (F.RXF_EVT_CFG_ERR k.val) = true := by
  have hexec := exec_firCoefWrite v hreach
  rw [writeFirCoef_refused (s := rewritten s (R.RXF_COEF_DATA k.val)) v h] at hexec
  have hall : InputChange s _ k.val [R.RXF_EVT k.val] :=
    (InputChange.rewritten s (R.RXF_COEF_DATA k.val)).trans (.raise _ (F.RXF_EVT_CFG_ERR k.val) (.head _))
  exact completes_change hexec hs hall ⟨hall.only, rfl, isSet_raise_here _⟩

theorem completes_firCoefWrite_taken (hfree : firBusy s k.val (getF s (F.RXF_COEF_IDX_BANK k.val)) = false)
    (htap : getF s (F.RXF_COEF_IDX_TAP k.val) < 384) : Completes (.firCoefWrite k v) s fun t =>
      InputOnly s t k.val [R.RXF_COEF_IDX k.val] ∧ getF t (F.RXF_COEF_IDX_TAP k.val) = getF s (F.RXF_COEF_IDX_TAP k.val) + 1 ∧
        getF t (F.RXF_COEF_IDX_BANK k.val) = getF s (F.RXF_COEF_IDX_BANK k.val) ∧
        ∀ a, fgetD (rxIn t k.val).coef a 0 = if a = getF s (F.RXF_COEF_IDX_BANK k.val) * 512 + getF s (F.RXF_COEF_IDX_TAP k.val)
          then v &&& 0x3_FFFF#32 else fgetD (rxIn s k.val).coef a 0 := by
  have hexec := exec_firCoefWrite v hreach
  obtain ⟨o, hwritten⟩ := writeFirCoef_taken (s := rewritten s (R.RXF_COEF_DATA k.val)) v hfree htap
  simp only [getF_rewritten, rxIn_rewritten] at hwritten
  generalize getF s (F.RXF_COEF_IDX_TAP k.val) = n at *
  have hbank : getF (rewritten s (R.RXF_COEF_DATA k.val)) (F.RXF_COEF_IDX_BANK k.val) = getF s (F.RXF_COEF_IDX_BANK k.val) := rfl
  generalize getF s (F.RXF_COEF_IDX_BANK k.val) = b at *
  rw [hwritten] at hexec
  have hall : InputChange s _ k.val [R.RXF_COEF_IDX k.val] := (InputChange.rewritten s (R.RXF_COEF_DATA k.val)).trans
    ((InputChange.setRx _ ((rxIn s k.val).withCoef (b * 512 + n) v)).trans ((InputChange.rewritten _ o).trans (.setF _ (F.RXF_COEF_IDX_TAP k.val) (n + 1) (.head _))))
  refine completes_change hexec hs hall ⟨hall.only, ?_, ?_, fun a => ?_⟩
  · exact (getF_setF_here _ _).trans (Nat.mod_eq_of_lt (by omega))
  · exact (getF_setF_beside _ _).trans hbank
  · rw [rxIn_setF, rxIn_rewritten, rxIn_setRx_same]
    exact RxIn.withCoef_coef _ _ _ _

end

/-! ### Swaps of the filter bank (R130) -/

theorem exec_firBankSwap {s : State} {k : Fin 4} (v : Word) (hreach : reach s (R.RXF_FIR_SWAP k.val) = true) :
    exec (.firBankSwap k v) s = done (swapFir (rewritten s (R.RXF_FIR_SWAP k.val)) k.val v) :=
  congrArg done (access_unlocked _ hreach (setOf_front (by unfold R.RXF_FIR_SWAP; omega) (by unfold R.RXF_FIR_SWAP; omega)))

/-- A swap to bank `b` is refused: one is pending, the bank is in use or has no valid tap count, or its decimation is not the one in use. -/
def SwapRefused (s : State) (i b : Nat) : Prop :=
  isSet s (F.RXF_STATUS_SWAP_PEND i) = true ∨ (isSet s (F.RXF_STATUS_ROMF i) = false ∧ getF s (F.RXF_STATUS_ACT_BANK i) = b) ∨
    getF s (F.RXF_FIR_CFG_NTAP4 i b) = 0 ∨ 96 < getF s (F.RXF_FIR_CFG_NTAP4 i b) ∨
    isSet s (F.RXF_FIR_CFG_DEC2 i b) ≠ isSet s (F.RXF_STATUS_DEC2 i)

/-- The swap that waits: its bank, whether the template is kept, and the cycle of its acceptance. -/
def RxIn.swapWaits (x : RxIn) (b : Nat) (keep : Bool) (cycle : Nat) : RxIn := { x with swapBank := b, swapKeep := keep, swapAt := cycle }

/-- A swap has been accepted. -/
def swapAccepted (s : State) (i : Nat) (v : Word) : State :=
  raise (setRx s i ((rxIn s i).swapWaits (v.toNat / 2 % 2) (bit v.toNat 2) (cidxNow s))) (F.RXF_STATUS_SWAP_PEND i)

theorem swapFir_idle {s : State} {i : Nat} {v : Word} (h : bit v.toNat 0 = false) : swapFir s i v = s := by
  simp [swapFir, h]

theorem swapBank_eq (v : Word) : bits v.toNat 1 1 = v.toNat / 2 % 2 := by simp [bits]

theorem swapFir_refused {s : State} {i : Nat} {v : Word} (hgo : bit v.toNat 0 = true) (h : SwapRefused s i (v.toNat / 2 % 2)) :
    swapFir s i v = raise s (F.RXF_EVT_CFG_ERR i) := by
  unfold swapFir
  rw [swapBank_eq, if_neg (by simp [hgo])]
  exact if_pos (by simpa [SwapRefused, or_assoc] using h)

theorem swapFir_accepted {s : State} {i : Nat} {v : Word} (hgo : bit v.toNat 0 = true) (h : ¬ SwapRefused s i (v.toNat / 2 % 2)) :
    swapFir s i v = if cidxOk (swapAccepted s i v) then swapAccepted s i v else firSwapEffect (swapAccepted s i v) i := by
  unfold swapFir
  rw [swapBank_eq, if_neg (by simp [hgo])]
  exact if_neg (by simpa [SwapRefused, or_assoc] using h)

/-- What the acceptance of a swap leaves. -/
structure SwapAccepted (s t : State) (i : Nat) (v : Word) : Prop where
  change : InputChange s t i [R.RXF_STATUS i, R.RXF_EVT i, R.TSL_EVT i]
  pending : isSet t (F.RXF_STATUS_SWAP_PEND i) = true
  romf : isSet t (F.RXF_STATUS_ROMF i) = isSet s (F.RXF_STATUS_ROMF i)
  bank : getF t (F.RXF_STATUS_ACT_BANK i) = getF s (F.RXF_STATUS_ACT_BANK i)
  rx : rxIn t i = (rxIn s i).swapWaits (v.toNat / 2 % 2) (bit v.toNat 2) (cidxNow s)

theorem swapAccepted_spec (s : State) (i : Nat) (v : Word) : SwapAccepted s (swapAccepted s i v) i v where
  change := (InputChange.setRx s _).trans (.raise _ (F.RXF_STATUS_SWAP_PEND i) (.head _))
  pending := isSet_raise_here _
  romf := isSet_of_getF (getF_setF_beside _ _)
  bank := getF_setF_beside _ _
  rx := by rw [swapAccepted, rxIn_raise, rxIn_setRx_same]

theorem SwapAccepted.cidxOk {s t : State} {i : Nat} {v : Word} (h : SwapAccepted s t i v) : cidxOk t = cidxOk s := by
  refine isSet_of_rd (h.change.rd ?_)
  simp only [F.MSY_STATUS_CIDX_VALID, R.MSY_STATUS, R.RXF_STATUS, R.RXF_EVT, R.TSL_EVT, List.mem_cons, List.not_mem_nil, or_false]
  omega

/-- The bank of the pending swap is in use. -/
def bankTaken (s : State) (i : Nat) : State :=
  raise (setF (setF (setF s (F.RXF_STATUS_SWAP_PEND i) 0) (F.RXF_STATUS_ROMF i) 0) (F.RXF_STATUS_ACT_BANK i) (rxIn s i).swapBank)
    (F.RXF_EVT_SWAP_DONE i)

theorem firSwapEffect_pending {s : State} {i : Nat} (h : isSet s (F.RXF_STATUS_SWAP_PEND i) = true) :
    firSwapEffect s i = if (rxIn s i).swapKeep then bankTaken s i else clearTmpl (bankTaken s i) i := by
  unfold firSwapEffect
  exact if_neg (by simp [h])

theorem firSwapEffect_none {s : State} {i : Nat} (h : isSet s (F.RXF_STATUS_SWAP_PEND i) = false) : firSwapEffect s i = s := by
  simp [firSwapEffect, h]

/-- What the effect of a swap leaves, the template apart. -/
structure BankTaken (s t : State) (i : Nat) : Prop where
  change : InputChange s t i [R.RXF_STATUS i, R.RXF_EVT i, R.TSL_EVT i]
  pending : isSet t (F.RXF_STATUS_SWAP_PEND i) = false
  romf : isSet t (F.RXF_STATUS_ROMF i) = false
  bank : getF t (F.RXF_STATUS_ACT_BANK i) = (rxIn s i).swapBank % 2
  flag : isSet t (F.RXF_EVT_SWAP_DONE i) = true

theorem bankTaken_spec (s : State) (i : Nat) : BankTaken s (bankTaken s i) i where
  change := (InputChange.setF s (F.RXF_STATUS_SWAP_PEND i) 0 (.head _)).trans ((InputChange.setF _ (F.RXF_STATUS_ROMF i) 0 (.head _)).trans
    ((InputChange.setF _ (F.RXF_STATUS_ACT_BANK i) _ (.head _)).trans (.raise _ (F.RXF_EVT_SWAP_DONE i) (.tail _ (.head _)))))
  pending := (isSet_of_getF ((getF_setF_away _ _ rxfReg_ne).trans ((getF_setF_beside _ _).trans (getF_setF_beside _ _)))).trans (isSet_setF_zero s)
  romf := (isSet_of_getF ((getF_setF_away _ _ rxfReg_ne).trans (getF_setF_beside _ _))).trans (isSet_setF_zero _)
  bank := (getF_setF_away _ _ rxfReg_ne).trans (getF_setF_here _ _)
  flag := isSet_raise_here _

theorem BankTaken.clearTmpl {s t : State} {i : Nat} (h : BankTaken s t i) : BankTaken s (clearTmpl t i) i := by
  have hstatus : R.RXF_STATUS i ≠ R.TSL_EVT i := by simp only [R.RXF_STATUS, R.TSL_EVT]; omega
  have hevt : R.RXF_EVT i ≠ R.TSL_EVT i := by simp only [R.RXF_EVT, R.TSL_EVT]; omega
  exact {
    change := h.change.trans (.clearTmpl t (.tail _ (.tail _ (.head _))))
    pending := (isSet_of_getF (getF_clearTmpl t i hstatus)).trans h.pending
    romf := (isSet_of_getF (getF_clearTmpl t i hstatus)).trans h.romf
    bank := (getF_clearTmpl t i hstatus).trans h.bank
    flag := (isSet_of_getF (getF_clearTmpl t i hevt)).trans h.flag }

/-- A pending swap takes effect, and clears the template unless KEEP was written (R130). -/
theorem firSwapEffect_spec {s : State} {i : Nat} (h : isSet s (F.RXF_STATUS_SWAP_PEND i) = true) : BankTaken s (firSwapEffect s i) i ∧
    rxIn (firSwapEffect s i) i = if (rxIn s i).swapKeep then rxIn s i else (rxIn s i).noTmpl := by
  have htaken := bankTaken_spec s i
  have hrx : rxIn (bankTaken s i) i = rxIn s i := by
    rw [bankTaken, rxIn_raise, rxIn_setF, rxIn_setF, rxIn_setF]
  rw [firSwapEffect_pending h]
  split
  · exact ⟨htaken, hrx⟩
  · exact ⟨htaken.clearTmpl, (rxIn_clearTmpl _ i).trans (congrArg RxIn.noTmpl hrx)⟩

section

variable {s : State} {k : Fin 4} {v : Word} (hs : Settled s) (hreach : reach s (R.RXF_FIR_SWAP k.val) = true)

include hs hreach

theorem completes_firBankSwap_idle (hgo : bit v.toNat 0 = false) :
    Completes (.firBankSwap k v) s fun t => t = rewritten s (R.RXF_FIR_SWAP k.val) :=
  completes_settled ((exec_firBankSwap v hreach).trans (congrArg done (swapFir_idle hgo))) (hs.rewritten _) rfl

theorem completes_firBankSwap_refused (hgo : bit v.toNat 0 = true) (h : SwapRefused s k.val (v.toNat / 2 % 2)) :
    Completes (.firBankSwap k v) s fun t => InputOnly s t k.val [R.RXF_STATUS k.val, R.RXF_EVT k.val, R.TSL_EVT k.val] ∧ t.rx = s.rx ∧
      rd t (R.RXF_STATUS k.val) = rd s (R.RXF_STATUS k.val) ∧ isSet t (F.RXF_EVT_CFG_ERR k.val) = true := by
  have hexec := exec_firBankSwap v hreach
  rw [swapFir_refused (s := rewritten s (R.RXF_FIR_SWAP k.val)) hgo h] at hexec
  have hall : InputChange s _ k.val [R.RXF_STATUS k.val, R.RXF_EVT k.val, R.TSL_EVT k.val] :=
    (InputChange.rewritten s (R.RXF_FIR_SWAP k.val)).trans (.raise _ (F.RXF_EVT_CFG_ERR k.val) (.tail _ (.head _)))
  exact completes_change hexec hs hall ⟨hall.only, rfl, rd_setF_ne _ _ _ rxfReg_ne, isSet_raise_here _⟩

/-- An accepted swap waits for the next cycle while the index is valid. -/
theorem completes_firBankSwap_waits (hgo : bit v.toNat 0 = true) (h : ¬ SwapRefused s k.val (v.toNat / 2 % 2)) (hidx : cidxOk s = true) :
    Completes (.firBankSwap k v) s fun t => InputOnly s t k.val [R.RXF_STATUS k.val, R.RXF_EVT k.val, R.TSL_EVT k.val] ∧
      isSet t (F.RXF_STATUS_SWAP_PEND k.val) = true ∧ (rxIn t k.val).swapBank = v.toNat / 2 % 2 ∧
      isSet t (F.RXF_STATUS_ROMF k.val) = isSet s (F.RXF_STATUS_ROMF k.val) ∧
      getF t (F.RXF_STATUS_ACT_BANK k.val) = getF s (F.RXF_STATUS_ACT_BANK k.val) ∧ (rxIn t k.val).tmpl = (rxIn s k.val).tmpl := by
  have hexec := exec_firBankSwap v hreach
  have haccepted := swapAccepted_spec (rewritten s (R.RXF_FIR_SWAP k.val)) k.val v
  rw [swapFir_accepted (s := rewritten s (R.RXF_FIR_SWAP k.val)) hgo h, if_pos (haccepted.cidxOk.trans hidx)] at hexec
  obtain ⟨hchange, hpending, hromf, hbank, hrx⟩ := haccepted
  have hall := (InputChange.rewritten s (R.RXF_FIR_SWAP k.val)).trans hchange
  refine completes_change hexec hs hall ⟨hall.only, hpending, ?_, hromf, hbank, ?_⟩
  · rw [hrx]
    rfl
  · rw [hrx]
    rfl

/-- Without a valid index it takes effect at once. -/
theorem completes_firBankSwap_now (hgo : bit v.toNat 0 = true) (h : ¬ SwapRefused s k.val (v.toNat / 2 % 2)) (hidx : cidxOk s = false) :
    Completes (.firBankSwap k v) s fun t => InputOnly s t k.val [R.RXF_STATUS k.val, R.RXF_EVT k.val, R.TSL_EVT k.val] ∧
      isSet t (F.RXF_STATUS_SWAP_PEND k.val) = false ∧ isSet t (F.RXF_STATUS_ROMF k.val) = false ∧
      getF t (F.RXF_STATUS_ACT_BANK k.val) = v.toNat / 2 % 2 ∧ isSet t (F.RXF_EVT_SWAP_DONE k.val) = true ∧
      (rxIn t k.val).tmpl = if bit v.toNat 2 then (rxIn s k.val).tmpl else [] := by
  have hexec := exec_firBankSwap v hreach
  have haccepted := swapAccepted_spec (rewritten s (R.RXF_FIR_SWAP k.val)) k.val v
  rw [swapFir_accepted (s := rewritten s (R.RXF_FIR_SWAP k.val)) hgo h, haccepted.cidxOk.trans hidx, if_neg Bool.false_ne_true] at hexec
  obtain ⟨hchange, hpending, -, -, hrx⟩ := haccepted
  obtain ⟨⟨heffect, hclear, hromf, hbank, hflag⟩, hmade⟩ := firSwapEffect_spec hpending
  rw [hrx] at hbank hmade
  have hall := (InputChange.rewritten s (R.RXF_FIR_SWAP k.val)).trans (hchange.trans heffect)
  refine completes_change hexec hs hall ⟨hall.only, hclear, hromf, hbank.trans (Nat.mod_mod _ _), hflag, ?_⟩
  rw [hmade]
  show (if bit v.toNat 2 then _ else _ : RxIn).tmpl = _
  split <;> rfl

end

/-- Settles O36: each command changes one input alone (`InputChange`), but for the report of a decision of the firmware that the host's gain
replaces and the clear of LOS. That TAP does not advance on a refused write, and that a TAP above 383 selects no coefficient, are the model's
choice and reading (log entries 91 and 36). -/
theorem inputSettings : Obligations.InputSettings := by
  unfold Obligations.InputSettings
  intro s k v hs
  refine ⟨fun hreach => ⟨completes_inputEnable_on hreach hs, completes_inputEnable_off_quiet hreach hs, completes_inputEnable_off hreach,
    fun en h => completes_inputEnable_same hreach hs h⟩, fun hreach => ?_, fun hreach => ?_,
    fun hreach => ⟨completes_firBankSwap_idle hs hreach, fun hgo => ?_⟩⟩
  · by_cases hagc : isSet s (F.RXF_CTRL_AGC k.val) = true
    · obtain ⟨t, hexec, honly, hmax, hkept⟩ := completes_gainWrite_agc v hs hreach hagc
      exact ⟨t, hexec, fun _ => honly, hmax, fun _ => hkept, fun h => absurd hagc (by simp [h])⟩
    · obtain ⟨t, hexec, honly, hstored, hwaits, happlied⟩ := completes_gainWrite_host v hs hreach (by simpa using hagc)
      exact ⟨t, hexec, fun h => honly (h.resolve_left hagc), hstored.max, fun h => absurd h hagc,
        fun _ => ⟨hstored.gain, hstored.error, hwaits, happlied⟩⟩
  · by_cases hrefused : firBusy s k.val (getF s (F.RXF_COEF_IDX_BANK k.val)) = true ∨ 384 ≤ getF s (F.RXF_COEF_IDX_TAP k.val)
    · obtain ⟨t, hexec, hp⟩ := completes_firCoefWrite_refused v hs hreach hrefused
      exact ⟨t, hexec, fun hfree htap => absurd hrefused (by simp [hfree, htap]), fun _ => hp⟩
    · obtain ⟨hfree, htap⟩ := not_or.1 hrefused
      obtain ⟨t, hexec, hp⟩ := completes_firCoefWrite_taken v hs hreach (by simpa using hfree) (by omega)
      exact ⟨t, hexec, fun _ _ => hp, fun h => absurd h hrefused⟩
  · by_cases hrefused : SwapRefused s k.val (v.toNat / 2 % 2)
    · obtain ⟨t, hexec, honly, hp⟩ := completes_firBankSwap_refused hs hreach hgo hrefused
      exact ⟨t, hexec, honly, fun _ => hp, fun h => absurd hrefused h, fun h => absurd hrefused h⟩
    · by_cases hidx : cidxOk s = true
      · obtain ⟨t, hexec, honly, hp⟩ := completes_firBankSwap_waits hs hreach hgo hrefused hidx
        exact ⟨t, hexec, honly, fun h => absurd h hrefused, fun _ _ => hp, fun _ h => absurd hidx (by simp [h])⟩
      · obtain ⟨t, hexec, honly, hp⟩ := completes_firBankSwap_now hs hreach hgo hrefused (by simpa using hidx)
        exact ⟨t, hexec, honly, fun h => absurd h hrefused, fun _ h => absurd h hidx, fun _ _ => hp⟩

end Sys2Proof.Machine

namespace Sys2Proof.Machine

/-! ### A converter sample (R119, R121, R125) -/

/-- Without a stream a tap's sample changes nothing. -/
theorem feedSample_nil {s : State} (h : s.streams = []) (tap i : Nat) (it : Item) : feedSample s tap i it = s := if_pos h

/-- The mark of a converter sample: lost on the link or in RXF's safe action, out of range or before the converter has settled. -/
def sampleMark (s : State) (i : Nat) (ovr erased : Bool) : Nat :=
  if erased || inSafeAt s 1 i then 3 else if ovr || (rxIn s i).warm != 0 then 2 else 0

/-- A converter sample joins the window of the FIR. -/
def RxIn.withSample (x : RxIn) (keep mark : Nat) (code : Int) (ovr erased : Bool) : RxIn :=
  { x with
    line := (((if mark = 0 then code else 0), mark, x.gain) :: x.line).take (max keep 384), phase := x.phase + 1, warm := x.warm - 1,
    overEpoch := x.overEpoch || (ovr && !erased), peakEpoch := if erased then x.peakEpoch else max x.peakEpoch code.natAbs }

theorem RxIn.withSample_head (x : RxIn) (keep mark : Nat) (code : Int) (ovr erased : Bool) :
    (x.withSample keep mark code ovr erased).line.head? = some (if mark = 0 then code else 0, mark, x.gain) := by
  obtain ⟨n, hn⟩ := Nat.exists_eq_add_of_lt (lt_of_lt_of_le (by norm_num : 0 < 384) (le_max_right keep 384))
  show ((_ :: x.line).take (max keep 384)).head? = _
  rw [hn, List.take_succ_cons]
  rfl

/-- The sample is in the window, and PWR is set once the converter has settled. -/
def sampleTaken (s : State) (i : Nat) (code : Int) (ovr erased : Bool) : State :=
  let u := setRx s i ((rxIn s i).withSample (firTaps s i) (sampleMark s i ovr erased) code ovr erased)
  if (rxIn s i).warm ≤ 1 then raise u (F.RXF_STATUS_PWR i) else u

/-- The raw tap takes it too. -/
def sampleFed (s : State) (i : Nat) (code : Int) (ovr erased : Bool) : State :=
  let u := sampleTaken s i code ovr erased
  feedSample u 0 i (rawInstant u i (tapCode (sampleMark s i ovr erased) code))

/-- The input's peak and its count of overrange samples. -/
def sampleCounted (s : State) (i mag : Nat) (ovr : Bool) : State :=
  let u := if mag > rdN s (R.RXF_PEAK i) then wrN s (R.RXF_PEAK i) mag else s
  if ovr then raise (bump u (R.RXF_OVR_CNT i)) (F.RXF_EVT_OVR i) else u

section

variable {s : State} {k : Fin 4} (code : BitVec 18) (ovr erased : Bool)

theorem exec_converterSample_off (h : isSet s (F.RXF_CTRL_EN k.val) = false ∨ domainOn s 6 = false) :
    exec (.converterSample k code ovr erased) s = done s := by
  show execConverterSample k code ovr erased s = _
  unfold execConverterSample
  rcases h with h | h
  · dsimp only
    rw [h]
    exact ite_self _
  · simp [h]

theorem exec_converterSample_lost (hen : isSet s (F.RXF_CTRL_EN k.val) = true) (hon : domainOn s 6 = true)
    (hlost : s.rel.hvLost = true ∨ domainOn s 17 = false) :
    exec (.converterSample k code ovr erased) s = done (feedSample s 0 k.val (rawInstant s k.val (tapCode 3 0))) := by
  show execConverterSample k code ovr erased s = _
  unfold execConverterSample
  dsimp only
  rw [if_neg (by simp [hon]), if_neg (by simp [hen]), if_pos (by rcases hlost with h | h <;> simp [h])]

theorem exec_converterSample_crossing (hen : isSet s (F.RXF_CTRL_EN k.val) = true) (hhv : s.rel.hvLost = false) (hon : domainOn s 6 = true)
    (hconv : domainOn s 17 = true) : exec (.converterSample k code ovr erased) s =
      done (if erased then sampleFed s k.val code.toInt ovr erased
        else sampleCounted (sampleFed s k.val code.toInt ovr erased) k.val code.toInt.natAbs ovr) := by
  show execConverterSample k code ovr erased s = _
  unfold execConverterSample
  dsimp only
  rw [if_neg (by simp [hon]), if_neg (by simp [hen]), if_neg (by simp [hhv, hconv])]
  cases erased <;> rfl

end

/-- The registers that a converter sample may store. -/
def sampleRegs (i : Nat) : List Nat := [R.RXF_STATUS i, R.RXF_PEAK i, R.RXF_OVR_CNT i, R.RXF_EVT i]

theorem sampleTaken_spec (s : State) (i : Nat) (code : Int) (ovr erased : Bool) :
    InputChange s (sampleTaken s i code ovr erased) i (sampleRegs i) ∧
      rxIn (sampleTaken s i code ovr erased) i = (rxIn s i).withSample (firTaps s i) (sampleMark s i ovr erased) code ovr erased ∧
      ∀ o, o ≠ R.RXF_STATUS i → rdN (sampleTaken s i code ovr erased) o = rdN s o := by
  unfold sampleTaken
  dsimp only
  split
  · refine ⟨(InputChange.setRx s _).trans (.raise _ (F.RXF_STATUS_PWR i) (.head _)), ?_, fun o ho => rdN_setF_ne _ _ _ ho⟩
    rw [rxIn_raise, rxIn_setRx_same]
  · exact ⟨.setRx s _, rxIn_setRx_same _ _ _, fun _ _ => rfl⟩

/-- What a converter sample in the window, told to the raw tap, leaves. -/
structure SampleFed (s t : State) (i : Nat) (x : RxIn) : Prop where
  quiet : s.streams = [] → InputChange s t i (sampleRegs i)
  others : ∀ q, q ≠ i → rxIn t q = rxIn s q
  rx : rxIn t i = x
  regs : ∀ o < 0x3400, o ≠ R.RXF_STATUS i → rdN t o = rdN s o
  settled : Settled s → Settled t

theorem sampleFed_spec (s : State) (i : Nat) (code : Int) (ovr erased : Bool) : SampleFed s (sampleFed s i code ovr erased) i
    ((rxIn s i).withSample (firTaps s i) (sampleMark s i ovr erased) code ovr erased) := by
  obtain ⟨hchange, hrx, hregs⟩ := sampleTaken_spec s i code ovr erased
  have hcapture : CaptureOnly (sampleTaken s i code ovr erased) (sampleFed s i code ovr erased) := captureOnly_feedSample _ _ _ _
  have hstreams : (sampleTaken s i code ovr erased).streams = s.streams := (congrArg State.streams hchange.only.1 :)
  refine ⟨fun h => ?_, fun q hq => (rxIn_congr hcapture.rx q).trans (hchange.only.2.1 q hq), (rxIn_congr hcapture.rx i).trans hrx,
    fun o ho hne => (hcapture.rdN (by omega) (by omega)).trans (hregs o hne), fun hs => hcapture.settled (hchange.settled hs)⟩
  rw [sampleFed, feedSample_nil (hstreams.trans h)]
  exact hchange

/-- What the counts of a sample leave. -/
structure SampleCounted (s t : State) (i mag : Nat) (ovr : Bool) : Prop where
  change : InputChange s t i (sampleRegs i)
  rx : t.rx = s.rx
  peak : rdN t (R.RXF_PEAK i) = max (rdN s (R.RXF_PEAK i)) mag
  ranged : ovr = true → isSet t (F.RXF_EVT_OVR i) = true ∧ rdN t (R.RXF_OVR_CNT i) = satN (2 ^ 32 - 1) (rdN s (R.RXF_OVR_CNT i) + 1)

/-- The peak register follows a higher sample. -/
theorem peakRaised_spec (s : State) (i : Nat) {mag : Nat} (hmag : mag < 2 ^ 32) :
    SampleCounted s (if mag > rdN s (R.RXF_PEAK i) then wrN s (R.RXF_PEAK i) mag else s) i mag false := by
  split
  case isTrue h =>
    refine ⟨.wrN s _ (.tail _ (.head _)), rfl, ?_, fun hno => absurd hno Bool.false_ne_true⟩
    rw [rdN_wrN, if_pos rfl, Nat.mod_eq_of_lt hmag, max_eq_right (le_of_lt h)]
  case isFalse h => exact ⟨.refl s, rfl, (max_eq_left (not_lt.1 h)).symm, fun hno => absurd hno Bool.false_ne_true⟩

theorem rdN_peakRaised (s : State) (i mag : Nat) {o : Nat} (ho : o ≠ R.RXF_PEAK i) :
    rdN (if mag > rdN s (R.RXF_PEAK i) then wrN s (R.RXF_PEAK i) mag else s) o = rdN s o := by
  split
  · rw [rdN_wrN, if_neg ho]
  · rfl

theorem sampleCounted_spec (s : State) (i : Nat) {mag : Nat} (hmag : mag < 2 ^ 32) (ovr : Bool) :
    SampleCounted s (sampleCounted s i mag ovr) i mag ovr := by
  obtain ⟨hchange, hrx, hmax, -⟩ := peakRaised_spec s i hmag
  have hover := rdN_peakRaised s i mag (o := R.RXF_OVR_CNT i) rxfReg_ne
  unfold sampleCounted
  dsimp only
  generalize (if mag > rdN s (R.RXF_PEAK i) then wrN s (R.RXF_PEAK i) mag else s) = u at *
  cases ovr with
  | false => exact ⟨hchange, hrx, hmax, fun hno => absurd hno Bool.false_ne_true⟩
  | true =>
    refine ⟨hchange.trans ((InputChange.wrN u _ (.tail _ (.tail _ (.head _)))).trans
      (.raise _ (F.RXF_EVT_OVR i) (.tail _ (.tail _ (.tail _ (.head _)))))), hrx, ?_, fun _ => ⟨isSet_raise_here _, ?_⟩⟩
    · refine (rdN_setF_ne _ _ _ rxfReg_ne).trans ?_
      rw [bump, rdN_wrN]
      exact (if_neg rxfReg_ne).trans hmax
    · rw [← hover, ← rdN_bump_same]
      exact rdN_setF_ne _ _ _ rxfReg_ne

theorem natAbs_code_lt (code : BitVec 18) : code.toInt.natAbs < 2 ^ 32 := by
  have hlow := BitVec.le_toInt code
  have hhigh := BitVec.toInt_lt (x := code)
  norm_num at hlow hhigh
  omega

section

variable {s : State} {k : Fin 4} (hs : Settled s) (code : BitVec 18) (ovr erased : Bool)

include hs

theorem completes_converterSample_crossing (hen : isSet s (F.RXF_CTRL_EN k.val) = true) (hhv : s.rel.hvLost = false) (hon : domainOn s 6 = true)
    (hconv : domainOn s 17 = true) : Completes (.converterSample k code ovr erased) s fun t =>
      (s.streams = [] → InputOnly s t k.val (sampleRegs k.val)) ∧ (∀ q, q ≠ k.val → rxIn t q = rxIn s q) ∧
        rxIn t k.val = (rxIn s k.val).withSample (firTaps s k.val) (sampleMark s k.val ovr erased) code.toInt ovr erased ∧
        rdN t (R.RXF_PEAK k.val) = (if erased then rdN s (R.RXF_PEAK k.val) else max (rdN s (R.RXF_PEAK k.val)) code.toInt.natAbs) ∧
        (ovr = true → erased = false → isSet t (F.RXF_EVT_OVR k.val) = true ∧
          rdN t (R.RXF_OVR_CNT k.val) = satN (2 ^ 32 - 1) (rdN s (R.RXF_OVR_CNT k.val) + 1)) := by
  have hexec := exec_converterSample_crossing code ovr erased hen hhv hon hconv
  have hpeak : R.RXF_PEAK k.val < 0x3400 := by unfold R.RXF_PEAK; omega
  have hover : R.RXF_OVR_CNT k.val < 0x3400 := by unfold R.RXF_OVR_CNT; omega
  obtain ⟨hquiet, hothers, hrx, hregs, hsettled⟩ := sampleFed_spec s k.val code.toInt ovr erased
  generalize sampleFed s k.val code.toInt ovr erased = u at *
  cases erased with
  | true => exact completes_settled hexec (hsettled hs) ⟨fun h => (hquiet h).only, hothers, hrx, hregs _ hpeak rxfReg_ne, by simp⟩
  | false =>
    obtain ⟨hchange, hkept, hmax, hcount⟩ := sampleCounted_spec u k.val (natAbs_code_lt code) ovr
    refine completes_settled hexec (hchange.settled (hsettled hs)) ⟨fun h => ((hquiet h).trans hchange).only,
      fun q hq => (rxIn_congr hkept q).trans (hothers q hq), (rxIn_congr hkept _).trans hrx, ?_, fun hovr _ => ?_⟩
    · rw [← hregs _ hpeak rxfReg_ne]
      exact hmax
    · rw [← hregs _ hover rxfReg_ne]
      exact hcount hovr

theorem completes_converterSample (hen : isSet s (F.RXF_CTRL_EN k.val) = true) (hhv : s.rel.hvLost = false) (hon : domainOn s 6 = true)
    (hconv : domainOn s 17 = true) : Completes (.converterSample k code ovr erased) s fun t =>
      (s.streams = [] → InputOnly s t k.val (sampleRegs k.val)) ∧ (∀ q, q ≠ k.val → rxIn t q = rxIn s q) ∧
        (rxIn t k.val).line.head? = some (if sampleMark s k.val ovr erased = 0 then code.toInt else 0, sampleMark s k.val ovr erased,
          (rxIn s k.val).gain) ∧
        (rxIn t k.val).phase = (rxIn s k.val).phase + 1 ∧ (rxIn t k.val).warm = (rxIn s k.val).warm - 1 ∧
        rdN t (R.RXF_PEAK k.val) = (if erased then rdN s (R.RXF_PEAK k.val) else max (rdN s (R.RXF_PEAK k.val)) code.toInt.natAbs) ∧
        (ovr = true → erased = false → isSet t (F.RXF_EVT_OVR k.val) = true ∧
          rdN t (R.RXF_OVR_CNT k.val) = satN (2 ^ 32 - 1) (rdN s (R.RXF_OVR_CNT k.val) + 1)) := by
  obtain ⟨t, hexec, honly, hothers, hrx, hpeak, hover⟩ := completes_converterSample_crossing hs code ovr erased hen hhv hon hconv
  refine ⟨t, hexec, honly, hothers, ?_, ?_, ?_, hpeak, hover⟩
  · rw [hrx]
    exact RxIn.withSample_head _ _ _ _ _ _
  · rw [hrx]
    rfl
  · rw [hrx]
    rfl

/-- Without the high-voltage side only the raw tap hears of a sample. -/
theorem completes_converterSample_lost (hlost : s.rel.hvLost = true ∨ domainOn s 17 = false) :
    Completes (.converterSample k code ovr erased) s fun t => t.rx = s.rx ∧ CaptureOnly s t ∧ (s.streams = [] → t = s) := by
  by_cases hoff : isSet s (F.RXF_CTRL_EN k.val) = false ∨ domainOn s 6 = false
  · exact completes_settled (exec_converterSample_off code ovr erased hoff) hs ⟨rfl, .refl s, fun _ => rfl⟩
  · simp only [not_or, Bool.not_eq_false] at hoff
    have hcapture := captureOnly_feedSample s 0 k.val (rawInstant s k.val (tapCode 3 0))
    exact completes_settled (exec_converterSample_lost code ovr erased hoff.1 hoff.2 hlost) (hcapture.settled hs)
      ⟨hcapture.rx, hcapture, fun h => feedSample_nil h _ _ _⟩

end

/-! ### The blanker's seed and its longest run (R139, R141) -/

/-- A quotient whose rounding is open lies within one divisor of the exact one. -/
theorem rq_toNat_bounds (place n : Nat) {d : Nat} (hd : 0 < d) :
    n ≤ d * (rq place (n : Int) d).toNat + (d - 1) ∧ d * (rq place (n : Int) d).toNat ≤ n + (d - 1) := by
  have hdiv := Nat.div_add_mod n d
  have hmod := Nat.mod_lt n hd
  have hquot : (rq place (n : Int) d).toNat = n / d + if n % d = 0 then 0 else b2n (Config.roundUp place n d) := by
    have hzero : ((n : Int) % d = 0) ↔ n % d = 0 := by norm_cast
    simp only [rq, hzero]
    split
    · norm_cast
    · norm_cast
  have hround : b2n (Config.roundUp place n d) ≤ 1 := by cases Config.roundUp place n d <;> decide
  rw [hquot, Nat.mul_add]
  split
  case isTrue hexact => omega
  case isFalse hexact =>
    have hup : d * b2n (Config.roundUp place n d) ≤ d * 1 := Nat.mul_le_mul_left d hround
    omega

/-- The blanker is seeded with `m`. -/
def RxIn.seededWith (x : RxIn) (m : Nat) : RxIn := { x with m := m, seeded := true }

theorem exec_blankerSeedDone_idle {s : State} {k : Fin 4} (h : (rxIn s k.val).seeded = true ∨ (rxIn s k.val).seed ≠ 0) :
    exec (.blankerSeedDone k) s = done s := by
  show execBlankerSeedDone k s = _
  unfold execBlankerSeedDone
  exact if_pos (by simpa using h)

theorem exec_blankerSeedDone {s : State} {k : Fin 4} (hseeded : (rxIn s k.val).seeded = false) (hseed : (rxIn s k.val).seed = 0) :
    exec (.blankerSeedDone k) s = done (setRx s k.val ((rxIn s k.val).seededWith (rq 51 (rxIn s k.val).seedSum 256).toNat)) := by
  show execBlankerSeedDone k s = _
  unfold execBlankerSeedDone
  exact if_neg (by simp [hseeded, hseed])

/-- A run at its limit ends: the blanker is seeded anew, from `m` on. -/
def RxIn.reseeded (x : RxIn) (m : Nat) : RxIn :=
  { x with m := m, seed := 256, seedSum := 0, seeded := false, post := 0, run := 0, lastRun := 0 }

theorem runFull_iff (s : State) (i : Nat) :
    runFull s i = true ↔ getF s (F.RXF_BLK_MAXRUN_MAXRUN i) ≠ 0 ∧ getF s (F.RXF_BLK_MAXRUN_MAXRUN i) ≤ (rxIn s i).run := by
  simp [runFull]

theorem runFull_eq_false_iff (s : State) (i : Nat) :
    runFull s i = false ↔ getF s (F.RXF_BLK_MAXRUN_MAXRUN i) = 0 ∨ (rxIn s i).run < getF s (F.RXF_BLK_MAXRUN_MAXRUN i) := by
  rw [← Bool.not_eq_true, runFull_iff, not_and_or, not_not, not_le]

theorem exec_blankMaxrun_idle {s : State} {k : Fin 4} (h : runFull s k.val = false) : exec (.blankMaxrun k) s = done s := by
  show execBlankMaxrun k s = _
  unfold execBlankMaxrun
  exact if_pos (by simp [h])

theorem exec_blankMaxrun {s : State} {k : Fin 4} (h : runFull s k.val = true) : ∃ m, exec (.blankMaxrun k) s =
    done (raise (setRx s k.val ((rxIn s k.val).reseeded m)) (F.RXF_EVT_BLANK_SAT k.val)) := by
  refine ⟨(rq 52 ((rxIn s k.val).sq.sum : Nat) (max 1 (rxIn s k.val).sq.length)).toNat, ?_⟩
  show execBlankMaxrun k s = _
  unfold execBlankMaxrun
  exact if_neg (by simp [h])

/-! ### The template's window (R136, R137) -/

/-- A bin reads what has been put into it, the others as before. -/
theorem binAt_putBin (x : RxIn) (b : Nat) (v : Int × Nat) (a : Nat) : binAt (x.putBin b v) a = if a = b then v else binAt x a := by
  by_cases h : a = b
  · rw [if_pos h, h]
    exact fgetD_fputD_same _ _ _ _
  · rw [if_neg h]
    exact fgetD_fputD_ne _ _ _ _ h

/-- The bin that TSL_TPL_IDX names. -/
def binIdx (s : State) (i : Nat) : Nat := rdN s (R.TSL_TPL_IDX i) % 2 ^ 15

/-- T and c of a bin, 0 beyond the template. -/
def binShown (x : RxIn) (b : Nat) : Int × Nat := if b < binsOf x.res then binAt x b else (0, 0)

/-- The word that a bin reads as. -/
def binWord (x : RxIn) (b : Nat) : Word := BitVec.ofNat 32 ((binShown x b).2 * 2 ^ 24 + wrap 24 (binShown x b).1)

theorem binWord_eq (x : RxIn) (b : Nat) : binWord x b =
    if b < 24576 / 2 ^ x.res then BitVec.ofNat 32 ((binAt x b).2 * 2 ^ 24 + wrap 24 (binAt x b).1) else 0 := by
  unfold binWord binShown binsOf
  split
  · rfl
  · rfl

theorem rdN_nextBin (s : State) (i : Nat) : rdN (nextBin s i) (R.TSL_TPL_IDX i) = (rdN s (R.TSL_TPL_IDX i) + 1) % 2 ^ 15 := by
  rw [nextBin, rdN_wrN, if_pos rfl]
  exact Nat.mod_eq_of_lt ((Nat.mod_lt _ (by decide)).trans (by decide))

theorem rdN_nextBin_ne (s : State) {i o : Nat} (h : o ≠ R.TSL_TPL_IDX i) : rdN (nextBin s i) o = rdN s o := by
  rw [nextBin, rdN_wrN, if_neg h]

/-- Registers of one input's TSL at different places are different. -/
theorem tslReg_ne {a b i : Nat} (h : a ≠ b := by decide) : a + 0x40 * i ≠ b + 0x40 * i := fun heq => h (Nat.add_right_cancel heq)

theorem TSL_PERR_CNT_ne_EVT (i : Nat) : R.TSL_PERR_CNT i ≠ R.TSL_EVT i := tslReg_ne
theorem TSL_PERR_CNT_ne_TPL_IDX (i : Nat) : R.TSL_PERR_CNT i ≠ R.TSL_TPL_IDX i := tslReg_ne
theorem TSL_EVT_ne_TPL_IDX (i : Nat) : R.TSL_EVT i ≠ R.TSL_TPL_IDX i := tslReg_ne

/-- A bin of bad parity is read as cleared, and counted (R137). -/
theorem perrBins_one (s : State) (i b : Nat) : perrBins s i [b] =
    raiseBit (bump (setRx s i ((rxIn s i).putBin b (0, 0))) (R.TSL_PERR_CNT i)) (R.TSL_EVT i) 3 := rfl

theorem binWord_cleared (x : RxIn) (b : Nat) : binWord (x.putBin b (0, 0)) b = 0 := by
  have hbin : binShown (x.putBin b (0, 0)) b = (0, 0) := by
    rw [binShown, binAt_putBin, if_pos rfl]
    exact ite_self _
  rw [binWord, hbin]
  rfl

theorem InputChange.nextBin {i : Nat} {but : List Nat} (s : State) (ho : R.TSL_TPL_IDX i ∈ but) : InputChange s (nextBin s i) i but := .wrN s _ ho

theorem InputChange.raiseBit {i : Nat} {but : List Nat} (s : State) {o : Nat} (b : Nat) (ho : o ∈ but) :
    InputChange s (raiseBit s o b) i but := .wrN s _ ho

@[simp] theorem rxIn_nextBin (s : State) (i q : Nat) : rxIn (nextBin s i) q = rxIn s q := rfl

theorem writeTmpl_taken {s : State} {i : Nat} (v : Word) (hfreeze : isSet s (F.TSL_CFG_FREEZE i) = true)
    (hbin : binIdx s i < binsOf (rxIn s i).res) :
    writeTmpl s i v = nextBin (setRx s i ((rxIn s i).putBin (binIdx s i) (sext 24 v.toNat, bits v.toNat 27 24))) i := by
  rw [binIdx] at hbin
  refine congrArg (nextBin · i) (if_neg ?_)
  simpa [hfreeze] using hbin

theorem writeTmpl_refused {s : State} {i : Nat} (v : Word)
    (h : isSet s (F.TSL_CFG_FREEZE i) = false ∨ binsOf (rxIn s i).res ≤ binIdx s i) :
    writeTmpl s i v = nextBin (raiseBit s (R.TSL_EVT i) 1) i := by
  rw [binIdx] at h
  refine congrArg (nextBin · i) (if_pos ?_)
  simpa using h

/-- The read of a bin shows `w`, and BIN advances. -/
def binReadOut (s : State) (i : Nat) (w : Word) : State := nextBin { s with readData := w } i

theorem readTmpl_eq_readOut (s : State) (i : Nat) (bad : Bool) : readTmpl s i bad =
    binReadOut (if bad then perrBins s i [binIdx s i] else s) i (binWord (rxIn (if bad then perrBins s i [binIdx s i] else s) i) (binIdx s i)) := rfl

section

variable (s : State) (i : Nat) (w : Word)

theorem binReadOut_readData : (binReadOut s i w).readData = w := rfl
theorem binReadOut_frame : { binReadOut s i w with regs := s.regs, readData := s.readData } = s := by
  unfold binReadOut nextBin
  rfl
theorem rxIn_binReadOut : rxIn (binReadOut s i w) i = rxIn s i := rfl
theorem rdN_binReadOut : rdN (binReadOut s i w) (R.TSL_TPL_IDX i) = (rdN s (R.TSL_TPL_IDX i) + 1) % 2 ^ 15 := rdN_nextBin _ i
theorem rdN_binReadOut_ne {o : Nat} (h : o ≠ R.TSL_TPL_IDX i) : rdN (binReadOut s i w) o = rdN s o := rdN_nextBin_ne { s with readData := w } h
theorem rd_binReadOut_ne {o : Nat} (h : o ≠ R.TSL_TPL_IDX i) : rd (binReadOut s i w) o = rd s o := rd_wr_ne { s with readData := w } _ h
theorem settled_binReadOut (h : Settled s) : Settled (binReadOut s i w) := h.congr rfl rfl fun _ => rfl

end

/-- What the clearing of a bin of bad parity leaves. -/
structure BinLost (s t : State) (i b : Nat) : Prop where
  change : InputChange s t i [R.TSL_PERR_CNT i, R.TSL_EVT i]
  rx : rxIn t i = (rxIn s i).putBin b (0, 0)
  flag : bit (rdN t (R.TSL_EVT i)) 3 = true
  count : rdN t (R.TSL_PERR_CNT i) = satN (2 ^ 32 - 1) (rdN s (R.TSL_PERR_CNT i) + 1)

theorem perrBins_one_spec (s : State) (i b : Nat) : BinLost s (perrBins s i [b]) i b := by
  rw [perrBins_one]
  refine ⟨?_, ?_, bit_raiseBit _ (by decide), ?_⟩
  · exact (InputChange.setRx s _).trans ((InputChange.wrN _ _ (.head _)).trans (.wrN _ _ (.tail _ (.head _))))
  · rw [rxIn_raiseBit, bump, rxIn_wrN, rxIn_setRx_same]
  · rw [raiseBit, rdN_wrN, if_neg (TSL_PERR_CNT_ne_EVT i), rdN_bump_same, rdN_setRx]

section

variable {s : State} {k : Fin 4} (hs : Settled s) (hreach : reach s (R.TSL_TPL_DATA k.val) = true)

include hs hreach

theorem completes_templateRead_good : Completes (.templateRead k false) s fun t =>
    rdN t (R.TSL_TPL_IDX k.val) = (rdN s (R.TSL_TPL_IDX k.val) + 1) % 2 ^ 15 ∧ { t with regs := s.regs, readData := s.readData } = s ∧
      SameRegs s t [R.TSL_TPL_IDX k.val] ∧ t.readData = binWord (rxIn s k.val) (binIdx s k.val) := by
  have hexec : exec (.templateRead k false) s = done (binReadOut s k.val (binWord (rxIn s k.val) (binIdx s k.val))) :=
    congrArg done (readAccess_reach _ hreach)
  generalize binWord (rxIn s k.val) (binIdx s k.val) = w at *
  exact completes_settled hexec (settled_binReadOut s _ w hs) ⟨rdN_binReadOut s _ w, binReadOut_frame s _ w,
    fun o ho => rd_binReadOut_ne s _ w (List.ne_of_not_mem_cons ho), binReadOut_readData s _ w⟩

theorem completes_templateRead_bad : Completes (.templateRead k true) s fun t =>
    rdN t (R.TSL_TPL_IDX k.val) = (rdN s (R.TSL_TPL_IDX k.val) + 1) % 2 ^ 15 ∧ t.readData = 0 ∧
      binAt (rxIn t k.val) (binIdx s k.val) = (0, 0) ∧ bit (rdN t (R.TSL_EVT k.val)) 3 = true ∧
      rdN t (R.TSL_PERR_CNT k.val) = satN (2 ^ 32 - 1) (rdN s (R.TSL_PERR_CNT k.val) + 1) := by
  obtain ⟨hchange, hrx, hflag, hcount⟩ := perrBins_one_spec s k.val (binIdx s k.val)
  have hexec : exec (.templateRead k true) s = done (readTmpl s k.val true) := congrArg done (readAccess_reach _ hreach)
  rw [readTmpl_eq_readOut, if_pos rfl, hrx, binWord_cleared] at hexec
  generalize perrBins s k.val [binIdx s k.val] = u at *
  have hidx : rdN u (R.TSL_TPL_IDX k.val) = rdN s (R.TSL_TPL_IDX k.val) :=
    congrArg BitVec.toNat (hchange.rd (by simp [R.TSL_TPL_IDX, R.TSL_PERR_CNT, R.TSL_EVT]))
  refine completes_settled hexec (settled_binReadOut u _ 0 (hchange.settled hs)) ⟨?_, binReadOut_readData u _ 0, ?_, ?_, ?_⟩
  · rw [rdN_binReadOut, hidx]
  · rw [rxIn_binReadOut, hrx, binAt_putBin, if_pos rfl]
  · rw [rdN_binReadOut_ne u _ 0 (TSL_EVT_ne_TPL_IDX _)]
    exact hflag
  · rw [rdN_binReadOut_ne u _ 0 (TSL_PERR_CNT_ne_TPL_IDX _)]
    exact hcount

theorem completes_templateRead (bad : Bool) : Completes (.templateRead k bad) s fun t =>
    rdN t (R.TSL_TPL_IDX k.val) = (rdN s (R.TSL_TPL_IDX k.val) + 1) % 2 ^ 15 ∧
      (bad = false → { t with regs := s.regs, readData := s.readData } = s ∧ SameRegs s t [R.TSL_TPL_IDX k.val] ∧
        t.readData = if binIdx s k.val < 24576 / 2 ^ (rxIn s k.val).res then BitVec.ofNat 32
          ((binAt (rxIn s k.val) (binIdx s k.val)).2 * 2 ^ 24 + wrap 24 (binAt (rxIn s k.val) (binIdx s k.val)).1) else 0) ∧
      (bad = true → t.readData = 0 ∧ binAt (rxIn t k.val) (binIdx s k.val) = (0, 0) ∧ bit (rdN t (R.TSL_EVT k.val)) 3 = true ∧
        rdN t (R.TSL_PERR_CNT k.val) = satN (2 ^ 32 - 1) (rdN s (R.TSL_PERR_CNT k.val) + 1)) := by
  cases bad with
  | false =>
    obtain ⟨t, hexec, hnext, hframe, hregs, hread⟩ := completes_templateRead_good hs hreach
    exact ⟨t, hexec, hnext, fun _ => ⟨hframe, hregs, hread.trans (binWord_eq _ _)⟩, fun h => absurd h Bool.false_ne_true⟩
  | true =>
    obtain ⟨t, hexec, hnext, hp⟩ := completes_templateRead_bad hs hreach
    exact ⟨t, hexec, hnext, fun h => absurd h.symm Bool.false_ne_true, fun _ => hp⟩

omit hs in
theorem exec_templateWrite (v : Word) :
    exec (.templateWrite k v) s = done (writeTmpl (rewritten s (R.TSL_TPL_DATA k.val)) k.val v) :=
  congrArg done (access_unlocked _ hreach (setOf_front (by unfold R.TSL_TPL_DATA; omega) (by unfold R.TSL_TPL_DATA; omega)))

theorem completes_templateWrite_taken (v : Word) (hfreeze : isSet s (F.TSL_CFG_FREEZE k.val) = true)
    (hbin : binIdx s k.val < binsOf (rxIn s k.val).res) : Completes (.templateWrite k v) s fun t =>
      InputOnly s t k.val [R.TSL_TPL_IDX k.val] ∧ rdN t (R.TSL_TPL_IDX k.val) = (rdN s (R.TSL_TPL_IDX k.val) + 1) % 2 ^ 15 ∧
        ∀ a, binAt (rxIn t k.val) a = if a = binIdx s k.val then (sext 24 v.toNat, bits v.toNat 27 24) else binAt (rxIn s k.val) a := by
  have hexec := exec_templateWrite hreach v
  rw [writeTmpl_taken (s := rewritten s (R.TSL_TPL_DATA k.val)) v hfreeze hbin] at hexec
  have hall : InputChange s _ k.val [R.TSL_TPL_IDX k.val] := (InputChange.rewritten s (R.TSL_TPL_DATA k.val)).trans
    ((InputChange.setRx _ ((rxIn s k.val).putBin (binIdx s k.val) (sext 24 v.toNat, bits v.toNat 27 24))).trans (.nextBin _ (.head _)))
  refine completes_change hexec hs hall ⟨hall.only, rdN_nextBin _ _, fun a => ?_⟩
  rw [rxIn_nextBin, rxIn_setRx_same]
  exact binAt_putBin _ _ _ _

theorem completes_templateWrite_refused (v : Word) (h : isSet s (F.TSL_CFG_FREEZE k.val) = false ∨ binsOf (rxIn s k.val).res ≤ binIdx s k.val) :
    Completes (.templateWrite k v) s fun t =>
      InputOnly s t k.val [R.TSL_EVT k.val, R.TSL_TPL_IDX k.val] ∧ t.rx = s.rx ∧
        rdN t (R.TSL_TPL_IDX k.val) = (rdN s (R.TSL_TPL_IDX k.val) + 1) % 2 ^ 15 ∧ bit (rdN t (R.TSL_EVT k.val)) 1 = true := by
  have hexec := exec_templateWrite hreach v
  rw [writeTmpl_refused (s := rewritten s (R.TSL_TPL_DATA k.val)) v h] at hexec
  have hall : InputChange s _ k.val [R.TSL_EVT k.val, R.TSL_TPL_IDX k.val] := (InputChange.rewritten s (R.TSL_TPL_DATA k.val)).trans
    ((InputChange.raiseBit _ 1 (.head _)).trans (.nextBin _ (.tail _ (.head _))))
  refine completes_change hexec hs hall ⟨hall.only, rfl, ?_, ?_⟩
  · rw [rdN_nextBin, raiseBit, rdN_wrN, if_neg (TSL_EVT_ne_TPL_IDX _).symm]
    rfl
  · rw [rdN_nextBin_ne _ (TSL_EVT_ne_TPL_IDX _)]
    exact bit_raiseBit _ (by decide)

theorem completes_templateWrite (v : Word) : Completes (.templateWrite k v) s fun t =>
    (isSet s (F.TSL_CFG_FREEZE k.val) = true → binIdx s k.val < 24576 / 2 ^ (rxIn s k.val).res →
      InputOnly s t k.val [R.TSL_TPL_IDX k.val] ∧ rdN t (R.TSL_TPL_IDX k.val) = (rdN s (R.TSL_TPL_IDX k.val) + 1) % 2 ^ 15 ∧
        ∀ a, binAt (rxIn t k.val) a = if a = binIdx s k.val then (sext 24 v.toNat, bits v.toNat 27 24) else binAt (rxIn s k.val) a) ∧
    (isSet s (F.TSL_CFG_FREEZE k.val) = false ∨ 24576 / 2 ^ (rxIn s k.val).res ≤ binIdx s k.val →
      InputOnly s t k.val [R.TSL_EVT k.val, R.TSL_TPL_IDX k.val] ∧ t.rx = s.rx ∧
        rdN t (R.TSL_TPL_IDX k.val) = (rdN s (R.TSL_TPL_IDX k.val) + 1) % 2 ^ 15 ∧ bit (rdN t (R.TSL_EVT k.val)) 1 = true) := by
  by_cases hrefused : isSet s (F.TSL_CFG_FREEZE k.val) = false ∨ binsOf (rxIn s k.val).res ≤ binIdx s k.val
  · obtain ⟨t, hexec, hp⟩ := completes_templateWrite_refused hs hreach v hrefused
    exact ⟨t, hexec, fun hfreeze hbin => absurd hrefused (not_or.2 ⟨by simp [hfreeze], not_le.2 hbin⟩), fun _ => hp⟩
  · obtain ⟨hfreeze, hbin⟩ := not_or.1 hrefused
    obtain ⟨t, hexec, hp⟩ := completes_templateWrite_taken hs hreach v (by simpa using hfreeze) (not_le.1 hbin)
    exact ⟨t, hexec, fun _ _ => hp, fun h => absurd h hrefused⟩

end

section

variable {s : State} {k : Fin 4} (hs : Settled s)

include hs

theorem completes_blankerSeedDone (hseeded : (rxIn s k.val).seeded = false) (hseed : (rxIn s k.val).seed = 0) :
    Completes (.blankerSeedDone k) s fun t => InputOnly s t k.val [] ∧ (rxIn s k.val).seedSum ≤ 256 * (rxIn t k.val).m + 255 ∧
      256 * (rxIn t k.val).m ≤ (rxIn s k.val).seedSum + 255 ∧ rxIn t k.val = (rxIn s k.val).seededWith (rxIn t k.val).m := by
  have hexec := exec_blankerSeedDone hseeded hseed
  have hbounds := rq_toNat_bounds 51 (rxIn s k.val).seedSum (d := 256) (by decide)
  generalize (rq 51 (rxIn s k.val).seedSum 256).toNat = m at *
  have hchange : InputChange s _ k.val [] := .setRx s ((rxIn s k.val).seededWith m)
  refine completes_change hexec hs hchange ⟨hchange.only, ?_⟩
  rw [rxIn_setRx_same]
  exact ⟨hbounds.1, hbounds.2, rfl⟩

theorem completes_blankMaxrun (h : runFull s k.val = true) : Completes (.blankMaxrun k) s fun t =>
    InputOnly s t k.val [R.RXF_EVT k.val] ∧ isSet t (F.RXF_EVT_BLANK_SAT k.val) = true ∧ (rxIn t k.val).run = 0 ∧
      (rxIn t k.val).post = 0 ∧ (rxIn t k.val).seeded = false ∧ (rxIn t k.val).seed = 256 ∧ (rxIn t k.val).dly = (rxIn s k.val).dly := by
  obtain ⟨m, hexec⟩ := exec_blankMaxrun h
  have hchange : InputChange s _ k.val [R.RXF_EVT k.val] :=
    (InputChange.setRx s ((rxIn s k.val).reseeded m)).trans (.raise _ (F.RXF_EVT_BLANK_SAT k.val) (.head _))
  refine completes_change hexec hs hchange ⟨hchange.only, isSet_raise_here _, ?_⟩
  rw [rxIn_raise, rxIn_setRx_same]
  exact ⟨rfl, rfl, rfl, rfl, rfl⟩

end

end Sys2Proof.Machine

namespace Sys2Proof.Machine

/-! ### What the injection players leave of the receive inputs (R132, R311, R337) -/

/-- The registers of RXF and TSL, the others as 0. -/
def frontRegs (s : State) (o : Nat) : Word := if 0x1000 ≤ o ∧ o < 0x1C00 then rd s o else 0

/-- The receive inputs are as before, with the registers of RXF and TSL. -/
abbrev FrontKept : State → State → Prop := Kept fun s => (s.rx, frontRegs s)

namespace FrontKept

variable {s t : State}

theorem rx (h : FrontKept s t) : t.rx = s.rx := congrArg Prod.fst h.eq

theorem rd (h : FrontKept s t) {o : Nat} (hlow : 0x1000 ≤ o) (hhigh : o < 0x1C00) : Machine.rd t o = Machine.rd s o := by
  have hread := congrFun (congrArg Prod.snd h.eq) o
  simpa only [frontRegs, if_pos (And.intro hlow hhigh)] using hread

theorem intro (hrx : t.rx = s.rx) (hregs : ∀ o, 0x1000 ≤ o → o < 0x1C00 → Machine.rd t o = Machine.rd s o) : FrontKept s t := by
  refine ⟨Prod.ext hrx (funext fun o => ?_)⟩
  simp only [frontRegs]
  split
  case isTrue h => exact hregs o h.1 h.2
  case isFalse => rfl

theorem of_host (h : HostOnly s t) : FrontKept s t := intro h.rx fun _ _ _ => h.rd (by omega)

theorem wr (s : State) {o : Nat} (v : Word) (h : o < 0x1000 ∨ 0x1C00 ≤ o) : FrontKept s (wr s o v) :=
  intro rfl fun _ _ _ => rd_wr_ne s v (by omega)

theorem bump (s : State) {o : Nat} (n : Nat) (h : o < 0x1000 ∨ 0x1C00 ≤ o) : FrontKept s (bump s o n) := wr s _ h

theorem setF (s : State) (f : Fld) (v : Nat) (h : f.off < 0x1000 ∨ 0x1C00 ≤ f.off) : FrontKept s (setF s f v) := wr s _ h

theorem raise (s : State) (f : Fld) (h : f.off < 0x1000 ∨ 0x1C00 ≤ f.off) : FrontKept s (raise s f) := wr s _ h

theorem of_data (hrx : t.rx = s.rx) (hregs : t.regs = s.regs) : FrontKept s t := intro hrx fun o _ _ => by rw [Machine.rd, hregs, Machine.rd]

theorem setPlayer (s : State) (p : Nat) (x : Player) : FrontKept s (setPlayer s p x) := of_data rfl rfl

end FrontKept

theorem frontKept_clearHist (s : State) (src item : Nat) : FrontKept s (clearHist s src item) := ⟨rfl⟩

theorem frontKept_faultLog (s : State) (src item : Nat) (lasting : Bool) (action count : Nat) :
    FrontKept s (faultLog s src item lasting action count) := by
  refine .intro ?_ fun o hlow _ => rd_faultLog_ne _ _ _ _ _ _ (by simp only [R.REL_LOG_STAT]; omega)
  obtain ⟨regs, log, hlog⟩ := faultLog_eq s src item lasting action count
  rw [hlog]

theorem frontKept_retirePage (s : State) (page : Nat) : FrontKept s (retirePage s page).1 := by
  unfold retirePage
  dsimp only
  split
  · exact .raise s F.GLB_FAULT_SUM_DRAM_SPARE_OUT (by decide)
  · exact (FrontKept.setF s F.REL_DRAM_SPARE_SPARE _ (by decide)).trans ⟨rfl⟩

/-- A lasting fault of a DRAM page. -/
theorem frontKept_takePage (s : State) (page count : Nat) : FrontKept s (takeLasting s 0 page count) := by
  have hmarked : FrontKept s (lastingMarked s 0 page) := by
    unfold lastingMarked
    exact (frontKept_clearHist s 0 page).trans ((frontKept_retirePage _ page).trans
      ((FrontKept.setF _ F.GLB_FAULT_SUM_LAST _ (by decide)).trans (FrontKept.wr _ _ (by decide))))
  obtain ⟨action, hhost⟩ := hostOnly_takeLasting s 0 page count
  exact hmarked.trans ((frontKept_faultLog _ _ _ _ _ _).trans (FrontKept.of_host hhost))

theorem frontKept_trackPage (s : State) (page : Nat) : FrontKept s (trackPage s page) :=
  (Kept.foldl _ _ (fun u p => frontKept_clearHist u 0 p) s).trans ⟨rfl⟩

theorem frontKept_lastingPage (s : State) (page : Nat) : FrontKept s (lastingPage s page) :=
  (FrontKept.bump s 1 (by decide)).trans ((frontKept_trackPage _ page).trans (frontKept_takePage _ page _))

/-- A raw event of a DRAM page. -/
theorem frontKept_faultPage (s : State) (page : Nat) : FrontKept s (faultRaw s 0 page) := by
  have hbump : FrontKept s (bump s (R.REL_TOT 0)) := .bump s 1 (by decide)
  have hhist : ∀ (u : State) (h : History), FrontKept u (setHist u (faultKey 0 page) h) := fun _ _ => ⟨rfl⟩
  unfold faultRaw
  split
  case isTrue => exact .refl s
  case isFalse =>
    obtain ⟨n, t, div⟩ := faultCfg s 0
    simp only [Nat.zero_ne_one, ↓reduceIte]
    split
    · exact hbump.trans (hhist _ _)
    · generalize List.take _ _ = times
      have htracked := hbump.trans ((hhist _ { times := times }).trans (frontKept_trackPage _ page))
      split
      · exact htracked.trans (frontKept_takePage _ page _)
      · exact htracked.trans (frontKept_faultLog _ _ _ _ _ _)

/-- A read of a pattern word is counted. -/
theorem frontKept_readCounted (s : State) (page : Nat) (bad : Bool) : FrontKept s (if bad then lastingPage s page else faultRaw s 0 page) :=
  .ite (frontKept_lastingPage s page) (frontKept_faultPage s page)

theorem frontKept_patReport (s : State) : FrontKept s (patReport s) := by
  refine .ite (.refl s) (.foldl _ _ ?_ s)
  rintro u ⟨p, x⟩
  refine (FrontKept.setPlayer u p _).trans (.foldl _ _ ?_ _)
  rintro v ⟨w, bad⟩
  exact frontKept_readCounted v _ bad

theorem frontKept_playerJobEnded (uid p : Nat) (s : State) (j : Job) : FrontKept s (playerJobEnded uid p s j) := by
  have hnote : ∀ u, FrontKept u (noteTx u p) := fun u => .ite ⟨rfl⟩ (.ite ⟨rfl⟩ (.refl u))
  have hjob : ∀ f, FrontKept s (updJob s j.id f) := fun _ => ⟨rfl⟩
  exact .ite (.refl s) (.ite ((hjob _).trans (hnote _)) ⟨rfl⟩)

/-- An injection player stops. -/
theorem frontKept_stopPlayer (s : State) {p : Nat} (hp : 3 ≤ p) (pass : Bool) (status detail : Nat) :
    FrontKept s (stopPlayer s p pass status detail) := by
  have hended : ∀ (l : List Job) (uid : Nat) (u : State) (x : Player), FrontKept u (l.foldl (playerJobEnded uid p) (setPlayer u p x)) :=
    fun l uid u x => (FrontKept.setPlayer u p x).trans (.foldl l _ (frontKept_playerJobEnded uid p) _)
  refine .ite (.refl s) ?_
  extract_lets u _ x v w
  have hu : u = s := if_neg (by omega)
  have hw : FrontKept s w := (FrontKept.of_data (congrArg State.rx hu) (congrArg State.regs hu)).trans (hended _ _ u _)
  split
  · exact hw.trans (FrontKept.of_host (hostOnly_complete w _ status detail _))
  · exact hw

theorem frontKept_readPat (p : Nat) (s : State) (w : Nat) : FrontKept s (readPat p s w) := by
  have hstored : ∀ d, FrontKept s { s with dram := d } := fun _ => .of_data rfl rfl
  unfold readPat
  dsimp only
  split
  · exact FrontKept.setPlayer s p _
  · exact (hstored _).trans (FrontKept.setPlayer _ p _)
  · exact .refl s

theorem frontKept_fetchItems (s : State) {p : Nat} (hp : 3 ≤ p) (n : Nat) : FrontKept s (fetchItems s p n) := by
  have hstop : ∀ u, FrontKept u (stopBad u p) := fun u => (FrontKept.bump u 1 (by decide)).trans
    ((FrontKept.raise _ F.YAR_EVT_UNCORR (by decide)).trans (frontKept_stopPlayer _ hp _ _ _))
  have hread : ∀ (l : List Nat) (x : Player), FrontKept s (l.foldl (readPat p) (setPlayer s p x)) := fun l x =>
    (FrontKept.setPlayer s p x).trans (.foldl l _ (frontKept_readPat p) _)
  unfold fetchItems
  extract_lets x e stop l u
  exact .ite (.refl s) (.ite ((hread l _).trans (hstop u)) (hread l _))

theorem frontKept_injectionPair (s : State) (p : Nat) : FrontKept s (injectionPair s p).2 := by
  unfold injectionPair
  dsimp only
  split
  · exact .refl s
  · split <;> exact .refl s
  · exact .refl s
  · split
    · exact .refl s
    · exact .setPlayer s p _

/-! ### The injection point (R132) -/

/-- The pair that input `i`'s player has ready, and the state with the player moved on. -/
def injReady (s : State) (i : Nat) : Option (Nat × Int) × State := injectionPair (patReport (fetchItems s (3 + i) 256)) (3 + i)

/-- The player has been asked for a pair; a gap in its playing is counted (R337). -/
def injAsked (s : State) (i : Nat) : State :=
  if (injReady s i).1 = none ∧ (player (injReady s i).2 (3 + i)).st = .playing
  then raise (bump (injReady s i).2 R.YAR_PGAP_CNT) F.YAR_EVT_PGAP else (injReady s i).2

theorem frontKept_injAsked (s : State) (i : Nat) : FrontKept s (injAsked s i) := by
  have hready : FrontKept s (injReady s i).2 :=
    (frontKept_fetchItems s (by omega) 256).trans ((frontKept_patReport _).trans (frontKept_injectionPair _ _))
  exact .ite (hready.trans ((FrontKept.bump _ (o := R.YAR_PGAP_CNT) 1 (by decide)).trans (FrontKept.raise _ F.YAR_EVT_PGAP (by decide)))) hready

theorem inject_off {s : State} {i : Nat} (h : isSet s (F.RXF_CTRL_INJ_EN i) = false) (v : Int) (mark : Nat) :
    inject s i v mark = (v, mark, false, injAsked s i) := by
  unfold inject
  exact if_pos (by simp [h])

/-- Beyond that, an enabled injection point that is given no pair counts the gap. -/
theorem inject_state (s : State) (i : Nat) (v : Int) (mark : Nat) : (inject s i v mark).2.2.2 = injAsked s i ∨
    (inject s i v mark).2.2.2 = raise (bump (injAsked s i) (R.RXF_INJ_GAP i)) (F.RXF_EVT_INJ_GAP i) := by
  have hasked := injAsked.eq_1 s i
  unfold inject
  rw [← injReady]
  generalize injReady s i = ready at hasked ⊢
  rcases ready with ⟨pr, u⟩
  dsimp -zeta only at hasked ⊢
  extract_lets t
  change _ = t at hasked
  rw [hasked]
  clear_value t
  split
  · exact .inl rfl
  · cases pr with
    | none => exact .inr rfl
    | some pair =>
      dsimp only
      split
      · exact .inl rfl
      · split
        · exact .inl rfl
        · exact .inl rfl

theorem rx_inject (s : State) (i : Nat) (v : Int) (mark : Nat) : (inject s i v mark).2.2.2.rx = s.rx := by
  refine .trans ?_ (FrontKept.rx (frontKept_injAsked s i))
  rcases inject_state s i v mark with h | h
  · rw [h]
  · rw [h, raise_rx, bump_rx]

end Sys2Proof.Machine

namespace Sys2Proof.Machine

/-! ### A working-rate sample, stage by stage (R120, R127, R132, R133, R139 to R141) -/

/-- Where and when a sample was at the pads, and what held there (R120, R135). -/
structure SamplePlace where
  w : Nat
  cidx : Nat
  ts : Nat
  flags : Bool × Bool

/-- Teasel's sums take a sample (R138). -/
def RxIn.summed (x : RxIn) (good subbed : Bool) (v y : Int) : RxIn :=
  { x with
    validCnt := x.validCnt + b2n good, subCnt := x.subCnt + b2n (good && subbed),
    sumX := x.sumX + (if good && subbed then v.natAbs * v.natAbs else 0),
    sumY := x.sumY + (if good && subbed then y.natAbs * y.natAbs else 0) }

/-- The taps behind the injection point and behind Teasel take a sample (R307). -/
def tapsFed (s : State) (i : Nat) (pl : SamplePlace) (mark : Nat) (v : Int) (d : DlySample) : State :=
  feedSample (feedSample s 1 i { time := pl.ts, cidx := pl.cidx, phase := pl.w, vals := [tapCode mark v], hold := pl.flags.1 }) 2 i
    { time := pl.ts, cidx := pl.cidx, phase := pl.w, vals := [tapCode d.mark d.val], hold := pl.flags.1 }

/-- Stage 6, for a sample `d` that Teasel has passed on. -/
def blankerPassed (s : State) (i : Nat) (pl : SamplePlace) (mark : Nat) (v y : Int) (subbed : Bool) (d : DlySample) : State :=
  let b := blank s i (meter s ((rxIn s i).summed (mark = 0) subbed v y) d.val) d
  leaveStage6 (tapsFed (bump (setRx s i b.1) (R.RXF_ERS_CNT i) b.2) i pl mark v d) i

/-- The sums of the cycle take a sample (R143). -/
def RxIn.cycled (x : RxIn) (v : Int) (mark : Nat) : RxIn :=
  { x with
    cycAll := x.cycAll + 1, cycValid := x.cycValid + b2n (mark == 0), cycLink := x.cycLink + b2n (mark == 3),
    cycSq := x.cycSq + v.natAbs * v.natAbs }

/-- A saturation of stage 5, and whether any stage saturated, are counted (R127, R138). -/
def satCounted (s : State) (i : Nat) (o5 o : Bool) : State := satInput (if o5 then raiseBit s (R.TSL_EVT i) 2 else s) i o

/-- What the blanker takes in of a sample after Teasel. -/
def blankerInput (s : State) (i : Nat) (pl : SamplePlace) (mark : Nat) (y : Int) (o : Bool) (e : Int) : DlySample :=
  if mark ≠ 0 then { val := 0, mark := mark, w := pl.w, cidx := pl.cidx, ts := pl.ts, hold := pl.flags.1, isVoid := pl.flags.2 }
  else if o then { val := 0, mark := 2, w := pl.w, cidx := pl.cidx, ts := pl.ts, hold := pl.flags.1, isVoid := pl.flags.2 }
  else { val := y, mark := 0, w := pl.w, cidx := pl.cidx, ts := pl.ts, hold := pl.flags.1, isVoid := pl.flags.2,
         e := if domainOn s 7 then some (e, (rxIn s i).res) else none }

/-- Stages 5 and 6, for a sample that the injection point has passed on. -/
def teaselPassed (s : State) (i : Nat) (pl : SamplePlace) (mark : Nat) (v : Int) (o : Bool) : State :=
  let s := setRx s i ((rxIn s i).cycled v mark)
  let r := teasel s i v pl.w (subOn s i pl.flags.1 pl.flags.2)
  let y := sat18 r.1
  let o5 := y.2 && mark == 0
  let s := satCounted s i o5 (o || o5)
  blankerPassed s i pl mark v y.1 r.2.1 (blankerInput s i pl mark y.1 o5 r.2.2)

/-- Stages 4 to 6, for a sample that the FIR has given. -/
def injectionPassed (s : State) (i : Nat) (pl : SamplePlace) (mark : Nat) (v : Int) (o3 : Bool) : State :=
  let j := inject s i v mark
  teaselPassed j.2.2.2 i pl j.2.1 j.1 (o3 || j.2.2.1)

/-- The template follows a gain change once the window holds no sample of the old gain (R135). -/
def RxIn.rescaled (x : RxIn) (taps : Nat) : RxIn :=
  match x.scale with
  | some (a, b) => if (x.line.take taps).all fun e => e.2.2 == b then scaleTmpl x a b else x
  | none => x

/-- The input has given an output: its next window begins, and it settles by one (R124). -/
def RxIn.stepped (x : RxIn) (flags : Bool × Bool) : RxIn := { x with phase := 0, settle := x.settle - 1, flags := flags }

def sampleBegun (s : State) (i : Nat) (flags : Bool × Bool) : State :=
  setB (setRx s i (((rxIn s i).rescaled (firTaps s i)).stepped flags)) (F.RXF_STATUS_SETTLING i)
    (((rxIn s i).rescaled (firTaps s i)).settle - 1 != 0)

/-- Stages 3 to 6, for a sample of known place. -/
def firPassed (s : State) (i : Nat) (pl : SamplePlace) : State :=
  let y := firOut s i
  injectionPassed (sampleBegun s i pl.flags) i pl y.2.1 y.1 y.2.2

/-- Hold-over and void cycle as they stand at a sample of cycle `c`. -/
def sampleFlags (s : State) (i c : Nat) : Bool × Bool :=
  if c = cidxNow s then (isSet s F.MSY_STATUS_HOLD, s.mains.voidNow) else (rxIn s i).flags

/-- The stages, once a swap that waits for the sample's cycle has taken effect. -/
def bankPassed (s : State) (i w ts : Nat) (bad : List Nat) : State :=
  let p := atPads s i w ts
  firPassed (perrBins s i bad) i ⟨p.1, p.2.1, p.2.2, sampleFlags s i p.2.1⟩

/-- A swap that waits for cycle `c` takes effect (R130). -/
def swapTaken (s : State) (i c : Nat) : State :=
  if isSet s (F.RXF_STATUS_SWAP_PEND i) && c != (rxIn s i).swapAt && !ahead (rxIn s i).swapAt c then firSwapEffect s i else s

/-- The model's sample as these stages, compared with what they call left open: the kernel is not to compute an answer of `atPads`, `firOut`,
`inject`, `teasel`, `sat18` or `blank` to see that both sides take it apart alike. The `id` keeps it a proof for any such functions, applied
to the model's own afterwards. -/
theorem workingSample_def :
    workingSample = fun s i w ts bad => bankPassed (swapTaken s i (atPads s i w ts).2.1) i w ts bad := by
  generalize h1 : bankPassed = f1
  delta bankPassed at h1
  generalize h2 : firPassed = f2 at h1
  delta firPassed at h2
  generalize h3 : injectionPassed = f3 at h2
  delta injectionPassed at h3
  generalize h4 : teaselPassed = f4 at h3
  delta teaselPassed at h4
  generalize h5 : blankerPassed = f5 at h4
  delta blankerPassed at h5
  delta workingSample
  generalize atPads = pads at *
  generalize firOut = fir at *
  generalize inject = inj at *
  generalize teasel = tsl at *
  generalize sat18 = sat at *
  generalize blank = blk at *
  revert pads fir inj tsl sat blk
  refine id ?_
  intros
  subst_vars
  rfl

theorem workingSample_eq (s : State) (i w ts : Nat) (bad : List Nat) : ∃ c pl, workingSample s i w ts bad =
    firPassed (perrBins (swapTaken s i c) i bad) i pl := by
  rw [workingSample_def]
  exact ⟨(atPads s i w ts).2.1, _, rfl⟩

end Sys2Proof.Machine

namespace Sys2Proof.Machine

/-! ### What the stages leave of an input's samples -/

/-- The samples on their way through an input, its counts of them and its coefficients are as before: its template may differ. -/
structure SameFlow (x y : RxIn) : Prop where
  line : y.line = x.line
  phase : y.phase = x.phase
  settle : y.settle = x.settle
  cycAll : y.cycAll = x.cycAll
  dly : y.dly = x.dly
  coef : y.coef = x.coef

namespace SameFlow

variable {x y z : RxIn}

theorem refl (x : RxIn) : SameFlow x x := ⟨rfl, rfl, rfl, rfl, rfl, rfl⟩

theorem trans (h : SameFlow x y) (k : SameFlow y z) : SameFlow x z :=
  ⟨k.line.trans h.line, k.phase.trans h.phase, k.settle.trans h.settle, k.cycAll.trans h.cycAll, k.dly.trans h.dly, k.coef.trans h.coef⟩

theorem of_eq (h : y = x) : SameFlow x y := h ▸ refl x

theorem ite {c : Prop} [Decidable c] (hy : SameFlow x y) (hz : SameFlow x z) : SameFlow x (if c then y else z) := by
  split
  · exact hy
  · exact hz

theorem putBin (x : RxIn) (b : Nat) (v : Int × Nat) : SameFlow x (x.putBin b v) := ⟨rfl, rfl, rfl, rfl, rfl, rfl⟩

theorem noTmpl (x : RxIn) : SameFlow x x.noTmpl := ⟨rfl, rfl, rfl, rfl, rfl, rfl⟩

theorem foldl {α : Type} (l : List α) (f : RxIn → α → RxIn) (hf : ∀ y a, SameFlow y (f y a)) (x : RxIn) : SameFlow x (l.foldl f x) := by
  induction l generalizing x with
  | nil => exact refl x
  | cons a l ih => exact (hf x a).trans (ih _)

theorem scaleTmpl (x : RxIn) (old new : Nat) : SameFlow x (scaleTmpl x old new) :=
  (noTmpl x).trans (foldl x.tmpl _ (fun y _ => putBin y _ _) _)

theorem rescaled (x : RxIn) (taps : Nat) : SameFlow x (x.rescaled taps) := by
  unfold RxIn.rescaled
  split
  · exact ite (scaleTmpl x _ _) (refl x)
  · exact refl x

theorem learn (on : Bool) (x : RxIn) (d : DlySample) : SameFlow x (learn on x d) := by
  unfold Machine.learn
  split
  · exact refl x
  · exact ite (refl x) (putBin x _ _)

end SameFlow

theorem firSwapEffect_flow (s : State) (i : Nat) : SameFlow (rxIn s i) (rxIn (firSwapEffect s i) i) := by
  by_cases h : isSet s (F.RXF_STATUS_SWAP_PEND i) = true
  · exact (congrArg (SameFlow _) (firSwapEffect_spec h).2).mpr (.ite (.refl _) (.noTmpl _))
  · exact .of_eq (congrArg (rxIn · i) (firSwapEffect_none (by simpa using h)))

theorem firSwapEffect_change (s : State) (i : Nat) : InputChange s (firSwapEffect s i) i [R.RXF_STATUS i, R.RXF_EVT i, R.TSL_EVT i] := by
  by_cases h : isSet s (F.RXF_STATUS_SWAP_PEND i) = true
  · exact (firSwapEffect_spec h).1.change
  · exact (firSwapEffect_none (by simpa using h)).symm ▸ .refl s

theorem swapTaken_change (s : State) (i c : Nat) : InputChange s (swapTaken s i c) i [R.RXF_STATUS i, R.RXF_EVT i, R.TSL_EVT i] :=
  .ite (firSwapEffect_change s i) (.refl s)

theorem swapTaken_flow (s : State) (i c : Nat) : SameFlow (rxIn s i) (rxIn (swapTaken s i c) i) := by
  unfold swapTaken
  split
  · exact firSwapEffect_flow s i
  · exact .refl _

theorem swapTaken_none {s : State} {i : Nat} (h : isSet s (F.RXF_STATUS_SWAP_PEND i) = false) (c : Nat) : swapTaken s i c = s := by
  simp [swapTaken, h]

theorem perrBins_change (s : State) (i : Nat) (bad : List Nat) : InputChange s (perrBins s i bad) i [R.TSL_PERR_CNT i, R.TSL_EVT i] :=
  .ite (.refl s) ((InputChange.setRx s _).trans ((InputChange.wrN _ _ (.head _)).trans (.raiseBit _ 3 (.tail _ (.head _)))))

theorem perrBins_flow (s : State) (i : Nat) (bad : List Nat) : SameFlow (rxIn s i) (rxIn (perrBins s i bad) i) := by
  unfold perrBins
  split
  · exact .refl _
  · rw [rxIn_raiseBit, bump, rxIn_wrN, rxIn_updRx_same]
    exact .foldl _ _ (fun x b => .putBin x b _) _

/-- What the swap and the bins of bad parity leave. -/
theorem sampleRead_change (s : State) (i c : Nat) (bad : List Nat) : InputChange s (perrBins (swapTaken s i c) i bad) i
    [R.RXF_STATUS i, R.RXF_EVT i, R.TSL_EVT i, R.TSL_PERR_CNT i] :=
  ((swapTaken_change s i c).mono (by simp)).trans ((perrBins_change _ i bad).mono (by simp))

theorem sampleRead_flow (s : State) (i c : Nat) (bad : List Nat) :
    SameFlow (rxIn s i) (rxIn (perrBins (swapTaken s i c) i bad) i) := (swapTaken_flow s i c).trans (perrBins_flow _ i bad)

theorem sampleBegun_change (s : State) (i : Nat) (flags : Bool × Bool) : InputChange s (sampleBegun s i flags) i [R.RXF_STATUS i] :=
  (InputChange.setRx s _).trans (.wrN _ _ (.head _))

theorem rxIn_sampleBegun (s : State) (i : Nat) (flags : Bool × Bool) :
    rxIn (sampleBegun s i flags) i = ((rxIn s i).rescaled (firTaps s i)).stepped flags := by
  rw [sampleBegun, rxIn_setB, rxIn_setRx_same]

/-! ### The FIR (R124 to R127) -/

theorem firOut_off {s : State} {i : Nat} (h : isSet s (F.RXF_CTRL_EN i) = false) : firOut s i = (0, 3, false) := by
  unfold firOut
  exact if_pos (by simp [h])

/-- The FIR's sum over the window, rounded (R127). -/
def firSum (s : State) (i : Nat) : Int :=
  ((((rxIn s i).line.take (firTaps s i)).zipIdx.map fun (e, n) => firCoef s i n * e.1).sum + 2 ^ (firShift s i - 1)) / 2 ^ firShift s i

/-- Limited to 18 bits and symmetric; a sum beyond gives no sample, and counts (R127). -/
def limited (y : Int) : Int × Nat × Bool := if y.natAbs ≤ 131071 then (y, 0, false) else (0, 2, true)

theorem sat18_within {y : Int} (h : y.natAbs ≤ 131071) : sat18 y = (y, false) := by
  have hclamp : clampI 131071 y = y := by
    unfold clampI
    rw [if_neg (by omega), if_neg (by omega)]
  rw [sat18, hclamp]
  exact congrArg (Prod.mk y) (decide_eq_false (by omega))

theorem sat18_beyond {y : Int} (h : 131071 < y.natAbs) : (sat18 y).2 = true := decide_eq_true h

theorem limited_eq (y : Int) : (if (sat18 y).2 then (0, 2, true) else ((sat18 y).1, 0, false)) = limited y := by
  unfold limited
  by_cases h : y.natAbs ≤ 131071
  · rw [sat18_within h, if_pos h]
    rfl
  · rw [sat18_beyond (by omega), if_neg h]
    rfl

/-- No sample of the window is marked, and all were taken at one gain. -/
def CleanWindow (win : List (Int × Nat × Nat)) (gain : Nat) : Prop := ∀ e ∈ win, e.2.1 = 0 ∧ e.2.2 = gain

theorem CleanWindow.top {win : List (Int × Nat × Nat)} {gain : Nat} (h : CleanWindow win gain) :
    win.foldl (fun m e => max m e.2.1) 0 = 0 := by
  induction win with
  | nil => rfl
  | cons e win ih =>
    rw [List.foldl_cons, (h e List.mem_cons_self).1]
    exact ih fun a ha => h a (List.mem_cons_of_mem e ha)

theorem CleanWindow.unmixed {win : List (Int × Nat × Nat)} {gain : Nat} (h : CleanWindow win gain) :
    (win.any fun e => e.2.2 != (win.headD (0, 0, 0)).2.2) = false := by
  cases win with
  | nil => rfl
  | cons e win =>
    rw [List.any_eq_false]
    intro a ha
    simp [(h a ha).2, (h e List.mem_cons_self).2]

theorem firOut_clean {s : State} {i : Nat} (hen : isSet s (F.RXF_CTRL_EN i) = true) (hsafe : inSafeAt s 1 i = false)
    (hhv : s.rel.hvLost = false) (hsettle : (rxIn s i).settle = 0) {gain : Nat}
    (hwin : CleanWindow ((rxIn s i).line.take (firTaps s i)) gain) : firOut s i = limited (firSum s i) := by
  rw [← limited_eq]
  unfold firOut
  dsimp only
  rw [if_neg (by simp [hen, hsafe, hhv]), hwin.top, hwin.unmixed, if_neg (by simp [hsettle])]
  rfl

end Sys2Proof.Machine

namespace Sys2Proof.Machine

/-! ### The blanker (R139 to R141) -/

/-- What the blanker leaves of an input as a sample enters it: one more sample is held. -/
structure BlankerTook (x y : RxIn) : Prop where
  phase : y.phase = x.phase
  settle : y.settle = x.settle
  cycAll : y.cycAll = x.cycAll
  held : y.dly.length = x.dly.length + 1

/-- A run blanks samples that the blanker holds already, and drops none. -/
theorem length_blankedRun (l : List DlySample) (pre : Nat) (f : DlySample → DlySample) :
    ((l.take pre).map f ++ l.drop pre).length = l.length := by
  rw [List.length_append, List.length_map, ← List.length_append, List.take_append_drop]

theorem blank_took (s : State) (i : Nat) (x : RxIn) (d : DlySample) : BlankerTook x (blank s i x d).1 := by
  unfold blank
  extract_lets p sq seeding y
  have hy : SameFlow x y := ⟨rfl, rfl, rfl, rfl, rfl, rfl⟩
  clear_value y
  obtain ⟨-, hphase, hsettle, hcycAll, hdly, -⟩ := hy
  have hheld : ∀ e : DlySample, (e :: y.dly).length = x.dly.length + 1 := fun e => by rw [List.length_cons, hdly]
  split
  · exact ⟨hphase, hsettle, hcycAll, hheld _⟩
  · split
    · exact ⟨hphase, hsettle, hcycAll, List.length_cons.trans ((congrArg (· + 1) (length_blankedRun _ _ _)).trans (hheld d))⟩
    · split
      · exact ⟨hphase, hsettle, hcycAll, hheld _⟩
      · exact ⟨hphase, hsettle, hcycAll, hheld _⟩

/-- A sample that cannot be blanked stands at the head as it came. -/
theorem blank_head {s : State} {i : Nat} (x : RxIn) {d : DlySample} (h : isSet s (F.RXF_CTRL_BLANK_EN i) = false ∨ d.mark ≠ 0) :
    (blank s i x d).1.dly.head? = some d := by
  unfold blank
  extract_lets p sq seeding y
  clear_value y
  split
  case isTrue => rfl
  case isFalse hon =>
    have hmark : d.mark ≠ 0 := h.resolve_left (by simpa using hon)
    rw [if_neg (by simp [hmark]), if_neg (by simp [hmark])]
    rfl

theorem meter_flow (s : State) (x : RxIn) (v : Int) : SameFlow x (meter s x v) := by
  unfold meter
  dsimp only
  split
  · exact ⟨rfl, rfl, rfl, rfl, rfl, rfl⟩
  · exact ⟨rfl, rfl, rfl, rfl, rfl, rfl⟩

theorem RxIn.summed_flow (x : RxIn) (good subbed : Bool) (v y : Int) : SameFlow x (x.summed good subbed v y) := ⟨rfl, rfl, rfl, rfl, rfl, rfl⟩

/-! ### The end of stage 6 (R119, R133) -/

theorem FrontKept.of_capture {s t : State} (h : CaptureOnly s t) : FrontKept s t := .intro h.rx fun _ _ _ => h.rd (by omega) (by omega)

theorem frontKept_feedLanes (s : State) (i : Nat) (a : Samp) : FrontKept s (feedLanes s i a) := by
  have hlane : ∀ (u : State) (l : Nat), FrontKept u (feedLane u i a l) := fun u l => by
    unfold feedLane
    dsimp only
    split
    · exact .refl u
    · exact .of_data rfl rfl
  exact .ite (.refl s) (.foldl _ _ hlane s)

/-- The oldest sample is gone, and `m` follows it. -/
def RxIn.left (x : RxIn) (m : Nat) : RxIn := { x with dly := x.dly.dropLast, m := m }

theorem leaveStage6_short {s : State} {i : Nat} (h : (rxIn s i).dly.length ≤ 32) : leaveStage6 s i = s := by
  unfold leaveStage6
  exact if_pos h

theorem leaveStage6_long {s : State} {i : Nat} (h : 32 < (rxIn s i).dly.length) : ∃ m on d, ∃ it : Item, ∃ a : Samp, leaveStage6 s i =
    feedLanes (feedSample (setRx s i (learn on ((rxIn s i).left m) d)) 3 i it) i a := by
  unfold leaveStage6
  dsimp only
  rw [if_neg (by omega)]
  exact ⟨_, _, _, _, _, rfl⟩

/-- What the chain leaves of the other inputs, and of the registers of this one but some. -/
structure ChainKept (s t : State) (i : Nat) (but : List Nat) : Prop where
  others : ∀ q, q ≠ i → rxIn t q = rxIn s q
  regs : ∀ o, 0x1000 ≤ o → o < 0x1C00 → o ∉ but → rdN t o = rdN s o

namespace ChainKept

variable {s t u : State} {i : Nat} {but : List Nat}

theorem refl (s : State) : ChainKept s s i but := ⟨fun _ _ => rfl, fun _ _ _ _ => rfl⟩

theorem trans (h : ChainKept s t i but) (k : ChainKept t u i but) : ChainKept s u i but :=
  ⟨fun q hq => (k.others q hq).trans (h.others q hq), fun o hl hh ho => (k.regs o hl hh ho).trans (h.regs o hl hh ho)⟩

theorem mono {but' : List Nat} (h : ChainKept s t i but) (hsub : but ⊆ but') : ChainKept s t i but' :=
  ⟨h.others, fun o hl hh ho => h.regs o hl hh fun hmem => ho (hsub hmem)⟩

theorem of_change (h : InputChange s t i but) : ChainKept s t i but :=
  ⟨h.only.2.1, fun _ _ _ ho => congrArg BitVec.toNat (h.rd ho)⟩

theorem of_front (h : FrontKept s t) : ChainKept s t i but :=
  ⟨fun q _ => rxIn_congr h.rx q, fun _ hl hh _ => congrArg BitVec.toNat (h.rd hl hh)⟩

end ChainKept

theorem head?_dropLast {α : Type} {l : List α} (h : 1 < l.length) : l.dropLast.head? = l.head? := by
  cases l with
  | nil => rfl
  | cons a l =>
    cases l with
    | nil => simp at h
    | cons b l => rfl

/-- What the end of stage 6 leaves: beyond 32 samples the oldest is gone. -/
structure StageLeft (s t : State) (i : Nat) : Prop where
  kept : ChainKept s t i []
  phase : (rxIn t i).phase = (rxIn s i).phase
  settle : (rxIn t i).settle = (rxIn s i).settle
  cycAll : (rxIn t i).cycAll = (rxIn s i).cycAll
  held : (rxIn t i).dly.length = if (rxIn s i).dly.length ≤ 32 then (rxIn s i).dly.length else (rxIn s i).dly.length - 1
  head : (rxIn t i).dly.head? = (rxIn s i).dly.head?

theorem stageLeft_leaveStage6 (s : State) (i : Nat) : StageLeft s (leaveStage6 s i) i := by
  by_cases h : (rxIn s i).dly.length ≤ 32
  · rw [leaveStage6_short h]
    exact ⟨.refl s, rfl, rfl, rfl, (if_pos h).symm, rfl⟩
  · obtain ⟨m, on, d, it, a, hleft⟩ := leaveStage6_long (not_le.1 h)
    have hfed := (FrontKept.of_capture (captureOnly_feedSample (setRx s i (learn on ((rxIn s i).left m) d)) 3 i it)).trans
      (frontKept_feedLanes _ i a)
    have hkept : ChainKept s _ i [] := (ChainKept.of_change (.setRx s (learn on ((rxIn s i).left m) d))).trans (.of_front hfed)
    have hflow := SameFlow.learn on ((rxIn s i).left m) d
    have hrx : rxIn (leaveStage6 s i) i = learn on ((rxIn s i).left m) d := by rw [hleft, rxIn_congr (FrontKept.rx hfed), rxIn_setRx_same]
    rw [← hleft] at hkept
    refine ⟨hkept, ?_, ?_, ?_, ?_, ?_⟩
    · rw [hrx, hflow.phase]
      rfl
    · rw [hrx, hflow.settle]
      rfl
    · rw [hrx, hflow.cycAll]
      rfl
    · rw [hrx, hflow.dly, if_neg h]
      exact List.length_dropLast
    · rw [hrx, hflow.dly]
      exact head?_dropLast (by omega)

end Sys2Proof.Machine

namespace Sys2Proof.Machine

/-! ### The stages put together -/

/-- What the stages from Teasel on leave of the inputs: `n` samples more are counted, and one more is held, up to 32. -/
structure Passed (s t : State) (i n : Nat) : Prop where
  others : ∀ q, q ≠ i → rxIn t q = rxIn s q
  phase : (rxIn t i).phase = (rxIn s i).phase
  settle : (rxIn t i).settle = (rxIn s i).settle
  cycAll : (rxIn t i).cycAll = (rxIn s i).cycAll + n
  held : (rxIn t i).dly.length = if (rxIn s i).dly.length < 32 then (rxIn s i).dly.length + 1 else (rxIn s i).dly.length

theorem Passed.of_rx {s t u : State} {i n : Nat} (h : u.rx = s.rx) (k : Passed u t i n) : Passed s t i n := by
  have hrx := rxIn_congr h
  obtain ⟨hothers, hphase, hsettle, hcycAll, hheld⟩ := k
  rw [hrx] at hphase hsettle hcycAll hheld
  exact ⟨fun q hq => (hothers q hq).trans (hrx q), hphase, hsettle, hcycAll, hheld⟩

/-- The registers that the blanker stores: its count of blanked samples. -/
def blankerRegs (i : Nat) : List Nat := [R.RXF_ERS_CNT i]

/-- What stage 6 leaves as a sample `d` enters it. -/
structure BlankerPassed (s t : State) (i : Nat) (d : DlySample) : Prop where
  passed : Passed s t i 0
  kept : ChainKept s t i (blankerRegs i)
  head : isSet s (F.RXF_CTRL_BLANK_EN i) = false ∨ d.mark ≠ 0 → (rxIn t i).dly.head? = some d

theorem BlankerTook.of_flow {x y z : RxIn} (h : SameFlow x y) (k : BlankerTook y z) : BlankerTook x z :=
  ⟨k.phase.trans h.phase, k.settle.trans h.settle, k.cycAll.trans h.cycAll, k.held.trans (by rw [h.dly])⟩

theorem blankerPassed_eq (s : State) (i : Nat) (pl : SamplePlace) (mark : Nat) (v y : Int) (subbed : Bool) (d : DlySample) :
    ∃ z n, BlankerTook (rxIn s i) z ∧ (isSet s (F.RXF_CTRL_BLANK_EN i) = false ∨ d.mark ≠ 0 → z.dly.head? = some d) ∧
      blankerPassed s i pl mark v y subbed d = leaveStage6 (tapsFed (bump (setRx s i z) (R.RXF_ERS_CNT i) n) i pl mark v d) i := by
  have hflow := ((rxIn s i).summed_flow (mark = 0) subbed v y).trans (meter_flow s _ d.val)
  exact ⟨_, _, .of_flow hflow (blank_took s i _ d), blank_head _, rfl⟩

theorem frontKept_tapsFed (s : State) (i : Nat) (pl : SamplePlace) (mark : Nat) (v : Int) (d : DlySample) :
    FrontKept s (tapsFed s i pl mark v d) :=
  (FrontKept.of_capture (captureOnly_feedSample _ _ _ _)).trans (FrontKept.of_capture (captureOnly_feedSample _ _ _ _))

theorem blankerPassed_spec (s : State) (i : Nat) (pl : SamplePlace) (mark : Nat) (v y : Int) (subbed : Bool) (d : DlySample) :
    BlankerPassed s (blankerPassed s i pl mark v y subbed d) i d := by
  obtain ⟨z, n, ⟨hphase, hsettle, hcycAll, hheld⟩, hhead, hpassed⟩ := blankerPassed_eq s i pl mark v y subbed d
  rw [hpassed]
  have hchange : InputChange s (bump (setRx s i z) (R.RXF_ERS_CNT i) n) i (blankerRegs i) := (InputChange.setRx s z).trans (.wrN _ _ (.head _))
  have hrx : rxIn (bump (setRx s i z) (R.RXF_ERS_CNT i) n) i = z := by rw [bump, rxIn_wrN, rxIn_setRx_same]
  have hfed := frontKept_tapsFed (bump (setRx s i z) (R.RXF_ERS_CNT i) n) i pl mark v d
  have hkept := (ChainKept.of_change hchange).trans (.of_front hfed)
  replace hrx := (rxIn_congr (FrontKept.rx hfed) i).trans hrx
  generalize tapsFed (bump (setRx s i z) (R.RXF_ERS_CNT i) n) i pl mark v d = u at hkept hrx
  obtain ⟨hlast, hphase', hsettle', hcycAll', hheld', hhead'⟩ := stageLeft_leaveStage6 u i
  rw [hrx] at hphase' hsettle' hcycAll' hheld' hhead'
  have hall := hkept.trans (hlast.mono (List.nil_subset _))
  refine ⟨⟨hall.others, hphase'.trans hphase, hsettle'.trans hsettle, hcycAll'.trans hcycAll, ?_⟩, hall, fun h => hhead'.trans (hhead h)⟩
  rw [hheld', hheld]
  split <;> split <;> omega

/-! #### Teasel (R133, R135, R138) -/

theorem subOn_off {s : State} {i : Nat} (h : isSet s (F.TSL_CFG_EN i) = false) (hold isVoid : Bool) : subOn s i hold isVoid = false := by
  simp [subOn, tslRuns, h]

theorem teasel_off (s : State) (i : Nat) (v : Int) (w : Nat) : ∃ e, teasel s i v w false = (v, false, e) := by
  unfold teasel
  exact ⟨_, if_neg (by simp)⟩

theorem rx_satInput (s : State) (i : Nat) (o : Bool) : (satInput s i o).rx = s.rx := by cases o <;> rfl

theorem rx_satCounted (s : State) (i : Nat) (o5 o : Bool) : (satCounted s i o5 o).rx = s.rx := by
  rw [satCounted, rx_satInput]
  cases o5 <;> rfl

/-- A saturation before Teasel is counted. -/
theorem rdN_satCounted (s : State) (i : Nat) (o : Bool) :
    rdN (satCounted s i false o) (R.RXF_SAT_CNT i) = satN (2 ^ 32 - 1) (rdN s (R.RXF_SAT_CNT i) + if o then 1 else 0) := by
  cases o with
  | false =>
    have hlt := rdN_lt s (R.RXF_SAT_CNT i)
    exact (if_pos (by simp only [Bool.false_eq_true, if_false]; omega)).symm
  | true => exact (rdN_setF_ne _ _ _ rxfReg_ne).trans (rdN_bump_same _ _)

theorem isSet_satCounted (s : State) (i : Nat) (o : Bool) :
    isSet (satCounted s i false o) (F.RXF_CTRL_BLANK_EN i) = isSet s (F.RXF_CTRL_BLANK_EN i) := by
  cases o with
  | false => rfl
  | true => exact (isSet_of_getF (getF_setF_away _ _ rxfReg_ne)).trans (isSet_of_getF (getF_wrN_ne _ _ _ _ rxfReg_ne))

theorem blankerInput_marked {s : State} {i mark : Nat} {pl : SamplePlace} {y e : Int} {o : Bool} (h : mark ≠ 0) :
    (blankerInput s i pl mark y o e).val = 0 ∧ (blankerInput s i pl mark y o e).mark = mark := by
  rw [blankerInput, if_pos h]
  exact ⟨rfl, rfl⟩

theorem blankerInput_good (s : State) (i : Nat) (pl : SamplePlace) (y e : Int) :
    (blankerInput s i pl 0 y false e).val = y ∧ (blankerInput s i pl 0 y false e).mark = 0 := by
  rw [blankerInput, if_neg (by simp), if_neg (by simp)]
  exact ⟨rfl, rfl⟩

theorem teaselPassed_eq (s : State) (i : Nat) (pl : SamplePlace) (mark : Nat) (v : Int) (o : Bool) : ∃ (y : Int × Bool) (subbed : Bool) (e : Int),
    (isSet s (F.TSL_CFG_EN i) = false → v.natAbs ≤ 131071 → y = (v, false)) ∧
    teaselPassed s i pl mark v o =
      let u := satCounted (setRx s i ((rxIn s i).cycled v mark)) i (y.2 && mark == 0) (o || (y.2 && mark == 0))
      blankerPassed u i pl mark v y.1 subbed (blankerInput u i pl mark y.1 (y.2 && mark == 0) e) := by
  refine ⟨_, _, _, fun hoff hv => ?_, rfl⟩
  obtain ⟨e, hteasel⟩ := teasel_off (setRx s i ((rxIn s i).cycled v mark)) i v pl.w
  rw [subOn_off (s := setRx s i ((rxIn s i).cycled v mark)) hoff, hteasel]
  exact sat18_within hv

theorem teaselPassed_passed (s : State) (i : Nat) (pl : SamplePlace) (mark : Nat) (v : Int) (o : Bool) :
    Passed s (teaselPassed s i pl mark v o) i 1 := by
  obtain ⟨y, subbed, e, -, hpassed⟩ := teaselPassed_eq s i pl mark v o
  rw [hpassed]
  extract_lets u
  obtain ⟨⟨hothers, hphase, hsettle, hcycAll, hheld⟩, -, -⟩ :=
    blankerPassed_spec u i pl mark v y.1 subbed (blankerInput u i pl mark y.1 (y.2 && mark == 0) e)
  have hsat : ∀ q, rxIn u q = rxIn (setRx s i ((rxIn s i).cycled v mark)) q := rxIn_congr (rx_satCounted _ i _ _)
  rw [hsat, rxIn_setRx_same] at hphase hsettle hcycAll hheld
  exact ⟨fun q hq => (hothers q hq).trans ((hsat q).trans (rxIn_setRx_ne _ _ hq)), hphase, hsettle, hcycAll, hheld⟩

/-- The sample stands at the head of the blanker, and a saturation before Teasel is counted. -/
structure SampleGiven (s t : State) (i : Nat) (val : Int) (mark : Nat) (o : Bool) : Prop where
  head : ((rxIn t i).dly.head?.map fun d => (d.val, d.mark)) = some (val, mark)
  count : rdN t (R.RXF_SAT_CNT i) = satN (2 ^ 32 - 1) (rdN s (R.RXF_SAT_CNT i) + if o then 1 else 0)

theorem blankerPassed_given {s : State} {i : Nat} (hi : i < 4) (x : RxIn) (pl : SamplePlace) (mark : Nat) (v y : Int) (subbed o : Bool)
    {d : DlySample} (h : isSet s (F.RXF_CTRL_BLANK_EN i) = false ∨ d.mark ≠ 0) :
    SampleGiven s (blankerPassed (satCounted (setRx s i x) i false o) i pl mark v y subbed d) i d.val d.mark o := by
  obtain ⟨-, ⟨-, hregs⟩, hhead⟩ := blankerPassed_spec (satCounted (setRx s i x) i false o) i pl mark v y subbed d
  rw [isSet_satCounted, isSet_setRx] at hhead
  refine ⟨by rw [hhead h]; rfl, ?_⟩
  rw [hregs _ (by unfold R.RXF_SAT_CNT; omega) (by unfold R.RXF_SAT_CNT; omega) (by simp [blankerRegs, R.RXF_SAT_CNT, R.RXF_ERS_CNT]),
    rdN_satCounted, rdN_setRx]

/-- A marked sample. -/
theorem teaselPassed_marked {s : State} {i mark : Nat} (hi : i < 4) (pl : SamplePlace) (v : Int) (o : Bool) (h : mark ≠ 0) :
    SampleGiven s (teaselPassed s i pl mark v o) i 0 mark o := by
  obtain ⟨y, subbed, e, -, hpassed⟩ := teaselPassed_eq s i pl mark v o
  have hsat : (y.2 && mark == 0) = false := by simp [h]
  rw [hpassed, hsat, Bool.or_false]
  extract_lets u
  obtain ⟨hval, hmark⟩ := blankerInput_marked (s := u) (i := i) (pl := pl) (y := y.1) (e := e) (o := false) h
  have hgiven := blankerPassed_given (s := s) hi ((rxIn s i).cycled v mark) pl mark v y.1 subbed o
    (d := blankerInput u i pl mark y.1 false e) (.inr (by rw [hmark]; exact h))
  rwa [hval, hmark] at hgiven

/-- A sample within the limits, with Teasel and the blanker off. -/
theorem teaselPassed_clean {s : State} {i : Nat} (hi : i < 4) (pl : SamplePlace) {v : Int} (o : Bool) (htsl : isSet s (F.TSL_CFG_EN i) = false)
    (hblank : isSet s (F.RXF_CTRL_BLANK_EN i) = false) (hv : v.natAbs ≤ 131071) : SampleGiven s (teaselPassed s i pl 0 v o) i v 0 o := by
  obtain ⟨y, subbed, e, hy, hpassed⟩ := teaselPassed_eq s i pl 0 v o
  rw [hpassed, hy htsl hv, Bool.false_and, Bool.or_false]
  extract_lets u
  obtain ⟨hval, hmark⟩ := blankerInput_good u i pl v e
  have hgiven := blankerPassed_given (s := s) hi ((rxIn s i).cycled v 0) pl 0 v v subbed o
    (d := blankerInput u i pl 0 v false e) (.inl hblank)
  rwa [hval, hmark] at hgiven

/-! #### The FIR and the injection point (R127, R132) -/

theorem firPassed_eq (s : State) (i : Nat) (pl : SamplePlace) : firPassed s i pl =
    injectionPassed (sampleBegun s i pl.flags) i pl (firOut s i).2.1 (firOut s i).1 (firOut s i).2.2 := rfl

theorem injectionPassed_passed (s : State) (i : Nat) (pl : SamplePlace) (mark : Nat) (v : Int) (o : Bool) :
    Passed s (injectionPassed s i pl mark v o) i 1 := by
  have hrx := rx_inject s i v mark
  unfold injectionPassed
  extract_lets j
  exact .of_rx hrx (teaselPassed_passed _ i pl _ _ _)

theorem injectionPassed_off {s : State} {i : Nat} (h : isSet s (F.RXF_CTRL_INJ_EN i) = false) (pl : SamplePlace) (mark : Nat) (v : Int)
    (o : Bool) : injectionPassed s i pl mark v o = teaselPassed (injAsked s i) i pl mark v o := by
  unfold injectionPassed
  rw [inject_off h]
  show teaselPassed _ i pl mark v (o || false) = _
  rw [Bool.or_false]

/-- What a working-rate sample leaves of its input. -/
structure SamplePassed (s t : State) (i : Nat) : Prop where
  others : ∀ q, q ≠ i → rxIn t q = rxIn s q
  phase : (rxIn t i).phase = 0
  settle : (rxIn t i).settle = (rxIn s i).settle - 1
  cycAll : (rxIn t i).cycAll = (rxIn s i).cycAll + 1
  held : (rxIn t i).dly.length = if (rxIn s i).dly.length < 32 then (rxIn s i).dly.length + 1 else (rxIn s i).dly.length

theorem firPassed_spec (s : State) (i : Nat) (pl : SamplePlace) : SamplePassed s (firPassed s i pl) i := by
  rw [firPassed_eq]
  have hflow := SameFlow.rescaled (rxIn s i) (firTaps s i)
  have hbegun := (sampleBegun_change s i pl.flags).only.2.1
  obtain ⟨hothers, hphase, hsettle, hcycAll, hheld⟩ :=
    injectionPassed_passed (sampleBegun s i pl.flags) i pl (firOut s i).2.1 (firOut s i).1 (firOut s i).2.2
  rw [rxIn_sampleBegun] at hphase hsettle hcycAll hheld
  refine ⟨fun q hq => (hothers q hq).trans (hbegun q hq), hphase, hsettle.trans ?_, hcycAll.trans ?_, hheld.trans ?_⟩
  · exact congrArg (· - 1) hflow.settle
  · exact congrArg (· + 1) hflow.cycAll
  · rw [← hflow.dly]
    rfl

theorem SamplePassed.of_flow {s t u : State} {i : Nat} (hothers : ∀ q, q ≠ i → rxIn u q = rxIn s q) (h : SameFlow (rxIn s i) (rxIn u i))
    (k : SamplePassed u t i) : SamplePassed s t i :=
  ⟨fun q hq => (k.others q hq).trans (hothers q hq), k.phase, k.settle.trans (by rw [h.settle]), k.cycAll.trans (by rw [h.cycAll]),
    k.held.trans (by rw [h.dly])⟩

theorem workingSample_passed (s : State) (i w ts : Nat) (bad : List Nat) : SamplePassed s (workingSample s i w ts bad) i := by
  obtain ⟨c, pl, hpassed⟩ := workingSample_eq s i w ts bad
  rw [hpassed]
  exact .of_flow (sampleRead_change s i c bad).only.2.1 (sampleRead_flow s i c bad) (firPassed_spec _ i pl)

end Sys2Proof.Machine

namespace Sys2Proof.Machine

/-! ### A working-rate sample of an input that is disabled, and one of a clean window (R124, R127) -/

theorem ChainKept.isSet {s t : State} {i : Nat} {but : List Nat} (h : ChainKept s t i but) {f : Fld} (hlow : 0x1000 ≤ f.off)
    (hhigh : f.off < 0x1C00) (hf : f.off ∉ but) : isSet t f = isSet s f := by
  simp only [Machine.isSet, getF, h.regs _ hlow hhigh hf]

theorem SampleGiven.of_count {s t u : State} {i mark : Nat} {val : Int} {o : Bool} (h : rdN u (R.RXF_SAT_CNT i) = rdN s (R.RXF_SAT_CNT i))
    (k : SampleGiven u t i val mark o) : SampleGiven s t i val mark o := ⟨k.head, by rw [k.count, h]⟩

/-- The registers stored before a sample comes to the injection point. -/
def firRegs (i : Nat) : List Nat := [R.RXF_STATUS i, R.RXF_EVT i, R.TSL_EVT i, R.TSL_PERR_CNT i]

/-- What a stage before Teasel keeps for a sample: the input's controls, and the count of its saturations. -/
structure ControlsKept (s t : State) (i : Nat) : Prop where
  en : isSet t (F.RXF_CTRL_EN i) = isSet s (F.RXF_CTRL_EN i)
  inj : isSet t (F.RXF_CTRL_INJ_EN i) = isSet s (F.RXF_CTRL_INJ_EN i)
  blank : isSet t (F.RXF_CTRL_BLANK_EN i) = isSet s (F.RXF_CTRL_BLANK_EN i)
  tsl : isSet t (F.TSL_CFG_EN i) = isSet s (F.TSL_CFG_EN i)
  count : rdN t (R.RXF_SAT_CNT i) = rdN s (R.RXF_SAT_CNT i)

theorem ChainKept.controls {s t : State} {i : Nat} (hi : i < 4) (h : ChainKept s t i (firRegs i)) : ControlsKept s t i := by
  have hctrl : R.RXF_CTRL i ∉ firRegs i ∧ 0x1000 ≤ R.RXF_CTRL i ∧ R.RXF_CTRL i < 0x1C00 := by
    simp only [firRegs, R.RXF_CTRL, R.RXF_STATUS, R.RXF_EVT, R.TSL_EVT, R.TSL_PERR_CNT, List.mem_cons, List.not_mem_nil, or_false]
    omega
  have htsl : R.TSL_CFG i ∉ firRegs i ∧ 0x1000 ≤ R.TSL_CFG i ∧ R.TSL_CFG i < 0x1C00 := by
    simp only [firRegs, R.TSL_CFG, R.RXF_STATUS, R.RXF_EVT, R.TSL_EVT, R.TSL_PERR_CNT, List.mem_cons, List.not_mem_nil, or_false]
    omega
  have hsat : R.RXF_SAT_CNT i ∉ firRegs i ∧ 0x1000 ≤ R.RXF_SAT_CNT i ∧ R.RXF_SAT_CNT i < 0x1C00 := by
    simp only [firRegs, R.RXF_SAT_CNT, R.RXF_STATUS, R.RXF_EVT, R.TSL_EVT, R.TSL_PERR_CNT, List.mem_cons, List.not_mem_nil, or_false]
    omega
  exact ⟨h.isSet hctrl.2.1 hctrl.2.2 hctrl.1, h.isSet hctrl.2.1 hctrl.2.2 hctrl.1, h.isSet hctrl.2.1 hctrl.2.2 hctrl.1,
    h.isSet htsl.2.1 htsl.2.2 htsl.1, h.regs _ hsat.2.1 hsat.2.2 hsat.1⟩

theorem sampleRead_controls (s : State) {i : Nat} (hi : i < 4) (c : Nat) (bad : List Nat) :
    ControlsKept s (perrBins (swapTaken s i c) i bad) i := (ChainKept.of_change (sampleRead_change s i c bad)).controls hi

theorem sampleBegun_controls (s : State) {i : Nat} (hi : i < 4) (flags : Bool × Bool) : ControlsKept s (sampleBegun s i flags) i :=
  (ChainKept.of_change ((sampleBegun_change s i flags).mono (List.cons_subset_cons _ (List.nil_subset _)))).controls hi

theorem injAsked_controls (s : State) {i : Nat} (hi : i < 4) : ControlsKept s (injAsked s i) i :=
  (ChainKept.of_front (frontKept_injAsked s i)).controls hi

theorem ControlsKept.trans {s t u : State} {i : Nat} (h : ControlsKept s t i) (k : ControlsKept t u i) : ControlsKept s u i :=
  ⟨k.en.trans h.en, k.inj.trans h.inj, k.blank.trans h.blank, k.tsl.trans h.tsl, k.count.trans h.count⟩

/-- With no injection a sample of the FIR goes on to Teasel, the controls as they were. -/
theorem firPassed_off {s : State} {i : Nat} (hi : i < 4) (hinj : isSet s (F.RXF_CTRL_INJ_EN i) = false) (pl : SamplePlace) :
    ∃ u, ControlsKept s u i ∧ firPassed s i pl = teaselPassed u i pl (firOut s i).2.1 (firOut s i).1 (firOut s i).2.2 := by
  have hbegun := sampleBegun_controls s hi pl.flags
  refine ⟨injAsked (sampleBegun s i pl.flags) i, hbegun.trans (injAsked_controls _ hi), ?_⟩
  rw [firPassed_eq, injectionPassed_off (hbegun.inj.trans hinj)]

/-- A disabled input gives a sample lost on the link. -/
theorem workingSample_off {s : State} {i : Nat} (hi : i < 4) (hen : isSet s (F.RXF_CTRL_EN i) = false)
    (hinj : isSet s (F.RXF_CTRL_INJ_EN i) = false) (w ts : Nat) (bad : List Nat) :
    ((rxIn (workingSample s i w ts bad) i).dly.head?.map fun d => (d.val, d.mark)) = some (0, 3) := by
  obtain ⟨c, pl, hpassed⟩ := workingSample_eq s i w ts bad
  have hread := sampleRead_controls s hi c bad
  rw [hpassed]
  generalize perrBins (swapTaken s i c) i bad = u at hread
  obtain ⟨v, -, hfir⟩ := firPassed_off hi (hread.inj.trans hinj) pl
  rw [hfir, firOut_off (hread.en.trans hen)]
  exact (teaselPassed_marked hi pl 0 false (by decide)).head

theorem perrBins_filter (s : State) {i : Nat} (hi : i < 4) (bad : List Nat) : SameFilter i s (perrBins s i bad) := by
  have hregs : ∀ {o : Nat}, o ∉ [R.TSL_PERR_CNT i, R.TSL_EVT i] → rd (perrBins s i bad) o = rd s o := (perrBins_change s i bad).rd
  refine ⟨hregs ?_, fun b hb => hregs ?_⟩
  · simp only [R.RXF_STATUS, R.TSL_EVT, R.TSL_PERR_CNT, List.mem_cons, List.not_mem_nil, or_false]
    omega
  · simp only [R.RXF_FIR_CFG, R.TSL_EVT, R.TSL_PERR_CNT, List.mem_cons, List.not_mem_nil, or_false]
    omega

theorem firSum_congr {s t : State} {i : Nat} (hfilter : SameFilter i s t) (hflow : SameFlow (rxIn s i) (rxIn t i)) : firSum t i = firSum s i := by
  simp only [firSum, hfilter.firTaps, hfilter.firShift, hfilter.firCoef hflow.coef, hflow.line]

/-- An enabled input whose window is clean gives the FIR's sum, limited; injection, blanker and Teasel are off. -/
theorem workingSample_clean {s : State} {i : Nat} (hi : i < 4) (hen : isSet s (F.RXF_CTRL_EN i) = true)
    (hinj : isSet s (F.RXF_CTRL_INJ_EN i) = false) (hblank : isSet s (F.RXF_CTRL_BLANK_EN i) = false)
    (htsl : isSet s (F.TSL_CFG_EN i) = false) (hswap : isSet s (F.RXF_STATUS_SWAP_PEND i) = false) (hhv : s.rel.hvLost = false)
    (hacts : s.par.acts = []) (hsettle : (rxIn s i).settle = 0) {gain : Nat}
    (hwin : CleanWindow ((rxIn s i).line.take (firTaps s i)) gain) (w ts : Nat) (bad : List Nat) :
    SampleGiven s (workingSample s i w ts bad) i (limited (firSum s i)).1 (limited (firSum s i)).2.1 (limited (firSum s i)).2.2 := by
  obtain ⟨c, pl, hpassed⟩ := workingSample_eq s i w ts bad
  have hread := sampleRead_controls s hi c bad
  rw [swapTaken_none hswap] at hpassed hread
  have hchange := perrBins_change s i bad
  have hfilter := perrBins_filter s hi bad
  have hflow := perrBins_flow s i bad
  rw [hpassed]
  generalize perrBins s i bad = u at *
  have hsafe : inSafeAt u 1 i = false := by
    rw [inSafeAt, hchange.acts, hacts]
    rfl
  have hfir : firOut u i = limited (firSum s i) := by
    rw [← firSum_congr hfilter hflow]
    have hrel : u.rel.hvLost = s.rel.hvLost := (congrArg (·.rel.hvLost) hchange.only.1 :)
    refine firOut_clean (gain := gain) (hread.en.trans hen) hsafe (hrel.trans hhv) (hflow.settle.trans hsettle) ?_
    rwa [hflow.line, hfilter.firTaps]
  obtain ⟨v, hkept, hgone⟩ := firPassed_off hi (hread.inj.trans hinj) pl
  rw [hgone, hfir]
  have hall := hread.trans hkept
  refine .of_count hall.count ?_
  unfold limited
  split
  · exact teaselPassed_clean hi pl false (hall.tsl.trans htsl) (hall.blank.trans hblank) ‹_›
  · exact teaselPassed_marked hi pl 0 true (by decide)

/-! ### The command (R119, R120) -/

theorem exec_rxWorkingSample_idle {s : State} {k : Fin 4} {w : BitVec 31} (ts : BitVec 64) (bad : List Nat)
    (h : domainOn s 6 = false ∨ phaseP ≤ w.toNat ∨
      (isSet s (F.RXF_CTRL_EN k.val) = true ∧ s.rel.hvLost = false ∧ (rxIn s k.val).phase < decim s k.val)) :
    exec (.rxWorkingSample k w ts bad) s = done s := by
  show execRxWorkingSample k w ts bad s = _
  unfold execRxWorkingSample
  dsimp only
  by_cases hidle : domainOn s 6 = false ∨ phaseP ≤ w.toNat
  · exact if_pos (by simpa using hidle)
  · obtain ⟨hen, hhv, hphase⟩ := (or_assoc.2 h).resolve_left hidle
    rw [if_neg (by simpa using hidle), if_pos (by simp [hen, hhv, hphase])]

theorem exec_rxWorkingSample {s : State} {k : Fin 4} {w : BitVec 31} (ts : BitVec 64) (bad : List Nat) (hon : domainOn s 6 = true)
    (hw : w.toNat < phaseP) (hdue : isSet s (F.RXF_CTRL_EN k.val) = true → s.rel.hvLost = false → decim s k.val ≤ (rxIn s k.val).phase) :
    exec (.rxWorkingSample k w ts bad) s = done (workingSample s k.val w.toNat ts.toNat bad) := by
  show execRxWorkingSample k w ts bad s = _
  unfold execRxWorkingSample
  dsimp only
  rw [if_neg (by simpa [hon] using hw), if_neg ?_]
  simpa using hdue

/-- Without injection a disabled input gives a sample lost on the link; an enabled one, its window clean and the blanker and Teasel off, gives
the FIR's sum. -/
theorem completes_rxWorkingSample {s : State} {k : Fin 4} {w : BitVec 31} (ts : BitVec 64) (bad : List Nat) (hon : domainOn s 6 = true)
    (hw : w.toNat < phaseP) (hdue : isSet s (F.RXF_CTRL_EN k.val) = true → s.rel.hvLost = false → decim s k.val ≤ (rxIn s k.val).phase) :
    Completes (.rxWorkingSample k w ts bad) s fun t => SamplePassed s t k.val ∧
      (isSet s (F.RXF_CTRL_EN k.val) = false → isSet s (F.RXF_CTRL_INJ_EN k.val) = false →
        ((rxIn t k.val).dly.head?.map fun d => (d.val, d.mark)) = some (0, 3)) ∧
      (isSet s (F.RXF_CTRL_EN k.val) = true → isSet s (F.RXF_CTRL_INJ_EN k.val) = false → isSet s (F.RXF_CTRL_BLANK_EN k.val) = false →
        isSet s (F.TSL_CFG_EN k.val) = false → isSet s (F.RXF_STATUS_SWAP_PEND k.val) = false → s.rel.hvLost = false → s.par.acts = [] →
        (rxIn s k.val).settle = 0 → CleanWindow ((rxIn s k.val).line.take (firTaps s k.val)) (rxIn s k.val).gain →
        SampleGiven s t k.val (limited (firSum s k.val)).1 (limited (firSum s k.val)).2.1 (limited (firSum s k.val)).2.2) := by
  refine completes_done (exec_rxWorkingSample ts bad hon hw hdue) ?_
  have hrx : ∀ q, rxIn (settle (workingSample s k.val w.toNat ts.toNat bad)) q = rxIn (workingSample s k.val w.toNat ts.toNat bad) q :=
    rxIn_congr (settle_rx _)
  have hcount : rdN (settle (workingSample s k.val w.toNat ts.toNat bad)) (R.RXF_SAT_CNT k.val) = _ :=
    settle_rdN _ (by unfold R.RXF_SAT_CNT; omega)
  obtain ⟨hothers, hphase, hsettle, hcycAll, hheld⟩ := workingSample_passed s k.val w.toNat ts.toNat bad
  refine ⟨?_, fun hen hinj => ?_, fun hen hinj hblank htsl hswap hhv hacts hsettled hwin => ?_⟩
  · rw [← hrx] at hphase hsettle hcycAll hheld
    exact ⟨fun q hq => (hrx q).trans (hothers q hq), hphase, hsettle, hcycAll, hheld⟩
  · rw [hrx]
    exact workingSample_off k.isLt hen hinj _ _ _
  · obtain ⟨hhead, hsat⟩ := workingSample_clean k.isLt hen hinj hblank htsl hswap hhv hacts hsettled hwin w.toNat ts.toNat bad
    exact ⟨by rw [hrx, hhead], hcount.trans hsat⟩

/-- The sample and the count of saturations, as the sum is within the limits or not. -/
theorem SampleGiven.of_limited {s t : State} {i : Nat} {y : Int} (h : SampleGiven s t i (limited y).1 (limited y).2.1 (limited y).2.2) :
    ((rxIn t i).dly.head?.map fun d => (d.val, d.mark)) = some (if y.natAbs ≤ 131071 then (y, 0) else (0, 2)) ∧
      rdN t (R.RXF_SAT_CNT i) = satN (2 ^ 32 - 1) (rdN s (R.RXF_SAT_CNT i) + if y.natAbs ≤ 131071 then 0 else 1) := by
  obtain ⟨hhead, hcount⟩ := h
  rw [hhead, hcount]
  unfold limited
  split
  · exact ⟨rfl, rfl⟩
  · exact ⟨rfl, rfl⟩

/-- Settles O37: each sample changes one input alone, told to the taps. A working-rate sample is followed stage by stage
(`workingSample_def`). A bin that TSL_TPL_IDX names beyond the template reads 0 and refuses the write, and BIN advances all the same: the
model's reading (log entry 36). -/
theorem samplesThroughAnInput : Obligations.SamplesThroughAnInput := by
  unfold Obligations.SamplesThroughAnInput
  intro s k hs
  refine ⟨fun code ovr erased => completes_converterSample hs code ovr erased,
    fun hoff code ovr erased => completes_settled (exec_converterSample_off code ovr erased hoff) hs rfl,
    fun hlost code ovr erased => completes_converterSample_lost hs code ovr erased hlost,
    fun w ts bad hidle => completes_settled (exec_rxWorkingSample_idle ts bad hidle) hs rfl, fun w ts bad hon hw hdue => ?_,
    fun h => completes_settled (exec_blankerSeedDone_idle h) hs rfl,
    fun h => completes_settled (exec_blankMaxrun_idle ((runFull_eq_false_iff s _).2 h)) hs rfl,
    completes_blankerSeedDone hs, fun hset hrun => completes_blankMaxrun hs ((runFull_iff s _).2 ⟨hset, hrun⟩),
    fun hreach => ⟨completes_templateRead hs hreach, completes_templateWrite hs hreach⟩⟩
  obtain ⟨t, hexec, ⟨hothers, hphase, hsettle, hcycAll, hheld⟩, hoff, hclean⟩ := completes_rxWorkingSample ts bad hon hw hdue
  exact ⟨t, hexec, hothers, hphase, hsettle, hcycAll, hheld, hoff, fun hen hinj hblank htsl hswap hhv hacts hsettled hwin =>
    (hclean hen hinj hblank htsl hswap hhv hacts hsettled hwin).of_limited⟩

end Sys2Proof.Machine
